-- ==== Sys2Proof/Word.lean ====
section
/-! DEFINITION. The words of the machine and the small vocabularies its instructions, events and state share. -/

namespace Sys2Proof

/-- A 64-bit register value (R206, R216). -/
abbrev W64 := BitVec 64
/-- A lane word of a tile (R242). -/
abbrev W32 := BitVec 32
/-- A byte of memory (R5). -/
abbrev Byte := BitVec 8

/-- The scopes of R142. -/
inductive Scope where
  | cl | qd | dv | sy
  deriving DecidableEq, Repr

/-- The mode of an A-core: T for tasks, S for firmware (R375). -/
inductive Mode where
  | t | s
  deriving DecidableEq, Repr

/-- What the Vigil core compares (R432): a branch, an engine command, a scalar store or atomic, the issue of a record, loop registers, and
the end of a task; and the operands of a supervisor instruction (R372). -/
inductive VigilKind where
  | branch | command | access | record | loop | ending | system
  deriving DecidableEq, Repr

/-- What a comparison point finds (R431): the copies agree, one `.tv` copy dissents, or nothing agrees. -/
inductive Cmp where
  | agree | dissent | differ
  deriving DecidableEq, Repr

/-- A single issue of an MMA either begins its passes or adds finished ones, compared first, into an accumulator row (R361, R367). -/
inductive MmaWork where
  | passes
  | add (cmp : Cmp)
  deriving DecidableEq, Repr

/-- A granule of a tile transfer and how its copies compare (R71, R288). -/
structure GranuleCmp where
  g : Nat
  cmp : Cmp
  deriving DecidableEq, Repr

/-- A snapshot slot as the chip that issued its group names it (R124). -/
structure GroupSlot where
  src : Nat
  slot : Nat
  deriving DecidableEq, Repr

/-- A source of end-to-end tags on one chip: a cluster, Samovar, or the decant engine (R467). -/
inductive TagAgent where
  | cluster (n : Nat) | samovar | decant
  deriving DecidableEq, Repr

/-- A request of this chip: its source and the tag that it carries (R467). -/
structure ReqId where
  agent : TagAgent
  tag : Nat
  deriving DecidableEq, Repr

/-- The source of a request of another chip (R467). -/
structure TagSource where
  chip : Nat
  agent : TagAgent
  deriving DecidableEq, Repr

/-- A transaction slot as a message names it, with the tag of that message (R133, R467). -/
structure TxTag where
  slot : Nat
  tag : Nat
  deriving DecidableEq, Repr

/-- The same with the chip that sends the message. -/
structure TxFrom where
  src : Nat
  slot : Nat
  tag : Nat
  deriving DecidableEq, Repr

/-- The chip that a join message names, the chip that sends it, and its tag (R467, R471). -/
structure JoinNote where
  chip : Nat
  src : Nat
  tag : Nat
  deriving DecidableEq, Repr

/-- A snapshot slot with the instant of the group that a query asks for (R124). -/
structure SlotAsk where
  slot : Nat
  t : Nat
  deriving DecidableEq, Repr

/-- A transaction slot whose votes are awaited, and whether a VOTE is known to be lost (R133, R467). -/
structure VoteWait where
  slot : Nat
  lost : Bool
  deriving DecidableEq, Repr

/-- A node as the chip that accepted it names it (R395). -/
structure NodeRef where
  src : Nat
  node : Nat
  deriving DecidableEq, Repr

/-- What a report about a replica says (R409): its tasks have retired, it has failed, or the originating chip has ended the node. -/
inductive ReplicaEnd where
  | done | failed
  | origin (failed : Bool)
  deriving DecidableEq, Repr

/-- The read-modify-writes of R293. -/
inductive AmoOp where
  | swap | add | and | or | xor | min | max | minn | maxn | cas
  deriving DecidableEq, Repr

/-- The bank-side operations of R100. -/
inductive BankOp where
  | red | cas | sax
  deriving DecidableEq, Repr

/-- A floating format of R241. -/
inductive Fmt where
  | f32 | f16 | bf16 | e4m3 | e5m2 | e2m1 | e8m0
  deriving DecidableEq, Repr

/-- A number format that a TYPE code of R213 names: raw bits, a two's-complement or natural integer of a
width, or a floating format. -/
inductive NumTy where
  | raw (w : Nat) | int (w : Nat) | nat (w : Nat) | fp (f : Fmt)
  deriving DecidableEq, Repr

/-- The scope of a shoot-down (R57, R387). -/
inductive ShootScope where
  | range (cid va len : Nat) | space (cid : Nat) | all
  deriving DecidableEq, Repr

/-- A mailbox message on its way (R78, R79, R311); `id` is the engine command that sends it. -/
structure MailMsg where
  srcChip : Nat
  srcCl : Nat
  chip : Nat
  cl : Nat
  cid : Nat
  id : Nat
  tag : Nat
  payload : List Byte
  deriving DecidableEq, Repr

/-- What a flit of the networks within a chip carries (R478): a unit of an engine command, a scalar access, a line that a core fetches, or a message
within the chip. -/
inductive NetUnit where
  | cmd (id : Nat)
  | access (seq : Nat)
  | fetch (x : Bool)
  | mail (m : MailMsg)
  deriving DecidableEq, Repr

/-- The answer to a mailbox message (R80). -/
inductive MailStatus where
  | delivered | full | disabled
  deriving DecidableEq, Repr

/-- A check unit of a memory (R434). -/
inductive MemUnit where
  | hbm (unit : Nat) | sp (cl granule : Nat) | tw (cl cell unit : Nat) | acc (cl element : Nat) | pe (cl reg : Nat) | file (cl word : Nat)
  | l1 (cl line : Nat)
  deriving DecidableEq, Repr

/-- What a scrubber finds in a check unit (R438). -/
inductive Scrubbed where
  | clean | corrected | uncorrectable
  deriving DecidableEq, Repr

/-- An error-ring record (R446). -/
structure ErrRec where
  gtc : Nat
  src : Nat
  rung : Nat
  event : Nat
  cid : Nat
  code : Nat
  detail : Nat
  addr : Nat
  info : Nat
  count : Nat
  tval : Nat
  deriving DecidableEq, Repr

/-- The answer to a Slober Link request (R469). -/
inductive RespStatus where
  | done | retry | offline | forbidden
  deriving DecidableEq, Repr

/-- A bank-side request (R100): element format, the byte address of the first touched element, the element
mask, the operands x, and the scalar s of a scale-accumulate or the expected and new value of a
compare-exchange. -/
structure BankReq where
  op : BankOp
  fmt : NumTy
  xfmt : NumTy
  addr : Nat
  xs : List Nat
  s : Nat
  c : Nat
  v : Nat
  deriving DecidableEq, Repr

/-- The configuration image (R482), as far as a field of it reaches a register or a table. -/
structure Image where
  chip : Nat
  rsvBase : Nat
  ptArea : Nat
  failed : List Nat
  skip : List Nat
  svc : Nat
  remap : List (Nat × Nat)
  portsOut : List Nat
  routes : List (Nat × List Nat)
  thresholds : List Nat
  alm : Nat
  gen : Nat
  sdtmo : Nat
  retired : List Nat
  erbase : Nat
  tvec : Nat
  energies : List Nat
  deriving DecidableEq, Repr

/-- What the checks and the training of a bring-up find (R480-R483); `times` are the clk that its seven steps take. -/
structure BootChecks where
  fwOk : Bool
  imgOk : Bool
  trainFail : List Nat
  ports : List Nat
  times : List Nat
  deriving DecidableEq, Repr

/-- The fields of an A-core instruction beside its opcode (R206). -/
structure AF where
  pcl : BitVec 2
  ocl : BitVec 4
  d : BitVec 6
  sa : BitVec 6
  sb : BitVec 6
  imm : BitVec 32
  deriving DecidableEq, Repr

/-- An operand field of an X syllable (R214): a register index with a view, or a queue operand. -/
inductive Opnd where
  | reg (i : BitVec 6) (view : BitVec 2)
  | queue (q : BitVec 4) (pop stall : Bool) (low : BitVec 2)
  deriving DecidableEq, Repr

/-- The fields of an X syllable beside its opcode (R212). -/
structure XF where
  ls : Bool
  pcl : BitVec 2
  ty : BitVec 4
  neg : Bool
  gp : BitVec 4
  d : Opnd
  a : Opnd
  b : Opnd
  c : Opnd
  fn : BitVec 8
  imm : BitVec 64
  deriving DecidableEq, Repr

end Sys2Proof
end

