-- ==== Sys2Proof/Config.lean ====
section
/-! DEFINITION. What an implementation fixes and the values the spec leaves open: constants without a body, of which nothing
can be proved but that they are values (log 8, log 12). -/

namespace Sys2Proof.Config

/-- A 64-bit value that the spec leaves open, drawn by number (log 8). -/
opaque free64 : Nat → BitVec 64

/-- The rounding, in a format named by exponent and fraction width, of a transcendental value that the model's interval
arithmetic does not separate from a rounding boundary (log 8): the function's number and the operand's bits. -/
opaque transcendental : Nat → Nat → Nat → Nat → Nat

/-- A SHAKE256 digest, of a sequence of numbers that stands for the bytes hashed (R480, R481; log 12). -/
opaque shake256 : List Nat → BitVec 256

/-- The Falcon-1024 attestation key pair that firmware derives from the device secret: the public and the private key (R481; log 12). -/
opaque falconKeys : Nat → Nat × Nat

/-- A Falcon-1024 signature, by a private key, of what it signs (R481; log 12). -/
opaque falconSign : Nat → List Nat → Nat

/-- The contents of the boot ROM and of the firmware image (R480; log 12). -/
opaque romBytes : List Nat
opaque firmwareBytes : List Nat

/-- The bytes of a configuration image (R482 gives what it holds and no layout; log 12). -/
opaque imageBytes : Image → List Nat

/-- The estimated energy, in nJ, of the events of an interval other than matrix passes, in a quad region: of the image's energies, the
interval's number and the quad (R474; log 66). -/
opaque otherEnergy : List Nat → Nat → Nat → Nat

/-- The area of a 2×2 quad region of the logic die, in 10^-6 cm² (R474; log 66). -/
opaque quadArea : Nat

/-- The EVENT of the error-ring record of a WLOAD that fails with 0x41, which the spec does not state (R368, R448; log 92). -/
opaque wloadEvent : Nat

/-- The number in INFO of the record of a control divergence of a kind of comparison, which R448 does not give (log 98). -/
opaque vigilKind : VigilKind → BitVec 32

/-- The hash by which a request's path is chosen (R466), of its destination chip and of its source: spec/ gives no function (log 13). -/
opaque pathHash : Nat → Nat → Nat

/-- The device secret of the part (R481; log 12). -/
opaque deviceSecret : Nat

end Sys2Proof.Config
end

