-- ==== Sys2Proof/Machine/Map.lean ====
section
/-! DEFINITION. Sparse tables keyed by numbers, in one canonical form: keys strictly rising and no entry equal to the
default an unlisted key reads as. Memories, register files and the other tables of the state are such tables. -/

namespace Sys2Proof.Machine

/-- A sparse table. `NMap (BitVec 8)` is a list of address and byte pairs. -/
abbrev NMap (α : Type) := List (Nat × α)

/-- The entry at key `i`, or the default. -/
def NMap.get {α : Type} (d : α) : NMap α → Nat → α
  | [], _ => d
  | (k, v) :: m, i => if i < k then d else if i = k then v else NMap.get d m i

/-- The entries above key `i` of a table whose leading keys may be at or below it. -/
def NMap.above {α : Type} : NMap α → Nat → NMap α
  | [], _ => []
  | (k, v) :: m, i => if k ≤ i then NMap.above m i else (k, v) :: m

/-- The table with key `i` reading as `v`; the canonical form is kept. -/
def NMap.set {α : Type} [DecidableEq α] (d : α) : NMap α → Nat → α → NMap α
  | [], i, v => if v = d then [] else [(i, v)]
  | (k, w) :: m, i, v =>
    if i < k then (if v = d then (k, w) :: m else (i, v) :: (k, w) :: m)
    else if i = k then (if v = d then NMap.above m i else (i, v) :: NMap.above m i)
    else (k, w) :: NMap.set d m i v

/-- Canonical form above a bound: keys strictly rise from `lo` on and no entry equals the default. -/
def NMap.wfFrom {α : Type} [DecidableEq α] (d : α) : Nat → NMap α → Bool
  | _, [] => true
  | lo, (k, v) :: m => decide (lo ≤ k) && !decide (v = d) && NMap.wfFrom d (k + 1) m

/-- The canonical form of a table. -/
def NMap.wf {α : Type} [DecidableEq α] (d : α) (m : NMap α) : Bool := NMap.wfFrom d 0 m

/-- The entries with keys from `lo` up to, not including, `hi`. -/
def NMap.slice {α : Type} (m : NMap α) (lo hi : Nat) : NMap α := m.filter fun e => decide (lo ≤ e.1) && decide (e.1 < hi)

/-- The table without the entries whose keys lie from `lo` up to, not including, `hi`. -/
def NMap.clear {α : Type} (m : NMap α) (lo hi : Nat) : NMap α := m.filter fun e => !(decide (lo ≤ e.1) && decide (e.1 < hi))

/-- An entry put before a table: left out if it is the default and the table's keys lie above it. -/
def NMap.cons {α : Type} [DecidableEq α] (d : α) (k : Nat) (v : α) : NMap α → NMap α
  | [] => if v = d then [] else [(k, v)]
  | (k', v') :: m => if v = d ∧ k < k' then (k', v') :: m else (k, v) :: (k', v') :: m

/-- The table with every value mapped by a function that keeps the default. -/
def NMap.mapVals {α : Type} [DecidableEq α] (d : α) (f : Nat → α → α) : NMap α → NMap α
  | [] => []
  | (k, v) :: m => NMap.cons d k (f k v) (NMap.mapVals d f m)

/-- The table of `f 0 … f (n-1)`, in canonical form. -/
def NMap.ofFn {α : Type} [DecidableEq α] (d : α) (n : Nat) (f : Nat → α) : NMap α :=
  (List.range n).filterMap fun i => if f i = d then none else some (i, f i)

/-- Bytes of memory; an unlisted address reads as 0 (R483, step 5). -/
abbrev Memory := NMap Byte

/-- One byte of memory. -/
def Memory.byte (m : Memory) (a : Nat) : Byte := NMap.get 0 m a

/-- The canonical form of a memory. -/
def Memory.wf (m : Memory) : Bool := NMap.wf (0 : Byte) m

/-- `n` bytes from address `a`, in ascending address order. -/
def Memory.read (m : Memory) (a n : Nat) : List Byte := (List.range n).map fun i => m.byte (a + i)

/-- Bytes stored from address `a` upward. -/
def Memory.write (m : Memory) (a : Nat) : List Byte → Memory
  | [] => m
  | b :: bs => Memory.write (NMap.set 0 m a b) (a + 1) bs

/-- The number that bytes in ascending address order hold (R5). -/
def ofBytes : List Byte → Nat
  | [] => 0
  | b :: bs => b.toNat + 256 * ofBytes bs

/-- The low `n` bytes of a number, in ascending address order (R5). -/
def toBytes : Nat → Nat → List Byte
  | 0, _ => []
  | n + 1, v => BitVec.ofNat 8 v :: toBytes n (v / 256)

/-- The little-endian number in the `n` bytes from address `a` (R5). -/
def Memory.readN (m : Memory) (a n : Nat) : Nat := ofBytes (m.read a n)

/-- The low `n` bytes of `v` stored little-endian from address `a` (R5). -/
def Memory.writeN (m : Memory) (a n v : Nat) : Memory := m.write a (toBytes n v)

/-- Bits [hi:lo] of a number (R5, R9). -/
def bits (v hi lo : Nat) : Nat := v / 2 ^ lo % 2 ^ (hi + 1 - lo)

/-- Bit [i] of a number. -/
def bit (v i : Nat) : Bool := v.testBit i

/-- 1 or 0. -/
def b2n (b : Bool) : Nat := if b then 1 else 0

/-- The two's-complement value of the low `n` bits of `v` (R9, SignExtend). -/
def sext (n v : Nat) : Int := (BitVec.ofNat n v).toInt

/-- The low `n` bits of an integer as a natural number (R9). -/
def wrap (n : Nat) (i : Int) : Nat := (i % (2 ^ n : Nat)).toNat

/-- `v` with bits [hi:lo] replaced by `x`. -/
def setBits (v hi lo x : Nat) : Nat := v - bits v hi lo * 2 ^ lo + x % 2 ^ (hi + 1 - lo) * 2 ^ lo

/-- An element put into a sorted list, after those that are not greater. -/
def insertLe {α : Type} (le : α → α → Bool) (x : α) : List α → List α
  | [] => [x]
  | y :: ys => if le y x then y :: insertLe le x ys else x :: y :: ys

/-- A list sorted; equal elements keep their order. -/
def sortLe {α : Type} (le : α → α → Bool) (l : List α) : List α := l.foldl (fun acc x => insertLe le x acc) []

/-- The ceiling of a quotient. -/
def cdiv (a b : Nat) : Nat := (a + b - 1) / b

end Sys2Proof.Machine
end

