-- ==== Sys2Proof/Machine/Flags.lean ====
section
/-! DEFINITION. Floating arithmetic and its exception flags (R241-R249, R251, R254, R256): exact dyadic values, one rounding,
special functions by interval arithmetic. -/

namespace Sys2Proof.Machine

/-! ### Formats and values (R241) -/

/-- Exponent bits, fraction bits and bias of a format. -/
def fmtExp : Fmt → Nat
  | .f32 => 8 | .f16 => 5 | .bf16 => 8 | .e4m3 => 4 | .e5m2 => 5 | .e2m1 => 2 | .e8m0 => 8
def fmtFrac : Fmt → Nat
  | .f32 => 23 | .f16 => 10 | .bf16 => 7 | .e4m3 => 3 | .e5m2 => 2 | .e2m1 => 1 | .e8m0 => 0
def fmtBias : Fmt → Nat
  | .f32 => 127 | .f16 => 15 | .bf16 => 127 | .e4m3 => 7 | .e5m2 => 15 | .e2m1 => 1 | .e8m0 => 127
/-- Width in bits. -/
def fmtWidth : Fmt → Nat
  | .f32 => 32 | .f16 => 16 | .bf16 => 16 | .e4m3 => 8 | .e5m2 => 8 | .e2m1 => 4 | .e8m0 => 8
/-- Whether the format has infinities. -/
def fmtIeee : Fmt → Bool
  | .f32 | .f16 | .bf16 | .e5m2 => true
  | _ => false

/-- The canonical quiet NaN (R243); `.e2m1` has none. -/
def qNaN : Fmt → Nat
  | .f32 => 0x7FC00000 | .f16 => 0x7E00 | .bf16 => 0x7FC0 | .e4m3 => 0x7F | .e5m2 => 0x7E | .e2m1 => 0 | .e8m0 => 0xFF

/-- Magnitude bits of the largest finite value (R241). -/
def maxMag : Fmt → Nat
  | .f32 => 0x7F7FFFFF | .f16 => 0x7BFF | .bf16 => 0x7F7F | .e4m3 => 0x7E | .e5m2 => 0x7B | .e2m1 => 7 | .e8m0 => 0xFE

/-- Magnitude bits of an infinity. -/
def infMag (f : Fmt) : Nat := (2 ^ fmtExp f - 1) * 2 ^ fmtFrac f

/-- A value: a NaN, an infinity, or ±m·2^e. -/
inductive FVal where
  | nan (signalling : Bool) | inf (neg : Bool) | fin (neg : Bool) (m : Nat) (e : Int)
  deriving DecidableEq, Repr

/-- The value of an encoding (R241). -/
def fpVal (f : Fmt) (v : Nat) : FVal :=
  let fb := fmtFrac f
  let ex := v / 2 ^ fb % 2 ^ fmtExp f
  let fr := v % 2 ^ fb
  let neg := v.testBit (fmtWidth f - 1)
  if f = .e8m0 then (if v % 256 = 255 then .nan false else .fin false 1 ((v % 256 : Nat) - 127))
  else if fmtIeee f && ex == 2 ^ fmtExp f - 1 then
    (if fr = 0 then .inf neg else .nan (!fr.testBit (fb - 1)))
  else if f = .e4m3 && v % 128 = 127 then .nan false
  else if ex = 0 then .fin neg fr (1 - (fmtBias f : Int) - fb)
  else .fin neg (2 ^ fb + fr) ((ex : Int) - fmtBias f - fb)

/-- The flags of R245. -/
def fNV : Nat := 1
def fDZ : Nat := 2
def fOF : Nat := 4
def fUF : Nat := 8
def fNX : Nat := 16

/-- The sign bit of a format. -/
def signBit (f : Fmt) (neg : Bool) : Nat := if neg then 2 ^ (fmtWidth f - 1) else 0

/-! ### Rounding (R9, R244) -/

/-- The overflow result (R244). -/
def overflowed (f : Fmt) (sat neg : Bool) : Nat :=
  if sat || f == .e2m1 then signBit f neg + maxMag f
  else if f = .e4m3 then qNaN f
  else signBit f neg + infMag f

/-- The bits of ±r·2^q, r at most 2^(F+1), and the flags, where `nx` says that it is inexact. -/
def fpPack (f : Fmt) (sat neg nx : Bool) (r : Nat) (q : Int) : Nat × Nat :=
  let fb := fmtFrac f
  let (r, q) := if r = 2 ^ (fb + 1) then (2 ^ fb, q + 1) else (r, q)
  let bx : Int := if r < 2 ^ fb then 0 else q + fb + fmtBias f
  let mag := bx.toNat * 2 ^ fb + r % 2 ^ fb
  if mag > maxMag f then (overflowed f sat neg, fOF ||| fNX)
  else (signBit f neg + mag, if nx then (if r < 2 ^ fb then fUF ||| fNX else fNX) else 0)

/-- The quantum exponent of a nonzero ±m·2^e in a format: that of its last kept bit. -/
def quantum (f : Fmt) (m : Nat) (e : Int) : Int := max ((Nat.log2 m : Int) + e) (1 - (fmtBias f : Int)) - fmtFrac f

/-- Round to nearest, ties to even: whether the discarded `rem` of 2^k rounds `r` up. -/
def upNE (k r rem : Nat) : Bool := decide (2 ^ k < 2 * rem) || (2 * rem == 2 ^ k && r % 2 == 1)

/-- Stochastic rounding with `n` random bits (R256). -/
def upSR (n rnd k _r rem : Nat) : Bool := decide (2 ^ n ≤ rem * 2 ^ n / 2 ^ k + rnd)

/-- ±m·2^e rounded into a format. -/
def fpRoundBy (up : Nat → Nat → Nat → Bool) (f : Fmt) (sat neg : Bool) (m : Nat) (e : Int) : Nat × Nat :=
  if m = 0 then (signBit f neg, 0)
  else
    let q := quantum f m e
    if q ≤ e then fpPack f sat neg false (m * 2 ^ (e - q).toNat) q
    else
      let k := (q - e).toNat
      let r := m / 2 ^ k
      let rem := m % 2 ^ k
      fpPack f sat neg (rem != 0) (if up k r rem then r + 1 else r) q

def fpRound (f : Fmt) (sat neg : Bool) (m : Nat) (e : Int) : Nat × Nat := fpRoundBy upNE f sat neg m e

/-- A value rounded into a format (R244, R254): flags of the rounding only. -/
def fpOf (f : Fmt) (sat : Bool) (v : FVal) : Nat × Nat :=
  match v with
  | .nan s => if f = .e2m1 then (0, fNV) else (qNaN f, if s then fNV else 0)
  | .inf neg =>
    if sat || f == .e2m1 then (signBit f neg + maxMag f, 0)
    else if f = .e4m3 then (qNaN f, 0)
    else (signBit f neg + infMag f, 0)
  | .fin neg m e => fpRound f sat neg m e

/-! ### Exact sums and products -/

/-- ±m·2^e as an integer multiple of 2^b, b ≤ e. -/
def alignTo (b : Int) (neg : Bool) (m : Nat) (e : Int) : Int :=
  let v : Int := (m * 2 ^ (e - b).toNat : Nat)
  if neg then -v else v

/-- The exact sum of two values; an exact zero of opposite signs is +0 (R244). -/
def fAdd (x y : FVal) : FVal :=
  match x, y with
  | .nan s, .nan t => .nan (s || t)
  | .nan s, _ => .nan s
  | _, .nan s => .nan s
  | .inf a, .inf b => if a = b then .inf a else .nan true
  | .inf a, _ => .inf a
  | _, .inf b => .inf b
  | .fin a m e, .fin b n d =>
    let l := min e d
    let t := alignTo l a m e + alignTo l b n d
    if t = 0 then .fin (a && b) 0 0 else .fin (decide (t < 0)) t.natAbs l

def fNeg : FVal → FVal
  | .nan s => .nan s
  | .inf a => .inf (!a)
  | .fin a m e => .fin (!a) m e

def fIsZero : FVal → Bool
  | .fin _ m _ => m == 0
  | _ => false

/-- The exact product; 0 × infinity is invalid. -/
def fMul (x y : FVal) : FVal :=
  match x, y with
  | .nan s, .nan t => .nan (s || t)
  | .nan s, _ => .nan s
  | _, .nan s => .nan s
  | .inf a, .inf b => .inf (a != b)
  | .inf a, .fin b m _ => if m = 0 then .nan true else .inf (a != b)
  | .fin a m _, .inf b => if m = 0 then .nan true else .inf (a != b)
  | .fin a m e, .fin b n d => .fin (a != b) (m * n) (e + d)

/-- An invalid result counts as signalling, so that the rounding raises NV: a sum or product of values that are no NaN. -/
def fadd (f : Fmt) (a b : Nat) : Nat × Nat := fpOf f false (fAdd (fpVal f a) (fpVal f b))
def fsub (f : Fmt) (a b : Nat) : Nat × Nat := fpOf f false (fAdd (fpVal f a) (fNeg (fpVal f b)))
def fmul (f : Fmt) (a b : Nat) : Nat × Nat := fpOf f false (fMul (fpVal f a) (fpVal f b))
def ffma (f : Fmt) (a b c : Nat) : Nat × Nat := fpOf f false (fAdd (fMul (fpVal f a) (fpVal f b)) (fpVal f c))

/-! ### Comparisons, minima and maxima (R336) -/

def fIsNan : FVal → Bool
  | .nan _ => true
  | _ => false
def fIsSnan : FVal → Bool
  | .nan s => s
  | _ => false

/-- Bits in numeric order, −0 below +0: the key of an encoding that is no NaN. -/
def fKey (f : Fmt) (v : Nat) : Int :=
  let mag : Int := (v % 2 ^ (fmtWidth f - 1) : Nat)
  if v.testBit (fmtWidth f - 1) then -mag - 1 else mag

/-- Bits in numeric order, −0 equal to +0. -/
def fKey0 (f : Fmt) (v : Nat) : Int :=
  let mag : Int := (v % 2 ^ (fmtWidth f - 1) : Nat)
  if v.testBit (fmtWidth f - 1) then -mag else mag

def nvIf (b : Bool) : Nat := if b then fNV else 0

/-- FMIN and FMAX (R336). -/
def fmin (f : Fmt) (mx : Bool) (a b : Nat) : Nat × Nat :=
  let x := fpVal f a
  let y := fpVal f b
  if fIsNan x || fIsNan y then (qNaN f, nvIf (fIsSnan x || fIsSnan y))
  else (if decide (fKey f a ≤ fKey f b) != mx then a else b, 0)

/-- FMINN and FMAXN (R336): minimumNumber and maximumNumber. -/
def fminn (f : Fmt) (mx : Bool) (a b : Nat) : Nat × Nat :=
  let x := fpVal f a
  let y := fpVal f b
  let nv := nvIf (fIsSnan x || fIsSnan y)
  if fIsNan x && fIsNan y then (qNaN f, nv)
  else if fIsNan x then (b, nv)
  else if fIsNan y then (a, nv)
  else (if decide (fKey f a ≤ fKey f b) != mx then a else b, 0)

/-- FABS and FNEG (R336). -/
def fabs (f : Fmt) (a : Nat) : Nat × Nat :=
  if fIsNan (fpVal f a) then (qNaN f, 0) else (a % 2 ^ (fmtWidth f - 1), 0)
def fneg (f : Fmt) (a : Nat) : Nat × Nat :=
  if fIsNan (fpVal f a) then (qNaN f, 0) else (a ^^^ 2 ^ (fmtWidth f - 1), 0)

/-- FCMP (R327, R336): the condition, and NV for a signalling NaN. -/
def fcmp (f : Fmt) (c a b : Nat) : Bool × Nat :=
  let x := fpVal f a
  let y := fpVal f b
  let nv := nvIf (fIsSnan x || fIsSnan y)
  if fIsNan x || fIsNan y then (c == 1 || c == 6, nv)
  else
    let p := fKey0 f a
    let q := fKey0 f b
    (match c with
      | 0 => p == q
      | 1 => p != q
      | 2 => decide (p < q)
      | 3 => decide (p ≤ q)
      | 4 => decide (p > q)
      | 5 => decide (p ≥ q)
      | _ => false, nv)

/-! ### Special functions (R337) -/

/-- The integer square root, bit by bit from bit `k - 1` down. -/
def isqrtFrom (n : Nat) : Nat → Nat → Nat
  | 0, r => r
  | k + 1, r => isqrtFrom n k (if (r + 2 ^ k) * (r + 2 ^ k) ≤ n then r + 2 ^ k else r)
def isqrt (n : Nat) : Nat := isqrtFrom n (Nat.log2 n / 2 + 1) 0

/-- A floor and whether it is exact, as a magnitude with one sticky bit. -/
def sticky (q : Nat) (exact : Bool) : Nat := 2 * q + if exact then 0 else 1

/-- Working precision in bits. -/
def prec : Nat := 400

/-- 1/a (R337). -/
def frcp (f : Fmt) (a : Nat) : Nat × Nat :=
  match fpVal f a with
  | .nan s => (qNaN f, nvIf s)
  | .inf neg => (signBit f neg, 0)
  | .fin neg m e =>
    if m = 0 then (signBit f neg + infMag f, fDZ)
    else
      let k := 64 + Nat.log2 m
      fpRound f false neg (sticky (2 ^ k / m) (2 ^ k % m == 0)) (-(k : Int) - e - 1)

/-- 1/√a (R337). -/
def frsq (f : Fmt) (a : Nat) : Nat × Nat :=
  match fpVal f a with
  | .nan s => (qNaN f, nvIf s)
  | .inf neg => if neg then (qNaN f, fNV) else (0, 0)
  | .fin neg m e =>
    if m = 0 then (signBit f neg + infMag f, fDZ)
    else if neg then (qNaN f, fNV)
    else
      let (m, e) := if e % 2 = 0 then (m, e) else (2 * m, e - 1)
      let k := 64 + Nat.log2 m
      let q := isqrt (2 ^ (2 * k) / m)
      fpRound f false false (sticky q (q * q * m == 2 ^ (2 * k))) (-(k : Int) - e / 2 - 1)

/-- Lower and upper bounds of 2^(2^-j), j = 1, 2, …, at scale 2^prec, times the bits of a fraction at scale 2^prec. -/
def exp2Frac (hi : Bool) (fr : Nat) : Nat → Nat → Nat → Nat
  | 0, _, acc => acc
  | k + 1, c, acc =>
    let n := c * 2 ^ prec
    let c' := isqrt n + if hi then 1 else 0
    let acc' := if fr.testBit k then (acc * c' + if hi then 2 ^ prec - 1 else 0) / 2 ^ prec else acc
    exp2Frac hi fr k c' acc'

/-- A bound of 2^(fr·2^-prec), 0 ≤ fr < 2^prec, at scale 2^prec. -/
def exp2Bound (hi : Bool) (fr : Nat) : Nat := exp2Frac hi fr prec (2 * 2 ^ prec) (2 ^ prec)

/-- A result known to lie strictly between two bounds ±lo·2^e and ±hi·2^e: the rounding of both, where they agree; else a value
the model does not compute (log 8). -/
def between (f : Fmt) (fn a : Nat) (neg : Bool) (lo hi : Nat) (e : Int) : Nat × Nat :=
  let l := fpRound f false neg (2 * lo + 1) (e - 1)
  let h := fpRound f false neg (2 * hi - 1) (e - 1)
  if l = h then l else (Config.transcendental fn (fmtExp f) (fmtFrac f) a % 2 ^ fmtWidth f, fNX)

/-- 2^a (R337). -/
def fexp2 (f : Fmt) (a : Nat) : Nat × Nat :=
  match fpVal f a with
  | .nan s => (qNaN f, nvIf s)
  | .inf neg => (if neg then 0 else infMag f, 0)
  | .fin neg m e =>
    if m = 0 then fpRound f false false 1 0
    else if 11 ≤ (Nat.log2 m : Int) + e then fpRound f false false 3 (if neg then -1200 else 1200)
    else
      let v := alignTo (-(prec : Int)) neg m e
      let i := v / (2 ^ prec : Nat)
      let fr := (v % (2 ^ prec : Nat)).toNat
      if fr = 0 then fpRound f false false 1 i
      else between f 0x52 a false (exp2Bound false fr) (exp2Bound true fr) (i - prec)

/-- The binary digits of log2 of y·2^-prec, 1 ≤ y·2^-prec < 2, from below or above, `k` of them. -/
def log2Digits (hi : Bool) : Nat → Nat → Nat → Nat
  | 0, _, acc => acc
  | k + 1, y, acc =>
    let z := (y * y + if hi then 2 ^ prec - 1 else 0) / 2 ^ prec
    if 2 ^ (prec + 1) ≤ z then log2Digits hi k ((z + if hi then 1 else 0) / 2) (2 * acc + 1)
    else log2Digits hi k z (2 * acc)

/-- log₂ a (R337). -/
def flog2 (f : Fmt) (a : Nat) : Nat × Nat :=
  match fpVal f a with
  | .nan s => (qNaN f, nvIf s)
  | .inf neg => if neg then (qNaN f, fNV) else (infMag f, 0)
  | .fin neg m e =>
    if m = 0 then (signBit f true + infMag f, fDZ)
    else if neg then (qNaN f, fNV)
    else
      let l := Nat.log2 m
      let i : Int := (l : Int) + e
      if m = 2 ^ l then fpRound f false (decide (i < 0)) i.natAbs 0
      else
        let y := m * 2 ^ (prec - l)
        let lo : Int := i * (2 ^ 160 : Nat) + (log2Digits false 160 y 0 : Nat)
        let hi : Int := i * (2 ^ 160 : Nat) + (log2Digits true 160 y 0 : Nat) + 1
        if 0 ≤ lo then between f 0x53 a false lo.natAbs hi.natAbs (-160)
        else between f 0x53 a true hi.natAbs lo.natAbs (-160)

/-- ⌊log₂(e)·2^400⌋. -/
def log2e : Nat := 0x171547652b82fe1777d0ffda0d23a7d11d6aef551bad2b4b1164a2cd9a342648fbc3887eeaa2ed9ac49b25eeb82d7c167d521

/-- tanh a = (2^t − 1)/(2^t + 1), t = 2a·log₂ e (R337). -/
def ftanh (f : Fmt) (a : Nat) : Nat × Nat :=
  match fpVal f a with
  | .nan s => (qNaN f, nvIf s)
  | .inf neg => fpRound f false neg 1 0
  | .fin neg m e =>
    if m = 0 then (signBit f neg, 0)
    else if 6 ≤ (Nat.log2 m : Int) + e then fpRound f false neg (2 ^ 200 - 1) (-200)
    else if (Nat.log2 m : Int) + e < -100 then fpRound f false neg (m * 2 ^ 80 - 1) (e - 80)
    else
      let v := (alignTo (-(prec : Int)) false m (e + 1)).toNat
      let tl := v * log2e / 2 ^ prec
      let th := (v * (log2e + 1) + 2 ^ prec - 1) / 2 ^ prec
      let pl := exp2Bound false (tl % 2 ^ prec) * 2 ^ (tl / 2 ^ prec)
      let ph := exp2Bound true (th % 2 ^ prec) * 2 ^ (th / 2 ^ prec)
      let one := 2 ^ prec
      let lo := (pl - one) * 2 ^ prec / (pl + one)
      let hi := (ph - one) * 2 ^ prec / (ph + one) + 1
      between f 0x54 a neg lo hi (-(prec : Int))

/-! ### Conversions (R254, R256) -/

/-- The format of a TYPE code, if it is floating. -/
def fmtOfType (t : Nat) : Option Fmt :=
  match t with
  | 9 => some .f32 | 0xA => some .f16 | 0xB => some .bf16 | 0xC => some .e4m3 | 0xD => some .e5m2 | 0xE => some .e2m1
  | 0xF => some .e8m0
  | _ => none

/-- Width in bits of the integer types. -/
def intWidth (t : Nat) : Nat := 8 * 2 ^ ((t + 3) % 4)

/-- The value of an element of a TYPE code. -/
def valueOf (t v : Nat) : FVal :=
  match fmtOfType t with
  | some f => fpVal f v
  | none =>
    let i : Int := if t ≤ 4 then sext (intWidth t) v else (v : Int)
    .fin (decide (i < 0)) i.natAbs 0

/-- An exact value to an integer type: RoundNE, saturated (R254). -/
def toInteger (t : Nat) (v : FVal) : Nat × Nat :=
  let w := intWidth t
  let lo : Int := if t ≤ 4 then -(2 ^ (w - 1) : Nat) else 0
  let hi : Int := if t ≤ 4 then (2 ^ (w - 1) : Nat) - 1 else (2 ^ w : Nat) - 1
  match v with
  | .nan _ => (0, fNV)
  | .inf neg => (wrap w (if neg then lo else hi), fNV)
  | .fin neg m e =>
    let (r, nx) :=
      if 0 ≤ e then (m * 2 ^ e.toNat, false)
      else
        let k := (-e).toNat
        let r := m / 2 ^ k
        let rem := m % 2 ^ k
        (if upNE k r rem then r + 1 else r, rem != 0)
    let i : Int := if neg then -(r : Int) else r
    let c := max lo (min hi i)
    (wrap w c, (if c = i then 0 else fNV) ||| (if nx then fNX else 0))

/-- Convert (R254): an exact value of a source type into a type. -/
def convert (src dst : Nat) (sat : Bool) (v : FVal) : Nat × Nat :=
  match fmtOfType dst with
  | some f => fpOf f sat v
  | none => if (fmtOfType src).isSome then toInteger dst v else ((toInteger dst v).1, 0)

/-- RoundSR (R256): `.f32` into a type with `n` random bits. -/
def convertSR (dst : Nat) (sat : Bool) (n rnd a : Nat) : Nat × Nat :=
  match fmtOfType dst, fpVal .f32 a with
  | some f, .fin neg m e => if m = 0 then fpOf f sat (.fin neg 0 0) else fpRoundBy (upSR n rnd) f sat neg m e
  | _, v => convert 9 dst sat v

/-! ### Plane blocks (R246-R248) -/

/-- A plane block: SCALE in 12 bits, or `none` for NaN; signs and magnitudes of its 16 elements. -/
structure Block where
  scale : Option Int
  sign : List Bool
  m : List Nat
  deriving DecidableEq, Repr

/-- Bit `j` of each element, as a halfword. -/
def planeOf (bs : List Bool) : Nat := bs.foldr (fun b acc => b2n b + 2 * acc) 0

/-- The bytes of a block of `p` planes (R246); a NaN block has empty planes (R243). -/
def Block.bytes (b : Block) (p : Nat) : List Byte :=
  match b.scale with
  | none => toBytes 2 0x800 ++ List.replicate (2 * (p + 1)) 0
  | some k =>
    toBytes 2 (wrap 12 k) ++ toBytes 2 (planeOf b.sign)
      ++ (List.range p).flatMap fun j => toBytes 2 (planeOf (b.m.map fun m => m.testBit j))

/-- The block in `2(p + 2)` bytes (R246). -/
def Block.ofBytes (p : Nat) (bs : List Byte) : Block :=
  let h (i : Nat) : Nat := (bs.getD (2 * i) 0).toNat + 256 * (bs.getD (2 * i + 1) 0).toNat
  let sc := h 0 % 4096
  { scale := if sc = 0x800 then none else some (sext 12 sc),
    sign := (List.range 16).map fun i => (h 1).testBit i,
    m := (List.range 16).map fun i => (List.range p).foldr (fun j acc => b2n ((h (2 + j)).testBit i) + 2 * acc) 0 }

/-- Element `i` of a block (R246). -/
def Block.elem (b : Block) (i : Nat) : FVal :=
  match b.scale with
  | none => .nan false
  | some k => .fin (b.sign.getD i false) (b.m.getD i 0) k

def nanBlock : Block := { scale := none, sign := List.replicate 16 false, m := List.replicate 16 0 }

def fNegative : FVal → Bool
  | .fin n _ _ => n
  | .inf n => n
  | .nan _ => false

/-- A magnitude over 2^s, rounded to an integer, and whether that was inexact. -/
def roundTo (s : Int) : FVal → Nat × Bool
  | .fin _ m e =>
    if s ≤ e then (m * 2 ^ (e - s).toNat, false)
    else
      let k := (s - e).toNat
      let r := m / 2 ^ k
      (if upNE k r (m % 2 ^ k) then r + 1 else r, m % 2 ^ k != 0)
  | _ => (0, false)

/-- Floor of log2 of a nonzero magnitude. -/
def topBit : FVal → Option Int
  | .fin _ m e => if m = 0 then none else some ((Nat.log2 m : Int) + e)
  | _ => none

/-- PlanesOf (R247): the block and its flags. -/
def planesOf (xs : List FVal) (p : Nat) : Block × Nat :=
  if xs.any fun x => match x with
    | .fin _ _ _ => false
    | _ => true
  then (nanBlock, fNV)
  else
    match xs.filterMap topBit with
    | [] => ({ scale := some 0, sign := xs.map fNegative, m := xs.map fun _ => 0 }, 0)
    | t :: ts =>
      let s := ts.foldl max t - ((p : Int) - 1)
      let s := if (xs.map (roundTo s)).any fun r => r.1 == 2 ^ p then s + 1 else s
      let rs := xs.map (roundTo s)
      ({ scale := some s, sign := xs.map fNegative, m := rs.map Prod.fst }, if rs.any Prod.snd then fNX else 0)

/-- The block of `.e2m1` elements with an MX scale, P ≥ 4 (R248). -/
def planesOfMX (codes : List Nat) (x p : Nat) : Block :=
  if x = 0xFF then nanBlock
  else
    let mag (c : Nat) : Nat := match c % 8 with
      | 0 => 0 | 1 => 1 | 2 => 2 | 3 => 3 | 4 => 4 | 5 => 6 | 6 => 8 | _ => 12
    { scale := some ((x : Int) - 128 - ((p : Int) - 4)), sign := codes.map fun c => decide (8 ≤ c % 16),
      m := codes.map fun c => mag c * 2 ^ (p - 4) }

/-- An `.e2m1` element times 2^(X − 127). -/
def scaledE2m1 (x c : Nat) : FVal :=
  if x = 0xFF then .nan false
  else match fpVal .e2m1 c with
    | .fin n m e => .fin n m (e + x - 127)
    | v => v

end Sys2Proof.Machine
end

