-- ==== Sys2Proof/Syntax.lean ====
section
/-! DEFINITION. The steps of the part: one constructor per row of spec/opcode_table.json. Rows of the A-core
carry the fields of R206, rows of the X-core those of R212, and rows that are events of the rest of the device carry what
the event is about: the cluster, command, context, slot, page, host queue or message, and what the environment decides. -/

namespace Sys2Proof

/-- One step of the part. -/
inductive Instr where
  /-- ADD (R270) Adds two registers modulo 2^64. -/
  | add (f : AF)
  /-- SUB (R270) Subtracts two registers modulo 2^64. -/
  | sub (f : AF)
  /-- MUL (R270) Low 64 bits of the product of two registers. -/
  | mul (f : AF)
  /-- MULH (R270) High 64 bits of the signed 128-bit product. -/
  | mulh (f : AF)
  /-- MULHN (R270) High 64 bits of the natural 128-bit product. -/
  | mulhn (f : AF)
  /-- DIV (R271) Signed quotient truncated toward zero, all ones on a divisor of zero. -/
  | div (f : AF)
  /-- DIVN (R271) Natural quotient, all ones on a divisor of zero. -/
  | divn (f : AF)
  /-- REM (R271) Signed remainder with the sign of the dividend. -/
  | rem (f : AF)
  /-- REMN (R271) Natural remainder. -/
  | remn (f : AF)
  /-- AND (R270) Bitwise AND of two registers. -/
  | and (f : AF)
  /-- OR (R270) Bitwise OR of two registers. -/
  | or (f : AF)
  /-- XOR (R270) Bitwise XOR of two registers. -/
  | xor (f : AF)
  /-- ANDN (R270) a AND NOT b. -/
  | andn (f : AF)
  /-- SHL (R274) Shift left by a register count; 0 for counts of 64 or more. -/
  | shl (f : AF)
  /-- SHL_IMM (R274) Shift left by an immediate count 0-63. -/
  | shlImm (f : AF)
  /-- SHR (R274) Logical shift right by a register count. -/
  | shr (f : AF)
  /-- SHR_IMM (R274) Logical shift right by an immediate count. -/
  | shrImm (f : AF)
  /-- SAR (R274) Arithmetic shift right by a register count, capped at 63. -/
  | sar (f : AF)
  /-- SAR_IMM (R274) Arithmetic shift right by an immediate count. -/
  | sarImm (f : AF)
  /-- ROL (R274) Rotate left by a register count modulo 64. -/
  | rol (f : AF)
  /-- ROL_IMM (R274) Rotate left by an immediate count. -/
  | rolImm (f : AF)
  /-- ROTR (R274) Rotate right by a register count modulo 64. -/
  | rotr (f : AF)
  /-- ROTR_IMM (R274) Rotate right by an immediate count. -/
  | rotrImm (f : AF)
  /-- CLZ (R275) Counts leading zero bits, 64 for zero. -/
  | clz (f : AF)
  /-- CTZ (R275) Counts trailing zero bits, 64 for zero. -/
  | ctz (f : AF)
  /-- POPC (R275) Counts set bits. -/
  | popc (f : AF)
  /-- MIN (R270) Signed minimum of two registers. -/
  | min (f : AF)
  /-- MAX (R270) Signed maximum of two registers. -/
  | max (f : AF)
  /-- MINN (R270) Natural minimum of two registers. -/
  | minn (f : AF)
  /-- MAXN (R270) Natural maximum of two registers. -/
  | maxn (f : AF)
  /-- SEL (R276) Selects a if the condition register is nonzero, else b. -/
  | sel (f : AF)
  /-- ADDI (R272) Adds a sign-extended 32-bit immediate. -/
  | addi (f : AF)
  /-- ANDI (R272) ANDs with a sign-extended immediate. -/
  | andi (f : AF)
  /-- ORI (R272) ORs with a sign-extended immediate. -/
  | ori (f : AF)
  /-- XORI (R272) XORs with a sign-extended immediate. -/
  | xori (f : AF)
  /-- LI (R273) Loads a sign-extended 32-bit immediate. -/
  | li (f : AF)
  /-- LIH (R273) Sets the upper 32 bits of a register, keeping the lower half. -/
  | lih (f : AF)
  /-- EXTS (R277) Extracts a sign-extended bit field given by immediates. -/
  | exts (f : AF)
  /-- EXTS_VAR (R277) Extracts a sign-extended bit field whose width and offset come from a register. -/
  | extsVar (f : AF)
  /-- EXTZ (R277) Extracts a zero-extended bit field given by immediates. -/
  | extz (f : AF)
  /-- EXTZ_VAR (R277) Extracts a zero-extended bit field whose width and offset come from a register. -/
  | extzVar (f : AF)
  /-- INS (R277) Inserts a bit field given by immediates into the destination. -/
  | ins (f : AF)
  /-- INS_VAR (R277) Inserts a bit field whose width and offset come from a register. -/
  | insVar (f : AF)
  /-- CMPEQ (R270) 1 if the registers are equal. -/
  | cmpeq (f : AF)
  /-- CMPNE (R270) 1 if the registers differ. -/
  | cmpne (f : AF)
  /-- CMPLT (R270) 1 if a < b, signed. -/
  | cmplt (f : AF)
  /-- CMPLE (R270) 1 if a <= b, signed. -/
  | cmple (f : AF)
  /-- CMPLTN (R270) 1 if a < b, natural. -/
  | cmpltn (f : AF)
  /-- CMPLEN (R270) 1 if a <= b, natural. -/
  | cmplen (f : AF)
  /-- JMP (R278) Jumps by a signed offset in 8-byte units. -/
  | jmp (f : AF)
  /-- JAL (R278) Writes the link register and jumps by an offset. -/
  | jal (f : AF)
  /-- JALI (R278) Links and jumps to a register plus a byte offset, trapping on a misaligned target. -/
  | jali (f : AF)
  /-- LOOP (R280) Decrements a counter and branches back while the old count exceeds 1. -/
  | loop (f : AF)
  /-- BEQ (R279) Branches if a = b. -/
  | beq (f : AF)
  /-- BNE (R279) Branches if a != b. -/
  | bne (f : AF)
  /-- BLT (R279) Branches if a < b, signed. -/
  | blt (f : AF)
  /-- BGE (R279) Branches if a >= b, signed. -/
  | bge (f : AF)
  /-- BLTN (R279) Branches if a < b, natural. -/
  | bltn (f : AF)
  /-- BGEN (R279) Branches if a >= b, natural. -/
  | bgen (f : AF)
  /-- LD (R291) Scalar load from global or scratchpad space. -/
  | ld (f : AF)
  /-- ST (R291) Scalar store through the scalar store queue. -/
  | st (f : AF)
  /-- LDAQ (R291) Acquire load at a scope, never from the L1. -/
  | ldaq (f : AF)
  /-- STRL (R291) Release store in its class at a scope. -/
  | strl (f : AF)
  /-- CAS (R293) Atomic compare-and-swap at the visibility point. -/
  | cas (f : AF)
  /-- AMO_SWAP (R293) Atomic swap returning the old value. -/
  | amoSwap (f : AF)
  /-- AMO_ADD (R293) Atomic add returning the old value. -/
  | amoAdd (f : AF)
  /-- AMO_AND (R293) Atomic AND returning the old value. -/
  | amoAnd (f : AF)
  /-- AMO_OR (R293) Atomic OR returning the old value. -/
  | amoOr (f : AF)
  /-- AMO_XOR (R293) Atomic XOR returning the old value. -/
  | amoXor (f : AF)
  /-- AMO_MIN (R293) Atomic signed minimum. -/
  | amoMin (f : AF)
  /-- AMO_MAX (R293) Atomic signed maximum. -/
  | amoMax (f : AF)
  /-- AMO_MINN (R293) Atomic natural minimum. -/
  | amoMinn (f : AF)
  /-- AMO_MAXN (R293) Atomic natural maximum. -/
  | amoMaxn (f : AF)
  /-- FENCE (R148) Class fence waiting for earlier accesses of the masked classes in scope. -/
  | fence (f : AF)
  /-- FENCEW (R150) Range fence waiting until the named windows' counts reach zero. -/
  | fencew (f : AF)
  /-- WSET (R296) Sets a fence window from a locator and a length. -/
  | wset (f : AF)
  /-- WSET_HANDLE (R296) Sets a fence window from a handle's index box. -/
  | wsetHandle (f : AF)
  /-- WCLR (R296) Empties the masked fence windows once their counts reach zero. -/
  | wclr (f : AF)
  /-- ICINV (R297) Drops instruction-cache lines of a range in a scope and waits for acknowledgements. -/
  | icinv (f : AF)
  /-- ICSYNC (R297) Discards the A-core's fetched and prefetched instructions. -/
  | icsync (f : AF)
  /-- TLDQ (R298) Reserves a load-queue slot and starts a tile transfer from scratchpad. -/
  | tldq (f : AF)
  /-- SQD (R299) Writes the head tile of a store queue to scratchpad as a tile image. -/
  | sqd (f : AF)
  /-- QSTAT (R300) Returns the queue status word. -/
  | qstat (f : AF)
  /-- XCOPY (R301) Accepts a byte copy between global memory and scratchpad. -/
  | xcopy (f : AF)
  /-- XCOPY_TPL (R301) Accepts a strided copy shaped by a copy template. -/
  | xcopyTpl (f : AF)
  /-- TFILL (R303) Accepts a refill of towers from global memory or scratchpad. -/
  | tfill (f : AF)
  /-- TDRAIN (R303) Accepts a drain of towers to global memory or scratchpad. -/
  | tdrain (f : AF)
  /-- GATHERT (R304) Accepts a stride gather of a handle's columns into scratchpad. -/
  | gathert (f : AF)
  /-- NMRED (R305) Accepts a near-memory reduce-add command. -/
  | nmred (f : AF)
  /-- NMCAS (R305) Accepts a near-memory compare-exchange command. -/
  | nmcas (f : AF)
  /-- NMSAX (R305) Accepts a near-memory scale-accumulate command. -/
  | nmsax (f : AF)
  /-- BWSET (R307) Stores TARGET into a completion word and clears ARRIVED and ERR. -/
  | bwset (f : AF)
  /-- BWARRIVE (R307) Release followed by one arrival on a completion word. -/
  | bwarrive (f : AF)
  /-- WAITGEN (R308) Waits for a completion word generation and acquires. -/
  | waitgen (f : AF)
  /-- SEMV (R309) Raises a semaphore as a release, waiting for headroom. -/
  | semv (f : AF)
  /-- SEMP (R309) Lowers a semaphore as an acquire, waiting for the count. -/
  | semp (f : AF)
  /-- SEMTRY (R309) Lowers a semaphore if possible and reports success. -/
  | semtry (f : AF)
  /-- BGIVE (R310) Offers a held buffer to another quad cluster after a release. -/
  | bgive (f : AF)
  /-- BGIVE_NONE (R310) Undefines a held buffer after a release, leaving the entry FREE. -/
  | bgiveNone (f : AF)
  /-- BTAKE (R310) Defines, takes or waits for a quad buffer entry. -/
  | btake (f : AF)
  /-- BQUERY (R310) Returns a buffer descriptor. -/
  | bquery (f : AF)
  /-- MSEND (R311) Sends one mailbox message and returns the send status. -/
  | msend (f : AF)
  /-- SNAP (R312) Arms a snapshot slot or returns a refusal code. -/
  | snap (f : AF)
  /-- SNAPQ (R312) Returns the snapshot status word of a slot. -/
  | snapq (f : AF)
  /-- SNAPQ_T (R312) Returns the snapshot instant T_s of a slot. -/
  | snapqT (f : AF)
  /-- TXBEGIN (R313) Opens a staged transaction over fence windows, or refuses. -/
  | txbegin (f : AF)
  /-- TXCOMMIT (R314) Votes yes for the chip after waiting for earlier accesses, and seals the pages. -/
  | txcommit (f : AF)
  /-- TXABORT (R314) Votes no in OPEN, or frees a finished slot. -/
  | txabort (f : AF)
  /-- TXSTATE (R314) Returns the transaction slot status word. -/
  | txstate (f : AF)
  /-- TEXIT (R315) Ends the A-stream of the task. -/
  | texit (f : AF)
  /-- GROW (R316) Asks the dispatcher to grow the outermost cluster-spatial level. -/
  | grow (f : AF)
  /-- TIDX (R317) Returns a task index, launch generation, cluster or CID value. -/
  | tidx (f : AF)
  /-- RDGTC (R318) Returns the GTC of the issue clk. -/
  | rdgtc (f : AF)
  /-- REFDEFER (R319) Defers the refresh of masked tower banks. -/
  | refdefer (f : AF)
  /-- CSRRD (R382) Reads a control register, clearing RC fields. -/
  | csrrd (f : AF)
  /-- CSRWR (R382) Reads and then writes a control register. -/
  | csrwr (f : AF)
  /-- TRAP (R384) Supervisor call trap with CODE 0x3F. -/
  | trap (f : AF)
  /-- ERET (R385) Returns from a trap to the saved mode and EPC. -/
  | eret (f : AF)
  /-- TLBINV (R387) Drops matching translations on the issuing chip only. -/
  | tlbinv (f : AF)
  /-- SHOOT (R387) Runs a system shoot-down from the issuing chip and waits. -/
  | shoot (f : AF)
  /-- REMAP_TOWER_BANK (R388) Rewrites a tower remap SEL entry, or refuses. -/
  | remapTowerBank (f : AF)
  /-- REMAP_CLUSTER_TABLE (R388) Rewrites a column's SKIP and service bits, or refuses. -/
  | remapClusterTable (f : AF)
  /-- HALT (R386) Holds the A-core until a bit of cr.pend is set. -/
  | halt (f : AF)
  /-- PAUSE (R386) Holds the A-core for n clk or until a cr.pend bit is set. -/
  | pause (f : AF)
  /-- ERRPOP (R389) Claims one error-ring record and copies it to scratchpad. -/
  | errpop (f : AF)
  /-- NOP (R221) X no-operation syllable. -/
  | nop (f : XF)
  /-- XADD (R326) X scalar add. -/
  | xadd (f : XF)
  /-- XSUB (R326) X scalar subtract. -/
  | xsub (f : XF)
  /-- XMUL (R326) X scalar multiply, latency 3. -/
  | xmul (f : XF)
  /-- XAND (R326) X scalar AND. -/
  | xand (f : XF)
  /-- XORX (R326) X scalar OR. -/
  | xorx (f : XF)
  /-- XXOR (R326) X scalar XOR. -/
  | xxor (f : XF)
  /-- XSHL (R326) X scalar shift left. -/
  | xshl (f : XF)
  /-- XSHR (R326) X scalar shift right, logical or arithmetic by type. -/
  | xshr (f : XF)
  /-- XMIN (R326) X scalar minimum by type. -/
  | xmin (f : XF)
  /-- XMAX (R326) X scalar maximum by type. -/
  | xmax (f : XF)
  /-- XLI (R328) Loads a 64-bit immediate into an x register. -/
  | xli (f : XF)
  /-- XCMP (R327) X scalar compare under a condition. -/
  | xcmp (f : XF)
  /-- BRX (R329) Unconditional X branch of slot 0. -/
  | brx (f : XF)
  /-- BCX_NZ (R329) Branches if an x register is nonzero. -/
  | bcxNz (f : XF)
  /-- BCX_Z (R329) Branches if an x register is zero. -/
  | bcxZ (f : XF)
  /-- BCX_K (R329) Branches if bit (0,0) of a predicate is 1. -/
  | bcxK (f : XF)
  /-- BCX_NK (R329) Branches if bit (0,0) of a predicate is 0. -/
  | bcxNk (f : XF)
  /-- BCX_ANY (R329) Branches if some lane of a predicate is 1. -/
  | bcxAny (f : XF)
  /-- BCX_NONE (R329) Branches if no lane of a predicate is 1. -/
  | bcxNone (f : XF)
  /-- BCX_LOOP (R195) Closes a modulo loop: counts, rotates registers and predicates, and branches. -/
  | bcxLoop (f : XF)
  /-- LSETUP (R330) Sets up a modulo loop from immediate N and S. -/
  | lsetup (f : XF)
  /-- LSETUP_REG (R330) Sets up a modulo loop with N from a register, trapping on range. -/
  | lsetupReg (f : XF)
  /-- CHKPT (R196) Checkpoint naming a live-range table; a halt point when pre-emption is pending. -/
  | chkpt (f : XF)
  /-- XSEMV (R332) Raises a semaphore after earlier tower stores and pushes land. -/
  | xsemv (f : XF)
  /-- XSEMP (R332) Lowers a semaphore as an acquire, freezing while it is zero. -/
  | xsemp (f : XF)
  /-- LSUPD (R263) One loss-scale step from an overflow indication. -/
  | lsupd (f : XF)
  /-- LSUPD_GET (R262) Reads cr.ls into an x register. -/
  | lsupdGet (f : XF)
  /-- LSUPD_SET (R262) Writes cr.ls with adjustments. -/
  | lsupdSet (f : XF)
  /-- LSUPD_FLG (R262) Reads cr.xfp and clears the named flags. -/
  | lsupdFlg (f : XF)
  /-- XTRAP (R331) Landing barrier followed by the Software X trap. -/
  | xtrap (f : XF)
  /-- XEND (R331) Ends the X-stream of the task. -/
  | xend (f : XF)
  /-- SYNCJ_FORK (R185) Enters independent mode at four slot start addresses. -/
  | syncjFork (f : XF)
  /-- SYNCJ_JOIN (R186) Waits at a join tag; lock-step resumes when all four slot groups wait. -/
  | syncjJoin (f : XF)
  /-- VADD (R333) Packed integer add. -/
  | vadd (f : XF)
  /-- VSUB (R333) Packed integer subtract. -/
  | vsub (f : XF)
  /-- VMUL (R333) Packed integer multiply, low half. -/
  | vmul (f : XF)
  /-- VMULH (R333) Packed integer multiply, high half. -/
  | vmulh (f : XF)
  /-- VMADD (R333) Packed integer multiply-add. -/
  | vmadd (f : XF)
  /-- VMIN (R333) Packed integer minimum. -/
  | vmin (f : XF)
  /-- VMAX (R333) Packed integer maximum. -/
  | vmax (f : XF)
  /-- VAND (R333) Bitwise AND of lane words. -/
  | vand (f : XF)
  /-- VOR (R333) Bitwise OR of lane words. -/
  | vor (f : XF)
  /-- VXOR (R333) Bitwise XOR of lane words. -/
  | vxor (f : XF)
  /-- VSHL (R333) Packed shift left. -/
  | vshl (f : XF)
  /-- VSHR (R333) Packed logical shift right. -/
  | vshr (f : XF)
  /-- VSAR (R333) Packed arithmetic shift right. -/
  | vsar (f : XF)
  /-- VABS (R333) Packed absolute value. -/
  | vabs (f : XF)
  /-- VSADD (R333) Packed saturating add. -/
  | vsadd (f : XF)
  /-- VSSUB (R333) Packed saturating subtract. -/
  | vssub (f : XF)
  /-- VCMP (R334) Compares one packed slot per lane into a predicate. -/
  | vcmp (f : XF)
  /-- VSEL (R335) Selects whole lane words by a predicate. -/
  | vsel (f : XF)
  /-- VPOPC (R333) Packed population count. -/
  | vpopc (f : XF)
  /-- VCLZ (R333) Packed count of leading zeros. -/
  | vclz (f : XF)
  /-- VMIX (R260) Derives reproducible random bits from seed and counter tiles. -/
  | vmix (f : XF)
  /-- FADD (R336) Floating add, rounded to nearest even. -/
  | fadd (f : XF)
  /-- FSUB (R336) Floating subtract. -/
  | fsub (f : XF)
  /-- FMUL (R336) Floating multiply. -/
  | fmul (f : XF)
  /-- FFMA (R336) Fused multiply-add with one rounding. -/
  | ffma (f : XF)
  /-- FMIN (R336) Floating minimum, NaN propagating. -/
  | fmin (f : XF)
  /-- FMAX (R336) Floating maximum, NaN propagating. -/
  | fmax (f : XF)
  /-- FMINN (R336) IEEE minimumNumber. -/
  | fminn (f : XF)
  /-- FMAXN (R336) IEEE maximumNumber. -/
  | fmaxn (f : XF)
  /-- FABS (R336) Clears the sign. -/
  | fabs (f : XF)
  /-- FNEG (R336) Inverts the sign. -/
  | fneg (f : XF)
  /-- FCMP (R336) Floating compare of one slot per lane into a predicate. -/
  | fcmp (f : XF)
  /-- FRCP (R337) Correctly rounded reciprocal. -/
  | frcp (f : XF)
  /-- FRSQ (R337) Correctly rounded reciprocal square root. -/
  | frsq (f : XF)
  /-- FEXP2 (R337) Correctly rounded 2^a. -/
  | fexp2 (f : XF)
  /-- FLOG2 (R337) Correctly rounded log2 a. -/
  | flog2 (f : XF)
  /-- FTANH (R337) Correctly rounded tanh a. -/
  | ftanh (f : XF)
  /-- CVT (R255) Converts packed elements between formats. -/
  | cvt (f : XF)
  /-- CVTSR (R256) Converts FP32 with stochastic rounding. -/
  | cvtsr (f : XF)
  /-- PLANES (R257) Converts 64 elements per row into four plane blocks. -/
  | planes (f : XF)
  /-- UNPLANE (R258) Converts plane blocks back into elements. -/
  | unplane (f : XF)
  /-- ROTROW (R338) Rotates each row by a per-row amount. -/
  | rotrow (f : XF)
  /-- ROTCOL (R338) Rotates each column by a per-column amount. -/
  | rotcol (f : XF)
  /-- BCROW (R338) Gathers lane words within each row by index. -/
  | bcrow (f : XF)
  /-- BCCOL (R338) Gathers lane words within each column by index. -/
  | bccol (f : XF)
  /-- REDROW (R339) Pairwise reduction of each row, broadcast to the row. -/
  | redrow (f : XF)
  /-- REDCOL (R339) Pairwise reduction of each column, broadcast to the column. -/
  | redcol (f : XF)
  /-- SCANROW (R339) Inclusive prefix scan along each row. -/
  | scanrow (f : XF)
  /-- CSHIFT (R340) Shifts the tile by one cell within the cluster, with fill or wrap. -/
  | cshift (f : XF)
  /-- CSHIFT_XC (R341) Shifts by one cell across clusters through the north and south latches. -/
  | cshiftXc (f : XF)
  /-- TRANS16 (R338) Transposes each 16x16 block. -/
  | trans16 (f : XF)
  /-- KAND (R342) Predicate AND. -/
  | kand (f : XF)
  /-- KOR (R342) Predicate OR. -/
  | kor (f : XF)
  /-- KXOR (R342) Predicate XOR. -/
  | kxor (f : XF)
  /-- KNOT (R342) Predicate NOT. -/
  | knot (f : XF)
  /-- KMOV (R342) Predicate move. -/
  | kmov (f : XF)
  /-- KPOPC (R342) Counts guarded lanes of a predicate into an x register. -/
  | kpopc (f : XF)
  /-- TWLD (R344) Loads one word per lane from its own cell's tower. -/
  | twld (f : XF)
  /-- TWST (R344) Stores one word per lane into its own cell's tower. -/
  | twst (f : XF)
  /-- TWLDX (R344) Loads one 64-byte block per cell addressed by the corner lane. -/
  | twldx (f : XF)
  /-- QPOP (R346) Pops the head of a load, result or mailbox queue. -/
  | qpop (f : XF)
  /-- QPEEK (R346) Reads the head of a queue without consuming it. -/
  | qpeek (f : XF)
  /-- QPUSH (R346) Pushes a tile into a store queue, trapping on overflow. -/
  | qpush (f : XF)
  /-- KSTQ (R343) Packs a predicate into bit j of the store queue's pack tile. -/
  | kstq (f : XF)
  /-- KSTQ_PUSH (R343) Packs a predicate and pushes the pack tile into the store queue. -/
  | kstqPush (f : XF)
  /-- MMA (R350) Issues an MMA record into the record queue. -/
  | mma (f : XF)
  /-- WLOAD (R350) Issues a WLOAD record. -/
  | wload (f : XF)
  /-- WSWAP (R350) Issues a WSWAP record. -/
  | wswap (f : XF)
  /-- ACCZ (R350) Issues an ACCZ record. -/
  | accz (f : XF)
  /-- DRAIN (R350) Issues a DRAIN record. -/
  | drain (f : XF)
  /-- ROWSTAT (R350) Issues a ROWSTAT record. -/
  | rowstat (f : XF)
  /-- VNEST (R350) Issues a VNEST record. -/
  | vnest (f : XF)
  /-- SCQPUSH (R350) Issues a SCQPUSH record. -/
  | scqpush (f : XF)
  /-- MWAIT (R357) Waits for records of a tag and acquires. -/
  | mwait (f : XF)
  /-- MWAIT_ALL (R357) Waits for every earlier record and acquires. -/
  | mwaitAll (f : XF)
  /-- X_FREEZE_END (R189) A frozen vcyc proceeds once every freeze cause has cleared. -/
  | xFreezeEnd (cl : Nat)
  /-- RECORD_DISPATCH (R349) The head of the record queue passes to its engine once the engine has room. -/
  | recordDispatch (cl : Nat)
  /-- MMA_SINGLE_ISSUE (R361) One MMA single issue runs its passes and adds into an accumulator row. -/
  | mmaSingleIssue (cl : Nat) (work : MmaWork)
  /-- WLOAD_SINGLE_ISSUE (R358) One WLOAD single issue writes a shadow weight column. -/
  | wloadSingleIssue (cl : Nat) (cmp : Cmp)
  /-- WSWAP_TAKES_EFFECT (R360) The shadow and active weight sets are exchanged between passes. -/
  | wswapTakesEffect (cl : Nat)
  /-- ACCZ_SINGLE_ISSUE (R362) Zeroes one accumulator row over the column range. -/
  | acczSingleIssue (cl : Nat)
  /-- DRAIN_SINGLE_ISSUE (R363) Converts a 16-row accumulator block into one tile for dq0 or scratchpad. -/
  | drainSingleIssue (cl : Nat) (work : GranuleCmp)
  /-- ROWSTAT_SINGLE_ISSUE (R364) Forms row statistics of 16 rows and pushes a tile to hq0. -/
  | rowstatSingleIssue (cl : Nat) (cmp : Cmp)
  /-- VNEST_SINGLE_ISSUE (R365) Applies an element operation to one scratchpad granule. -/
  | vnestSingleIssue (cl : Nat) (cmp : Cmp)
  /-- SCQPUSH_SINGLE_ISSUE (R359) Pushes 32 scale bytes into the scale queue. -/
  | scqpushSingleIssue (cl : Nat) (cmp : Cmp)
  /-- ENGINE_COMMAND_START (R286) An accepted engine command leaves the command queue once the Vigil matches it and begins its accesses. -/
  | engineCommandStart (cl id : Nat) (vigil : Bool) (cmps : List Cmp)
  /-- TILE_TRANSFER_LOCK (R70) A waiting tile transfer acquires all its bank locks at once. -/
  | tileTransferLock (cl id : Nat)
  /-- TILE_TRANSFER_DONE (R70) The last byte of a tile transfer is written and its locks are released. -/
  | tileTransferDone (cl id : Nat) (g : GranuleCmp)
  /-- LOAD_QUEUE_SLOT_READY (R82) A TLDQ tile has fully arrived and its slot becomes ready. -/
  | loadQueueSlotReady (cl q : Nat)
  /-- SCALAR_STORE_PERFORM (R291) A store or atomic leaves the scalar store queue after the Vigil match and performs. -/
  | scalarStorePerform (cl seq : Nat) (vigil : Bool) (cmp : Cmp)
  /-- LOAD_VALUE_RETURN (R289) The value of a pending load or atomic returns to its register. -/
  | loadValueReturn (cl seq : Nat) (evict : Bool)
  /-- COMPLETION_ARRIVAL (R160) An arrival adds bytes to a completion word and advances GEN. -/
  | completionArrival (cl id n : Nat)
  /-- WAITER_SATISFIED (R161) A waiting WAITGEN, SEMP, SEMV or BTAKE observes its condition and proceeds. -/
  | waiterSatisfied (cl : Nat)
  /-- BGIVE_RELEASE_DONE (R73) Earlier accesses to the buffer have performed and the entry leaves HELD. -/
  | bgiveReleaseDone (cl : Nat)
  /-- HBM_UNIT_ACCESS (R97) An access executes at its HBM unit in arrival order. -/
  | hbmUnitAccess (cl id k : Nat) (cmps : List Cmp)
  /-- BANK_SIDE_REQUEST (R101) A bank-side request executes as one read-modify-write at its HBM unit. -/
  | bankSideRequest (cl id k : Nat) (cmp : Cmp)
  /-- GATHER_COLUMN (R109) The gather reads one source column and writes it at the destination. -/
  | gatherColumn (cl id j : Nat)
  /-- WALK_RESTART (R44) A walk waiting on a migrating node or flipping leaf restarts from the root. -/
  | walkRestart (cl id : Nat)
  /-- FAULT_BATCH_TIMER_EXPIRY (R53) The FBTIME timer expires and the open batch closes. -/
  | faultBatchTimerExpiry (cid : Nat)
  /-- FAULT_RING_WRITE (R462) Samovar writes a closed batch to the fault ring and fires vector 64. -/
  | faultRingWrite (cid : Nat)
  /-- SHOOT_DOWN_MSG (R58) A shoot-down multicast arrives on a chip of the acknowledgement tree. -/
  | shootDownMsg (src id : Nat) (scope : ShootScope)
  /-- SHOOT_DOWN_ACK_MSG (R58) A subtree acknowledgement with count and mask arrives at the parent. -/
  | shootDownAckMsg (id count : Nat) (mask : BitVec 64)
  /-- SHOOT_DOWN_TIMEOUT (R59) SDTMO expires with a short count and the originator resends directly. -/
  | shootDownTimeout (id : Nat)
  /-- CHIP_FENCE (R59) After a second SDTMO the silent chips are fenced and recorded. -/
  | chipFence (id : Nat)
  /-- FENCE_NOTICE_MSG (R59) A fence notice arrives and the chip refuses the fenced chip. -/
  | fenceNoticeMsg (chip : Nat)
  /-- MIGRATION_COPY_ROUND (R62) Samovar completes a copy round of a migrating page. -/
  | migrationCopyRound (page : Nat)
  /-- MIGRATION_FLIP_END (R62) The flip's shoot-down completes and the page states change. -/
  | migrationFlipEnd (page : Nat)
  /-- ACCESS_REFUSAL (R63) A refused access with status retry or offline is retranslated or faults. -/
  | accessRefusal (cl id : Nat) (offline : Bool)
  /-- MAILBOX_ENTRY_MSG (R80) A message arrives at the target and is enqueued or refused. -/
  | mailboxEntryMsg (m : MailMsg)
  /-- MAILBOX_ACK_MSG (R80) An acknowledgement with free count reaches the sender. -/
  | mailboxAckMsg (cl id free : Nat) (status : MailStatus)
  /-- MAILBOX_RETRY (R80) After at least 256 clk the sender resends a message refused as full. -/
  | mailboxRetry (cl id : Nat)
  /-- RETENTION_SLEEP_ENTRY (R90) A tower bank idle for 2,048 clk enters retention sleep. -/
  | retentionSleepEntry (cl cell bank : Nat)
  /-- ALMANAC_REFRESH_DUE (R91) A bank's due time arrives and its refresh starts in every cell. -/
  | almanacRefreshDue (cl bank : Nat)
  /-- ALMANAC_REFRESH_END (R91) A refresh ends and the next due time is set. -/
  | almanacRefreshEnd (cl bank : Nat)
  /-- TOWER_REMAP (R89) Samovar copies a failing tower bank to a spare and rewrites SEL. -/
  | towerRemap (cl cell bank sel : Nat) (bad : List Nat)
  /-- FRAME_WAIT_END (R127) A write waiting for a pool frame proceeds once one is freed. -/
  | frameWaitEnd (cl id : Nat)
  /-- SNAPSHOT_INSTANT (R119) The instant T of an armed slot is reached. -/
  | snapshotInstant (cid slot : Nat)
  /-- ARM_MSG (R124) ARM arrives and a chip arms the slot or refuses. -/
  | armMsg (src cid slot t : Nat)
  /-- ARM_ANSWER_MSG (R124) An acceptance or refusal reaches the issuing chip. -/
  | armAnswerMsg (chip cid slot : Nat) (ok : Bool)
  /-- ARM_DEADLINE (R124) At T - 1 us the issuing chip sends CONFIRM or CANCEL. -/
  | armDeadline (cid slot : Nat)
  /-- CONFIRM_MSG (R124) CONFIRM makes a PENDING slot LIVE. -/
  | confirmMsg (cid : Nat) (slot : GroupSlot)
  /-- CANCEL_MSG (R124) CANCEL makes an armed slot FAILED with 0x32. -/
  | cancelMsg (cid : Nat) (slot : GroupSlot)
  /-- SNAPSHOT_QUERY_TIMER (R124) Every 100 us a PENDING slot asks the issuing chip again. -/
  | snapshotQueryTimer (cid slot : Nat)
  /-- SNAPSHOT_QUERY_MSG (R124) A snapshot query arrives at the issuing chip. -/
  | snapshotQueryMsg (src cid : Nat) (w : SlotAsk)
  /-- DECANT_PAGE (R126) The decant engine writes one page of a LIVE snapshot to its target. -/
  | decantPage (cid slot : Nat) (accepted : Bool)
  /-- DECANT_DONE (R126) The trailer is visible and the slot becomes DONE. -/
  | decantDone (cid slot : Nat) (accepted : Bool)
  /-- DECANT_TIMEOUT (R128) DECTMO passes without progress and the snapshot fails. -/
  | decantTimeout (cid slot : Nat)
  /-- TXBEGIN_OPEN (R130) Once no window page is redirected the pages are staged and the slot is OPEN. -/
  | txbeginOpen (cid slot : Nat)
  /-- VOTE_MSG (R133) A participant's vote arrives at the coordinator. -/
  | voteMsg (chip cid : Nat) (slot : TxTag) (txid : Nat) (mask : BitVec 64) (yes : Bool)
  /-- VOTE_TIMEOUT (R133) VOTETMO elapses without every yes vote and the transaction aborts. -/
  | voteTimeout (cid : Nat) (slot : VoteWait)
  /-- DECIDE_MSG (R133) DECIDE(Tc) arrives and the participant answers ACK. -/
  | decideMsg (cid : Nat) (slot : TxFrom) (tc : Nat)
  /-- TX_ACK_MSG (R133) A participant's ACK arrives at the coordinator. -/
  | txAckMsg (chip cid : Nat) (slot : TxTag)
  /-- TX_DECISION (R133) At Tc the coordinator decides commit or abort and sends OUTCOME. -/
  | txDecision (cid slot : Nat)
  /-- OUTCOME_MSG (R135) A participant applies the outcome with effect at Tc and writes its word. -/
  | outcomeMsg (cid : Nat) (slot : TxFrom) (tc code : Nat)
  /-- OUTCOME_QUERY_TIMER (R134) Every 100 us a sealed participant asks the coordinator again. -/
  | outcomeQueryTimer (cid slot : Nat)
  /-- OUTCOME_QUERY_MSG (R134) An outcome query arrives at the coordinator. -/
  | outcomeQueryMsg (src cid slot : Nat)
  /-- TX_FOLD (R135) A committed frame is copied back into its page and freed. -/
  | txFold (page : Nat)
  /-- TASK_PLACEMENT (R400) Every 4 clk the dispatcher places the next placeable task. -/
  | taskPlacement
  /-- TASK_START (R177) The cluster sets the task-start state and both cores begin. -/
  | taskStart (cl : Nat)
  /-- TASK_RESUME (R426) Microcode restores a suspension record and the cores resume. -/
  | taskResume (cl : Nat)
  /-- TASK_RETIRE (R180) Both end instructions, all commands and the Vigil match complete and the task retires. -/
  | taskRetire (cl : Nat) (vigil : Bool)
  /-- COMPLETION_RECORD_WRITE (R408) A completion record is written to the queue's ring and the entry freed. -/
  | completionRecordWrite (node : Nat)
  /-- GROW_ANSWER (R176) The dispatcher applies a GROW and its answer reaches gd. -/
  | growAnswer (cl : Nat)
  /-- READY_MSG (R203) A replica's READY reaches the originating chip. -/
  | readyMsg (node chip : Nat)
  /-- START_MSG (R203) START(G, Ts) arrives and is accepted or refused. -/
  | startMsg (node g ts : Nat)
  /-- START_INSTANT (R203) GTC reaches Ts and the replica's tasks may be dispatched. -/
  | startInstant (node : Nat)
  /-- NODE_FORWARD_MSG (R395) A forwarded node takes a table entry on a replica chip. -/
  | nodeForwardMsg (src nodeid q : Nat) (desc : List Nat)
  /-- REPLICA_REPORT_MSG (R408) A replica's completion or failure reaches the originating chip. -/
  | replicaReportMsg (node chip tasks : Nat) (what : ReplicaEnd)
  /-- REPLACEMENT_INSTANT_MSG (R411) The replacement instant Tr reaches a replica chip. -/
  | replacementInstantMsg (node : NodeRef) (tr aentry xentry : Nat)
  /-- REPLACEMENT_INSTANT (R411) GTC reaches Tr and new entries apply to later placements. -/
  | replacementInstant (node : Nat)
  /-- PREEMPT_REQUEST (R422) A pre-emption request reaches a cluster and halting begins. -/
  | preemptRequest (cl : Nat)
  /-- X_HALT (R200) The X-core reaches a halt point and forms its landing list. -/
  | xHalt (cl : Nat)
  /-- SUSPENSION_SAVE (R425) After the scratchpad-writing commands complete, microcode writes the suspension record. -/
  | suspensionSave (cl : Nat) (room : Bool)
  /-- X_TRAP_TAKEN (R416) After the X-core has drained, the A-core takes the X trap at its next boundary. -/
  | xTrapTaken (cl : Nat)
  /-- SCRUB_READ (R438) A scrubber reads the next check unit. -/
  | scrubRead (unit : MemUnit) (found : Scrubbed)
  /-- SCRUB_WRITEBACK (R439) The scrubber writes back a unit unless another write has performed. -/
  | scrubWriteback (unit : MemUnit)
  /-- ERROR_RECORD_DELIVERY (R445) A source delivers an error record to the reliability engine. -/
  | errorRecordDelivery (r : ErrRec)
  /-- ERROR_RING_WRITE (R445) 4 us after its stamp a record is written to the error ring or dropped. -/
  | errorRingWrite
  /-- EVENT_RING_WRITE (R462) Samovar writes a rung-4-or-higher record to the event ring. -/
  | eventRingWrite
  /-- CLUSTER_RETIREMENT (R449) Samovar holds a range of a column, moves clusters and remaps to retire a row. -/
  | clusterRetirement (cl : Nat)
  /-- CLUSTER_MOVE (R449) One held logical cluster is copied to its new physical row. -/
  | clusterMove (cl : Nat) (bad : List MemUnit)
  /-- CHANNEL_FAIL (R115) A pseudo-channel fails in service and a reset is requested. -/
  | channelFail (ch : Nat)
  /-- HALT_WAKE (R386) A cr.pend bit is set and a HALT or PAUSE ends. -/
  | haltWake (cl : Nat)
  /-- PAUSE_EXPIRY (R386) n clk pass and PAUSE ends. -/
  | pauseExpiry (cl : Nat)
  /-- SAMOVAR_SERVICE_REQUEST (R378) Samovar posts a service request by setting SVC. -/
  | samovarServiceRequest (cl : Nat)
  /-- CR_PEND_WRITE (R378) Writing 1 clears the W1C bits of cr.pend. -/
  | crPendWrite (cl : Nat) (v : BitVec 64)
  /-- CR_ERBASE_WRITE (R442) A change of BASE or SIZE resets HEAD, TAIL, OVF and DROPS. -/
  | crErbaseWrite (v : BitVec 64)
  /-- CR_ERHEAD_WRITE (R443) Clearing OVF also sets DROPS to 0. -/
  | crErheadWrite (v : BitVec 64)
  /-- CR_ERTAIL_WRITE (R444) Moves TAIL forward within the occupied arc, discarding skipped records. -/
  | crErtailWrite (v : BitVec 64)
  /-- CR_XFP_LS_WRITE (R374) A write to cr.xfp or cr.ls takes effect at the next vcyc boundary. -/
  | crXfpLsWrite (cl num : Nat) (v : BitVec 64)
  /-- CR_MBOX_WRITE (R390) Disabling a ring lets enqueues in progress finish and refuses later messages. -/
  | crMboxWrite (cl : Nat) (v : BitVec 64)
  /-- CR_DEVICE_WRITE (R374) Indivisible write of a device register propagated to every cluster. -/
  | crDeviceWrite (num : Nat) (v : BitVec 64)
  /-- CR_WRITE (R374) Write of any other control register under R7. -/
  | crWrite (cl num : Nat) (v : BitVec 64)
  /-- POWER_INTERVAL (R473) Each 1 us interval the power arbiter sets the cluster grants. -/
  | powerInterval (grants : List Nat)
  /-- RETRAINING_DUE (R477) A cluster's vertical-bus retraining falls due and starts unless awaited transfers defer it. -/
  | retrainingDue (cl : Nat)
  /-- RETRAINING_FORCED (R477) At D + 200 us a deferred retraining is forced. -/
  | retrainingForced (cl : Nat)
  /-- RETRAINING_END (R476) The 1.6 us pause ends and the next retraining is scheduled. -/
  | retrainingEnd (cl : Nat)
  /-- CREATE_CONTEXT (R26) Validates and writes a context descriptor and clears its tables. -/
  | createContext (q : Nat)
  /-- DESTROY_CONTEXT (R29) Unbinds, waits for commands, drops snapshots and clears V. -/
  | destroyContext (q : Nat)
  /-- BIND (R27) Makes a context resident with the QMASK of ARGA. -/
  | bind (q : Nat)
  /-- UNBIND (R428) Holds and pre-empts the partition and saves its buffer tables. -/
  | unbind (q : Nat)
  /-- WRITE_RECORD (R36) Validates and stores a layout record, invalidating cached copies. -/
  | writeRecord (q : Nat)
  /-- WRITE_TEMPLATE (R35) Validates and stores a copy template. -/
  | writeTemplate (q : Nat)
  /-- WRITE_GATHER_PATTERN (R108) Validates and stores a gather pattern entry in all eight copies. -/
  | writeGatherPattern (q : Nat)
  /-- MAILBOX_SETTINGS (R460) Records a context's mailbox settings. -/
  | mailboxSettings (q : Nat)
  /-- SNAPSHOT_CONFIGURE (R125) Writes a context's snapshot control block. -/
  | snapshotConfigure (q : Nat)
  /-- PAGE_OWNER (R118) Sets OWNER for a physical range of pages. -/
  | pageOwner (q : Nat)
  /-- SNAPSHOT (R460) Host command arming a snapshot in class 0. -/
  | snapshot (q : Nat)
  /-- DECANT_BUFFER (R460) Provides a host buffer to a host-named decant ring. -/
  | decantBuffer (q : Nat)
  /-- TRANSACTION_RESOLVE (R134) Resolves a sealed slot with a given outcome. -/
  | transactionResolve (q : Nat)
  /-- SUBMIT (R394) Accepts or refuses a node descriptor into the node table. -/
  | submit (q : Nat)
  /-- REPLACE_CODE (R411) Replaces a live node's entries from an instant Tr. -/
  | replaceCode (q : Nat)
  /-- DISPATCHER_CONFIGURE (R401) Writes the dispatcher parameters. -/
  | dispatcherConfigure (q : Nat)
  /-- RESOLVE (R56) Requeues or fails tasks parked on a virtual range. -/
  | resolve (q : Nat)
  /-- MIGRATE (R62) Starts the migration of a physical page with a mapper list. -/
  | migrate (q : Nat)
  /-- SHOOT_DOWN (R460) Host-started shoot-down returning the fenced mask. -/
  | shootDown (q : Nat)
  /-- QUERY_TOWER_REMAP (R461) Returns a tower's cr.twmap. -/
  | queryTowerRemap (q : Nat)
  /-- QUERY_CLUSTER_TABLE (R461) Returns cr.clmap and the service bits. -/
  | queryClusterTable (q : Nat)
  /-- QUERY_HBM_DEGRADED (R461) Returns cr.hbmdeg and the failed-channel registers. -/
  | queryHbmDegraded (q : Nat)
  /-- QUERY_PAGE_TAG (R461) Returns the page tag of a physical page. -/
  | queryPageTag (q : Nat)
  /-- QUERY_GATHER_PATTERN (R461) Returns a gather pattern entry. -/
  | queryGatherPattern (q : Nat)
  /-- QUERY_DISPATCHER_PARAMETERS (R461) Returns the dispatcher parameters. -/
  | queryDispatcherParameters (q : Nat)
  /-- QUERY_SAMOVAR_LOG (R461) Returns a record of Samovar's log. -/
  | querySamovarLog (q : Nat)
  /-- QUERY_SLOT_STATUS (R461) Returns the SNAPQ and TXSTATE words of a slot. -/
  | querySlotStatus (q : Nat)
  /-- QUERY_DEVICE_STATUS (R461) Returns DROPW, PTAREA, cr.xlat and the link state. -/
  | queryDeviceStatus (q : Nat)
  /-- RETIRE_CLUSTER (R449) Host request to retire a logical cluster. -/
  | retireCluster (q : Nat)
  /-- FABRIC_JOIN (R471) Rejoins a reset chip to the fabric. -/
  | fabricJoin (q : Nat)
  /-- DOORBELL (R457) Sets a queue's TAIL or stops it as malformed. -/
  | doorbell (q : Nat) (v : BitVec 64)
  /-- QCFG_WRITE (R456) Configures a command ring; EN = 1 resets its indices. -/
  | qcfgWrite (q : Nat) (v : BitVec 64)
  /-- CHEAD_WRITE (R472) The host consumes completion records; writes beyond CTAIL are ignored. -/
  | cheadWrite (q : Nat) (v : BitVec 64)
  /-- FCFG_WRITE (R462) Configures the fault ring; FEN = 1 resets FHEAD and FTAIL. -/
  | fcfgWrite (v : BitVec 64)
  /-- FHEAD_WRITE (R462) Advances FHEAD within the occupied entries. -/
  | fheadWrite (v : BitVec 64)
  /-- ECFG_WRITE (R462) Configures the event ring; EEN = 1 resets EHEAD and ETAIL. -/
  | ecfgWrite (v : BitVec 64)
  /-- EHEAD_WRITE (R462) Advances EHEAD within the occupied entries. -/
  | eheadWrite (v : BitVec 64)
  /-- HOST_REGISTER_WRITE (R456) Write of any other BAR0 register without behaviour of its own. -/
  | hostRegisterWrite (off : Nat) (v : BitVec 64)
  /-- BAR2_WRITE (R453) A host write lands in HBM only within the allowed ranges, else is dropped. -/
  | bar2Write (addr : Nat) (data : List (BitVec 8))
  /-- BAR2_READ (R453) A host read returns HBM data, all ones or Completer Abort. -/
  | bar2Read (addr len : Nat)
  /-- HOST_COMPLETION (R454) A PCIe completion for a device request to the host window arrives. -/
  | hostCompletion (id : Nat) (ok : Bool) (data : List (BitVec 8))
  /-- HOST_COMPLETION_TIMEOUT (R454) A non-posted request without completion for 50 ms fails. -/
  | hostCompletionTimeout (id : Nat)
  /-- REMOTE_READ (R469) A remote read request arrives and is served. -/
  | remoteRead (src : TagSource) (tag addr len : Nat)
  /-- REMOTE_WRITE (R469) A remote masked granule write arrives and performs. -/
  | remoteWrite (src : TagSource) (tag addr : Nat) (mask : BitVec 32) (data : List (BitVec 8))
  /-- REMOTE_ATOMIC (R293) A remote atomic arrives and performs once. -/
  | remoteAtomic (src : TagSource) (tag addr size : Nat) (op : AmoOp) (x exp : BitVec 64)
  /-- REMOTE_BANK_SIDE (R105) A remote bank-side request arrives for the local base die. -/
  | remoteBankSide (src : TagSource) (tag : Nat) (r : BankReq)
  /-- DECANT_WRITE_MSG (R469) A decant write arrives at a peer target. -/
  | decantWriteMsg (src : TagSource) (tag addr : Nat) (data : List (BitVec 8))
  /-- REMOTE_RESPONSE (R467) Read data, acknowledgement or old value reaches the requester by tag. -/
  | remoteResponse (tag : ReqId) (st : RespStatus) (v : List (BitVec 8))
  /-- REQUEST_REISSUE (R467) SLTMO passes without a response and the request is reissued. -/
  | requestReissue (tag : ReqId)
  /-- PEER_UNRESPONSIVE (R467) After the third reissue times out the peer is fenced and the request fails. -/
  | peerUnresponsive (tag : ReqId)
  /-- NAK (R465) A NAK makes the sender replay from the expected sequence number. -/
  | nak (port seq : Nat)
  /-- PORT_DOWN (R470) A port exceeding replays or silent for 100 us goes down and paths are dropped. -/
  | portDown (port : Nat)
  /-- PORT_RETRAIN (R470) Every 10 ms a down port retrains and may return to service. -/
  | portRetrain (port : Nat) (ok : Bool)
  /-- ICINV_MSG (R297) An ICINV message drops instruction lines on a chip. -/
  | icinvMsg (src id cid va len : Nat)
  /-- ICINV_ACK_MSG (R297) An ICINV acknowledgement arrives. -/
  | icinvAckMsg (id chip : Nat)
  /-- GTC_ALIGN_TIMER (R468) Every 100 us a link exchanges time-stamped GTC flits. -/
  | gtcAlignTimer (port : Nat)
  /-- GTC_ALIGN_MSG (R468) A GTC flit arrives and the chip slews its GTC rate. -/
  | gtcAlignMsg (src stamp : Nat)
  /-- GTC_BOUND_LOST (R468) A chip unable to confirm the 25 ns bound for 1 ms is fenced. -/
  | gtcBoundLost (chip : Nat)
  /-- JOIN_MSG (R471) A join arrives and the chip clears its fence. -/
  | joinMsg (chip : JoinNote)
  /-- LATCH_ROWS_ARRIVE (R341) Rows sent by a cross-cluster shift reach the neighbour's latch, which becomes FULL. -/
  | latchRowsArrive (cl : Nat) (north : Bool)
  /-- POWER_ON (R483) A power-on runs the bring-up sequence. -/
  | powerOn (checks : BootChecks)
  /-- FUNCTION_LEVEL_RESET (R483) A Function Level Reset resets the whole device and runs bring-up. -/
  | functionLevelReset (checks : BootChecks)
  /-- REJOIN_RESET (R471) A reset for rejoin runs bring-up with a configuration image. -/
  | rejoinReset (image : Image) (checks : BootChecks)
  /-- ATTESTATION_REQUEST (R481) Samovar answers a nonce over I3C with signed identity digests. -/
  | attestationRequest (nonce : BitVec 256)
  /-- VCYC (R187) One step of the X-core's virtual cycle counter, at which every result due at that vcyc lands and timed effects such as a TWST access or an XSEMV increment take place. -/
  | vcyc (cl : Nat) (cmps : List Cmp)
  /-- REFILL_DRAIN_TOWER_ACCESS (R95) A refill or drain path's access to a tower bank is served, writing or reading an aligned 64-byte unit, or is replayed in the next clk. -/
  | refillDrainTowerAccess (cl id k : Nat) (cmps : List Cmp)
  /-- JUNCTION_TEMPERATURE_CHANGE (R92) The junction temperature crosses 95 degrees C, setting or clearing HOT and halving or restoring the effective IVL and MAXDEF. -/
  | junctionTemperatureChange (hot : Bool)
  /-- BAD_CRC_FLIT (R465) A Slober Link receiver gets a flit with a bad CRC, an unknown TYPE or an out-of-order SEQ, discards it and answers with a NAK where R465 requires one. -/
  | badCrcFlit (port : Nat) (flit : List (BitVec 8))
  /-- IDLE_ACK_FLIT (R465) An idle or ACK flit arrives and its ACK field releases acknowledged flits from the replay buffer. -/
  | idleAckFlit (port ack : Nat)
  /-- START_REFUSAL_MSG (R204) A refusal of START reaches the originating chip, which repeats the barrier once with a new G and a 100 us lead, or fails the node on a second refusal. -/
  | startRefusalMsg (node chip : Nat)
  /-- TAG_MEMORY_EXPIRY (R467) 10 ms after a target performed a request, it forgets that request's end-to-end tag and response. -/
  | tagMemoryExpiry (src : TagSource) (tag : Nat)
  /-- TAG_REUSE_EXPIRY (R467) 20 ms after the last send that carried a tag, the tag becomes free at its source, and a request waiting for a free tag may be sent. -/
  | tagReuseExpiry (tag : ReqId)
  /-- NETWORK_FLIT_CRC_FAILURE (R478) A 64-byte flit on a broadcast column, express or quad network fails its CRC-16 and is resent, or is delivered poisoned after 8 resends. -/
  | networkFlitCrcFailure (cl : Nat) (what : NetUnit) (k resends : Nat)
  /-- CONFIGURATION_REQUEST (R483) A PCIe Configuration Request arrives and, before bring-up step 7, is answered with Configuration Request Retry Status. -/
  | configurationRequest
  /-- HOST_ATOMICOP_TO_BAR (R452) A host AtomicOp request to a device BAR completes with Unsupported Request. -/
  | hostAtomicopToBar
  deriving DecidableEq, Repr

end Sys2Proof
end

