-- ==== Sys2Proof/Machine/State.lean ====
section
/-! DEFINITION. The state of the device as plain data: the chip, its 192 clusters, its contexts, its dispatcher, its
host interface and its fabric ports; the machine's faults and refusals; and the state right after reset. -/

namespace Sys2Proof.Machine

/-- Why the machine stops with a fault. -/
inductive Fault where
  /-- Raised by `step` when the agenda gives a turn to a cluster number above 191, which no cluster has (R8). Safe:
  the model stops where no agent of the device exists. -/
  | noSuchCluster
  deriving DecidableEq, Repr

/-- Why the machine refuses to go on. -/
inductive Refusal where
  /-- Raised by `exec` for a row that has no meaning yet, by its mnemonic. Safe: the model stops. -/
  | notModelled (mnemonic : String)
  /-- Raised by `step` when the agenda names an instruction row as an event: instructions run only by being fetched.
  Safe: the model stops where no step of the device exists. -/
  | notAnEvent
  deriving DecidableEq, Repr

/-- A tile of 16 x 64 lane words (R8): lane number 64 r + c to its word, unlisted lanes 0. -/
abbrev Tile := NMap W32
/-- A predicate: one bit per lane number (R322). -/
abbrev Pred := BitVec 1024

/-! ### Memory accesses and engine commands -/

/-- The memory an access goes to (R140). -/
inductive Place where
  | sp | hbm | host | remote (chip : Nat)
  deriving DecidableEq, Repr

/-- A scalar access accepted and not yet complete (R286): its program-order number, what it does, where, and how it is
ordered; `late` names the node entry and the task of a store that its task left behind: one that waits for a pool frame when the task is
suspended (R127), or, as `orphan`, one that had left its queue when the task was aborted (R51). `pc` is the address of its instruction; `left`
says that it has left the scalar store queue, matched and compared (R51, R288, R432), `seen` that a load of the core has read it (R146), `redo`
that it was refused with retry and waits for a new translation (R63), `vig` that the Vigil core formed the same (R432). `pa` of a scratchpad place is
2^22 times the cluster plus the address; `word` says that a store is a BWSET (its TARGET) or a BWARRIVE (n and err); `val` is the value
fixed and not yet in its register; `wins` is the mask of fence windows that count it; `xl` is the number of messages sent before its translation, by which a shoot-down knows it (R57). -/
structure Acc where
  seq : Nat
  xl : Nat
  cid : Nat
  dst : Nat
  op : Option AmoOp
  store : Bool
  place : Place
  va : Nat
  pa : Nat
  size : Nat
  sx : Bool
  data : Nat
  exp : Nat
  cls : Nat
  scope : Scope
  aq : Bool
  rl : Bool
  pcl : Nat
  wins : Nat
  tag : Option Nat
  word : Option (Bool × Nat × Nat)
  val : Option Nat
  late : Option (Nat × Nat)
  redo : Bool
  orphan : Bool
  left : Bool
  seen : Bool
  vig : Bool
  pc : W64
  deriving DecidableEq, Repr

/-- An endpoint of an engine command, from its locator (R18). -/
inductive Ep where
  | none
  | va (a : Nat)
  | sp (cl a : Nat)
  | tw (cell : Option Nat) (a : Nat)
  deriving DecidableEq, Repr

/-- The engine commands of R283. -/
inductive CmdKind where
  | tldq | sqd | xcopy | tfill | tdrain | gather | nmred | nmcas | nmsax | msend
  deriving DecidableEq, Repr

/-- An engine command accepted and not yet completed (R286), with the context, mode and task it was accepted for, its latched
operands (R38) and its progress. `unit`s
are the pieces of work the performing rows take; `got` are units read into `buf`, `done` are units performed; `lock` is 0
unlocked, 1 waiting, 2 holding its banks, `ask` numbers when it asked (R70); `gran` are the granules of piece `piece` written (R71); `performed`
and `counted` are the bytes of R159; `vig` says that the Vigil core formed the same command (R432), and
`pc` is the address of its instruction. -/
structure Cmd where
  id : Nat
  cid : Nat
  mode : Mode
  node : Nat
  task : Nat
  seq : Nat
  kind : CmdKind
  cls : Nat
  pcl : Nat
  scope : Scope
  word : Option (Nat × Nat)
  src : Ep
  dst : Ep
  count : Nat
  aux : Nat
  bcast : Bool
  layout : Nat
  tpl : Option Nat
  pat : Nat
  stamp : Option Nat
  started : Bool
  lock : Nat
  ask : Nat
  piece : Nat
  gran : List Nat
  got : List Nat
  done : List Nat
  buf : Memory
  performed : Nat
  counted : Nat
  wins : Nat
  vig : Bool
  pc : W64
  deriving DecidableEq, Repr

/-- A fence window (R149). -/
structure Window where
  sp : Bool
  cl : Nat
  base : Nat
  len : Nat
  deriving DecidableEq, Repr

/-- What an A-core waits for (R285, R386). -/
inductive WaitKind where
  | fence | fencew | wset | wclr | icinv | txbegin | txcommit | tldq | sqd | room | waitgen | semv | semp | btake | bgive
  | walk | grow | shoot | dev
  deriving DecidableEq, Repr

/-- What an A-core has issued past the instruction at its pc, which waits (R285): the address of the next instruction, and the registers
written, in the A-core and as the Vigil core has them. -/
structure Ahead where
  pc : W64
  gs : List (Nat × W64)
  vs : List (Nat × W64)
  deriving DecidableEq, Repr

/-- The instruction that an A-core waits at, its destination register (0 for none), since when, the number that a WALK row knows it by, and what
has issued past it (R285). -/
structure Wait where
  kind : WaitKind
  f : AF
  dst : Nat
  since : Nat
  id : Nat
  ahead : Option Ahead
  deriving DecidableEq, Repr

/-- Whether an A-core issues: idle, running, ended by TEXIT (R315), held by HALT or PAUSE until a clk (R386), stopped until a reset of the
device (R436), halted for pre-emption (R422), or stopped by a double fault until Samovar resets the cluster's cores (R383). -/
inductive ARun where
  | idle | run | exited | halted (til : Option Nat) | dead | frozen | faulted
  deriving DecidableEq, Repr

/-- A cached translation (R47): context, virtual page, page size bit and leaf entry. -/
structure TlbEnt where
  cid : Nat
  vpn : Nat
  big : Bool
  leaf : Nat
  deriving DecidableEq, Repr

/-- A cached 64-byte line of an L1 (by physical address, CID 0, with the virtual address of its line) or of an instruction cache (by CID and
virtual address). -/
structure CLine where
  cid : Nat
  addr : Nat
  va : Nat
  data : List Byte
  deriving DecidableEq, Repr

/-- The send status of R311. -/
structure SendStat where
  free : Nat
  clu : Nat
  chip : Nat
  valid : Bool
  refused : Bool
  deriving DecidableEq, Repr

/-- A GROW whose answer has not reached gd (R316). -/
structure GrowReq where
  dst : Nat
  n : Nat
  applied : Option Nat
  deriving DecidableEq, Repr

/-- An X trap waiting to be taken (R416), or the trap of a protection mismatch of an A-core access, whose `slot` is then 1 for one of the task and
0 for one of firmware (R431). -/
structure XTrap where
  code : Nat
  detail : Nat
  tval : Nat
  slot : Nat
  deriving DecidableEq, Repr

/-- The state of an A-core; `stamp` is the newest sequence stamp of its copies (R302), `due` the trap of a protection mismatch that waits for the
next instruction boundary (R431), and `doomed` is DETAIL and TVAL of one for which the task is aborted and requeued when firmware returns to it (R419; log 100). -/
structure ACore where
  pc : W64
  g : NMap W64
  run : ARun
  mode : Mode
  sstat : W64
  epc : W64
  cause : W64
  tval : W64
  tvec : W64
  pend : W64
  scr : NMap W64
  sems : NMap Nat
  wins : NMap (Option Window)
  seq : Nat
  loads : List Acc
  stores : List Acc
  cmds : List Cmd
  nextId : Nat
  wait : Option Wait
  send : SendStat
  l1 : List CLine
  tlb : List TlbEnt
  icache : List CLine
  stamp : Nat
  growCount : Nat
  growReq : Option GrowReq
  due : Option XTrap
  doomed : Option (Nat × Nat)
  deriving DecidableEq, Repr

/-! ### The X-core -/

/-- What a syllable does when it lands (R187): a masked tile or predicate write, an x write, flags, the k7 result of R192,
a push, a predicate pack, a tower access, a semaphore increment, a loop setup, a value of cr.ls or cr.xfp, a clear of flags, the
departure of rows to a neighbour's latch, or the emptying of the own latch (R341). -/
inductive Eff where
  | tile (phys : Nat) (mask : Pred) (v : Tile)
  | pred (n : Nat) (mask : Pred) (v : Pred)
  | x (n : Nat) (v : W64)
  | flags (v : Nat)
  | k7 (ok : Bool)
  | push (q : Nat) (v : Tile)
  | kstq (q : Nat) (k : Pred) (j : Nat) (push : Bool)
  | twld (phys : Nat) (mask : Pred) (addr : NMap Nat)
  | twst (mask : Pred) (addr : NMap Nat) (v : Tile)
  | sem (k n : Nat)
  | loop (lc ec rb : Nat) (ks : List Pred)
  | ls (v : Nat)
  | xfp (v : Nat)
  | xfpClear (m : Nat)
  | send (target : Nat) (north : Bool)
  | latch (north : Bool)
  deriving DecidableEq, Repr

/-- A result in flight (R201): the vcyc it lands in, the slot and vcyc of its issue, its protection class, its effect, and
the value of an x register as the Vigil core has formed it where that is another (R432). -/
structure Landing where
  due : Nat
  issued : Nat
  slot : Nat
  pcl : Nat
  eff : Eff
  vig : Option W64
  deriving DecidableEq, Repr

/-- A slot of a load queue (R82). -/
structure LSlot where
  cmd : Nat
  ready : Bool
  tile : Tile
  poison : Bool
  deriving DecidableEq, Repr

/-- The run state of the X-core: idle, running, ended by XEND, draining and then stopped by a trap (R416), or halted for
pre-emption at a CHKPT or at a freeze (R200), with the live-range table of the halt; `fin` says that it had ended. -/
inductive XRun where
  | idle | run | ended | draining | stopped | halted (freeze fin : Bool) (table : Nat)
  deriving DecidableEq, Repr

/-- A frozen vcyc and its cause (R190); a waiting MWAIT names every record, or those of a tag. -/
inductive Freeze where
  | queue | sem (k : Nat) | mwait (all : Bool) (tag : Nat) | tower | recQueue | fetch | retrain | beats (left : Nat) | vigil
  deriving DecidableEq, Repr

/-- The state of an X-core; `semGot` is the semaphore that an XSEMP which has frozen the counter has lowered and not yet issued on (R190). -/
structure XCore where
  pc : Nat
  indep : Bool
  spc : NMap Nat
  jump : Option Nat
  joins : NMap (Option (Nat × Nat))
  x : NMap W64
  t : NMap Tile
  k : NMap Pred
  lc : Nat
  rb : Nat
  ec : Nat
  ls : W64
  xfp : W64
  run : XRun
  trap : Option XTrap
  soft : Bool
  vcyc : Nat
  issued : Bool
  freeze : Option Freeze
  frozenAt : Nat
  semGot : Option Nat
  land : List Landing
  ckpt : Option Nat
  ckptNow : Bool
  icache : List CLine
  lq : NMap (List LSlot)
  sq : NMap (List Tile)
  pack : NMap Tile
  dq : List Tile
  hq : List Tile
  latchN : Option Tile
  latchS : Option Tile
  deriving DecidableEq, Repr

/-! ### The matrix array -/

/-- A weight set (R348): the sparsity factor, the signed-magnitude weights at 512 n + k (bit 8 is the sign), and the block
scales at 32 n + b, where `none` is NaN. -/
structure WSet where
  f : Nat
  w : NMap Nat
  scale : NMap (Option Int)
  deriving DecidableEq, Repr

/-- A record issued and not yet complete (R223, R225, R369): the fields of its line as issued, the linear index `j` of its next single issue,
whether it has begun and with which sparsity factor, the bytes its completion word has counted, the scales it has popped for its current
single issue (R358, R369), and whether it failed with 0x43 during a save (R429). -/
structure Rec where
  id : Nat
  ropc : Nat
  pcl : Nat
  mods : Nat
  trips : List Nat
  base : List Nat
  str : List (List Int)
  cw : Option Nat
  scope : Scope
  tag : Nat
  j : Nat
  began : Bool
  f : Nat
  counted : Nat
  scales : List Nat
  failed : Bool
  deriving DecidableEq, Repr

/-- An MMA single issue begun whose sums are not yet added (R354, R361): its record, and the sum of each accumulator element. -/
structure Pass where
  id : Nat
  sums : List (Nat × Nat)
  deriving DecidableEq, Repr

/-- A single issue of a DRAIN to scratchpad under way (R69, R70, R354): its record, the address of the tile image, the number by which it asked for
its banks, the image once it has them, and the granules written. -/
structure TileWrite where
  id : Nat
  at_ : Nat
  ask : Nat
  data : Option (List Byte)
  gran : List Nat
  deriving DecidableEq, Repr

structure Arr where
  active : WSet
  shadow : WSet
  acc : NMap W32
  scaleQ : List Nat
  recQ : List Rec
  arrayE : List Rec
  loaderE : List Rec
  pusherE : List Rec
  nestE : List Rec
  passes : List Pass
  drain : Option TileWrite
  nextRec : Nat
  deriving DecidableEq, Repr

/-! ### Clusters -/

/-- The Vigil core's own copy of the control registers, and whether it is 16 clk behind (R190, R432). -/
structure Vigil where
  g : NMap W64
  x : NMap W64
  lc : Nat
  ec : Nat
  rb : Nat
  behind : Bool
  deriving DecidableEq, Repr

/-- What the dispatcher has on a cluster (R402): nothing, a task placed and being cleared or restored, running, or saving. -/
inductive Occ where
  | free | placed | restoring | running | halting | saving
  deriving DecidableEq, Repr

/-- The state of a cluster outside its cores and array; the entries are those of the task placed on it. `cid` is that task's context, `ranCid`
that of the task running or last run (R379), and `dataCid` the context whose data the cluster's memories may hold (R28). -/
structure Ctl where
  occ : Occ
  cid : Nat
  ranCid : Nat
  dataCid : Option Nat
  runBit : Bool
  node : Nat
  task : Nat
  placedAt : Nat
  aentry : Nat
  xentry : Nat
  held : Bool
  unbindHeld : Bool
  preempt : Bool
  mbox : W64
  mbHead : Nat
  mbTail : Nat
  mbOwner : Nat
  mbPos : Nat
  twsel : W64
  remap : NMap W64
  due : NMap Nat
  due0 : NMap Nat
  refreshedAt : NMap Nat
  refreshing : NMap Bool
  lastAcc : NMap Nat
  asleep : NMap Bool
  grant : Nat
  used : Nat
  usedNow : Nat
  capped : Bool
  capNow : Bool
  retrainDue : Nat
  retrainEnd : Option Nat
  deriving DecidableEq, Repr

/-- A cluster; `streams` are its stream TLBs (R47): the copy channels, the gather path, the refill path, the drain path and the X-stream
fetcher. -/
structure Cluster where
  streams : NMap (List TlbEnt)
  a : ACore
  x : XCore
  ctl : Ctl
  arr : Arr
  sp : Memory
  tw : Memory
  vigil : Vigil
  deriving DecidableEq, Repr

/-! ### Contexts -/

/-- A fault record (R51, R55). -/
structure FRec where
  page : Nat
  kind : Nat
  acc : Nat
  agent : Nat
  node : Nat
  task : Nat
  gtc : Nat
  deriving DecidableEq, Repr

/-- A range of a closed batch (R55). -/
structure FRange where
  page : Nat
  pages : Nat
  kind : Nat
  acc : Nat
  agent : Nat
  tasks : Nat
  first : Nat
  deriving DecidableEq, Repr

/-- A closed batch (R54, R55). -/
structure Batch where
  coarse : Bool
  bseq : Nat
  nrec : Nat
  gtc : Nat
  ranges : List FRange
  deriving DecidableEq, Repr

inductive SnapSt where
  | free | armed | pending | live | done | dropped | failed
  deriving DecidableEq, Repr

/-- A snapshot slot (R119). `t` is 0 until the instant is fixed; `answers` and `refused` are the chips of the group that have accepted and
refused, `confirmed` and `cancelled` what the group came to (R124); `past` are the instants of the slot's earlier groups of this chip and whether
each was confirmed (log 101); `cl` is the cluster of its SNAP, and `awaits` are the accesses and commands that P waits for: cluster, number, and whether
it is a command (R120). -/
structure Snap where
  st : SnapSt
  t : Nat
  gen : Nat
  abnd : Bool
  code : Nat
  target : Nat
  mask : BitVec 64
  origin : Nat
  answers : BitVec 64
  refused : BitVec 64
  confirmed : Bool
  cancelled : Bool
  past : List (Nat × Bool)
  cl : Nat
  awaits : List (Nat × Nat × Bool)
  word : Option (Nat × Nat)
  header : Bool
  npg : Nat
  decpg : Nat
  decanted : List Nat
  crc : Nat
  pos : Nat
  lastProg : Nat
  armedAt : Nat
  deriving DecidableEq, Repr

inductive TxSt where
  | free | open | voted | decided | committed | aborted
  deriving DecidableEq, Repr

/-- A transaction slot (R134); `early` holds the votes (chip, TXID, mask, yes) that reached a coordinator before its own
TXBEGIN. -/
structure Tx where
  st : TxSt
  txid : Nat
  code : Nat
  mask : BitVec 64
  drops : Nat
  windows : List (Nat × Nat)
  word : Option (Nat × Nat)
  cl : Nat
  votes : BitVec 64
  acks : BitVec 64
  tc : Nat
  begun : Nat
  lastAsk : Nat
  early : List (Nat × Nat × BitVec 64 × Bool)
  deriving DecidableEq, Repr

/-- A pool frame in use (R122, R131): what it is a copy of and which snapshot slots hold it. -/
structure Frame where
  origin : Nat
  holders : List Nat
  staged : Bool
  order : Nat
  deriving DecidableEq, Repr

/-- A buffer table entry (R72, R75): state 0 FREE, 1 HELD, 2 OFFERED. -/
structure Buf where
  st : Nat
  base : Nat
  len : Nat
  home : Nat
  who : Nat
  deriving DecidableEq, Repr

/-- A suspension record (R424); `tw` holds bytes by 262,144 times the cell plus the tower address, `bad` the poisoned units among what
is saved, by their logical places. -/
structure Susp where
  task : Nat
  cl : Nat
  a : ACore
  x : XCore
  arr : Arr
  sp : Memory
  tw : Memory
  mbox : W64
  mbHead : Nat
  mbTail : Nat
  mbPos : Nat
  at_ : Nat
  bufs : NMap Buf
  bad : List MemUnit
  deriving DecidableEq, Repr

/-- The device's state of one context (R24-R29). `instants` are the snapshot instants reached (R117), and `decFree` is when the decant
engine last came to the end of a slot that it served (R126, R128). -/
structure Ctx where
  resident : Bool
  aborted : Bool
  recs : List FRec
  openedAt : Nat
  bseq : Nat
  held : List Batch
  mbox : Option W64
  scb : Nat
  cg : Nat
  instants : List Nat
  decFree : Nat
  snaps : NMap Snap
  txs : NMap Tx
  frames : NMap (Option Frame)
  frameSeq : Nat
  rings : NMap (List (Nat × Nat))
  savedBufs : NMap Buf
  deriving DecidableEq, Repr

/-! ### Dispatcher -/

/-- A task parked on faulting pages (R51, R56). -/
structure Parked where
  task : Nat
  pages : List Nat
  order : Nat
  deriving DecidableEq, Repr

/-- Where a node of the table stands. -/
inductive NodeSt where
  | waiting | barrier | ready | done (status : Nat)
  deriving DecidableEq, Repr

/-- An entry of the node table (R392, R395, R398); `exts` holds, per task, the
extent of the outermost spatial level when the task was first issued (R317), `poolSeq` numbers its entry to the ready pool (0 outside it), its waiting
time (R399) counts from `waitFrom`, and `repls` are the replacements of its code to come: instant and entries (R411). -/
structure Node where
  id : Nat
  cid : Nat
  prio : Nat
  ntag : Nat
  aentry : Nat
  xentry : Nat
  exts : NMap Nat
  arg0 : Nat
  arg1 : Nat
  chipmask : BitVec 64
  loops : List (Nat × Nat)
  opers : List (Nat × Nat)
  queue : Nat
  order : Nat
  origin : Nat
  originId : Nat
  st : NodeSt
  failing : Nat
  next : Nat
  requeued : List Nat
  parked : List Parked
  susp : List Susp
  retired : Nat
  grows : NMap (List Nat)
  badCl : NMap (List Nat)
  rung4 : NMap Nat
  poisonHit : NMap (List MemUnit)
  poolSeq : Nat
  waitFrom : Nat
  gen : Nat
  ts : Nat
  readyMask : BitVec 64
  refusals : Nat
  started : Bool
  reports : BitVec 64
  reportTasks : Nat
  repls : List (Nat × Nat × Nat)
  finishedAt : Nat
  deriving DecidableEq, Repr

/-! ### Host queues, migrations, shoot-downs -/

/-- A replica of a node in the host queue of a chip of its mask (R395): the place of TAIL when it arrived, the originating chip and its
identifier there, the descriptor, and the replacements of its code that have come (R411). -/
structure Fwd where
  mark : Nat
  src : Nat
  id : Nat
  desc : Nat
  repls : List (Nat × Nat × Nat)
  deriving DecidableEq, Repr

/-- A host command queue (R456): its registers, how far a head command that takes several steps has come, with a number of its own, and the
replicas that wait among its commands (R395). -/
structure Queue where
  qcfg : W64
  pcfg : W64
  head : Nat
  tail : Nat
  wait : Bool
  mal : Bool
  chead : Nat
  ctail : Nat
  cwb : W64
  phase : Nat
  note : Nat
  fwds : List Fwd
  deriving DecidableEq, Repr

/-- Who waits for a shoot-down: an A-core, a host queue, the flip of a migration, or a parent in the tree of R58. -/
inductive ShootBy where
  | core (cl : Nat) | queue (q : Nat) | flip (page : Nat) | peer (src : Nat)
  deriving DecidableEq, Repr

/-- A shoot-down in progress (R57-R59): `mask` are the chips that have acknowledged, `expect` those whose acknowledgements are
awaited. The originating chip is `id` modulo 64; `num` is the number of messages sent before it began here. -/
structure Shoot where
  id : Nat
  num : Nat
  scope : ShootScope
  owner : ShootBy
  mask : BitVec 64
  expect : BitVec 64
  sentAt : Nat
  resent : Bool
  fencedMask : BitVec 64
  deriving DecidableEq, Repr

/-- An ICINV in progress on its originating chip (R297): the cluster or the node it is for, the chips awaited and those heard. -/
structure Icinv where
  id : Nat
  cl : Option Nat
  node : Option Nat
  cid : Nat
  va : Nat
  len : Nat
  expect : BitVec 64
  got : BitVec 64
  deriving DecidableEq, Repr

/-- The state of a page that is not simply in service (R61). -/
inductive PageSt where
  | inService | copying (dirty : List Nat) | flipping | offline
  deriving DecidableEq, Repr

/-- An entry of a mapper list (R460). -/
structure Mapper where
  chip : Nat
  kind : Nat
  addr : Nat
  deriving DecidableEq, Repr

/-- A migration in progress (R62), by page numbers: the round under way, 0 for the first copy of the whole page, the sectors that
it copies, and the entries of the mapper list that step 1, or in the flip step 5, has still to reach. -/
structure Mig where
  src : Nat
  dst : Nat
  round : Nat
  todo : List Nat
  mappers : List Mapper
  pend : List Mapper
  queue : Nat
  retire : Bool
  deriving DecidableEq, Repr

/-! ### Fabric -/

/-- A message on a Slober Link port, by the flit types of R469; `transit` is a flit of other chips that goes on (R466). -/
inductive Msg where
  | read (tag : ReqId) (addr len : Nat)
  | write (tag : ReqId) (addr : Nat) (data : List Byte)
  | atomic (tag : ReqId) (addr size : Nat) (op : AmoOp) (x exp : Nat)
  | bankSide (tag : ReqId) (r : BankReq)
  | decant (tag : ReqId) (addr : Nat) (data : List Byte)
  | response (tag : ReqId) (st : RespStatus) (data : List Byte)
  | mail (m : MailMsg)
  | mailAck (cl id free : Nat) (st : MailStatus)
  | shoot (id : Nat) (scope : ShootScope)
  | shootAck (id count : Nat) (mask : BitVec 64)
  | icinv (id cid va len : Nat)
  | icinvAck (id chip : Nat)
  | node (id q : Nat) (desc : List Nat)
  | ready (node : Nat)
  | start (node g ts : Nat)
  | startRefused (node : Nat)
  | replace (node tr a x : Nat)
  | report (node tasks : Nat) (failed own : Bool)
  | arm (cid slot t : Nat)
  | armAnswer (cid slot : Nat) (ok : Bool)
  | confirm (cid slot : Nat)
  | cancel (cid slot : Nat)
  | snapQuery (cid slot t : Nat)
  | vote (tag : ReqId) (cid slot txid : Nat) (mask : BitVec 64) (yes : Bool)
  | decide (tag : ReqId) (cid slot tc : Nat)
  | txAck (tag : ReqId) (cid slot : Nat)
  | outcome (tag : ReqId) (cid slot tc code : Nat)
  | outcomeQuery (cid slot : Nat)
  | gtc (stamp : Nat)
  | fence (chip : Nat)
  | join (tag : ReqId) (chip : Nat)
  | nak (expect : Nat)
  | ack (seq : Nat)
  | transit (flit : List Byte)
  deriving DecidableEq, Repr

/-- A Slober Link port (R463-R465, R468, R470): the replay buffer holds the sequence number of a message's last flit, destination and message,
and `wait` what awaits credits of its virtual channel, oldest first; a GTC flit is sent again at `alignAt`; `rx` is the SEQ expected next, and
`crcFails` counts the flits whose CRC or TYPE was bad. -/
structure Port where
  up : Bool
  txSeq : Nat
  replay : List (Nat × Nat × Msg)
  wait : List (Nat × Msg)
  replays : Nat
  lastAck : Nat
  trainAt : Nat
  alignAt : Nat
  rx : Nat
  crcFails : Nat
  deriving DecidableEq, Repr

/-- Who sent a Slober Link request (R467); `mig` is Samovar rewriting a mapper of a migrating page (R62), `peer` another chip whose
request goes on to this chip's host window (R21, R45), `tx` a message of a transaction slot (R133), and `join` one of a join (R471). -/
inductive ReqBy where
  | acc (cl seq : Nat) | cmd (cl id unit : Nat) | decant (cid slot t : Nat) | fetch (cl cid : Nat) (x : Bool) (va : Nat)
  | mig (page : Nat) | peer (src : Nat) (m : Msg) | tx (cid slot : Nat) | join (chip : Nat)
  deriving DecidableEq, Repr

/-- A request of this chip awaiting its response (R467), the number of messages sent before it, and the port it was sent over (R470);
`held`: it was refused with retry and waits for a new translation (R63). `part` is the other half of a line that is fetched in two
reads. -/
structure Req where
  tag : ReqId
  num : Nat
  peer : Nat
  owner : ReqBy
  port : Option Nat
  msg : Msg
  sends : Nat
  lastSent : Nat
  held : Bool
  part : List Byte
  deriving DecidableEq, Repr

/-- A request of a peer that this chip has performed (R467). -/
structure Remembered where
  src : TagSource
  tag : Nat
  at_ : Nat
  st : RespStatus
  data : List Byte
  deriving DecidableEq, Repr

/-- A PCIe request awaiting its completion, at a host address for some bytes (R454). -/
structure HostReq where
  id : Nat
  owner : ReqBy
  addr : Nat
  len : Nat
  sentAt : Nat
  deriving DecidableEq, Repr

/-- A scrub read awaiting its write-back: the corrected bytes of the unit, and whether another write to it has performed since (R439). -/
structure Scrub where
  unit : MemUnit
  data : List Byte
  overtaken : Bool
  deriving DecidableEq, Repr

/-- Latch rows on their way to a neighbour (R341). -/
structure Flight where
  cl : Nat
  north : Bool
  rows : Tile
  sent : Bool
  deriving DecidableEq, Repr

/-! ### The device -/

/-- Who moves in a turn: an A-core with the instruction at its pc, or with one past an instruction that waits there (R285); an A-core's fetch of
the `n`-th line after that of its pc (R266); an X-core; or an event. -/
inductive Who where
  | acore (cl : Nat) | ahead (cl : Nat) | fetchAhead (cl n : Nat) | xcore (cl : Nat) | event (i : Instr)
  deriving DecidableEq, Repr

/-- A turn of the agenda: the clk that pass before it, who moves, and how many clk a cluster's Vigil core is behind now, where that is told
(R265, R432; log 1). -/
structure Turn where
  dt : Nat
  who : Who
  lag : Option (Nat × Nat) := none
  deriving DecidableEq, Repr

/-- A bring-up under way (R483): its image, what its checks and training find, and the clk at which it began. -/
structure Boot where
  image : Image
  checks : BootChecks
  since : Nat
  deriving DecidableEq, Repr

/-- Control registers and fixed-function state of the device; `intervals` counts the power intervals since bring-up (R475), `spent` holds the
energies that the power arbiter estimates for the last intervals, the latest first (R474), and `aligned` holds the GTC at which each chip was
last seen within 25 ns (R468). -/
structure Dev where
  chip : Nat
  sdtmo : Nat
  rsvBase : Nat
  alm : W64
  hot : Bool
  clmap : W64
  clsvc : Nat
  failed : List Nat
  top : Nat
  gen : W64
  erbase : W64
  erHead : Nat
  erDrops : Nat
  erOvf : Bool
  erTail : Nat
  fenced : BitVec 64
  ptArea : Nat
  stage : Nat
  bootFail : Nat
  ready : Bool
  boot : Option Boot
  bootedAt : Nat
  intervals : Nat
  spent : List Nat
  aligned : NMap Nat
  thresholds : List Nat
  routes : List (Nat × List Nat)
  secret : Nat
  image : Image
  deriving DecidableEq, Repr

/-- An error that the function reports by AER (R452, R478): a completion of its own with Completer Abort or Unsupported Request, and a request of
its own that got no completion. -/
inductive AerErr where
  | completerAbort | unsupported | timeout
  deriving DecidableEq, Repr

/-- A completion that the device sends for a PCIe request of the host (R452, R453, R483). -/
inductive HostAns where
  | data (bs : List Byte) | completerAbort | unsupported | configRetry
  deriving DecidableEq, Repr

/-- Host-visible device page (R462) and PCIe state: requests of the device without a completion, MSI-X vectors fired, answers over I3C, and
completions for requests of the host; `aer` are the errors reported; `posted` are the units of host writes that wait, in order (R166). -/
structure HostPage where
  fcfg : W64
  fhead : Nat
  ftail : Nat
  ecfg : W64
  ehead : Nat
  etail : Nat
  edrop : Nat
  dropw : Nat
  reqs : List HostReq
  msix : List Nat
  i3c : List (List Nat)
  answers : List HostAns
  aer : List AerErr
  posted : List (Nat × List Byte)
  deriving DecidableEq, Repr

/-- A cluster retirement under way (R449): the column, the failed physical row, the row that the next move fills, when the hold began,
and the failing cluster. -/
structure Retire where
  col : Nat
  row : Nat
  next : Nat
  since : Nat
  cl : Nat
  deriving DecidableEq, Repr

/-- Reliability state (R437-R451): records held for ordering, records on their way to the event ring and those held for want of room
there, Samovar's log, every record delivered (for the windows of R441), failed physical rows as column and row, scrubs, cluster
retirements under way and those asked for, and tower remaps that wait for their cluster to halt, as cluster, cell and bank. -/
structure Rel where
  held : List ErrRec
  evHold : List ErrRec
  evWait : List ErrRec
  samLog : List ErrRec
  history : List ErrRec
  failedRows : List (Nat × Nat)
  scrubs : List Scrub
  retiring : List Retire
  asked : List Nat
  remaps : List (Nat × Nat × Nat)
  deriving DecidableEq, Repr

/-- Dispatcher state (R391-R412). `preempts` are the urgent tasks (entry and task) with the victim that each awaits (R404), `pending` the clusters
that a pre-emption has been asked of, with the reason, 0 for urgent work and 1 for a hold (R404, R407). -/
structure Disp where
  nodes : NMap (Option Node)
  reuse : NMap Nat
  pool : List Nat
  poolNext : Nat
  served : NMap Nat
  age : Nat
  upre : Bool
  thr : NMap Nat
  launches : Nat
  accepts : Nat
  preempts : List (Nat × Nat × Nat)
  pending : List (Nat × Nat)
  deriving DecidableEq, Repr

/-- The state of the machine. `clusters` is keyed by physical cluster, 16 times the row plus the column, of the 13 rows (R8, R381);
so are the poison lists of its memories. `farFlips` are pages of other chips, by chip and page, found flipping (R44, R63); `joins` are the joins that
this chip has passed on and not answered yet (R471). -/
structure State where
  focus : Nat
  slot : Nat
  fresh : Nat
  clk : Nat
  gtc : Nat
  slew : Int
  agenda : List Turn
  clusters : NMap Cluster
  hbm : Memory
  hbmPoison : List Nat
  spPoison : List (Nat × Nat)
  twPoison : List (Nat × Nat)
  accPoison : List (Nat × Nat)
  pePoison : List (Nat × Nat)
  chanFailed : List Nat
  hostMem : Memory
  tags : NMap Nat
  pages : NMap PageSt
  migs : List Mig
  patterns : NMap Nat
  llt : List TlbEnt
  walkCache : List (Nat × Nat × Nat × Nat)
  bufs : NMap Buf
  ctxs : NMap Ctx
  dev : Dev
  host : HostPage
  queues : NMap Queue
  disp : Disp
  rel : Rel
  shoots : List Shoot
  icinvs : List Icinv
  nextMsg : Nat
  ports : NMap Port
  reqs : List Req
  farFlips : List (Nat × Nat)
  remembered : List Remembered
  oldTags : List (ReqId × Nat)
  joins : List JoinNote
  mailFlight : List MailMsg
  flights : List Flight
  outbox : List (Nat × Msg)
  flash : Image
  deriving DecidableEq, Repr

/-! ### Reset values -/

def SendStat.reset : SendStat := { free := 0, clu := 0, chip := 0, valid := false, refused := false }

/-- The A-core after reset: the values of R375-R380; the registers without a stated reset value are 0 (log 3). -/
def ACore.reset : ACore :=
  { pc := 0, g := [], run := .idle, mode := .s, sstat := 1, epc := 0, cause := 0, tval := 0, tvec := 0, pend := 0,
    scr := [], sems := [], wins := [], seq := 0, loads := [], stores := [], cmds := [], nextId := 0, wait := none,
    send := SendStat.reset, l1 := [], tlb := [], icache := [], stamp := 0, growCount := 0, growReq := none,
    due := none, doomed := none }

/-- The X-core after reset: cr.xfp and cr.ls 0 (R245, R261); the rest empty or 0 (log 3). -/
def XCore.reset : XCore :=
  { pc := 0, indep := false, spc := [], jump := none, joins := [], x := [], t := [], k := [], lc := 0, rb := 0, ec := 0, ls := 0,
    xfp := 0, run := .idle, trap := none, soft := false, vcyc := 0, issued := false, freeze := none, frozenAt := 0, semGot := none, land := [],
    ckpt := none, ckptNow := false, icache := [], lq := [], sq := [], pack := [], dq := [], hq := [], latchN := none,
    latchS := none }

def WSet.reset : WSet := { f := 1, w := [], scale := [] }

/-- The matrix array after reset (R348; accumulator memory zeroed at bring-up, R483). -/
def Arr.reset : Arr :=
  { active := WSet.reset, shadow := WSet.reset, acc := [], scaleQ := [], recQ := [], arrayE := [], loaderE := [],
    pusherE := [], nestE := [], passes := [], drain := none, nextRec := 0 }

def Vigil.reset : Vigil := { g := [], x := [], lc := 0, ec := 0, rb := 0, behind := false }

/-- cr.mbox resets to LOG2N = 4 (R77), cr.pwgrant to GRANT = 1,250 (R475). -/
def Ctl.reset : Ctl :=
  { occ := .free, cid := 0, ranCid := 0, dataCid := none, runBit := false, node := 0, task := 0, placedAt := 0, aentry := 0, xentry := 0, held := false,
    unbindHeld := false, preempt := false, mbox := 0x1000000, mbHead := 0, mbTail := 0, mbOwner := 0, mbPos := 0, twsel := 0, remap := [], due := [],
    due0 := [], refreshedAt := [], refreshing := [], lastAcc := [], asleep := [], grant := 1250, used := 0, usedNow := 0, capped := false, capNow := false,
    retrainDue := 0, retrainEnd := none }

def Cluster.reset : Cluster :=
  { streams := [], a := ACore.reset, x := XCore.reset, ctl := Ctl.reset, arr := Arr.reset, sp := [], tw := [], vigil := Vigil.reset }

/-- A FREE buffer entry (R72, R75). -/
def Buf.free : Buf := { st := 0, base := 0, len := 0, home := 0, who := 0 }

/-- A FREE snapshot slot (R119). -/
def Snap.free : Snap :=
  { st := .free, t := 0, gen := 0, abnd := false, code := 0, target := 0, mask := 0, origin := 0, answers := 0,
    refused := 0, confirmed := false, cancelled := false, past := [], cl := 0, awaits := [], word := none, header := false, npg := 0, decpg := 0, decanted := [],
    crc := 0, pos := 0, lastProg := 0, armedAt := 0 }

/-- A FREE transaction slot (R134). -/
def Tx.free : Tx :=
  { st := .free, txid := 0, code := 0, mask := 0, drops := 0, windows := [], word := none, cl := 0, votes := 0, acks := 0,
    tc := 0, begun := 0, lastAsk := 0, early := [] }

/-- A context that does not exist, or that has just been created: CG = 1 (R117), everything else empty. -/
def Ctx.reset : Ctx :=
  { resident := false, aborted := false, recs := [], openedAt := 0, bseq := 0, held := [],
    mbox := none, scb := 0, cg := 1, instants := [], decFree := 0, snaps := [], txs := [], frames := [], frameSeq := 0, rings := [],
    savedBufs := [] }

/-- A host queue after reset (R456). -/
def Queue.reset : Queue :=
  { qcfg := 0, pcfg := 0, head := 0, tail := 0, wait := false, mal := false, chead := 0, ctail := 0, cwb := 0, phase := 0, note := 0, fwds := [] }

/-- A port before it has trained (R483, step 6). -/
def Port.reset : Port := { up := false, txSeq := 0, replay := [], wait := [], replays := 0, lastAck := 0, trainAt := 0, alignAt := 0, rx := 0, crcFails := 0 }

/-- The configuration image the model puts on the board flash (log 4). -/
def Image.default : Image :=
  { chip := 0, rsvBase := 0x5F00000000, ptArea := 4096, failed := [], skip := List.replicate 16 12, svc := 2 ^ 192 - 1,
    remap := [], portsOut := [], routes := [], thresholds := [3, 64, 2, 1, 8, 16, 1], alm := 0xC864,
    gen := 1000 + 20 * 2 ^ 16 + 1000 * 2 ^ 26, sdtmo := 100, retired := [], erbase := 0, tvec := 0, energies := [] }

/-- cr.alm resets to IVL 100 and MAXDEF 200 (R92), cr.gen to 1,000, 20 and 1,000 (R137), SDTMO to 100 (R60); the fields
that bring-up fills are 0 until then (log 3). -/
def Dev.reset : Dev :=
  { chip := 0, sdtmo := 100, rsvBase := 0, alm := 0xC864, hot := false, clmap := 0, clsvc := 0, failed := [], top := 0,
    gen := BitVec.ofNat 64 (1000 + 20 * 2 ^ 16 + 1000 * 2 ^ 26), erbase := 0, erHead := 0, erDrops := 0, erOvf := false,
    erTail := 0, fenced := 0, ptArea := 0, stage := 0, bootFail := 0, ready := false, boot := none, bootedAt := 0, intervals := 0,
    spent := [], aligned := [],
    thresholds := [3, 64, 2, 1, 8, 16, 1], routes := [], secret := 0, image := Image.default }

def HostPage.reset : HostPage :=
  { fcfg := 0, fhead := 0, ftail := 0, ecfg := 0, ehead := 0, etail := 0, edrop := 0, dropw := 0, reqs := [], msix := [],
    i3c := [], answers := [], aer := [], posted := [] }

def Rel.reset : Rel :=
  { held := [], evHold := [], evWait := [], samLog := [], history := [], failedRows := [], scrubs := [],
    retiring := [], asked := [], remaps := [] }

/-- AGE 10, UPRE 1, every threshold 12 (R401). -/
def Disp.reset : Disp :=
  { nodes := [], reuse := [], pool := [], poolNext := 1, served := [], age := 10, upre := true, thr := [], launches := 0, accepts := 0,
    preempts := [], pending := [] }

/-- The machine right after reset, before bring-up (R483, R484). -/
def State.reset : State :=
  { focus := 0, slot := 0, fresh := 0, clk := 0, gtc := 0, slew := 0, agenda := [], clusters := [], hbm := [],
    hbmPoison := [], spPoison := [], twPoison := [], accPoison := [], pePoison := [], chanFailed := [], hostMem := [],
    tags := [], pages := [], migs := [], patterns := [], llt := [], walkCache := [], bufs := [],
    ctxs := [], dev := Dev.reset, host := HostPage.reset, queues := [], disp := Disp.reset, rel := Rel.reset, shoots := [],
    icinvs := [], nextMsg := 0, ports := [], reqs := [], farFlips := [], remembered := [], oldTags := [], joins := [], mailFlight := [],
    flights := [], outbox := [], flash := Image.default }

end Sys2Proof.Machine
end

