-- ==== Sys2Proof/Machine/Ops.lean ====
section
/-! DEFINITION. The named operations over registers, clusters, contexts and memories: the one way any meaning reads or writes
them. -/

namespace Sys2Proof.Machine

/-- What a meaning answers. -/
abbrev Out := Host.Outcome State Fault Refusal

/-! ### Clusters -/

/-- The physical row that column `j` leaves unused (R381). -/
def State.skip (s : State) (j : Nat) : Nat := bits s.dev.clmap.toNat (4 * j + 3) (4 * j)

/-- The physical cluster, 16 times its row plus its column, of logical cluster `n` (R381). -/
def State.phys (s : State) (n : Nat) : Nat := if n / 16 < s.skip (n % 16) then n else n + 16

/-- The physical cluster of logical cluster `n` under the cluster table of a configuration image (R381, R482). -/
def imagePhys (skip : List Nat) (n : Nat) : Nat := if n / 16 < skip.getD (n % 16) 12 then n else n + 16

/-- The logical cluster on physical cluster `p`; none on an unused row. -/
def State.logical (s : State) (p : Nat) : Option Nat :=
  if p / 16 < s.skip (p % 16) then some p else if p / 16 = s.skip (p % 16) then none else some (p - 16)

/-- Logical cluster `n`. -/
def State.cl (s : State) (n : Nat) : Cluster := NMap.get Cluster.reset s.clusters (s.phys n)

/-- The clusters that differ from reset, with their logical numbers. -/
def State.listed (s : State) : List (Nat × Cluster) := s.clusters.filterMap fun (p, c) => (s.logical p).map fun n => (n, c)

/-- The state with cluster `n` replaced. -/
def State.setCl (s : State) (n : Nat) (c : Cluster) : State :=
  { s with clusters := NMap.set Cluster.reset s.clusters (s.phys n) c }

def State.onCl (s : State) (n : Nat) (f : Cluster → Cluster) : State := s.setCl n (f (s.cl n))
def State.onA (s : State) (n : Nat) (f : ACore → ACore) : State := s.onCl n fun c => { c with a := f c.a }
def State.onX (s : State) (n : Nat) (f : XCore → XCore) : State := s.onCl n fun c => { c with x := f c.x }
def State.onArr (s : State) (n : Nat) (f : Arr → Arr) : State := s.onCl n fun c => { c with arr := f c.arr }
def State.onCtl (s : State) (n : Nat) (f : Ctl → Ctl) : State := s.onCl n fun c => { c with ctl := f c.ctl }

/-- The cluster halts for a pre-emption: a request has reached it in mode T (R200, R422), or it has returned to mode T since (R423). -/
def State.halting (s : State) (cl : Nat) : Bool := (s.cl cl).ctl.preempt && (s.cl cl).a.mode == .t

/-- The cluster a fetched instruction runs on. -/
def State.cur (s : State) : Cluster := s.cl s.focus
def State.a (s : State) : ACore := s.cur.a
def State.x (s : State) : XCore := s.cur.x

/-- Logical row, column, quad and quad position of a cluster (R8, R72). -/
def clRow (n : Nat) : Nat := n / 16
def clCol (n : Nat) : Nat := n % 16
def quadOf (n : Nat) : Nat := n / 32 * 8 + n % 16 / 2
def quadPos (n : Nat) : Nat := 2 * (n / 16 % 2) + n % 16 % 2

/-- The cluster at position `p` of quad `q`. -/
def quadCluster (q p : Nat) : Nat := (q / 8 * 2 + p / 2) * 16 + q % 8 * 2 + p % 2

/-- Whether logical cluster `n` is in service (R381). -/
def State.inService (s : State) (n : Nat) : Bool := n < 192 && bit s.dev.clsvc n

/-! ### A-core registers -/

/-- A general register; g0 reads zero (R206). -/
def ACore.reg (a : ACore) (i : BitVec 6) : W64 := if i = 0 then 0 else NMap.get 0 a.g i.toNat

/-- A cluster with a general register written, in the A-core and in the Vigil core's copy (R432); g0 discards (R206). -/
def Cluster.setG (c : Cluster) (i : BitVec 6) (v : W64) : Cluster :=
  if i = 0 then c
  else { c with a := { c.a with g := NMap.set 0 c.a.g i.toNat v }, vigil := { c.vigil with g := NMap.set 0 c.vigil.g i.toNat v } }

/-- A register of the focused A-core. -/
def State.g (s : State) (i : BitVec 6) : W64 := s.a.reg i

/-- The state with a register of the focused A-core written. -/
def State.setG (s : State) (i : BitVec 6) (v : W64) : State := s.onCl s.focus fun c => c.setG i v

/-- A result is pending for register `i`: a load or an atomic has not returned, or a GROW has not been answered (R265). -/
def ACore.busy (a : ACore) (i : Nat) : Bool :=
  i != 0 && (a.loads.any (fun l => l.dst == i) || a.stores.any (fun l => l.op.isSome && l.late.isNone && l.dst == i)
    || match a.growReq with
       | some r => r.dst == i
       | none => false)

/-- Every named register of the focused A-core holds its newest result (R265, rules 2 and 3). -/
def State.ready (s : State) (rs : List (BitVec 6)) : Bool := rs.all fun r => !s.a.busy r.toNat

/-- The state with the focused A-core's pc moved. -/
def State.setPc (s : State) (pc : W64) : State := s.onA s.focus fun a => { a with pc := pc, wait := none }

/-- The next instruction. -/
def State.advance (s : State) : State := s.setPc (s.a.pc + 8)

/-- A result written and the pc moved past the instruction. -/
def State.result (s : State) (d : BitVec 6) (v : W64) : State := (s.setG d v).advance

/-- An instruction that issues once the registers it reads and writes hold their newest results, and that waits until then
(R265). -/
def whenReady (s : State) (rs : List (BitVec 6)) (t : State) : Out := if s.ready rs then .next t else .next s

/-- The immediate, sign-extended to 64 bits. -/
def simm (f : AF) : W64 := f.imm.signExtend 64

/-! ### X-core registers -/

/-- An x register; x0 reads zero (R326). -/
def XCore.xreg (x : XCore) (i : Nat) : W64 := if i = 0 then 0 else NMap.get 0 x.x i

/-- A predicate; k0 reads all ones (R322). -/
def XCore.pred (x : XCore) (i : Nat) : Pred := if i = 0 then BitVec.allOnes 1024 else NMap.get 0 x.k i

/-- The physical tile that name `n` means now (R194). -/
def XCore.phys (x : XCore) (n : Nat) : Nat := if n < 32 then n else 32 + (n - 32 + x.rb) % 32

/-- A physical tile. -/
def XCore.tile (x : XCore) (p : Nat) : Tile := NMap.get [] x.t p

/-- The cluster with x register `i` written, in the X-core and in the Vigil core's copy (R432); x0 discards. -/
def Cluster.setX (c : Cluster) (i : Nat) (v : W64) : Cluster :=
  if i = 0 then c
  else { c with x := { c.x with x := NMap.set 0 c.x.x i v }, vigil := { c.vigil with x := NMap.set 0 c.vigil.x i v } }

/-- The X-core with predicate `i` written; k0 discards. -/
def XCore.setPred (x : XCore) (i : Nat) (v : Pred) : XCore := if i = 0 then x else { x with k := NMap.set 0 x.k i v }

/-- A lane word of a tile. -/
def Tile.lane (t : Tile) (l : Nat) : W32 := NMap.get 0 t l

/-- The tile that holds `f l` in lane `l`. -/
def Tile.ofFn (f : Nat → W32) : Tile := NMap.ofFn 0 1024 f

/-- `new` in the lanes of `mask`, `old` elsewhere (R322). -/
def Tile.merge (mask : Pred) (old new : Tile) : Tile :=
  if mask = BitVec.allOnes 1024 then new
  else Tile.ofFn fun l => if mask.getLsbD l then Tile.lane new l else Tile.lane old l

/-- Bits of a predicate from a function of the lane. -/
def predOfFn (f : Nat → Bool) : Pred :=
  BitVec.ofNat 1024 ((List.range 1024).foldl (fun acc l => if f l then acc + 2 ^ l else acc) 0)

/-! ### Contexts and tasks -/

def State.ctx (s : State) (cid : Nat) : Ctx := NMap.get Ctx.reset s.ctxs cid
def State.onCtx (s : State) (cid : Nat) (f : Ctx → Ctx) : State :=
  { s with ctxs := NMap.set Ctx.reset s.ctxs cid (f (s.ctx cid)) }

/-- The 64-byte context descriptor of a CID (R24, R25). -/
def State.descAddr (s : State) (cid : Nat) : Nat := s.dev.rsvBase + 64 * cid
def State.desc (s : State) (cid : Nat) : Nat := s.hbm.readN (s.descAddr cid) 64
def State.ctxValid (s : State) (cid : Nat) : Bool := bit (s.desc cid) 12
def State.ptroot (s : State) (cid : Nat) : Nat := bits (s.desc cid) 107 76 * 4096
def State.hcount (s : State) (cid : Nat) : Nat := bits (s.desc cid) 208 192
def State.tcount (s : State) (cid : Nat) : Nat := bits (s.desc cid) 234 224
def State.htab (s : State) (cid : Nat) : Nat := bits (s.desc cid) 171 134 * 64
def State.ttab (s : State) (cid : Nat) : Nat := bits (s.desc cid) 299 262 * 64
def State.qmask (s : State) (cid : Nat) : Nat := bits (s.desc cid) 431 384

/-- Whether cluster `n` belongs to the partition of context `cid` (R27). -/
def State.inPartition (s : State) (cid n : Nat) : Bool :=
  (s.ctx cid).resident && s.inService n && bit (s.qmask cid) (quadOf n)

/-- The context the focused A-core's accesses run under: in mode T that of its task, in mode S CID 0 (log 5). -/
def State.runCid (s : State) (cl : Nat) : Nat := if (s.cl cl).a.mode = .t then (s.cl cl).ctl.cid else 0

def State.node? (s : State) (e : Nat) : Option Node := NMap.get none s.disp.nodes e
def State.onNode (s : State) (e : Nat) (f : Node → Node) : State :=
  match s.node? e with
  | none => s
  | some n => { s with disp := { s.disp with nodes := NMap.set none s.disp.nodes e (some (f n)) } }

/-- A free value drawn from the state's counter (log 8). -/
def State.draw (s : State) : W64 × State := (Config.free64 s.fresh, { s with fresh := s.fresh + 1 })

/-! ### Buffers of a quad (R72-R76) -/

def bufKey (quad b : Nat) : Nat := 64 * quad + b
def State.buf (s : State) (quad b : Nat) : Buf := NMap.get Buf.free s.bufs (bufKey quad b)
def State.setBuf (s : State) (quad b : Nat) (v : Buf) : State :=
  { s with bufs := NMap.set Buf.free s.bufs (bufKey quad b) v }

/-- Whether bytes [a, a + n) of the home at quad position `home` meet a buffer. -/
def Buf.meets (b : Buf) (home a n : Nat) : Bool :=
  b.st != 0 && b.home == home && a < (b.base + b.len) * 16384 && b.base * 16384 < a + n

def Buf.holds (b : Buf) (home a : Nat) : Bool := Buf.meets b home a 1

/-- Cluster `p` may access bytes [a, a + n) of cluster `m`'s scratchpad (R74): every defined buffer that they meet is held
by `p`, and bytes in no buffer belong to `p` itself. -/
def State.owns (s : State) (p m a n : Nat) : Bool :=
  let q := quadOf p
  let bs := (List.range 64).map (s.buf q) |>.filter fun b => Buf.meets b (quadPos m) a n
  bs.all (fun b => b.st == 1 && b.who == quadPos p)
    && (p == m || (quadOf m == q
      && (List.range (cdiv (a + n) 16384 - a / 16384)).all fun i =>
           bs.any fun b => Buf.holds b (quadPos m) (Nat.max a ((a / 16384 + i) * 16384))))

/-- The buffer descriptor of R75. -/
def Buf.descriptor (b : Buf) : W64 :=
  if b.st == 0 then 0
  else BitVec.ofNat 64 (b.base + b.len * 2 ^ 8 + b.home * 2 ^ 16 + b.who * 2 ^ 18 + b.st * 2 ^ 20)

/-! ### Error records (R440-R448) -/

/-- A record merges into a held rung-1 record of the same source, event and address (R445). -/
def mergeRec (r : ErrRec) : List ErrRec → Option (List ErrRec)
  | [] => none
  | h :: hs =>
    if r.rung == 1 && h.rung == 1 && h.src == r.src && h.event == r.event && h.addr == r.addr then
      some ({ h with count := Nat.min 65535 (h.count + r.count), gtc := Nat.min h.gtc r.gtc } :: hs)
    else (mergeRec r hs).map (h :: ·)

/-- A record delivered to the reliability engine, which holds it (R445). -/
def State.deliver (s : State) (r : ErrRec) : State :=
  let held := match mergeRec r s.rel.held with
    | some hs => hs
    | none => s.rel.held ++ [r]
  { s with rel := { s.rel with held := held, history := s.rel.history ++ [r] } }

/-- An event reported at this instant. -/
def State.report (s : State) (src rung event cid code detail addr info tval : Nat) : State :=
  s.deliver { gtc := s.gtc, src := src, rung := rung, event := event, cid := cid, code := code, detail := detail,
              addr := addr, info := info, count := 1, tval := tval }

/-- The locator of a scratchpad address (R16, R18). -/
def spLoc (c a : Nat) : Nat := 2 ^ 62 + c * 2 ^ 22 + a

/-- The source number of agent `a` of cluster `n`, and of Samovar (R447). -/
def srcCl (n a : Nat) : Nat := 0x1000 + 16 * n + a
def srcSamovar : Nat := 0x4000
def srcDispatcher : Nat := 0x4001
def srcDecant : Nat := 0x4002

/-- The named fields of a structure in memory: every other bit is reserved and reads as zero (R6). -/
def fieldsOf (fs : List (Nat × Nat)) (v : Nat) : Nat := fs.foldl (fun acc (hi, lo) => acc + bits v hi lo * 2 ^ lo) 0

/-! ### Messages that leave the chip -/

def State.port (s : State) (p : Nat) : Port := NMap.get Port.reset s.ports p
def State.setPort (s : State) (p : Nat) (v : Port) : State := { s with ports := NMap.set Port.reset s.ports p v }

/-- The ports in service on the paths to a chip (R466, R470). -/
def State.upPorts (s : State) (dst : Nat) : List Nat :=
  (((s.dev.routes.find? fun r => r.1 == dst).map Prod.snd).getD []).filter fun p => (s.port p).up

/-- The port that a flit from source `src` to chip `dst` takes (R466). -/
def State.portFor (s : State) (dst src : Nat) : Option Nat :=
  (s.upPorts dst)[Config.pathHash dst src % Nat.max 1 (s.upPorts dst).length]?

/-- The virtual channel of a message (R463, R469): 0 for requests, 1 for responses, 2 for control; idle, ACK and NAK flits have none, and one that
goes on keeps its own. -/
def Msg.vc : Msg → Option Nat
  | .read _ _ _ | .write _ _ _ | .atomic _ _ _ _ _ _ | .bankSide _ _ | .decant _ _ _ | .mail _ => some 0
  | .response _ _ _ | .mailAck _ _ _ _ => some 1
  | .nak _ | .ack _ => none
  | .transit f => some (bits (ofBytes (f.take 8)) 45 44)
  | _ => some 2

/-- The flits of a message (R464, R469; log 13): one for each 32 bytes of data, and as many as 54-byte payloads hold it otherwise. -/
def Msg.flits : Msg → Nat
  | .read _ _ n => Nat.max 1 ((n + 31) / 32)
  | .write _ _ d | .decant _ _ d | .response _ _ d => Nat.max 1 ((d.length + 31) / 32)
  | .mail _ => 2
  | .node _ _ _ => 5
  | _ => 1

/-- The flits of a virtual channel that have been sent and not acknowledged: the credits in use (log 96). -/
def Port.used (p : Port) (vc : Option Nat) : Nat := ((p.replay.filter fun f => f.2.2.vc == vc).map fun f => f.2.2.flits).sum

/-- A message has the credits of its channel and room among the 256 flits of the replay buffer, and none of its channel waits before it (R463,
R465). -/
def Port.room (p : Port) (m : Msg) : Bool :=
  m.vc.isNone || (p.wait.all (fun w => w.2.vc != m.vc) && decide (p.used m.vc + m.flits ≤ 64)
    && decide ((p.replay.map fun f => f.2.2.flits).sum + m.flits ≤ 256))

/-- A message enters a port's replay buffer under the next sequence numbers (R464, R465). -/
def Port.push (p : Port) (now dst : Nat) (m : Msg) : Port :=
  { p with txSeq := (p.txSeq + m.flits) % 4096, replay := p.replay ++ [((p.txSeq + m.flits + 4095) % 4096, dst, m)],
           lastAck := if p.replay.isEmpty then now else p.lastAck }

/-- A message leaves over a port, or waits there for credits (R463); a request's timer runs from when it leaves (R467). -/
def State.sendOn (s : State) (port dst : Nat) (m : Msg) : State :=
  let p := s.port port
  if !p.room m then s.setPort port { p with wait := p.wait ++ [(dst, m)] }
  else { s.setPort port (p.push s.gtc dst m) with
         outbox := s.outbox ++ [(dst, m)], reqs := s.reqs.map fun r => if r.msg == m then { r with lastSent := s.gtc } else r }

/-- What waits at a port leaves as far as the credits go. -/
def State.drainPort (s : State) (port : Nat) : State :=
  let p := s.port port
  p.wait.foldl (fun t w => t.sendOn port w.1 w.2) (s.setPort port { p with wait := [] })

/-- What the paths of responses and of control flits are chosen by: this chip's own interface as their source (R466; log 13). -/
def ctlSource : Nat := 16 * 193

/-- A message goes out to chip `dst`: over a port, unless the chip is this one (log 13). Without a path it cannot be delivered (R470). -/
def State.send (s : State) (dst : Nat) (m : Msg) (src : Nat := ctlSource) : State :=
  if dst = s.dev.chip then { s with outbox := s.outbox ++ [(dst, m)] }
  else match s.portFor dst src with
    | none => s
    | some p => s.sendOn p dst m

/-- CRC-32C of bytes, from and to the register's value before the final inversion. -/
def crcBits : Nat → Nat → Nat
  | 0, c => c
  | k + 1, c => crcBits k (if c % 2 = 1 then (c / 2) ^^^ 0x82F63B78 else c / 2)
def crcStep (c : Nat) (b : Byte) : Nat := crcBits 8 (c ^^^ b.toNat)
def crcRun (c : Nat) (bs : List Byte) : Nat := bs.foldl crcStep c
def crc32c (bs : List Byte) : Nat := crcRun 0xFFFFFFFF bs ^^^ 0xFFFFFFFF

/-! ### Flits (R464, R469) -/

/-- The TYPE of a message (R469); R469 gives ranges, in which the codes stand in the order of its words (log 13). -/
def Msg.type : Msg → Nat
  | .read _ _ _ => 0x10 | .write _ _ _ => 0x11 | .atomic _ _ _ _ _ _ => 0x12 | .bankSide _ _ => 0x13 | .decant _ _ _ => 0x14
  | .response _ st data => (match st with
    | .done => if data.isEmpty then 0x19 else 0x18
    | .retry => 0x1B
    | .offline => 0x1C
    | .forbidden => 0x1D)
  | .mail _ => 0x20
  | .mailAck _ _ _ st => (match st with
    | .delivered => 0x21
    | .full => 0x1E
    | .disabled => 0x1F)
  | .shoot _ _ => 0x30 | .shootAck _ _ _ => 0x31 | .icinv _ _ _ _ => 0x32 | .icinvAck _ _ => 0x33
  | .node _ _ _ => 0x40 | .ready _ => 0x41 | .start _ _ _ | .startRefused _ => 0x42 | .replace _ _ _ _ => 0x43 | .report _ _ _ _ => 0x44
  | .arm _ _ _ => 0x50 | .armAnswer _ _ _ => 0x51 | .confirm _ _ => 0x52 | .cancel _ _ => 0x53 | .snapQuery _ _ _ => 0x54
  | .vote _ _ _ _ _ _ => 0x58 | .decide _ _ _ _ => 0x59 | .txAck _ _ _ => 0x5A | .outcome _ _ _ _ _ => 0x5B | .outcomeQuery _ _ => 0x5C
  | .gtc _ => 0x60 | .fence _ => 0x61 | .join _ _ => 0x62
  | .nak _ | .ack _ => 0x01
  | .transit f => bits (ofBytes (f.take 8)) 7 0

/-- The TYPE codes that R469 assigns. -/
def typeKnown (t : Nat) : Bool :=
  t ≤ 1 || (0x10 ≤ t && t ≤ 0x21) || (0x30 ≤ t && t ≤ 0x33) || (0x40 ≤ t && t ≤ 0x44) || (0x50 ≤ t && t ≤ 0x54) || (0x58 ≤ t && t ≤ 0x5C)
    || (0x60 ≤ t && t ≤ 0x62)

/-- The payload of flit `i` of a message, which R469 does not lay out: a free value (log 13). -/
opaque msgPayload : Msg → Nat → BitVec 432

/-- The 64 bytes of a flit (R464). -/
def flitBytes (type src dst seq ack vc pay : Nat) : List Byte :=
  let body := toBytes 60 (type % 2 ^ 8 + src % 2 ^ 6 * 2 ^ 8 + dst % 2 ^ 6 * 2 ^ 14 + seq % 2 ^ 12 * 2 ^ 20 + ack % 2 ^ 12 * 2 ^ 32 + vc % 4 * 2 ^ 44
    + pay % 2 ^ 432 * 2 ^ 48)
  body ++ toBytes 4 (crc32c body)

/-- The CRC of a flit is good (R464). -/
def flitGood (f : List Byte) : Bool := f.length == 64 && ofBytes (f.drop 60) == crc32c (f.take 60)

/-- The flits of a message whose last one has number `last`, as this chip puts them on a port's link; ACK names the highest SEQ received in
order (R464). A flit that goes on gets the numbers of this link. -/
def State.wire (s : State) (p : Port) (last dst : Nat) (m : Msg) : List (List Byte) :=
  (List.range m.flits).map fun i =>
    let seq := (last + 4097 + i - m.flits) % 4096
    match m with
    | .transit f => flitBytes m.type (bits (ofBytes (f.take 8)) 13 8) dst seq (p.rx + 4095) (m.vc.getD 0) (bits (ofBytes f) 479 48)
    | _ => flitBytes m.type s.dev.chip dst seq (p.rx + 4095) (m.vc.getD 0) (msgPayload m i).toNat

/-- The flits of a port's replay buffer on its link (R464, R465). -/
def State.portWire (s : State) (port : Nat) : List (List Byte) :=
  let p := s.port port
  p.replay.flatMap fun f => s.wire p f.1 f.2.1 f.2.2

/-! ### Requests and their tags (R466, R467) -/

/-- The source of a request. -/
def ReqBy.agent : ReqBy → TagAgent
  | .acc cl _ | .cmd cl _ _ | .fetch cl _ _ _ => .cluster cl
  | .decant _ _ _ => .decant
  | .mig _ | .peer _ _ | .tx _ _ | .join _ => .samovar

/-- The tags of a source that are not free: those of requests that await their answers, and those sent within the last 20 ms (R467). -/
def State.tagsInUse (s : State) (g : TagAgent) : List Nat :=
  ((s.reqs.map fun r => r.tag) ++ s.oldTags.map Prod.fst).filterMap fun t => if t.agent = g then some t.tag else none

/-- A source has `n` free tags. -/
def State.tagsFree (s : State) (g : TagAgent) (n : Nat) : Bool := decide ((s.tagsInUse g).length + n ≤ 2 ^ 24)

/-- The end-to-end tag that the next request of a source takes, of 24 bits (R467). -/
def State.nextTag (s : State) (g : TagAgent) : ReqId :=
  let used := s.tagsInUse g
  { agent := g, tag := (((List.range (used.length + 1)).map fun i => (s.nextMsg + i) % 2 ^ 24).find? fun t => !used.contains t).getD 0 }

/-- What the path of a request is chosen by: its source cluster and ordering class (R466). -/
def State.reqHash (s : State) (o : ReqBy) : Nat :=
  let cls (cl id : Nat) : Nat := (((s.cl cl).a.cmds.find? fun k => k.id == id).map (·.cls)).getD 0
  let acc (cl seq : Nat) : Nat := ((((s.cl cl).a.loads ++ (s.cl cl).a.stores).find? fun l => l.seq == seq).map (·.cls)).getD 0
  match o with
  | .acc cl seq => 16 * cl + acc cl seq
  | .cmd cl id _ => 16 * cl + cls cl id
  | .fetch cl _ _ _ => 16 * cl
  | .decant _ _ _ => 16 * 192
  | .mig _ | .peer _ _ | .tx _ _ | .join _ => ctlSource

/-- A request of this chip to a peer, recorded until its response (R467). It waits while its source has no free tag. -/
def State.request (s : State) (peer : Nat) (owner : ReqBy) (m : ReqId → Msg) : State :=
  if !s.tagsFree owner.agent 1 then s
  else
    let tag := s.nextTag owner.agent
    let t : State := { s with
      nextMsg := s.nextMsg + 1,
      reqs := s.reqs ++ [{ tag := tag, num := s.nextMsg, peer := peer, owner := owner, port := s.portFor peer (s.reqHash owner), msg := m tag,
                           sends := 1, lastSent := s.gtc, held := false, part := [] }] }
    t.send peer (m tag) (s.reqHash owner)

/-- Requests that are wanted no more: what has not left goes nowhere, and their answers are discarded (R51, R170, R171). -/
def State.dropReqsOf (s : State) (hit : ReqBy → Bool) : State :=
  let gone := s.reqs.filter fun r => hit r.owner
  { s with
    reqs := s.reqs.filter fun r => !hit r.owner,
    oldTags := s.oldTags ++ gone.map fun r => (r.tag, r.lastSent),
    ports := if gone.isEmpty then s.ports else NMap.mapVals Port.reset (fun _ p => { p with wait := p.wait.filter fun w => !gone.any fun r => r.msg == w.2 }) s.ports,
    host := { s.host with reqs := s.host.reqs.filter fun r => !hit r.owner } }

/-- A message still waits for credits. -/
def State.unsent (s : State) (m : Msg) : Bool := s.ports.any fun p => p.2.wait.any fun w => w.2 == m

/-- Fire an MSI-X vector (R455). -/
def State.msix (s : State) (v : Nat) : State := { s with host := { s.host with msix := s.host.msix ++ [v] } }

/-- The chips of a 64-bit mask. -/
def chipsOf (m : BitVec 64) : List Nat := (List.range 64).filter fun k => m.getLsbD k

/-- Set bits of a mask. -/
def popc (n w : Nat) : Nat := ((List.range w).filter fun i => bit n i).length

def State.fencedChip (s : State) (c : Nat) : Bool := c < 64 && s.dev.fenced.getLsbD c

end Sys2Proof.Machine
end

