-- ==== Sys2Proof/Machine/Hbm.lean ====
section
/-! DEFINITION. Reads and writes of the memories at their visibility points (R140): check units and poison (R434-R436), HBM
channels (R23, R113), page states (R61), page tags, snapshots and staged pages (R116-R135), scratchpads and towers. -/

namespace Sys2Proof.Machine

/-! ### Check units -/

/-- The chunks that bytes stored from `a` upward make in units of `u` bytes: address and bytes. -/
def unitChunks (u : Nat) : Nat → Nat → List Byte → List (Nat × List Byte)
  | 0, _, _ => []
  | k + 1, a, bs =>
    match bs with
    | [] => []
    | _ => (a, bs.take (u - a % u)) :: unitChunks u k (a + (u - a % u)) (bs.drop (u - a % u))

def chunks (u a : Nat) (bs : List Byte) : List (Nat × List Byte) := unitChunks u bs.length a bs

/-- One chunk written into a memory of checked units of `u` bytes, with its poisoned units: a write of a whole unit clears
poison, a partial write to a poisoned unit is lost (R435). `key` numbers the unit. -/
def writeChunk (u : Nat) (key : Nat → Nat) (m : Memory × List Nat) (c : Nat × List Byte) : Memory × List Nat :=
  if m.2.contains (key (c.1 / u)) then
    if c.2.length = u then (m.1.write c.1 c.2, m.2.erase (key (c.1 / u))) else m
  else (m.1.write c.1 c.2, m.2)

/-- Poisoned keys kept as a set. -/
def addPoison (k : Nat) (ps : List Nat) : List Nat := if ps.contains k then ps else ps ++ [k]

/-- Whether bytes [a, a + n) meet a poisoned unit of `u` bytes. -/
def poisoned (u : Nat) (ps : List Nat) (a n : Nat) : Bool := ps.any fun k => a < (k + 1) * u && k * u < a + n

/-! ### Scratchpads and towers -/

/-- Poisoned granules of one cluster's scratchpad. -/
def State.spBad (s : State) (cl : Nat) : List Nat := (s.spPoison.filter fun p => p.1 == s.phys cl).map Prod.snd

/-- Whether scratchpad bytes are poisoned. -/
def State.spPoisoned (s : State) (cl a n : Nat) : Bool := poisoned 32 (s.spBad cl) a n

def State.spRead (s : State) (cl a n : Nat) : List Byte := (s.cl cl).sp.read a n
def State.spReadN (s : State) (cl a n : Nat) : Nat := (s.cl cl).sp.readN a n

/-- Pending scrubs of the units that another write performs on are marked overtaken (R439). -/
def State.overtake (s : State) (hit : MemUnit → Bool) : State :=
  { s with rel := { s.rel with scrubs := s.rel.scrubs.map fun p => if hit p.unit then { p with overtaken := true } else p } }

/-- A unit of cluster `n`'s scratchpad. -/
def unitOfSp (n : Nat) : MemUnit → Bool
  | .sp c _ => c == n
  | _ => false

/-- Bytes written into a cluster's scratchpad, granule by granule (R434, R435). A pending scrub of a granule is marked
overtaken (R439). -/
def State.spWrite (s : State) (cl a : Nat) (bs : List Byte) : State :=
  let r := (chunks 32 a bs).foldl (writeChunk 32 id) ((s.cl cl).sp, s.spBad cl)
  let hit (c : MemUnit) : Bool := match c with
    | .sp k g => k == cl && g * 32 < a + bs.length && a < (g + 1) * 32
    | _ => false
  let t : State := { s.onCl cl (fun c => { c with sp := r.1 }) with
    spPoison := s.spPoison.filter (fun p => !(p.1 == s.phys cl)) ++ r.2.map fun g => (s.phys cl, g) }
  t.overtake hit

def State.spWriteN (s : State) (cl a n v : Nat) : State := s.spWrite cl a (toBytes n v)

/-! ### The mailbox ring as the device sees it (R77, R80, R81) -/

def Ctl.mbBase (c : Ctl) : Nat := bits c.mbox.toNat 21 8 * 256
/-- N = 2^LOG2N, LOG2N held between 4 and 10. -/
def Ctl.mbSize (c : Ctl) : Nat := 2 ^ Nat.min 10 (Nat.max 4 (bits c.mbox.toNat 25 22))
def Ctl.mbEn (c : Ctl) : Bool := c.mbox.getLsbD 26
def Ctl.mbCons (c : Ctl) : Bool := c.mbox.getLsbD 27
def Ctl.mbSlot (c : Ctl) (n : Nat) : Nat := c.mbBase + 64 + 64 * (n % c.mbSize)

/-- The control block's HEAD is poisoned and is the one that counts (CONS = 0): the ring is full until it is corrected (log 95). -/
def State.mbHeadBad (s : State) (cl : Nat) : Bool := let c := (s.cl cl).ctl; !c.mbCons && s.spPoisoned cl c.mbBase 8

/-- The entries in the ring, by HEAD: the device's own with CONS = 1, that of the control block with CONS = 0. -/
def State.mbUsed (s : State) (cl : Nat) : Nat :=
  let c := (s.cl cl).ctl
  if s.mbHeadBad cl then c.mbSize
  else (c.mbTail + 2 ^ 32 - if c.mbCons then c.mbHead else s.spReadN cl c.mbBase 8 % 2 ^ 32) % 2 ^ 32

/-- Bytes written to a scratchpad by software or by an engine. One of them that writes the HEAD of the cluster's mailbox ring and leaves more
entries than the ring holds makes a record (R81). -/
def State.softWrite (s : State) (cl a : Nat) (bs : List Byte) : State :=
  let t := s.spWrite cl a bs
  let c := (t.cl cl).ctl
  if c.mbEn && !c.mbCons && decide (a < c.mbBase + 8) && decide (c.mbBase < a + bs.length)
      && decide (c.mbSize < t.mbUsed cl) then
    t.report (srcCl cl 5) 0 0x10 c.mbOwner 0 0 c.mbBase 0 0
  else t


/-- The SEL entry of logical bank `b` of cell `k`'s tower, and the physical bank it names: 0-15, 16 for spare A, 17 for spare B
(R88). -/
def Ctl.twSelOf (c : Ctl) (k b : Nat) : Nat := bits (NMap.get 0 c.remap k).toNat (2 * b + 1) (2 * b)
def twBankOf (b sel : Nat) : Nat := if sel = 0 then b else 15 + sel

/-- The place of physical bank `p` of cell `k`'s tower in the cluster's tower memory, and of byte `a` of the tower. -/
def bankAddr (k p : Nat) : Nat := k * 294912 + p * 16384
def Cluster.twAddr (c : Cluster) (k a : Nat) : Nat := bankAddr k (twBankOf (a / 16384) (c.ctl.twSelOf k (a / 16384))) + a % 16384

/-- Poisoned 64-byte tower units of a cluster, by their place in the tower memory. -/
def State.twBad (s : State) (cl : Nat) : List Nat := (s.twPoison.filter fun p => p.1 == s.phys cl).map Prod.snd

def State.twRead (s : State) (cl k a n : Nat) : List Byte := (s.cl cl).tw.read ((s.cl cl).twAddr k a) n
def State.twPoisoned (s : State) (cl k a n : Nat) : Bool := poisoned 64 (s.twBad cl) ((s.cl cl).twAddr k a) n

/-- Bytes within one bank of cell `k`'s tower written (R434, R435). -/
def State.twWrite (s : State) (cl k a : Nat) (bs : List Byte) : State :=
  let r := (chunks 64 ((s.cl cl).twAddr k a) bs).foldl (writeChunk 64 id) ((s.cl cl).tw, s.twBad cl)
  { s.onCl cl (fun c => { c with tw := r.1 }) with
    twPoison := s.twPoison.filter (fun p => !(p.1 == s.phys cl)) ++ r.2.map fun g => (s.phys cl, g) }

/-! ### HBM channels -/

/-- The pseudo-channel of a physical address by the hash of R23. -/
def hashChannel (pa : Nat) : Nat := bits pa 16 8 ^^^ bits pa 25 17 ^^^ bits pa 34 26 ^^^ bits pa 38 35
/-- The offset within the channel (R23). -/
def hashOffset (pa : Nat) : Nat := bits pa 38 17 * 256 + bits pa 7 0

/-- The channels in service after k failed ones are left out, in ascending order (R113). -/
def inServiceChannels (failed : List Nat) : List Nat := (List.range 512).filter fun c => !failed.contains c

/-- The channel and offset that store a physical address (R23, R113). -/
def State.channel (s : State) (pa : Nat) : Nat × Nat :=
  let ch := hashChannel pa
  let off := hashOffset pa
  match s.dev.failed.findIdx? (· == ch) with
  | none => (ch, off)
  | some i =>
    let k := s.dev.failed.length
    let n := 512 - k
    let u := off / 256
    ((inServiceChannels s.dev.failed).getD (u % n) 0, (3145728 - 6144 * k + 6144 * i + u / n) * 256 + off % 256)

/-- Whether the channel that stores an address has failed in service (R115). -/
def State.channelFailed (s : State) (pa : Nat) : Bool :=
  !s.chanFailed.isEmpty && s.chanFailed.contains (s.channel pa).1

/-- The source number of the channel of an address (R447). -/
def State.srcChannel (s : State) (pa : Nat) : Nat :=
  let ch := (s.channel pa).1
  0x2000 + 64 * (ch % 8) + ch / 8

/-! ### Page tags (R116) -/

def State.tag (s : State) (p : Nat) : Nat := NMap.get 0 s.tags p
def State.setTag (s : State) (p t : Nat) : State := { s with tags := NMap.set 0 s.tags p t }
def tagOwner (t : Nat) : Nat := bits t 11 0
def tagGen (t : Nat) : Nat := bits t 47 16
def tagMode (t : Nat) : Nat := bits t 49 48
def tagTxs (t : Nat) : Nat := bits t 51 50
def tagFrm (t : Nat) : Nat := bits t 87 64

def State.pageSt (s : State) (p : Nat) : PageSt := NMap.get .inService s.pages p
def State.setPageSt (s : State) (p : Nat) (v : PageSt) : State :=
  { s with pages := NMap.set .inService s.pages p v }

/-- Page size and number. -/
def pageOf (pa : Nat) : Nat := pa / 65536

/-! ### Snapshots and frames -/

def Ctx.snap (c : Ctx) (i : Nat) : Snap := NMap.get Snap.free c.snaps i
def Ctx.setSnap (c : Ctx) (i : Nat) (v : Snap) : Ctx := { c with snaps := NMap.set Snap.free c.snaps i v }
def Ctx.tx (c : Ctx) (i : Nat) : Tx := NMap.get Tx.free c.txs i
def Ctx.setTx (c : Ctx) (i : Nat) (v : Tx) : Ctx := { c with txs := NMap.set Tx.free c.txs i v }
def Ctx.frame (c : Ctx) (i : Nat) : Option Frame := NMap.get none c.frames i
def Ctx.setFrame (c : Ctx) (i : Nat) (v : Option Frame) : Ctx := { c with frames := NMap.set none c.frames i v }

/-- A live snapshot (R119). -/
def SnapSt.isLive : SnapSt → Bool
  | .armed | .pending | .live => true
  | _ => false

/-- The address of pool frame `i` (R125), and the number of frames: a control block with V = 0 enables none, so that the first staged write
of a transaction finds no frame (log 78). -/
def Ctx.frameAddr (c : Ctx) (i : Nat) : Nat := bits c.scb 155 128 * 65536 + i * 65536
def Ctx.nfrm (c : Ctx) : Nat := if bit c.scb 12 then bits c.scb 87 64 else 0

/-- The generation of a slot: CG just before its instant, which a slot of the same instant has already fixed. -/
def Ctx.genBefore (c : Ctx) (i : Nat) : Nat :=
  match (List.range 4).find? fun j => j != i && (c.snap j).gen != 0 && (c.snap j).t == (c.snap i).t with
  | some j => (c.snap j).gen
  | none => c.cg

/-- A slot whose instant is reached: the generation is fixed, and it is LIVE, or PENDING until its group confirms (R117,
R119). Two slots of the same instant count as two instants and have the same generation (log 72). -/
def Ctx.reach (c : Ctx) (i : Nat) : Ctx :=
  let n := c.snap i
  { c.setSnap i { n with st := if n.confirmed then .live else .pending, gen := c.genBefore i } with
    cg := (c.cg + 1) % 2 ^ 32, instants := c.instants ++ [n.t] }

/-- Every armed slot whose instant is at or before `now` reaches it, earlier instants first (R117). -/
def Ctx.reachAll (c : Ctx) (now : Nat) : Nat → Ctx
  | 0 => c
  | k + 1 =>
    let due := (List.range 4).filter fun i => (c.snap i).st == .armed && (c.snap i).t != 0 && (c.snap i).t ≤ now
    match due with
    | [] => c
    | i :: is =>
      Ctx.reachAll (c.reach (is.foldl (fun best j => if (c.snap j).t < (c.snap best).t then j else best) i)) now k

/-- A read-modify-write of a completion word; on a poisoned granule it is lost, with a rung-3 record (R160). -/
def State.onWord (s : State) (w : Nat × Nat) (f : Nat → Nat) : State :=
  if s.spPoisoned w.1 w.2 8 then s.report (srcCl w.1 5) 3 3 (s.cl w.1).ctl.cid 4 0 (spLoc w.1 w.2) 2 0
  else s.softWrite w.1 w.2 (toBytes 8 (f (s.spReadN w.1 w.2 8)))

/-- The completion word of R129: generation plus 1, the code, both counts 0. -/
def State.closeWord (s : State) (w : Option (Nat × Nat)) (code : Nat) : State :=
  match w with
  | none => s
  | some w => s.onWord w fun old => (bits old 63 48 + 1) % 2 ^ 16 * 2 ^ 48 + code * 2 ^ 42

/-- The slot that the decant engine serves: of the LIVE ones the one whose stream has begun, or else the one of earliest T (R126). -/
def Ctx.decanting (c : Ctx) : Option Nat :=
  let live := (List.range 4).filter fun i => (c.snap i).st == .live
  match live.find? fun i => (c.snap i).header with
  | some i => some i
  | none =>
    live.foldl (fun o i =>
      match o with
      | some j => if (c.snap i).t < (c.snap j).t then some i else some j
      | none => some i) none

/-- The frames of a context that a snapshot slot no longer holds; frames without a holder are freed (R126). -/
def Ctx.releaseFrames (c : Ctx) (i : Nat) : Ctx :=
  { c with frames := c.frames.filterMap fun (k, f) =>
      match f with
      | none => none
      | some f =>
        let f' := { f with holders := f.holders.filter (· != i) }
        if f'.holders.isEmpty && !f'.staged then none else some (k, some f') }

/-- A snapshot ends as DONE, DROPPED or FAILED with a code: its frames are released and its word is written (R119, R129). -/
def State.endSnap (s : State) (cid i : Nat) (st : SnapSt) (code : Nat) : State :=
  let w := ((s.ctx cid).snap i).word
  (s.onCtx cid fun c =>
    { (c.setSnap i { c.snap i with st := st, code := code }).releaseFrames i with
      decFree := if c.decanting == some i then s.gtc else c.decFree }).closeWord w code

/-- The armed slots of a context whose instants have come reach them; a slot that becomes PENDING after its issuing chip was fenced fails
at once (R117, R119, R127). -/
def State.reachAll (s : State) (cid : Nat) : State :=
  (List.range 4).foldl (fun (t : State) i =>
    let n := (t.ctx cid).snap i
    if n.st == .pending && n.origin != t.dev.chip && t.fencedChip n.origin then t.endSnap cid i .failed 0x32 else t)
    (s.onCtx cid fun c => c.reachAll s.gtc 4)

/-- The free frame of least number. -/
def Ctx.freeFrame (c : Ctx) : Nat → Nat → Option Nat
  | 0, _ => none
  | k + 1, i => if i < c.nfrm then (if c.frame i = none then some i else Ctx.freeFrame c k (i + 1)) else none

/-- The answer of AllocFrame (R127): a frame of a state in which snapshots may have been dropped, a wait, or none. -/
inductive FrameRes where
  | got (s : State) (f : Nat) | waits (s : State) | none (s : State)

/-- Of two slots the one of the earlier instant; an instant that is not fixed yet is the later. -/
def Ctx.older (c : Ctx) (i j : Nat) : Nat :=
  if (c.snap j).t != 0 && ((c.snap i).t == 0 || decide ((c.snap j).t < (c.snap i).t)) then j else i

/-- AllocFrame (R127). -/
def State.allocFrame (s : State) (cid : Nat) : Nat → FrameRes
  | 0 => .waits s
  | k + 1 =>
    let c := s.ctx cid
    match c.freeFrame (c.frames.length + 1) 0 with
    | some f => .got s f
    | none =>
      let live := (List.range 4).filter fun i => (c.snap i).st.isLive
      match live.filter fun i => (c.snap i).abnd with
      | i :: is =>
        let old := is.foldl c.older i
        State.allocFrame (s.endSnap cid old .dropped 0x33) cid k
      | [] => if live.any fun i => (c.snap i).st != .armed then .waits s else .none s

/-- The bytes of a page copied to another place, its poisoned units with it (R122, R435), while every channel works. -/
def State.movePage (s : State) (src dst : Nat) : State :=
  let moved := (s.hbm.slice src (src + 65536)).map fun (a, b) => (a - src + dst, b)
  let bad := (s.hbmPoison.filter fun u => src ≤ u * 64 && u * 64 < src + 65536).map fun u => (u * 64 - src + dst) / 64
  let t : State := { s with
    hbm := moved.foldl (fun m (a, b) => NMap.set 0 m a b) (s.hbm.clear dst (dst + 65536)),
    hbmPoison := (s.hbmPoison.filter fun u => !(dst ≤ u * 64 && u * 64 < dst + 65536)) ++ bad }
  t.overtake fun u => match u with
    | .hbm n => n / 1024 == dst / 65536
    | _ => false

/-- The actual storage of one chunk of at most one 64-byte unit written (R435); overtaken scrubs are noted (R439). A write to a
channel that has failed is dropped and logged (R115). -/
def State.storeChunk (s : State) (a : Nat) (bs : List Byte) : State :=
  if s.channelFailed a then s.report (s.srcChannel a) 2 2 0 0 0 a 1 0
  else
    let r := writeChunk 64 id (s.hbm, s.hbmPoison) (a, bs)
    ({ s with hbm := r.1, hbmPoison := r.2 } : State).overtake fun u => u == .hbm (a / 64)

/-- One 64-byte unit copied with its poison; the copy is corrected (R435, R451). A unit of a failed channel is read as poison, and
dropped where it would be written (R115). -/
def State.copyUnit (s : State) (src dst : Nat) : State :=
  if (s.channelFailed src || s.hbmPoison.contains (src / 64)) && !s.channelFailed dst then
    { s with hbmPoison := addPoison (dst / 64) s.hbmPoison }
  else s.storeChunk dst (s.hbm.read src 64)

/-- A page copied to another place (R122, R131, R135). -/
def State.copyPage (s : State) (src dst : Nat) : State :=
  if s.chanFailed.isEmpty then s.movePage src dst
  else (List.range 1024).foldl (fun t u => t.copyUnit (src + 64 * u) (dst + 64 * u)) s

/-- Where a page's current contents lie: the page, or its frame while it is staged with one or redirected (R131, R135). -/
def State.homeOf (s : State) (p : Nat) : Nat :=
  let t := s.tag p
  let c := s.ctx (tagOwner t)
  if tagMode t = 2 then c.frameAddr (tagFrm t)
  else if tagMode t = 1 && (c.frames.any fun (_, f) => f.any fun f => f.staged && f.origin == p) then
    c.frameAddr (tagFrm t)
  else p * 65536

/-- Whether a staged page is sealed: its participant has voted and the outcome has not arrived (R132). -/
def State.sealed (s : State) (p : Nat) : Bool :=
  let t := s.tag p
  tagMode t == 1 && (match ((s.ctx (tagOwner t)).tx (tagTxs t)).st with
    | .voted | .decided => true
    | _ => false)

/-! ### Physical HBM accesses -/

/-- What an HBM access meets (R61, R115, R127, R132, R434). -/
inductive HbmRes where
  | ok (s : State) | waits (s : State) | retry | offline | noFrame (s : State) (cid slot : Nat)

/-- A sector of a migrating page marked dirty (R61). -/
def State.dirtySector (s : State) (pa : Nat) : State :=
  match s.pageSt (pageOf pa) with
  | .copying d =>
    let k := pa % 65536 / 256
    if d.contains k then s else s.setPageSt (pageOf pa) (.copying (d ++ [k]))
  | _ => s

/-- CG at GTC `t`: the current one without the instants after `t`, whatever became of their snapshots (R117). -/
def Ctx.genAt (c : Ctx) (t : Nat) : Nat :=
  (c.cg + 2 ^ 32 - (c.instants.filter fun x => decide (t < x)).length % 2 ^ 32) % 2 ^ 32

/-- The copy-on-write of R122 before a covered write at page `p` with perform stamp `at_`, and the page's new generation. -/
def State.cover (s : State) (p at_ : Nat) : HbmRes :=
  let cid := tagOwner (s.tag p)
  if cid = 0 then .ok s
  else
    let s := s.reachAll cid
    let c := s.ctx cid
    let g := tagGen (s.tag p)
    let hs := (List.range 4).filter fun i =>
      ((c.snap i).st == .live || (c.snap i).st == .pending) && (c.snap i).t ≤ at_ && g ≤ (c.snap i).gen
    let stamp (s : State) : State := s.setTag p (setBits (s.tag p) 47 16 ((s.ctx cid).genAt at_))
    if hs.isEmpty then .ok (stamp s)
    else
      match s.allocFrame cid 5 with
      | .got s f =>
        let c := s.ctx cid
        let hs := hs.filter fun i => (c.snap i).st.isLive
        if hs.isEmpty then .ok (stamp s)
        else
          let s := s.copyPage (s.homeOf p) (c.frameAddr f)
          let s := s.onCtx cid fun c =>
            { c.setFrame f (some { origin := p, holders := hs, staged := false, order := c.frameSeq }) with
              frameSeq := c.frameSeq + 1 }
          .ok (stamp s)
      | .waits s => .waits s
      | .none s => .waits s

/-- A write of bytes within one 64-byte unit of local HBM (R61, R117, R131, R132, R135). DESIGN CHOICE: DROPS counts what is written at a time: a
host or an engine write counts once for each 64-byte unit, a write of another chip once (log 103). -/
def State.hbmWrite (s : State) (pa : Nat) (bs : List Byte) : HbmRes :=
  let p := pageOf pa
  match s.pageSt p with
  | .flipping => .retry
  | .offline => .offline
  | _ =>
    let t := s.tag p
    let cid := tagOwner t
    if tagMode t = 3 then
      .ok (s.onCtx cid fun c =>
        let x := c.tx (tagTxs t)
        c.setTx (tagTxs t) { x with drops := Nat.min 65535 (x.drops + 1) })
    else if s.sealed p then .waits s
    else if tagMode t = 1 then
      if s.homeOf p != p * 65536 then .ok (s.storeChunk (s.homeOf p + pa % 65536) bs)
      else
        match (s.reachAll cid).allocFrame cid 5 with
        | .got s f =>
          let c := s.ctx cid
          let s := s.copyPage (p * 65536) (c.frameAddr f)
          let s := s.onCtx cid fun c =>
            { c.setFrame f (some { origin := p, holders := [], staged := true, order := c.frameSeq }) with
              frameSeq := c.frameSeq + 1 }
          let s := s.setTag p (setBits (s.tag p) 87 64 f)
          .ok (s.storeChunk (s.homeOf p + pa % 65536) bs)
        | .waits s => .waits s
        | .none s => .noFrame s cid (tagTxs t)
    else
      match s.cover p s.gtc with
      | .ok s => .ok ((s.storeChunk (s.homeOf p + pa % 65536) bs).dirtySector pa)
      | r => r

/-- What a read of local HBM meets. -/
inductive ReadRes where
  | ok (bs : List Byte) | waits | retry | offline | poison
  deriving DecidableEq, Repr

/-- A read of bytes within one 64-byte unit of local HBM (R61, R115, R131, R132, R135, R436). -/
def State.hbmRead (s : State) (pa n : Nat) : ReadRes :=
  let p := pageOf pa
  match s.pageSt p with
  | .flipping => .retry
  | .offline => .offline
  | _ =>
    if s.sealed p then .waits
    else
      let a := s.homeOf p + pa % 65536
      if s.channelFailed a || poisoned 64 s.hbmPoison a n then .poison else .ok (s.hbm.read a n)

/-! ### Outcomes of staged transactions (R133-R135) -/

/-- The pages of a transaction of a context: those whose tag has the owner, the slot and MODE = 01. -/
def State.txPages (s : State) (cid slot : Nat) : List Nat :=
  (s.tags.filter fun (_, t) => tagOwner t == cid && tagMode t == 1 && tagTxs t == slot).map Prod.fst

/-- The staged frame of a page, if one is allotted. -/
def State.stagedFrame (s : State) (p : Nat) : Option Nat :=
  let t := s.tag p
  match (s.ctx (tagOwner t)).frame (tagFrm t) with
  | some f => if f.staged && f.origin == p then some (tagFrm t) else none
  | none => none

/-- The commit of one page at `tc`, unless an earlier page of its transaction waits (R135): a page with a staged frame takes the
covered write of the flip, from its own storage, and is redirected; a page without one becomes plain. The flip comes before every instant
from `tc` on, whose images hold the committed data (R138; log 102). The flag says that it is done; a
flip that waits for a frame changes the page not, but AllocFrame may have dropped snapshots (R127). -/
def State.commitPage (tc : Nat) (r : State × Bool) (p : Nat) : State × Bool :=
  let s := r.1
  if !r.2 then r
  else match s.stagedFrame p with
    | none => (s.setTag p (setBits (setBits (s.tag p) 49 48 0) 51 50 0), true)
    | some f =>
      match (s.setTag p (setBits (s.tag p) 49 48 0)).cover p (tc - 1) with
      | .ok t => (t.setTag p (setBits (setBits (t.tag p) 49 48 2) 87 64 f), true)
      | .waits t => (t.setTag p (s.tag p), false)
      | _ => (s, false)

/-- The abort of one page: its staged frame is freed and the page is closed (R135). -/
def State.closePage (s : State) (p : Nat) : State :=
  let s := match s.stagedFrame p with
    | some f => s.onCtx (tagOwner (s.tag p)) fun c => c.setFrame f none
    | none => s
  s.setTag p (setBits (s.tag p) 49 48 3)

/-- The outcome applied to a participant's slot (R134, R135): its pages, its state and code, its completion word (R129). The flag is false
while a commit waits for a frame; the pages it has come to are redirected by then, the others stay sealed. -/
def State.txOutcome (s : State) (cid slot tc code : Nat) : State × Bool :=
  let ps := s.txPages cid slot
  let w := ((s.ctx cid).tx slot).word
  let finish (s : State) : State :=
    (s.onCtx cid fun c =>
      c.setTx slot { c.tx slot with st := if code = 0 then .committed else .aborted, code := code, tc := tc }).closeWord w code
  if code = 0 then
    let r := ps.foldl (State.commitPage tc) (s, true)
    if r.2 then (finish r.1, true) else r
  else (finish (ps.foldl State.closePage s), true)

/-- The chip that coordinates a group: the lowest of its mask. -/
def coordOf (mask : BitVec 64) : Nat := ((chipsOf mask).head?).getD 0

/-- A message of a transaction slot to another chip: a request of Samovar, which is sent again until it is answered (R133, R467). -/
def State.sendTx (s : State) (cid slot k : Nat) (m : ReqId → Msg) : State := s.request k (.tx cid slot) m

/-- An abort before Tc that arises on this chip (R132-R134): applied here, and made known to the coordinator or, on the
coordinator, to the participants. The vote of a participant says no without a code, so that the others see 0x38 (log 76). -/
def State.txAbort (s : State) (cid slot code : Nat) : State :=
  let x := (s.ctx cid).tx slot
  let s := (s.txOutcome cid slot 0 code).1
  if coordOf x.mask = s.dev.chip then
    ((chipsOf x.mask).filter (· != s.dev.chip)).foldl (fun s k => s.sendTx cid slot k fun t => .outcome t cid slot 0 code) s
  else s.sendTx cid slot (coordOf x.mask) fun t => .vote t cid slot x.txid x.mask false

/-- Bytes of a host write, unit by unit, and the units left from the first that waits on. A write to an offline page is refused. -/
def State.hostWrites (s : State) : List (Nat × List Byte) → State × List (Nat × List Byte)
  | [] => (s, [])
  | (a, bs) :: cs =>
    match s.hbmWrite a bs with
    | .ok t => t.hostWrites cs
    | .offline => s.hostWrites cs
    | .noFrame t cid slot => (t.txAbort cid slot 0x3B).hostWrites cs
    | .waits t => (t, (a, bs) :: cs)
    | .retry => (s, (a, bs) :: cs)

/-- The posted writes of the host that wait are tried again, in order (R166). -/
def State.drainPosted (s : State) : State :=
  match s.host.posted with
  | [] => s
  | cs =>
    let r := s.hostWrites cs
    { r.1 with host := { r.1.host with posted := r.2 } }

/-- Bytes of the reserved region written by the device's own agents: its pages have no owner (R116). -/
def State.rsvWrite (s : State) (pa : Nat) (bs : List Byte) : State :=
  (chunks 64 pa bs).foldl (fun s c => (s.storeChunk c.1 c.2).dirtySector c.1) s

/-- A 64-byte entry of the reserved region that cannot be read: poisoned, or of a failed channel (R115, R435). -/
def State.entryBad (s : State) (a : Nat) : Bool := s.channelFailed a || poisoned 64 s.hbmPoison a 64

/-- Samovar, the dispatcher or firmware reads an entry of the reserved region: one that is poisoned asks for a device reset, once (R436, log 95). -/
def State.rsvSeen (s : State) (a : Nat) : State :=
  if s.entryBad a && !s.rel.history.any (fun r => r.event == 0x0C && r.addr == a) then s.report srcSamovar 7 0x0C 0 4 0 a 1 0 else s

/-- The descriptor of a context cannot be read. -/
def State.descBad (s : State) (cid : Nat) : Bool := s.entryBad (s.descAddr cid)

end Sys2Proof.Machine
end

