-- ==== Sys2Proof/Machine/Fault.lean ====
section
/-! DEFINITION. Taking a trap and returning from it (R383-R385, R413), aborting a task or a context (R51, R420, R421, R433,
R436), and collecting translation faults in batches (R51-R55). -/

namespace Sys2Proof.Machine

/-! ### Trap state (R375-R377) -/

/-- A bit as a 64-bit value at a place. -/
def flag (b : Bool) (i : Nat) : Nat := if b then 2 ^ i else 0

/-- `cr.sstat` from PM, TE and PTE. -/
def sstatOf (pm te pte : Bool) : W64 := BitVec.ofNat 64 (flag pm 0 + flag te 1 + flag pte 2)

def ACore.pm (a : ACore) : Bool := a.sstat.getLsbD 0
def ACore.te (a : ACore) : Bool := a.sstat.getLsbD 1
def ACore.pte (a : ACore) : Bool := a.sstat.getLsbD 2

/-- An address with bits [2:0] cleared (R376). -/
def clear3 (v : W64) : W64 := v &&& ~~~7#64

/-- The fields of `cr.erbase` (R442): every other bit is reserved (R6). -/
def erbaseMask : W64 := BitVec.ofNat 64 (2 ^ 63 + (2 ^ 44 - 2 ^ 12) + 15)

/-- `cr.cause` from CODE, DETAIL and XC (R377). -/
def causeOf (code detail : Nat) (xc : Bool) : W64 := BitVec.ofNat 64 (code % 256 + detail % 256 * 256 + flag xc 16)

/-- Whether a trap taken now is a double fault: mode S with TE = 0 (R383). -/
def ACore.doubleFault (a : ACore) : Bool := a.mode == .s && !a.te

/-- The entry of R383 on one A-core: PM, PTE and TE, the saved pc, the cause and TVAL, mode S and the handler's address. -/
def ACore.enter (a : ACore) (code detail : Nat) (tval : W64) (xc : Bool) (epc : W64) : ACore :=
  { a with sstat := sstatOf (a.mode == .s) false a.te, epc := clear3 epc, cause := causeOf code detail xc, tval := tval,
           mode := .s, pc := clear3 a.tvec, wait := none, growReq := none, run := .run }

/-- The return of R385: the mode from PM, TE from PTE, the pc from EPC. -/
def ACore.leave (a : ACore) : ACore :=
  { a with mode := if a.pm then .s else .t, sstat := sstatOf a.pm a.pte a.pte, pc := clear3 a.epc, wait := none }

/-! ### Batches of translation faults (R53-R55) -/

/-- The page number of a fault record or range: a 64 KiB page. -/
def FRec.le (a b : FRec) : Bool :=
  decide (a.page < b.page) || (a.page == b.page && (decide (a.kind < b.kind) || (a.kind == b.kind && decide (a.acc ≤ b.acc))))

/-- A record joins a range of the same kind and access whose pages it meets or touches; `ts` are the range's tasks. -/
def joinRec (r : FRec) : List (FRange × List (Nat × Nat)) → List (FRange × List (Nat × Nat))
  | [] => [({ page := r.page, pages := 1, kind := r.kind, acc := r.acc, agent := r.agent, tasks := 1, first := r.gtc },
            [(r.node, r.task)])]
  | (f, ts) :: fs =>
    if f.kind == r.kind && f.acc == r.acc && f.page ≤ r.page && r.page ≤ f.page + f.pages then
      let ts' := if ts.contains (r.node, r.task) then ts else ts ++ [(r.node, r.task)]
      ({ f with pages := Nat.max f.pages (r.page + 1 - f.page), agent := f.agent ||| r.agent,
                tasks := Nat.min 65535 ts'.length, first := Nat.min f.first r.gtc }, ts') :: fs
    else (f, ts) :: joinRec r fs

/-- The ranges of a batch's records (R54, steps 1 and 2). -/
def rangesOf (rs : List FRec) : List FRange :=
  ((sortLe FRec.le rs).foldl (fun acc r => joinRec r acc) []).map Prod.fst

def FRange.le (a b : FRange) : Bool :=
  decide (a.page < b.page) || (a.page == b.page && (decide (a.kind < b.kind) || (a.kind == b.kind && decide (a.acc ≤ b.acc))))

/-- The gap between a range and the next one of its kind and access, and that range (R54). -/
def nextGap (f : FRange) (fs : List FRange) : Option (Nat × FRange) :=
  (fs.find? fun h => h.kind == f.kind && h.acc == f.acc).map fun h => (h.page - (f.page + f.pages), h)

/-- The pair with the least gap, the lower pair on a tie. -/
def leastGap : List FRange → Option (Nat × FRange × FRange)
  | [] => none
  | f :: fs =>
    match nextGap f fs, leastGap fs with
    | none, r => r
    | some (g, h), none => some (g, f, h)
    | some (g, h), some (g', p) => if g ≤ g' then some (g, f, h) else some (g', p)

/-- The first element of a list that equals `f` replaced. -/
def replaceFirst {α : Type} [DecidableEq α] (f j : α) : List α → List α
  | [] => []
  | g :: gs => if g = f then j :: gs else g :: replaceFirst f j gs

/-- Joining of ranges until at most 255 remain (R54). -/
def coarsen : Nat → List FRange → List FRange
  | 0, fs => fs
  | k + 1, fs =>
    if fs.length ≤ 255 then fs
    else
      match leastGap fs with
      | none => fs
      | some (_, f, h) =>
        let j := { f with pages := Nat.max f.pages (h.page + h.pages - f.page), agent := f.agent ||| h.agent,
                          tasks := Nat.min 65535 (f.tasks + h.tasks), first := Nat.min f.first h.first }
        coarsen k (replaceFirst f j (fs.erase h))

/-- A closed batch joins the held ones; beyond 256 it merges into the newest (R54). Ranges of the two batches that overlap or touch are kept
apart, which R54 leaves open (log 80). -/
def holdBatch (bs : List Batch) (b : Batch) : List Batch :=
  if bs.length < 256 then bs ++ [b]
  else
    match bs.getLast? with
    | none => [b]
    | some n =>
      let rs := sortLe FRange.le (n.ranges ++ b.ranges)
      bs.dropLast ++ [{ n with coarse := n.coarse || b.coarse || decide (255 < rs.length),
                               nrec := Nat.min 65535 (n.nrec + b.nrec), ranges := coarsen rs.length rs }]

/-- The open batch closes (R53, R54). -/
def State.closeBatch (s : State) (cid : Nat) : State :=
  if (s.ctx cid).recs.isEmpty then s
  else s.onCtx cid fun c =>
    let b : Batch := { coarse := false, bseq := c.bseq, nrec := Nat.min 65535 c.recs.length, gtc := s.gtc,
                       ranges := rangesOf c.recs }
    { c with recs := [], bseq := (c.bseq + 1) % 2 ^ 32, held := holdBatch c.held b }

/-- A fault record joins the context's open batch, which closes at FBCOUNT records or, with FBTIME = 0, at once (R51, R53). Without a readable
descriptor it stays open. -/
def State.faultRecord (s : State) (cid : Nat) (r : FRec) : State :=
  let d := s.desc cid
  let s := s.rsvSeen (s.descAddr cid)
  let t := s.onCtx cid fun c =>
    { c with openedAt := if c.recs.isEmpty then s.gtc else c.openedAt, recs := c.recs ++ [r] }
  if !t.descBad cid && (bits d 343 336 ≤ (t.ctx cid).recs.length || bits d 335 320 == 0) then t.closeBatch cid else t

/-! ### Ending a task -/

/-- The X-core stopped, with nothing in flight. -/
def XCore.stop (x : XCore) : XCore :=
  { x with run := .idle, trap := none, soft := false, freeze := none, semGot := none, land := [], latchN := none, latchS := none }

/-- The records of the queue and the engines discarded (R370); single issues already begun end (log 93). -/
def Arr.discard (r : Arr) : Arr :=
  { r with recQ := [], arrayE := [], loaderE := [], pusherE := [], nestE := [], passes := [], drain := none,
           acc := r.passes.foldl (fun m p => p.sums.foldl (fun m (e, v) =>
             NMap.set 0 m e (BitVec.ofNat 32 (fadd .f32 (NMap.get 0 m e).toNat v).1)) m) r.acc }

/-- What becomes of a store or an atomic when its task, of entry `e`, is aborted: one that has left the scalar store queue still performs, any
other is discarded (R51, R420). -/
def Acc.abandon (e t : Nat) (l : Acc) : Option Acc :=
  if l.left && l.val.isNone then some { l with late := some (e, t), orphan := true, wins := 0 } else none

/-- A cluster whose cores and accesses are stopped (R51, R420). Stores that an earlier task left behind, and those of firmware, stay (R51,
R127). -/
def Cluster.stop (c : Cluster) : Cluster :=
  { c with
    a := { c.a with run := .idle, wait := none, loads := [], growReq := none, due := none, doomed := none,
                    stores := c.a.stores.filterMap fun l =>
                      if l.late.isSome || l.cid == 0 then some l else l.abandon c.ctl.node c.ctl.task },
    x := c.x.stop, arr := c.arr.discard,
    ctl := { c.ctl with occ := .free, runBit := false, preempt := false } }

/-- What becomes of a task that is stopped: it is requeued, parked on pages, or dropped. -/
inductive Fate where
  | requeue | park (pages : List Nat) | drop
  deriving DecidableEq, Repr

/-- The number of tasks of a node: the product of the extents that are spatial over clusters (R173-R175). -/
def Node.total (n : Node) : Nat := (n.loops.filter fun l => l.2 == 2).foldl (fun p l => p * l.1) 1

/-- The node has a pending or suspended task (R398). -/
def Node.hasWork (n : Node) : Bool := decide (n.next < n.total) || !n.requeued.isEmpty || !n.susp.isEmpty

/-- The waiting time of a node that now gains a pending or suspended task counts from now, if it had none (R399). -/
def Node.waits (n : Node) (now : Nat) : Node := if n.hasWork then n else { n with waitFrom := now }

/-- The number of a task that is parked now: higher than that of every task still parked (R56). -/
def Node.parkOrder (n : Node) : Nat := n.parked.foldl (fun m p => Nat.max m (p.order + 1)) 0

/-- A node takes back a task: as pending, as parked, or not at all; a failing node keeps none (R409). One whose suspension record was not
yet restored stays suspended. -/
def Node.takeBack (n : Node) (t : Nat) (f : Fate) (now : Nat) : Node :=
  if n.failing != 0 then { n with susp := n.susp.filter fun r => r.task != t }
  else
    match f with
    | .requeue => if n.susp.any fun r => r.task == t then n else { n.waits now with requeued := n.requeued ++ [t] }
    | .park ps => { n with parked := n.parked ++ [{ task := t, pages := ps, order := n.parkOrder }] }
    | .drop => n

/-- The engine commands of a task stopped, on every cluster it has run on; their accesses that have not performed never leave (R51, R151,
R420). -/
def State.dropCmds (s : State) (node task : Nat) : State :=
  let keep (k : Cmd) : Bool := !(k.mode == .t && k.node == node && k.task == task)
  let f (_ : Nat) (c : Cluster) : Cluster := { c with a := { c.a with cmds := c.a.cmds.filter keep } }
  let hit : ReqBy → Bool
    | .cmd cl id _ => (s.cl cl).a.cmds.any fun k => k.id == id && !keep k
    | _ => false
  ({ s with clusters := NMap.mapVals Cluster.reset f s.clusters } : State).dropReqsOf hit

/-- A pre-emption request of the dispatcher is no longer on its way. -/
def State.requestServed (s : State) (cl : Nat) : State :=
  { s with disp := { s.disp with pending := s.disp.pending.filter fun p => p.1 != cl } }

/-- Rows that some landings were to send are never sent (R325, R341). -/
def State.dropSends (s : State) (ls : List Landing) : State :=
  { s with flights := s.flights.filter fun g => g.sent || !ls.any fun l => l.eff == .send g.cl g.north }

/-- Stores that tasks of a set left behind when they were suspended: the task is abandoned, and with it those that have not left their
queue. -/
def State.dropLate (s : State) (p : Nat → Nat → Bool) : State :=
  let f (l : Acc) : Option Acc := match l.late with
    | some (e, t) => if p e t && !l.orphan then l.abandon e t else some l
    | none => some l
  { s with clusters := NMap.mapVals Cluster.reset (fun _ c => { c with a := { c.a with stores := c.a.stores.filterMap f } }) s.clusters }

/-- Suspension records are discarded, and with them the rows that their landing lists were to send (R341, R409, R421). -/
def State.dropRecords (s : State) (rs : List Susp) : State := rs.foldl (fun s r => s.dropSends r.x.land) s

/-- A tile image that a DRAIN has begun to write is written to its end (R370; log 93). -/
def State.endDrain (s : State) (cl : Nat) : State :=
  match (s.cl cl).arr.drain with
  | some d => match d.data with
    | some bs => ((List.range 128).filter fun g => !d.gran.contains g).foldl (fun (s : State) g =>
        s.softWrite cl (d.at_ + 32 * g) ((bs.drop (32 * g)).take 32)) s
    | none => s
  | none => s

/-- The cluster's task, if it holds one, is stopped and takes its fate (R51, R420), with what it has left on other clusters, which serves a pre-emption request (R423). -/
def State.endTask (s : State) (cl : Nat) (f : Fate) : State :=
  if (s.cl cl).ctl.occ = .free then s
  else
    let s := s.endDrain cl
    let c := s.cl cl
    (((((s.dropSends c.x.land).setCl cl c.stop).dropCmds c.ctl.node c.ctl.task).dropLate fun e t =>
      e == c.ctl.node && t == c.ctl.task).onNode c.ctl.node fun n => n.takeBack c.ctl.task f s.gtc).requestServed cl

/-- The cluster on which a task is placed. -/
def State.runsOn (s : State) (node task : Nat) : Option Nat :=
  (List.range 192).find? fun n => (s.cl n).ctl.occ != .free && (s.cl n).ctl.node == node && (s.cl n).ctl.task == task

/-- The suspension record of a task is discarded, and the node takes the task back (R51). A task that has none any more, since its node has failed or
its context has been aborted, stays dropped (R409, R421). -/
def State.unsuspend (s : State) (node task : Nat) (f : Fate) : State :=
  let rs := (((s.node? node).map (·.susp)).getD []).filter fun r => r.task == task
  let t := (((s.dropCmds node task).dropLate fun e t => e == node && t == task).dropRecords rs)
  if rs.isEmpty then t else t.onNode node fun n => { n with susp := n.susp.filter fun r => r.task != task }.takeBack task f s.gtc

/-- Suspended and running tasks of a context are discarded, and the context is marked aborted (R421). -/
def State.abortContext (s : State) (cl cid code detail tval : Nat) : State :=
  let s := s.report (srcCl cl 0) 6 0x0B cid code detail tval 0 tval
  let s := s.onCtx cid fun c => { c with aborted := true }
  let s := (List.range 192).foldl
    (fun s n => if (s.cl n).ctl.occ != .free && (s.cl n).ctl.cid == cid then s.endTask n .drop else s) s
  let s := s.dropLate fun e _ => (s.node? e).any fun n => n.cid == cid
  let s := s.disp.nodes.foldl (fun s e => match e.2 with
    | some n => if n.cid == cid then s.dropRecords n.susp else s
    | none => s) s
  { s with disp := { s.disp with nodes := s.disp.nodes.map fun (k, n) =>
      (k, n.map fun n => if n.cid == cid then { n with susp := [] } else n) } }

/-- How many rung-4 events of one task abort its context (R441). -/
def Dev.taskLimit (d : Dev) : Nat := d.thresholds.getD 4 8

/-- A rung-4 event of a task counts (R431, R441): the task is not placed again on the cluster `cl` where it arose. -/
def State.countRung4 (s : State) (cl node task : Nat) : State :=
  s.onNode node fun n =>
    { n with rung4 := NMap.set 0 n.rung4 task (NMap.get 0 n.rung4 task + 1),
             badCl := NMap.set [] n.badCl task (NMap.get [] n.badCl task ++ [cl]) }

/-- The rung-4 events of a task so far: at least the one at hand. -/
def State.rung4Count (s : State) (node task : Nat) : Nat :=
  match s.node? node with
  | some n => NMap.get 0 n.rung4 task
  | none => 1

/-- What becomes of a task after a rung-4 event that has been counted: wherever it is, it is requeued, or on the eighth such event its context
is aborted (R431, R441). -/
def State.requeueRung4 (s : State) (cl node task cid code detail tval : Nat) : State :=
  if s.dev.taskLimit ≤ s.rung4Count node task then s.abortContext cl cid code detail tval
  else match s.runsOn node task with
    | some c => s.endTask c .requeue
    | none => s.unsuspend node task .requeue

/-- A rung-4 event of a task of context `cid` that arose on cluster `cl` (R431, R433, R436, R440): the record, then the task, wherever it is,
is requeued away from that cluster, or on its eighth such event the context is aborted (R441). -/
def State.taskRung4 (s : State) (cl node task cid src event code detail addr tval : Nat) (info : Nat := 0) : State :=
  ((s.report (srcCl cl src) 4 event cid code detail addr info tval).countRung4 cl node task).requeueRung4 cl node task cid code detail tval

/-- A rung-4 event of what runs on a cluster: of its task, if it has one. -/
def State.rung4 (s : State) (cl src event code detail addr tval : Nat) (info : Nat := 0) : State :=
  let c := s.cl cl
  if c.ctl.occ = .free then s.report (srcCl cl src) 4 event c.ctl.cid code detail addr info tval
  else s.taskRung4 cl c.ctl.node c.ctl.task c.ctl.cid src event code detail addr tval info

/-- The memory kind of a check unit in INFO[7:0] of a record (R446). -/
def memKind : MemUnit → Nat
  | .hbm _ => 1
  | .sp _ _ => 2
  | .tw _ _ _ => 3
  | .acc _ _ => 5
  | .pe _ _ => 6
  | .file _ _ => 4
  | .l1 _ _ => 7

/-- Poison consumed by a core (R436): the task is requeued, or on a second consumption of one check unit the context is
aborted. -/
def State.corePoison (s : State) (cl : Nat) (u : MemUnit) (addr : Nat) (src : Nat := 0) : State :=
  let c := s.cl cl
  let seen := match s.node? c.ctl.node with
    | some n => (NMap.get [] n.poisonHit c.ctl.task).contains u
    | none => false
  if seen && c.ctl.occ != .free then
    (s.report (srcCl cl src) 6 0x04 c.ctl.cid 0x04 0 addr (memKind u) 0).abortContext cl c.ctl.cid 0x04 0 addr
  else
    let s := s.onNode c.ctl.node fun n =>
      { n with poisonHit := NMap.set [] n.poisonHit c.ctl.task (NMap.get [] n.poisonHit c.ctl.task ++ [u]) }
    s.rung4 cl src 0x04 0x04 0 addr 0 (memKind u)

/-- A double fault: the A-core stops with its registers unchanged, Samovar writes an uncontained record and the task's
context is aborted (R383, R440, R448). Then it resets the cluster's cores (`State.resetFaulted`). -/
def State.doubleFault (s : State) (cl : Nat) : State :=
  let c := s.cl cl
  let s := s.report (srcCl cl 0) 6 0x15 c.ctl.cid 0 0 c.a.epc.toNat 0 0
  let s := if c.ctl.occ = .free then s else s.abortContext cl c.ctl.cid 0 0 0
  s.onCl cl fun c => { c with a := { c.a with run := .faulted, wait := none }, x := c.x.stop }

/-- Samovar's reset of the cores that a double fault has stopped (R383): both cores as after bring-up, with nothing outstanding but what other
tasks have left behind. -/
def Cluster.resetCores (tvec : W64) (c : Cluster) : Cluster :=
  if c.a.run = .faulted then
    { c with
      a := { ACore.reset with tvec := tvec, seq := c.a.seq, nextId := c.a.nextId, stores := c.a.stores.filter (·.late.isSome),
                              cmds := c.a.cmds.filter fun k => k.mode == .t },
      x := XCore.reset }
  else c

def State.resetFaulted (s : State) : State :=
  if s.clusters.any fun e => e.2.a.run == .faulted then
    { s with clusters := NMap.mapVals Cluster.reset (fun _ c => c.resetCores (clear3 (BitVec.ofNat 64 s.dev.image.tvec))) s.clusters }
  else s

/-- The entry of a trap on the A-core of cluster `cl` (R383, R415): a double fault in mode S with TE = 0, else the entry, with
EPC the address to resume at. -/
def State.enterTrap (s : State) (cl code detail : Nat) (tval : W64) (xc : Bool) (epc : W64) : State :=
  if (s.cl cl).a.doubleFault then s.doubleFault cl
  else s.onA cl fun a => a.enter code detail tval xc epc

/-- What firmware does with a trap from mode T (R419), in the same step: a record with the code for the Software trap, a
context abort for every other cause. A protection mismatch is disposed of by `mismatch`; a trap from mode S, or with no task
on the cluster, is left to its handler. -/
def State.dispose (s : State) (cl code detail : Nat) (tval : W64) : State :=
  let c := s.cl cl
  if c.ctl.occ = .free then s
  else if code = 0x14 then s.report (srcCl cl 1) 0 0x13 c.ctl.cid (tval.toNat % 256) 0 0 0 tval.toNat
  else s.abortContext cl c.ctl.cid code detail tval.toNat

/-- Taking a trap: the entry, and from mode T its disposition. -/
def State.takeTrap (s : State) (cl code detail : Nat) (tval : W64) (xc : Bool) (epc : W64) : State :=
  let t := s.enterTrap cl code detail tval xc epc
  if (s.cl cl).a.mode = .t then t.dispose cl code detail tval else t

/-- Every earlier instruction has written its results. -/
def ACore.resultsDone (a : ACore) : Bool := a.loads.isEmpty && a.stores.all fun l => l.op.isNone || l.late.isSome

/-- A precise trap of the instruction at the pc of the focused A-core, once every earlier instruction has completed; until then the core
stands at it (R415). -/
def State.trapHere (s : State) (code detail : Nat) (tval : W64) : State :=
  if s.a.resultsDone then s.takeTrap s.focus code detail tval false s.a.pc else s

/-- Address-space fault kinds (R414). -/
def kNonCanonical : Nat := 1
def kSpRange : Nat := 2
def kTowerRange : Nat := 3
def kMalformed : Nat := 4
def kScope : Nat := 5
def kOwner : Nat := 6
def kHandle : Nat := 7
def kTemplate : Nat := 8
def kWindow : Nat := 9
def kHostAtomic : Nat := 10
def kGranule : Nat := 11

/-- An address-space fault (CODE 0x03), an alignment fault (0x04) and a buffer fault (0x05) of the focused A-core (R413). -/
def State.spaceFault (s : State) (kind : Nat) (v : W64) : State := s.trapHere 3 kind v
def State.alignFault (s : State) (v : W64) : State := s.trapHere 4 0 v
def State.bufferFault (s : State) (b : Nat) : State := s.trapHere 5 0 (BitVec.ofNat 64 b)

/-- A translation fault of an access of the task of cluster `cl`: a record for the batch, and the task is parked (R51). `agent`
is the bits of R55, `acc` its access code; no agent of this chip sets bit [111], remote chip (log 81). -/
def State.taskFault (s : State) (cl kind acc agent va : Nat) : State :=
  let c := s.cl cl
  let s := s.faultRecord c.ctl.cid { page := va / 65536, kind := kind, acc := acc, agent := agent, node := c.ctl.node,
                                     task := c.ctl.task, gtc := s.gtc }
  s.endTask cl (.park [va / 65536])

/-- A translation fault of the instruction at the pc of cluster `cl`: of its task in mode T (R51), a precise trap in mode S (R52). -/
def State.translationFault (s : State) (cl kind acc agent va : Nat) : State :=
  if (s.cl cl).a.mode = .s then
    (if (s.cl cl).a.resultsDone then s.takeTrap cl 6 kind (BitVec.ofNat 64 va) false (s.cl cl).a.pc else s)
  else s.taskFault cl kind acc agent va

/-- The A-core goes on at the instruction after its HALT or PAUSE. -/
def State.wake (s : State) (cl : Nat) : State := s.onA cl fun a => { a with run := .run, pc := a.pc + 8 }

/-- An event at every A-core ends every HALT and PAUSE, whatever becomes of it afterwards (R386). -/
def State.wakeAll (s : State) : State :=
  { s with clusters := NMap.mapVals Cluster.reset (fun _ c => match c.a.run with
      | .halted _ => { c with a := { c.a with run := .run, pc := c.a.pc + 8 } }
      | _ => c) s.clusters }

/-- INFO of the record of a control divergence: bits [63:32] are the kind of the comparison (R448), as the free value of log 98. -/
def vigilInfo (kind : VigilKind) : Nat := (Config.vigilKind kind).toNat * 2 ^ 32

/-- A control divergence at the instruction at `addr` (R433): in mode S a double fault, else the task is drained and requeued. -/
def State.divergence (s : State) (cl : Nat) (kind : VigilKind) (addr : Nat) : State :=
  if (s.cl cl).a.mode = .s then s.doubleFault cl
  else s.rung4 cl 2 0x07 0 0 addr 0 (vigilInfo kind)

/-- The DETAIL of a protection mismatch (R413): 3 for three distinct values under `.tv`, 1 under `.dc`. -/
def mismatchDetail (tv : Bool) : Nat := if tv then 3 else 1

/-- The rung-4 record of a protection mismatch on cluster `cl` (R431), from agent `src`, counted for the task there if `own` says that it is that
task's. -/
def State.mismatchEvent (s : State) (cl src : Nat) (own tv : Bool) (code addr : Nat) : State :=
  let c := (s.cl cl).ctl
  let s := s.report (srcCl cl src) 4 0x06 (if own then c.cid else 0) code (mismatchDetail tv) addr 0 addr
  if own && c.occ != .free then s.countRung4 cl c.node c.task else s

/-- The trap of a protection mismatch is taken on cluster `cl` (R383, R413, R415, R419, R431): from mode T the task is aborted and requeued; from
mode S the handler of R383 is reached, and the mismatch of the task's own access or syllable is disposed of when firmware returns to the task
(log 100). -/
def State.takeMismatch (s : State) (cl : Nat) (own : Bool) (detail tval : Nat) (xc : Bool) : State :=
  let c := s.cl cl
  let t := s.enterTrap cl 7 detail (BitVec.ofNat 64 tval) xc c.a.pc
  if c.ctl.occ == .free || c.a.doubleFault then t
  else if c.a.mode == .t then t.requeueRung4 cl c.ctl.node c.ctl.task c.ctl.cid 7 detail tval
  else if own then t.onA cl fun a => { a with doomed := some (detail, tval) }
  else t

/-- A protection mismatch of an A-core access or command, of the task on cluster `cl` or of firmware there (R431): its record now, and its trap at
the next instruction boundary at which every earlier instruction has completed (R415). -/
def State.mismatchA (s : State) (cl src : Nat) (own tv : Bool) (code addr : Nat) : State :=
  (s.mismatchEvent cl src own tv code addr).onA cl fun a =>
    { a with due := a.due.orElse fun _ => some { code := 7, detail := mismatchDetail tv, tval := addr, slot := if own then 1 else 0 } }

/-- A protection mismatch of a record or a syllable, whose trap is taken now (R416, R431). -/
def State.mismatchX (s : State) (cl src : Nat) (tv : Bool) (code addr : Nat) : State :=
  (s.mismatchEvent cl src true tv code addr).takeMismatch cl true (mismatchDetail tv) addr true

/-- A `.tv` dissent outvoted (R431). INFO[49:32] names the beat and the lane (R448), which depend on the copy that erred: free values
(log 99). -/
def State.dissent (s : State) (cl src addr : Nat) : State :=
  let (w, s) := s.draw
  s.report (srcCl cl src) 1 0x05 (s.cl cl).ctl.cid 0 0 addr ((w.extractLsb' 0 18).toNat * 2 ^ 32) 0

/-- An X trap becomes pending and the X-core drains (R416); the trap that R418 ranks first wins. -/
def xRank : Nat → Nat
  | 0x07 => 0 | 0x01 => 1 | 0x03 => 2 | 0x15 => 3 | 0x10 => 4 | 0x11 => 5 | 0x12 => 6 | 0x13 => 7 | _ => 8

def XCore.raise (x : XCore) (t : XTrap) : XCore :=
  let t' := match x.trap with
    | none => t
    | some o => if xRank t.code < xRank o.code || (t.code == o.code && t.slot < o.slot) then t else o
  { x with trap := some t', run := .draining }

end Sys2Proof.Machine
end

