-- ==== Sys2Proof/Machine/Walk.lean ====
section
/-! DEFINITION. Translation of global virtual addresses: the walk (R44), the caches (R47, R48), permissions (R43), where an
address leads, and the withdrawal of translations (R57). -/

namespace Sys2Proof.Machine

/-- Permission bits of a leaf (R42). -/
def pAR : Nat := 3
def pAW : Nat := 4
def pAX : Nat := 5
def pER : Nat := 6
def pEW : Nat := 7
def pEX : Nat := 8

/-- The answer of a walk: a leaf and its page size, a fault of R50, a wait (R44), or poison met in a table (R436). -/
inductive WalkRes where
  | leaf (e : Nat) (big : Bool) | fault (kind : Nat) | waits | poison (addr : Nat)
  deriving DecidableEq, Repr

/-- Physical ranges (R20, R21). -/
def isHost (pa : Nat) : Bool := 0x80000000000 ≤ pa && pa < 0xC0000000000
def State.isHbm (s : State) (pa : Nat) : Bool := pa < s.dev.top
def State.forbidden (s : State) (pa : Nat) : Bool := !(pa < s.dev.top && pa < s.dev.rsvBase) && !isHost pa

/-- The physical address a leaf gives a virtual address (R39, R42). -/
def leafPa (e : Nat) (big : Bool) (va : Nat) : Nat :=
  if big then bits e 43 25 * 2 ^ 25 + bits va 24 0 else bits e 43 16 * 65536 + bits va 15 0

/-- The chip a leaf names (R42). -/
def leafChip (e : Nat) : Nat := bits e 49 44

/-- A page is being flipped: one of this chip, or one of another chip from which a retry has told so, until the shoot-down of the flip comes
(R44, R62, R63). -/
def State.flippingAt (s : State) (chip page : Nat) : Bool :=
  if chip == s.dev.chip then s.pageSt page == .flipping else s.farFlips.contains (chip, page) && !s.fencedChip chip

/-- Another chip has refused an access with retry: its page is being flipped. -/
def State.farRetry (s : State) (chip pa : Nat) : State :=
  if chip == s.dev.chip || s.farFlips.contains (chip, pageOf pa) then s else { s with farFlips := s.farFlips ++ [(chip, pageOf pa)] }

/-- The checks of a leaf at level `lvl` (R44): its shape, permissions, target, and a flip in progress. R21 forbids targets to task contexts
only: CID 0 passes (log 89). -/
def State.leafCheck (s : State) (cid va lvl e : Nat) (need : List Nat) : WalkRes :=
  if 2 ≤ lvl then .fault 3
  else if bit e 2 != (lvl == 1) then .fault 3
  else if lvl == 1 && bits e 24 16 != 0 then .fault 3
  else if !need.all (bit e) then .fault 2
  else if leafChip e == s.dev.chip && cid != 0 && s.forbidden (leafPa e (lvl == 1) va) then .fault 4
  else if bit e 10 && s.flippingAt (leafChip e) (pageOf (leafPa e (lvl == 1) va)) then .waits
  else .leaf e (lvl == 1)

/-- The entry of level `lvl` in a node, after the checks of the node (R44). -/
inductive EntryRes where
  | entry (e : Nat) | stop (r : WalkRes)

def State.walkEntry (s : State) (va lvl node : Nat) : EntryRes :=
  if !(node < s.dev.top) then .stop (.fault 6)
  else
    match s.pageSt (pageOf node) with
    | .offline => .stop (.fault 5)
    | .copying _ | .flipping => .stop .waits
    | .inService =>
      let a := node + 8 * (va / 2 ^ (16 + 9 * lvl) % 512)
      if s.channelFailed a || poisoned 64 s.hbmPoison a 8 then .stop (.poison a) else .entry (s.hbm.readN a 8)

/-- The walk from level `lvl` in `node` down (R44), with the nodes it passed, for the walk cache. -/
def State.walkAt (s : State) (cid va : Nat) (need : List Nat) : Nat → Nat → List (Nat × Nat) → WalkRes × List (Nat × Nat)
  | lvl, node, seen =>
    match s.walkEntry va lvl node with
    | .stop r => (r, seen)
    | .entry e =>
      if !bit e 0 then (.fault 1, seen)
      else if bit e 1 then
        match lvl with
        | 0 => (.fault 3, seen)
        | k + 1 =>
          if bits e 49 44 != s.dev.chip then (.fault 6, seen)
          else s.walkAt cid va need k (bits e 43 12 * 4096) (seen ++ [(k, bits e 43 12 * 4096)])
      else (s.leafCheck cid va lvl e need, seen)

/-- The tag of a walk-cache entry: the address bits above those that level `lvl` indexes. -/
def walkTag (va lvl : Nat) : Nat := va / 2 ^ (16 + 9 * (lvl + 1))

/-- The deepest cached node for an address, at levels 0, 1, 2 (R47). -/
def State.cachedNode (s : State) (cid va : Nat) : List Nat → Option (Nat × Nat)
  | [] => none
  | l :: ls =>
    match s.walkCache.find? fun (c, k, t, _) => c == cid && k == l && t == walkTag va l with
    | some (_, _, _, n) => some (l, n)
    | none => s.cachedNode cid va ls

/-- A walk, from the walk cache's deepest node or from the root, and the walk cache after it. -/
def State.walk (s : State) (cid va : Nat) (need : List Nat) : WalkRes × State :=
  let (l, n) := match s.cachedNode cid va [0, 1, 2] with
    | some p => p
    | none => (3, s.ptroot cid)
  let (r, seen) := s.walkAt cid va need l n []
  let new := (seen.map fun (k, n) => (cid, k, walkTag va k, n)).filter fun e => !s.walkCache.contains e
  let wc := (s.walkCache ++ new)
  if l = 3 && s.descBad cid then (.poison (s.descAddr cid), s)
  else
  (r, match r with
      | .leaf _ _ => { s with walkCache := wc.drop (wc.length - 512) }
      | _ => s)

/-- A TLB entry covers an address. -/
def TlbEnt.covers (t : TlbEnt) (cid va : Nat) : Bool :=
  t.cid == cid && t.vpn == (if t.big then va / 2 ^ 25 else va / 2 ^ 16)

/-- A TLB with one more entry, the oldest dropped when it is full (log 10). -/
def tlbAdd (cap : Nat) (ts : List TlbEnt) (t : TlbEnt) : List TlbEnt :=
  if ts.contains t then ts else (ts ++ [t]).drop ((ts.length + 1) - cap)

/-- The translation cache that an agent looks into first (R47): that of the A-core, or a stream TLB: 0-7 of the copy channels, 8 of the gather
path, 9 of the refill path, 10 of the drain path, 11 of the X-stream fetcher. -/
inductive Via where
  | acore | stream (k : Nat)
  deriving DecidableEq, Repr

/-- The stream TLB of a command; copies and near-memory commands take the copy channels in turn (log 87). -/
def Cmd.via (k : Cmd) : Via :=
  .stream (match k.kind with
    | .gather => 8
    | .tfill => 9
    | .tdrain => 10
    | _ => k.id % 8)

/-- The entries of a cache, and a leaf put into it, the oldest leaving when it is full. -/
def State.tlbOf (s : State) (cl : Nat) : Via → List TlbEnt
  | .acore => (s.cl cl).a.tlb
  | .stream k => NMap.get [] (s.cl cl).streams k
def State.tlbPut (s : State) (cl : Nat) (v : Via) (t : TlbEnt) : State :=
  match v with
  | .acore => s.onA cl fun a => { a with tlb := tlbAdd 64 a.tlb t }
  | .stream k => s.onCl cl fun c => { c with streams := NMap.set [] c.streams k (tlbAdd 4 (NMap.get [] c.streams k) t) }

/-- Translation for an agent of cluster `cl`, which looks into its own cache, then into the last-level TLB and then walks; the caches are
filled with leaves that pass (R47, R48). -/
def State.translate (s : State) (cl cid va : Nat) (v : Via) (need : List Nat) : WalkRes × State :=
  let ok (t : TlbEnt) : Bool := t.covers cid va && need.all (bit t.leaf) && !bit t.leaf 10
  match (s.tlbOf cl v).find? ok with
  | some t => (.leaf t.leaf t.big, s)
  | none =>
    match s.llt.find? ok with
    | some t => (.leaf t.leaf t.big, s.tlbPut cl v t)
    | none =>
      let (r, s) := s.walk cid va need
      match r with
      | .leaf e big =>
        let t : TlbEnt := { cid := cid, vpn := if big then va / 2 ^ 25 else va / 2 ^ 16, big := big, leaf := e }
        let s := s.tlbPut cl v t
        (r, if bit e 9 && !bit e 10 then { s with llt := tlbAdd 8192 s.llt t } else s)
      | _ => (r, s)

/-- Where a translated access goes: its place and physical address, a fault, a wait, or poison in a table. -/
inductive Target where
  | at_ (p : Place) (pa : Nat) | fault (kind : Nat) | waits | poison (addr : Nat)
  deriving DecidableEq, Repr

/-- A leaf's target (R20, R42, R50). Firmware's leaf (CID 0) to an address that holds no storage goes to HBM as any other (log 89). -/
def State.targetOf (s : State) (r : WalkRes) (va : Nat) : Target :=
  match r with
  | .fault k => .fault k
  | .waits => .waits
  | .poison a => .poison a
  | .leaf e big =>
    let pa := leafPa e big va
    let c := leafChip e
    if c != s.dev.chip then (if s.fencedChip c then .fault 8 else .at_ (.remote c) pa)
    else if isHost pa then .at_ .host pa
    else .at_ .hbm pa

/-- Every cache without some translations, and the walk cache without the nodes of a context. -/
def State.keepTlbs (s : State) (keep : TlbEnt → Bool) (nodes : Nat → Bool) : State :=
  { s with
    llt := s.llt.filter keep, walkCache := s.walkCache.filter fun e => nodes e.1,
    clusters := NMap.mapVals Cluster.reset (fun _ c =>
      { c with a := { c.a with tlb := c.a.tlb.filter keep }, streams := NMap.mapVals [] (fun _ ts => ts.filter keep) c.streams }) s.clusters }

/-- The translations of one address dropped (R48; R63, step 1). -/
def State.dropVa (s : State) (cid va : Nat) : State := s.keepTlbs (fun t => !t.covers cid va) (· != cid)

/-- Translation of one access of cluster `cl`. No cache keeps a translation that faults (R48). -/
def State.resolve (s : State) (cl cid va : Nat) (v : Via) (need : List Nat) : Target × State :=
  let (r, t) := s.translate cl cid va v need
  match t.targetOf r va with
  | .fault k => (.fault k, t.dropVa cid va)
  | x => (x, t)

/-! ### Fetches under way -/

/-- Fetches under way whose lines are no longer wanted: their answers are discarded (R170, R171). -/
def State.dropFetches (s : State) (hit : ReqBy → Bool) : State := s.dropReqsOf hit

/-- A fetch of a core of cluster `cl`. -/
def ReqBy.fetchOf (cl : Nat) (x : Bool) : ReqBy → Bool
  | .fetch c _ y _ => c == cl && y == x
  | _ => false

/-! ### Shoot-downs on one chip (R57) -/

/-- Whether a cached translation lies in a shoot-down's scope: every leaf of either size whose page meets the range. -/
def TlbEnt.hit (t : TlbEnt) : ShootScope → Bool
  | .all => true
  | .space c => t.cid == c
  | .range c va len =>
    let size := if t.big then 2 ^ 25 else 2 ^ 16
    t.cid == c && t.vpn * size < va + len && va < (t.vpn + 1) * size

/-- An access lies in a shoot-down's scope. -/
def scopeHits (cid va n : Nat) : ShootScope → Bool
  | .all => true
  | .space c => cid == c
  | .range c b len => cid == c && b / 65536 * 65536 < va + n && va / 65536 * 65536 < b + len

/-- Step 1 of R57. A CID with V = 0 matches nothing (R387). What other chips have told of flips is forgotten with it. -/
def State.dropTranslations (s : State) (sc : ShootScope) : State :=
  let live := match sc with
    | .range c _ _ | .space c => s.ctxValid c
    | .all => true
  let keep (t : TlbEnt) : Bool := !(live && t.hit sc)
  { s.keepTlbs keep fun _ => false with farFlips := [] }

/-- A request that was sent under a translation. -/
def ReqBy.translated : ReqBy → Bool
  | .acc _ _ | .cmd _ _ _ | .fetch _ _ _ _ => true
  | .decant _ _ _ | .mig _ | .peer _ _ | .tx _ _ | .join _ => false

/-- Step 2 of R57 has ended: no access translated before message number `num`, under a translation that has been dropped, is still on its
way; neither is any request sent under a translation by then. One that has been refused is no longer (R57). -/
def State.quiet (s : State) (sc : ShootScope) (num : Nat) : Bool :=
  let past (l : Acc) : Bool := l.place == .sp || l.redo || decide (num < l.xl) || !scopeHits l.cid l.va l.size sc
  s.clusters.all (fun (_, c) => c.a.loads.all past && c.a.stores.all past)
    && s.reqs.all (fun r => !r.owner.translated || r.held || decide (num < r.num))
    && s.host.reqs.all fun r => !r.owner.translated || decide (num < r.id)

end Sys2Proof.Machine
end

