-- ==== Sys2Proof/Machine/Access.lean ====
section
/-! DEFINITION. What A-core accesses and engine commands share: locators and their checks (R15-R19, R37, R284, R287), fence
windows (R149), acceptance (R284-R286), the order in which accesses perform (R141-R150), bank locks (R70), the L1 (R147)
and completion words (R158-R160). -/

namespace Sys2Proof.Machine

/-! ### Failing checks -/

/-- A check that failed: the trap's code, detail and value (R413). -/
structure Flt where
  code : Nat
  detail : Nat
  tval : Nat
  deriving DecidableEq, Repr

/-- The first failing check of a list (R284). -/
def firstFlt : List (Option Flt) → Option Flt
  | [] => none
  | some e :: _ => some e
  | none :: es => firstFlt es

/-- The check `kept` with an address-space fault of a kind (R414). -/
def orSpace (kept : Bool) (kind tval : Nat) : Option Flt := if kept then none else some { code := 3, detail := kind, tval := tval }

/-- The check `kept` with the alignment fault. -/
def orAlign (kept : Bool) (tval : Nat) : Option Flt := if kept then none else some { code := 4, detail := 0, tval := tval }

/-- The trap of a failed check at the pc of the focused A-core. -/
def State.trapFlt (s : State) (e : Flt) : State := s.trapHere e.code e.detail (BitVec.ofNat 64 e.tval)

/-! ### Locators (R18, R19) -/

/-- A locator read by its SPACE: `none` where R18 calls it illegal or a must-be-zero bit is set. A SPACE 00 locator with any of
bits [61:52] set is malformed (log 14). -/
def locParse (v : Nat) : Option Ep :=
  match bits v 63 62 with
  | 0 => if bits v 61 52 == 0 then some (.va (bits v 51 0)) else none
  | 1 => if bits v 61 30 == 0 then some (.sp (bits v 29 22) (bits v 21 0)) else none
  | 2 =>
    if bits v 61 25 != 0 then none
    else if bit v 24 then (if bits v 23 18 == 0 then some (.tw none (bits v 17 0)) else none)
    else some (.tw (some (bits v 23 18)) (bits v 17 0))
  | _ => none

/-- The endpoint of a locator on cluster `cl`, CLU 255 resolved to the issuer. -/
def locEp (cl v : Nat) : Ep :=
  match locParse v with
  | some (.sp c a) => .sp (if c = 255 then cl else c) a
  | some e => e
  | none => .none

/-- Which spaces an entry accepts: SPACE 00, 01 and 10. -/
def spaceIn (g p t : Bool) : Ep → Bool
  | .va _ => g
  | .sp _ _ => p
  | .tw _ _ => t
  | .none => false

/-- The malformed-locator check (R19), with the spaces the entry accepts. -/
def locForm (v : Nat) (ok : Ep → Bool) : Option Flt :=
  orSpace (match locParse v with
    | some e => ok e
    | none => false) kMalformed v

/-- The cluster-scope check (R19). -/
def State.locScope (s : State) (cl v : Nat) : Option Flt :=
  match locParse v with
  | some (.sp c _) =>
    orSpace (c == 255 || c == cl || (c < 192 && quadOf c == quadOf cl && s.inService c && s.inPartition (s.runCid cl) c)) kScope v
  | _ => none

/-- The endpoint lies in global memory. -/
def Ep.global : Ep → Bool
  | .va _ => true
  | _ => false

/-- Bytes `lo` to `hi` of an endpoint, counted from its base. -/
structure Ext where
  ep : Ep
  lo : Int
  hi : Int
  deriving DecidableEq, Repr

/-- `n` bytes from the base. -/
def Ext.of (ep : Ep) (n : Nat) : Ext := { ep := ep, lo := 0, hi := (n : Int) - 1 }

/-- The extent check (R19). -/
def Ext.check (e : Ext) (tval : Nat) : Option Flt :=
  match e.ep with
  | .va a => orSpace (decide (0 ≤ a + e.lo) && decide (a + e.hi < 2 ^ 52)) kNonCanonical tval
  | .sp _ a => orSpace (decide (0 ≤ a + e.lo) && decide (a + e.hi ≤ 0x2FFFFF)) kSpRange tval
  | .tw _ a => orSpace (decide (0 ≤ a + e.lo) && decide (a + e.hi ≤ 0x3FFFF)) kTowerRange tval
  | .none => none

/-- The buffer-ownership check of an extent for an agent of cluster `cl` (R74). -/
def State.extOwner (s : State) (cl : Nat) (e : Ext) (tval : Nat) : Option Flt :=
  match e.ep with
  | .sp c a => orSpace (s.owns cl c (a + e.lo).toNat (e.hi + 1 - e.lo).toNat) kOwner tval
  | _ => none

/-- The completion operand's value checks, extent, alignment and ownership (R287): the value 0 names no word. -/
def State.wordForm (_ : State) (v : Nat) : Option Flt := if v = 0 then none else locForm v (spaceIn false true false)
def State.wordScope (s : State) (cl v : Nat) : Option Flt := if v = 0 then none else s.locScope cl v
def State.wordExt (_ : State) (cl v : Nat) : Option Flt := if v = 0 then none else (Ext.of (locEp cl v) 8).check v
def State.wordAlign (_ : State) (cl v : Nat) : Option Flt :=
  match locEp cl v with
  | .sp _ a => if v = 0 then none else orAlign (a % 8 == 0) a
  | _ => none
def State.wordOwner (s : State) (cl v : Nat) : Option Flt := if v = 0 then none else s.extOwner cl (Ext.of (locEp cl v) 8) v

/-- The completion word an operand names: cluster and scratchpad address. -/
def wordOf (cl v : Nat) : Option (Nat × Nat) :=
  if v = 0 then none
  else match locEp cl v with
    | .sp c a => some (c, a)
    | _ => none

/-! ### Handles and templates (R37) -/

/-- The 512 bits of layout record `h`, and of copy template `t`, of a context. -/
def State.record (s : State) (cid h : Nat) : Nat := s.hbm.readN (s.htab cid + 64 * h) 64
def State.template (s : State) (cid t : Nat) : Nat := s.hbm.readN (s.ttab cid + 64 * t) 64

def State.handleCheck (s : State) (cid h : Nat) : Option Flt :=
  let r := s.record cid h
  orSpace (h != 0 && decide (h < s.hcount cid) && bit r 12 && bits r 11 0 == cid) kHandle h

def State.templateCheck (s : State) (cid t : Nat) : Option Flt :=
  let r := s.template cid t
  orSpace (decide (t < s.tcount cid) && bit r 12 && bits r 11 0 == cid) kTemplate t

/-- A use of a table entry at `a` by an instruction whose operands `rs` are ready: the A-core reads it in accepting, and poison there is
consumed as by a load (R37, R436, log 95). -/
def State.entryUse (s : State) (rs : List (BitVec 6)) (inTable : Bool) (a : Nat) (go : Out) : Out :=
  if s.ready rs && inTable && s.entryBad a then .next (s.corePoison s.focus (.hbm (a / 64)) a) else go
def State.handleUse (s : State) (rs : List (BitVec 6)) (cid h : Nat) (go : Out) : Out :=
  s.entryUse rs (h != 0 && decide (h < s.hcount cid)) (s.htab cid + 64 * h) go
def State.templateUse (s : State) (rs : List (BitVec 6)) (cid t : Nat) (go : Out) : Out :=
  s.entryUse rs (decide (t < s.tcount cid)) (s.ttab cid + 64 * t) go

/-- Fields of a layout record (R30): the rank (RANKM1 above 3 taken mod 4: log 97), an extent (1 at or above the rank) and a stride (0 there). -/
def recRank (r : Nat) : Nat := bits r 15 13 % 4 + 1
def recFmt (r : Nat) : Nat := bits r 23 16
def recBase (r : Nat) : Nat := bits r 115 64
def recExt (r d : Nat) : Nat := if d < recRank r then bits r (159 + 32 * d) (128 + 32 * d) else 1
def recStr (r d : Nat) : Int := if d < recRank r then sext 48 (bits r (303 + 64 * d) (256 + 64 * d)) else 0

/-- The element size of a FMT code in bits, 0 for plane blocks and illegal codes (R31). -/
def fmtBits (c : Nat) : Nat :=
  if c < 0x0C then 8 * 2 ^ (c % 4)
  else match c with
    | 0x10 => 32 | 0x11 => 16 | 0x12 => 16 | 0x13 => 8 | 0x14 => 8 | 0x15 => 4 | 0x16 => 8
    | _ => 0

/-- Whether a FMT code is legal (R31), and whether it names plane blocks. -/
def fmtPlanes (c : Nat) : Bool := 0x20 ≤ c && c ≤ 0x2F
def fmtLegal (c : Nat) : Bool := fmtBits c != 0 || fmtPlanes c

/-- The bytes of a row of dimension 0 of a packed format (R32). -/
def packedRow (r : Nat) : Nat :=
  if fmtPlanes (recFmt r) then 32 * cdiv (recExt r 0 * (recFmt r - 0x1F + 2)) 256 else recExt r 0 / 2

/-- Lowest and highest byte offset from BASE of a record's index box (R30, R32). DESIGN CHOICE: of a packed row, whose elements have no addresses of
their own, every byte counts, the padding of a row of plane blocks among them (R33; log 110). -/
def recBox (r : Nat) : Int × Int :=
  let packed := fmtPlanes (recFmt r) || recFmt r == 0x15
  let c (d : Nat) : Int := (recExt r d - 1 : Nat) * recStr r d
  let lo0 : Int := if packed then 0 else min 0 (c 0)
  let hi0 : Int := if packed then (packedRow r : Int) - 1 else max 0 (c 0) + (fmtBits (recFmt r) / 8 : Nat) - 1
  (lo0 + min 0 (c 1) + min 0 (c 2) + min 0 (c 3), hi0 + max 0 (c 1) + max 0 (c 2) + max 0 (c 3))

/-- Fields of a copy template (R34). -/
def tplDims (t : Nat) : Nat := bits t 14 13 + 1
def tplSize (t : Nat) : Nat := 2 ^ bits t 18 16
def tplExt (t d : Nat) : Nat := if d < tplDims t then bits t (79 + 16 * d) (64 + 16 * d) else 1
def tplSrc (t d : Nat) : Int := if d < tplDims t then sext 32 (bits t (159 + 32 * d) (128 + 32 * d)) else 0
def tplDst (t d : Nat) : Int := if d < tplDims t then sext 32 (bits t (287 + 32 * d) (256 + 32 * d)) else 0
def tplCount (t : Nat) : Nat := tplExt t 0 * tplExt t 1 * tplExt t 2 * tplExt t 3

/-- The byte offset of element `e` of a template, in linear index order with dimension 0 fastest (R34). -/
def tplOff (t : Nat) (str : Nat → Nat → Int) (e : Nat) : Int :=
  let e0 := tplExt t 0
  let e1 := tplExt t 1
  let e2 := tplExt t 2
  (e % e0 : Nat) * str t 0 + (e / e0 % e1 : Nat) * str t 1 + (e / (e0 * e1) % e2 : Nat) * str t 2
    + (e / (e0 * e1 * e2) : Nat) * str t 3

/-- The extent of a template from a base: its corners (R19, R35). -/
def tplBox (t : Nat) (str : Nat → Nat → Int) (ep : Ep) : Ext :=
  let c (d : Nat) : Int := (tplExt t d - 1 : Nat) * str t d
  { ep := ep, lo := min 0 (c 0) + min 0 (c 1) + min 0 (c 2) + min 0 (c 3),
    hi := max 0 (c 0) + max 0 (c 1) + max 0 (c 2) + max 0 (c 3) + (tplSize t : Nat) - 1 }

/-! ### Fence windows (R149) -/

/-- A window meets bytes `lo` to `hi` of global space or of a cluster's scratchpad. -/
def Window.meets (w : Window) (sp : Bool) (cl : Nat) (lo hi : Int) : Bool :=
  w.sp == sp && (!sp || w.cl == cl) && decide (lo < w.base + w.len) && decide ((w.base : Int) ≤ hi)

/-- A window meets a declared extent; tower extents meet none. -/
def Window.meetsExt (w : Window) (e : Ext) : Bool :=
  match e.ep with
  | .va a => w.meets false 0 (a + e.lo) (a + e.hi)
  | .sp c a => w.meets true c (a + e.lo) (a + e.hi)
  | _ => false

/-- The mask of windows that any of the extents meets. -/
def ACore.winMask (a : ACore) (es : List Ext) : Nat :=
  a.wins.foldl (fun m (i, w) =>
    match w with
    | some w => if es.any w.meetsExt then m + 2 ^ i else m
    | none => m) 0

/-- The bytes that a command performs: its count, and those of a sequence stamp, which is no part of the count (R302). -/
def Cmd.work (k : Cmd) : Nat := k.count + if k.kind == .xcopy && k.stamp.isSome then 8 else 0

/-- A command has performed: nothing of it is left to do. -/
def Cmd.hasPerformed (k : Cmd) : Bool := k.kind != .msend && decide (k.work ≤ k.performed)

/-- Whether a command is of the task on a cluster, whichever cluster accepted it (R151). -/
def Cmd.ofTask (k : Cmd) (c : Cluster) : Bool := k.mode == .t && c.ctl.occ != .free && k.node == c.ctl.node && k.task == c.ctl.task

/-- The engine commands of the task on cluster `cl`; those that it left behind on another cluster when it was suspended come before everything
it issues now (R151). -/
def State.taskCmds (s : State) (cl : Nat) : List Cmd :=
  let c := s.cl cl
  (c.a.cmds.filter fun k => k.ofTask c)
    ++ s.clusters.flatMap fun (p, d) => if p = s.phys cl then [] else (d.a.cmds.filter fun k => k.ofTask c).map fun k => { k with seq := 0 }

/-- The engine commands that the core of cluster `cl` has accepted for what it runs: those of its firmware and those of its task, in either
mode (R145, R148, R149). -/
def State.runCmds (s : State) (cl : Nat) : List Cmd := ((s.cl cl).a.cmds.filter fun k => k.mode == .s) ++ s.taskCmds cl

/-- The slots of a store queue that are taken: its tiles, and those that SQDs have still to read out (R83). -/
def State.sqOcc (s : State) (cl q : Nat) : Nat :=
  (NMap.get [] (s.cl cl).x.sq q).length + ((s.runCmds cl).filter fun k => k.kind == .sqd && k.aux == q).length

/-- A store that the task now on a cluster left waiting for a frame when it was suspended (R127). -/
def Acc.leftBy (l : Acc) (c : Cluster) : Bool := c.ctl.occ != .free && l.late == some (c.ctl.node, c.ctl.task) && !l.orphan

/-- The A-core of cluster `cl` with the accesses that order what it runs: its own, and the stores that its task left waiting for a frame
when it was suspended, which come first (R127); stores left by other tasks are none of them. -/
def State.runA (s : State) (cl : Nat) : ACore :=
  let c := s.cl cl
  let far := s.clusters.flatMap fun (p, d) => if p = s.phys cl then [] else (d.a.stores.filter (·.leftBy c)).map fun l => { l with seq := 0 }
  { c.a with stores := far ++ c.a.stores.filter fun l => l.late.isNone || l.leftBy c }

/-- The COUNT of window `i` (R149, R151): loads whose value is not fixed, stores and atomics not performed, and commands not
complete, whose masks name the window. R286 keeps it below 65,535. -/
def State.winCount (s : State) (cl i : Nat) : Nat :=
  let c := s.cl cl
  (c.a.loads.filter fun l => l.val.isNone && bit l.wins i).length
    + (c.a.stores.filter fun l => l.val.isNone && bit l.wins i).length
    + ((s.runCmds cl).filter fun k => bit k.wins i).length

/-! ### Waiting (R285) -/

/-- The A-core waits at the instruction at its pc, which is to write register `dst`; the clk in which it began is kept while it waits on. -/
def State.waitAt (s : State) (k : WaitKind) (f : AF) (dst : BitVec 6 := 0) : State :=
  s.onA s.focus fun a =>
    { a with wait := some { kind := k, f := f, dst := dst.toNat,
                            since := match a.wait with
                              | some w => w.since
                              | none => s.clk,
                            id := a.seq,
                            ahead := match a.wait with
                              | some w => w.ahead
                              | none => none } }

/-- Registers written one after another. -/
def setRegs (m : NMap W64) (gs : List (Nat × W64)) : NMap W64 := gs.foldl (fun m p => NMap.set 0 m p.1 p.2) m

/-- An instruction that waited in `s` has been done in `t`: the instructions that have issued past it take effect, and the A-core goes on
after them (R285). One that is still waiting, or has trapped, leaves them without effect. -/
def State.caughtUp (s t : State) : State :=
  match s.a.wait.bind fun w => w.ahead with
  | some h =>
    if t.a.wait.isNone && t.a.pc == s.a.pc + 8 && t.a.mode == s.a.mode && t.a.run == .run then
      t.onCl t.focus fun c => { c with a := { c.a with pc := h.pc, g := setRegs c.a.g h.gs }, vigil := { c.vigil with g := setRegs c.vigil.g h.vs } }
    else t
  | none => t

/-- The end of a wait lets what has issued past the instruction take effect (R285). -/
def State.waited (s : State) (o : Out) : Out :=
  match o with
  | .next t => .next (s.caughtUp t)
  | o => o

/-! ### Scopes and classes -/

def scopeOf : Nat → Scope
  | 0 => .cl | 1 => .qd | 2 => .dv | _ => .sy

/-- Scopes by what they cover (R142): own cluster, quad, local HBM, everything. -/
def scopeRank : Scope → Nat
  | .cl => 0 | .qd => 1 | .dv => 2 | .sy => 3

def scopeWide (c : Scope) : Bool := c == .dv || c == .sy

/-- A scratchpad place: 2^22 times the cluster plus the address. -/
def spPlace (cl a : Nat) : Nat := cl * 4194304 + a

/-- The least rank of a scope that covers the place of an access of cluster `cl`. -/
def Acc.rank (l : Acc) (cl : Nat) : Nat :=
  match l.place with
  | .sp => if l.pa / 4194304 = cl then 0 else 1
  | .hbm => 2
  | .host | .remote _ => 3

/-- An outstanding access that has not performed: its value is not fixed. -/
def Acc.pending (l : Acc) : Bool := l.val.isNone

def ACore.accs (a : ACore) : List Acc := a.loads ++ a.stores

/-- Every access of the core before number `q` in a class of mask `m` to a location in scope `sc` has performed, and so has every such access of
a command: `ks` are the commands that have still to access a location in the scope (R142, R145, R148). -/
def ACore.drained (a : ACore) (ks : List Cmd) (cl q m : Nat) (sc : Scope) : Bool :=
  a.accs.all (fun l => !(l.pending && decide (l.seq < q) && bit m l.cls && decide (l.rank cl ≤ scopeRank sc)))
    && ks.all fun k => !(decide (k.seq < q) && bit m k.cls)

/-- Two accesses share a byte. -/
def Acc.overlaps (x y : Acc) : Bool :=
  x.place == y.place && decide (x.pa < y.pa + y.size) && decide (y.pa < x.pa + x.size)

/-- A store of the core before number `q`, in scope `sc`, that the core has read has not performed: a release of any class covers it (R146). -/
def ACore.seenPending (a : ACore) (cl q : Nat) (sc : Scope) : Bool :=
  a.stores.any fun l => l.seen && l.pending && decide (l.seq < q) && decide (l.rank cl ≤ scopeRank sc)

/-- What holds an access back (R141, R143-R145, R153): an earlier acquire, an earlier access of its class, an earlier access to
one of its bytes, and for a release its covered accesses, among them the core's own stores that it has read (R146). `fwd` leaves out earlier
overlapping stores that are forwarded; `ks` are as for `drained`. -/
def ACore.heldBack (a : ACore) (ks : List Cmd) (cl : Nat) (x : Acc) (fwd : Bool) : Bool :=
  a.accs.any (fun l => l.pending && decide (l.seq < x.seq)
      && (l.aq || (x.cls != 0 && l.cls == x.cls) || (x.overlaps l && !(fwd && l.store && l.op.isNone))))
    || (x.rl && (!a.drained ks cl x.seq (2 ^ x.cls) x.scope || a.seenPending cl x.seq x.scope))

/-- The youngest earlier store of the core that shares a byte with a load and has not performed. -/
def ACore.forwarder (a : ACore) (x : Acc) : Option Acc :=
  (a.stores.filter fun l => l.pending && decide (l.seq < x.seq) && x.overlaps l).getLast?

/-! ### Bank locks (R66, R70) -/

/-- The banks that `n` bytes from `a` touch. -/
def banksOf (a n : Nat) : List Nat := (List.range (Nat.min 384 (cdiv (a + n) 32 - a / 32))).map fun i => (a / 32 + i) % 384

/-- Banks a piece writes and banks it reads: cluster and bank. -/
structure Banks where
  wr : List (Nat × Nat)
  rd : List (Nat × Nat)
  deriving DecidableEq, Repr

/-- Two transfers exclude each other: a bank one writes is touched by the other. -/
def Banks.clash (x y : Banks) : Bool :=
  x.wr.any (fun b => y.wr.contains b || y.rd.contains b) || x.rd.any fun b => y.wr.contains b

/-! ### The L1 (R147) -/

def lineOf (pa : Nat) : Nat := pa / 64 * 64

/-- The line that holds a physical address, filled through the virtual address of the access: through another it is filled anew. -/
def ACore.l1Line (a : ACore) (pa va : Nat) : Option CLine := a.l1.find? fun l => l.addr == lineOf pa && l.va == lineOf va

/-- The L1 without the lines that bytes [pa, pa + n) meet. -/
def ACore.l1Drop (a : ACore) (pa n : Nat) : ACore :=
  { a with l1 := a.l1.filter fun l => !(decide (l.addr < pa + n) && decide (pa < l.addr + 64)) }

/-- Bytes put into a line's data. -/
def patch (data : List Byte) (off : Nat) (bs : List Byte) : List Byte :=
  data.take off ++ bs ++ data.drop (off + bs.length)

/-- A store updates a line that is present. -/
def ACore.l1Update (a : ACore) (pa : Nat) (bs : List Byte) : ACore :=
  { a with l1 := a.l1.map fun l => if l.addr == lineOf pa then { l with data := patch l.data (pa % 64) bs } else l }

/-- An acquire is satisfied: at device or system scope the L1 is invalidated (R144). -/
def State.acquired (s : State) (cl : Nat) (sc : Scope) : State := if scopeWide sc then s.onA cl fun a => { a with l1 := [] } else s

/-- The lines a write of an engine of cluster `cl` covers leave that cluster's L1 (R147). -/
def State.engineDrop (s : State) (cl pa n : Nat) : State := s.onA cl fun a => a.l1Drop pa n

/-! ### Completion words (R158-R160) -/

/-- An arrival of `n` bytes with an error code on a completion word (R160). -/
def arrive (w n err : Nat) : Nat :=
  let target := bits w 41 21
  let sum := bits w 20 0 + n
  let e := if bits w 47 42 = 0 then err % 64 else bits w 47 42
  if target = 0 then bits w 63 48 * 2 ^ 48 + e * 2 ^ 42 + Nat.min sum (2 ^ 21 - 1)
  else (bits w 63 48 + sum / target) % 2 ^ 16 * 2 ^ 48 + e * 2 ^ 42 + target * 2 ^ 21 + sum % target

/-- The word after a BWSET: TARGET set, ARRIVED and ERR 0, GEN kept (R160). -/
def wordSet (w target : Nat) : Nat := bits w 63 48 * 2 ^ 48 + target % 2 ^ 21 * 2 ^ 21

/-- An arrival at the word a command or record names, if it names one. -/
def State.arriveAt (s : State) (w : Option (Nat × Nat)) (n err : Nat) : State :=
  match w with
  | none => s
  | some w => s.onWord w fun v => arrive v n err

/-! ### Acceptance (R284-R286) -/

/-- The parts of an engine command that its instruction gives; the rest starts empty. -/
def State.newCmd (s : State) (f : AF) (kind : CmdKind) (cls scope : Nat) (word : Option (Nat × Nat)) (src dst : Ep) (count : Nat) :
    Cmd :=
  { id := s.a.nextId, cid := s.runCid s.focus, mode := s.a.mode, node := s.cur.ctl.node, task := s.cur.ctl.task, seq := s.a.seq,
    kind := kind, cls := cls, pcl := f.pcl.toNat, scope := scopeOf scope, word := word, src := src, dst := dst, count := count,
    aux := 0, bcast := false, layout := 0, tpl := none, pat := 0, stamp := none, started := false, lock := 0, ask := 0,
    piece := 0, gran := [], got := [], done := [], buf := [], performed := 0, counted := 0,
    wins := 0, vig := true, pc := s.a.pc }

/-- Whether an engine command finds no room (R286). -/
def State.cmdFull (s : State) : Bool := decide (32 ≤ s.a.cmds.length)

/-! ### Translation of an A-core access -/

/-- Firmware, or a walk of its own, consumes poison in the reserved region (R436, R448): its record of rung 7, and a device reset is requested. -/
def State.firmPoison (s : State) (cl addr mem : Nat) : State :=
  (s.report (srcCl cl 0) 7 0x04 0 4 0 addr mem 0).report srcSamovar 7 0x0C 0 4 0 addr mem 0

/-- Poison in a page-table node: the context that owns the table is aborted, or outside any context a device reset is requested
(R436). -/
def State.walkPoison (s : State) (cl cid addr : Nat) : State :=
  if cid = 0 then s.firmPoison cl addr 0
  else (s.report (srcCl cl 0) 6 4 cid 4 0 addr 0 0).abortContext cl cid 4 0 addr

/-! ### Scalar accesses (R290-R293) -/

/-- The sign-extended offset of formats M and AT (R208). -/
def offOf (f : AF) : W64 := (f.imm.extractLsb' 0 23).signExtend 64

/-- The effective address (R291). -/
def State.ea (s : State) (f : AF) : Nat := (s.g f.sa + offOf f).toNat
def accSize (f : AF) : Nat := 2 ^ bits f.imm.toNat 26 25
def isSp (f : AF) : Bool := bit f.imm.toNat 28
def accScope (f : AF) : Scope := scopeOf (bits f.imm.toNat 24 23)

/-- CheckSpace, alignment and ownership of a scalar access (R291, R284). -/
def State.scalarErr (s : State) (f : AF) : Option Flt :=
  let ea := s.ea f
  let n := accSize f
  if isSp f then
    firstFlt [orSpace (decide (ea + n ≤ 0x300000)) kSpRange ea, orAlign (ea % n == 0) ea,
      orSpace (s.owns s.focus s.focus ea n) kOwner ea]
  else firstFlt [orSpace (decide (ea + n ≤ 2 ^ 52)) kNonCanonical ea, orAlign (ea % n == 0) ea]

/-- What a scalar instruction does: an atomic, a plain store or a load, and whether it is an acquire or a release. -/
structure ScalarKind where
  op : Option AmoOp := none
  store : Bool := false
  aq : Bool := false
  rl : Bool := false

/-- Whether the access goes to the scalar store queue (R286). -/
def ScalarKind.queued (k : ScalarKind) : Bool := k.store || k.op.isSome

/-- The permissions an A-core access needs (R43), and its access code (R55). -/
def ScalarKind.perms (k : ScalarKind) : List Nat :=
  if k.op.isSome then [pAR, pAW] else if k.store then [pAW] else [pAR]
def ScalarKind.acc (k : ScalarKind) : Nat := if k.queued then 1 else 0

/-- The register that a scalar instruction writes: none for a plain store. -/
def ScalarKind.dest (k : ScalarKind) (f : AF) : BitVec 6 := if k.op.isNone && k.store then 0 else f.d

/-- Whether the queue for the access is full (R286). -/
def State.scalarFull (s : State) (k : ScalarKind) : Bool :=
  if k.queued then decide (16 ≤ (s.a.stores.filter (·.late.isNone)).length) else decide (16 ≤ s.a.loads.length)

/-- The access as it is accepted. -/
def State.newAcc (s : State) (f : AF) (k : ScalarKind) (p : Place) (pa : Nat) : Acc :=
  let ea := s.ea f
  { seq := s.a.seq, xl := s.nextMsg, cid := s.runCid s.focus, dst := f.d.toNat, op := k.op, store := k.store, place := p, va := ea, pa := pa,
    size := accSize f, sx := bit f.imm.toNat 27, data := (s.g f.sb).toNat % 256 ^ accSize f, exp := (s.g f.d).toNat % 256 ^ accSize f,
    cls := f.ocl.toNat, scope := accScope f, aq := k.aq, rl := k.rl, pcl := f.pcl.toNat,
    wins := s.a.winMask [Ext.of (if p = .sp then .sp s.focus ea else .va ea) (accSize f)], tag := none, word := none, val := none, late := none,
    redo := false, orphan := false, left := false, seen := false, vig := true, pc := s.a.pc }

/-- The access accepted (R284): it is outstanding, and the A-core goes on. -/
def State.takeAcc (s : State) (k : ScalarKind) (x : Acc) : State :=
  (s.onA s.focus fun a =>
    if k.queued then { a with stores := a.stores ++ [x], seq := a.seq + 1 }
    else { a with loads := a.loads ++ [x], seq := a.seq + 1 }).advance

/-- The host window serves AMO.add, AMO.swap and CAS only (R293). -/
def hostOp : Option AmoOp → Bool
  | none | some .add | some .swap | some .cas => true
  | _ => false

/-- An instruction of firmware that accesses global memory issues once every earlier one has completed, so that a fault of it is precise (R52,
R415; log 82). -/
def State.firmReady (s : State) : Bool := s.a.mode == .t || s.a.resultsDone

/-- A scalar instruction (R291, R293): its registers hold their newest results, its checks pass, it finds room, and a global
access translates. -/
def State.scalar (s : State) (f : AF) (k : ScalarKind) : Out :=
  if !s.ready [f.sa, f.sb, f.d] then .next s
  else match s.scalarErr f with
    | some e => .next (s.trapFlt e)
    | none =>
      if !isSp f && !s.firmReady then .next s
      else if s.scalarFull k then .next (s.waitAt .room f (k.dest f))
      else if isSp f then .next (s.takeAcc k (s.newAcc f k .sp (spPlace s.focus (s.ea f))))
      else match s.resolve s.focus (s.runCid s.focus) (s.ea f) .acore k.perms with
        | (.fault e, t) => .next (t.translationFault s.focus e k.acc 1 (s.ea f))
        | (.waits, t) => .next (t.waitAt .walk f)
        | (.poison a, t) => .next (t.walkPoison s.focus (s.runCid s.focus) a)
        | (.at_ p pa, t) =>
          if p == Place.host && !hostOp k.op then .next (t.trapFlt { code := 3, detail := kHostAtomic, tval := s.ea f })
          else .next (t.takeAcc k (t.newAcc f k p pa))

/-! ### Atomic operations (R293) -/

/-- The new value of an atomic on `n` bytes, or none where CAS writes nothing. -/
def amoNew (op : AmoOp) (n old x exp : Nat) : Option Nat :=
  let w := 8 * n
  match op with
  | .swap => some x
  | .add => some ((old + x) % 2 ^ w)
  | .and => some (old &&& x)
  | .or => some (old ||| x)
  | .xor => some (old ^^^ x)
  | .min => some (if sext w old ≤ sext w x then old else x)
  | .max => some (if sext w old ≤ sext w x then x else old)
  | .minn => some (Nat.min old x)
  | .maxn => some (Nat.max old x)
  | .cas => if old = exp then some x else none

/-- The value a load writes to its register (R291). -/
def loadValue (sx : Bool) (n v : Nat) : W64 := if sx then BitVec.ofInt 64 (sext (8 * n) v) else BitVec.ofNat 64 v

end Sys2Proof.Machine
end

