-- ==== Sys2Proof/Machine/Forms.lean ====
section
/-! DEFINITION. The forms of the A-core instructions (R207-R210, R283-R319, R372-R389) and of the X syllables (R212-R221):
which opcode a row has, which of its fields say that it is this row, and which of the details of R226 its fields raise. -/

namespace Sys2Proof.Machine

/-- The causes of R226, in the order of their detail codes. -/
inductive Reject where
  | opcode | pclIllegal | pclRefused | reserved | index | kind | type | slot | mode | guard | record | target | range
  deriving DecidableEq, Repr

/-- The detail code of a cause (R226). -/
def Reject.code : Reject → Nat
  | .opcode => 1 | .pclIllegal => 2 | .pclRefused => 3 | .reserved => 4 | .index => 5 | .kind => 6 | .type => 7
  | .slot => 8 | .mode => 9 | .guard => 10 | .record => 11 | .target => 12 | .range => 13

/-- A cause, when its rule is not kept. -/
def must (kept : Bool) (r : Reject) : List Reject := if kept then [] else [r]

/-- The lowest detail of a list of causes (R226). -/
def lowest : List Reject → Option Reject
  | [] => none
  | r :: rs =>
    match lowest rs with
    | none => some r
    | some q => some (if r.code ≤ q.code then r else q)

/-! ### A-core forms -/

/-- The sub-formats of R207 and the entries of formats E and F. -/
inductive AForm where
  | r | sh | shi | u | s3 | i | l | bf | bfv | jmp | jal | ji | b | lp | ld | ldaq | st | strl | at
  | fence | fencew | wset | wsetHandle | wclr | icinv | n | tldq | sqd | dOnly | xcopy | xcopyTpl | tfill | tdrain | gathert
  | nmred | nmcas | nmsax | bwset | bwarrive | waitgen | semv | semtry | bgive | bgiveNone | btake | bquery | msend
  | snap | snapq | snapqT | txbegin | txslot | grow | tidx | refdefer | csrrd | csrwr | trap | tlbinv | shoot
  | remapTower | remapTable | pause | errpop
  deriving DecidableEq, Repr

/-- Whether the opcode admits PCL 01 and 10 (R210). -/
def AForm.classed : AForm → Bool
  | .st | .strl | .at | .tldq | .sqd | .xcopy | .xcopyTpl | .tfill | .tdrain | .gathert | .nmred | .nmcas | .nmsax
  | .msend => true
  | _ => false

/-- What [53:50] holds (R210): an ordering class, FX, or zero. -/
def AForm.field : AForm → AF → Bool
  | .ld, _ | .ldaq, _ | .st, _ | .strl, _ | .at, _ | .tldq, _ | .sqd, _ | .xcopy, _ | .xcopyTpl, _ | .tfill, _
  | .tdrain, _ | .gathert, _ | .nmred, _ | .nmcas, _ | .nmsax, _ | .bwset, _ | .bwarrive, _ | .msend, _ | .snap, _ => true
  | .sh, f | .shi, f => f.ocl.toNat < 2
  | _, f => f.ocl == 0

/-- Which row of an opcode the fields select: the shift forms by FX[0], the field forms by VAR, WSET by its handle, XCOPY by
TPL, BGIVE by q, SNAPQ by SEL and REMAP by KIND. -/
def AForm.sel (k : AForm) (f : AF) : Bool :=
  let m := f.imm.toNat
  match k with
  | .sh => !bit f.ocl.toNat 0
  | .shi => bit f.ocl.toNat 0
  | .bf => !bit m 15
  | .bfv => bit m 15
  | .wset => bits m 31 16 == 0
  | .wsetHandle => bits m 31 16 != 0
  | .xcopy => !bit m 21
  | .xcopyTpl => bit m 21
  | .bgive => bits m 10 8 != 4
  | .bgiveNone => bits m 10 8 == 4
  | .snapq => !bit m 2
  | .snapqT => bit m 2
  | .remapTower => !bit m 0
  | .remapTable => bit m 0
  | _ => true

/-- The numbers of the control registers (R373). -/
def csrAssigned (n : Nat) : Bool :=
  (n ≤ 5) || (8 ≤ n && n ≤ 0xB) || n == 0x10 || n == 0x20 || n == 0x21 || (0x30 ≤ n && n ≤ 0x35) || n == 0x38 || n == 0x39
    || n == 0x40 || n == 0x41 || n == 0x42 || (0x48 ≤ n && n ≤ 0x4B) || n == 0x50 || (0x58 ≤ n && n ≤ 0x5F) || n == 0x60
    || (0x70 ≤ n && n ≤ 0x72) || n == 0x80

/-- Format M and AT's common part of IMM (R208): bit [31], then AQ and RL, SIZE, SX and SCOPE. -/
def immM (m : Nat) (load anyScope : Bool) : List Reject :=
  must (!bit m 31 && !bit m 30 && !bit m 29) .reserved
    ++ must (!(bit m 27 && (!load || bits m 26 25 == 3))) .range
    ++ must (anyScope || bits m 24 23 == 0) .range

/-- The causes that the fields of a form raise beside PCL and [53:50]. -/
def AForm.causes (k : AForm) (f : AF) : List Reject :=
  let m := f.imm.toNat
  let zd := must (f.d == 0) .reserved
  let za := must (f.sa == 0) .reserved
  let zb := must (f.sb == 0) .reserved
  let z (hi lo : Nat) := must (bits m hi lo == 0) .reserved
  let sc (reg : BitVec 6) := must (reg != 0 || bits m 23 22 == 0) .reserved
  match k with
  | .r | .sh => z 31 0
  | .shi => zb ++ z 31 6
  | .u => zb ++ z 31 0
  | .s3 => z 31 6
  | .i | .ji => zb
  | .l | .jal => za ++ zb
  | .bf => zb ++ z 7 7 ++ z 31 16 ++ must (bits m 6 0 ≤ 64) .range
  | .bfv => z 14 0 ++ z 31 16
  | .jmp => zd ++ za ++ zb
  | .b => zd
  | .lp => za ++ zb ++ must (f.d != 0) .index
  | .ld => zb ++ immM m true false
  | .ldaq => zb ++ immM m true true
  | .st => zd ++ immM m false false
  | .strl => zd ++ immM m false true
  | .at => z 31 31 ++ must (2 ≤ bits m 26 25) .range ++ must (!bit m 27) .range
      ++ must (bit m 30 || bit m 29 || bits m 24 23 == 0) .range
  | .fence => zd ++ za ++ zb ++ z 31 18
  | .fencew => zd ++ za ++ zb ++ z 31 10
  | .wset => zd ++ z 15 3
  | .wsetHandle => zd ++ za ++ zb ++ z 15 3
  | .wclr => zd ++ za ++ zb ++ z 31 8
  | .icinv => zd ++ z 31 2
  | .n => zd ++ za ++ zb ++ z 31 0
  | .tldq => must (f.d.toNat < 8) .reserved ++ zb ++ z 31 22
  | .sqd => must (f.d.toNat < 4) .reserved ++ zb ++ z 31 22
  | .dOnly => za ++ zb ++ z 31 0
  | .xcopy => z 31 25 ++ sc f.sb ++ must (bits m 20 0 != 0) .range
  | .xcopyTpl => z 31 25 ++ z 20 10 ++ sc f.sb
  | .tfill => z 21 21 ++ z 24 24 ++ z 31 26 ++ sc f.sb
      ++ must (bits m 20 0 != 0 && bits m 5 0 == 0 && bits m 20 0 ≤ 262144) .range
  | .tdrain => z 21 21 ++ z 31 24 ++ sc f.sb
      ++ must (bits m 20 0 != 0 && bits m 5 0 == 0 && bits m 20 0 ≤ 262144) .range
  | .gathert => z 31 24 ++ must (f.sb != 0 && f.sb.toNat % 2 == 0) .index
  | .nmred => z 21 20 ++ z 31 24 ++ sc f.d ++ must (bits m 15 0 != 0) .range
      ++ must ((1 ≤ bits m 19 16 && bits m 19 16 ≤ 9) || bits m 19 16 == 0xB) .type
  | .nmcas => z 21 20 ++ z 31 24 ++ sc f.d ++ must (bits m 15 0 != 0) .range ++ must (bits m 19 16 == 0) .type
  | .nmsax => z 21 20 ++ z 31 24 ++ sc f.d ++ must (bits m 15 0 != 0) .range
      ++ must (bits m 19 16 == 9 || bits m 19 16 == 0xB) .type
  | .bwset => zd ++ zb ++ z 31 21
  | .bwarrive => zd ++ zb ++ z 21 21 ++ z 31 30
  | .waitgen => zb ++ z 21 16 ++ z 31 24
  | .semv => zd ++ za ++ zb ++ z 15 4 ++ must (bits m 31 16 != 0) .range
  | .semtry => za ++ zb ++ z 15 4 ++ must (bits m 31 16 != 0) .range
  | .bgive => zd ++ za ++ zb ++ z 7 6 ++ z 31 11 ++ must (bits m 10 8 ≤ 4) .range
  | .bgiveNone => zd ++ za ++ zb ++ z 7 6 ++ z 31 11
  | .btake => za ++ zb ++ z 7 6 ++ z 31 24
  | .bquery => za ++ zb ++ z 31 6
  | .msend => z 31 6 ++ must (bits m 5 0 ≤ 56) .range
  | .snap => z 31 24
  | .snapq | .snapqT => za ++ zb ++ z 31 3
  | .txbegin => z 15 10
  | .txslot => za ++ zb ++ z 31 2
  | .grow => zb ++ z 31 0
  | .tidx => za ++ zb ++ z 31 4
  | .refdefer => zd ++ zb ++ z 31 16
  | .csrrd => za ++ zb ++ z 31 12 ++ must (csrAssigned (bits m 11 0)) .range
  | .csrwr => zb ++ z 31 12 ++ must (csrAssigned (bits m 11 0)) .range
  | .trap => zd ++ za ++ zb ++ z 31 16
  | .tlbinv => zd ++ z 31 14 ++ must (bits m 13 12 != 3) .range
      ++ (if bits m 13 12 == 1 then za ++ zb else if bits m 13 12 == 2 then za ++ zb ++ z 11 0 else [])
  | .shoot => z 31 14 ++ must (bits m 13 12 != 3) .range
      ++ (if bits m 13 12 == 1 then za ++ zb else if bits m 13 12 == 2 then za ++ zb ++ z 11 0 else [])
  | .remapTower | .remapTable => zb ++ z 31 1
  | .pause => zd ++ za ++ zb ++ z 31 20 ++ must (bits m 19 0 != 0) .range
  | .errpop => zb ++ z 31 0

/-- Every cause that an A-core instruction of form `k` raises (R226). -/
def AForm.details (k : AForm) (f : AF) : List Reject :=
  must (f.pcl != 3) .pclIllegal ++ must (f.pcl == 0 || f.pcl == 3 || k.classed) .pclRefused
    ++ must (k.field f) .reserved ++ k.causes f

/-- Opcode, form and constructor of an A-core row. -/
structure ARow where
  opc : Nat
  form : AForm
  instr : AF → Instr

/-! ### X forms -/

/-- What an operand field of a syllable may hold (R216). -/
inductive FK where
  | zero | x | xm | k | kd | td | ts | tsQueue (pop : Bool) | xqd | sq
  deriving DecidableEq, Repr

/-- The immediate marker 0x1F0 (R214). -/
def Opnd.marker : Opnd := .queue 15 false false 0

def Opnd.isMarker (o : Opnd) : Bool := o == Opnd.marker

/-- The queue an operand names (R214): not the marker. -/
def Opnd.queue? : Opnd → Option Nat
  | .reg _ _ => none
  | .queue q _ _ _ => if q == 15 then none else some q.toNat

/-- A queue that a tile source may name: lq0-lq7, dq0, hq0 (R216). -/
def tileQueue (q : BitVec 4) : Bool := q.toNat < 8 || q == 12 || q == 13

/-- The causes an operand field raises by its kind alone (R214-R217, R226). -/
def FK.causes (fk : FK) (o : Opnd) : List Reject :=
  match fk, o with
  | .zero, .reg i v => must (i == 0) .reserved ++ must (v == 0) .kind
  | .zero, .queue _ _ _ _ => [.reserved]
  | .x, .reg i v | .xm, .reg i v | .xqd, .reg i v => must (i.toNat < 32) .index ++ must (v == 0) .kind
  | .xm, .queue _ _ _ _ => must (Opnd.isMarker o) .kind
  | .k, .reg i v => must (i.toNat < 16) .index ++ must (v == 0) .kind
  | .kd, .reg i v => must (i.toNat < 16 && i != 0) .index ++ must (v == 0) .kind
  | .td, .reg _ v => must (v == 0) .kind
  | .ts, .reg _ _ => []
  | .ts, .queue q _ _ low => must (Opnd.isMarker o || (tileQueue q && low == 0)) .kind
  | .tsQueue p, .queue q pop _ low => must ((tileQueue q || q == 14) && low == 0 && pop == p) .kind
  | .sq, .queue q pop st low => must (8 ≤ q.toNat && q.toNat ≤ 11 && !pop && !st && low == 0) .kind
  | _, _ => [.kind]

/-- The view index of a tile source keeps the limits of R215; a field that is none has index 0. -/
def viewIndexOk (fk : FK) (o : Opnd) (idx : Nat) : Bool :=
  match fk, o with
  | .ts, .reg _ v => if v == 1 then idx < 16 else if v == 2 then true else idx == 0
  | _, _ => idx == 0

/-- Layout of IMM: the tile layout of R212 with the use of [45:32], or a layout of the entry's own. -/
inductive XImm where
  | tile (mid : List Reject) | own (cs : List Reject)
  deriving Repr

/-- What the causes of a syllable's fields depend on. -/
structure XForm where
  slots : List Nat
  guarded : Bool := false
  kinds : FK × FK × FK × FK := (.zero, .zero, .zero, .zero)
  types : List Nat := [0]
  fn : List Reject := []
  imm : XImm := .own []
  deriving Repr

/-- The syllable forms of chapters 7, 9, 12 and 13. -/
inductive XKind where
  | nop | xs | xst (types : List Nat) | xcmp | xli | brx | bcx (c : Nat) | lsetup | lsetupReg | chkpt | xsemv | xsemp
  | lsupd (c : Nat) | xtrap | xend | fork | join
  | v2 (types : List Nat) | v1 (types : List Nat) | v3 (types : List Nat) | vcmp | fcmp | vsel
  | cvt | cvtsr | planes | unplane | red | cshift | cshiftXc | k2 | k1 | kpopc | twld | twst | qpop (pop : Bool) | qpush
  | kstq (push : Bool) | record | mwait (all : Bool)
  deriving DecidableEq, Repr

/-- The element width of a TYPE code (R213, R242): 32 for .b32. -/
def typeWidth (t : Nat) : Nat :=
  match t with
  | 1 | 5 | 0xC | 0xD | 0xF => 8
  | 2 | 6 | 0xA | 0xB => 16
  | 4 | 8 => 64
  | 0xE => 4
  | _ => 32

/-- TYPE codes of two's-complement and natural integers. -/
def typeIsInt (t : Nat) : Bool := 1 ≤ t && t ≤ 8

/-- The row that the fields select among those of one opcode: BCX and LSUPD by their condition, LSETUP and MWAIT by FN[0],
SYNCJ by FN[0], CSHIFT by its edge and KSTQ by PUSH. -/
def XKind.sel (k : XKind) (f : XF) : Bool :=
  let fn := f.fn.toNat
  match k with
  | .bcx c => if c == 6 then 6 ≤ fn % 8 else fn % 8 == c
  | .lsetup => !bit fn 0
  | .lsetupReg => bit fn 0
  | .lsupd c => fn % 4 == c
  | .fork => bit fn 0
  | .join => !bit fn 0
  | .cshift => bits fn 3 2 != 2
  | .cshiftXc => bits fn 3 2 == 2
  | .kstq p => bit f.imm.toNat 5 == p
  | .mwait a => bit fn 0 == a
  | _ => true

/-- The types of the packed integer syllables (R333). -/
def intTypes : List Nat := [1, 2, 3, 5, 6, 7]
def floatTypes : List Nat := [9, 0xA, 0xB]

/-- The form of a syllable, from its fields: operand kinds, types, FN and IMM (R216 and the entries). -/
def XKind.form (k : XKind) (f : XF) : XForm :=
  let fn := f.fn.toNat
  let m := f.imm.toNat
  let ty := f.ty.toNat
  let zf (hi lo : Nat) := must (bits fn hi lo == 0) .reserved
  let z (hi lo : Nat) := must (bits m hi lo == 0) .reserved
  let nofn := zf 7 0
  let vs : List Nat := [1, 2]
  match k with
  | .nop => { slots := [0, 1, 2, 3], fn := nofn, imm := .own (z 63 0) }
  | .xs => { slots := [0], kinds := (.x, .x, .xm, .zero), fn := nofn,
             imm := .own (z 63 32 ++ if Opnd.isMarker f.b then [] else z 31 0) }
  | .xst ts => { slots := [0], kinds := (.x, .x, .xm, .zero), types := ts, fn := nofn,
                 imm := .own (z 63 32 ++ if Opnd.isMarker f.b then [] else z 31 0) }
  | .xcmp => { slots := [0], kinds := (.x, .x, .xm, .zero), types := [0, 4, 8],
               fn := zf 7 3 ++ must (fn % 8 ≤ 5 && (ty != 0 || fn % 8 ≤ 1)) .range,
               imm := .own (z 63 32 ++ if Opnd.isMarker f.b then [] else z 31 0) }
  | .xli => { slots := [0], kinds := (.x, .zero, .zero, .zero), fn := nofn }
  | .brx => { slots := [0], fn := nofn, imm := .own (z 63 32) }
  | .bcx c => { slots := [0],
                kinds := (.zero, if c == 6 then .zero else if c ≤ 1 then .x else .k, .zero, .zero),
                fn := zf 7 3 ++ must (fn % 8 != 7) .range, imm := .own (z 63 32) }
  | .lsetup => { slots := [0], fn := zf 7 1,
                 imm := .own (z 63 21 ++ must (1 ≤ bits m 16 0 && bits m 16 0 ≤ 65536) .range
                   ++ must (1 ≤ bits m 20 17 && bits m 20 17 ≤ 8) .range) }
  | .lsetupReg => { slots := [0], kinds := (.zero, .x, .zero, .zero), fn := zf 7 1,
                    imm := .own (z 63 21 ++ z 16 0 ++ must (1 ≤ bits m 20 17 && bits m 20 17 ≤ 8) .range) }
  | .chkpt => { slots := [0], fn := nofn, imm := .own (z 63 32) }
  | .xsemv => { slots := [0], fn := nofn, imm := .own (z 63 32 ++ z 15 4 ++ must (bits m 31 16 != 0) .range) }
  | .xsemp => { slots := [0], fn := nofn, imm := .own (z 63 4) }
  | .lsupd c => { slots := [0], kinds := (if c == 2 then .zero else .x, if c == 1 then .zero else .x, .zero, .zero),
                  fn := zf 7 2, imm := .own (z 63 0) }
  | .xtrap => { slots := [0], fn := nofn, imm := .own (z 63 16) }
  | .xend => { slots := [0], fn := nofn, imm := .own (z 63 0) }
  | .fork => { slots := [0, 1, 2, 3], fn := zf 7 1, imm := .own (z 63 40 ++ must (bits m 39 32 == 0) .mode) }
  | .join => { slots := [0, 1, 2, 3], fn := zf 7 1, imm := .own (z 63 40) }
  | .v2 ts => { slots := vs, guarded := true, kinds := (.td, .ts, .ts, .zero), types := ts, fn := nofn,
                imm := .tile (z 45 32) }
  | .v1 ts => { slots := vs, guarded := true, kinds := (.td, .ts, .zero, .zero), types := ts, fn := nofn,
                imm := .tile (z 45 32) }
  | .v3 ts => { slots := vs, guarded := true, kinds := (.td, .ts, .ts, .ts), types := ts, fn := nofn,
                imm := .tile (z 45 32) }
  | .vcmp => { slots := vs, guarded := true, kinds := (.kd, .ts, .ts, .zero), types := 0 :: intTypes,
               fn := zf 3 3 ++ zf 7 6 ++ must (fn % 8 ≤ 5 && (ty != 0 || fn % 8 ≤ 1)) .range
                 ++ must (bits fn 5 4 < 32 / typeWidth ty) .range,
               imm := .tile (z 45 32) }
  | .fcmp => { slots := vs, guarded := true, kinds := (.kd, .ts, .ts, .zero), types := floatTypes,
               fn := zf 3 3 ++ zf 7 6 ++ must (fn % 8 ≤ 6) .range ++ must (bits fn 5 4 < 32 / typeWidth ty) .range,
               imm := .tile (z 45 32) }
  | .vsel => { slots := vs, guarded := true, kinds := (.td, .ts, .ts, .zero), fn := zf 7 4, imm := .tile (z 45 32) }
  | .cvt =>
    let s := bits fn 3 0
    let ns := 32 / typeWidth s
    let nd := 32 / typeWidth ty
    let ok := ty != 0 && ty != 4 && ty != 8 && ty != 0xF && s != 0 && s != 4 && s != 8 && s != ty
    let hmax := if ns ≤ nd then nd / ns else ns / nd
    { slots := vs, guarded := true, kinds := (.td, .ts, .zero, if typeWidth ty < typeWidth s then .ts else .zero),
      types := [1, 2, 3, 5, 6, 7, 9, 0xA, 0xB, 0xC, 0xD, 0xE],
      fn := zf 7 4 ++ must ok .type,
      imm := .tile (z 45 35 ++ must (!(bit m 34 && typeIsInt ty)) .reserved
        ++ must (!ok || bits m 33 32 < hmax) .range) }
  | .cvtsr =>
    { slots := vs, guarded := true, kinds := (.td, .ts, .ts, .ts), types := [0xA, 0xB, 0xC, 0xD, 0xE],
      fn := must (bits fn 3 0 == 9) .type,
      imm := .tile (z 45 35 ++ must (bits m 33 32 < 32 / typeWidth ty) .range) }
  | .planes =>
    { slots := vs, guarded := true, kinds := (.td, .ts, if ty == 0xE then .ts else .zero, .zero),
      types := [1, 2, 5, 6, 9, 0xA, 0xB, 0xC, 0xD, 0xE], fn := zf 7 4,
      imm := .tile (z 45 34 ++ must (bits m 33 32 < 32 / typeWidth ty) .range) }
  | .unplane =>
    { slots := vs, guarded := true, kinds := (.td, .ts, .zero, if typeWidth ty < 32 then .ts else .zero),
      types := [1, 2, 3, 9, 0xA, 0xB, 0xC, 0xD, 0xE], fn := zf 7 4,
      imm := .tile (z 45 35 ++ must (!(bit m 34 && typeIsInt ty)) .reserved
        ++ must (bits m 33 32 < 32 / typeWidth ty) .range) }
  | .red => { slots := vs, guarded := true, kinds := (.td, .ts, .zero, .zero), types := [3, 7, 9],
              fn := zf 7 2 ++ must (fn % 4 != 3) .range, imm := .tile (z 45 32) }
  | .cshift => { slots := vs, guarded := true,
                 kinds := (.td, .ts, if bits fn 3 2 == 0 then .ts else .zero, .zero),
                 fn := zf 7 4 ++ must (bits fn 3 2 != 3) .range, imm := .tile (z 45 32) }
  | .cshiftXc => { slots := vs, guarded := true, kinds := (.td, .ts, .zero, .zero),
                   fn := zf 7 4 ++ must (2 ≤ fn % 4) .range, imm := .tile (z 45 32) }
  | .k2 => { slots := vs, guarded := true, kinds := (.kd, .k, .k, .zero), fn := nofn, imm := .own (z 63 0) }
  | .k1 => { slots := vs, guarded := true, kinds := (.kd, .k, .zero, .zero), fn := nofn, imm := .own (z 63 0) }
  | .kpopc => { slots := vs, guarded := true, kinds := (.x, .k, .zero, .zero), fn := nofn, imm := .own (z 63 0) }
  | .twld => { slots := vs, guarded := true, kinds := (.td, .ts, .zero, .zero), fn := nofn, imm := .tile [] }
  | .twst => { slots := vs, guarded := true, kinds := (.zero, .ts, .ts, .zero), fn := nofn, imm := .tile [] }
  | .qpop p =>
    let mbq := Opnd.queue? f.a == some 14
    { slots := [3], kinds := (if mbq then .xqd else .td, .tsQueue p, .zero, .zero), fn := nofn, imm := .own (z 63 0) }
  | .qpush => { slots := [3], kinds := (.sq, .ts, .zero, .zero), fn := nofn, imm := .tile (z 45 32) }
  | .kstq _ => { slots := [3], kinds := (.sq, .k, .zero, .zero), fn := nofn, imm := .own (z 63 6) }
  | .record => { slots := [3], kinds := (.x, .x, .x, .x), fn := nofn, imm := .own (z 63 36) }
  | .mwait all => { slots := [3], fn := zf 7 1,
                    imm := .own (z 63 36 ++ z 31 0 ++ must (!all || bits m 35 32 == 0) .reserved) }

/-- No queue stands in two fields and at most one field holds the marker (R217). -/
def XF.distinct (f : XF) : Bool :=
  let os := [f.d, f.a, f.b, f.c]
  (os.filter Opnd.isMarker).length ≤ 1 && (os.filterMap Opnd.queue?).Nodup

/-- Every cause that the fields of a syllable raise (R212-R221, R226), apart from its slot and the mode of its line. -/
def XKind.details (k : XKind) (f : XF) : List Reject :=
  let g := k.form f
  let m := f.imm.toNat
  let (fd, fa, fb, fc) := g.kinds
  must (f.pcl != 3) .pclIllegal ++ must (f.pcl == 0 || f.pcl == 3 || g.guarded) .pclRefused
    ++ fd.causes f.d ++ fa.causes f.a ++ fb.causes f.b ++ fc.causes f.c ++ must (XF.distinct f) .kind
    ++ must (g.types.contains f.ty.toNat) .type ++ g.fn
    ++ must (if g.guarded then !(f.neg && f.gp == 0) else !f.neg && f.gp == 0) .guard
    ++ match g.imm with
       | .own cs => cs
       | .tile cs =>
         cs ++ must (viewIndexOk fa f.a (bits m 63 58)) .range ++ must (viewIndexOk fb f.b (bits m 57 52)) .range
           ++ must (viewIndexOk fc f.c (bits m 51 46)) .range
           ++ must (Opnd.isMarker f.a || Opnd.isMarker f.b || Opnd.isMarker f.c || bits m 31 0 == 0) .reserved

/-- Opcode, form and constructor of a row of the X-core. -/
structure XRow where
  opc : Nat
  kind : XKind
  instr : XF → Instr

end Sys2Proof.Machine
end

