-- ==== Sys2Proof/Machine/Record.lean ====
section
/-! DEFINITION. Record lines and their records (R223-R225, R351-R353): the layout, the checks of a line, operand addresses and
extents, and the checks at issue. -/

namespace Sys2Proof.Machine

/-! ### The line (R223) -/

/-- Trip count of loop `n`, base and stride fields of a 512-bit record line. -/
def lineTrip (w n : Nat) : Nat := bits w (431 + 16 * n) (416 + 16 * n) + 1
def lineBase (w m : Nat) : Nat := bits w (63 + 96 * m) (32 + 96 * m)
def lineStr (w m k : Nat) : Int := sext 16 (bits w (79 + 96 * m + 16 * k) (64 + 96 * m + 16 * k))
def lineRopc (w : Nat) : Nat := bits w 505 500
def lineMods (w : Nat) : Nat := bits w 499 480

/-- The MODS bits that a record opcode names (R353). -/
def modsMask (ropc : Nat) : Nat :=
  match ropc with
  | 1 => 0xFFF | 2 => 0xFFF7 | 4 => 0xFF0 | 5 => 0x7F | 6 => 0xFF0 | 7 => 0x3FF | _ => 0

/-- The operands that a record uses (R358-R365). -/
def opsUsed (ropc mods : Nat) : List Nat :=
  match ropc with
  | 1 => [0, 1] | 2 => [0] | 4 => [0] | 6 => [0] | 8 => [0]
  | 5 => if bit mods 5 then [0, 1] else [0]
  | 7 => (match bits mods 6 4 with
    | 0 => [0, 1]
    | 3 | 6 | 7 => [0, 1, 2, 3]
    | _ => [0, 1, 2])
  | _ => []

/-- The checks of a line against the record its syllable names (R223, R225). -/
def lineOk (ropc w : Nat) : Bool :=
  bits w 511 508 == 15 && bits w 507 506 != 3 && lineRopc w == ropc && lineMods w &&& modsMask ropc == lineMods w
    && bits w 31 25 == 0 && (bit w 24 || bits w 23 0 == 0)
    && [0, 1, 2, 3].all fun m => (opsUsed ropc (lineMods w)).contains m || bits w (127 + 96 * m) (32 + 96 * m) == 0

/-- The detail with which a line fails (R225, R226): class 11 has the lowest. -/
def lineDetail (ropc w : Nat) : Option Nat := if bits w 507 506 = 3 then some 2 else if lineOk ropc w then none else some 0x0B

/-- The record of a line, with the x values added to its bases (R225). -/
def recordOf (w tag id : Nat) (xs : List Nat) : Rec :=
  { id := id, ropc := lineRopc w, pcl := bits w 507 506, mods := lineMods w, trips := [0, 1, 2, 3].map (lineTrip w),
    base := [0, 1, 2, 3].map fun m => (lineBase w m + xs.getD m 0) % 2 ^ 32,
    str := [0, 1, 2, 3].map fun m => [0, 1, 2, 3].map (lineStr w m),
    cw := if bit w 24 then some (bits w 21 0) else none, scope := scopeOf (bits w 23 22), tag := tag, j := 0,
    began := false, f := 1, counted := 0, scales := [], failed := false }

/-- The trap that a protection mismatch of a record raises (R367, R413). -/
def Rec.mismatchTrap (r : Rec) : XTrap := { code := 7, detail := mismatchDetail (r.pcl == 2), tval := 0, slot := 4 }

/-! ### Single issues and operand addresses (R351) -/

def Rec.trip (r : Rec) (n : Nat) : Nat := r.trips.getD n 1
def Rec.stride (r : Rec) (m k : Nat) : Int := (r.str.getD m []).getD k 0

/-- The number of single issues. -/
def Rec.total (r : Rec) : Nat := r.trip 0 * r.trip 1 * r.trip 2 * r.trip 3

/-- Coordinate `k` of the next single issue. -/
def Rec.coord (r : Rec) (k : Nat) : Nat := r.j / ((List.range k).foldl (fun p i => p * r.trip i) 1) % r.trip k

/-- Addr(m) of the next single issue, with unit `u`. -/
def Rec.addr (r : Rec) (u m : Nat) : Int :=
  (r.base.getD m 0 : Nat) + u * ((r.coord 0 : Nat) * r.stride m 0 + (r.coord 1 : Nat) * r.stride m 1
    + (r.coord 2 : Nat) * r.stride m 2 + (r.coord 3 : Nat) * r.stride m 3)

/-- The least and greatest Addr(m): the corners of the index box. -/
def Rec.corners (r : Rec) (u m : Nat) : Int × Int :=
  let d (k : Nat) : Int := u * ((r.trip k - 1 : Nat) * r.stride m k)
  let b : Int := (r.base.getD m 0 : Nat)
  (b + min 0 (d 0) + min 0 (d 1) + min 0 (d 2) + min 0 (d 3), b + max 0 (d 0) + max 0 (d 1) + max 0 (d 2) + max 0 (d 3))

/-- The column range of a record (R353): first column and number of columns. -/
def Rec.cols (r : Rec) : Nat × Nat :=
  let k := if r.ropc = 2 then 8 else 4
  (32 * bits r.mods (k + 3) k, 32 * (bits r.mods (k + 7) (k + 4) + 1))

/-- The sparsity factor of SPAR (R358). -/
def sparFactor (mods : Nat) : Nat :=
  match bits mods 5 4 with
  | 1 => 2 | 2 => 4 | _ => 1

/-- The record's number format code. -/
def Rec.ty (r : Rec) : Nat := bits r.mods 3 0
/-- Planes of the streamed and of the weight blocks. -/
def Rec.pa (r : Rec) : Nat := bits r.mods 3 0 + 1
def Rec.pw (r : Rec) : Nat := bits r.mods 2 0 + 1

/-- Bytes of `f` times eight blocks of `p` planes. -/
def rowBytes (f p : Nat) : Nat := 16 * f * (p + 2)

/-- The scratchpad operands of a record and the length of one access; `f` is the factor of the active set for MMA. -/
def Rec.spOps (r : Rec) (f : Nat) : List (Nat × Nat) :=
  match r.ropc with
  | 1 => [(0, rowBytes f r.pa)]
  | 2 => [(0, rowBytes (sparFactor r.mods) r.pw)]
  | 5 => if bit r.mods 5 then [(1, 4096)] else []
  | 7 => (opsUsed 7 r.mods).map fun m => (m, 32)
  | 8 => [(0, 32)]
  | _ => []

/-- The scratchpad extent of an operand. -/
def Rec.spExt (r : Rec) (cl : Nat) (o : Nat × Nat) : Ext :=
  let c := r.corners 32 o.1
  { ep := .sp cl 0, lo := c.1, hi := c.2 + (o.2 : Nat) - 1 }

/-- Every accumulator address of an operand is a multiple of `n`. -/
def Rec.accAligned (r : Rec) (m n : Nat) : Bool :=
  r.base.getD m 0 % n == 0 && [0, 1, 2, 3].all fun k => r.trip k == 1 || r.stride m k % (n : Int) == 0

/-- The residues modulo 512 of the accumulator addresses of an operand aligned to 32. -/
def Rec.residues (r : Rec) (m : Nat) : List Nat :=
  [0, 1, 2, 3].foldl (fun rs k =>
    ((rs.flatMap fun a => (List.range (Nat.min 16 (r.trip k))).map fun i => (((a : Int) + i * r.stride m k) % 512).toNat)).foldl
      (fun acc a => if acc.contains a then acc else acc ++ [a]) []) [r.base.getD m 0 % 512]

/-- The MODS and shape checks of a record (R353, R358, R360, R363, R365; detail 0x04). -/
def Rec.modsOk (r : Rec) : Bool :=
  let ranged : Bool := decide (r.cols.1 + r.cols.2 ≤ 512)
  match r.ropc with
  | 1 | 4 | 6 => ranged
  | 2 => ranged && bits r.mods 5 4 != 3 && r.total == r.cols.2
  | 3 => r.total == 1
  | 5 => [9, 0xA, 0xB, 0xC, 0xD].contains r.ty
  | 7 => [3, 9, 0xB].contains r.ty && decide (bits r.mods 6 4 < 6)
  | _ => true

/-- The accumulator checks of a record (R352, detail 0x02). -/
def Rec.accOk (r : Rec) : Bool :=
  let inside (m top : Nat) : Bool := decide (0 ≤ (r.corners 1 m).1) && decide ((r.corners 1 m).2 < (top : Int))
  match r.ropc with
  | 1 => inside 1 131072 && r.accAligned 1 512
  | 4 => inside 0 131072 && r.accAligned 0 512
  | 5 => inside 0 (241 * 512) && r.accAligned 0 32
      && (!r.modsOk || (r.residues 0).all fun c => decide (c + 64 * (32 / typeWidth r.ty) ≤ 512))
  | 6 => inside 0 (241 * 512) && r.accAligned 0 512
  | _ => true

/-! ### The factors that issued records will leave (R358, R360) -/

/-- The records that will still change a factor, in the order of issue. -/
def Arr.pendingSets (a : Arr) : List Rec :=
  sortLe (fun x y => decide (x.id ≤ y.id))
    ((a.loaderE.filter fun r => !r.began) ++ (a.arrayE ++ a.recQ).filter fun r => r.ropc == 2 || r.ropc == 3)

/-- The factors of the active and the shadow set once every record issued before number `id` has acted. -/
def Arr.factors (a : Arr) (id : Nat) : Nat × Nat :=
  (a.pendingSets.filter fun r => decide (r.id < id)).foldl (fun p r => if r.ropc = 2 then (p.1, sparFactor r.mods) else (p.2, p.1))
    (a.active.f, a.shadow.f)

/-- The factor an MMA finds: of the active set, for one not yet begun the set that the records before it leave (log 16). -/
def Arr.factorFor (a : Arr) (r : Rec) : Nat := if r.began then r.f else (a.factors r.id).1

/-- Every record issued and not complete. -/
def Arr.recs (a : Arr) : List Rec := a.recQ ++ a.arrayE ++ a.loaderE ++ a.pusherE ++ a.nestE

/-- The checks at issue (R352): the lowest detail of a failing one. -/
def State.recordErr (s : State) (cl : Nat) (r : Rec) : Option Nat :=
  let ops := r.spOps ((s.cl cl).arr.factors r.id).1
  let within (e : Ext) : Bool := decide (0 ≤ e.lo) && decide (e.hi ≤ 0x2FFFFF)
  let word := match r.cw with
    | some a => a % 8 == 0 && decide (a + 8 ≤ 0x300000)
    | none => true
  if !(word && ops.all fun o => r.base.getD o.1 0 % 32 == 0 && within (r.spExt cl o)) then some 1
  else if !r.accOk then some 2
  else if !(ops.all fun o =>
      let e := r.spExt cl o
      s.owns cl cl e.lo.toNat (e.hi + 1 - e.lo).toNat) then some 3
  else if !r.modsOk then some 4
  else none

/-- Whether a record's scratchpad extents meet `n` bytes from `a` of its cluster's scratchpad (R354, rule 7). -/
def Rec.meets (r : Rec) (f a n : Nat) : Bool :=
  (r.spOps f).any fun o =>
    let e := r.spExt 0 o
    decide (e.lo < a + n) && decide ((a : Int) ≤ e.hi)

end Sys2Proof.Machine
end

