-- ==== Sys2Proof/Machine/Trans.lean ====
section
/-! DEFINITION. Snapshots and staged transactions (R116-R138): the A-core's instructions (R312-R314), the instants, the decant,
and the messages and timers of groups and votes. -/

namespace Sys2Proof.Machine

/-! ### The snapshot control block and the status words (R125, R136) -/

def Ctx.scbV (c : Ctx) : Bool := bit c.scb 12
/-- LEAD in ns. -/
def Ctx.lead (c : Ctx) : Nat := bits c.scb 105 96 * 1000
/-- Target `i` of the control block, and its fields. -/
def Ctx.tgt (c : Ctx) (i : Nat) : Nat := bits c.scb (319 + 64 * i) (256 + 64 * i)
def tgtKind (t : Nat) : Nat := bits t 1 0
def tgtChip (t : Nat) : Nat := bits t 7 2
def tgtAddr (t : Nat) : Nat := bits t 35 8 * 65536
def tgtRing (t : Nat) : Nat := bits t 15 8
def tgtCap (t : Nat) : Nat := bits t 63 36

def SnapSt.code : SnapSt → Nat
  | .free => 0 | .armed => 1 | .pending => 2 | .live => 3 | .done => 4 | .dropped => 5 | .failed => 6

def TxSt.code : TxSt → Nat
  | .free => 0 | .open => 1 | .voted => 2 | .decided => 3 | .committed => 4 | .aborted => 5

/-- The frames that a snapshot slot holds: number and frame. -/
def Ctx.heldBy (c : Ctx) (i : Nat) : List (Nat × Frame) :=
  c.frames.filterMap fun (k, f) =>
    match f with
    | some f => if f.holders.contains i then some (k, f) else none
    | none => none

/-- The snapshot status word (R136). -/
def Ctx.snapWord (c : Ctx) (i : Nat) : Nat :=
  let n := c.snap i
  n.st.code + flag n.abnd 3 + n.code % 64 * 2 ^ 4 + Nat.min (2 ^ 24 - 1) (c.heldBy i).length * 2 ^ 16
    + Nat.min (2 ^ 24 - 1) n.decpg * 2 ^ 40

/-- The transaction slot status word (R136). -/
def State.txWord (s : State) (cid i : Nat) : Nat :=
  let x := (s.ctx cid).tx i
  x.st.code + flag (x.st != .free && coordOf x.mask == s.dev.chip) 3 + x.code % 64 * 2 ^ 4 + x.txid % 2 ^ 16 * 2 ^ 16
    + Nat.min 65535 x.drops * 2 ^ 32

/-! ### Arming (R119, R120, R124) -/

/-- The refusal code of a SNAP, the lowest that applies; 0 accepts (R119, R120, R125, R312). -/
def State.snapCode (s : State) (cid slot t target : Nat) : Nat :=
  let c := s.ctx cid
  if (c.snap slot).st.isLive then 0x30
  else if t != 0 && !(decide (s.gtc + 1000 ≤ t) && decide (t ≤ s.gtc + 10 ^ 10)) then 0x31
  else if !c.scbV || tgtKind (c.tgt target) == 0 then 0x35
  else 0

/-- The other chips of a group. -/
def State.others (s : State) (mask : BitVec 64) : List Nat := (chipsOf mask).filter (· != s.dev.chip)

/-- The instant of an armed slot is fixed, and ARM goes to the other chips of its group (R120, R124). -/
def State.fixInstant (s : State) (cid slot t : Nat) : State :=
  let n := (s.ctx cid).snap slot
  let s := s.onCtx cid fun c => c.setSnap slot { n with t := t }
  (s.others n.mask).foldl (fun s k => s.send k (.arm cid slot t)) s

/-- The accesses and commands of class `cls` that the core of cluster `cl` has issued and that have not performed: cluster, number, and whether it is
a command; those that its task left on other clusters are among them (R120, R127, R151). Class 0 awaits none. -/
def State.classOpen (s : State) (cl cls : Nat) : List (Nat × Nat × Bool) :=
  let c := s.cl cl
  if cls = 0 then []
  else s.listed.flatMap fun (n, d) =>
    let own := n == cl
    (((d.a.loads.filter fun _ => own) ++ d.a.stores.filter fun l => l.leftBy c || (own && l.late.isNone)).filter fun l =>
      l.pending && l.cls == cls).map (fun l => (n, l.seq, false))
    ++ (d.a.cmds.filter fun k => (k.ofTask c || (own && k.mode == .s)) && !k.hasPerformed && k.cls == cls).map fun k => (n, k.id, true)

/-- One of the accesses and commands that the instant of an armed slot waits for has not performed (R120). -/
def State.pointPending (s : State) (n : Snap) : Bool :=
  n.awaits.any fun (c, i, cmd) =>
    let a := (s.cl c).a
    if cmd then a.cmds.any fun k => k.id == i && !k.hasPerformed else a.accs.any fun l => l.seq == i && l.pending

/-- The instants of slots armed with T = 0 are fixed once every access of the class has performed: max(now + LEAD, P + 1), with
`now` the GTC at the SNAP and P the present one (R120). -/
def State.fixSnaps (s : State) : State :=
  s.ctxs.foldl (fun s (cid, c) =>
    c.snaps.foldl (fun s (i, n) =>
      if n.st == .armed && n.t == 0 && n.origin == s.dev.chip && !s.pointPending n then
        s.fixInstant cid i (Nat.max (n.armedAt + c.lead) (s.gtc + 1))
      else s) s) s

/-- A slot hears CONFIRM: PENDING becomes LIVE (R119, R124). -/
def State.confirmSnap (s : State) (cid slot : Nat) : State :=
  s.onCtx cid fun c =>
    let n := c.snap slot
    if n.st == .pending then c.setSnap slot { n with confirmed := true, st := .live, lastProg := s.gtc }
    else c.setSnap slot { n with confirmed := true }

/-- A slot hears CANCEL: it fails with 0x32 unless its group was confirmed (R124). An instant that has come by then counts (R117). -/
def State.cancelSnap (s : State) (cid slot : Nat) : State :=
  let s := s.reachAll cid
  let n := (s.ctx cid).snap slot
  if n.confirmed then s
  else
    let t := s.onCtx cid fun c => c.setSnap slot { n with cancelled := true }
    if n.st == .armed || n.st == .pending then t.endSnap cid slot .failed 0x32 else t

/-- The issuing chip has still to confirm or to cancel the group of a slot, whatever has become of its own snapshot (R124). -/
def State.undecided (s : State) (n : Snap) : Bool :=
  n.st != .free && n.origin == s.dev.chip && n.t != 0 && !(s.others n.mask).isEmpty && !n.confirmed && !n.cancelled

/-- The issuing chip confirms the group if every acceptance has come in time, else it cancels it with the chips that have not refused
(R124). -/
def State.closeGroup (s : State) (cid slot : Nat) : State :=
  let n := (s.ctx cid).snap slot
  let ks := s.others n.mask
  if !s.undecided n then s
  else if ks.all fun k => n.answers.getLsbD k && !n.refused.getLsbD k then
    (ks.foldl (fun s k => s.send k (.confirm cid slot)) s).confirmSnap cid slot
  else ((ks.filter fun k => !n.refused.getLsbD k).foldl (fun s k => s.send k (.cancel cid slot)) s).cancelSnap cid slot

/-- What the slot's groups of this chip have come to, to answer later queries (R124; log 101). -/
def State.pastGroups (s : State) (n : Snap) : List (Nat × Bool) :=
  n.past ++ if n.origin == s.dev.chip && !(s.others n.mask).isEmpty && (n.confirmed || n.cancelled) then [(n.t, n.confirmed)] else []

/-- A SNAP accepted (R119, R120): the slot is armed, with its instant fixed if it is given or nothing is awaited. A group of the slot's
last snapshot that is still undecided is closed first (log 73). -/
def State.armSnap (s : State) (cid slot t : Nat) (mask : BitVec 64) (abnd : Bool) (target cl cls : Nat) (word : Option (Nat × Nat)) :
    State :=
  let s := s.closeGroup cid slot
  let n : Snap := { Snap.free with
    st := .armed, abnd := abnd, target := target, mask := mask, origin := s.dev.chip, confirmed := (s.others mask).isEmpty,
    cl := cl, awaits := s.classOpen cl cls, word := word, armedAt := s.gtc, past := s.pastGroups ((s.ctx cid).snap slot) }
  let s := s.onCtx cid fun c => c.setSnap slot n
  if t != 0 then s.fixInstant cid slot t
  else if s.pointPending n then s
  else s.fixInstant cid slot (s.gtc + (s.ctx cid).lead)

/-- A chip's own bit. -/
def chipBit (k : Nat) : BitVec 64 := BitVec.ofNat 64 (2 ^ k)

/-- The checks of SNAP's completion word. -/
def State.snapErr (s : State) (f : AF) : Option Flt :=
  let a := bits f.imm.toNat 23 5 * 8
  let e := Ext.of (.sp s.focus a) 8
  firstFlt [e.check a, s.extOwner s.focus e a]

/-- SNAP (R312). -/
def execSnap (f : AF) (s : State) : Out :=
  let m := f.imm.toNat
  let a := bits m 23 5 * 8
  let cid := s.runCid s.focus
  let t := (s.g f.sa).toNat
  let code := s.snapCode cid (bits m 1 0) t (bits m 4 3)
  if !s.ready [f.d, f.sa, f.sb] then .next s
  else match s.snapErr f with
    | some e => .next (s.trapFlt e)
    | none =>
      let u := if code = 0 then
          s.armSnap cid (bits m 1 0) t (s.g f.sb ||| chipBit s.dev.chip) (bit m 2) (bits m 4 3) s.focus f.ocl.toNat (some (s.focus, a))
        else s
      .next (u.result f.d (BitVec.ofNat 64 code))

/-- SNAPQ of the status word (R312). -/
def execSnapq (f : AF) (s : State) : Out :=
  whenReady s [f.d] (s.result f.d (BitVec.ofNat 64 ((s.ctx (s.runCid s.focus)).snapWord (bits f.imm.toNat 1 0))))

/-- SNAPQ of the instant (R312). -/
def execSnapqT (f : AF) (s : State) : Out :=
  whenReady s [f.d] (s.result f.d (BitVec.ofNat 64 ((s.ctx (s.runCid s.focus)).snap (bits f.imm.toNat 1 0)).t))

/-- SNAPSHOT_INSTANT (R117, R119): the armed slots of the context whose instants have come reach them. -/
def execSnapshotInstant (cid slot : Nat) (s : State) : Out :=
  let n := (s.ctx cid).snap slot
  if n.st == .armed && n.t != 0 && n.t ≤ s.gtc then .next (s.reachAll cid) else .next s

/-- ARM_MSG (R124): armed, unless there is no such context or the slot is live; a group of this chip that the slot still has to close is closed
first (log 73). ARM carries no target and no abandonable flag:
those are free values (log 8). -/
def execArmMsg (src cid slot t : Nat) (s : State) : Out :=
  let refused := cid = 0 || !s.ctxValid cid || ((s.ctx cid).snap slot).st.isLive
  if refused then .next (s.send src (.armAnswer cid slot false))
  else
    let (v, s) := (s.closeGroup cid slot).draw
    let n : Snap := { Snap.free with
      st := .armed, t := t, origin := src, past := s.pastGroups ((s.ctx cid).snap slot), target := bits v.toNat 1 0, abnd := bit v.toNat 2, armedAt := s.gtc }
    .next ((s.onCtx cid fun c => c.setSnap slot n).send src (.armAnswer cid slot true))

/-- ARM_ANSWER_MSG (R124): an acceptance counts only before T - 1 us. -/
def execArmAnswerMsg (chip cid slot : Nat) (ok : Bool) (s : State) : Out :=
  let n := (s.ctx cid).snap slot
  if s.undecided n && n.mask.getLsbD chip then
    .next (s.onCtx cid fun c => c.setSnap slot
      (if ok then (if s.gtc + 1000 < n.t then { n with answers := n.answers ||| chipBit chip } else n)
       else { n with refused := n.refused ||| chipBit chip }))
  else .next s

/-- ARM_DEADLINE (R124): at T - 1 us the issuing chip confirms or cancels. -/
def execArmDeadline (cid slot : Nat) (s : State) : Out :=
  let n := (s.ctx cid).snap slot
  .next (if n.t ≤ s.gtc + 1000 then s.closeGroup cid slot else s)

/-- CONFIRM_MSG (R124), of the chip that issued the slot's snapshot. -/
def execConfirmMsg (cid : Nat) (w : GroupSlot) (s : State) : Out :=
  let n := (s.ctx cid).snap w.slot
  .next (if n.st != .free && n.origin == w.src then s.confirmSnap cid w.slot else s)

/-- CANCEL_MSG (R124), of the chip that issued the slot's snapshot. -/
def execCancelMsg (cid : Nat) (w : GroupSlot) (s : State) : Out :=
  let n := (s.ctx cid).snap w.slot
  .next (if n.st != .free && n.origin == w.src then s.cancelSnap cid w.slot else s)

/-- SNAPSHOT_QUERY_TIMER (R124): every 100 us a PENDING slot asks the issuing chip again. -/
def execSnapshotQueryTimer (cid slot : Nat) (s : State) : Out :=
  let n := (s.ctx cid).snap slot
  if n.st == .pending && n.origin != s.dev.chip && Nat.max n.t n.lastProg + 100000 ≤ s.gtc then
    .next ((s.onCtx cid fun c => c.setSnap slot { n with lastProg := s.gtc }).send n.origin (.snapQuery cid slot n.t))
  else .next s

/-- SNAPSHOT_QUERY_MSG (R124): the issuing chip repeats what it decided of the group of the instant that the query names, also when the slot has
been armed again since (log 101). -/
def execSnapshotQueryMsg (src cid : Nat) (w : SlotAsk) (s : State) : Out :=
  let n := (s.ctx cid).snap w.slot
  if n.origin == s.dev.chip && n.st != .free && n.t == w.t then
    .next (if n.confirmed then s.send src (.confirm cid w.slot) else if n.cancelled then s.send src (.cancel cid w.slot) else s)
  else match n.past.find? fun p => p.1 == w.t with
    | some p => .next (s.send src (if p.2 then .confirm cid w.slot else .cancel cid w.slot))
    | none => .next s

/-! ### The decant (R126, R128) -/

/-- The pages of the image still held in place, ascending (R121): owned, and not written by a covered write since T. -/
def State.inPlace (s : State) (cid slot : Nat) : List Nat :=
  (s.tags.filter fun (_, t) => tagOwner t == cid && tagGen t ≤ ((s.ctx cid).snap slot).gen).map Prod.fst

/-- The frames the slot holds, in order of copy. -/
def Ctx.framesOf (c : Ctx) (slot : Nat) : List (Nat × Frame) := sortLe (fun a b => decide (a.2.order ≤ b.2.order)) (c.heldBy slot)

/-- The storage of a page's committed contents: a redirected page's frame, else the page (R135, R138). -/
def State.committedHome (s : State) (p : Nat) : Nat :=
  if tagMode (s.tag p) = 2 then (s.ctx (tagOwner (s.tag p))).frameAddr (tagFrm (s.tag p)) else p * 65536

/-- The next page to decant: its number, where its contents lie, and whether they come from a frame that the snapshot holds. A page held
in place counts as no frame's, also while it is redirected (log 74). -/
def State.nextDecant (s : State) (cid slot : Nat) : Option (Nat × Nat × Bool) :=
  let c := s.ctx cid
  let n := c.snap slot
  match (c.framesOf slot).find? fun (_, f) => !n.decanted.contains f.origin with
  | some (k, f) => some (f.origin, c.frameAddr k, true)
  | none => ((s.inPlace cid slot).find? fun p => !n.decanted.contains p).map fun p => (p, s.committedHome p, false)

/-- The 64-byte page header and the 65,536 bytes of a page; a poisoned sector holds zero (R126). -/
def State.decantRecord (s : State) (p a : Nat) (frm : Bool) : List Byte :=
  let bad (n : Nat) : Bool := poisoned 64 s.hbmPoison (a + 256 * n) 256 || s.channelFailed (a + 256 * n)
  let psec := (List.range 256).foldl (fun acc n => if bad n then acc + 2 ^ n else acc) 0
  let bs := (List.range 256).flatMap fun n => if bad n then List.replicate 256 0 else s.hbm.read (a + 256 * n) 256
  toBytes 64 (p % 2 ^ 28 + flag frm 28 + flag (psec != 0) 29 + crc32c bs * 2 ^ 32 + psec * 2 ^ 64) ++ bs

/-- The stream header and the trailer (R126). -/
def State.decantHeader (s : State) (cid slot npg : Nat) : List Byte :=
  let n := (s.ctx cid).snap slot
  toBytes 64 (0x44434E31 + cid * 2 ^ 32 + slot * 2 ^ 44 + s.dev.chip * 2 ^ 46 + n.t * 2 ^ 64 + n.gen * 2 ^ 128 + npg * 2 ^ 160)
def Snap.trailer (n : Snap) : List Byte :=
  toBytes 64 (0x44434E32 + n.npg * 2 ^ 32 + (n.crc ^^^ 0xFFFFFFFF) % 2 ^ 32 * 2 ^ 64)

/-- The bytes that the buffers of a host-named ring have left; each is the address of its next byte and the bytes left. -/
def ringRoom (bs : List (Nat × Nat)) : Nat := (bs.map Prod.snd).sum

/-- Bytes written through the buffers of a ring in order; a buffer that is full leaves the ring. -/
def ringWrite (m : Memory) : List (Nat × Nat) → List Byte → Memory × List (Nat × Nat)
  | [], _ => (m, [])
  | (a, n) :: rs, bs =>
    let m' := m.write a (bs.take n)
    if bs.length < n then (m', (a + bs.length, n - bs.length) :: rs) else ringWrite m' rs (bs.drop n)

/-- Bytes of the stream sent to the slot's target, to another chip in granules of 32 bytes (R469); no answer while a ring has no room (R125,
R128). -/
def State.decantTo (s : State) (cid slot : Nat) (bs : List Byte) : Option State :=
  let c := s.ctx cid
  let n := c.snap slot
  let t := c.tgt n.target
  let on (s : State) : State :=
    s.onCtx cid fun c => c.setSnap slot { c.snap slot with pos := n.pos + bs.length, lastProg := s.gtc }
  match tgtKind t with
  | 1 => some (on { s with hostMem := s.hostMem.write (tgtAddr t + n.pos) bs })
  | 2 =>
    let cs := chunks 32 (tgtAddr t + n.pos) bs
    if !s.tagsFree .decant cs.length then none
    else some (on (cs.foldl (fun s c => s.request (tgtChip t) (.decant cid slot n.t) fun tag => .decant tag c.1 c.2) s))
  | _ =>
    let r := NMap.get [] c.rings (tgtRing t)
    if ringRoom r < bs.length then none
    else
      let (m, r') := ringWrite s.hostMem r bs
      some (on (({ s with hostMem := m }).onCtx cid fun c => { c with rings := NMap.set [] c.rings (tgtRing t) r' }))

/-- The stream begins: the pages are counted and the header is written; no answer if the capacity is short (R126, R128). -/
def State.decantBegin (s : State) (cid slot : Nat) : Option (Option State) :=
  let c := s.ctx cid
  let n := c.snap slot
  let npg := (c.framesOf slot).length + (s.inPlace cid slot).length
  if tgtCap (c.tgt n.target) < npg + cdiv (64 * npg + 128) 65536 then none
  else
    let s := s.onCtx cid fun c => c.setSnap slot { n with header := true, npg := npg, crc := 0xFFFFFFFF, pos := 0 }
    some (s.decantTo cid slot (s.decantHeader cid slot npg))

/-- DECANT_PAGE (R126, R128): the header first if the stream has not begun, then one page to the target, which accepts or refuses
it; a frame is released by the slot once it is decanted. A sealed page is read once its outcome has been applied (R132, R138). -/
def execDecantPage (cid slot : Nat) (accepted : Bool) (s : State) : Out :=
  let c := s.ctx cid
  if c.decanting != some slot then .next s
  else if !(c.snap slot).header then
    (match s.decantBegin cid slot with
    | none => .next (s.endSnap cid slot .failed 0x34)
    | some none => .next s
    | some (some t) => .next (if accepted then t else s.endSnap cid slot .failed 0x34))
  else match s.nextDecant cid slot with
    | none => .next s
    | some (p, a, frm) =>
      let bs := s.decantRecord p a frm
      if !frm && s.sealed p then .next s
      else if !accepted then .next (s.endSnap cid slot .failed 0x34)
      else match s.decantTo cid slot bs with
        | none => .next s
        | some t => .next (t.onCtx cid fun c =>
            let n := c.snap slot
            { c.setSnap slot { n with decpg := n.decpg + 1, decanted := n.decanted ++ [p], crc := crcRun n.crc (bs.take 64) } with
              frames := c.frames.filterMap fun (k, f) =>
                match f with
                | none => none
                | some f =>
                  let f' := if frm && f.origin == p then { f with holders := f.holders.filter (· != slot) } else f
                  if f'.holders.isEmpty && !f'.staged then none else some (k, some f') })

/-- A write of the decant of instant `t` belongs to the snapshot that the slot holds now: one of an ended snapshot changes nothing (R128). -/
def Ctx.decantOf (c : Ctx) (slot t : Nat) : Bool := (c.snap slot).st.isLive && (c.snap slot).t == t

/-- The bytes of the whole stream of a snapshot. -/
def Snap.streamLen (n : Snap) : Nat := 64 + n.npg * 65600 + 64

/-- DECANT_DONE (R126): after every page the trailer is written; once it is visible at the target the slot is DONE. -/
def execDecantDone (cid slot : Nat) (accepted : Bool) (s : State) : Out :=
  let c := s.ctx cid
  let n := c.snap slot
  if c.decanting != some slot || !n.header || (s.nextDecant cid slot).isSome then .next s
  else if n.pos < n.streamLen then
    if !accepted then .next (s.endSnap cid slot .failed 0x34)
    else match s.decantTo cid slot n.trailer with
      | none => .next s
      | some t => .next (if tgtKind (c.tgt n.target) = 2 then t else t.endSnap cid slot .done 0)
  else if s.reqs.any fun r => r.owner == .decant cid slot n.t then .next s
  else .next (s.endSnap cid slot .done 0)

/-- DECTMO in ns (R137). -/
def State.dectmo (s : State) : Nat := Nat.max 1 (bits s.dev.gen.toNat 41 26) * 10 ^ 6

/-- DECANT_TIMEOUT (R128): no progress for DECTMO since the engine last progressed or came to serve the slot. -/
def execDecantTimeout (cid slot : Nat) (s : State) : Out :=
  let c := s.ctx cid
  let last := Nat.max (Nat.max (c.snap slot).t (c.snap slot).lastProg) c.decFree
  if c.decanting == some slot && last + s.dectmo ≤ s.gtc then
    .next (s.endSnap cid slot .failed 0x34)
  else .next s

/-! ### Requests of other chips (R45, R61, R63, R467) -/

/-- The answer to a request of another chip, remembered if the request has performed (R467). -/
def State.respond (s : State) (src : TagSource) (tag : Nat) (st : RespStatus) (data : List Byte) : State :=
  let s : State := if st = .done then
      { s with remembered := s.remembered ++ [{ src := src, tag := tag, at_ := s.gtc, st := st, data := data }] } else s
  s.send src.chip (.response { agent := src.agent, tag := tag } st data)

/-- What a request finds at its target: an answer, with the state after it; a wait; or another chip's host window, whose answer comes
later. -/
inductive PeerAns where
  | done (s : State) (data : List Byte) | refuse (st : RespStatus) | waits (s : State)

/-- A request of another chip: refused if that chip is fenced, answered from memory if it has performed before, else run. -/
def State.peerRequest (s : State) (src : TagSource) (tag : Nat) (run : State → PeerAns) : Out :=
  if s.fencedChip src.chip || src.chip = s.dev.chip || 64 ≤ src.chip then .next s
  else match s.remembered.find? fun r => r.src == src && r.tag == tag with
    | some r => .next (s.send src.chip (.response { agent := src.agent, tag := tag } r.st r.data))
    | none =>
      match run s with
      | .done t data => .next (t.respond src tag .done data)
      | .refuse st => .next (s.respond src tag st [])
      | .waits t => .next t

/-- A message of a transaction slot arrives from another chip, which hears that it has (R133, R467). -/
def State.txArrival (s : State) (chip tag : Nat) (run : State → State) : Out :=
  s.peerRequest { chip := chip, agent := .samovar } tag fun s => .done (run s) []

/-! ### Transactions (R130-R135) -/

def State.votetmo (s : State) : Nat := Nat.max 10 (bits s.dev.gen.toNat 15 0) * 1000
def State.txlead (s : State) : Nat := Nat.max 5 (bits s.dev.gen.toNat 25 16) * 1000

/-- A vote reaches the coordinator (R133): one that comes once VOTETMO has elapsed finds the vote phase timed out; a mismatch or a no aborts, and so does the vote of a chip that is not in the mask (0x3D), which
hears the outcome like the others; the last yes before VOTETMO sends DECIDE, which the coordinator, as a participant, acknowledges at
once. -/
def State.vote (s : State) (chip cid slot txid : Nat) (mask : BitVec 64) (yes : Bool) : State :=
  let x := (s.ctx cid).tx slot
  if !(x.st == .open || x.st == .voted) then s
  else if !x.mask.getLsbD chip then (s.txAbort cid slot 0x3D).sendTx cid slot chip fun t => .outcome t cid slot 0 0x3D
  else if x.begun + s.votetmo ≤ s.gtc then s.txAbort cid slot 0x39
  else if txid != x.txid || mask != x.mask then s.txAbort cid slot 0x3D
  else if !yes then s.txAbort cid slot 0x38
  else
    let vs := x.votes ||| chipBit chip
    if vs = x.mask && x.st == .voted then
      let tc := s.gtc + s.txlead
      (s.others x.mask).foldl (fun s k => s.sendTx cid slot k fun t => .decide t cid slot tc)
        (s.onCtx cid fun c => c.setTx slot { x with votes := vs, st := .decided, tc := tc, acks := chipBit s.dev.chip })
    else s.onCtx cid fun c => c.setTx slot { x with votes := vs }

/-- VOTE_MSG (R133): a vote that reaches the coordinator before its own TXBEGIN is kept for it. -/
def execVoteMsg (chip cid : Nat) (w : TxTag) (txid : Nat) (mask : BitVec 64) (yes : Bool) (s : State) : Out :=
  s.txArrival chip w.tag fun s =>
    let x := (s.ctx cid).tx w.slot
    if x.st == .open || x.st == .voted then s.vote chip cid w.slot txid mask yes
    else if x.st == .free || ((x.st == .committed || x.st == .aborted) && txid != x.txid) then
      s.onCtx cid fun c => c.setTx w.slot { x with early := x.early ++ [(chip, txid, mask, yes)] }
    else s

/-- What a page of a TXBEGIN window may be (R129, R130): it passes, with its physical page; it is redirected; the walk waits or
meets poison; or the window is malformed. -/
inductive WinPage where
  | ok (p : Nat) | redirected | waits | bad | poison (a : Nat)
  deriving DecidableEq, Repr

/-- One page of a window under the issuing context (R129, code 0x3C). -/
def State.winPage (s : State) (cid va : Nat) : WinPage × State :=
  match s.resolve s.focus cid va .acore [pAW] with
  | (.fault _, t) => (.bad, t)
  | (.waits, t) => (.waits, t)
  | (.poison a, t) => (.poison a, t)
  | (.at_ p pa, t) =>
    let g := t.tag (pageOf pa)
    (if p != Place.hbm || tagOwner g != cid || tagMode g == 1 || tagMode g == 3 then .bad
     else if tagMode g == 2 then .redirected
     else .ok (pageOf pa), t)

/-- The pages of a window from `va` on, up to the first that does not pass; a redirected page is noted and passed over. -/
def State.winPages (s : State) (cid : Nat) : Nat → Nat → List Nat → Bool → WinPage × List Nat × Bool × State
  | 0, _, acc, red => (.ok 0, acc, red, s)
  | k + 1, va, acc, red =>
    match s.winPage cid va with
    | (.ok p, t) => t.winPages cid k (va + 65536) (acc ++ [p]) red
    | (.redirected, t) => t.winPages cid k (va + 65536) acc true
    | (r, t) => (r, acc, red, t)

/-- The pages of all windows. -/
def State.allPages (s : State) (cid : Nat) : List (Nat × Nat) → List Nat → Bool → WinPage × List Nat × Bool × State
  | [], acc, red => (.ok 0, acc, red, s)
  | (base, len) :: ws, acc, red =>
    if base % 65536 != 0 || len % 65536 != 0 then (.bad, acc, red, s)
    else match s.winPages cid (len / 65536) base acc red with
      | (.ok _, acc, red, t) => t.allPages cid ws acc red
      | r => r

/-- The named fence windows; none if W is 0 or one is empty or of scratchpad space (R313). -/
def ACore.txWindows (a : ACore) (w : Nat) : Option (List (Nat × Nat)) :=
  let ws := ((List.range 8).filter (bit w)).map fun i => NMap.get none a.wins i
  if ws.isEmpty || ws.any (fun w => match w with
      | some w => w.sp
      | none => true) then none
  else some (ws.filterMap fun w => w.map fun w => (w.base, w.len))

/-- The slot opens (R130): its pages are staged, and a coordinator acts on the votes it has already received. A chip that its own
mask leaves out aborts at once with 0x3D (R129). -/
def State.openTx (s : State) (cid slot txid : Nat) (mask : BitVec 64) (wins : List (Nat × Nat)) (ps : List Nat)
    (word : Option (Nat × Nat)) (begun : Nat) : State :=
  let early := ((s.ctx cid).tx slot).early
  let x : Tx := { Tx.free with st := .open, txid := txid, mask := mask, windows := wins, word := word, cl := s.focus, begun := begun }
  let s := s.onCtx cid fun c => c.setTx slot x
  let s := ps.foldl (fun s p => s.setTag p (setBits (setBits (s.tag p) 51 50 slot) 49 48 1)) s
  if !mask.getLsbD s.dev.chip then (s.txOutcome cid slot 0 0x3D).1
  else if coordOf mask = s.dev.chip then early.foldl (fun s (k, t, m, y) => s.vote k cid slot t m y) s
  else s

/-- The checks of the completion operand of TXBEGIN: a word of the cluster's own scratchpad. -/
def State.txbeginErr (s : State) (f : AF) : Option Flt :=
  let vw := (s.g f.sa).toNat
  let own := match locEp s.focus vw with
    | .sp c _ => c == s.focus
    | _ => true
  firstFlt [s.wordForm vw, s.wordScope s.focus vw, orSpace (vw == 0 || own) kScope vw, s.wordExt s.focus vw,
    s.wordAlign s.focus vw, s.wordOwner s.focus vw]

/-- TXBEGIN (R313, R130): refusals 0x3E and 0x3C through gd; it waits while a page is redirected. The vote timer runs from its
issue. -/
def execTxbegin (f : AF) (s : State) : Out :=
  let m := f.imm.toNat
  let cid := s.runCid s.focus
  let vw := (s.g f.sa).toNat
  if !s.ready [f.d, f.sa, f.sb] then .next s
  else match s.txbeginErr f with
    | some e => .next (s.trapFlt e)
    | none =>
      if ((s.ctx cid).tx (bits m 1 0)).st != .free then .next (s.result f.d 0x3E)
      else match s.a.txWindows (bits m 9 2) with
        | none => .next (s.result f.d 0x3C)
        | some ws =>
          match s.allPages cid ws [] false with
          | (.ok _, ps, red, t) =>
            if red then .next (t.waitAt .txbegin f f.d)
            else
              let since := match t.a.wait with
                | some w => w.since
                | none => t.clk
              .next ((t.openTx cid (bits m 1 0) (bits m 31 16) (t.g f.sb) ws ps (wordOf t.focus vw)
                (t.gtc - (t.clk - since) * 4 / 5)).result f.d 0)
          | (.poison a, _, _, t) => .next (t.walkPoison t.focus cid a)
          | (.waits, _, _, t) => .next (t.waitAt .txbegin f f.d)
          | (_, _, _, t) => .next (t.result f.d 0x3C)

/-- Whether a command's endpoint meets a global range. -/
def Cmd.meetsGlobal (k : Cmd) (base len : Nat) : Bool :=
  let hits (e : Ep) (lo hi : Int) : Bool := match e with
    | .va a => decide ((a : Int) + lo < base + len) && decide ((base : Int) ≤ a + hi)
    | _ => false
  match k.kind, k.tpl with
  | .xcopy, some t =>
    (let b := tplBox t tplSrc k.src
     let d := tplBox t tplDst k.dst
     hits k.src b.lo b.hi || hits k.dst d.lo d.hi)
  | .gather, some r =>
    (let b := recBox r
     hits k.src b.1 b.2)
  | _, _ => hits k.src 0 (k.count - 1) || hits k.dst 0 (k.count - 1)
    || (k.stamp.isSome && hits k.dst (k.aux - epAddr' k.dst) (k.aux + 7 - epAddr' k.dst))
where
  epAddr' : Ep → Int
    | .va a | .sp _ a | .tw _ a => a
    | .none => 0

/-- Step 1 of a vote (R132): every earlier access of the core has performed, and every command whose extent meets a window. -/
def State.voteDrained (s : State) (ws : List (Nat × Nat)) : Bool :=
  (s.runA s.focus).accs.all (fun l => !l.pending)
    && (s.runCmds s.focus).all fun k => k.hasPerformed || !(ws.any fun (b, n) => k.meetsGlobal b n)

/-- Samovar writes a record if the coordinator of a sealed slot is fenced (R134). -/
def State.coordLost (s : State) (cid slot : Nat) : State :=
  let x := (s.ctx cid).tx slot
  if coordOf x.mask != s.dev.chip && s.fencedChip (coordOf x.mask) && (x.st == .voted || x.st == .decided) then
    s.report srcSamovar 0 0x14 cid 0 0 x.txid 0 0
  else s

/-- TXCOMMIT (R314, R132): in OPEN the vote, after step 1; the pages are sealed by the state VOTED. -/
def execTxcommit (f : AF) (s : State) : Out :=
  let slot := bits f.imm.toNat 1 0
  let cid := s.runCid s.focus
  let x := (s.ctx cid).tx slot
  if !s.ready [f.d] then .next s
  else if x.st != .open then .next (s.result f.d (BitVec.ofNat 64 x.st.code))
  else if !s.voteDrained x.windows then .next (s.waitAt .txcommit f f.d)
  else
    let t := s.onCtx cid fun c => c.setTx slot { x with st := .voted, lastAsk := s.gtc }
    let t := if coordOf x.mask = s.dev.chip then t.vote s.dev.chip cid slot x.txid x.mask true
             else (t.sendTx cid slot (coordOf x.mask) fun q => .vote q cid slot x.txid x.mask true).coordLost cid slot
    .next (t.result f.d 9)

/-- The closed pages of a slot become plain and the slot FREE (R134, R135). -/
def State.freeTx (s : State) (cid slot : Nat) : State :=
  let t := s.tags.filter fun (_, t) => tagOwner t == cid && tagMode t == 3 && tagTxs t == slot
  let s := t.foldl (fun s (p, _) => s.setTag p (setBits (setBits (s.tag p) 49 48 0) 51 50 0)) s
  s.onCtx cid fun c => c.setTx slot { Tx.free with early := (c.tx slot).early }

/-- TXABORT (R314): VOTE(no) in OPEN, the slot freed in COMMITTED or ABORTED. -/
def execTxabort (f : AF) (s : State) : Out :=
  let slot := bits f.imm.toNat 1 0
  let cid := s.runCid s.focus
  let st := ((s.ctx cid).tx slot).st
  let g := BitVec.ofNat 64 (st.code + flag (st == .open || st == .committed || st == .aborted) 3)
  if !s.ready [f.d] then .next s
  else if st == .open then .next ((s.txAbort cid slot 0x38).result f.d g)
  else if st == .committed || st == .aborted then .next ((s.freeTx cid slot).result f.d g)
  else .next (s.result f.d g)

/-- TXSTATE (R314, R136). -/
def execTxstate (f : AF) (s : State) : Out :=
  whenReady s [f.d] (s.result f.d (BitVec.ofNat 64 (s.txWord (s.runCid s.focus) (bits f.imm.toNat 1 0))))

/-- A core that waits at a TXBEGIN of a slot, and that instruction. -/
def State.txWaiter (s : State) (cid slot : Nat) : Option (Nat × AF) :=
  s.listed.findSome? fun (n, c) =>
    match c.a.wait with
    | some w => if w.kind == .txbegin && bits w.f.imm.toNat 1 0 == slot && s.runCid n == cid then some (n, w.f) else none
    | none => none

/-- TXBEGIN_OPEN (R130): a core that waits at a TXBEGIN of the slot looks again. -/
def execTxbeginOpen (cid slot : Nat) (s : State) : Out :=
  match s.txWaiter cid slot with
  | none => .next s
  | some (n, f) =>
    let t : State := { s with focus := n }
    t.waited (execTxbegin f t)

/-- VOTE_TIMEOUT (R129, R133, R467): the vote phase ends without every vote, because VOTETMO has elapsed, or because Slober Link has failed
to deliver a vote, which is an outcome of the link (log 11). -/
def execVoteTimeout (cid : Nat) (w : VoteWait) (s : State) : Out :=
  let x := (s.ctx cid).tx w.slot
  if (x.st == .open || x.st == .voted) && coordOf x.mask == s.dev.chip && x.votes != x.mask
      && (w.lost || decide (x.begun + s.votetmo ≤ s.gtc)) then
    .next (s.txAbort cid w.slot (if w.lost then 0x3A else 0x39))
  else .next s

/-- DECIDE_MSG (R133): a participant that has voted is DECIDED, and answers ACK if Tc is still to come. -/
def execDecideMsg (cid : Nat) (w : TxFrom) (tc : Nat) (s : State) : Out :=
  s.txArrival w.src w.tag fun s =>
    let x := (s.ctx cid).tx w.slot
    if x.st != .voted then s
    else
      let t := s.onCtx cid fun c => c.setTx w.slot { x with st := .decided, tc := tc }
      if s.gtc < tc then t.sendTx cid w.slot (coordOf x.mask) fun q => .txAck q cid w.slot else t

/-- TX_ACK_MSG (R133): an ACK counts before Tc. -/
def execTxAckMsg (chip cid : Nat) (w : TxTag) (s : State) : Out :=
  s.txArrival chip w.tag fun s =>
    let x := (s.ctx cid).tx w.slot
    if x.st == .decided && coordOf x.mask == s.dev.chip && s.gtc < x.tc then
      s.onCtx cid fun c => c.setTx w.slot { x with acks := x.acks ||| chipBit chip }
    else s

/-- TX_DECISION (R133): at Tc the coordinator commits if it holds every ACK, else aborts, and sends OUTCOME. It waits while its own
commit waits for a frame (R127). -/
def execTxDecision (cid slot : Nat) (s : State) : Out :=
  let x := (s.ctx cid).tx slot
  if x.st == .decided && coordOf x.mask == s.dev.chip && x.tc ≤ s.gtc then
    let code := if x.acks &&& x.mask = x.mask then 0 else 0x3A
    match s.txOutcome cid slot x.tc code with
    | (t, true) => .next ((s.others x.mask).foldl (fun s k => s.sendTx cid slot k fun q => .outcome q cid slot x.tc code) t)
    | (t, false) => .next t
  else .next s

/-- OUTCOME_MSG (R133-R135): a participant applies the outcome; it waits while a commit waits for a frame. -/
def execOutcomeMsg (cid : Nat) (w : TxFrom) (tc code : Nat) (s : State) : Out :=
  s.peerRequest { chip := w.src, agent := .samovar } w.tag fun s =>
    let x := (s.ctx cid).tx w.slot
    if x.st == .open || x.st == .voted || x.st == .decided then
      match s.txOutcome cid w.slot tc code with
      | (t, true) => .done t []
      | (t, false) => .waits t
    else .done s []

/-- OUTCOME_QUERY_TIMER (R134): every 100 us a sealed participant asks the coordinator again. -/
def execOutcomeQueryTimer (cid slot : Nat) (s : State) : Out :=
  let x := (s.ctx cid).tx slot
  if (x.st == .voted || x.st == .decided) && coordOf x.mask != s.dev.chip && x.lastAsk + 100000 ≤ s.gtc then
    .next ((s.onCtx cid fun c => c.setTx slot { x with lastAsk := s.gtc }).send (coordOf x.mask) (.outcomeQuery cid slot))
  else .next s

/-- OUTCOME_QUERY_MSG (R134): the coordinator repeats the outcome of the slot's transaction; a chip outside its mask hears an abort. A slot
that is free by then answers nothing, and one that has been used again answers for the transaction that it holds (log 75). -/
def execOutcomeQueryMsg (src cid slot : Nat) (s : State) : Out :=
  let x := (s.ctx cid).tx slot
  if x.st == .committed || x.st == .aborted then
    .next (s.sendTx cid slot src fun t => if x.mask.getLsbD src then .outcome t cid slot x.tc x.code else .outcome t cid slot 0 0x3D)
  else .next s

/-- TX_FOLD (R135): the committed frame is copied back into its page, which becomes plain, and is freed. A fold waits while the
page migrates. -/
def execTxFold (page : Nat) (s : State) : Out :=
  let g := s.tag page
  if tagMode g != 2 || s.pageSt page != .inService then .next s
  else
    let t := s.copyPage (s.homeOf page) (page * 65536)
    let t := t.onCtx (tagOwner g) fun c => c.setFrame (tagFrm g) none
    .next (t.setTag page (setBits (setBits (setBits g 87 64 0) 51 50 0) 49 48 0))

/-! ### What the fencing of a chip does to groups (R127, R133, R134) -/

/-- Transactions and snapshots of one context after chip `k` has been fenced: a coordinator aborts before Tc with 0x3A, a
participant whose coordinator is fenced has Samovar write a record, and a PENDING slot of that chip fails. -/
def State.fenceGroups (s : State) (k cid : Nat) : State :=
  [0, 1, 2, 3].foldl (fun s i =>
    let x := (s.ctx cid).tx i
    let n := (s.ctx cid).snap i
    let s := if x.mask.getLsbD k && coordOf x.mask == s.dev.chip && k != s.dev.chip
        && (x.st == .open || x.st == .voted || (x.st == .decided && decide (s.gtc < x.tc))) then s.txAbort cid i 0x3A
      else if coordOf x.mask == k then s.coordLost cid i
      else s
    if n.st == .pending && n.origin == k && k != s.dev.chip then s.endSnap cid i .failed 0x32 else s) s

end Sys2Proof.Machine
end

