-- ==== Sys2Proof/Machine/Disp.lean ====
section
/-! DEFINITION. The dispatcher (R172-R180, R202-R204, R391-R412): nodes and their acceptance, dependences, the start barrier, the
ready pool and placement, completion and failure, and replacement of code. -/

namespace Sys2Proof.Machine

/-! ### Node descriptors (R392, R393, R173) -/

/-- The number that 64-bit words hold, the first lowest. -/
def ofDwords : List Nat → Nat
  | [] => 0
  | d :: ds => d % 2 ^ 64 + 2 ^ 64 * ofDwords ds

/-- The low `n` 64-bit words of a number. -/
def toDwords (n v : Nat) : List Nat := (List.range n).map fun i => bits v (64 * i + 63) (64 * i)

/-- The levels of a loop table: extent and kind. -/
def descLoops (d : Nat) : List (Nat × Nat) :=
  (List.range 6).map fun n => (bits d (384 + 64 * n + 31) (384 + 64 * n), bits d (384 + 64 * n + 33) (384 + 64 * n + 32))
/-- The declared operands: handle and mode. -/
def descOpers (d : Nat) : List (Nat × Nat) :=
  (List.range (Nat.min 32 (bits d 19 14))).map fun i =>
    (bits d (1024 + 32 * i + 15) (1024 + 32 * i), bits d (1024 + 32 * i + 17) (1024 + 32 * i + 16))

/-- The node of a descriptor, as it enters a table. -/
def nodeOf (d queue order origin originId : Nat) : Node :=
  { id := originId, cid := bits d 11 0, prio := bits d 13 12, ntag := bits d 63 32, aentry := bits d 115 64, xentry := bits d 179 128,
    exts := [], arg0 := bits d 255 192, arg1 := bits d 319 256, chipmask := BitVec.ofNat 64 (bits d 383 320), loops := descLoops d,
    opers := descOpers d, queue := queue, order := order, origin := origin, originId := originId, st := .waiting, failing := 0,
    next := 0, requeued := [], parked := [], susp := [], retired := 0, grows := [], badCl := [], rung4 := [], poisonHit := [],
    poolSeq := 0, waitFrom := 0, gen := 0, ts := 0, readyMask := 0, refusals := 0, started := false, reports := 0,
    reportTasks := 0, repls := [], finishedAt := 0 }

/-- The loop table obeys R174. -/
def loopsOk (ls : List (Nat × Nat)) : Bool :=
  let used := ls.filter fun l => l.2 != 0
  let n := used.length
  (ls.take n).all (fun l => l.2 != 0) && used.all (fun l => l.1 != 0)
    && (used.dropLast).all (fun l => l.2 != 3) && (used.getLast?.all fun l => l.2 != 3 || decide (l.1 ≤ 64))
    && decide ((used.filter fun l => l.2 == 2).foldl (fun p l => p * l.1) 1 ≤ 2 ^ 32 - 1)

/-- The extent of the level spatial over chips, if there is one. -/
def chipExt (ls : List (Nat × Nat)) : Option Nat := (ls.find? fun l => l.2 == 3).map Prod.fst

/-- Entry addresses of both streams in the layout of R392 and R410, from bit 64 on, are aligned to 8 and 64; addresses of 52 bits are canonical,
and the reserved bits above them are ignored (R6; log 18). -/
def entriesOk (d : Nat) : Bool := bits d 115 64 % 8 == 0 && bits d 179 128 % 64 == 0

/-- The refusal code of a submit, the lowest that applies; 0 accepts (R394). Reserved fields are ignored (R6, R392, log 18). -/
def State.submitCode (s : State) (d : Nat) : Nat :=
  let cid := bits d 11 0
  let mask := bits d 383 320
  let os := descOpers d
  if cid = 0 || !s.ctxValid cid then 0x60
  else if !loopsOk (descLoops d) then 0x61
  else if !(match chipExt (descLoops d) with
      | none => mask == 0
      | some e => bit mask s.dev.chip && popc mask 64 == e) then 0x62
  else if !(decide (bits d 19 14 ≤ 32) && os.all (fun o => o.2 != 0 && o.1 != 0 && decide (o.1 < s.hcount cid))
      && decide ((os.map Prod.fst).eraseDups.length = os.length)) then 0x63
  else if !entriesOk d then 0x64
  else if (s.ctx cid).aborted then 0x66
  else 0

/-! ### Host queues (R456) -/

/-- Ring sizes of a host queue: 2^4 to 2^12 (R456). -/
def ringLog (v : Nat) : Nat := if 4 ≤ v && v ≤ 12 then v else 4
def Queue.plog (q : Queue) : Nat := ringLog (bits q.pcfg.toNat 3 0)
def Queue.pbase (q : Queue) : Nat := bits q.pcfg.toNat 41 12 * 4096
def Queue.en (q : Queue) : Bool := q.qcfg.getLsbD 4

def State.queue (s : State) (q : Nat) : Queue := NMap.get Queue.reset s.queues q
def State.setQueue (s : State) (q : Nat) (v : Queue) : State := { s with queues := NMap.set Queue.reset s.queues q v }

/-! ### The node table (R395) -/

/-- The identifier of table entry `e`. -/
def State.nodeId (s : State) (e : Nat) : Nat := e + NMap.get 0 s.disp.reuse e % 2 ^ 20 * 4096

/-- The live entry that an identifier of this chip names. -/
def State.entryOf (s : State) (id : Nat) : Option Nat :=
  if (s.node? (id % 4096)).isSome && s.nodeId (id % 4096) == id then some (id % 4096) else none

/-- The entry of this chip's replica of a node of chip `origin`. -/
def State.replicaOf (s : State) (origin id : Nat) : Option Nat :=
  (s.disp.nodes.find? fun (_, n) => n.any fun n => n.origin == origin && n.originId == id).map Prod.fst

/-- The nodes of the table in order of acceptance. -/
def State.nodeList (s : State) : List (Nat × Node) :=
  sortLe (fun a b => decide (a.2.order ≤ b.2.order)) (s.disp.nodes.filterMap fun (e, n) => n.map fun n => (e, n))

def State.putNode (s : State) (e : Nat) (n : Option Node) : State :=
  { s with disp := { s.disp with nodes := NMap.set none s.disp.nodes e n } }

/-- Clusters that hold a task of entry `e`. -/
def State.holders (s : State) (e : Nat) : List Nat :=
  (s.listed.filter fun (_, c) => c.ctl.occ != .free && c.ctl.node == e).map Prod.fst

/-- The other chips of a node's replicas. -/
def State.replicas (s : State) (n : Node) : List Nat := (chipsOf n.chipmask).filter (· != s.dev.chip)

/-! ### Failure, dependences and the pool (R396-R398, R409) -/

/-- A node leaves the pool. -/
def State.leavePool (s : State) (e : Nat) : State :=
  { s.onNode e fun n => { n with poolSeq := 0 } with disp := { (s.onNode e fun n => { n with poolSeq := 0 }).disp with
      pool := s.disp.pool.filter (· != e) } }

/-- Whether task `t` of entry `e` is on a cluster. -/
def State.taskPlaced (s : State) (e t : Nat) : Bool := s.listed.any fun (_, c) => c.ctl.occ != .free && c.ctl.node == e && c.ctl.task == t

/-- A node fails with a status (R409): no further task is placed, pending and suspended tasks are dropped; a task that is being restored on a
cluster runs on. -/
def State.fail1 (s : State) (e status : Nat) : State :=
  match s.node? e with
  | none => s
  | some n =>
    if n.failing != 0 then s
    else match n.st with
      | .done _ => s
      | _ => (((s.dropLate fun k t => k == e && !s.taskPlaced e t).dropRecords (n.susp.filter fun r => !s.taskPlaced e r.task)).onNode e fun n =>
          { n with failing := status, finishedAt := s.gtc, next := n.total, requeued := [], parked := [],
                   susp := n.susp.filter fun r => s.taskPlaced e r.task }).leavePool e

/-- The originating chip makes the replicas of a node fail (R204, R409). -/
def State.tellReplicas (s : State) (n : Node) : State :=
  if n.origin = s.dev.chip then (s.replicas n).foldl (fun s c => s.send c (.report n.originId 0 true true)) s else s

/-- Two nodes share a handle that at least one of them writes (R396). -/
def conflict (a b : List (Nat × Nat)) : Bool := a.any fun x => b.any fun y => x.1 == y.1 && (decide (2 ≤ x.2) || decide (2 ≤ y.2))

/-- What the nodes that an earlier node depends on mean for it: ready, waiting, or failed. -/
inductive DepRes where
  | ready | waits | failed
  deriving DecidableEq, Repr

def State.depends (s : State) (n : Node) : DepRes :=
  let es := (s.nodeList.map Prod.snd).filter fun e =>
    decide (e.order < n.order) && e.queue == n.queue && e.cid == n.cid && conflict e.opers n.opers
  if es.any fun e => e.failing != 0 then .failed
  else if es.all fun e => (match e.st with
      | .done _ => true
      | _ => false) then .ready
  else .waits

/-- The head of the ready list, up to 256 nodes, is the pool (R398). -/
def State.fillPool (s : State) : State :=
  (s.disp.pool.take 256).foldl (fun s e =>
    match s.node? e with
    | some n =>
      if n.poolSeq = 0 then
        let t := s.onNode e fun n => { n with poolSeq := s.disp.poolNext, waitFrom := s.gtc }
        { t with disp := { t.disp with poolNext := t.disp.poolNext + 1 } }
      else s
    | none => s) s

/-- A node's tasks may be placed: it joins the ready list. -/
def State.makeReady (s : State) (e : Nat) : State :=
  let t := s.onNode e fun n => { n with st := .ready }
  ({ t with disp := { t.disp with pool := t.disp.pool ++ [e] } }).fillPool

/-! ### The start barrier (R203, R204) -/

/-- START goes out with a new launch generation and the lead in ns. -/
def State.launch (s : State) (e lead : Nat) : State :=
  match s.node? e with
  | none => s
  | some n =>
    let k := (s.disp.launches + 1) % 2 ^ 26
    let g := s.dev.chip * 2 ^ 26 + k
    let ts := s.gtc + lead
    let s : State := { s with disp := { s.disp with launches := k } }
    let s := s.onNode e fun n => if n.st == .barrier then { n with gen := g, ts := ts, started := true } else n
    (s.replicas n).foldl (fun s c => s.send c (.start n.originId g ts)) s

/-- READY of chip `c` for entry `e` of the originating chip. -/
def State.ready1 (s : State) (e c : Nat) : State :=
  match s.node? e with
  | none => s
  | some n =>
    let m := n.readyMask ||| chipBit c
    let s := s.onNode e fun n => { n with readyMask := m }
    if m &&& n.chipmask = n.chipmask && !n.started && n.st == .barrier then s.launch e 50000 else s

/-- A node whose dependences are met: ready, or at the start barrier. -/
def State.release (s : State) (e : Nat) (n : Node) : State :=
  if (chipExt n.loops).isNone then s.makeReady e
  else
    let s := s.onNode e fun n => { n with st := .barrier }
    if n.origin = s.dev.chip then s.ready1 e s.dev.chip else s.send n.origin (.ready n.originId)

/-- Every waiting node looks at its dependences, in order of acceptance (R396, R409, R412). -/
def State.wakeNodes (s : State) : State :=
  (s.nodeList.map Prod.fst).foldl (fun s e =>
    match s.node? e with
    | some n =>
      if n.st == .waiting && n.failing == 0 then
        match s.depends n with
        | .failed => (s.fail1 e 0x53).tellReplicas n
        | .ready => s.release e n
        | .waits => s
      else s
    | none => s) s

/-- A node fails on this chip, and what depends on it with it; an originating chip makes its replicas fail (R204, R409). -/
def State.failNode (s : State) (e status : Nat) : State :=
  match s.node? e with
  | none => s
  | some n =>
    if n.failing != 0 then s
    else (((s.fail1 e status).fillPool).wakeNodes).tellReplicas n

/-- A node enters the table of this chip, which its identifier then names; none while the table is full (R395). Its dependences are looked at
once it has been forwarded (`wakeNodes`). -/
def State.acceptNode (s : State) (d q origin originId : Nat) : Option (Nat × State) :=
  match (List.range 4096).find? fun e => (s.node? e).isNone with
  | none => none
  | some e =>
    let id := if origin = s.dev.chip then s.nodeId e else originId
    let n := nodeOf d q s.disp.accepts origin id
    let s := s.putNode e (some n)
    some (id, { s with disp := { s.disp with accepts := s.disp.accepts + 1 } })

/-- A node that names a chip fenced already fails when it is accepted (R204). -/
def State.failFenced (s : State) (e : Nat) : State :=
  match s.node? e with
  | none => s
  | some n => if (s.replicas n).any s.fencedChip then s.failNode e 0x52 else s

/-- The node of a host queue's first replica whose place in the queue has come (R395): it takes its own entry once the table has room. -/
def State.takeForward (s : State) (qn : Nat) : Nat → State
  | 0 => s
  | n + 1 =>
    let q := s.queue qn
    match q.fwds with
    | [] => s
    | f :: fs =>
      if q.en && f.mark != q.head then s
      else match s.acceptNode f.desc qn f.src f.id with
        | none => s
        | some (_, t) =>
          let t := t.setQueue qn { t.queue qn with fwds := fs }
          match t.replicaOf f.src f.id with
          | some e => ((t.onNode e fun n => { n with repls := f.repls }).wakeNodes.failFenced e).takeForward qn n
          | none => t.takeForward qn n

/-- Every host queue takes the replicas whose place has come. -/
def State.takeForwards (s : State) : State :=
  s.queues.foldl (fun t (k, q) => t.takeForward k q.fwds.length) s

/-- NODE_FORWARD_MSG (R395): a replica enters the host queue of the same number, behind the commands already there. -/
def execNodeForwardMsg (src nodeid q : Nat) (desc : List Nat) (s : State) : Out :=
  if (s.replicaOf src nodeid).isSome || ((s.queue q).fwds.any fun f => f.src == src && f.id == nodeid) then .next s
  else
    let t := s.setQueue q { s.queue q with fwds := (s.queue q).fwds ++
      [{ mark := (s.queue q).tail, src := src, id := nodeid, desc := ofDwords desc, repls := [] }] }
    .next (t.takeForward q ((s.queue q).fwds.length + 1))

/-- READY_MSG (R203). -/
def execReadyMsg (node chip : Nat) (s : State) : Out :=
  match s.entryOf node with
  | some e => .next (s.ready1 e chip)
  | none => .next s

/-- START_MSG (R203, R204): refused later than Ts - 1 us. -/
def execStartMsg (node g ts : Nat) (s : State) : Out :=
  let src := g / 2 ^ 26 % 64
  match s.replicaOf src node with
  | none => .next s
  | some e =>
    if (s.node? e).all fun n => n.st != .barrier then .next s
    else if ts < s.gtc + 1000 then .next (s.send src (.startRefused node))
    else .next (s.onNode e fun n => { n with gen := g, ts := ts, started := true })

/-- START_REFUSAL_MSG (R204): the barrier once more with 100 us, then failure. The message names no START, so that refusals of the first one
by two chips are two refusals (log 84). -/
def execStartRefusalMsg (node chip : Nat) (s : State) : Out :=
  match s.entryOf node with
  | none => .next s
  | some e =>
    match s.node? e with
    | none => .next s
    | some n =>
      if !n.chipmask.getLsbD chip then .next s
      else if n.refusals = 0 then .next ((s.onNode e fun n => { n with refusals := 1 }).launch e 100000)
      else .next (s.failNode e 0x52)

/-- START_INSTANT (R203): at Ts the replica's tasks may be dispatched. -/
def execStartInstant (node : Nat) (s : State) : Out :=
  match s.node? node with
  | some n => if n.st == .barrier && n.started && n.failing == 0 && n.ts ≤ s.gtc then .next (s.makeReady node) else .next s
  | none => .next s

/-- What the fencing of chip `k` does to nodes and replicas here: one whose start barrier names it, the originating chip among them, fails (R204).
One that has started runs on, and its originating chip awaits the report of the fenced chip: R204 does not say what fails it then
(DESIGN CHOICE; log 109). -/
def State.fenceNodes (s : State) (k : Nat) : State :=
  (s.nodeList).foldl (fun s (e, n) =>
    if n.chipmask.getLsbD k && k != s.dev.chip && (n.st == .waiting || n.st == .barrier) then s.failNode e 0x52 else s) s

/-! ### Parameters (R401) -/

def Disp.ageNs (d : Disp) : Nat := Nat.min 1000 (Nat.max 1 d.age) * 1000
/-- The threshold of a column. -/
def Disp.thrOf (d : Disp) (j : Nat) : Nat := Nat.min 12 (Nat.max 1 (NMap.get 12 d.thr j))

/-! ### Placement (R399-R407) -/

/-- The effective class of a pool node (R399). -/
def Node.effClass (n : Node) (d : Disp) (now : Nat) : Nat :=
  if n.prio = 3 then 3 else Nat.min 2 (n.prio + if n.hasWork then (now - n.waitFrom) / d.ageNs else 0)

/-- A cluster is eligible for a task of a context (R402). -/
def State.eligible (s : State) (cid n : Nat) : Bool :=
  let c := (s.cl n).ctl
  s.inPartition cid n && c.occ == .free && !c.held && !c.unbindHeld

/-- The occupancy of a column (R402). -/
def State.occupancy (s : State) (j : Nat) : Nat := (s.listed.filter fun (n, c) => n % 16 == j && c.ctl.occ != .free).length

/-- The cluster R403 picks among some: least occupancy, lower column, one last run by the context, lowest number. -/
def State.pickCluster (s : State) (cid : Nat) (cs : List Nat) : Option Nat :=
  let key (n : Nat) : Nat × Nat × Nat × Nat :=
    (s.occupancy (n % 16), n % 16, if (s.cl n).ctl.ranCid = cid ∧ (s.cl n).ctl.dataCid.isSome then 0 else 1, n)
  let less (a b : Nat × Nat × Nat × Nat) : Bool :=
    a.1 < b.1 || (a.1 == b.1 && (a.2.1 < b.2.1 || (a.2.1 == b.2.1 && (a.2.2.1 < b.2.2.1 || (a.2.2.1 == b.2.2.1 && a.2.2.2 < b.2.2.2)))))
  cs.foldl (fun o n =>
    match o with
    | none => some n
    | some m => if less (key n) (key m) then some n else some m) none

/-- Where a task can be placed now (R403, R404, R431): on an eligible cluster of an open column, away from clusters where it had
a rung-4 event while others are eligible, or on the saved cluster of its victim. -/
def State.placeFor (s : State) (e : Nat) (n : Node) (t : Nat) : Option Nat :=
  let cs := (List.range 192).filter (s.eligible n.cid)
  let bad := NMap.get [] n.badCl t
  let good := cs.filter fun k => !bad.contains k
  let cs := if good.isEmpty then cs else good
  match s.pickCluster n.cid (cs.filter fun k => decide (s.occupancy (k % 16) < s.disp.thrOf (k % 16))) with
  | some k => some k
  | none => (s.disp.preempts.find? fun (e', t', v) => e' == e && t' == t && cs.contains v).map fun p => p.2.2

/-- The tasks of a node in the order in which they are placed (R400): suspended ones, then pending ones ascending. After the first task that has
never been placed come those for which a victim has been chosen (R404). -/
def State.candidates (s : State) (e : Nat) (n : Node) : List Nat :=
  ((n.susp.map (·.task)).filter fun t => !s.taskPlaced e t) ++ sortLe (fun a b => decide (a ≤ b)) n.requeued
    ++ (if n.next < n.total then [n.next] else [])
    ++ sortLe (fun a b => decide (a ≤ b)) ((s.disp.preempts.filter fun p => p.1 == e && decide (n.next < p.2.1)).map fun p => p.2.1)

/-- A task of a node leaves the pending ones; lower ones that have never been placed stay pending. -/
def Node.takeTask (n : Node) (t : Nat) : Node :=
  if n.requeued.contains t then { n with requeued := n.requeued.erase t }
  else { n with next := t + 1, requeued := n.requeued ++ (List.range (t - n.next)).map (n.next + ·) }

/-- The pool's nodes in the order in which they are served (R400): descending class, within it round-robin from the last served. -/
def State.serviceOrder (s : State) : List (Nat × Node) :=
  let ns := s.nodeList.filter fun (_, n) => n.poolSeq != 0 && n.failing == 0
  [3, 2, 1, 0].flatMap fun k =>
    let cs := sortLe (fun a b => decide (a.2.poolSeq ≤ b.2.poolSeq)) (ns.filter fun (_, n) => n.effClass s.disp s.gtc == k)
    let last := NMap.get 0 s.disp.served k
    (cs.filter fun (_, n) => decide (last < n.poolSeq)) ++ cs.filter fun (_, n) => decide (n.poolSeq ≤ last)

/-- The nodes whose tasks may be placed: of a resident context that is not aborted, with a descriptor that the dispatcher can read (R436). -/
def State.servable (s : State) (n : Node) : Bool := (s.ctx n.cid).resident && !(s.ctx n.cid).aborted && !s.descBad n.cid

/-- The first placeable task: entry, node, task and cluster. -/
def State.firstPlaceable (s : State) : List (Nat × Node) → Option (Nat × Node × Nat × Nat)
  | [] => none
  | (e, n) :: ns =>
    match if s.servable n then (s.candidates e n).findSome? fun t => (s.placeFor e n t).map fun k => (t, k) else none with
    | some (t, k) => some (e, n, t, k)
    | none => s.firstPlaceable ns

/-- The tower memory without the banks that are in use. -/
def Cluster.unusedBanks (c : Cluster) : Memory :=
  c.tw.filter fun (a, _) => (List.range 16).all fun b => twBankOf b (c.ctl.twSelOf (a / 294912) b) != a % 294912 / 16384

/-- The clearing of R28 before the first task of another context; zeroes written clear poison (R435). -/
def State.clearCluster (s : State) (n : Nat) : State :=
  let p := s.phys n
  let c := s.cl n
  let x := { c.x with t := [], k := [], lq := [], sq := [], pack := [], dq := [], hq := [] }
  let t := s.setCl n { c with sp := [], tw := c.unusedBanks, x := x, arr := { c.arr with acc := [] }, a := { c.a with sems := [] } }
  let t : State := { t with
    spPoison := s.spPoison.filter fun q => q.1 != p, twPoison := s.twPoison.filter fun q => q.1 != p,
    accPoison := s.accPoison.filter fun q => q.1 != p }
  t.overtake (unitOfSp n)

/-- The mailbox settings that firmware loads for a task of context `cid` (R77, R78): on a change of owner, with the counts of an
empty ring after a change of context. -/
def Ctl.loadMbox (c : Ctl) (cid : Nat) (m : Option W64) : Ctl :=
  if c.mbOwner = cid then c
  else
    let c := { c with mbOwner := cid, mbox := m.getD (c.mbox &&& ~~~0x4000000#64) }
    if c.dataCid = some cid then c else { c with mbHead := 0, mbTail := 0, mbPos := 0 }

/-- The entries that are in force at an instant: those of the latest replacement whose instant has come (R411). -/
def Node.entries (n : Node) (now : Nat) : Nat × Nat :=
  n.repls.foldl (fun e r => if r.1 ≤ now then r.2 else e) (n.aentry, n.xentry)

/-- A task is placed on a cluster (R28, R77, R398-R403, R411): the cluster clears itself for a new context, PLACE is set, and the
node's entries, those of a replacement from its instant on, go with the task. -/
def State.place (s : State) (e : Nat) (n : Node) (t k : Nat) : State :=
  let susp := n.susp.any fun r => r.task == t
  let s := s.onCtl k fun c => c.loadMbox n.cid (s.ctx n.cid).mbox
  let s := if (s.cl k).ctl.dataCid = some n.cid then s else s.clearCluster k
  let entries := n.entries s.gtc
  let s := s.onCl k fun c =>
    { c with
      ctl := { c.ctl with occ := if susp then .restoring else .placed, cid := n.cid, dataCid := some n.cid, node := e, task := t, placedAt := s.gtc,
                          preempt := false, aentry := entries.1, xentry := entries.2 },
      a := { c.a with pend := c.a.pend ||| 2 } }
  let outer := ((n.loops.filter fun l => l.2 == 2).getLast?.map Prod.fst).getD 0
  let s := s.onNode e fun n =>
    { (if susp then n else n.takeTask t) with
             waitFrom := s.gtc,
             exts := if NMap.get 0 n.exts t = 0 then NMap.set 0 n.exts t outer else n.exts }
  { s with disp := { s.disp with served := NMap.set 0 s.disp.served (n.effClass s.disp s.gtc) n.poolSeq,
                                 preempts := s.disp.preempts.filter fun p => !(p.1 == e && p.2.1 == t) } }

/-- A pre-emption request for a cluster is on its way: the cluster and its reason, 0 for urgent work, 1 for a hold. One that is being
pre-empted already needs none (R407). -/
def State.askPreempt (s : State) (k why : Nat) : State :=
  if (s.disp.pending.any fun p => p.1 == k) || [Occ.free, .halting, .saving].contains (s.cl k).ctl.occ then s
  else { s with disp := { s.disp with pending := s.disp.pending ++ [(k, why)] } }

/-- The victim for a task of context `cid` (R404): a running task of PRIO below 3 in the partition. -/
def State.victim (s : State) (cid : Nat) : Option Nat :=
  let prio (k : Nat) : Nat := ((s.node? (s.cl k).ctl.node).map (·.prio)).getD 3
  let cs := (List.range 192).filter fun k =>
    let c := (s.cl k).ctl
    s.inPartition cid k && c.occ == .running && !c.preempt && !c.held && !c.unbindHeld && decide (prio k < 3)
      && !(s.disp.pending.any fun p => p.1 == k)
  let better (a b : Nat) : Bool :=
    let ka := (s.occupancy (a % 16), a % 16, prio a)
    let kb := (s.occupancy (b % 16), b % 16, prio b)
    if ka != kb then
      ka.1 < kb.1 || (ka.1 == kb.1 && (ka.2.1 < kb.2.1 || (ka.2.1 == kb.2.1 && ka.2.2 < kb.2.2)))
    else
      let pa := (s.cl a).ctl.placedAt
      let pb := (s.cl b).ctl.placedAt
      pb < pa || (pb == pa && b < a)
  cs.foldl (fun o k =>
    match o with
    | none => some k
    | some m => if better k m then some k else some m) none

/-- The pre-emptions made for urgent tasks that are still in flight (R404, R407, R412): the victim is about to halt, halting or saving, or its
cluster is free for the task. -/
def State.inFlight (s : State) : List (Nat × Nat × Nat) :=
  s.disp.preempts.filter fun (e, _, v) =>
    match (s.cl v).ctl.occ with
    | .free => (s.node? e).any fun n => s.eligible n.cid v
    | .halting | .saving => true
    | .placed | .restoring | .running => s.disp.pending.any fun p => p.1 == v

/-- The first pending task of an urgent node that has no pre-emption in flight, cannot be placed and has a victim (R404). -/
def State.urgentTask (s : State) : List (Nat × Node) → Option (Nat × Nat × Nat)
  | [] => none
  | (e, n) :: ns =>
    let ts := sortLe (fun a b => decide (a ≤ b)) n.requeued ++ (List.range (Nat.min 192 (n.total - n.next))).map (n.next + ·)
    let free (t : Nat) : Bool := !(s.disp.preempts.any fun p => p.1 == e && p.2.1 == t) && (s.placeFor e n t).isNone
    match if n.prio = 3 && s.servable n then (ts.find? free).bind fun t => (s.victim n.cid).map fun v => (e, t, v) else none with
    | some u => some u
    | none => s.urgentTask ns

/-- TASK_PLACEMENT (R398-R407): the first placeable task is placed; an urgent task that finds no room names a victim. -/
def execTaskPlacement (s : State) : Out :=
  let s : State := { s with disp := { s.disp with preempts := s.inFlight } }
  let s := s.serviceOrder.foldl (fun t e => t.rsvSeen (t.descAddr e.2.cid)) s
  let s := match s.firstPlaceable s.serviceOrder with
    | some (e, n, t, k) => s.place e n t k
    | none => s
  if !s.disp.upre then .next s
  else match s.urgentTask s.serviceOrder with
    | none => .next s
    | some (e, t, v) =>
      let s := s.askPreempt v 0
      .next { s with disp := { s.disp with preempts := s.disp.preempts ++ [(e, t, v)] } }

/-! ### Start and retirement of a task (R177, R180, R370, R397) -/

/-- The register values of a task's start: register 1 ARG0, register 2 ARG1 (R177). -/
def startRegs (n : Node) : NMap W64 := NMap.set 0 (NMap.set 0 [] 1 (BitVec.ofNat 64 n.arg0)) 2 (BitVec.ofNat 64 n.arg1)

/-- Firmware's commands that are still under way match none of the windows that a task brings (R149, R151). -/
def ACore.newWindows (a : ACore) : ACore :=
  { a with cmds := a.cmds.map fun k => if k.mode == .s then { k with wins := 0 } else k,
           stores := a.stores.map fun l => if l.late.isNone then { l with wins := 0 } else l }

/-- A cluster at the start of a task (R85, R171, R177, R341, R348, R370, R397). -/
def Cluster.start (c : Cluster) (n : Node) : Cluster :=
  { c with
    a := { c.a.newWindows with pc := BitVec.ofNat 64 c.ctl.aentry, g := startRegs n, run := .run, mode := .t, sems := [], wins := [],
                               wait := none, send := SendStat.reset, l1 := [], icache := [], growCount := 0, growReq := none },
    x := { XCore.reset with pc := c.ctl.xentry, x := startRegs n, run := .run },
    arr := { Arr.reset with acc := c.arr.acc, nextRec := c.arr.nextRec },
    vigil := { Vigil.reset with g := startRegs n, x := startRegs n },
    ctl := { c.ctl with occ := .running, runBit := true, ranCid := c.ctl.cid } }

/-- A cluster as its task starts: both weight sets have been written whole, which clears the poison of the PEs (R348, R435). -/
def State.startState (s : State) (cl : Nat) (c : Cluster) : State :=
  { s with pePoison := s.pePoison.filter fun p => p.1 != s.phys cl }.setCl cl c

/-- TASK_START (R177): the cluster sets the task-start state and both cores begin; rows on their way to its latches are lost. -/
def execTaskStart (cl : Nat) (s : State) : Out :=
  let c := s.cl cl
  if c.ctl.occ != .placed then .next s
  else match s.node? c.ctl.node with
    | none => .next s
    | some n =>
      let t : State := { s with flights := s.flights.filter fun g => g.cl != cl }
      .next ((t.dropFetches fun o => o.fetchOf cl false || o.fetchOf cl true).startState cl (c.start n))

/-- Stores that aborted tasks of an entry left behind have still to perform (R51, R397). -/
def State.writesOpen (s : State) (e : Nat) : Bool :=
  s.clusters.any fun (_, c) => c.a.stores.any fun l => l.orphan && l.late.any fun p => p.1 == e

/-- Every task of a node has retired on this chip (R398). -/
def State.allRetired (s : State) (e : Nat) (n : Node) : Bool :=
  n.failing == 0 && n.st == .ready && n.retired == n.total && n.next == n.total && n.requeued.isEmpty && n.parked.isEmpty && n.susp.isEmpty
    && (s.holders e).isEmpty

/-- With its last task a node leaves the pool (R398); once every write of its tasks has performed as well, it is complete, on the originating chip
with every replica's (R397, R408). -/
def State.completeNode (s : State) (e : Nat) : State :=
  match s.node? e with
  | none => s
  | some n =>
    if !s.allRetired e n then s
    else
      let t := (s.leavePool e).fillPool
      if !s.writesOpen e && (n.origin != s.dev.chip || (s.replicas n).all fun k => n.reports.getLsbD k) then
        (t.onNode e fun n => { n with st := .done 0, finishedAt := s.gtc }).wakeNodes
      else t

/-- The cluster after a task has left it, by retirement: queues, records and latches are empty. -/
def Cluster.retire (c : Cluster) : Cluster :=
  { c with
    a := { c.a with run := .idle, wait := none },
    x := { c.x with run := .idle, lq := [], sq := [], pack := [], dq := [], hq := [], land := [], latchN := none, latchS := none,
                    trap := none, freeze := none },
    ctl := { c.ctl with occ := .free, runBit := false, preempt := false } }

/-- The Vigil core's copy agrees with the registers that it checks (R432). -/
def Cluster.vigilSame (c : Cluster) : Bool :=
  c.vigil.g == c.a.g && c.vigil.x == c.x.x && c.vigil.lc == c.x.lc && c.vigil.ec == c.x.ec && c.vigil.rb == c.x.rb

/-- A task's cores have both ended, and everything it issued has come to an end: accesses, commands on every cluster, records
(R180, R397). -/
def State.taskOver (s : State) (cl : Nat) : Bool :=
  let c := s.cl cl
  c.a.run == .exited && c.x.run == .ended && c.x.land.isEmpty && c.x.trap.isNone && c.a.due.isNone && c.a.mode == .t
    && (s.runA cl).accs.isEmpty && (s.taskCmds cl).isEmpty && c.arr.recs.isEmpty

/-- TASK_RETIRE (R180, R412, R432, R433): the Vigil core matches the end, or finds a divergence. A pre-emption request for the task is moot. -/
def execTaskRetire (cl : Nat) (vigil : Bool) (s : State) : Out :=
  let c := s.cl cl
  if c.ctl.occ != .running || !s.taskOver cl then .next s
  else if !vigil then .next (s.divergence cl .ending c.a.pc.toNat)
  else
    let s := (s.setCl cl c.retire).requestServed cl
    let s := s.onNode c.ctl.node fun n =>
      { n with retired := n.retired + 1, rung4 := NMap.set 0 n.rung4 c.ctl.task 0, poisonHit := NMap.set [] n.poisonHit c.ctl.task [] }
    .next (s.completeNode c.ctl.node)

/-! ### Completion records (R408) -/

/-- The status of a node that is over: done, or failing with no task left on a cluster. -/
def State.nodeOver (s : State) (e : Nat) (n : Node) : Option Nat :=
  match n.st with
  | .done k => some k
  | _ => if n.failing != 0 && (s.holders e).isEmpty then some n.failing else none

/-- Stores and commands that tasks of an entry have left behind belong to no entry of the table any more. -/
def State.disown (s : State) (e : Nat) : State :=
  let f (l : Acc) : Acc := if l.late.any fun p => p.1 == e then { l with late := some (4096, 0) } else l
  let g (k : Cmd) : Cmd := if k.mode == .t && k.node == e then { k with node := 4096 } else k
  { s with clusters := NMap.mapVals Cluster.reset (fun _ c =>
      { c with a := { c.a with stores := c.a.stores.map f, cmds := c.a.cmds.map g } }) s.clusters }

/-- The table entry is freed, and its next identifier differs (R395). -/
def State.freeNode (s : State) (e : Nat) : State :=
  let s := (s.disown e).putNode e none
  { s with disp := { s.disp with reuse := NMap.set 0 s.disp.reuse e ((NMap.get 0 s.disp.reuse e + 1) % 2 ^ 20),
                                 preempts := s.disp.preempts.filter fun p => p.1 != e } }

/-- The 32 bytes of a completion record. -/
def recordBytes (id : Nat) (n : Node) (status : Nat) : List Byte :=
  toBytes 32 (id + n.ntag * 2 ^ 32 + status * 2 ^ 64 + n.cid * 2 ^ 72 + n.finishedAt % 2 ^ 64 * 2 ^ 128
    + Nat.min (2 ^ 32 - 1) (n.retired + n.reportTasks) * 2 ^ 192)

/-- COMPLETION_RECORD_WRITE (R408, R457): a replica reports to the originating chip; there the record goes to the queue's ring, after
the records of earlier nodes of the queue that completed earlier, held while the ring is full, and the entry is freed. -/
def execCompletionRecordWrite (node : Nat) (s : State) : Out :=
  match s.node? node with
  | none => .next s
  | some n =>
    match s.nodeOver node n with
    | none => .next s
    | some status =>
      if n.origin != s.dev.chip then
        .next (((s.send n.origin (.report n.originId n.retired (status != 0) false)).freeNode node).wakeNodes)
      else
        let q := s.queue n.queue
        let next := (q.ctail + 1) % 2 ^ q.plog
        let earlier := s.nodeList.any fun (e, m) => e != node && m.queue == n.queue && m.origin == s.dev.chip
          && decide (m.order < n.order) && (s.nodeOver e m).isSome && decide (m.finishedAt < n.finishedAt)
        if !q.en || next == q.chead || earlier then .next s
        else
          let m := s.hostMem.write (q.pbase + 32 * q.ctail) (recordBytes n.originId n status)
          let m := m.writeN (bits q.cwb.toNat 41 3 * 8) 8 next
          .next ((((({ s with hostMem := m }).setQueue n.queue { q with ctail := next }).msix n.queue).freeNode node).wakeNodes)

/-- REPLICA_REPORT_MSG (R408, R409): at the originating chip a replica has completed or failed; elsewhere the originating chip, whose `own`
the node is, says that it has failed. -/
def execReplicaReportMsg (node chip tasks : Nat) (what : ReplicaEnd) (s : State) : Out :=
  match what with
  | .origin failed =>
    (match s.replicaOf chip node with
    | some e => if failed then .next (s.failNode e 0x55) else .next s
    | none => .next { s with queues := NMap.mapVals Queue.reset (fun _ q =>
        { q with fwds := q.fwds.filter fun f => !(f.src == chip && f.id == node) }) s.queues })
  | _ => match s.entryOf node with
    | some e =>
      (match s.node? e with
      | none => .next s
      | some n =>
        if n.origin != s.dev.chip || !n.chipmask.getLsbD chip || n.reports.getLsbD chip then .next s
        else
          let s := s.onNode e fun n => { n with reports := n.reports ||| chipBit chip, reportTasks := n.reportTasks + tasks }
          if what = .failed then .next (s.failNode e 0x55) else .next (s.completeNode e))
    | none => .next s

/-! ### Replacement of code (R411) -/

/-- A replacement reaches a node of this chip; replacements take effect in the order of their queue. -/
def State.setRepl (s : State) (e tr a x : Nat) : State := s.onNode e fun n => { n with repls := n.repls ++ [(tr, a, x)] }

/-- REPLACEMENT_INSTANT_MSG (R411): the message names the node by the identifier of its originating chip, which sends it. A replica that waits in a
host queue keeps it until it is accepted (R395). -/
def execReplacementInstantMsg (node : NodeRef) (tr aentry xentry : Nat) (s : State) : Out :=
  match s.replicaOf node.src node.node with
  | some e => .next (s.setRepl e tr aentry xentry)
  | none => .next { s with queues := NMap.mapVals Queue.reset (fun _ q => { q with fwds := q.fwds.map fun f =>
      if f.src == node.src && f.id == node.node then { f with repls := f.repls ++ [(tr, aentry, xentry)] } else f }) s.queues }

/-- REPLACEMENT_INSTANT (R411): from Tr on the new entries are the node's. -/
def execReplacementInstant (node : Nat) (s : State) : Out :=
  .next (s.onNode node fun n =>
    let e := n.entries s.gtc
    { n with aentry := e.1, xentry := e.2, repls := n.repls.filter fun r => decide (s.gtc < r.1) })

end Sys2Proof.Machine
end

