-- ==== Sys2Proof/Machine/Task.lean ====
section
/-! DEFINITION. Instructions about the task and the device clock (R315-R319): the end of an A-stream, growth of a loop level (R176),
the task's indices, the GTC, and the deferral of refreshes (R91-R93). -/

namespace Sys2Proof.Machine

/-! ### The end of the A-stream -/

/-- TEXIT (R315): in mode S an illegal instruction. -/
def execTexit (_ : AF) (s : State) : Out :=
  if s.a.mode = .s then .next (s.trapHere 1 9 (BitVec.ofNat 64 (0x98 * 2 ^ 56)))
  else .next (s.onA s.focus fun a => { a with run := .exited, wait := none })

/-! ### GROW (R176, R316) -/

/-- GROW (R316): the request goes to the dispatcher, and the A-core waits for its answer. -/
def execGrow (f : AF) (s : State) : Out :=
  if s.a.growReq.isSome then .next s
  else if !s.ready [f.d, f.sa] then .next s
  else
    let n := Nat.min (s.g f.sa).toNat (2 ^ 32 - 1)
    .next ((s.waitAt .grow f).onA s.focus fun a => { a with growReq := some { dst := f.d.toNat, n := n, applied := none } })

/-- The number of the outermost level that is spatial over clusters. -/
def outerLevel (ls : List (Nat × Nat)) : Option Nat :=
  (List.range ls.length).foldl (fun o i => if (ls.getD i (0, 0)).2 = 2 then some i else o) none

/-- The new extent of level `i` after `n` index points are added to it: the product of R174 stays at or below 2^32 - 1. -/
def grownExt (ls : List (Nat × Nat)) (i n : Nat) : Nat :=
  let e := (ls.getD i (0, 0)).1
  let inner := (ls.take i).foldl (fun p l => if l.2 = 2 then p * l.1 else p) 1
  Nat.max e (Nat.min (e + n) ((2 ^ 32 - 1) / inner))

/-- The dispatcher applies the `k`-th GROW of a run of a task (R176, R409): the value returned, and the node afterwards. -/
def Node.grow (n : Node) (t k add now : Nat) : Nat × Node :=
  match outerLevel n.loops with
  | none => (2 ^ 64 - 1, n)
  | some i =>
    if n.failing != 0 || 4 ≤ k then (2 ^ 64 - 1, n)
    else
      let olds := NMap.get [] n.grows t
      if k < olds.length then (olds.getD k 0, n)
      else
        let e := (n.loops.getD i (0, 0)).1
        (e, { n.waits now with loops := n.loops.set i (grownExt n.loops i add, 2), grows := NMap.set [] n.grows t (olds ++ [e]) })

/-- GROW_ANSWER (R176, R289, R316): the dispatcher applies the request; its answer then reaches gd. -/
def execGrowAnswer (cl : Nat) (s : State) : Out :=
  let s : State := { s with focus := cl }
  match s.a.growReq with
  | none => .next s
  | some r =>
    match r.applied with
    | none =>
      let ctl := s.cur.ctl
      (match s.node? ctl.node with
      | none => .next (s.onA cl fun a => { a with growReq := some { r with applied := some (2 ^ 64 - 1) } })
      | some n =>
        let (v, m) := n.grow ctl.task s.a.growCount r.n s.gtc
        let v := if ctl.occ = .free then 2 ^ 64 - 1 else v
        let t := if ctl.occ = .free then s else s.onNode ctl.node fun _ => m
        .next (t.onA cl fun a => { a with growReq := some { r with applied := some v } }))
    | some v =>
      let t := s.onA cl fun a => { a with growReq := none, growCount := a.growCount + 1 }
      .next (t.result (BitVec.ofNat 6 r.dst) (BitVec.ofNat 64 v))

/-! ### TIDX (R317) -/

/-- The loop table as the task sees it: the outermost level spatial over clusters with the extent it had when the task was first
issued. -/
def Node.loopsOf (n : Node) (t : Nat) : List (Nat × Nat) :=
  match outerLevel n.loops with
  | some i => n.loops.set i (NMap.get 0 n.exts t, 2)
  | none => n.loops

/-- The index of a task at level `i`, which is spatial over clusters: the innermost such level varies fastest, the outermost is not
reduced. -/
def indexAt (ls : List (Nat × Nat)) (t i : Nat) : Nat :=
  let inner := (ls.take i).foldl (fun p l => if l.2 = 2 then p * l.1 else p) 1
  if outerLevel ls = some i then t / inner else t / inner % (ls.getD i (0, 0)).1

/-- The chip index: the number of chips of the mask below this one. -/
def State.chipIndex (s : State) (n : Node) : Nat := popc (n.chipmask.toNat % 2 ^ s.dev.chip) 64

/-- The value of TIDX on a cluster that runs a task of a node. -/
def State.tidx (s : State) (n : Node) (sel : Nat) : Nat :=
  let t := s.cur.ctl.task
  let ls := n.loopsOf t
  let l := ls.getD sel (0, 0)
  if sel < 6 then (match l.2 with
    | 1 => l.1
    | 2 => indexAt ls t sel
    | 3 => s.chipIndex n
    | _ => 0)
  else if sel = 6 then t
  else if sel = 7 then (if (chipExt n.loops).isSome then n.gen % 2 ^ 32 + s.chipIndex n * 2 ^ 32 else 0)
  else (ls.getD (sel - 10) (0, 0)).1

/-- TIDX (R317). -/
def execTidx (f : AF) (s : State) : Out :=
  let sel := bits f.imm.toNat 3 0
  let v := if sel = 8 then s.focus
    else if sel = 9 then s.cur.ctl.cid
    else if s.cur.ctl.occ = .free then 0
    else match s.node? s.cur.ctl.node with
      | some n => s.tidx n sel
      | none => 0
  whenReady s [f.d] (s.result f.d (BitVec.ofNat 64 v))

/-- RDGTC (R318). -/
def execRdgtc (f : AF) (s : State) : Out := whenReady s [f.d] (s.result f.d (BitVec.ofNat 64 s.gtc))

/-! ### The Almanac's settings and REFDEFER (R91-R93, R319) -/

/-- Effective IVL and MAXDEF in units of 0.1 s, halved while HOT is set (R92). -/
def Dev.ivl (d : Dev) : Nat :=
  let v := Nat.min 200 (Nat.max 10 (bits d.alm.toNat 7 0))
  if d.hot then v / 2 else v
def Dev.maxDef (d : Dev) : Nat :=
  let v := Nat.min (bits d.alm.toNat 15 8) (300 - Nat.min 200 (Nat.max 10 (bits d.alm.toNat 7 0)))
  if d.hot then v / 2 else v

/-- A tenth of a second in ns. -/
def tenthNs : Nat := 10 ^ 8

/-- The due time of bank `b` of a cluster, and its due time before any deferral. -/
def Ctl.dueOf (c : Ctl) (b : Nat) : Nat := NMap.get 0 c.due b
def Ctl.due0Of (c : Ctl) (b : Nat) : Nat := NMap.get 0 c.due0 b

/-- The deferral of one bank (R93): D := Min(Max(D, Now + duration), D0 + MAXDEF), never earlier than D. -/
def Ctl.defer (now dur maxDef : Nat) (c : Ctl) (b : Nat) : Ctl :=
  let d := c.dueOf b
  { c with due := NMap.set 0 c.due b (Nat.max d (Nat.min (Nat.max d (now + dur)) (c.due0Of b + maxDef))) }

/-- REFDEFER (R319): a refresh already running is not affected. -/
def execRefdefer (f : AF) (s : State) : Out :=
  let m := (s.g f.sa).toNat
  let dur := bits f.imm.toNat 15 0 * 10 ^ 6
  let bs := (List.range 16).filter fun b => bit m b && !NMap.get false s.cur.ctl.refreshing b
  whenReady s [f.sa]
    (if dur = 0 then s
     else s.onCtl s.focus fun c => bs.foldl (Ctl.defer s.gtc dur (s.dev.maxDef * tenthNs)) c).advance

end Sys2Proof.Machine
end

