-- ==== Sys2Proof/Machine/Bringup.lean ====
section
/-! DEFINITION. Reset and bring-up (R480-R484), step by step, and what a configuration image may hold (R482). The agenda, the host's
memory, the board's flash and the part's temperature are not the device's memory and outlast a reset. -/

namespace Sys2Proof.Machine

/-- No number stands twice in a list. -/
def distinct : List Nat → Bool
  | [] => true
  | x :: xs => !xs.contains x && distinct xs

/-- The end of HBM with `k` channels out of service (R112). -/
def topWith (k : Nat) : Nat := 0x6000000000 - k * 0x30000000

/-- A logical bank of a tower remap entry lies in a physical bank that has failed (R88). -/
def remapFailed (w i : Nat) : Bool :=
  match bits w (2 * i + 1) (2 * i) with
  | 0 => bit w (34 + i)
  | 1 => bit w 32
  | _ => bit w 33

/-- A tower remap entry (R88): SEL of each bank 00, 01 or 10, no spare taken twice, the reserved bits zero; and EXH exactly where a logical
bank lies in a bank that has failed, or two fields contradict each other (R482; log 33). -/
def remapOk (w : Nat) : Bool :=
  let sel := (List.range 16).map fun i => bits w (2 * i + 1) (2 * i)
  decide (w < 2 ^ 51) && !sel.contains 3 && decide ((sel.filter (· == 1)).length ≤ 1) && decide ((sel.filter (· == 2)).length ≤ 1)
    && ((List.range 16).any (remapFailed w)) == bit w 50

/-- The reserved region and its page-table area lie below `top` (R453, R482). -/
def imageFits (i : Image) (top : Nat) : Bool :=
  decide (i.rsvBase < top) && i.rsvBase % 0x2000000 == 0 && decide (i.rsvBase + 0x2000000 + i.ptArea * 65536 ≤ top)

/-- The fields of an image that R482 bounds; those that fill a register with an "acts as" rule are never malformed. -/
def imageInRange (i : Image) : Bool :=
  i.failed.all (· < 512) && distinct i.failed && i.remap.all (fun e => decide (e.1 < 192 * 64) && remapOk e.2)
    && distinct (i.remap.map Prod.fst) && i.skip.length == 16 && i.skip.all (· ≤ 12) && decide (i.svc < 2 ^ 192) && decide (i.chip < 64)
    && i.routes.all (fun r => decide (r.1 < 64) && r.2.all (· < 16)) && distinct (i.routes.map Prod.fst) && i.portsOut.all (· < 16)
    && i.thresholds.length == 7 && decide (i.retired.length ≤ 65536)

/-- An image that is malformed (R482), with the end of HBM that its own failed channels give. -/
def imageMalformed (i : Image) : Bool :=
  let top := topWith i.failed.length
  !(imageFits i top && imageInRange i && i.retired.all fun p => decide (p * 65536 < top))

/-- The channels that this bring-up leaves out of service, in ascending order (R112, R483). -/
def bootFailed (c : BootChecks) (i : Image) : List Nat :=
  (List.range 512).filter fun ch => i.failed.contains ch || c.trainFail.contains ch

/-- What a bring-up ends with: the last step completed and the code of R484. A channel lost in training can leave the reserved region
above TOP, which is reported as an image that does not fit (log 2); 0x04 goes before 0x03 (R482; log 33). -/
def bootResult (c : BootChecks) (i : Image) : Nat × Nat :=
  if !c.fwOk then (0, 1)
  else if !c.imgOk then (1, 2)
  else if 64 < i.failed.length then (2, 4)
  else if imageMalformed i then (1, 3)
  else if 64 < (bootFailed c i).length then (2, 4)
  else if !imageFits i (topWith (bootFailed c i).length) then (3, 3)
  else if i.svc = 0 then (3, 5)
  else (7, 0)

/-- A reset (R483): every context, queue and memory content of the device is gone. -/
def State.cleared (s : State) (i : Image) : State :=
  { State.reset with
    fresh := s.fresh, agenda := s.agenda, clk := s.clk, hostMem := s.hostMem, flash := i, outbox := s.outbox,
    host := { HostPage.reset with msix := s.host.msix, i3c := s.host.i3c, answers := s.host.answers },
    dev := { Dev.reset with hot := s.dev.hot } }

/-- The registers that bring-up fills from the image (R84, R112, R381, R441, R482). -/
def imageDev (i : Image) (d : Dev) (failed : List Nat) (gtc : Nat) : Dev :=
  { d with chip := i.chip, sdtmo := i.sdtmo % 2 ^ 14, rsvBase := i.rsvBase, alm := BitVec.ofNat 64 (i.alm % 2 ^ 16),
           clmap := BitVec.ofNat 64 ((List.range 16).foldl (fun v j => v + i.skip.getD j 12 % 16 * 2 ^ (4 * j)) 0), clsvc := i.svc,
           failed := failed, top := topWith failed.length, gen := BitVec.ofNat 64 (i.gen % 2 ^ 42),
           boot := none, erbase := BitVec.ofNat 64 i.erbase &&& erbaseMask, ptArea := i.ptArea, stage := 7, bootFail := 0, ready := true, bootedAt := gtc,
           thresholds := i.thresholds, routes := i.routes, secret := Config.deviceSecret, image := i }

/-- A cluster after bring-up at `gtc`: its tower remap table (R88) and the first due times of its banks, which bring-up has written (R91). -/
def imageCluster (i : Image) (p gtc : Nat) (due : NMap Nat) : Cluster :=
  let words := i.remap.filter fun e => imagePhys i.skip (e.1 / 64) == p
  { Cluster.reset with
    a := { ACore.reset with tvec := clear3 (BitVec.ofNat 64 i.tvec) },
    ctl := { Ctl.reset with due := due, due0 := due, refreshedAt := NMap.ofFn 0 16 fun _ => gtc,
                            remap := words.foldl (fun m e => NMap.set 0 m (e.1 % 64) (BitVec.ofNat 64 e.2)) [] } }

/-- The first due times of the banks of every cluster (R91): IVL·(1 + b/16) after bring-up completes. -/
def Dev.firstDue (d : Dev) : NMap Nat := NMap.ofFn 0 16 fun b => d.bootedAt + d.ivl * (tenthNs / 16) * (16 + b)

/-- The GTC after bring-up (R468): the master starts at 0; another chip aligns to its master, to a value that is the environment's
(log 8). -/
def State.bootGtc (s : State) (i : Image) (ports : List Nat) : Nat × State :=
  if ports.isEmpty || i.routes.all (fun r => decide (i.chip ≤ r.1)) then (0, s) else (s.draw.1.toNat, s.draw.2)

/-- What bring-up from a cleared state with image `i` leaves when it is over (R483). -/
def State.bringUp (s : State) (i : Image) (c : BootChecks) : State :=
  let r := bootResult c i
  if r.2 ≠ 0 then
    { s with dev := { s.dev with stage := r.1, bootFail := r.2, boot := none, image := i, secret := if r.2 = 1 then 0 else Config.deviceSecret } }
  else
    let up := (List.range 16).filter fun p => c.ports.contains p && !i.portsOut.contains p
    let g := s.bootGtc i up
    let d := imageDev i s.dev (bootFailed c i) g.1
    { g.2 with
      dev := d, gtc := g.1,
      clusters := NMap.ofFn Cluster.reset 208 fun p => imageCluster i p g.1 d.firstDue,
      pages := i.retired.foldl (fun m p => NMap.set .inService m p .offline) [],
      ports := up.foldl (fun m p => NMap.set Port.reset m p { Port.reset with up := true, lastAck := g.1, alignAt := g.1 }) [],
      rel := { s.rel with failedRows := ((List.range 16).filter fun j => i.skip.getD j 12 != 12).map fun j => (j, i.skip.getD j 12) } }

/-- The milliseconds within which each step of bring-up is done (R483). -/
def bootLimits : List Nat := [200, 300, 400, 100, 50, 500, 50]

/-- The clk after which the first `k` steps of a bring-up are done, each within its time (R483). -/
def bootEnds (c : BootChecks) (k : Nat) : Nat :=
  ((List.range k).map fun i => Nat.min (c.times.getD i 0) (bootLimits.getD i 0 * 1250000)).sum

/-- The steps of bring-up that are over `e` clk after its start. -/
def bootSteps (c : BootChecks) (e : Nat) : Nat := ((List.range 7).filter fun i => decide (bootEnds c (i + 1) ≤ e)).length

/-- A bring-up under way comes to the step that the clk gives (R483, R484): a step that fails ends it when that step is over, and the
contents that the steps give are there when all seven are. -/
def State.bootTurn (s : State) : State :=
  match s.dev.boot with
  | none => s
  | some b =>
    let k := bootSteps b.checks (s.clk - b.since)
    let r := bootResult b.checks b.image
    if r.1 < k then (s.cleared b.image).bringUp b.image b.checks
    else if r.2 = 0 && k = 7 then (s.cleared b.image).bringUp b.image b.checks
    else { s with dev := { s.dev with stage := k, secret := if k < 2 then 0 else Config.deviceSecret } }

/-- A reset begins bring-up with an image (R483): every context, queue and memory content is gone, and no step is done. -/
def State.restart (s : State) (i : Image) (c : BootChecks) : State :=
  let t := s.cleared i
  ({ t with dev := { t.dev with image := i, boot := some { image := i, checks := c, since := s.clk } } } : State).bootTurn

/-- POWER_ON (R480-R484), with the image on the board's flash. -/
def execPowerOn (checks : BootChecks) (s : State) : Out := .next (s.restart s.flash checks)

/-- FUNCTION_LEVEL_RESET (R452, R483): the whole device, as at a power-on. -/
def execFunctionLevelReset (checks : BootChecks) (s : State) : Out := .next (s.restart s.flash checks)

/-- REJOIN_RESET (R471, R483): the chip is reset with a configuration image, which its flash then holds (log 4). -/
def execRejoinReset (image : Image) (checks : BootChecks) (s : State) : Out := .next (s.restart image checks)

/-- The bring-up that an empty agenda runs: every check passes, every channel trains, no port has a neighbour, and the steps take no time
(log 1). -/
def State.boot (s : State) : Out := execPowerOn { fwOk := true, imgOk := true, trainFail := [], ports := [], times := [] } s

end Sys2Proof.Machine
end

