-- ==== Sys2Proof/Machine/Operands.lean ====
section
/-! DEFINITION. The operands of X syllables: queues and their heads (R82, R191-R193), tile sources and views (R214, R215, R321),
guards (R322), and the landing of results (R187, R188, R201). -/

namespace Sys2Proof.Machine

/-! ### Queues -/

/-- What a pop or peek of a queue finds (R191): nothing, a tile, or a dword of mbq; poisoned or not. -/
inductive Head where
  | empty | tile (t : Tile) (poison : Bool) | dword (v : W64) (poison : Bool)

/-- The number of the file-die word at the head of queue `q`, beyond those of the registers (log 91). -/
def queueWord (q : Nat) : Nat := 2 ^ 20 + q

/-- The head of queue `q` of cluster `cl`: lq0-lq7, dq0 (12), hq0 (13) and mbq (14) (R82, R191). -/
def State.qHead (s : State) (cl q : Nat) : Head :=
  let c := s.cl cl
  if q < 8 then
    match NMap.get [] c.x.lq q with
    | h :: _ => if h.ready then .tile h.tile h.poison else .empty
    | [] => .empty
  else if q = 12 then (match c.x.dq with
    | t :: _ => .tile t false
    | [] => .empty)
  else if q = 13 then (match c.x.hq with
    | t :: _ => .tile t false
    | [] => .empty)
  else if q = 14 then
    if c.ctl.mbCons && c.ctl.mbHead != c.ctl.mbTail then
      (let a := c.ctl.mbSlot c.ctl.mbHead + 8 * c.ctl.mbPos
      .dword (BitVec.ofNat 64 (s.spReadN cl a 8)) (s.spPoisoned cl a 8))
    else .empty
  else .empty

def Head.isEmpty : Head → Bool
  | .empty => true
  | _ => false

def Head.poisoned : Head → Bool
  | .tile _ p | .dword _ p => p
  | _ => false

def Head.lane : Head → Nat → W32
  | .tile t _, l => Tile.lane t l
  | _, _ => 0

/-- The head consumed (R82, R191); the eighth dword of a mailbox entry frees it and writes HEAD (R81). -/
def State.qPop (s : State) (cl q : Nat) : State :=
  if q < 8 then s.onX cl fun x => { x with lq := NMap.set [] x.lq q (NMap.get [] x.lq q).tail }
  else if q = 12 then s.onX cl fun x => { x with dq := x.dq.tail }
  else if q = 13 then s.onX cl fun x => { x with hq := x.hq.tail }
  else if q = 14 then
    let c := (s.cl cl).ctl
    if c.mbPos < 7 then s.onCtl cl fun c => { c with mbPos := c.mbPos + 1 }
    else
      let h := (c.mbHead + 1) % 2 ^ 32
      (s.onCtl cl fun c => { c with mbPos := 0, mbHead := h }).spWriteN cl c.mbBase 8 h
  else s

/-- The queue operands of a syllable: queue, pop and stall (R214). -/
def qOpnds (f : XF) : List (Nat × Bool × Bool) :=
  [f.a, f.b, f.c].filterMap fun o =>
    match o with
    | .queue q pop stall _ => if q == 15 then none else some (q.toNat, pop, stall)
    | .reg _ _ => none

/-- A not-ready operand finds its queue empty: the syllable is cancelled, whatever its other operands find (R192). -/
def State.qCancels (s : State) (cl : Nat) (f : XF) : Bool :=
  (qOpnds f).any fun (q, _, stall) => !stall && (s.qHead cl q).isEmpty

/-- A stall-mode operand of a syllable that is not cancelled finds its queue empty (R190). -/
def State.qStalls (s : State) (cl : Nat) (f : XF) : Bool :=
  !s.qCancels cl f && (qOpnds f).any fun (q, _, stall) => stall && (s.qHead cl q).isEmpty

/-- The first queue whose poisoned head a syllable delivers (R298, R436). -/
def State.qPoisoned (s : State) (cl : Nat) (f : XF) : Option Nat :=
  ((qOpnds f).find? fun (q, _, _) => (s.qHead cl q).poisoned).map fun p => p.1

/-- Poison consumed at the head of a queue: of a word of the file die that a load-queue slot holds, or of a granule of the mailbox ring
(R436). -/
def State.queuePoison (s : State) (cl q : Nat) : State :=
  if q = 14 then
    let a := (s.cl cl).ctl.mbSlot (s.cl cl).ctl.mbHead + 8 * (s.cl cl).ctl.mbPos
    s.corePoison cl (.sp cl (a / 32)) (spLoc cl a) 1
  else s.corePoison cl (.file cl (queueWord q)) (queueWord q) 1

/-! ### Tile sources and guards -/

/-- A register index as a number. -/
def opIdx : Opnd → Nat
  | .reg i _ => i.toNat
  | .queue _ _ _ _ => 0

/-- The value of a tile source in lane `l`, with the view's index (R321). -/
def State.src (s : State) (f : XF) (o : Opnd) (vi l : Nat) : W32 :=
  match o with
  | .reg i v =>
    let t := s.x.tile (s.x.phys i.toNat)
    match v.toNat with
    | 0 => Tile.lane t l
    | 1 => Tile.lane t (64 * vi + l % 64)
    | 2 => Tile.lane t (64 * (l / 64) + vi)
    | _ => Tile.lane t (64 * (l / 64) + (l % 64 + l / 64) % 64)
  | .queue q _ _ _ => if q == 15 then f.imm.setWidth 32 else (s.qHead s.focus q.toNat).lane l

def State.srcA (s : State) (f : XF) (l : Nat) : W32 := s.src f f.a (bits f.imm.toNat 63 58) l
def State.srcB (s : State) (f : XF) (l : Nat) : W32 := s.src f f.b (bits f.imm.toNat 57 52) l
def State.srcC (s : State) (f : XF) (l : Nat) : W32 := s.src f f.c (bits f.imm.toNat 51 46) l

/-- The guard of a syllable (R322). -/
def State.guard (s : State) (f : XF) : Pred :=
  let k := s.x.pred f.gp.toNat
  if f.neg then ~~~k else k

/-- An x register named by an operand, and the second operand of a scalar syllable: an x register or IMM32 (R214). -/
def State.xr (s : State) (o : Opnd) : W64 := s.x.xreg (opIdx o)
def State.xb (s : State) (f : XF) : W64 :=
  if Opnd.isMarker f.b then (f.imm.setWidth 32).signExtend 64 else s.xr f.b

/-! ### Issue and landing -/

/-- A result in flight from the syllable of slot `s.slot` of the focused X-core, due `lat` vcyc after its issue. -/
def State.xland (s : State) (pcl lat : Nat) (e : Eff) : State :=
  s.onX s.focus fun x =>
    { x with land := x.land ++ [{ due := x.vcyc + lat, issued := x.vcyc, slot := s.slot, pcl := pcl, eff := e, vig := none }] }

/-- The counter of the focused X-core freezes (R190). -/
def State.xfreeze (s : State) (k : Freeze) : State :=
  s.onX s.focus fun x => { x with freeze := some k, frozenAt := if x.freeze = none then s.clk else x.frozenAt }

/-- A syllable's issue with its queue operands (R82, R190-R193, R322): a not-ready operand on an empty queue cancels the syllable and clears
k7; else a stall-mode operand on one freezes the counter; otherwise heads are popped, the syllable's results are
in flight, and a syllable with a not-ready operand sets k7. A poisoned head that is delivered aborts the task (R298, R436). -/
def State.xissue (s : State) (f : XF) (es : List (Nat × Eff)) : Out :=
  let qs := qOpnds f
  let nr := qs.any fun (_, _, stall) => !stall
  if s.qStalls s.focus f then .next (s.xfreeze .queue)
  else if qs.any fun (q, _, _) => (s.qHead s.focus q).isEmpty then .next (s.xland 0 1 (.k7 false))
  else match s.qPoisoned s.focus f with
  | some q => .next (s.queuePoison s.focus q)
  | none =>
    let t := qs.foldl (fun s (q, pop, _) => if pop then s.qPop s.focus q else s) s
    let t := es.foldl (fun s (lat, e) => s.xland f.pcl.toNat lat e) t
    .next (if nr then t.xland 0 1 (.k7 true) else t)

/-- A tile result: the lanes of the guard take `v`. -/
def State.xtile (s : State) (f : XF) (lat : Nat) (v : Nat → W32) : Out :=
  s.xissue f [(lat, .tile (s.x.phys (opIdx f.d)) (s.guard f) (Tile.ofFn v))]

/-- A tile result with the exception flags that the guarded lanes raise (R245, R322). -/
def State.xtileFlags (s : State) (f : XF) (lat : Nat) (v : Nat → W32 × Nat) : Out :=
  let g := s.guard f
  let fl := (List.range 1024).foldl (fun acc l => if g.getLsbD l then acc ||| (v l).2 else acc) 0
  s.xissue f ((lat, .tile (s.x.phys (opIdx f.d)) g (Tile.ofFn fun l => (v l).1)) :: if fl = 0 then [] else [(lat, .flags fl)])

/-- A predicate result in the guarded lanes, with flags. -/
def State.xpred (s : State) (f : XF) (lat : Nat) (v : Nat → Bool × Nat) : Out :=
  let g := s.guard f
  let fl := (List.range 1024).foldl (fun acc l => if g.getLsbD l then acc ||| (v l).2 else acc) 0
  s.xissue f ((lat, .pred (opIdx f.d) g (predOfFn fun l => (v l).1)) :: if fl = 0 then [] else [(lat, .flags fl)])

/-- A scalar result. -/
def State.xscalar (s : State) (f : XF) (lat : Nat) (v : W64) : Out := s.xissue f [(lat, .x (opIdx f.d) v)]

/-- The address the syllable being issued lies at (R184, R185). -/
def State.xpc (s : State) : Nat := if s.x.indep then NMap.get 0 s.x.spc s.slot else s.x.pc

/-- The stream of slot 0 continues at an address from the next vcyc on. -/
def State.xgoto (s : State) (a : Nat) : State :=
  s.onX s.focus fun x => { x with jump := some a }

/-- A branch target: an offset in 16-byte units from the syllable (R220), modulo 2^64. -/
def State.xtarget (s : State) (f : XF) : Nat :=
  let at_ := if s.x.indep then s.xpc else s.x.pc + 16 * s.slot
  wrap 64 (at_ + 16 * sext 32 f.imm.toNat)

/-- The X-core raises a trap and drains (R416). -/
def State.xraise (s : State) (code detail tval : Nat) : State :=
  s.onX s.focus fun x => x.raise { code := code, detail := detail, tval := tval, slot := s.slot }

end Sys2Proof.Machine
end

