-- ==== Sys2Proof/Machine/Span.lean ====
section
/-! DEFINITION. The units of an engine command (R69, R156, R301-R306): the bytes that each reads or writes, which of them are still open, and
what scopes those lie in (R142), the order among commands (R104, R143), tile transfers and bank locks (R66-R71), and acceptance (R284, R286). -/

namespace Sys2Proof.Machine

/-- The address of an endpoint. -/
def epAddr : Ep → Nat
  | .sp _ a | .tw _ a | .va a => a
  | .none => 0

/-! ### Units -/

/-- A run of bytes of a command: the index of the first one, how many, and the address of the first. -/
structure Span where
  i : Nat
  n : Nat
  a : Nat
  deriving DecidableEq, Repr

/-- The number of aligned 64-byte units that bytes [base, base + total) meet, and the `j`-th of them. -/
def unitCount (base total : Nat) : Nat := if total = 0 then 0 else (base + total - 1) / 64 - base / 64 + 1
def unitSpan (base total j : Nat) : Span :=
  let lo := Nat.max base (64 * (base / 64 + j))
  { i := lo - base, n := Nat.min (base + total) (64 * (base / 64 + j + 1)) - lo, a := lo }

/-- The part of an element of `n` bytes at `a` that lies in its first 64-byte unit, or in the second: an element of a template meets
at most two. -/
def partSpan (i a n part : Nat) : Span :=
  let first := Nat.min n (64 - a % 64)
  if part = 0 then { i := i, n := first, a := a } else { i := i + first, n := n - first, a := a + first }

/-- The template of a copy. -/
def Cmd.copyTpl (k : Cmd) : Option Nat := if k.kind = .xcopy then k.tpl else none

/-- The bytes of the source: a broadcast reads one cell's worth (R303). -/
def Cmd.srcTotal (k : Cmd) : Nat := if k.bcast then k.aux else k.count

/-- The source byte that a destination byte takes. -/
def Cmd.srcIndex (k : Cmd) (i : Nat) : Nat := if k.bcast then i % k.aux else i

/-- The units of an endpoint of `total` bytes: 64-byte units of global memory, two parts per element of a template, 64-byte units of
towers; none in a scratchpad, which is accessed in pieces. -/
def Cmd.unitsOf (k : Cmd) (e : Ep) (total : Nat) : Nat :=
  match e with
  | .va a => (match k.copyTpl with
    | some t => 2 * tplCount t
    | none => unitCount a total)
  | .tw _ _ => cdiv total 64
  | _ => 0

/-- Unit `j` of an endpoint. -/
def Cmd.unitOf (k : Cmd) (e : Ep) (str : Nat → Nat → Int) (total j : Nat) : Span :=
  match e with
  | .va a => (match k.copyTpl with
    | some t => partSpan (tplSize t * (j / 2)) (a + tplOff t str (j / 2)).toNat (tplSize t) (j % 2)
    | none => unitSpan a total j)
  | .tw _ a => { i := 64 * j, n := Nat.min 64 (total - 64 * j), a := a + 64 * j % k.aux }
  | _ => { i := 0, n := 0, a := 0 }

def Cmd.srcUnits (k : Cmd) : Nat := k.unitsOf k.src k.srcTotal
def Cmd.dstUnits (k : Cmd) : Nat := k.unitsOf k.dst k.count
def Cmd.srcUnit (k : Cmd) (j : Nat) : Span := k.unitOf k.src tplSrc k.srcTotal j
def Cmd.dstUnit (k : Cmd) (j : Nat) : Span := k.unitOf k.dst tplDst k.count j

/-- The cell of a tower unit. -/
def Cmd.unitCell (k : Cmd) (e : Ep) (j : Nat) : Nat :=
  match e with
  | .tw (some c) _ => c
  | _ => 64 * j / k.aux

/-- Source bytes [i, i + n) have been read. -/
def Cmd.has (k : Cmd) (i n : Nat) : Bool :=
  match k.src with
  | .va a =>
    (match k.copyTpl with
    | some t => (List.range 2).all fun p => (k.srcUnit (2 * (i / tplSize t) + p)).n == 0 || k.got.contains (2 * (i / tplSize t) + p)
    | none => (List.range (unitCount (a + i) n)).all fun u => k.got.contains ((a + i) / 64 - a / 64 + u))
  | .tw _ _ => (List.range (unitCount i n)).all fun u => k.got.contains (i / 64 + u)
  | _ => true

/-! ### Gathers and near-memory commands -/

/-- The destination bytes of a gather: where byte `i` of column `j` goes, the bytes of a column, and the number of columns (R109). -/
def patCols (p : Nat) : Nat := bits p 43 32 + 1
def patRows (p : Nat) : Nat := bits p 63 48 + 1
def patStep (p : Nat) : Nat := bits p 71 64 + 1
def patPitch (p : Nat) : Nat := bits p 117 96
def patOut (p : Nat) : Bool := bit p 13
def patPlanes (p : Nat) : Nat := bits p 19 16 + 1

/-- The address of element (c, r) of a gathered tensor, and whether it is the upper nibble of its byte (R30-R32). -/
def Cmd.elemAddr (k : Cmd) (c r : Nat) : Nat × Bool :=
  let t := k.tpl.getD 0
  if recFmt t = 0x15 then ((recBase t + (c / 2 : Nat) + r * recStr t 1 : Int).toNat, c % 2 == 1)
  else ((recBase t + c * recStr t 0 + r * recStr t 1 : Int).toNat, false)

/-- The near-memory commands. -/
def CmdKind.near : CmdKind → Bool
  | .nmred | .nmcas | .nmsax => true
  | _ => false

/-- The number of bank-side requests of a command, and the elements of request `j`: an NMCAS sends one per word. -/
def Cmd.nmUnits (k : Cmd) : Nat := if k.kind = .nmcas then k.aux else unitCount (epAddr k.dst) k.count
def Cmd.nmSpan (k : Cmd) (j : Nat) : Span :=
  if k.kind = .nmcas then { i := 8 * j, n := 8, a := epAddr k.dst + 8 * j } else unitSpan (epAddr k.dst) k.count j

/-! ### Pieces (R69) -/

/-- The elements of a template in the order of their destination addresses, those with one address in index order. -/
def tplSorted (t : Nat) : List Nat :=
  sortLe (fun x y => decide (tplOff t tplDst x ≤ tplOff t tplDst y)) (List.range (tplCount t))

/-- Bytes that one gathered column writes: elements, or whole plane blocks without the padding of the row (R109). -/
def Cmd.colBytes (k : Cmd) : Nat :=
  if patOut k.pat then patRows k.pat / 16 * (2 * (patPlanes k.pat + 2)) else patRows k.pat * (fmtBits (recFmt (k.tpl.getD 0)) / 8)

/-- The number of tile transfers of a command: pieces of 4,096 written bytes. -/
def Cmd.pieces (k : Cmd) : Nat :=
  match k.kind with
  | .tldq => 1
  | .nmred | .nmcas | .nmsax | .msend => 0
  | .gather => cdiv (patCols k.pat * k.colBytes) 4096
  | _ => (match k.dst with
    | .sp _ _ => cdiv k.count 4096
    | _ => 0)

/-- The runs of bytes of piece `p`: source or buffer index, length, and destination address; for a TLDQ the place in the tile. -/
def Cmd.pieceSpans (k : Cmd) (p : Nat) : List Span :=
  match k.copyTpl with
  | some t =>
    let z := tplSize t
    (((tplSorted t).drop (p * (4096 / z))).take (4096 / z)).map fun e =>
      { i := e * z, n := z, a := (epAddr k.dst + tplOff t tplDst e).toNat }
  | none =>
    if k.kind = .gather then
      let b := Nat.max 1 k.colBytes
      let hi := Nat.min (4096 * (p + 1)) (patCols k.pat * b)
      (List.range (cdiv hi b - 4096 * p / b)).map fun c =>
        let j := 4096 * p / b + c
        let x := Nat.max (4096 * p) (j * b)
        { i := j * patPitch k.pat + (x - j * b), n := Nat.min hi ((j + 1) * b) - x, a := epAddr k.dst + j * patPitch k.pat + (x - j * b) }
    else [{ i := 4096 * p, n := Nat.min 4096 (k.count - 4096 * p), a := epAddr k.dst + 4096 * p }]

/-- The bytes of the command's count up to the end of piece `p`: those between two columns go with the column before them (R109). -/
def Cmd.pieceEnd (k : Cmd) (p : Nat) : Nat :=
  if k.kind = .gather then (if p + 1 < k.pieces then
    (match k.pieceSpans (p + 1) with
    | x :: _ => x.i
    | [] => k.count) else k.count)
  else Nat.min (4096 * (p + 1)) k.count

/-- The aligned 32-byte granules that a run of bytes meets, and those that piece `p` writes (R71). -/
def granulesOf (a n : Nat) : List Nat := if n = 0 then [] else (List.range ((a + n - 1) / 32 - a / 32 + 1)).map (a / 32 + ·)
def Cmd.granules (k : Cmd) (p : Nat) : List Nat := ((k.pieceSpans p).flatMap fun x => granulesOf x.a x.n).eraseDups

/-- The part of a run of bytes that lies in granule `g`. -/
def Span.cut (x : Span) (g : Nat) : Span :=
  let lo := Nat.max x.a (32 * g)
  { i := x.i + (lo - x.a), n := Nat.min (x.a + x.n) (32 * g + 32) - lo, a := lo }

/-- The runs of granule `g` of piece `p`. -/
def Cmd.granuleSpans (k : Cmd) (p g : Nat) : List Span := ((k.pieceSpans p).map fun x => x.cut g).filter fun x => x.n != 0

/-- No element of a template after the one that holds source byte `i` writes destination address `a`: the byte is the command's last
there (R156). -/
def Cmd.isLast (k : Cmd) (i a : Nat) : Bool :=
  match k.copyTpl with
  | some t => (List.range (tplCount t)).all fun x =>
      decide (x ≤ i / tplSize t) || !(decide (epAddr k.dst + tplOff t tplDst x ≤ a) && decide ((a : Int) < epAddr k.dst + tplOff t tplDst x + tplSize t))
  | none => true

/-- The source byte that goes to destination address `a` from some runs. -/
def Cmd.byteFor (k : Cmd) (xs : List Span) (a : Nat) : Option Nat :=
  xs.findSome? fun x => if x.a ≤ a && decide (a < x.a + x.n) && k.isLast (x.i + (a - x.a)) a then some (x.i + (a - x.a)) else none

/-- The bytes that are there, in runs from address `a` on. -/
def byteRuns : Nat → List (Option Byte) → List (Nat × List Byte)
  | _, [] => []
  | a, none :: bs => byteRuns (a + 1) bs
  | a, some b :: bs =>
    match byteRuns (a + 1) bs with
    | (x, ys) :: zs => if x = a + 1 then (a, b :: ys) :: zs else (a, [b]) :: (x, ys) :: zs
    | [] => [(a, [b])]

/-! ### Bytes in scratchpads, and elements of templates -/

/-- The scratchpad address of source byte `i`. -/
def Cmd.spAddr (k : Cmd) (a i : Nat) : Nat :=
  match k.copyTpl with
  | some t => (a + tplOff t tplSrc (i / tplSize t)).toNat + i % tplSize t
  | none => a + i

/-- Commands whose global endpoints are reached in plain units. -/
def CmdKind.plain : CmdKind → Bool
  | .xcopy | .tfill | .tdrain => true
  | _ => false

/-- The source is a scratchpad that is read into the buffer, in elements of this size: those of a template, and 32 bytes of what goes to global memory
or to towers, which can be read before it is written (R156). -/
def Cmd.spElem (k : Cmd) : Option Nat :=
  match k.src, k.copyTpl with
  | .sp _ _, some t => some (tplSize t)
  | .sp _ _, none => (match k.dst with
    | .va _ | .tw _ _ => if k.kind.plain then some 32 else none
    | .sp _ _ | .none => none)
  | _, _ => none

/-- The bytes of source element `e` of size `z`. -/
def Cmd.elemLen (k : Cmd) (z e : Nat) : Nat := Nat.min z (k.srcTotal - e * z)

/-- Two extents of one space share a byte. -/
def Ext.meets (x y : Ext) : Bool :=
  let m (a b : Nat) : Bool := decide ((a : Int) + x.lo ≤ b + y.hi) && decide ((b : Int) + y.lo ≤ a + x.hi)
  match x.ep, y.ep with
  | .va a, .va b => m a b
  | .sp c a, .sp d b => c == d && m a b
  | _, _ => false

/-- Elements that may lie across two granules, of a copy whose ends may overlap, are all read before the first is written: so none mixes old bytes
with new (R156, log 86). An aligned element lies in one granule, and two global ends may meet in physical memory whatever their addresses are. -/
def Cmd.readsFirst (k : Cmd) : Bool :=
  match k.copyTpl with
  | some t => (epAddr k.src % tplSize t != 0 || epAddr k.dst % tplSize t != 0) && (match k.src, k.dst with
    | .va _, .va _ => true
    | _, _ => (tplBox t tplSrc k.src).meets (tplBox t tplDst k.dst))
  | none => false

/-- The elements that have to be read from a scratchpad before some source bytes are written. -/
def Cmd.elems (k : Cmd) (is : List Nat) : List Nat :=
  match k.spElem with
  | some z => (if k.readsFirst then List.range (k.count / z) else (is.map fun i => k.srcIndex i / z).eraseDups).filter fun e => !k.got.contains e
  | none => []

/-- The runs of source bytes of a scratchpad that are read now for some runs of a transfer. -/
def Cmd.spReads (k : Cmd) (xs : List Span) : List (Nat × Nat) :=
  match k.spElem with
  | some z => (k.elems (xs.flatMap fun x => (List.range x.n).map (x.i + ·))).map fun e => (e * z, k.elemLen z e)
  | none => xs.map fun x => (k.srcIndex x.i, x.n)

/-- Elements are taken from their scratchpad into the buffer: those given, or those of some source bytes. -/
def State.readElems (s : State) (k : Cmd) (es : List Nat) : Cmd :=
  match k.src, k.spElem with
  | .sp c a, some z => es.foldl (fun k e =>
      { k with got := k.got ++ [e], buf := Memory.write k.buf (e * z) (s.spRead c (k.spAddr a (e * z)) (k.elemLen z e)) }) k
  | _, _ => k
def State.takeElems (s : State) (k : Cmd) (is : List Nat) : Cmd := s.readElems k (k.elems is)

/-- The bytes that source bytes [i, i + n) hold, and a poisoned scratchpad unit among them. -/
def State.srcBytes (s : State) (k : Cmd) (i n : Nat) : List Byte :=
  match k.src, k.spElem with
  | .sp c a, none => s.spRead c (k.spAddr a i) n
  | _, _ => k.buf.read i n
def State.srcBad (s : State) (k : Cmd) (i n : Nat) : Option (Nat × Nat) :=
  match k.src with
  | .sp c a => if s.spPoisoned c (k.spAddr a i) n then some (c, k.spAddr a i) else none
  | _ => none

/-- Elements of a template in global memory that are all read first have been. -/
def Cmd.readAll (k : Cmd) : Bool :=
  match k.src with
  | .va _ => !k.readsFirst || (List.range k.srcUnits).all fun j => (k.srcUnit j).n == 0 || k.got.contains j
  | _ => true

/-- The columns that some runs of a piece hold have been gathered, or their source bytes read. -/
def Cmd.runsReady (k : Cmd) (xs : List Span) : Bool :=
  k.readAll && xs.all fun x =>
    if k.kind = .gather then k.got.contains (x.i / Nat.max 1 (patPitch k.pat)) else k.has (k.srcIndex x.i) x.n

/-! ### Bank locks (R66, R70) -/

/-- Banks of a cluster's scratchpad. -/
def bankPairs (cl a n : Nat) : List (Nat × Nat) := (banksOf a n).map fun b => (cl, b)

/-- The banks that piece `p` of a command writes and reads. -/
def Cmd.banks (k : Cmd) (p : Nat) : Banks :=
  let xs := k.pieceSpans p
  { wr := match k.dst with
      | .sp c _ => xs.flatMap fun x => bankPairs c x.a x.n
      | _ => [],
    rd := match k.src with
      | .sp c a => xs.flatMap fun x => bankPairs c (k.spAddr a x.i) x.n
      | _ => [] }

/-- Two sets of banks share one. -/
def Banks.share (x y : Banks) : Bool := (x.wr ++ x.rd).any fun b => (y.wr ++ y.rd).contains b

/-- A command that has not begun gives way to what its core issued before it: the locks that it got at its acceptance hold none of that back
(log 42). `age` is the place of an access or a command in the program order of its core. -/
def Cmd.givesWay (k : Cmd) (age : Option Nat) : Bool := !k.started && age.any fun q => decide (q < k.seq)

/-- The banks that the tile image of a DRAIN is written to (R354). -/
def TileWrite.banks (d : TileWrite) (cl : Nat) : Banks := { wr := bankPairs cl d.at_ 4096, rd := [] }

/-- A bank of an access is held by a tile transfer of the cluster: one that writes it, or for a write also one that reads it. -/
def State.cmdBankHeld (s : State) (cl : Nat) (age : Option Nat) (write : Bool) (home a n : Nat) : Bool :=
  (s.cl cl).a.cmds.any fun k => k.lock == 2 && !k.givesWay age && (bankPairs home a n).any fun b =>
    (k.banks k.piece).wr.contains b || (write && (k.banks k.piece).rd.contains b)
def State.bankHeld (s : State) (cl : Nat) (age : Option Nat) (write : Bool) (home a n : Nat) : Bool :=
  s.cmdBankHeld cl age write home a n || (s.cl cl).arr.drain.any fun d => d.data.isSome && (bankPairs home a n).any (d.banks cl).wr.contains

/-- A scratchpad access of an agent of cluster `cl` to `home` waits: for a bank lock, while the vertical buses of the home are
retrained (R476), or while the home's cluster is being moved (R449). -/
def State.spBlocked (s : State) (cl : Nat) (age : Option Nat) (write : Bool) (home a n : Nat) : Bool :=
  s.bankHeld cl age write home a n || (s.cl home).ctl.retrainEnd.isSome || (home != cl && (s.cl home).ctl.held)

/-- A transfer can have all its banks: none is locked, and no earlier waiting transfer has asked for one of them (R70). -/
def State.banksFree (s : State) (cl : Nat) (k : Cmd) : Bool :=
  let b := k.banks k.piece
  !((s.cl cl).a.cmds.any fun j => j.id != k.id && !j.givesWay (some k.seq)
    && ((j.lock == 2 && (j.banks j.piece).clash b) || (j.lock == 1 && decide (j.ask < k.ask) && (j.banks j.piece).share b)))
  && !(s.cl cl).arr.drain.any fun d =>
    if d.data.isSome then (d.banks cl).clash b else !s.halting cl && decide (d.ask < k.ask) && (d.banks cl).share b

/-- The tile image of a DRAIN can have all its banks (R70). -/
def State.drainFree (s : State) (cl : Nat) (d : TileWrite) : Bool :=
  let b := d.banks cl
  !(s.cl cl).a.cmds.any fun j =>
    (j.lock == 2 && (j.banks j.piece).clash b) || (j.lock == 1 && decide (j.ask < d.ask) && (j.banks j.piece).share b)

/-- A transfer takes its banks. One that has not begun and gave way to it waits for its own again. -/
def State.lockBanks (s : State) (cl : Nat) (k : Cmd) : State :=
  let b := k.banks k.piece
  s.onA cl fun a => { a with cmds := a.cmds.map fun j =>
    if j.id = k.id then { j with lock := 2 } else if j.lock == 2 && (j.banks j.piece).clash b then { j with lock := 1 } else j }

/-! ### Acceptance (R284, R286) -/

/-- A command as it joins the cluster's commands: with the mask of the windows its declared extents meet (R149); one of a single piece asks
for its banks (R70). -/
def State.taken (s : State) (k : Cmd) (es : List Ext) : Cmd :=
  { k with wins := s.a.winMask es, lock := flag (decide (k.pieces = 1)) 0, ask := if k.pieces = 1 then s.a.nextId else 0 }
def State.joinCmd (s : State) (k : Cmd) : State :=
  s.onA s.focus fun a => { a with cmds := a.cmds ++ [k], seq := a.seq + 1, nextId := a.nextId + 1 }

/-- A command accepted: it joins the others, and one of a single piece takes its banks if they are free (R70). -/
def State.takeCmd (s : State) (k : Cmd) (es : List Ext) : State :=
  let k := s.taken k es
  if k.lock = 1 && (s.joinCmd k).banksFree s.focus k then (s.joinCmd k).lockBanks s.focus k else s.joinCmd k

/-- An engine command: its registers hold their newest results, its checks pass, and it finds room (R265, R284, R286). -/
def State.accept (s : State) (f : AF) (regs : List (BitVec 6)) (err : Option Flt) (k : Cmd) (es : List Ext) : Out :=
  if !s.ready regs then .next s
  else match err with
    | some e => .next (s.trapFlt e)
    | none =>
      if es.any (fun e => e.ep.global) && !s.firmReady then .next s
      else if s.cmdFull then .next (s.waitAt .room f) else .next (s.takeCmd k es).advance

/-- Bytes of an element of a TYPE code. -/
def typeBytes (t : Nat) : Nat := typeWidth t / 8

/-- Bytes of a target element of a near-memory command. -/
def Cmd.nmSize (k : Cmd) : Nat :=
  match k.kind with
  | .nmred => typeBytes k.layout
  | .nmcas => 8
  | _ => 4

/-! ### What is still to be accessed -/

/-- The addresses that a command has still to read or write in global memory, with the access code of R55. -/
def Cmd.openUnits (k : Cmd) : List (Nat × Nat) :=
  let units (e : Ep) (n off : Nat) (done : List Nat) (f : Nat → Span) (acc : Nat) : List (Nat × Nat) := match e with
    | .va _ => ((List.range n).filter fun j => (f j).n != 0 && !done.contains (off + j)).map fun j => ((f j).a, acc)
    | _ => []
  match k.kind with
  | .gather =>
    ((List.range (patCols k.pat)).filter fun j => !k.got.contains j).flatMap fun j =>
      (List.range (patRows k.pat)).map fun i => ((k.elemAddr (bits k.aux 31 0 + j * patStep k.pat) (bits k.aux 63 32 + i)).1, 0)
  | .nmred | .nmcas | .nmsax => units k.dst k.nmUnits 0 k.done k.nmSpan 3
  | _ => units k.src k.srcUnits 0 k.got k.srcUnit 0 ++ units k.dst k.dstUnits k.srcUnits k.done k.dstUnit 1
    ++ (if k.stamp.isSome && !k.done.contains (k.srcUnits + k.dstUnits) then [(k.aux, 1)] else [])

/-- The runs of payload that request `j` of a near-memory command reads: offset and length. -/
def Cmd.nmPayload (k : Cmd) (j : Nat) : List (Nat × Nat) :=
  let x := k.nmSpan j
  let e := x.i / k.nmSize
  let n := x.n / k.nmSize
  match k.kind with
  | .nmcas => [(16 * j, 16)]
  | .nmsax => [(0, 4), (32 + e * typeBytes k.layout, n * typeBytes k.layout)]
  | _ => [(x.i, x.n)]

/-- The runs of bytes that a command has still to read or write in scratchpads: cluster, address and length. -/
def Cmd.openSp (k : Cmd) : List (Nat × Nat × Nat) :=
  let src (xs : List Span) : List (Nat × Nat × Nat) := match k.src with
    | .sp c a => xs.map fun x => (c, k.spAddr a (k.srcIndex x.i), x.n)
    | _ => []
  let dst (xs : List Span) : List (Nat × Nat × Nat) := match k.dst with
    | .sp c _ => xs.map fun x => (c, x.a, x.n)
    | _ => []
  match k.kind with
  | .nmred | .nmcas | .nmsax => (match k.src with
    | .sp c a => (((List.range k.nmUnits).filter fun j => !k.done.contains j).flatMap k.nmPayload).map fun x => (c, a + x.1, x.2)
    | _ => [])
  | .msend => if k.started then [] else src [{ i := 0, n := k.count, a := 0 }]
  | _ =>
    let xs := ((List.range k.pieces).filter fun p => decide (k.piece ≤ p)).flatMap fun p =>
      if p = k.piece then ((k.granules p).filter fun g => !k.gran.contains g).flatMap (k.granuleSpans p) else k.pieceSpans p
    (match k.src, k.spElem with
      | .sp c a, some z => ((List.range (cdiv k.srcTotal z)).filter fun e => !k.got.contains e).map fun e => (c, k.spAddr a (e * z), k.elemLen z e)
      | _, _ => src xs)
    ++ dst xs

/-- A command has still to read or write towers. -/
def Cmd.openTower (k : Cmd) : Bool :=
  (match k.src with
    | .tw _ _ => (List.range k.srcUnits).any fun j => !k.got.contains j
    | _ => false)
  || match k.dst with
    | .tw _ _ => (List.range k.dstUnits).any fun j => !k.done.contains (k.srcUnits + j)
    | _ => false

/-! ### Order among commands (R104, R143) -/

/-- The task of a command is the one on its cluster, or the command is firmware's there. -/
def State.here (s : State) (cl : Nat) (k : Cmd) : Bool := k.mode == .s || k.ofTask (s.cl cl)

/-- The accesses and the commands of the core among which a command has its place. -/
def State.accsWith (s : State) (cl : Nat) (k : Cmd) : List Acc :=
  if s.here cl k then (s.runA cl).accs else (s.cl cl).a.stores.filter fun l => l.late == some (k.node, k.task)
def State.cmdsWith (s : State) (cl : Nat) (k : Cmd) : List Cmd :=
  if s.here cl k then s.runCmds cl
  else (s.cl cl).a.cmds.filter fun j => j.mode == k.mode && j.node == k.node && j.task == k.task

/-- The earlier commands with which a command keeps the order of acceptance in scratchpad granules: those of its class (R143). -/
def State.earlierSp (s : State) (cl : Nat) (k : Cmd) : List Cmd := (s.cmdsWith cl k).filter fun j => decide (j.seq < k.seq) && j.cls == k.cls

/-- Those with which it keeps it in HBM units: the requests of near-memory commands of class 0 keep none among themselves (R104). -/
def State.earlier (s : State) (cl : Nat) (k : Cmd) : List Cmd :=
  (s.earlierSp cl k).filter fun j => !(k.cls == 0 && k.kind.near && j.kind.near)

/-- The HBM unit at a virtual address: the chip, and the unit there. -/
def State.unitAt (s : State) (cl cid va : Nat) : Option (Place × Nat) :=
  match (s.resolve cl cid va (.stream 0) []).1 with
  | .at_ .hbm pa => some (.hbm, pa / 64)
  | .at_ (.remote c) pa => some (.remote c, pa / 64)
  | _ => none

/-- Two virtual addresses of commands lie in one HBM unit, whichever pages they go through. -/
def State.sameUnit (s : State) (cl cid va cid' va' : Nat) : Bool :=
  (cid == cid' && va / 64 == va' / 64) || ((s.unitAt cl cid va).isSome && s.unitAt cl cid' va' == s.unitAt cl cid va)

/-- An earlier command has still to access the HBM unit at a virtual address of a command, by whatever address of its own (R104, R143). -/
def State.unitHeld (s : State) (cl : Nat) (k : Cmd) (va : Nat) : Bool :=
  (s.earlier cl k).any fun j => j.openUnits.any fun x => s.sameUnit cl k.cid va j.cid x.1

/-- An earlier command has still to access a scratchpad granule of some runs of bytes (R143). -/
def State.granuleHeld (s : State) (cl : Nat) (k : Cmd) (xs : List (Nat × Nat × Nat)) : Bool :=
  (s.earlierSp cl k).any fun j => j.openSp.any fun y => xs.any fun x =>
    x.1 == y.1 && x.2.2 != 0 && y.2.2 != 0 && decide (x.2.1 / 32 ≤ (y.2.1 + y.2.2 - 1) / 32) && decide (y.2.1 / 32 ≤ (x.2.1 + x.2.2 - 1) / 32)

/-- The least rank of a scope that covers a virtual address of a command: local HBM, or another chip or the host window; an address whose
translation is not to be had may lie in local HBM. -/
def State.vaRank (s : State) (cl cid va : Nat) : Nat :=
  match (s.resolve cl cid va (.stream 0) []).1 with
  | .at_ (.remote _) _ | .at_ .host _ => 3
  | _ => 2

/-- A command has still to access a location in a scope (R142, R145): bytes of scratchpads, towers, the load queue of a TLDQ, or units of global
memory. -/
def State.cmdOpen (s : State) (cl : Nat) (sc : Scope) (k : Cmd) : Bool :=
  let r := scopeRank sc
  (k.openSp.any fun y => y.2.2 != 0 && decide ((if y.1 = cl then 0 else 1) ≤ r)) || k.openTower || (k.kind == .tldq && !k.hasPerformed)
    || k.openUnits.any fun u => decide (s.vaRank cl k.cid u.1 ≤ r)

/-- The commands among some that have still to access a location in a scope. -/
def State.openCmds (s : State) (cl : Nat) (sc : Scope) (ks : List Cmd) : List Cmd := ks.filter (s.cmdOpen cl sc)

end Sys2Proof.Machine
end

