-- ==== Sys2Proof/Machine/Engine.lean ====
section
/-! DEFINITION. A-core instructions that move tiles, accept engine commands and act on completion words, semaphores, buffers and
mailboxes (R298-R311). -/

namespace Sys2Proof.Machine

/-! ### Tiles to and from the X-core (R298-R300) -/

/-- The endpoint `SPA + offset` of TLDQ and SQD. -/
def State.tileEp (s : State) (f : AF) : Ep :=
  match locEp s.focus (s.g f.sa).toNat with
  | .sp c a => .sp c (a + bits f.imm.toNat 21 0)
  | e => e

/-- The checks of TLDQ and SQD (R298). -/
def State.tileErr (s : State) (f : AF) : Option Flt :=
  let v := (s.g f.sa).toNat
  let e := Ext.of (s.tileEp f) 4096
  firstFlt [locForm v (spaceIn false true false), s.locScope s.focus v, e.check v, orAlign (epAddr e.ep % 32 == 0) (epAddr e.ep),
    s.extOwner s.focus e v]

/-- TLDQ (R298): a slot is reserved at acceptance, waiting if none is free (R82). -/
def execTldq (f : AF) (s : State) : Out :=
  let q := f.d.toNat
  let k := s.newCmd f .tldq f.ocl.toNat 0 none (s.tileEp f) .none 4096
  if !s.ready [f.sa] then .next s
  else match s.tileErr f with
    | some e => .next (s.trapFlt e)
    | none =>
      if 8 ≤ (NMap.get [] s.x.lq q).length then .next (s.waitAt .tldq f)
      else if s.cmdFull then .next (s.waitAt .room f)
      else .next ((s.takeCmd { k with aux := q } [Ext.of (s.tileEp f) 4096]).onX s.focus fun x =>
        { x with lq := NMap.set [] x.lq q
                   (NMap.get [] x.lq q ++ [{ cmd := k.id, ready := false, tile := [], poison := false }]) }).advance

/-- The 4,096 bytes of a tile image (R69). -/
def tileBytes (t : Tile) : List Byte := (List.range 1024).flatMap fun l => toBytes 4 (Tile.lane t l).toNat

/-- The tile of a 4,096-byte image. -/
def bytesTile (m : Memory) (a : Nat) : Tile := Tile.ofFn fun l => BitVec.ofNat 32 (m.readN (a + 4 * l) 4)

/-- SQD (R299): it waits while the queue is empty; the head tile goes with the command, whose slot it holds until the transfer is done
(R83). -/
def execSqd (f : AF) (s : State) : Out :=
  let q := f.d.toNat
  let k := s.newCmd f .sqd f.ocl.toNat 0 none .none (s.tileEp f) 4096
  if !s.ready [f.sa] then .next s
  else match s.tileErr f with
    | some e => .next (s.trapFlt e)
    | none =>
      match NMap.get [] s.x.sq q with
      | [] => .next (s.waitAt .sqd f)
      | t :: ts =>
        if s.cmdFull then .next (s.waitAt .room f)
        else .next ((s.takeCmd { k with aux := q, buf := Memory.write [] 0 (tileBytes t) } [Ext.of (s.tileEp f) 4096]).onX s.focus fun x =>
          { x with sq := NMap.set [] x.sq q ts }).advance

/-- The queue status word (R86), with the slots taken of each store queue. -/
def XCore.qstat (x : XCore) (occ : Nat → Nat) : Nat :=
  (List.range 8).foldl (fun acc q => acc + (NMap.get [] x.lq q).length * 2 ^ (4 * q)
      + flag (match NMap.get [] x.lq q with
        | h :: _ => h.ready
        | [] => false) (48 + q)) 0
    + (List.range 4).foldl (fun acc q => acc + occ q * 2 ^ (32 + 4 * q)) 0

/-- QSTAT (R300). -/
def execQstat (f : AF) (s : State) : Out := whenReady s [f.d] (s.result f.d (BitVec.ofNat 64 (s.x.qstat (s.sqOcc s.focus))))

/-! ### Copies (R301, R302) -/

/-- The completion operand in a register, and the word's checks in the order of R284. -/
def State.locErr (s : State) (vs : List (Nat × (Ep → Bool) × Ext)) (word : Nat) (own : List Nat) (aligned : List (Option Flt)) :
    Option Flt :=
  let cl := s.focus
  firstFlt (vs.map (fun (v, ok, _) => locForm v ok) ++ [s.wordForm word] ++ vs.map (fun (v, _, _) => s.locScope cl v)
    ++ [s.wordScope cl word] ++ vs.map (fun (v, _, e) => e.check v) ++ [s.wordExt cl word] ++ aligned ++ [s.wordAlign cl word]
    ++ vs.map (fun (v, _, e) => if own.contains v then s.extOwner cl e v else none) ++ [s.wordOwner cl word])

/-- The address of a copy's sequence stamp, for the highest destination byte `h` (R302). -/
def stampAddr (h : Int) : Nat := (8 * ((h + 1 + 7) / 8)).toNat

/-- The destination extent of a copy with its stamp, which names the bytes up to it (R302). -/
def copyDst (f : AF) (dst : Ext) : Ext :=
  if bit f.imm.toNat 24 then { dst with hi := (stampAddr (epAddr dst.ep + dst.hi) : Int) + 7 - epAddr dst.ep } else dst

/-- The checks of a copy (R284, R301, R302): a stamped copy's destination lies in global space. -/
def State.copyErr (s : State) (f : AF) (tpl : Option Nat) (src dst : Ext) : Option Flt :=
  let vd := (s.g f.d).toNat
  let vs := (s.g f.sa).toNat
  firstFlt [match tpl with
      | some _ => s.templateCheck (s.runCid s.focus) (bits f.imm.toNat 9 0)
      | none => none,
    s.locErr [(vd, spaceIn true (!bit f.imm.toNat 24) false, copyDst f dst), (vs, spaceIn true true false, src)]
      (s.g f.sb).toNat [vd, vs] []]

/-- A copy (R301): its template, if it has one, and its count in bytes. One with a stamp is accepted once the GTC has risen above the stamp of
the core's last one (R302). -/
def State.copy (s : State) (f : AF) (tpl : Option Nat) (count : Nat) (src dst : Ext) : Out :=
  let m := f.imm.toNat
  let k := s.newCmd f .xcopy f.ocl.toNat (bits m 23 22) (wordOf s.focus (s.g f.sb).toNat) src.ep dst.ep count
  let out := s.accept f [f.d, f.sa, f.sb] (s.copyErr f tpl src dst)
    { k with tpl := tpl, stamp := if bit m 24 then some s.gtc else none, aux := stampAddr (epAddr dst.ep + dst.hi) }
    [src, copyDst f dst]
  if !bit m 24 || (s.copyErr f tpl src dst).isSome then out
  else if s.gtc ≤ s.a.stamp then .next s
  else match out with
    | .next t => .next (if s.a.cmds.length < t.a.cmds.length then t.onA s.focus fun a => { a with stamp := s.gtc } else t)
    | o => o

/-- XCOPY of COUNT bytes (R301). -/
def execXcopy (f : AF) (s : State) : Out :=
  let n := bits f.imm.toNat 20 0
  s.copy f none n (Ext.of (locEp s.focus (s.g f.sa).toNat) n) (Ext.of (locEp s.focus (s.g f.d).toNat) n)

/-- XCOPY by a template (R301, R34). -/
def execXcopyTpl (f : AF) (s : State) : Out :=
  let t := s.template (s.runCid s.focus) (bits f.imm.toNat 9 0)
  s.templateUse [f.d, f.sa, f.sb] (s.runCid s.focus) (bits f.imm.toNat 9 0) <|
    s.copy f (some t) (tplCount t * tplSize t) (tplBox t tplSrc (locEp s.focus (s.g f.sa).toNat))
    (tplBox t tplDst (locEp s.focus (s.g f.d).toNat))

/-! ### Refills and drains (R303) -/

/-- Whether a tower locator names every cell. -/
def epAll : Ep → Bool
  | .tw none _ => true
  | _ => false

/-- The checks of a refill or a drain between the tower locator `vt` and the locator `vo` (R303). -/
def State.towerErr (s : State) (vt vo vw : Nat) (tw other : Ext) (fill : Bool) : Option Flt :=
  let t := (vt, spaceIn false false true, tw)
  let o := (vo, spaceIn true true false, other)
  s.locErr (if fill then [t, o] else [o, t]) vw [vo] [orAlign (epAddr tw.ep % 64 == 0) (epAddr tw.ep)]

/-- The bytes a refill or a drain of `n` bytes per cell moves (R303). -/
def towerTotal (tw : Ep) (n : Nat) : Nat := if epAll tw then 64 * n else n

/-- The checks of TFILL and TDRAIN. -/
def State.tfillErr (s : State) (f : AF) : Option Flt :=
  let n := bits f.imm.toNat 20 0
  let tw := locEp s.focus (s.g f.d).toNat
  s.towerErr (s.g f.d).toNat (s.g f.sa).toNat (s.g f.sb).toNat (Ext.of tw n)
    (Ext.of (locEp s.focus (s.g f.sa).toNat) (if bit f.imm.toNat 25 then n else towerTotal tw n)) true
def State.tdrainErr (s : State) (f : AF) : Option Flt :=
  let n := bits f.imm.toNat 20 0
  let tw := locEp s.focus (s.g f.sa).toNat
  s.towerErr (s.g f.sa).toNat (s.g f.d).toNat (s.g f.sb).toNat (Ext.of tw n)
    (Ext.of (locEp s.focus (s.g f.d).toNat) (towerTotal tw n)) false

/-- TFILL (R303). -/
def execTfill (f : AF) (s : State) : Out :=
  let m := f.imm.toNat
  let n := bits m 20 0
  let tw := locEp s.focus (s.g f.d).toNat
  let total := towerTotal tw n
  let src := Ext.of (locEp s.focus (s.g f.sa).toNat) (if bit m 25 then n else total)
  let k := s.newCmd f .tfill f.ocl.toNat (bits m 23 22) (wordOf s.focus (s.g f.sb).toNat) src.ep tw total
  s.accept f [f.d, f.sa, f.sb] (s.tfillErr f) { k with bcast := bit m 25 && epAll tw, aux := n } [src, Ext.of tw n]

/-- TDRAIN (R303). -/
def execTdrain (f : AF) (s : State) : Out :=
  let m := f.imm.toNat
  let n := bits m 20 0
  let tw := locEp s.focus (s.g f.sa).toNat
  let dst := Ext.of (locEp s.focus (s.g f.d).toNat) (towerTotal tw n)
  let k := s.newCmd f .tdrain f.ocl.toNat (bits m 23 22) (wordOf s.focus (s.g f.sb).toNat) tw dst.ep (towerTotal tw n)
  s.accept f [f.d, f.sa, f.sb] (s.tdrainErr f) { k with aux := n } [Ext.of tw n, dst]

/-! ### Gathers (R304) -/

/-- The granule check of a destination for packed formats (R169): plane blocks that a pattern puts out, or a packed source format. -/
def granuleErr (r p : Nat) (a n v : Nat) : Option Flt :=
  if patOut p || fmtPlanes (recFmt r) || recFmt r == 0x15 then orSpace (a % 32 == 0 && (a + n) % 32 == 0) kGranule v else none

/-- The checks of GATHERT. DESIGN CHOICE: the granule check of R169 comes among those of alignment in the order of R284 (log 111). -/
def State.gatherErr (s : State) (f : AF) : Option Flt :=
  let h := bits f.imm.toNat 15 0
  let cid := s.runCid s.focus
  let vd := (s.g f.d).toNat
  let b := (s.g (f.sb + 1)).toNat
  let dst := Ext.of (locEp s.focus vd) b
  firstFlt [s.handleCheck cid h, orSpace (b != 0 && decide (b < 2 ^ 22)) kMalformed b,
    s.locErr [(vd, spaceIn false true false, dst)] (s.g f.sb).toNat [vd]
      [granuleErr (s.record cid h) (NMap.get 0 s.patterns (bits f.imm.toNat 21 16)) (epAddr dst.ep) b vd]]

/-- GATHERT (R304): the record and the pattern entry are latched (R38, R108). -/
def execGathert (f : AF) (s : State) : Out :=
  let m := f.imm.toNat
  let r := s.record (s.runCid s.focus) (bits m 15 0)
  let b := (s.g (f.sb + 1)).toNat
  let dst := Ext.of (locEp s.focus (s.g f.d).toNat) b
  let box := recBox r
  let src : Ext := { ep := .va (recBase r), lo := box.1, hi := box.2 }
  let k := s.newCmd f .gather f.ocl.toNat (bits m 23 22) (wordOf s.focus (s.g f.sb).toNat) src.ep dst.ep b
  s.handleUse [f.d, f.sa, f.sb, f.sb + 1] (s.runCid s.focus) (bits m 15 0) <| s.accept f [f.d, f.sa, f.sb, f.sb + 1] (s.gatherErr f)
    { k with tpl := some r, pat := NMap.get 0 s.patterns (bits m 21 16), aux := (s.g f.sa).toNat } [src, dst]

/-! ### Near-memory commands (R305) -/

/-- A near-memory command's sizes in bytes of a target element and of the payload, and the payload's alignment (R305). -/
def nearSizes (kind : CmdKind) (f : AF) : Nat × Nat × Nat :=
  let n := bits f.imm.toNat 15 0
  let e := typeBytes (bits f.imm.toNat 19 16)
  match kind with
  | .nmred => (e, n * e, e)
  | .nmcas => (8, 16 * n, 8)
  | _ => (4, 32 + n * e, 4)

/-- The checks of a near-memory command. -/
def State.nearErr (s : State) (f : AF) (kind : CmdKind) : Option Flt :=
  let (size, pay, align) := nearSizes kind f
  let vt := (s.g f.sa).toNat
  let vp := (s.g f.sb).toNat
  let tgt := Ext.of (locEp s.focus vt) (bits f.imm.toNat 15 0 * size)
  let src := Ext.of (locEp s.focus vp) pay
  s.locErr [(vt, spaceIn true false false, tgt), (vp, spaceIn false true false, src)] (s.g f.d).toNat [vp]
    [orAlign (epAddr tgt.ep % size == 0) (epAddr tgt.ep), orAlign (epAddr src.ep % align == 0) (epAddr src.ep)]

/-- A near-memory command (R305). -/
def State.near (s : State) (f : AF) (kind : CmdKind) : Out :=
  let (size, pay, _) := nearSizes kind f
  let n := bits f.imm.toNat 15 0
  let tgt := Ext.of (locEp s.focus (s.g f.sa).toNat) (n * size)
  let src := Ext.of (locEp s.focus (s.g f.sb).toNat) pay
  let k := s.newCmd f kind f.ocl.toNat (bits f.imm.toNat 23 22) (wordOf s.focus (s.g f.d).toNat) src.ep tgt.ep (n * size)
  s.accept f [f.d, f.sa, f.sb] (s.nearErr f kind) { k with layout := bits f.imm.toNat 19 16, aux := n } [tgt, src]

/-- NMRED (R305). -/
def execNmred (f : AF) (s : State) : Out := s.near f .nmred
/-- NMCAS (R305). -/
def execNmcas (f : AF) (s : State) : Out := s.near f .nmcas
/-- NMSAX (R305). -/
def execNmsax (f : AF) (s : State) : Out := s.near f .nmsax

/-! ### Completion words (R307, R308) -/

/-- The checks of a word locator in SA (R287, R307, R308). DESIGN CHOICE: the value 0, which names no word, is a malformed locator (log 112). -/
def State.wordErr (s : State) (v : Nat) : Option Flt :=
  let e := Ext.of (locEp s.focus v) 8
  firstFlt [locForm v (spaceIn false true false), s.locScope s.focus v, e.check v, orAlign (epAddr e.ep % 8 == 0) (epAddr e.ep),
    s.extOwner s.focus e v]

/-- Cluster and address of the word a locator names. -/
def State.wordAt (s : State) (v : Nat) : Nat × Nat :=
  match locEp s.focus v with
  | .sp c a => (c, a)
  | _ => (s.focus, 0)

/-- BWSET and BWARRIVE as they are accepted: a store of the word in class OCL. -/
def State.wordStore (s : State) (f : AF) (rl : Bool) (sc : Scope) (w : Bool × Nat × Nat) : Out :=
  let v := (s.g f.sa).toNat
  let (c, a) := s.wordAt v
  if !s.ready [f.sa] then .next s
  else match s.wordErr v with
    | some e => .next (s.trapFlt e)
    | none =>
      if s.scalarFull { store := true } then .next (s.waitAt .room f)
      else .next (s.takeAcc { store := true, rl := rl }
        { seq := s.a.seq, xl := s.nextMsg, cid := s.runCid s.focus, dst := 0, op := none, store := true, place := .sp, va := a, pa := spPlace c a,
          size := 8, sx := false, data := 0, exp := 0, cls := f.ocl.toNat, scope := sc, aq := false, rl := rl, pcl := 0,
          wins := s.a.winMask [Ext.of (.sp c a) 8], tag := none, word := some w, val := none, late := none,
          redo := false, orphan := false, left := false, seen := false, vig := true, pc := s.a.pc })

/-- BWSET (R307). -/
def execBwset (f : AF) (s : State) : Out := s.wordStore f false .cl (false, bits f.imm.toNat 20 0, 0)
/-- BWARRIVE (R307). -/
def execBwarrive (f : AF) (s : State) : Out :=
  let m := f.imm.toNat
  s.wordStore f true (scopeOf (bits m 23 22)) (true, bits m 20 0, bits m 29 24)

/-- An acquire of the core is not yet satisfied: it holds back every later access (R144). -/
def ACore.acqPending (a : ACore) : Bool := a.accs.any fun l => l.pending && l.aq

/-- An earlier store of the core to bytes of a scratchpad has not performed (R141). -/
def ACore.storePending (a : ACore) (cl addr n : Nat) : Bool :=
  a.stores.any fun l => l.pending && l.place == .sp && decide (l.pa < spPlace cl addr + n) && decide (spPlace cl addr < l.pa + l.size)

/-- The condition of WAITGEN (R161). -/
def genReached (w g : Nat) : Bool := decide ((bits w 63 48 + 2 ^ 16 - g) % 2 ^ 16 < 2 ^ 15)

/-- WAITGEN (R308): an acquire at its scope when the generation is reached; a poisoned word is consumed (R160). -/
def execWaitgen (f : AF) (s : State) : Out :=
  let m := f.imm.toNat
  let v := (s.g f.sa).toNat
  let (c, a) := s.wordAt v
  if !s.ready [f.d, f.sa] then .next s
  else match s.wordErr v with
    | some e => .next (s.trapFlt e)
    | none =>
      let w := s.spReadN c a 8
      if s.a.acqPending || s.a.storePending c a 8 || s.spBlocked s.focus (some s.a.seq) false c a 8 then .next (s.waitAt .waitgen f f.d)
      else if s.spPoisoned c a 8 then .next (s.corePoison s.focus (.sp c (a / 32)) (spLoc c a))
      else if genReached w (bits m 15 0) then .next ((s.acquired s.focus (scopeOf (bits m 23 22))).result f.d (BitVec.ofNat 64 w))
      else .next (s.waitAt .waitgen f f.d)

/-! ### Semaphores (R309) -/

/-- What a SEMV covers has performed (R145): every earlier scalar access of every class, every TLDQ and every SQD. -/
def ACore.semvDrained (a : ACore) (ks : List Cmd) : Bool :=
  a.accs.all (fun l => !l.pending)
    && ks.all fun k => !(k.kind == .tldq || k.kind == .sqd)

/-- The count of a semaphore of the focused cluster. -/
def State.semOf (s : State) (k : Nat) : Nat := NMap.get 0 s.a.sems k
def State.putSem (s : State) (k v : Nat) : State := s.onA s.focus fun a => { a with sems := NMap.set 0 a.sems k v }

/-- SEMV (R309). -/
def execSemv (f : AF) (s : State) : Out :=
  let k := bits f.imm.toNat 3 0
  let n := bits f.imm.toNat 31 16
  if (s.runA s.focus).semvDrained (s.runCmds s.focus) && s.semOf k + n ≤ 65535 then .next (s.putSem k (s.semOf k + n)).advance
  else .next (s.waitAt .semv f)

/-- The X-core began to wait on the semaphore earlier, and the count serves only one (R309). -/
def State.xsempFirst (s : State) (k n : Nat) : Bool :=
  let since := match s.a.wait with
    | some w => w.since
    | none => s.clk
  s.x.freeze == some (.sem k) && decide (s.x.frozenAt < since) && decide (s.semOf k < n + 1)

/-- SEMP (R309). -/
def execSemp (f : AF) (s : State) : Out :=
  let k := bits f.imm.toNat 3 0
  let n := bits f.imm.toNat 31 16
  if n ≤ s.semOf k && !s.a.acqPending && !s.xsempFirst k n then .next (s.putSem k (s.semOf k - n)).advance
  else .next (s.waitAt .semp f)

/-- SEMTRY (R309). -/
def execSemtry (f : AF) (s : State) : Out :=
  let k := bits f.imm.toNat 3 0
  let n := bits f.imm.toNat 31 16
  if !s.ready [f.d] || s.a.acqPending then .next s
  else if n ≤ s.semOf k then .next ((s.putSem k (s.semOf k - n)).result f.d 1)
  else .next (s.result f.d 0)

/-! ### Buffers (R72-R76, R310) -/

def bufNo (f : AF) : Nat := bits f.imm.toNat 5 0

/-- Every earlier access of the core to a range of a scratchpad has performed (R73). -/
def ACore.rangeDrained (a : ACore) (ks : List Cmd) (home base n : Nat) : Bool :=
  let hits (e : Ep) (k : Nat) : Bool := match e with
    | .sp c x => c == home && decide (x < base + n) && decide (base < x + k)
    | _ => false
  a.accs.all (fun l => !(l.pending && l.place == .sp && decide (l.pa < spPlace home base + n)
      && decide (spPlace home base < l.pa + l.size)))
    && ks.all fun k =>
      let ext (e : Ep) (str : Nat → Nat → Int) : Bool := match k.tpl, k.kind with
        | some t, .xcopy =>
          (let b := tplBox t str e
          match e with
          | .sp c x => c == home && decide (x + b.lo < base + n) && decide ((base : Int) ≤ x + b.hi)
          | _ => false)
        | _, .nmcas => hits e (16 * k.aux)
        | _, .nmsax => hits e (32 + k.aux * typeBytes k.layout)
        | _, _ => hits e k.count
      !(ext k.src tplSrc || ext k.dst tplDst
        || match k.word with
           | some (c, w) => c == home && decide (w < base + n) && decide (base < w + 8)
           | none => false)

/-- The home cluster of a buffer of the focused cluster's quad. -/
def State.homeCl (s : State) (b : Buf) : Nat := quadCluster (quadOf s.focus) b.home

/-- No record of the focused cluster has a scratchpad extent in its own scratchpad that meets the buffer (R354, rule 7). -/
def State.recordsClear (s : State) (b : Buf) : Bool :=
  s.homeCl b != s.focus || s.cur.arr.recs.all fun r => !r.meets (s.cur.arr.factorFor r) (b.base * 16384) (b.len * 16384)

/-- What BGIVE does once its holder check is passed: it waits for the earlier accesses to the range, those of every command that the cluster
has accepted, for the records that meet it, and as a release for the core's own stores of the quad that it has read (R146); then the entry becomes
`to_` (R72, R73, R354). -/
def State.give (s : State) (f : AF) (to_ : Buf) : Out :=
  let b := s.buf (quadOf s.focus) (bufNo f)
  if s.a.rangeDrained (s.a.cmds ++ s.runCmds s.focus) (s.homeCl b) (b.base * 16384) (b.len * 16384) && s.recordsClear b
      && !(s.runA s.focus).seenPending s.focus s.a.seq .qd then
    .next (s.setBuf (quadOf s.focus) (bufNo f) to_).advance
  else .next (s.waitAt .bgive f)

/-- The cluster holds the buffer (R72). -/
def State.holdsBuf (s : State) (b : Buf) : Bool := b.st == 1 && b.who == quadPos s.focus

/-- BGIVE to a quad position (R72, R76, R310). -/
def execBgive (f : AF) (s : State) : Out :=
  let q := bits f.imm.toNat 10 8
  let b := s.buf (quadOf s.focus) (bufNo f)
  if !s.holdsBuf b || q == quadPos s.focus || !s.inService (quadCluster (quadOf s.focus) q) then .next (s.bufferFault (bufNo f))
  else s.give f { b with st := 2, who := q }

/-- BGIVE to none (R72). -/
def execBgiveNone (f : AF) (s : State) : Out :=
  let b := s.buf (quadOf s.focus) (bufNo f)
  if !s.holdsBuf b then .next (s.bufferFault (bufNo f)) else s.give f Buf.free

/-- BTAKE (R72, R310). -/
def execBtake (f : AF) (s : State) : Out :=
  let q := quadOf s.focus
  let p := quadPos s.focus
  let b := s.buf q (bufNo f)
  let base := bits f.imm.toNat 15 8
  let len := bits f.imm.toNat 23 16
  if !s.ready [f.d] then .next s
  else if b.st = 0 then
    let v : Buf := { st := 1, base := base, len := len, home := p, who := p }
    if len = 0 || 192 < base + len
        || (List.range 64).any (fun i => Buf.meets (s.buf q i) p (base * 16384) (len * 16384)) then .next (s.bufferFault (bufNo f))
    else .next ((s.setBuf q (bufNo f) v).result f.d (Buf.descriptor v))
  else if b.st = 2 && b.who == p then
    if s.a.acqPending then .next (s.waitAt .btake f f.d)
    else .next ((s.setBuf q (bufNo f) { b with st := 1 }).result f.d (Buf.descriptor { b with st := 1 }))
  else if s.holdsBuf b then .next (s.result f.d (Buf.descriptor b))
  else .next (s.waitAt .btake f f.d)

/-- BQUERY (R310). -/
def execBquery (f : AF) (s : State) : Out :=
  whenReady s [f.d] (s.result f.d (Buf.descriptor (s.buf (quadOf s.focus) (bufNo f))))

/-! ### Mailboxes (R311) -/

/-- The send status word (R311). -/
def SendStat.word (v : SendStat) : Nat :=
  v.free % 2 ^ 16 + v.clu % 256 * 2 ^ 16 + v.chip % 64 * 2 ^ 24 + flag v.valid 30 + flag v.refused 31

/-- The checks of MSEND: the payload lies in the cluster's own scratchpad. -/
def State.msendErr (s : State) (f : AF) : Option Flt :=
  let t := (s.g f.sa).toNat
  let v := (s.g f.sb).toNat
  let src := Ext.of (locEp s.focus v) (bits f.imm.toNat 5 0)
  let own (e : Ep) : Bool := match e with
    | .sp c _ => c == s.focus || c == 255
    | _ => false
  firstFlt [locForm v (spaceIn false true false), orSpace (decide (bits t 7 0 < 192) && bits t 31 14 == 0) kScope t,
    orSpace (own (locEp s.focus v)) kScope v, (Ext.of (locEp s.focus v) (Nat.max 1 (bits f.imm.toNat 5 0))).check v, s.extOwner s.focus src v]

/-- MSEND (R311): the status is returned and REFUSED cleared at acceptance; the message is an engine command of its class. -/
def execMsend (f : AF) (s : State) : Out :=
  let t := (s.g f.sa).toNat
  let n := bits f.imm.toNat 5 0
  let src := Ext.of (locEp s.focus (s.g f.sb).toNat) n
  let k := s.newCmd f .msend f.ocl.toNat (if bits t 13 8 = s.dev.chip then 2 else 3) none src.ep .none n
  if !s.ready [f.d, f.sa, f.sb] then .next s
  else match s.msendErr f with
    | some e => .next (s.trapFlt e)
    | none =>
      if s.cmdFull then .next (s.waitAt .room f f.d)
      else
        let st := s.a.send
        .next (((s.takeCmd { k with aux := t } [src]).onA s.focus fun a => { a with send := { st with refused := false } }).result f.d
          (BitVec.ofNat 64 st.word))

end Sys2Proof.Machine
end

