-- ==== Sys2Proof/WellFormed.lean ====
section
/-! DEFINITION. Which instructions are well-formed: an instruction of the A-core or a syllable whose fields break no rule of
R206-R221, with its opcode and form. Events are always well-formed. -/

namespace Sys2Proof
open Sys2Proof.Machine

/-- Opcode, form and fields of an A-core instruction (R210); none for a syllable or an event. -/
def Instr.aForm : Instr → Option (Nat × AForm × AF)
  | .add f => some (0x01, .r, f)
  | .sub f => some (0x02, .r, f)
  | .mul f => some (0x03, .r, f)
  | .mulh f => some (0x04, .r, f)
  | .mulhn f => some (0x05, .r, f)
  | .div f => some (0x06, .r, f)
  | .divn f => some (0x07, .r, f)
  | .rem f => some (0x08, .r, f)
  | .remn f => some (0x09, .r, f)
  | .and f => some (0x0A, .r, f)
  | .or f => some (0x0B, .r, f)
  | .xor f => some (0x0C, .r, f)
  | .andn f => some (0x0D, .r, f)
  | .shl f => some (0x10, .sh, f)
  | .shlImm f => some (0x10, .shi, f)
  | .shr f => some (0x11, .sh, f)
  | .shrImm f => some (0x11, .shi, f)
  | .sar f => some (0x12, .sh, f)
  | .sarImm f => some (0x12, .shi, f)
  | .rol f => some (0x13, .sh, f)
  | .rolImm f => some (0x13, .shi, f)
  | .rotr f => some (0x14, .sh, f)
  | .rotrImm f => some (0x14, .shi, f)
  | .clz f => some (0x15, .u, f)
  | .ctz f => some (0x16, .u, f)
  | .popc f => some (0x17, .u, f)
  | .min f => some (0x18, .r, f)
  | .max f => some (0x19, .r, f)
  | .minn f => some (0x1A, .r, f)
  | .maxn f => some (0x1B, .r, f)
  | .sel f => some (0x1C, .s3, f)
  | .addi f => some (0x20, .i, f)
  | .andi f => some (0x21, .i, f)
  | .ori f => some (0x22, .i, f)
  | .xori f => some (0x23, .i, f)
  | .li f => some (0x24, .l, f)
  | .lih f => some (0x25, .l, f)
  | .exts f => some (0x26, .bf, f)
  | .extsVar f => some (0x26, .bfv, f)
  | .extz f => some (0x27, .bf, f)
  | .extzVar f => some (0x27, .bfv, f)
  | .ins f => some (0x28, .bf, f)
  | .insVar f => some (0x28, .bfv, f)
  | .cmpeq f => some (0x30, .r, f)
  | .cmpne f => some (0x31, .r, f)
  | .cmplt f => some (0x32, .r, f)
  | .cmple f => some (0x33, .r, f)
  | .cmpltn f => some (0x34, .r, f)
  | .cmplen f => some (0x35, .r, f)
  | .jmp f => some (0x38, .jmp, f)
  | .jal f => some (0x39, .jal, f)
  | .jali f => some (0x3A, .ji, f)
  | .loop f => some (0x3B, .lp, f)
  | .beq f => some (0x40, .b, f)
  | .bne f => some (0x41, .b, f)
  | .blt f => some (0x42, .b, f)
  | .bge f => some (0x43, .b, f)
  | .bltn f => some (0x44, .b, f)
  | .bgen f => some (0x45, .b, f)
  | .ld f => some (0x50, .ld, f)
  | .st f => some (0x51, .st, f)
  | .ldaq f => some (0x52, .ldaq, f)
  | .strl f => some (0x53, .strl, f)
  | .cas f => some (0x54, .at, f)
  | .amoSwap f => some (0x55, .at, f)
  | .amoAdd f => some (0x58, .at, f)
  | .amoAnd f => some (0x59, .at, f)
  | .amoOr f => some (0x5A, .at, f)
  | .amoXor f => some (0x5B, .at, f)
  | .amoMin f => some (0x5C, .at, f)
  | .amoMax f => some (0x5D, .at, f)
  | .amoMinn f => some (0x5E, .at, f)
  | .amoMaxn f => some (0x5F, .at, f)
  | .fence f => some (0x60, .fence, f)
  | .fencew f => some (0x61, .fencew, f)
  | .wset f => some (0x62, .wset, f)
  | .wsetHandle f => some (0x62, .wsetHandle, f)
  | .wclr f => some (0x63, .wclr, f)
  | .icinv f => some (0x64, .icinv, f)
  | .icsync f => some (0x65, .n, f)
  | .tldq f => some (0x68, .tldq, f)
  | .sqd f => some (0x69, .sqd, f)
  | .qstat f => some (0x6A, .dOnly, f)
  | .xcopy f => some (0x70, .xcopy, f)
  | .xcopyTpl f => some (0x70, .xcopyTpl, f)
  | .tfill f => some (0x71, .tfill, f)
  | .tdrain f => some (0x72, .tdrain, f)
  | .gathert f => some (0x73, .gathert, f)
  | .nmred f => some (0x74, .nmred, f)
  | .nmcas f => some (0x75, .nmcas, f)
  | .nmsax f => some (0x76, .nmsax, f)
  | .bwset f => some (0x80, .bwset, f)
  | .bwarrive f => some (0x81, .bwarrive, f)
  | .waitgen f => some (0x82, .waitgen, f)
  | .semv f => some (0x83, .semv, f)
  | .semp f => some (0x84, .semv, f)
  | .semtry f => some (0x85, .semtry, f)
  | .bgive f => some (0x88, .bgive, f)
  | .bgiveNone f => some (0x88, .bgiveNone, f)
  | .btake f => some (0x89, .btake, f)
  | .bquery f => some (0x8A, .bquery, f)
  | .msend f => some (0x8B, .msend, f)
  | .snap f => some (0x90, .snap, f)
  | .snapq f => some (0x91, .snapq, f)
  | .snapqT f => some (0x91, .snapqT, f)
  | .txbegin f => some (0x92, .txbegin, f)
  | .txcommit f => some (0x93, .txslot, f)
  | .txabort f => some (0x94, .txslot, f)
  | .txstate f => some (0x95, .txslot, f)
  | .texit f => some (0x98, .n, f)
  | .grow f => some (0x99, .grow, f)
  | .tidx f => some (0x9A, .tidx, f)
  | .rdgtc f => some (0x9B, .dOnly, f)
  | .refdefer f => some (0x9C, .refdefer, f)
  | .csrrd f => some (0xF0, .csrrd, f)
  | .csrwr f => some (0xF1, .csrwr, f)
  | .trap f => some (0xF2, .trap, f)
  | .eret f => some (0xF3, .n, f)
  | .tlbinv f => some (0xF4, .tlbinv, f)
  | .shoot f => some (0xF5, .shoot, f)
  | .remapTowerBank f => some (0xF6, .remapTower, f)
  | .remapClusterTable f => some (0xF6, .remapTable, f)
  | .halt f => some (0xF7, .n, f)
  | .pause f => some (0xF8, .pause, f)
  | .errpop f => some (0xF9, .errpop, f)
  | _ => none

/-- Opcode, form and fields of a syllable (R221); none for an A-core instruction or an event. -/
def Instr.xForm : Instr → Option (Nat × XKind × XF)
  | .nop f => some (0x00, .nop, f)
  | .xadd f => some (0x01, .xs, f)
  | .xsub f => some (0x02, .xs, f)
  | .xmul f => some (0x03, .xs, f)
  | .xand f => some (0x04, .xs, f)
  | .xorx f => some (0x05, .xs, f)
  | .xxor f => some (0x06, .xs, f)
  | .xshl f => some (0x07, .xs, f)
  | .xshr f => some (0x08, .xst [4, 8], f)
  | .xmin f => some (0x09, .xst [4, 8], f)
  | .xmax f => some (0x0A, .xst [4, 8], f)
  | .xli f => some (0x0B, .xli, f)
  | .xcmp f => some (0x0C, .xcmp, f)
  | .brx f => some (0x10, .brx, f)
  | .bcxNz f => some (0x11, .bcx 0, f)
  | .bcxZ f => some (0x11, .bcx 1, f)
  | .bcxK f => some (0x11, .bcx 2, f)
  | .bcxNk f => some (0x11, .bcx 3, f)
  | .bcxAny f => some (0x11, .bcx 4, f)
  | .bcxNone f => some (0x11, .bcx 5, f)
  | .bcxLoop f => some (0x11, .bcx 6, f)
  | .lsetup f => some (0x12, .lsetup, f)
  | .lsetupReg f => some (0x12, .lsetupReg, f)
  | .chkpt f => some (0x13, .chkpt, f)
  | .xsemv f => some (0x14, .xsemv, f)
  | .xsemp f => some (0x15, .xsemp, f)
  | .lsupd f => some (0x16, .lsupd 0, f)
  | .lsupdGet f => some (0x16, .lsupd 1, f)
  | .lsupdSet f => some (0x16, .lsupd 2, f)
  | .lsupdFlg f => some (0x16, .lsupd 3, f)
  | .xtrap f => some (0x17, .xtrap, f)
  | .xend f => some (0x18, .xend, f)
  | .syncjFork f => some (0x1F, .fork, f)
  | .syncjJoin f => some (0x1F, .join, f)
  | .vadd f => some (0x20, .v2 intTypes, f)
  | .vsub f => some (0x21, .v2 intTypes, f)
  | .vmul f => some (0x22, .v2 intTypes, f)
  | .vmulh f => some (0x23, .v2 intTypes, f)
  | .vmadd f => some (0x24, .v3 intTypes, f)
  | .vmin f => some (0x25, .v2 intTypes, f)
  | .vmax f => some (0x26, .v2 intTypes, f)
  | .vand f => some (0x27, .v2 [0], f)
  | .vor f => some (0x28, .v2 [0], f)
  | .vxor f => some (0x29, .v2 [0], f)
  | .vshl f => some (0x2A, .v2 intTypes, f)
  | .vshr f => some (0x2B, .v2 [5, 6, 7], f)
  | .vsar f => some (0x2C, .v2 [1, 2, 3], f)
  | .vabs f => some (0x2D, .v1 [1, 2, 3], f)
  | .vsadd f => some (0x2E, .v2 intTypes, f)
  | .vssub f => some (0x2F, .v2 intTypes, f)
  | .vcmp f => some (0x30, .vcmp, f)
  | .vsel f => some (0x31, .vsel, f)
  | .vpopc f => some (0x32, .v1 [5, 6, 7], f)
  | .vclz f => some (0x33, .v1 [5, 6, 7], f)
  | .vmix f => some (0x34, .v2 [0], f)
  | .fadd f => some (0x40, .v2 floatTypes, f)
  | .fsub f => some (0x41, .v2 floatTypes, f)
  | .fmul f => some (0x42, .v2 floatTypes, f)
  | .ffma f => some (0x43, .v3 floatTypes, f)
  | .fmin f => some (0x44, .v2 floatTypes, f)
  | .fmax f => some (0x45, .v2 floatTypes, f)
  | .fminn f => some (0x46, .v2 floatTypes, f)
  | .fmaxn f => some (0x47, .v2 floatTypes, f)
  | .fabs f => some (0x48, .v1 floatTypes, f)
  | .fneg f => some (0x49, .v1 floatTypes, f)
  | .fcmp f => some (0x4A, .fcmp, f)
  | .frcp f => some (0x50, .v1 floatTypes, f)
  | .frsq f => some (0x51, .v1 floatTypes, f)
  | .fexp2 f => some (0x52, .v1 floatTypes, f)
  | .flog2 f => some (0x53, .v1 floatTypes, f)
  | .ftanh f => some (0x54, .v1 floatTypes, f)
  | .cvt f => some (0x60, .cvt, f)
  | .cvtsr f => some (0x61, .cvtsr, f)
  | .planes f => some (0x62, .planes, f)
  | .unplane f => some (0x63, .unplane, f)
  | .rotrow f => some (0x70, .v2 [0], f)
  | .rotcol f => some (0x71, .v2 [0], f)
  | .bcrow f => some (0x72, .v2 [0], f)
  | .bccol f => some (0x73, .v2 [0], f)
  | .redrow f => some (0x74, .red, f)
  | .redcol f => some (0x75, .red, f)
  | .scanrow f => some (0x76, .red, f)
  | .cshift f => some (0x77, .cshift, f)
  | .cshiftXc f => some (0x77, .cshiftXc, f)
  | .trans16 f => some (0x78, .v1 [0], f)
  | .kand f => some (0x80, .k2, f)
  | .kor f => some (0x81, .k2, f)
  | .kxor f => some (0x82, .k2, f)
  | .knot f => some (0x83, .k1, f)
  | .kmov f => some (0x84, .k1, f)
  | .kpopc f => some (0x85, .kpopc, f)
  | .twld f => some (0x90, .twld, f)
  | .twst f => some (0x91, .twst, f)
  | .twldx f => some (0x92, .twld, f)
  | .qpop f => some (0xA0, .qpop true, f)
  | .qpeek f => some (0xA1, .qpop false, f)
  | .qpush f => some (0xA2, .qpush, f)
  | .kstq f => some (0xA3, .kstq false, f)
  | .kstqPush f => some (0xA3, .kstq true, f)
  | .mma f => some (0xC0, .record, f)
  | .wload f => some (0xC1, .record, f)
  | .wswap f => some (0xC2, .record, f)
  | .accz f => some (0xC3, .record, f)
  | .drain f => some (0xC4, .record, f)
  | .rowstat f => some (0xC5, .record, f)
  | .vnest f => some (0xC6, .record, f)
  | .scqpush f => some (0xC7, .record, f)
  | .mwait f => some (0xC8, .mwait false, f)
  | .mwaitAll f => some (0xC8, .mwait true, f)
  | _ => none

/-- An instruction is well-formed when its form selects it and no cause of R226 applies to its fields. -/
def Instr.wf (i : Instr) : Bool :=
  match i.aForm with
  | some (_, k, f) => k.sel f && (k.details f).isEmpty
  | none =>
    match i.xForm with
    | some (_, k, f) => k.sel f && (k.details f).isEmpty
    | none => true

/-- Whether a row of the table is an instruction of a core, which runs only by being fetched. -/
def Instr.fetched (i : Instr) : Bool := i.aForm.isSome || i.xForm.isSome

end Sys2Proof
end

