-- ==== Sys2Proof/Decode.lean ====
section
/-! DEFINITION. From words to instructions and back: the A-core's 64-bit words (R206, R210), the X-core's 128-bit syllables
(R212, R221) and the checks of lines (R184, R185, R222); every illegal word is refused with the cause that R226 reports.
Events have no encoding. -/

namespace Sys2Proof
open Sys2Proof.Machine

/-- The A-core opcode map (R210). -/
def aRows : List ARow :=
  [⟨0x01, .r, .add⟩, ⟨0x02, .r, .sub⟩, ⟨0x03, .r, .mul⟩, ⟨0x04, .r, .mulh⟩, ⟨0x05, .r, .mulhn⟩, ⟨0x06, .r, .div⟩,
   ⟨0x07, .r, .divn⟩, ⟨0x08, .r, .rem⟩, ⟨0x09, .r, .remn⟩, ⟨0x0A, .r, .and⟩, ⟨0x0B, .r, .or⟩, ⟨0x0C, .r, .xor⟩,
   ⟨0x0D, .r, .andn⟩, ⟨0x10, .sh, .shl⟩, ⟨0x10, .shi, .shlImm⟩, ⟨0x11, .sh, .shr⟩, ⟨0x11, .shi, .shrImm⟩,
   ⟨0x12, .sh, .sar⟩, ⟨0x12, .shi, .sarImm⟩, ⟨0x13, .sh, .rol⟩, ⟨0x13, .shi, .rolImm⟩, ⟨0x14, .sh, .rotr⟩,
   ⟨0x14, .shi, .rotrImm⟩, ⟨0x15, .u, .clz⟩, ⟨0x16, .u, .ctz⟩]
  ++
  [⟨0x17, .u, .popc⟩, ⟨0x18, .r, .min⟩, ⟨0x19, .r, .max⟩, ⟨0x1A, .r, .minn⟩, ⟨0x1B, .r, .maxn⟩, ⟨0x1C, .s3, .sel⟩,
   ⟨0x20, .i, .addi⟩, ⟨0x21, .i, .andi⟩, ⟨0x22, .i, .ori⟩, ⟨0x23, .i, .xori⟩, ⟨0x24, .l, .li⟩, ⟨0x25, .l, .lih⟩,
   ⟨0x26, .bf, .exts⟩, ⟨0x26, .bfv, .extsVar⟩, ⟨0x27, .bf, .extz⟩, ⟨0x27, .bfv, .extzVar⟩, ⟨0x28, .bf, .ins⟩,
   ⟨0x28, .bfv, .insVar⟩, ⟨0x30, .r, .cmpeq⟩, ⟨0x31, .r, .cmpne⟩, ⟨0x32, .r, .cmplt⟩, ⟨0x33, .r, .cmple⟩,
   ⟨0x34, .r, .cmpltn⟩, ⟨0x35, .r, .cmplen⟩, ⟨0x38, .jmp, .jmp⟩]
  ++
  [⟨0x39, .jal, .jal⟩, ⟨0x3A, .ji, .jali⟩, ⟨0x3B, .lp, .loop⟩, ⟨0x40, .b, .beq⟩, ⟨0x41, .b, .bne⟩, ⟨0x42, .b, .blt⟩,
   ⟨0x43, .b, .bge⟩, ⟨0x44, .b, .bltn⟩, ⟨0x45, .b, .bgen⟩, ⟨0x50, .ld, .ld⟩, ⟨0x51, .st, .st⟩, ⟨0x52, .ldaq, .ldaq⟩,
   ⟨0x53, .strl, .strl⟩, ⟨0x54, .at, .cas⟩, ⟨0x55, .at, .amoSwap⟩, ⟨0x58, .at, .amoAdd⟩, ⟨0x59, .at, .amoAnd⟩,
   ⟨0x5A, .at, .amoOr⟩, ⟨0x5B, .at, .amoXor⟩, ⟨0x5C, .at, .amoMin⟩, ⟨0x5D, .at, .amoMax⟩, ⟨0x5E, .at, .amoMinn⟩,
   ⟨0x5F, .at, .amoMaxn⟩, ⟨0x60, .fence, .fence⟩, ⟨0x61, .fencew, .fencew⟩]
  ++
  [⟨0x62, .wset, .wset⟩, ⟨0x62, .wsetHandle, .wsetHandle⟩, ⟨0x63, .wclr, .wclr⟩, ⟨0x64, .icinv, .icinv⟩,
   ⟨0x65, .n, .icsync⟩, ⟨0x68, .tldq, .tldq⟩, ⟨0x69, .sqd, .sqd⟩, ⟨0x6A, .dOnly, .qstat⟩, ⟨0x70, .xcopy, .xcopy⟩,
   ⟨0x70, .xcopyTpl, .xcopyTpl⟩, ⟨0x71, .tfill, .tfill⟩, ⟨0x72, .tdrain, .tdrain⟩, ⟨0x73, .gathert, .gathert⟩,
   ⟨0x74, .nmred, .nmred⟩, ⟨0x75, .nmcas, .nmcas⟩, ⟨0x76, .nmsax, .nmsax⟩, ⟨0x80, .bwset, .bwset⟩,
   ⟨0x81, .bwarrive, .bwarrive⟩, ⟨0x82, .waitgen, .waitgen⟩, ⟨0x83, .semv, .semv⟩, ⟨0x84, .semv, .semp⟩,
   ⟨0x85, .semtry, .semtry⟩, ⟨0x88, .bgive, .bgive⟩, ⟨0x88, .bgiveNone, .bgiveNone⟩, ⟨0x89, .btake, .btake⟩]
  ++
  [⟨0x8A, .bquery, .bquery⟩, ⟨0x8B, .msend, .msend⟩, ⟨0x90, .snap, .snap⟩, ⟨0x91, .snapq, .snapq⟩,
   ⟨0x91, .snapqT, .snapqT⟩, ⟨0x92, .txbegin, .txbegin⟩, ⟨0x93, .txslot, .txcommit⟩, ⟨0x94, .txslot, .txabort⟩,
   ⟨0x95, .txslot, .txstate⟩, ⟨0x98, .n, .texit⟩, ⟨0x99, .grow, .grow⟩, ⟨0x9A, .tidx, .tidx⟩, ⟨0x9B, .dOnly, .rdgtc⟩,
   ⟨0x9C, .refdefer, .refdefer⟩, ⟨0xF0, .csrrd, .csrrd⟩, ⟨0xF1, .csrwr, .csrwr⟩, ⟨0xF2, .trap, .trap⟩,
   ⟨0xF3, .n, .eret⟩, ⟨0xF4, .tlbinv, .tlbinv⟩, ⟨0xF5, .shoot, .shoot⟩, ⟨0xF6, .remapTower, .remapTowerBank⟩,
   ⟨0xF6, .remapTable, .remapClusterTable⟩, ⟨0xF7, .n, .halt⟩, ⟨0xF8, .pause, .pause⟩, ⟨0xF9, .errpop, .errpop⟩]

/-- The X opcode map (R221). -/
def xRows : List XRow :=
  [⟨0x00, .nop, .nop⟩, ⟨0x01, .xs, .xadd⟩, ⟨0x02, .xs, .xsub⟩, ⟨0x03, .xs, .xmul⟩, ⟨0x04, .xs, .xand⟩,
   ⟨0x05, .xs, .xorx⟩, ⟨0x06, .xs, .xxor⟩, ⟨0x07, .xs, .xshl⟩, ⟨0x08, .xst [4, 8], .xshr⟩,
   ⟨0x09, .xst [4, 8], .xmin⟩, ⟨0x0A, .xst [4, 8], .xmax⟩, ⟨0x0B, .xli, .xli⟩, ⟨0x0C, .xcmp, .xcmp⟩,
   ⟨0x10, .brx, .brx⟩, ⟨0x11, .bcx 0, .bcxNz⟩, ⟨0x11, .bcx 1, .bcxZ⟩, ⟨0x11, .bcx 2, .bcxK⟩, ⟨0x11, .bcx 3, .bcxNk⟩,
   ⟨0x11, .bcx 4, .bcxAny⟩, ⟨0x11, .bcx 5, .bcxNone⟩, ⟨0x11, .bcx 6, .bcxLoop⟩, ⟨0x12, .lsetup, .lsetup⟩,
   ⟨0x12, .lsetupReg, .lsetupReg⟩, ⟨0x13, .chkpt, .chkpt⟩, ⟨0x14, .xsemv, .xsemv⟩]
  ++
  [⟨0x15, .xsemp, .xsemp⟩, ⟨0x16, .lsupd 0, .lsupd⟩, ⟨0x16, .lsupd 1, .lsupdGet⟩, ⟨0x16, .lsupd 2, .lsupdSet⟩,
   ⟨0x16, .lsupd 3, .lsupdFlg⟩, ⟨0x17, .xtrap, .xtrap⟩, ⟨0x18, .xend, .xend⟩, ⟨0x1F, .fork, .syncjFork⟩,
   ⟨0x1F, .join, .syncjJoin⟩, ⟨0x20, .v2 intTypes, .vadd⟩, ⟨0x21, .v2 intTypes, .vsub⟩, ⟨0x22, .v2 intTypes, .vmul⟩,
   ⟨0x23, .v2 intTypes, .vmulh⟩, ⟨0x24, .v3 intTypes, .vmadd⟩, ⟨0x25, .v2 intTypes, .vmin⟩,
   ⟨0x26, .v2 intTypes, .vmax⟩, ⟨0x27, .v2 [0], .vand⟩, ⟨0x28, .v2 [0], .vor⟩, ⟨0x29, .v2 [0], .vxor⟩,
   ⟨0x2A, .v2 intTypes, .vshl⟩, ⟨0x2B, .v2 [5, 6, 7], .vshr⟩, ⟨0x2C, .v2 [1, 2, 3], .vsar⟩,
   ⟨0x2D, .v1 [1, 2, 3], .vabs⟩, ⟨0x2E, .v2 intTypes, .vsadd⟩, ⟨0x2F, .v2 intTypes, .vssub⟩]
  ++
  [⟨0x30, .vcmp, .vcmp⟩, ⟨0x31, .vsel, .vsel⟩, ⟨0x32, .v1 [5, 6, 7], .vpopc⟩, ⟨0x33, .v1 [5, 6, 7], .vclz⟩,
   ⟨0x34, .v2 [0], .vmix⟩, ⟨0x40, .v2 floatTypes, .fadd⟩, ⟨0x41, .v2 floatTypes, .fsub⟩,
   ⟨0x42, .v2 floatTypes, .fmul⟩, ⟨0x43, .v3 floatTypes, .ffma⟩, ⟨0x44, .v2 floatTypes, .fmin⟩,
   ⟨0x45, .v2 floatTypes, .fmax⟩, ⟨0x46, .v2 floatTypes, .fminn⟩, ⟨0x47, .v2 floatTypes, .fmaxn⟩,
   ⟨0x48, .v1 floatTypes, .fabs⟩, ⟨0x49, .v1 floatTypes, .fneg⟩, ⟨0x4A, .fcmp, .fcmp⟩, ⟨0x50, .v1 floatTypes, .frcp⟩,
   ⟨0x51, .v1 floatTypes, .frsq⟩, ⟨0x52, .v1 floatTypes, .fexp2⟩, ⟨0x53, .v1 floatTypes, .flog2⟩,
   ⟨0x54, .v1 floatTypes, .ftanh⟩, ⟨0x60, .cvt, .cvt⟩, ⟨0x61, .cvtsr, .cvtsr⟩, ⟨0x62, .planes, .planes⟩,
   ⟨0x63, .unplane, .unplane⟩]
  ++
  [⟨0x70, .v2 [0], .rotrow⟩, ⟨0x71, .v2 [0], .rotcol⟩, ⟨0x72, .v2 [0], .bcrow⟩, ⟨0x73, .v2 [0], .bccol⟩,
   ⟨0x74, .red, .redrow⟩, ⟨0x75, .red, .redcol⟩, ⟨0x76, .red, .scanrow⟩, ⟨0x77, .cshift, .cshift⟩,
   ⟨0x77, .cshiftXc, .cshiftXc⟩, ⟨0x78, .v1 [0], .trans16⟩, ⟨0x80, .k2, .kand⟩, ⟨0x81, .k2, .kor⟩,
   ⟨0x82, .k2, .kxor⟩, ⟨0x83, .k1, .knot⟩, ⟨0x84, .k1, .kmov⟩, ⟨0x85, .kpopc, .kpopc⟩, ⟨0x90, .twld, .twld⟩,
   ⟨0x91, .twst, .twst⟩, ⟨0x92, .twld, .twldx⟩, ⟨0xA0, .qpop true, .qpop⟩, ⟨0xA1, .qpop false, .qpeek⟩,
   ⟨0xA2, .qpush, .qpush⟩, ⟨0xA3, .kstq false, .kstq⟩, ⟨0xA3, .kstq true, .kstqPush⟩, ⟨0xC0, .record, .mma⟩]
  ++
  [⟨0xC1, .record, .wload⟩, ⟨0xC2, .record, .wswap⟩, ⟨0xC3, .record, .accz⟩, ⟨0xC4, .record, .drain⟩,
   ⟨0xC5, .record, .rowstat⟩, ⟨0xC6, .record, .vnest⟩, ⟨0xC7, .record, .scqpush⟩, ⟨0xC8, .mwait false, .mwait⟩,
   ⟨0xC8, .mwait true, .mwaitAll⟩]

/-- The fields of an A-core word (R206). -/
def aFields (w : BitVec 64) : AF :=
  { pcl := w.extractLsb' 54 2, ocl := w.extractLsb' 50 4, d := w.extractLsb' 44 6, sa := w.extractLsb' 38 6,
    sb := w.extractLsb' 32 6, imm := w.extractLsb' 0 32 }

/-- The row of a list of A-core rows that an opcode and the fields select. -/
def selectA (opc : Nat) (f : AF) : List ARow → Option ARow
  | [] => none
  | r :: rs => if opc == r.opc && r.form.sel f then some r else selectA opc f rs

/-- The instruction of an A-core word, or the cause that R226 reports. -/
def decodeA (w : BitVec 64) : Except Reject Instr :=
  match selectA (w.extractLsb' 56 8).toNat (aFields w) aRows with
  | none => .error .opcode
  | some r =>
    match lowest (r.form.details (aFields w)) with
    | none => .ok (r.instr (aFields w))
    | some c => .error c

/-- A 9-bit operand field (R214). -/
def opndOf (w : BitVec 9) : Opnd :=
  if w.getLsbD 8 then .queue (w.extractLsb' 4 4) (w.getLsbD 3) (w.getLsbD 2) (w.extractLsb' 0 2)
  else .reg (w.extractLsb' 2 6) (w.extractLsb' 0 2)

/-- The fields of a syllable (R212). -/
def xFields (w : BitVec 128) : XF :=
  { ls := w.getLsbD 127, pcl := w.extractLsb' 125 2, ty := w.extractLsb' 113 4, neg := w.getLsbD 112,
    gp := w.extractLsb' 108 4, d := opndOf (w.extractLsb' 99 9), a := opndOf (w.extractLsb' 90 9),
    b := opndOf (w.extractLsb' 81 9), c := opndOf (w.extractLsb' 72 9), fn := w.extractLsb' 64 8,
    imm := w.extractLsb' 0 64 }

/-- The row of a list of X rows that an opcode and the fields select. -/
def selectX (opc : Nat) (f : XF) : List XRow → Option XRow
  | [] => none
  | r :: rs => if opc == r.opc && r.kind.sel f then some r else selectX opc f rs

/-- The syllable of a 128-bit word by its fields alone, or the cause that R226 reports. -/
def decodeX (w : BitVec 128) : Except Reject Instr :=
  match selectX (w.extractLsb' 117 8).toNat (xFields w) xRows with
  | none => .error .opcode
  | some r =>
    match lowest (r.kind.details (xFields w)) with
    | none => .ok (r.instr (xFields w))
    | some c => .error c

/-- What a syllable's place adds to its causes (R183-R186, R220, R221): its slot; LS and the mode; LSETUP, XEND, BCX.loop and
forks in independent mode, joins in lock-step mode; the offset of a join in slots 1-3; and, for slot 0 or a fork, the
alignment of its target. `forks` says that all four syllables of the line are forks; `at_` is the syllable's address. -/
def placeCauses (k : XKind) (f : XF) (slot at_ : Nat) (indep forks : Bool) : List Reject :=
  let off := 16 * (f.imm.toNat % 2 ^ 32)
  let aligned (n : Nat) := must ((at_ + off) % n == 0) .target
  must ((k.form f).slots.contains slot) .slot
    ++ must (f.ls == !indep) .mode
    ++ match k with
       | .brx | .bcx 0 | .bcx 1 | .bcx 2 | .bcx 3 | .bcx 4 | .bcx 5 => if indep then [] else aligned 64
       | .bcx _ => if indep then must (f.fn.toNat % 8 == 7) .mode else aligned 64
       | .lsetup | .lsetupReg | .xend => must (!indep) .mode
       | .fork => must (!indep && forks) .mode
       | .join => must indep .mode
           ++ (if slot == 0 then aligned 64 else must (f.imm.toNat % 2 ^ 32 == 0) .reserved)
       | _ => []

/-- Decoding of the syllable that slot `slot` issues at address `at_`. -/
def decodePlaced (w : BitVec 128) (slot at_ : Nat) (indep forks : Bool) : Except Reject Instr :=
  match selectX (w.extractLsb' 117 8).toNat (xFields w) xRows with
  | none => .error .opcode
  | some r =>
    match lowest (r.kind.details (xFields w) ++ placeCauses r.kind (xFields w) slot at_ indep forks) with
    | none => .ok (r.instr (xFields w))
    | some c => .error c

/-- Whether a syllable word is a fork by its opcode and FN[0] (R185). -/
def isForkWord (w : BitVec 128) : Bool := w.extractLsb' 117 8 == 0x1F && w.getLsbD 64

/-- The word of an A-core instruction with opcode `opc` (R206). -/
def encodeAF (opc : Nat) (f : AF) : BitVec 64 :=
  BitVec.ofNat 8 opc ++ (f.pcl ++ (f.ocl ++ (f.d ++ (f.sa ++ (f.sb ++ f.imm)))))

/-- The 9 bits of an operand (R214). -/
def opndBits : Opnd → BitVec 9
  | .reg i v => (0 : BitVec 1) ++ (i ++ v)
  | .queue q p s l => (1 : BitVec 1) ++ (q ++ (BitVec.ofBool p ++ (BitVec.ofBool s ++ l)))

/-- The word of a syllable with opcode `opc` (R212). -/
def encodeXF (opc : Nat) (f : XF) : BitVec 128 :=
  BitVec.ofBool f.ls ++ (f.pcl ++ (BitVec.ofNat 8 opc ++ (f.ty ++ (BitVec.ofBool f.neg ++ (f.gp ++ (opndBits f.d
    ++ (opndBits f.a ++ (opndBits f.b ++ (opndBits f.c ++ (f.fn ++ f.imm))))))))))

/-- The words of an instruction; none for an event. -/
def encode (i : Instr) : Option (Nat × Nat) :=
  match i.aForm with
  | some (r, _, f) => some (64, (encodeAF r f).toNat)
  | none =>
    match i.xForm with
    | some (r, _, f) => some (128, (encodeXF r f).toNat)
    | none => none

/-- What the decoder reads from an instruction whose bits are `w`: a 64-bit A-core word or a 128-bit syllable. Events of the
device have no encoding. -/
def decodeTableWord (nbits w : Nat) : Option Instr :=
  if nbits == 64 then (decodeA (BitVec.ofNat 64 w)).toOption
  else if nbits == 128 then (decodeX (BitVec.ofNat 128 w)).toOption
  else none

end Sys2Proof
end

