-- ==== Sys2Proof/Machine/Fetch.lean ====
section
/-! DEFINITION. Instruction fetch for both cores: the lines of the instruction caches, requests for lines on other chips and
in the host window, and the record lines that record-issue syllables name (R170, R171, R225, R281, R504). -/

namespace Sys2Proof.Machine

/-- What the fetch of a line finds: its 64 bytes, a line not yet there, or a fault that has been taken. -/
inductive LineRes where
  | got (data : List Byte) (s : State) | waits (s : State) | stop (s : State)

/-- The context whose instructions a core of cluster `cl` fetches: the task's for the X-core. -/
def State.fetchCid (s : State) (cl : Nat) (x : Bool) : Nat := if x then (s.cl cl).ctl.cid else s.runCid cl

def Cluster.icacheOf (c : Cluster) (x : Bool) : List CLine := if x then c.x.icache else c.a.icache

/-- A line put into a core's instruction cache. -/
def State.icacheAdd (s : State) (cl : Nat) (x : Bool) (l : CLine) : State :=
  if x then s.onX cl fun c => { c with icache := c.icache ++ [l] } else s.onA cl fun c => { c with icache := c.icache ++ [l] }

/-- A translation fault of a fetch: access execute, agent A-core or X-stream fetcher (R55). -/
def State.fetchFault (s : State) (cl : Nat) (x : Bool) (kind va : Nat) : State :=
  let s := s.dropVa (s.fetchCid cl x) va
  if x then s.taskFault cl kind 2 16 va else s.translationFault cl kind 2 1 va

/-- A non-posted request for `n` bytes at a physical address of the host window, recorded until its completion (R454). -/
def State.hostRequest (s : State) (owner : ReqBy) (pa n : Nat) : State :=
  { s with nextMsg := s.nextMsg + 1,
           host := { s.host with reqs := s.host.reqs ++ [{ id := s.nextMsg, owner := owner, addr := pa - 0x80000000000, len := n, sentAt := s.gtc }] } }

/-- Whether a fetch of a line is under way. -/
def State.fetchSent (s : State) (o : ReqBy) : Bool := s.reqs.any (fun r => r.owner == o) || s.host.reqs.any fun r => r.owner == o

/-- The two reads of 32 bytes that fetch a line from another chip (R469). -/
def State.lineRequest (s : State) (c : Nat) (o : ReqBy) (pa : Nat) : State :=
  if s.tagsFree o.agent 2 then (s.request c o fun tag => .read tag pa 32).request c o fun tag => .read tag (pa + 32) 32 else s

/-- The line of a core at virtual address `va`: from its instruction cache, or through translation from memory (R281). -/
def State.fetchLine (s : State) (cl : Nat) (x : Bool) (va : Nat) : LineRes :=
  let cid := s.fetchCid cl x
  let line := va / 64 * 64
  match ((s.cl cl).icacheOf x).find? fun l => l.cid == cid && l.addr == line with
  | some l => .got l.data s
  | none =>
    match s.resolve cl cid line (if x then .stream 11 else .acore) [if x then pEX else pAX] with
    | (.fault k, t) => .stop (t.fetchFault cl x k va)
    | (.waits, t) => .waits t
    | (.poison a, t) => .stop (t.walkPoison cl cid a)
    | (.at_ .hbm pa, t) =>
      (match t.hbmRead pa 64 with
      | .ok bs => .got bs (t.icacheAdd cl x { cid := cid, addr := line, va := line, data := bs })
      | .poison => .stop (t.corePoison cl (.hbm (pa / 64)) pa (b2n x))
      | .offline => .stop (t.fetchFault cl x 7 va)
      | .retry => .waits (t.dropVa cid line)
      | .waits => .waits t)
    | (.at_ p pa, t) =>
      let o := ReqBy.fetch cl cid x line
      if t.fetchSent o then .waits t
      else match p with
        | .remote c => .waits (t.lineRequest c o pa)
        | _ => .waits (t.hostRequest o pa 64)

/-! ### Words -/

/-- The A-core word at an address of a line. -/
def lineWord (data : List Byte) (va : Nat) : BitVec 64 := BitVec.ofNat 64 (ofBytes ((data.drop (va % 64)).take 8))

/-- The syllable word at an address of a line. -/
def lineSyll (data : List Byte) (va : Nat) : BitVec 128 := BitVec.ofNat 128 (ofBytes ((data.drop (va % 64)).take 16))

/-- The record line a record-issue syllable names (R220), as an address modulo 2^64. -/
def State.recLine (s : State) (f : XF) : Nat := wrap 64 (s.xpc / 64 * 64 + 64 * sext 32 f.imm.toNat)

/-- The 512 bits of a line in the X-core's instruction cache. -/
def State.xLine? (s : State) (a : Nat) : Option Nat :=
  (s.x.icache.find? fun l => l.cid == s.cur.ctl.cid && l.addr == a).map fun l => ofBytes l.data

/-- Bits [127:64] of a syllable, which TVAL holds for an illegal one (R413). -/
def syllTval (w : BitVec 128) : Nat := w.toNat / 2 ^ 64

/-- The record opcode of a record-issue syllable. -/
def ropcOf : Instr → Option (Nat × XF)
  | .mma f => some (1, f)
  | .wload f => some (2, f)
  | .wswap f => some (3, f)
  | .accz f => some (4, f)
  | .drain f => some (5, f)
  | .rowstat f => some (6, f)
  | .vnest f => some (7, f)
  | .scqpush f => some (8, f)
  | _ => none

end Sys2Proof.Machine
end

