-- ==== Sys2Proof/Machine/Lanes.lean ====
section
/-! DEFINITION. Axis and cell moves, predicates, tower accesses and queue moves of the X-core (R338, R340-R346). -/

namespace Sys2Proof.Machine

/-! ### Moves across the tile (R338) -/

/-- ROTROW (R338). -/
def execRotrow (f : XF) (s : State) : Out :=
  s.xtile f 5 fun l => s.srcA f (64 * (l / 64) + (l % 64 + 64 - (s.srcB f (64 * (l / 64))).toNat % 64) % 64)
/-- ROTCOL (R338). -/
def execRotcol (f : XF) (s : State) : Out :=
  s.xtile f 3 fun l => s.srcA f (64 * ((l / 64 + 16 - (s.srcB f (l % 64)).toNat % 16) % 16) + l % 64)
/-- BCROW (R338). -/
def execBcrow (f : XF) (s : State) : Out := s.xtile f 5 fun l => s.srcA f (64 * (l / 64) + (s.srcB f l).toNat % 64)
/-- BCCOL (R338). -/
def execBccol (f : XF) (s : State) : Out := s.xtile f 3 fun l => s.srcA f (64 * ((s.srcB f l).toNat % 16) + l % 64)
/-- TRANS16 (R338). -/
def execTrans16 (f : XF) (s : State) : Out :=
  s.xtile f 5 fun l => s.srcA f (64 * (l % 16) + (16 * (l % 64 / 16) + l / 64))

/-! ### Cell shifts (R340, R341) -/

/-- The lane that direction `dir` (0 e, 1 w, 2 s, 3 n) moves to lane `l`, with wrap-around, and whether it enters. -/
def shiftFrom (dir l : Nat) : Nat × Bool :=
  let r := l / 64
  let c := l % 64
  match dir with
  | 0 => (64 * r + (c + 60) % 64, decide (c < 4))
  | 1 => (64 * r + (c + 4) % 64, decide (60 ≤ c))
  | 2 => (64 * ((r + 12) % 16) + c, decide (r < 4))
  | _ => (64 * ((r + 4) % 16) + c, decide (12 ≤ r))

/-- CSHIFT within the cluster (R340): `.fill` takes B in the entering lanes, `.wrap` the far side. -/
def execCshift (f : XF) (s : State) : Out :=
  let fill := bits f.fn.toNat 3 2 == 0
  s.xtile f 3 fun l =>
    let (from_, enters) := shiftFrom (f.fn.toNat % 4) l
    if enters && fill then s.srcB f l else s.srcA f from_

/-- A neighbour one logical row north or south, when it is present for the context of cluster `cl` (R341). -/
def State.neighbour (s : State) (cl : Nat) (north : Bool) : Option Nat :=
  let n? := if north then (if 16 ≤ cl then some (cl - 16) else none) else if cl + 16 < 192 then some (cl + 16) else none
  n?.filter fun n => s.inService n && s.inPartition (s.cl cl).ctl.cid n

/-- The latch of a cluster. -/
def XCore.latch (x : XCore) (north : Bool) : Option Tile := if north then x.latchN else x.latchS

/-- Whether a latch is empty and no rows are on their way to it. Rows that a shift in slot 1 of a bundle has sent count against one of the same
direction in slot 2, which is then cancelled (DESIGN CHOICE, log 107: both see the latches of one vcyc, and R341 gives no order). -/
def State.latchFree (s : State) (cl : Nat) (north : Bool) : Bool :=
  ((s.cl cl).x.latch north).isNone && !s.flights.any fun g => g.cl == cl && g.north == north

/-- The four rows that a shift sends, as rows 0-3: rows 12-15 southward, rows 0-3 northward (R341). -/
def State.sentRows (s : State) (f : XF) (south : Bool) : Tile :=
  NMap.ofFn 0 256 fun i => s.srcA f (if south then i + 768 else i)

/-- A shift across clusters can neither take nor send: it is cancelled (R341). -/
def State.latchCancels (s : State) (f : XF) : Bool :=
  let south := f.fn.toNat % 4 == 2
  let takes := (s.neighbour s.focus south).isNone || (s.x.latch south).isSome
  let sends := match s.neighbour s.focus (!south) with
    | some t => s.latchFree t south
    | none => true
  !(takes && sends)

/-- CSHIFT across clusters (R192, R340, R341): the shift takes its own latch's rows and sends its edge rows, or is cancelled. -/
def execCshiftXc (f : XF) (s : State) : Out :=
  let south := f.fn.toNat % 4 == 2
  let own := s.x.latch south
  if s.qCancels s.focus f || s.latchCancels f then .next (s.xland 0 1 (.k7 false))
  else if s.qStalls s.focus f then .next (s.xfreeze .queue)
  else match s.qPoisoned s.focus f with
  | some q => .next (s.queuePoison s.focus q)
  | none =>
    let rows : Tile := match s.neighbour s.focus south with
      | some _ => own.getD []
      | none => []
    let v (l : Nat) : W32 :=
      let (from_, enters) := shiftFrom (f.fn.toNat % 4) l
      if enters then Tile.lane rows (if south then l else l - 768) else s.srcA f from_
    let target := s.neighbour s.focus (!south)
    let t : State := match target with
      | some t => { s with flights := s.flights ++ [{ cl := t, north := south, rows := s.sentRows f south, sent := false }] }
      | none => s
    let t := (t.xland 0 1 (.k7 true)).xland 0 1 (.latch south)
    let t : State := match target with
      | some k => t.xland f.pcl.toNat 6 (.send k south)
      | none => t
    let t := (qOpnds f).foldl (fun s (q, pop, _) => if pop then s.qPop s.focus q else s) t
    .next (t.xland f.pcl.toNat 6 (.tile (s.x.phys (opIdx f.d)) (s.guard f) (Tile.ofFn v)))

/-! ### Predicates (R342, R343) -/

/-- A predicate result of the guarded lanes at issue + 1. -/
def State.kop (s : State) (f : XF) (v : Pred) : Out := s.xissue f [(1, .pred (opIdx f.d) (s.guard f) v)]

def State.ka (s : State) (f : XF) : Pred := s.x.pred (opIdx f.a)
def State.kb (s : State) (f : XF) : Pred := s.x.pred (opIdx f.b)

/-- KAND (R342). -/
def execKand (f : XF) (s : State) : Out := s.kop f (s.ka f &&& s.kb f)
/-- KOR (R342). -/
def execKor (f : XF) (s : State) : Out := s.kop f (s.ka f ||| s.kb f)
/-- KXOR (R342). -/
def execKxor (f : XF) (s : State) : Out := s.kop f (s.ka f ^^^ s.kb f)
/-- KNOT (R342). -/
def execKnot (f : XF) (s : State) : Out := s.kop f (~~~s.ka f)
/-- KMOV (R342). -/
def execKmov (f : XF) (s : State) : Out := s.kop f (s.ka f)
/-- KPOPC (R342). -/
def execKpopc (f : XF) (s : State) : Out := s.xscalar f 1 (BitVec.ofNat 64 (popc (s.ka f &&& s.guard f).toNat 1024))
/-- KSTQ (R343). -/
def execKstq (f : XF) (s : State) : Out :=
  s.xissue f [(1, .kstq ((Opnd.queue? f.d).getD 8 - 8) (s.ka f) (bits f.imm.toNat 4 0) false)]
/-- KSTQ with a push (R343). -/
def execKstqPush (f : XF) (s : State) : Out :=
  s.xissue f [(1, .kstq ((Opnd.queue? f.d).getD 8 - 8) (s.ka f) (bits f.imm.toNat 4 0) true)]

/-! ### Towers (R344) -/

/-- The cell of a lane, its corner lane, and a lane's position in its cell (R17, R344). -/
def cellOf (l : Nat) : Nat := 16 * (l / 64 / 4) + l % 64 / 4
def cornerOf (l : Nat) : Nat := 64 * (l / 64 / 4 * 4) + l % 64 / 4 * 4
def inCell (l : Nat) : Nat := 4 * (l / 64 % 4) + l % 4

/-- 4·OFF modulo 2^18 (R344). -/
def twOff (f : XF) : Nat := wrap 18 (4 * sext 14 (bits f.imm.toNat 45 32))

/-- The tower address of lane `l`, and that of the block of `l`'s cell (R344). -/
def State.twWord (s : State) (f : XF) (l : Nat) : Nat := ((s.srcA f l).toNat + twOff f) % 2 ^ 18 / 4 * 4
def State.twBlock (s : State) (f : XF) (l : Nat) : Nat :=
  ((s.srcA f (cornerOf l)).toNat + twOff f) % 2 ^ 18 / 64 * 64 + 4 * inCell l

/-- TWLD (R344): read at issue + 2, written at issue + 8. -/
def execTwld (f : XF) (s : State) : Out :=
  s.xissue f [(2, .twld (s.x.phys (opIdx f.d)) (s.guard f) (NMap.ofFn 0 1024 (s.twWord f)))]
/-- TWST (R344): written at issue + 2. -/
def execTwst (f : XF) (s : State) : Out :=
  s.xissue f [(2, .twst (s.guard f) (NMap.ofFn 0 1024 (s.twWord f)) (Tile.ofFn (s.srcB f)))]
/-- TWLDX (R344). -/
def execTwldx (f : XF) (s : State) : Out :=
  s.xissue f [(2, .twld (s.x.phys (opIdx f.d)) (s.guard f) (NMap.ofFn 0 1024 (s.twBlock f)))]

/-! ### Queue moves (R346) -/

/-- The result of a pop or peek: a tile, or the dword of mbq in an x register. -/
def State.qResult (s : State) (f : XF) : Eff :=
  match s.qHead s.focus ((Opnd.queue? f.a).getD 15) with
  | .dword v _ => .x (opIdx f.d) v
  | .tile t _ => .tile (s.x.phys (opIdx f.d)) (BitVec.allOnes 1024) t
  | .empty => .tile (s.x.phys (opIdx f.d)) 0 []

/-- QPOP (R346). -/
def execQpop (f : XF) (s : State) : Out := s.xissue f [(1, s.qResult f)]
/-- QPEEK (R346). -/
def execQpeek (f : XF) (s : State) : Out := s.xissue f [(1, s.qResult f)]
/-- QPUSH (R346): the tile read at issue enters the store queue at issue + 1. -/
def execQpush (f : XF) (s : State) : Out :=
  s.xissue f [(1, .push ((Opnd.queue? f.d).getD 8 - 8) (Tile.ofFn (s.srcA f)))]

end Sys2Proof.Machine
end

