-- ==== Sys2Proof/Machine/Mem.lean ====
section
/-! DEFINITION. A-core loads, stores, atomics, fences, windows and instruction-cache maintenance (R290-R297). -/

namespace Sys2Proof.Machine

/-- LD (R291). -/
def execLd (f : AF) (s : State) : Out := s.scalar f {}
/-- ST (R291). -/
def execSt (f : AF) (s : State) : Out := s.scalar f { store := true }
/-- LDAQ (R291). -/
def execLdaq (f : AF) (s : State) : Out := s.scalar f { aq := true }
/-- STRL (R291). -/
def execStrl (f : AF) (s : State) : Out := s.scalar f { store := true, rl := true }

/-- An atomic with the acquire and release bits of its word (R208, R293). -/
def State.atomic (s : State) (f : AF) (op : AmoOp) : Out :=
  s.scalar f { op := some op, aq := bit f.imm.toNat 29, rl := bit f.imm.toNat 30 }

/-- CAS (R293). -/
def execCas (f : AF) (s : State) : Out := s.atomic f .cas
/-- AMO.swap (R293). -/
def execAmoSwap (f : AF) (s : State) : Out := s.atomic f .swap
/-- AMO.add (R293). -/
def execAmoAdd (f : AF) (s : State) : Out := s.atomic f .add
/-- AMO.and (R293). -/
def execAmoAnd (f : AF) (s : State) : Out := s.atomic f .and
/-- AMO.or (R293). -/
def execAmoOr (f : AF) (s : State) : Out := s.atomic f .or
/-- AMO.xor (R293). -/
def execAmoXor (f : AF) (s : State) : Out := s.atomic f .xor
/-- AMO.min (R293). -/
def execAmoMin (f : AF) (s : State) : Out := s.atomic f .min
/-- AMO.max (R293). -/
def execAmoMax (f : AF) (s : State) : Out := s.atomic f .max
/-- AMO.minn (R293). -/
def execAmoMinn (f : AF) (s : State) : Out := s.atomic f .minn
/-- AMO.maxn (R293). -/
def execAmoMaxn (f : AF) (s : State) : Out := s.atomic f .maxn

/-! ### Fences and windows -/

/-- FENCE (R148, R294). -/
def execFence (f : AF) (s : State) : Out :=
  let m := f.imm.toNat
  let sc := scopeOf (bits m 17 16)
  if (s.runA s.focus).drained (s.openCmds s.focus sc (s.runCmds s.focus)) s.focus s.a.seq (bits m 15 0) sc then .next (s.acquired s.focus sc).advance
  else .next (s.waitAt .fence f)

/-- Whether the COUNT of every window of a mask is 0. -/
def State.winsClear (s : State) (mask : Nat) : Bool :=
  (List.range 8).all fun i => !bit mask i || s.winCount s.focus i == 0

/-- The L1 without the lines that meet a window of global memory of a mask (R147, R150): a line is known by the virtual address it was filled
through, and serves no other. -/
def ACore.l1Windows (a : ACore) (mask : Nat) : ACore :=
  { a with l1 := a.l1.filter fun l => !a.wins.any fun (i, w) => bit mask i && w.any fun w => w.meets false 0 l.va (l.va + 63) }

/-- FENCEW (R150, R295): at device or system scope the lines of the named windows leave the L1. -/
def execFencew (f : AF) (s : State) : Out :=
  let m := f.imm.toNat
  if s.winsClear (bits m 7 0) then
    .next (if scopeWide (scopeOf (bits m 9 8)) then s.onA s.focus fun a => a.l1Windows (bits m 7 0) else s).advance
  else .next (s.waitAt .fencew f)

/-- Window `i` set or emptied. -/
def State.setWin (s : State) (i : Nat) (w : Option Window) : State :=
  s.onA s.focus fun a => { a with wins := NMap.set none a.wins i w }

/-- The window a locator and a length name (R149). -/
def windowOf (cl v len : Nat) : Window :=
  match locEp cl v with
  | .sp c a => { sp := true, cl := c, base := a, len := len }
  | .va a => { sp := false, cl := 0, base := a, len := len }
  | _ => { sp := false, cl := 0, base := 0, len := len }

/-- The limits of a window's length (R149). -/
def Window.fits (w : Window) : Bool := w.len != 0 && decide (w.base + w.len ≤ if w.sp then 0x300000 else 2 ^ 52)

/-- WSET by a locator and a length (R296). -/
def execWset (f : AF) (s : State) : Out :=
  let v := (s.g f.sa).toNat
  let n := bits f.imm.toNat 2 0
  let w := windowOf s.focus v (s.g f.sb).toNat
  if !s.ready [f.sa, f.sb] then .next s
  else match firstFlt [locForm v (spaceIn true true false), s.locScope s.focus v, orSpace w.fits kWindow v] with
    | some e => .next (s.trapFlt e)
    | none => if s.winCount s.focus n = 0 then .next (s.setWin n (some w)).advance else .next (s.waitAt .wset f)

/-- The window of a handle's index box (R149, R30). -/
def State.handleWindow (s : State) (cid h : Nat) : Window :=
  let r := s.record cid h
  let b := recBox r
  { sp := false, cl := 0, base := (recBase r + b.1).toNat, len := (b.2 + 1 - b.1).toNat }

/-- WSET by a handle (R296). -/
def execWsetHandle (f : AF) (s : State) : Out :=
  let h := bits f.imm.toNat 31 16
  let cid := s.runCid s.focus
  let n := bits f.imm.toNat 2 0
  s.handleUse [] cid h <| match s.handleCheck cid h with
  | some e => .next (s.trapFlt e)
  | none =>
    if s.winCount s.focus n = 0 then .next (s.setWin n (some (s.handleWindow cid h))).advance else .next (s.waitAt .wset f)

/-- WCLR (R296): no COUNT rises while it waits, so the windows are emptied when every COUNT is 0. -/
def execWclr (f : AF) (s : State) : Out :=
  let mask := bits f.imm.toNat 7 0
  if s.winsClear mask then
    .next ((List.range 8).foldl (fun s i => if bit mask i then s.setWin i none else s) s).advance
  else .next (s.waitAt .wclr f)

/-! ### Instruction caches (R170, R297) -/

/-- Instruction-cache lines of a context that a range meets are dropped on one cluster. -/
def Cluster.icDrop (cid va len : Nat) (c : Cluster) : Cluster :=
  let keep (l : CLine) : Bool := !(l.cid == cid && decide (l.addr < va + len) && decide (va < l.addr + 64))
  { c with a := { c.a with icache := c.a.icache.filter keep }, x := { c.x with icache := c.x.icache.filter keep } }

/-- The lines of a range dropped on every cluster of a set, those that are still being fetched among them (R170). -/
def State.icDropAll (s : State) (sel : Nat → Bool) (cid va len : Nat) : State :=
  let hit : ReqBy → Bool
    | .fetch cl c _ a => sel cl && c == cid && decide (a < va + len) && decide (va < a + 64)
    | _ => false
  ({ s with clusters := NMap.mapVals Cluster.reset (fun p c => if (s.logical p).any sel then c.icDrop cid va len else c) s.clusters }
    : State).dropFetches hit

/-- The other chips that have a route and are not fenced (R58). -/
def State.peers (s : State) : List Nat := (s.dev.routes.map Prod.fst).filter fun k => k != s.dev.chip && !s.fencedChip k

/-- A set of chips as a mask. -/
def maskOf (ks : List Nat) : BitVec 64 := ks.foldl (fun m k => m ||| BitVec.ofNat 64 (2 ^ k)) 0

/-- The chips of the tree rooted at `root` (R58) in the order of their places: the root, then the others by rising number; the
children of place i are places 4i+1 to 4i+4 (log 15). -/
def State.treeChips (s : State) (root : Nat) : List Nat :=
  root :: (sortLe (fun a b => decide (a ≤ b)) (s.dev.chip :: s.peers)).filter (· != root)

/-- The place of this chip in the tree. -/
def State.treePlace (s : State) (root : Nat) : Nat := (s.treeChips root).idxOf s.dev.chip

/-- The children and the parent of this chip in the tree rooted at `root`. -/
def State.children (s : State) (root : Nat) : List Nat :=
  ((s.treeChips root).drop (4 * s.treePlace root + 1)).take 4
def State.parent (s : State) (root : Nat) : Nat := (s.treeChips root).getD ((s.treePlace root - 1) / 4) root

/-- A fresh number for a shoot-down or an ICINV; modulo 64 it is the originating chip. -/
def State.treeId (s : State) : Nat := s.nextMsg * 64 + s.dev.chip

/-- An ICINV awaits nothing any more: every chip that is not fenced has acknowledged. -/
def State.icinvDone (s : State) (i : Icinv) : Bool := i.expect &&& ~~~i.got &&& ~~~s.dev.fenced = 0

/-- An ICINV message goes out along the tree. -/
def State.icinvSend (s : State) (cl node : Option Nat) (cid va len : Nat) : State :=
  let m : Icinv := { id := s.treeId, cl := cl, node := node, cid := cid, va := va, len := len, expect := maskOf s.peers, got := 0 }
  let t : State := { s with icinvs := s.icinvs ++ [m], nextMsg := s.nextMsg + 1 }
  (s.children s.dev.chip).foldl (fun t k => t.send k (.icinv m.id cid va len)) t

/-- ICINV (R297): lines are dropped in the scope; at system scope the other chips are asked, and it waits for their
acknowledgements. -/
def execIcinv (f : AF) (s : State) : Out :=
  let va := (s.g f.sa).toNat
  let len := (s.g f.sb).toNat
  let cid := s.runCid s.focus
  let sc := scopeOf (bits f.imm.toNat 1 0)
  let sel (n : Nat) : Bool := match sc with
    | .cl => n == s.focus
    | .qd => quadOf n == quadOf s.focus
    | _ => true
  if !s.ready [f.sa, f.sb] then .next s
  else match orSpace (decide (va < 2 ^ 52) && decide (va + len ≤ 2 ^ 52)) kNonCanonical va with
    | some e => .next (s.trapFlt e)
    | none =>
      if len = 0 then .next s.advance
      else
        if sc == .sy && !s.peers.isEmpty then
          match if s.a.wait.isSome then s.icinvs.find? fun i => i.cl == some s.focus else none with
          | some i =>
            if s.icinvDone i then .next ({ s with icinvs := s.icinvs.erase i }).advance
            else .next (s.waitAt .icinv f)
          | none =>
            let t : State := { s with icinvs := s.icinvs.filter fun i => i.cl != some s.focus }
            .next (((t.icDropAll sel cid va len).icinvSend (some s.focus) none cid va len).waitAt .icinv f)
        else .next (s.icDropAll sel cid va len).advance

/-- ICSYNC (R297): fetched and prefetched instructions of the A-core are discarded. -/
def execIcsync (_ : AF) (s : State) : Out := .next ((s.dropFetches (ReqBy.fetchOf s.focus false)).onA s.focus fun a => { a with icache := [] }).advance

end Sys2Proof.Machine
end

