-- ==== Sys2Proof/Machine/Shoot.lean ====
section
/-! DEFINITION. Shoot-downs over the chips of the system (R57-R59), the fencing of chips, and the messages of ICINV (R297). -/

namespace Sys2Proof.Machine

/-- SDTMO in ns (R60). -/
def Dev.sdtmoNs (d : Dev) : Nat := Nat.min 10000 (Nat.max 10 d.sdtmo) * 1000

/-- The shoot-down that a number names on this chip, and its replacement. -/
def State.shoot? (s : State) (id : Nat) : Option Shoot := s.shoots.find? fun x => x.id == id
def State.setShoot (s : State) (x : Shoot) : State := { s with shoots := s.shoots.map fun y => if y.id == x.id then x else y }
def State.endShoot (s : State) (id : Nat) : State := { s with shoots := s.shoots.filter fun x => x.id != id }

/-- The chips whose acknowledgements a shoot-down lacks. -/
def State.missing (s : State) (x : Shoot) : BitVec 64 := x.expect &&& ~~~x.mask &&& ~~~s.dev.fenced

/-- A shoot-down has completed on this chip and below it: no access under a dropped translation is on its way here, and every
chip awaited has acknowledged (R57, R58). -/
def State.shootDone (s : State) (x : Shoot) : Bool := s.quiet x.scope x.num && s.missing x = 0

/-- A shoot-down begins on this chip as its root (R57, R58): translations are dropped, and the message goes to the children. -/
def State.beginShoot (s : State) (scope : ShootScope) (owner : ShootBy) : State :=
  let x : Shoot := { id := s.treeId, num := s.nextMsg, scope := scope, owner := owner, mask := 0, expect := maskOf s.peers, sentAt := s.gtc,
                     resent := false, fencedMask := 0 }
  let t := s.dropTranslations scope
  let t : State := { t with shoots := t.shoots ++ [x], nextMsg := t.nextMsg + 1 }
  (s.children s.dev.chip).foldl (fun t k => t.send k (.shoot x.id scope)) t

/-- SHOOT_DOWN_MSG (R57, R58): translations are dropped, and a chip within the tree asks its children. A message that comes again
comes straight from the originating chip, and is answered for this chip alone (R59). -/
def execShootDownMsg (src id : Nat) (scope : ShootScope) (s : State) : Out :=
  if s.fencedChip src then .next s
  else
    let t := s.dropTranslations scope
    let ks := if (s.shoot? id).isSome || src != s.parent (id % 64) then [] else s.children (id % 64)
    let x : Shoot := { id := id, num := s.nextMsg, scope := scope, owner := .peer src, mask := 0, expect := maskOf ks, sentAt := s.gtc, resent := false,
                       fencedMask := 0 }
    let t : State := { t with shoots := (t.shoots.filter fun y => y.id != id) ++ [x], nextMsg := t.nextMsg + 1 }
    .next (ks.foldl (fun t k => t.send k (.shoot id scope)) t)

/-- Acknowledgements to the parents go out for the shoot-downs that are complete on this chip and below it (R58), with the number of
chips and their mask. -/
def State.ackShoots (s : State) : State :=
  s.shoots.foldl (fun s x =>
    match x.owner with
    | .peer src =>
      if s.shootDone x then
        let m := x.mask ||| chipBit s.dev.chip
        (s.endShoot x.id).send src (.shootAck x.id (popc m.toNat 64) m)
      else s
    | _ => s) s

/-- SHOOT_DOWN_ACK_MSG (R58): the chips of a subtree have acknowledged. A message whose count is not that of its mask is none. -/
def execShootDownAckMsg (id count : Nat) (mask : BitVec 64) (s : State) : Out :=
  match s.shoot? id with
  | none => .next s
  | some x => if count = popc mask.toNat 64 then .next (s.setShoot { x with mask := x.mask ||| mask }) else .next s

/-- This chip is the originator of a shoot-down. -/
def Shoot.rooted (x : Shoot) : Bool := match x.owner with
  | .peer _ => false
  | _ => true

/-- SHOOT_DOWN_TIMEOUT (R59): the originator sends once more, directly to each chip that is missing. -/
def execShootDownTimeout (id : Nat) (s : State) : Out :=
  match s.shoot? id with
  | none => .next s
  | some x =>
    if x.rooted && !x.resent && s.missing x != 0 && x.sentAt + s.dev.sdtmoNs ≤ s.gtc then
      .next ((chipsOf (s.missing x)).foldl (fun s k => s.send k (.shoot id x.scope))
        (s.setShoot { x with resent := true, sentAt := s.gtc }))
    else .next s

/-- What the fencing of chip `k` does on this chip (R59): its requests are refused from now on, groups and start barriers with it
end (R124, R133, R134, R204), and an ICINV that was sent through it goes directly to the chips not yet heard. -/
def State.fenceChip (s : State) (k : Nat) : State :=
  if k = s.dev.chip || s.fencedChip k then s
  else
    let s : State := { s with dev := { s.dev with fenced := s.dev.fenced ||| chipBit k } }
    let s := s.ctxs.foldl (fun s (cid, _) => s.fenceGroups k cid) s
    s.icinvs.foldl (fun s i =>
      (chipsOf (i.expect &&& ~~~i.got &&& ~~~s.dev.fenced)).foldl (fun s j => s.send j (.icinv i.id i.cid i.va i.len)) s) (s.fenceNodes k)

/-- Chips fenced by this one: recorded by Samovar, told to every other chip, and fenced here (R59). -/
def State.fenceAll (s : State) (m : BitVec 64) : State :=
  let s := s.report srcSamovar 0 0x0F 0 0 0 0 (m.toNat % 2 ^ 32) 0
  let s := s.peers.foldl (fun s k => (chipsOf m).foldl (fun s j => if j = k then s else s.send k (.fence j)) s) s
  (chipsOf m).foldl State.fenceChip s

/-- CHIP_FENCE (R59): the chips still silent after a second SDTMO are fenced. -/
def execChipFence (id : Nat) (s : State) : Out :=
  match s.shoot? id with
  | none => .next s
  | some x =>
    let m := s.missing x
    if x.rooted && x.resent && m != 0 && x.sentAt + s.dev.sdtmoNs ≤ s.gtc then
      .next ((s.setShoot { x with fencedMask := x.fencedMask ||| m }).fenceAll m)
    else .next s

/-- FENCE_NOTICE_MSG (R59). -/
def execFenceNoticeMsg (chip : Nat) (s : State) : Out := .next (s.fenceChip chip)

/-- ICINV_MSG (R297, R58): the lines of the range are dropped on this chip, the children are asked, and the parent gets the
acknowledgement. -/
def execIcinvMsg (src id cid va len : Nat) (s : State) : Out :=
  if s.fencedChip src then .next s
  else
    let t := s.icDropAll (fun _ => true) cid va len
    let ks := if src = s.parent (id % 64) then s.children (id % 64) else []
    .next ((ks.foldl (fun t k => t.send k (.icinv id cid va len)) t).send src (.icinvAck id s.dev.chip))

/-- ICINV_ACK_MSG (R297): the originating chip counts it; a chip within the tree passes it on. -/
def execIcinvAckMsg (id chip : Nat) (s : State) : Out :=
  if id % 64 = s.dev.chip then
    .next { s with icinvs := s.icinvs.map fun i => if i.id == id then { i with got := i.got ||| chipBit chip } else i }
  else .next (s.send (s.parent (id % 64)) (.icinvAck id chip))

end Sys2Proof.Machine
end

