-- ==== Sys2Proof/Machine/XControl.lean ====
section
/-! DEFINITION. X control syllables: branches, loops, checkpoints, semaphores, traps, the end and the two modes (R185, R186,
R195, R329-R332, R504). -/

namespace Sys2Proof.Machine

/-- NOP (R221). -/
def execNop (f : XF) (s : State) : Out := s.xissue f []

/-- BRX (R329). -/
def execBrx (f : XF) (s : State) : Out := .next (s.xgoto (s.xtarget f))

/-- A branch on a condition read at issue (R329). -/
def State.xbranch (s : State) (f : XF) (c : Bool) : Out := .next (if c then s.xgoto (s.xtarget f) else s)

/-- BCX.nz (R329). -/
def execBcxNz (f : XF) (s : State) : Out := s.xbranch f (s.xr f.a != 0)
/-- BCX.z (R329). -/
def execBcxZ (f : XF) (s : State) : Out := s.xbranch f (s.xr f.a == 0)
/-- BCX.k (R329): bit (0, 0) of a predicate. -/
def execBcxK (f : XF) (s : State) : Out := s.xbranch f ((s.x.pred (opIdx f.a)).getLsbD 0)
/-- BCX.nk (R329). -/
def execBcxNk (f : XF) (s : State) : Out := s.xbranch f (!(s.x.pred (opIdx f.a)).getLsbD 0)
/-- BCX.any (R329). -/
def execBcxAny (f : XF) (s : State) : Out := s.xbranch f (s.x.pred (opIdx f.a) != 0)
/-- BCX.none (R329). -/
def execBcxNone (f : XF) (s : State) : Out := s.xbranch f (s.x.pred (opIdx f.a) == 0)

/-- The stage predicates k8-k15. -/
def XCore.stages (x : XCore) : List Pred := (List.range 8).map fun i => x.pred (8 + i)

/-- Rotate (R195): `v` enters k8 and the others move up. -/
def rotated (v : Pred) (ks : List Pred) : List Pred := v :: ks.dropLast

/-- BCX.loop (R195, R329): LoopClose; the new lc, ec, rb and predicates apply from the next vcyc. -/
def execBcxLoop (f : XF) (s : State) : Out :=
  let x := s.x
  let rb := (x.rb + 31) % 32
  if 0 < x.lc then
    .next ((s.xland 0 1 (.loop (x.lc - 1) x.ec rb (rotated (BitVec.allOnes 1024) x.stages))).xgoto (s.xtarget f))
  else if 1 < x.ec then .next ((s.xland 0 1 (.loop x.lc (x.ec - 1) rb (rotated 0 x.stages))).xgoto (s.xtarget f))
  else .next (s.xland 0 1 (.loop x.lc 0 rb (rotated 0 x.stages)))

/-- The setup of a loop of N iterations and S stages (R195), in force at issue + 1. -/
def State.loopSetup (s : State) (n st : Nat) : State :=
  s.xland 0 1 (.loop (n - 1) st 0 (BitVec.allOnes 1024 :: List.replicate 7 0))

/-- LSETUP with immediates (R330). -/
def execLsetup (f : XF) (s : State) : Out := .next (s.loopSetup (bits f.imm.toNat 16 0) (bits f.imm.toNat 20 17))

/-- LSETUP with N in a register (R330): an N outside 1 to 65,536 raises loop range. -/
def execLsetupReg (f : XF) (s : State) : Out :=
  let n := (s.xr f.a).toNat
  if 1 ≤ n && n ≤ 65536 then .next (s.loopSetup n (bits f.imm.toNat 20 17)) else .next (s.xraise 0x12 0 n)

/-- The live-range table that a CHKPT names (R197, R220). -/
def State.ckptTable (s : State) (f : XF) : Nat := wrap 64 (s.xpc / 128 * 128 + 128 * sext 32 f.imm.toNat)

/-- CHKPT (R196, R331): the table is the live set of a halt here, if one is requested, or at a later freeze (R200); a table
address that is not canonical traps (R504). -/
def execChkpt (f : XF) (s : State) : Out :=
  let a := s.ckptTable f
  if a < 2 ^ 52 then .next (s.onX s.focus fun x => { x with ckpt := some a, ckptNow := s.halting s.focus })
  else .next (s.xraise 3 kNonCanonical a)

/-- The latest landing of the tower stores and pushes in flight (R332). -/
def XCore.lastStore (x : XCore) : Nat :=
  (x.land.filter fun l => match l.eff with
    | .twst _ _ _ | .push _ _ => true
    | _ => false).foldl (fun m l => Nat.max m l.due) 0

/-- XSEMV (R332): the count rises at max(issue + 1, Lmax). -/
def execXsemv (f : XF) (s : State) : Out :=
  let x := s.x
  .next (s.xland 0 (Nat.max (x.vcyc + 1) x.lastStore - x.vcyc) (.sem (bits f.imm.toNat 3 0) (bits f.imm.toNat 31 16)))

/-- The count of semaphore `k` of cluster `cl`. -/
def State.sem (s : State) (cl k : Nat) : Nat := NMap.get 0 (s.cl cl).a.sems k
def State.setSem (s : State) (cl k v : Nat) : State := s.onA cl fun a => { a with sems := NMap.set 0 a.sems k v }

/-- The A-core of cluster `cl` waits at a SEMP of semaphore `k` for `n`, since a clk. -/
def ACore.sempWait (a : ACore) (k : Nat) : Option (Nat × Nat) :=
  match a.wait with
  | some w => if w.kind == .semp && bits w.f.imm.toNat 3 0 == k then some (bits w.f.imm.toNat 31 16, w.since) else none
  | none => none

/-- Whether a decrement of semaphore `k` by the X-core must let a waiting A-core go first (R309): the A-core began to wait no
later, and the count serves only one. `since` is when the X-core began to wait. -/
def State.sempFirst (s : State) (cl k since : Nat) : Bool :=
  match (s.cl cl).a.sempWait k with
  | some (n, t) => decide (t ≤ since) && decide (n ≤ s.sem cl k) && decide (s.sem cl k < n + 1)
  | none => false

/-- Whether XSEMP on semaphore `k` has its count, since the end of its freeze, or finds one that it may take now (R190, R309, R332). -/
def State.xsempReady (s : State) (k : Nat) : Bool :=
  s.x.semGot == some k
    || (s.sem s.focus k != 0 && !s.sempFirst s.focus k (if s.x.freeze = none then s.clk else s.x.frozenAt))

/-- XSEMP (R332). -/
def execXsemp (f : XF) (s : State) : Out :=
  let k := bits f.imm.toNat 3 0
  if s.x.semGot == some k then .next (s.onX s.focus fun x => { x with semGot := none })
  else if s.xsempReady k then .next (s.setSem s.focus k (s.sem s.focus k - 1)) else .next (s.xfreeze (.sem k))

/-- XTRAP (R331, R417): the Software trap, a landing barrier. -/
def execXtrap (f : XF) (s : State) : Out :=
  .next ((s.xraise 0x14 0 (bits f.imm.toNat 15 0)).onX s.focus fun x => { x with soft := true })

/-- XEND (R331): the X-core issues nothing further in the task. -/
def execXend (_ : XF) (s : State) : Out := .next (s.onX s.focus fun x => { x with run := .ended })

/-- SYNCJ with the fork modifier (R185): the slot's stream begins at its start address; with the syllable of slot 3 the four
streams run on their own. -/
def execSyncjFork (f : XF) (s : State) : Out :=
  let a := wrap 64 (s.x.pc + 16 * sext 32 f.imm.toNat)
  .next (s.onX s.focus fun x =>
    { x with spc := NMap.set 0 x.spc s.slot a, indep := s.slot == 3, joins := if s.slot == 3 then [] else x.joins })

/-- The four joins, when all slots wait at one. -/
def XCore.allJoined (x : XCore) : Option (List (Nat × Nat)) :=
  match NMap.get none x.joins 0, NMap.get none x.joins 1, NMap.get none x.joins 2, NMap.get none x.joins 3 with
  | some a, some b, some c, some d => some [a, b, c, d]
  | _, _, _, _ => none

/-- SYNCJ with the join modifier (R186): the slot waits; when all four wait with one tag, lock-step resumes at slot 0's line,
and with different tags a join mismatch is raised. -/
def execSyncjJoin (f : XF) (s : State) : Out :=
  let s := s.onX s.focus fun x =>
    { x with joins := NMap.set none x.joins s.slot (some (bits f.imm.toNat 39 32, wrap 64 (s.xpc + 16 * sext 32 f.imm.toNat))) }
  match s.x.allJoined with
  | none => .next s
  | some js =>
    let tags := js.map Prod.fst
    if tags.all (· == tags.headD 0) then
      .next (s.onX s.focus fun x => { x with indep := false, pc := (js.headD (0, 0)).2, joins := [] })
    else .next (s.xraise 0x11 0 (tags.foldr (fun t acc => t + 256 * acc) 0))

end Sys2Proof.Machine
end

