-- ==== Sys2Proof/Machine/Issue.lean ====
section
/-! DEFINITION. The turns of the two cores: fetch, decode and issue of an A-core instruction (R265, R281) and of the syllables
of one vcyc (R184-R193, R222, R228, R504). `run` is the dispatch of decoded instructions. -/

namespace Sys2Proof.Machine

/-! ### The A-core -/

/-- An A-core that may enter a trap: one that issues, waits, has ended its stream or is stopped for a pre-emption (R423). -/
def ACore.atBoundary (a : ACore) : Bool :=
  match a.run with
  | .run | .exited | .halted _ | .frozen => true
  | .idle | .dead | .faulted => false

/-- A pending X trap is taken on the A-core of cluster `cl` (R416, R418, R419): the entry with XC = 1, and from mode T its
disposition. A mismatch of a record is marked by the slot number 4; its CODE is 0x43 (R431). -/
def State.takeXTrap (s : State) (cl : Nat) (t : XTrap) : State :=
  let s := s.onX cl fun x => { x with trap := none }
  if t.code = 7 then s.mismatchX cl (if t.slot = 4 then 3 else 1) (t.detail == 3) (if t.slot = 4 then 0x43 else 7) t.tval
  else s.takeTrap cl t.code t.detail (BitVec.ofNat 64 t.tval) true (s.cl cl).a.pc

/-- Firmware's access or engine command on global memory has not performed: nothing issues behind it, so that a fault of it is precise (R52,
log 82). -/
def ACore.precise (a : ACore) : Bool :=
  !(a.mode == .s && (a.accs.any (fun l => l.late.isNone && l.cid == 0 && l.pending && l.place != .sp)
    || a.cmds.any fun k => k.mode == .s && (k.src.global || k.dst.global) && !k.hasPerformed))

/-- The A-core of cluster `cl` stands at a boundary at which every earlier instruction has completed (R415). -/
def ACore.clean (a : ACore) : Bool := a.atBoundary && a.resultsDone && a.precise

/-- The X trap that cluster `cl` takes at this boundary, if there is one: every earlier instruction has completed (R415). -/
def State.xTrapDue (s : State) (cl : Nat) : Option XTrap :=
  let c := s.cl cl
  if c.a.clean && c.x.run == .stopped then c.x.trap else none

/-- A trap of the X-core, or of a mismatch of an earlier access, is pending for the next boundary of cluster `cl`: no instruction issues before it
is taken (R416, R418, R431). -/
def State.trapPending (s : State) (cl : Nat) : Bool :=
  let c := s.cl cl
  c.a.atBoundary && ((c.x.run == .stopped && c.x.trap.isSome) || c.a.due.isSome)

/-- The pending trap of cluster `cl` is taken once it can be: one of the X-core goes first (R418). -/
def State.takePending (s : State) (cl : Nat) : State :=
  let c := s.cl cl
  match s.xTrapDue cl with
  | some t => s.takeXTrap cl t
  | none =>
    if !c.a.clean || (c.x.run == .stopped && c.x.trap.isSome) then s
    else match c.a.due with
      | some t => (s.onA cl fun a => { a with due := none }).takeMismatch cl (t.slot == 1) t.detail t.tval false
      | none => s

/-- A pre-emption request stops the A-core of a task (R267, R422): waiting instructions and an unanswered GROW are abandoned. -/
def State.freezeA (s : State) (cl : Nat) : State := s.onA cl fun a => { a with run := .frozen, wait := none, growReq := none }

/-- The privilege check of R211: opcodes 0xF0-0xF9 in mode T. -/
def privileged (w : BitVec 64) : Bool := 0xF0 ≤ (w.extractLsb' 56 8).toNat && (w.extractLsb' 56 8).toNat ≤ 0xF9

/-! ### The Vigil core (R268, R432, R433) -/

/-- Instructions that the Vigil core forms anew from its own registers: those of the integer and control chapter (R210, R268). The results of
all others it receives. -/
def formedWord (w : BitVec 64) : Bool := 1 ≤ (w.extractLsb' 56 8).toNat && (w.extractLsb' 56 8).toNat ≤ 0x45

/-- The newest stores and commands with the outcome of the Vigil core's comparison, which is made before they leave the cluster (R432). -/
def ACore.markNew (a : ACore) (stores cmds : Nat) (ok : Bool) : ACore :=
  { a with stores := a.stores.zipIdx.map fun (l, i) => if stores ≤ i then { l with vig := ok } else l,
           cmds := a.cmds.zipIdx.map fun (k, i) => if cmds ≤ i then { k with vig := ok } else k }

/-- The direction of a conditional branch or LOOP, as the A-core's registers have it (R268). -/
def State.branches (s : State) : Instr → Bool
  | .beq f => s.g f.sa == s.g f.sb
  | .bne f => s.g f.sa != s.g f.sb
  | .blt f => decide ((s.g f.sa).toInt < (s.g f.sb).toInt)
  | .bge f => decide ((s.g f.sb).toInt ≤ (s.g f.sa).toInt)
  | .bltn f => decide ((s.g f.sa).toNat < (s.g f.sb).toNat)
  | .bgen f => decide ((s.g f.sb).toNat ≤ (s.g f.sa).toNat)
  | .loop f => decide (1 < (s.g f.d).toNat)
  | _ => false

/-- The operands of a supervisor instruction (R372). -/
def State.operands (s : State) (i : Instr) : W64 × W64 :=
  match i.aForm with
  | some (_, _, f) => (s.g f.sa, s.g f.sb)
  | none => (0, 0)

/-- The Vigil core runs instruction `w` again, whose issue in `s` has led to `t`, from its own copy of the registers: its result goes into that
copy, a branch that goes elsewhere or another way is a divergence, and so are other operands of a supervisor instruction; an access or command
that it builds otherwise is marked (R268, R372, R432). -/
def State.vigilA (s : State) (run : Instr → State → Out) (i : Instr) (w : BitVec 64) (t : State) : State :=
  let cl := s.focus
  let v := s.onA cl fun a => { a with g := (s.cl cl).vigil.g }
  if (s.cl cl).vigil.g == (s.cl cl).a.g then t
  else match run i v with
    | .next u =>
      let next := (s.cl cl).a.pc + 8
      let a := (t.cl cl).a
      if formedWord w && (a.pc != (u.cl cl).a.pc || (a.pc == next && s.branches i != v.branches i)) then
        s.divergence cl .branch (s.cl cl).a.pc.toNat
      else if privileged w && (a.pc != (s.cl cl).a.pc || a.wait.isSome) && s.operands i != v.operands i then s.divergence cl .system (s.cl cl).a.pc.toNat
      else if formedWord w then t.onCl cl fun c => { c with vigil := { c.vigil with g := (u.cl cl).a.g } }
      else
        let same := (t.cl cl).a.stores == (u.cl cl).a.stores && (t.cl cl).a.cmds == (u.cl cl).a.cmds
        t.onA cl fun a => a.markNew (s.cl cl).a.stores.length (s.cl cl).a.cmds.length same
    | _ => t

/-- The address of the syllable that a slot issues next. -/
def XCore.slotAddr (x : XCore) (k : Nat) : Nat := if x.indep then NMap.get 0 x.spc k else x.pc + 16 * k

/-- The loop registers that landings of syllables leave. -/
def loopLands (ls : List Landing) : List Eff :=
  ls.filterMap fun l =>
    match l.eff with
    | .loop a b c d => some (.loop a b c d)
    | _ => none

/-- The Vigil core runs a syllable again, whose issue in `s` has led to `t`: branches, record issues, LSETUP and loop closes are compared, and the
x registers that it writes get in its copy the values that it forms (R432). -/
def State.vigilX (s : State) (run : Instr → State → Out) (i : Instr) (t : State) : State :=
  let cl := s.focus
  let v := (s.cl cl).vigil
  let x := (s.cl cl).x
  if v.x == x.x && v.lc == x.lc && v.ec == x.ec && v.rb == x.rb then t
  else match run i (s.onX cl fun x => { x with x := v.x, lc := v.lc, ec := v.ec, rb := v.rb }) with
    | .next u =>
      let n := x.land.length
      let ls := (t.cl cl).x.land.drop n
      let vs := (u.cl cl).x.land.drop n
      if (t.cl cl).x.jump != (u.cl cl).x.jump then s.divergence cl .branch (x.slotAddr s.slot)
      else if (t.cl cl).arr.recQ != (u.cl cl).arr.recQ then s.divergence cl .record (x.slotAddr s.slot)
      else if loopLands ls != loopLands vs then s.divergence cl .loop (x.slotAddr s.slot)
      else
        let f (p : Landing × Landing) : Landing := match p.1.eff, p.2.eff with
          | .x n a, .x m b => if n = m && a != b then { p.1 with vig := some b } else p.1
          | _, _ => p.1
        if ls.length = vs.length then t.onX cl fun y => { y with land := y.land.take n ++ (ls.zip vs).map f } else t
    | _ => t

/-! ### Turns of an A-core -/

/-- The A-core of the focused cluster issues the instruction word `w` at its pc (R211, R227), and the Vigil core runs it again. -/
def State.issueA (run : Instr → State → Out) (s : State) (w : BitVec 64) : Out :=
  if s.a.mode == .t && privileged w then .next (s.trapHere 2 0 w)
  else match decodeA w with
    | .error r => .next (s.trapHere 1 r.code w)
    | .ok i =>
      match run i s with
      | .next t => .next (s.vigilA run i w t)
      | o => o

/-- The instruction at the pc of the focused A-core is fetched and issues. -/
def State.instrTurn (run : Instr → State → Out) (s : State) : Out :=
  if !(s.a.pc.toNat < 2 ^ 52) then .next (s.spaceFault kNonCanonical s.a.pc)
  else match s.fetchLine s.focus false s.a.pc.toNat with
    | .waits t => .next t
    | .stop t => .next t
    | .got data t =>
      match t.issueA run (lineWord data s.a.pc.toNat) with
      | .next u => .next (s.caughtUp u)
      | o => o

/-- The waits of R285, at which later instructions of the integer and control chapter issue. -/
def WaitKind.passed : WaitKind → Bool
  | .fence | .fencew | .wset | .wclr | .icinv | .txbegin | .txcommit | .tldq | .sqd | .room | .waitgen | .semv | .semp | .btake => true
  | _ => false

/-- The A-core as the instruction after those issued past a waiting one finds it (R285). -/
def Cluster.passing (c : Cluster) (h : Ahead) : Cluster :=
  { c with a := { c.a with pc := h.pc, g := setRegs c.a.g h.gs, wait := none }, vigil := { c.vigil with g := setRegs c.vigil.g h.vs } }

/-- What an instruction issued past a waiting one at `s` has led to, at `t`, is kept until the wait ends: the registers that its D field names,
and where the A-core goes on. -/
def State.keepAhead (s : State) (w : Wait) (h : Ahead) (d : Nat) (t : State) : State :=
  let c := s.cur
  let u := t.cl s.focus
  let set (l : List (Nat × W64)) (v : W64) : List (Nat × W64) := if d = 0 then l else l.filter (fun p => p.1 != d) ++ [(d, v)]
  t.onCl s.focus fun k =>
    { k with a := { k.a with pc := c.a.pc, g := c.a.g,
                             wait := some { w with ahead := some { pc := u.a.pc, gs := set h.gs (NMap.get 0 u.a.g d),
                                                                   vs := set h.vs (NMap.get 0 u.vigil.g d) } } },
             vigil := { k.vigil with g := c.vigil.g } }

/-- The registers that an instruction of the integer and control chapter names: for SEL the condition register too (R276). -/
def namedRegs (i : Instr) (f : AF) : List Nat :=
  [f.d.toNat, f.sa.toNat, f.sb.toNat] ++ match i with
    | .sel f => [(f.imm.setWidth 6 : BitVec 6).toNat]
    | _ => []

/-- An instruction issued past a waiting one has trapped, has ended the stream, or has not issued: it takes its turn after the wait (R227,
R285). -/
def ACore.strayed (a u : ACore) : Bool := u.run != .run || u.mode != a.mode || u.sstat != a.sstat || u.pc == a.pc || u.wait.isSome

/-- What an instruction issued past a waiting one at `s` as `t` has led to, at `u`: a divergence that the Vigil core finds there is taken (R433);
otherwise it is kept. -/
def State.passOn (s : State) (run : Instr → State → Out) (w : Wait) (h : Ahead) (i : Instr) (word : BitVec 64) (d : Nat) (t u : State) : State :=
  let v := t.vigilA run i word u
  if v.a.run != .run then v else s.keepAhead w h d v

/-- A turn of an A-core whose instruction waits: the next instruction issues past it, if it is one of the integer and control chapter that names
no register that the waiting one is to write (R285). A fault or a trap of it comes when its turn does. -/
def aheadTurn (run : Instr → State → Out) (cl : Nat) (s : State) : Out :=
  let s : State := { s with focus := cl }
  match s.a.wait with
  | none => .next s
  | some w =>
    let h := w.ahead.getD { pc := s.a.pc + 8, gs := [], vs := [] }
    if !w.kind.passed || s.a.run != .run || s.cur.vigil.behind || s.trapPending cl || (s.cur.ctl.preempt && s.a.mode == .t)
        || !(h.pc.toNat < 2 ^ 52) then .next s
    else match s.a.icache.find? fun l => l.cid == s.runCid cl && l.addr == h.pc.toNat / 64 * 64 with
      | none => .next s
      | some l =>
        let word := lineWord l.data h.pc.toNat
        match decodeA word with
        | .error _ => .next s
        | .ok i =>
          match i.aForm with
          | some (_, _, f) =>
            if !formedWord word || (w.dst != 0 && (namedRegs i f).contains w.dst) then .next s
            else
              (let t := s.onCl cl fun c => c.passing h
              match run i t with
              | .next u => .next (if t.a.strayed u.a then s else s.passOn run w h i word f.d.toNat t u)
              | o => o)
          | none => .next s

/-- A fetch ahead in sequence (R266): the `n`-th line after that of the pc comes into the instruction cache, or is asked for. A fault stays
without effect until the instruction itself is fetched. -/
def aFetchAhead (cl n : Nat) (s : State) : Out :=
  let s : State := { s with focus := cl }
  let va := s.a.pc.toNat / 64 * 64 + 64 * n
  if s.a.run != .run || 2 ^ 52 ≤ va then .next s
  else
    let go (s : State) : State := match s.fetchLine cl false va with
      | .got _ t | .waits t | .stop t => t
    match (s.resolve cl (s.runCid cl) va .acore [pAX]).1 with
    | .at_ .hbm pa => (match s.hbmRead pa 64 with
      | .ok _ => .next (go s)
      | _ => .next s)
    | .at_ _ _ => .next (go s)
    | _ => .next s

/-- An instruction of a task has entered a trap. -/
def State.trapped (s : State) (cl : Nat) : Bool := (s.cl cl).a.mode == .s

/-- The focused A-core as if every earlier instruction had completed. -/
def State.allDone (s : State) : State :=
  s.onA s.focus fun a => { a with loads := [], stores := a.stores.filter fun l => l.op.isNone || l.late.isSome }

/-- The boundary at which a pre-emption request stops the A-core of a task: a precise trap of the instruction about to issue goes before it, also
one that has still to wait for earlier instructions (R415, R418); nothing else is issued (R267). -/
def State.haltTurn (run : Instr → State → Out) (s : State) : Out :=
  match s.instrTurn run, s.allDone.instrTurn run with
  | .next t, .next u => .next (if t.trapped s.focus then t else if u.trapped s.focus then s else s.freezeA s.focus)
  | r, _ => r

/-- A turn of the A-core of cluster `cl` (R265, R418): a pending trap first, then the instruction at the pc, if no pre-emption request stops it
and the Vigil core is not too far behind. -/
def aTurn (run : Instr → State → Out) (cl : Nat) (s : State) : Out :=
  let s : State := { s with focus := cl }
  if s.trapPending cl then .next (s.takePending cl)
  else if s.a.run != .run || !s.a.precise || s.cur.vigil.behind then .next s
  else if s.cur.ctl.preempt && s.a.mode == .t then s.haltTurn run
  else s.instrTurn run

/-! ### The syllables of a vcyc -/

/-- A syllable due to issue: its slot, address, word and decoding. -/
structure Syl where
  slot : Nat
  addr : Nat
  word : BitVec 128
  ins : Except Reject Instr

/-- The slots that issue in this vcyc: all in lock-step mode, in independent mode those that do not wait at a join. -/
def XCore.dueSlots (x : XCore) : List Nat :=
  if x.indep then [0, 1, 2, 3].filter fun k => (NMap.get none x.joins k).isNone else [0, 1, 2, 3]


/-- The syllables fetched, those at non-canonical addresses left out; a line not yet there or a fault ends the fetch. -/
def State.fetchSyls (s : State) (cl : Nat) : List Nat → List (Nat × Nat × BitVec 128) → LineRes ⊕ (List (Nat × Nat × BitVec 128) × State)
  | [], acc => .inr (acc, s)
  | k :: ks, acc =>
    let a := (s.cl cl).x.slotAddr k
    if 2 ^ 52 ≤ a then s.fetchSyls cl ks acc
    else match s.fetchLine cl true a with
      | .got data t => t.fetchSyls cl ks (acc ++ [(k, a, lineSyll data a)])
      | r => .inl r

/-- What the syllables of a vcyc may do: issue, freeze the counter, raise a trap, or end in a fault that has been taken. -/
inductive Ready where
  | go (s : State) (syls : List Syl) | freeze (s : State) (k : Freeze) | trap (s : State) (t : XTrap) | stop (s : State)

/-- A shift across clusters that is cancelled at its latches: it touches no queue (R341). -/
def State.shiftCancels (s : State) : Instr → Bool
  | .cshiftXc f => s.latchCancels f
  | _ => false

/-- The queue operands of a syllable taken in turn, for the operands of later slots (R193). -/
def State.popsOf (s : State) (cl : Nat) (i : Instr) (f : XF) : State :=
  if s.shiftCancels i || (qOpnds f).any fun (q, _, _) => (s.qHead cl q).isEmpty then s
  else (qOpnds f).foldl (fun s (q, pop, _) => if pop then s.qPop cl q else s) s

/-- The records that an MWAIT awaits are not all complete (R357). -/
def Arr.awaits (a : Arr) (all : Bool) (tag : Nat) : Bool := a.recs.any fun r => all || r.tag == tag

/-- The record of a record-issue syllable, from its line in the instruction cache. -/
def State.recordHere (s : State) (f : XF) (w : Nat) : Rec :=
  recordOf w (bits f.imm.toNat 35 32) s.cur.arr.nextRec ([f.d, f.a, f.b, f.c].map fun o => (s.xr o).toNat)

/-- The cause for which a legal syllable freezes the counter (R190). -/
def State.xBlock (s : State) (i : Instr) : Option Freeze :=
  let stall (f : XF) : Option Freeze := if s.qStalls s.focus f && !s.shiftCancels i then some .queue else none
  match i with
  | .xsemp f => let k := bits f.imm.toNat 3 0
    if s.xsempReady k then none else some (.sem k)
  | .mwait f => if s.cur.arr.awaits false (bits f.imm.toNat 35 32) then some (.mwait false (bits f.imm.toNat 35 32)) else none
  | .mwaitAll _ => if s.cur.arr.awaits true 0 then some (.mwait true 0) else none
  | i =>
    match ropcOf i with
    | some (_, f) =>
      (match s.xLine? (s.recLine f) with
      | some w =>
        if (s.recordErr s.focus (s.recordHere f w)).isNone && decide (4 ≤ s.cur.arr.recQ.length) then some .recQueue else none
      | none => none)
    | none =>
      match i.xForm with
      | some (_, _, f) => stall f
      | none => none

/-- The first freeze among the syllables, each slot seeing the queues as the slots before it leave them. -/
def State.xBlocks (s : State) : List Instr → Option Freeze
  | [] => none
  | i :: is =>
    match s.xBlock i with
    | some k => some k
    | none =>
      match i.xForm with
      | some (_, _, f) => State.xBlocks (s.popsOf s.focus i f) is
      | none => s.xBlocks is

/-- The record lines that the syllables name are fetched and checked (R225): a syllable whose line fails is illegal. -/
def State.fetchRecords (s : State) (cl : Nat) : List Syl → Ready ⊕ State
  | [] => .inr s
  | y :: ys =>
    match y.ins with
    | .ok i =>
      (match ropcOf i with
      | none => s.fetchRecords cl ys
      | some (ropc, f) =>
        let a := ({ s with slot := y.slot } : State).recLine f
        if 2 ^ 52 ≤ a then s.fetchRecords cl ys
        else match s.fetchLine cl true a with
          | .waits t => .inl (.freeze t .fetch)
          | .stop t => .inl (.stop t)
          | .got data t =>
            match lineDetail ropc (ofBytes data) with
            | none => t.fetchRecords cl ys
            | some d => .inl (.trap t { code := 1, detail := d, tval := syllTval y.word, slot := y.slot }))
    | .error _ => s.fetchRecords cl ys

/-- The first illegal syllable (R228). -/
def firstIllegal : List Syl → Option XTrap
  | [] => none
  | y :: ys =>
    match y.ins with
    | .error r => some { code := 1, detail := r.code, tval := syllTval y.word, slot := y.slot }
    | .ok _ => firstIllegal ys

/-- The instructions of legal syllables. -/
def sylInstrs (ys : List Syl) : List Instr :=
  ys.filterMap fun y =>
    match y.ins with
    | .ok i => some i
    | .error _ => none

/-- The syllables of the vcyc about to issue on the focused cluster: fetched, decoded and checked (R222, R228, R504); an illegal syllable or record
line goes before an address that is not canonical (R418). -/
def State.xFetch (s : State) : Ready :=
  let cl := s.focus
  let ks := s.x.dueSlots
  match s.fetchSyls cl ks [] with
  | .inl (.waits t) => .freeze t .fetch
  | .inl (.stop t) => .stop t
  | .inl (.got _ t) => .freeze t .fetch
  | .inr (ws, t) =>
    let forks := !s.x.indep && ws.length == 4 && ws.all fun (_, _, w) => isForkWord w
    let ys : List Syl := ws.map fun (k, a, w) => { slot := k, addr := a, word := w, ins := decodePlaced w k a s.x.indep forks }
    match firstIllegal ys with
    | some e => .trap t e
    | none =>
      match t.fetchRecords cl ys with
      | .inl r => r
      | .inr t =>
        match ks.find? fun k => decide (2 ^ 52 ≤ s.x.slotAddr k) with
        | some k => .trap t { code := 3, detail := kNonCanonical, tval := s.x.slotAddr k, slot := k }
        | none => .go t ys

/-- A freeze of the counter that no syllable causes: a retraining pause, or a Vigil core that is behind (R190). -/
def Cluster.pauses (c : Cluster) : Option Freeze :=
  if c.ctl.retrainEnd.isSome then some .retrain else if c.vigil.behind then some .vigil else none

/-- The syllables about to issue, held back by any freeze (R190). -/
def State.xReady (s : State) : Ready :=
  match s.xFetch, s.cur.pauses with
  | .go t _, some k | .trap t _, some k => .freeze t k
  | .go t ys, none =>
    (match ({ t with slot := 3 } : State).xBlocks (sylInstrs ys) with
      | some k => .freeze t k
      | none => .go t ys)
  | r, _ => r

/-- The protection class of a syllable. -/
def instrPcl (i : Instr) : Nat :=
  match i.xForm with
  | some (_, _, f) => f.pcl.toNat
  | none => 0

/-- The syllables issue in slot order, and the Vigil core runs each again; a task that ends on the way issues no more. -/
def issueSyls (run : Instr → State → Out) : List Syl → State → Out
  | [], s => .next s
  | y :: ys, s =>
    match y.ins with
    | .error _ => issueSyls run ys s
    | .ok i =>
      match run i { s with slot := y.slot } with
      | .next t =>
        (let t := ({ s with slot := y.slot } : State).vigilX run i t
        if t.x.run == .idle then .next t else issueSyls run ys t)
      | r => r

/-- The addresses after issue: a branch of slot 0, a join or fork that changed the mode, or the next in sequence; slots at a join
stay (R184-R186, R329). -/
def XCore.moveOn (before : XCore) (x : XCore) : XCore :=
  let x' := { x with jump := none }
  match before.indep, x.indep with
  | false, false => { x' with pc := x.jump.getD (x.pc + 64) }
  | true, true =>
    { x' with spc := before.dueSlots.foldl (fun m k =>
        if (NMap.get none x.joins k).isSome then m
        else NMap.set 0 m k (if k == 0 then x.jump.getD (NMap.get 0 m k + 16) else NMap.get 0 m k + 16)) x.spc }
  | _, _ => x'

/-- The extra beats of the syllables of a vcyc freeze the next one (R190, R325). -/
def beatsOf (ys : List Syl) : Nat := (sylInstrs ys).foldl (fun m i => Nat.max m (instrPcl i)) 0

/-- The vcyc has issued: its streams move on, a trap found in it drains the X-core (R416), and its beats freeze the next vcyc. -/
def State.xIssued (s : State) (before : XCore) (ys : List Syl) : State :=
  if s.x.run == .idle then s
  else s.onX s.focus fun x =>
    let y := before.moveOn x
    let b := beatsOf ys
    { y with issued := true, freeze := if b = 0 then y.freeze else some (.beats b), frozenAt := s.clk,
             run := if y.trap.isSome && (y.run == .run || y.run == .ended) then .draining else y.run }

/-- A turn of the X-core of cluster `cl`: the syllables of the vcyc issue, once (R184, R187). -/
def xTurn (run : Instr → State → Out) (cl : Nat) (s : State) : Out :=
  let s : State := { s with focus := cl }
  if s.x.run != .run || s.x.issued || s.x.freeze.isSome then .next s
  else match s.xReady with
    | .stop t => .next t
    | .freeze t k => .next (t.xfreeze k)
    | .trap t e => .next (t.onX cl fun x => { x.raise e with issued := true })
    | .go t ys =>
      match issueSyls run ys (t.onX cl fun x => { x with ckptNow := false }) with
      | .next u => .next (u.xIssued s.x ys)
      | r => r

/-! ### Time and the agenda -/

/-- `dt` clk pass (R2, R4): the GTC advances by 4 ns in 5 clk, and takes up at most 100 ppm of a pending correction, never
running backward (R468). Before that, the instants of snapshots that wait for nothing any more are fixed (R120), and posted writes of the
host that wait are tried again (R166), replicas that wait in host queues are accepted (R395), and cores that a double fault has stopped are
reset (R383). -/
def State.elapse (s : State) (dt : Nat) : State :=
  let s := s.fixSnaps.ackShoots.drainPosted.takeForwards.resetFaulted
  let e0 := s.clk * 4 / 5
  let e1 := (s.clk + dt) * 4 / 5
  let budget : Int := (e1 / 10000 - e0 / 10000 : Nat)
  let adj := max (-budget) (min budget s.slew)
  { s with clk := s.clk + dt, gtc := ((s.gtc : Int) + (e1 - e0 : Nat) + adj).toNat, slew := s.slew - adj }

/-- How far the Vigil core of a cluster is behind: from 16 clk on it holds its cores back, until it is within 8 (R265, R190). -/
def State.vigilLag (s : State) (lag : Option (Nat × Nat)) : State :=
  match lag with
  | some (cl, n) => s.onCl cl fun c =>
      { c with vigil := { c.vigil with behind := if 16 ≤ n then true else if n ≤ 8 then false else c.vigil.behind } }
  | none => s

/-- A step (log 1): the agenda's next turn. The syllables of a vcyc issue with the landings of the one before, so that nothing comes between
them (R189). With an empty agenda a device that has not been brought up powers on, by `boot`, and one that has lets a clk pass. A bring-up
under way goes on with the clk, by `boots` (R483). -/
def stepWith (run : Instr → State → Out) (boot : State → Out) (boots : State → State) (s : State) : Out :=
  match s.agenda with
  | [] => if s.dev.stage = 0 && s.dev.bootFail = 0 && s.dev.boot.isNone then boot s else .next (boots (s.elapse 1))
  | t :: ts =>
    let s := (boots (({ s with agenda := ts } : State).elapse t.dt)).vigilLag t.lag
    match t.who with
    | .acore cl => if cl < 192 then aTurn run cl s else .fault .noSuchCluster
    | .ahead cl => if cl < 192 then aheadTurn run cl s else .fault .noSuchCluster
    | .fetchAhead cl n => if cl < 192 then aFetchAhead cl n s else .fault .noSuchCluster
    | .xcore cl => if cl < 192 then xTurn run cl s else .fault .noSuchCluster
    | .event i =>
      if i.fetched then .refused .notAnEvent
      else match run i s, i with
        | .next u, .vcyc cl _ => if (s.cl cl).x.vcyc < (u.cl cl).x.vcyc then xTurn run cl u else .next u
        | o, _ => o

/-! ### Placing an instruction where it is fetched next -/

/-- The state in which the A-core of cluster 0 issues word `w` next: `w` lies in its instruction cache at its pc, and the next
turn is its own. -/
def State.placeWord (s : State) (w : Nat) : State :=
  let c := s.cl 0
  let pc := c.a.pc.toNat % 2 ^ 52
  let line : CLine := { cid := if c.a.mode = .t then c.ctl.cid else 0, addr := pc / 64 * 64, va := pc / 64 * 64,
                        data := patch (List.replicate 64 0) (pc % 64) (toBytes 8 w) }
  { s.setCl 0 { c with
      a := { c.a with run := .run, pc := BitVec.ofNat 64 pc, icache := [line], wait := none, loads := [], growReq := none, due := none, cmds := c.a.cmds.filter fun k => k.mode == .t },
      x := { c.x with trap := none }, vigil := { c.vigil with behind := false }, ctl := { c.ctl with preempt := false } } with
    agenda := [{ dt := 0, who := .acore 0 }] }

/-- The slot a syllable word is placed in: the first that its form allows. -/
def placeSlot (w : Nat) : Nat :=
  match decodeX (BitVec.ofNat 128 w) with
  | .ok i =>
    (match i.xForm with
    | some (_, k, f) => ((k.form f).slots.head?).getD 0
    | none => 0)
  | .error _ => 0

/-- The state in which the X-core of cluster 0 issues the syllable `w` next: in lock-step mode with NOPs in the other slots (a
fork in all four), in independent mode with the other slots at joins of the same tag. -/
def State.placeSyllable (s : State) (w : Nat) : State :=
  let c := s.cl 0
  let pc := c.x.pc % 2 ^ 52 / 64 * 64
  let k := placeSlot w
  let lock := bit w 127
  let word (i : Nat) : Nat := if i = k || isForkWord (BitVec.ofNat 128 w) then w else 2 ^ 127
  let line : CLine := { cid := c.ctl.cid, addr := pc, va := pc,
                        data := (List.range 4).flatMap fun i => toBytes 16 (if lock then word i else if i = k then w else 0) }
  { s.setCl 0 { c with
      x := { c.x with run := .run, pc := pc, indep := !lock, spc := NMap.set 0 [] k (pc + 16 * k), jump := none,
                      joins := if lock then []
                               else ([0, 1, 2, 3].filter (· != k)).foldl (fun m i => NMap.set none m i (some (bits w 39 32, 0))) [],
                      issued := false, freeze := none, trap := none, icache := [line] },
      ctl := { c.ctl with retrainEnd := none } } with
    agenda := [{ dt := 0, who := .xcore 0 }] }

end Sys2Proof.Machine
end

