-- ==== Sys2Proof/Machine/Super.lean ====
section
/-! DEFINITION. Supervisor instructions and control registers (R372-R390, and the registers' maps in R22, R60, R77, R88, R92, R114,
R137, R152, R245, R261, R442-R444, R475). -/

namespace Sys2Proof.Machine

/-! ### The error ring's registers (R442-R444) -/

/-- The number of slots, the address of slot 0, and whether records are written (R442). -/
def Dev.erSize (d : Dev) : Nat := 2 ^ (Nat.min 10 (bits d.erbase.toNat 3 0) + 6)
def Dev.erAddr (d : Dev) : Nat := bits d.erbase.toNat 43 12 * 4096
def Dev.erEn (d : Dev) : Bool := d.erbase.getLsbD 63

/-- The records in the ring (R444). -/
def Dev.erCount (d : Dev) : Nat := (d.erHead + d.erSize - d.erTail) % d.erSize

/-- The pending events of an A-core: ERRING is 1 while the ring holds a record (R378). -/
def State.pendOf (s : State) (cl : Nat) : Nat :=
  bits (s.cl cl).a.pend.toNat 2 0 + flag (s.dev.erHead != s.dev.erTail) 3

/-! ### Reads (R373) -/

/-- The tower remap word that `cr.twsel` selects; zero for a cluster out of service (R88). -/
def State.twmap (s : State) (cl : Nat) : Nat :=
  let v := (s.cl cl).ctl.twsel.toNat
  if s.inService (bits v 7 0) then bits (NMap.get 0 (s.cl (bits v 7 0)).ctl.remap (bits v 13 8)).toNat 50 0 else 0

/-- The HBM-degraded registers (R114). -/
def Dev.hbmdeg (d : Dev) : Nat := d.failed.length % 128 + bits d.top 43 28 * 2 ^ 28
def Dev.hbmfail (d : Dev) (n : Nat) : Nat :=
  (List.range 64).foldl (fun acc b => acc + flag (d.failed.contains (64 * n + b)) b) 0

/-- The counters of the fence windows, each saturating at 255 (R152). -/
def State.fwstat (s : State) (cl : Nat) : Nat :=
  (List.range 8).foldl (fun acc i => acc + Nat.min 255 (s.winCount cl i) * 2 ^ (8 * i)) 0

/-- The semaphore counts of register `n` (R380). -/
def ACore.semstat (a : ACore) (n : Nat) : Nat :=
  (List.range 4).foldl (fun acc i => acc + NMap.get 0 a.sems (4 * n + i) % 65536 * 2 ^ (16 * i)) 0

/-- `cr.pwgrant` (R475), `n` intervals after bring-up. -/
def Ctl.pwgrant (c : Ctl) (n : Nat) : Nat := c.grant % 2048 + c.used % 2048 * 2 ^ 11 + flag c.capped 22 + n % 2 ^ 32 * 2 ^ 32

/-- The value of control register `n` as cluster `cl` reads it (R373). -/
def State.csr (s : State) (cl n : Nat) : Nat :=
  let c := s.cl cl
  let d := s.dev
  match n with
  | 0x000 => c.a.sstat.toNat
  | 0x001 => c.a.epc.toNat
  | 0x002 => c.a.cause.toNat
  | 0x003 => c.a.tval.toNat
  | 0x004 => c.a.tvec.toNat
  | 0x005 => s.pendOf cl
  | 0x010 => c.ctl.ranCid % 4096 + flag c.ctl.runBit 12
  | 0x020 => d.chip % 64 + d.sdtmo % 2 ^ 14 * 2 ^ 16
  | 0x021 => bits d.rsvBase 43 25 * 2 ^ 25
  | 0x030 => c.ctl.mbox.toNat
  | 0x031 => s.fwstat cl
  | 0x038 => c.x.xfp.toNat
  | 0x039 => c.x.ls.toNat
  | 0x040 => c.ctl.twsel.toNat
  | 0x041 => s.twmap cl
  | 0x042 => bits d.alm.toNat 15 0 + flag d.hot 16
  | 0x048 => d.clmap.toNat
  | 0x050 => d.hbmdeg
  | 0x060 => d.gen.toNat
  | 0x070 => d.erbase.toNat
  | 0x071 => d.erHead % 2 ^ 32 + d.erDrops % 65536 * 2 ^ 32 + flag d.erOvf 63
  | 0x072 => d.erTail % 2 ^ 32
  | 0x080 => c.ctl.pwgrant d.intervals
  | n =>
    if 0x008 ≤ n && n ≤ 0x00B then (NMap.get 0 c.a.scr (n - 8)).toNat
    else if 0x032 ≤ n && n ≤ 0x035 then c.a.semstat (n - 0x32)
    else if 0x049 ≤ n && n ≤ 0x04B then bits d.clsvc (64 * (n - 0x49) + 63) (64 * (n - 0x49))
    else if 0x058 ≤ n && n ≤ 0x05F then d.hbmfail (n - 0x58)
    else 0

/-! ### Writes (R7, R374) -/

/-- The fields of a word that a mask names. -/
def keep (m v : Nat) : W64 := BitVec.ofNat 64 v &&& BitVec.ofNat 64 m

/-- A device register written (R374): SDTMO, the Almanac's settings, the timing of transactions; every other field is read only. -/
def Dev.write (d : Dev) (n v : Nat) : Dev :=
  match n with
  | 0x020 => { d with sdtmo := bits v 29 16 }
  | 0x042 => { d with alm := keep 0xFFFF v }
  | 0x060 => { d with gen := keep (2 ^ 42 - 1) v }
  | _ => d

/-- `cr.erbase` written (R442): a change of BASE or SIZE empties the ring. -/
def Dev.writeErbase (d : Dev) (v : Nat) : Dev :=
  let w := BitVec.ofNat 64 v &&& erbaseMask
  let d' := { d with erbase := w }
  if bits w.toNat 43 0 = bits d.erbase.toNat 43 0 then d' else { d' with erHead := 0, erTail := 0, erOvf := false, erDrops := 0 }

/-- `cr.erhead` written (R443): a 1 clears OVF, and DROPS with it. -/
def Dev.writeErhead (d : Dev) (v : Nat) : Dev := if bit v 63 then { d with erOvf := false, erDrops := 0 } else d

/-- `cr.ertail` written (R444): TAIL moves forward within the records of the ring; any other value is ignored. -/
def Dev.writeErtail (d : Dev) (v : Nat) : Dev :=
  let t := bits v 31 0 % d.erSize
  if (t + d.erSize - d.erTail) % d.erSize ≤ d.erCount then { d with erTail := t } else d

/-- `cr.pend` written (R378): a 1 clears SVC, PLACE or PREEMPT. -/
def ACore.writePend (a : ACore) (v : Nat) : ACore := { a with pend := a.pend &&& ~~~keep 7 v }

/-- `cr.mbox` written (R77, R390). -/
def Ctl.writeMbox (c : Ctl) (v : Nat) : Ctl := { c with mbox := keep (2 ^ 28 - 2 ^ 8) v }

/-- `cr.xfp` or `cr.ls` written (R374): in force from the next vcyc boundary on; a core that has none takes the value at once.
`cr.ls` is stored as written, without the adjustments of LSUPD.set (log 90). -/
def XCore.writeFlags (x : XCore) (n v : Nat) : XCore :=
  let w := if n = 0x038 then bits v 4 0 else bits v 57 0
  let e : Eff := if n = 0x038 then .xfp w else .ls w
  match x.run with
  | .idle => if n = 0x038 then { x with xfp := BitVec.ofNat 64 w } else { x with ls := BitVec.ofNat 64 w }
  | _ => { x with land := x.land ++ [{ due := x.vcyc + 1, issued := x.vcyc, slot := 0, pcl := 0, eff := e, vig := none }] }

/-- A trap-state, scratch or tower-select register written. -/
def Cluster.writeCsr (c : Cluster) (n v : Nat) : Cluster :=
  let a := c.a
  match n with
  | 0x000 => { c with a := { a with sstat := keep 7 v } }
  | 0x001 => { c with a := { a with epc := clear3 (BitVec.ofNat 64 v) } }
  | 0x002 => { c with a := { a with cause := keep 0x1FFFF v } }
  | 0x003 => { c with a := { a with tval := BitVec.ofNat 64 v } }
  | 0x004 => { c with a := { a with tvec := clear3 (BitVec.ofNat 64 v) } }
  | 0x040 => { c with ctl := { c.ctl with twsel := keep 0x3FFF v } }
  | n => if 0x008 ≤ n && n ≤ 0x00B then { c with a := { a with scr := NMap.set 0 a.scr (n - 8) (BitVec.ofNat 64 v) } } else c

/-- A write of control register `n` by cluster `cl` (R374). -/
def State.writeCsr (s : State) (cl n v : Nat) : State :=
  match n with
  | 0x005 => s.onA cl fun a => a.writePend v
  | 0x030 => s.onCtl cl fun c => c.writeMbox v
  | 0x038 => s.onX cl fun x => x.writeFlags n v
  | 0x039 => s.onX cl fun x => x.writeFlags n v
  | 0x020 => { s with dev := s.dev.write n v }
  | 0x042 => { s with dev := s.dev.write n v }
  | 0x060 => { s with dev := s.dev.write n v }
  | 0x070 => { s with dev := s.dev.writeErbase v }
  | 0x071 => { s with dev := s.dev.writeErhead v }
  | 0x072 => { s with dev := s.dev.writeErtail v }
  | n => s.onCl cl fun c => c.writeCsr n v

/-- CSRRD (R382). -/
def execCsrrd (f : AF) (s : State) : Out :=
  whenReady s [f.d] (s.result f.d (BitVec.ofNat 64 (s.csr s.focus (bits f.imm.toNat 11 0))))

/-- CSRWR (R374, R382): the old value goes to gd, then the register is written. -/
def execCsrwr (f : AF) (s : State) : Out :=
  let n := bits f.imm.toNat 11 0
  whenReady s [f.d, f.sa] ((s.writeCsr s.focus n (s.g f.sa).toNat).result f.d (BitVec.ofNat 64 (s.csr s.focus n)))

/-- CR_PEND_WRITE (R378). -/
def execCrPendWrite (cl : Nat) (v : BitVec 64) (s : State) : Out := .next (s.writeCsr cl 0x005 v.toNat)
/-- CR_ERBASE_WRITE (R442). -/
def execCrErbaseWrite (v : BitVec 64) (s : State) : Out := .next (s.writeCsr s.focus 0x070 v.toNat)
/-- CR_ERHEAD_WRITE (R443). -/
def execCrErheadWrite (v : BitVec 64) (s : State) : Out := .next (s.writeCsr s.focus 0x071 v.toNat)
/-- CR_ERTAIL_WRITE (R444). -/
def execCrErtailWrite (v : BitVec 64) (s : State) : Out := .next (s.writeCsr s.focus 0x072 v.toNat)
/-- CR_XFP_LS_WRITE (R374). -/
def execCrXfpLsWrite (cl num : Nat) (v : BitVec 64) (s : State) : Out :=
  if num = 0x038 ∨ num = 0x039 then .next (s.writeCsr cl num v.toNat) else .next s
/-- CR_MBOX_WRITE (R77, R390). -/
def execCrMboxWrite (cl : Nat) (v : BitVec 64) (s : State) : Out := .next (s.writeCsr cl 0x030 v.toNat)
/-- CR_DEVICE_WRITE (R374): a write of a device register other than those of the error ring. -/
def execCrDeviceWrite (num : Nat) (v : BitVec 64) (s : State) : Out := .next { s with dev := s.dev.write num v.toNat }
/-- CR_WRITE (R374): a write of a cluster register that has no row of its own. -/
def execCrWrite (cl num : Nat) (v : BitVec 64) (s : State) : Out := .next (s.onCl cl fun c => c.writeCsr num v.toNat)

/-! ### Traps and return (R384, R385) -/

/-- TRAP (R384), once every earlier instruction has completed (R415). -/
def execTrap (f : AF) (s : State) : Out :=
  if s.a.resultsDone then .next (s.takeTrap s.focus 0x3F 0 (BitVec.ofNat 64 (bits f.imm.toNat 15 0)) false (s.a.pc + 8)) else .next s

/-- A return to mode T ends the stop of a Software trap: the X-core goes on with the next vcyc (R417). -/
def XCore.softEnd (x : XCore) (m : Mode) : XCore :=
  if m = .t ∧ x.soft ∧ x.run = .stopped then { x with run := .run, soft := false, issued := true } else x

/-- Firmware returns to a task whose protection mismatch it has handled: the task is aborted and requeued (R419, R431; log 100). -/
def State.endDoomed (s : State) (cl : Nat) : State :=
  let c := s.cl cl
  match c.a.mode, c.a.doomed with
  | .t, some (d, v) => (s.onA cl fun a => { a with doomed := none }).requeueRung4 cl c.ctl.node c.ctl.task c.ctl.cid 7 d v
  | _, _ => s

/-- ERET (R385): as ICSYNC does, it discards the lines and the fetches under way. -/
def execEret (_ : AF) (s : State) : Out :=
  if !s.a.resultsDone then .next s
  else
    let t := s.dropFetches (ReqBy.fetchOf s.focus false)
    .next ((t.onCl s.focus fun c => { c with a := { c.a.leave with icache := [] }, x := c.x.softEnd c.a.leave.mode }).endDoomed s.focus)

/-! ### Waiting (R386) -/

/-- A HALT or PAUSE: it ends at once if an event is pending. -/
def State.hold (s : State) (til : Option Nat) : State :=
  if s.pendOf s.focus != 0 then s.advance else s.onA s.focus fun a => { a with run := .halted til, wait := none }

/-- HALT (R386). -/
def execHalt (_ : AF) (s : State) : Out := .next (s.hold none)
/-- PAUSE (R386). -/
def execPause (f : AF) (s : State) : Out := .next (s.hold (some (s.clk + bits f.imm.toNat 19 0)))

/-- HALT_WAKE (R386): an event is pending. -/
def execHaltWake (cl : Nat) (s : State) : Out :=
  match (s.cl cl).a.run with
  | .halted _ => if s.pendOf cl != 0 then .next (s.wake cl) else .next s
  | _ => .next s

/-- PAUSE_EXPIRY (R386): the clk of a PAUSE have passed. -/
def execPauseExpiry (cl : Nat) (s : State) : Out :=
  match (s.cl cl).a.run with
  | .halted (some t) => if t ≤ s.clk then .next (s.wake cl) else .next s
  | _ => .next s

/-- SAMOVAR_SERVICE_REQUEST (R378). -/
def execSamovarServiceRequest (cl : Nat) (s : State) : Out := .next (s.onA cl fun a => { a with pend := a.pend ||| 1 })

/-! ### TLBINV and SHOOT (R387) -/

/-- The scope that KIND selects. -/
def State.invScope (s : State) (f : AF) : ShootScope :=
  let m := f.imm.toNat
  match bits m 13 12 with
  | 0 => .range (bits m 11 0) (s.g f.sa).toNat (s.g f.sb).toNat
  | 1 => .space (bits m 11 0)
  | _ => .all

/-- The range check of KIND 00, and a length of 0. -/
def rangeBad : ShootScope → Option Nat
  | .range _ va len => if va < 2 ^ 52 ∧ va + len ≤ 2 ^ 52 then none else some va
  | _ => none
def rangeEmpty : ShootScope → Bool
  | .range _ _ len => len == 0
  | _ => false

/-- Every earlier access of the A-core has performed at device scope. -/
def State.devDrained (s : State) : Bool := (s.runA s.focus).drained (s.openCmds s.focus .dv (s.runCmds s.focus)) s.focus s.a.seq 0xFFFF .dv

/-- TLBINV (R387): steps 1 and 2 of R57 on this chip. -/
def execTlbinv (f : AF) (s : State) : Out :=
  let sc := s.invScope f
  if !s.ready [f.sa, f.sb] then .next s
  else match rangeBad sc with
    | some va => .next (s.spaceFault kNonCanonical (BitVec.ofNat 64 va))
    | none =>
      if !s.devDrained then .next (s.waitAt .shoot f)
      else if rangeEmpty sc then .next s.advance
      else
        let t := s.dropTranslations sc
        .next (if t.quiet sc t.nextMsg then t.advance else t.waitAt .shoot f)

/-- The shoot-down that the waiting SHOOT of the focused A-core has begun. -/
def State.ownShoot (s : State) : Option Shoot :=
  if s.a.wait.isSome then s.shoots.find? fun x => x.owner == .core s.focus else none

/-- SHOOT (R387): gd receives the chips fenced by it. -/
def execShoot (f : AF) (s : State) : Out :=
  let sc := s.invScope f
  if !s.ready [f.d, f.sa, f.sb] then .next s
  else match rangeBad sc with
    | some va => .next (s.spaceFault kNonCanonical (BitVec.ofNat 64 va))
    | none =>
      match s.ownShoot with
      | some x =>
        if s.shootDone x then .next ((s.endShoot x.id).result f.d x.fencedMask) else .next (s.waitAt .shoot f)
      | none =>
        let t : State := { s with shoots := s.shoots.filter fun x => x.owner != .core s.focus }
        if !s.devDrained then .next (t.waitAt .shoot f)
        else if rangeEmpty sc then .next (t.result f.d 0)
        else .next ((t.beginShoot sc (.core s.focus)).waitAt .shoot f)

/-! ### REMAP (R388) -/

/-- A cluster runs no task and has nothing under way. -/
def Cluster.drained (c : Cluster) : Bool := c.ctl.occ == .free && c.a.cmds.isEmpty && c.a.accs.isEmpty && c.arr.recs.isEmpty

/-- The physical bank that SEL names for logical bank `b` has failed (R88). -/
def bankFailed (w b sel : Nat) : Bool := if sel = 0 then bit w (34 + b) else bit w (31 + sel)

/-- The status of a tower REMAP: range, then the cluster, then the bank. -/
def State.remapTowerStatus (s : State) (v : Nat) : Nat :=
  let n := bits v 7 0
  let w := (NMap.get 0 (s.cl n).ctl.remap (bits v 13 8)).toNat
  if 191 < n || bits v 19 18 == 3 || bits v 63 20 != 0 then 3
  else if bits w (2 * bits v 17 14 + 1) (2 * bits v 17 14) != bits v 19 18 && !(s.cl n).drained then 1
  else if bankFailed w (bits v 17 14) (bits v 19 18) then 2
  else 0

/-- The record of a REMAP that is done. -/
def State.remapRecord (s : State) (v : Nat) : State := s.report (srcCl s.focus 0) 1 0x09 0 0 0 v 0 0

/-- A SEL entry rewritten (R88). -/
def State.setSel (s : State) (n cell bank sel : Nat) : State :=
  s.onCtl n fun c =>
    { c with remap := NMap.set 0 c.remap cell (BitVec.ofNat 64 (setBits (NMap.get 0 c.remap cell).toNat (2 * bank + 1) (2 * bank) sel)) }

/-- REMAP of a tower bank (R388): it waits for a refresh of the bank. -/
def execRemapTowerBank (f : AF) (s : State) : Out :=
  let v := (s.g f.sa).toNat
  let st := s.remapTowerStatus v
  if !s.ready [f.d, f.sa] then .next s
  else if st != 0 then .next (s.result f.d (BitVec.ofNat 64 st))
  else if NMap.get false (s.cl (bits v 7 0)).ctl.refreshing (bits v 17 14) then .next (s.waitAt .dev f)
  else .next (((s.setSel (bits v 7 0) (bits v 13 8) (bits v 17 14) (bits v 19 18)).remapRecord v).result f.d 0)

/-- The logical clusters of column `j` that a new SKIP moves. -/
def State.movedBy (s : State) (j skip : Nat) : List Nat :=
  (List.range 12).filterMap fun l => if (l < s.skip j) != (l < skip) then some (16 * l + j) else none

/-- The logical clusters of column `j` whose service bit new service bits clear (R390). -/
def State.removedBy (s : State) (j rows : Nat) : List Nat :=
  (List.range 12).filterMap fun l => if bit s.dev.clsvc (16 * l + j) && !bit rows l then some (16 * l + j) else none

/-- The status of a cluster-table REMAP: range, then the clusters it moves or removes, then the row that comes into use. -/
def State.remapTableStatus (s : State) (v : Nat) : Nat :=
  let j := bits v 3 0
  let skip := bits v 7 4
  if 12 < skip || bits v 63 20 != 0 then 3
  else if (s.movedBy j skip ++ s.removedBy j (bits v 19 8)).any (fun n => n == s.focus || !(s.cl n).drained) then 1
  else if skip != s.skip j && s.rel.failedRows.contains (j, s.skip j) then 2
  else 0

/-- SKIP and the service bits of column `j` rewritten (R381). -/
def Dev.setColumn (d : Dev) (j skip rows : Nat) : Dev :=
  { d with clmap := BitVec.ofNat 64 (setBits d.clmap.toNat (4 * j + 3) (4 * j) skip),
           clsvc := (List.range 12).foldl (fun v l => setBits v (16 * l + j) (16 * l + j) (b2n (bit rows l))) d.clsvc }

/-- What the power arbiter and the retraining keep of a logical cluster, at the place that a new table gives it (R473-R476). -/
def Ctl.follow (c o : Ctl) : Ctl :=
  { c with grant := o.grant, used := o.used, usedNow := o.usedNow, capped := o.capped, capNow := o.capNow, retrainDue := o.retrainDue,
           retrainEnd := o.retrainEnd }

/-- The cluster table rewritten for column `j` (R381, R388): a logical cluster that it moves keeps its grant and its retraining, and one that
it takes into service begins with the grant of a reset. -/
def State.setTable (s : State) (j skip rows : Nat) : State :=
  (List.range 12).foldl (fun u l =>
    let n := 16 * l + j
    u.onCtl n fun c => c.follow (if s.inService n then (s.cl n).ctl else { Ctl.reset with
      retrainDue := (s.cl n).ctl.retrainDue, retrainEnd := (s.cl n).ctl.retrainEnd })) { s with dev := s.dev.setColumn j skip rows }

/-- REMAP of the cluster table (R388). -/
def execRemapClusterTable (f : AF) (s : State) : Out :=
  let v := (s.g f.sa).toNat
  let st := s.remapTableStatus v
  if !s.ready [f.d, f.sa] then .next s
  else if st != 0 then .next (s.result f.d (BitVec.ofNat 64 st))
  else
    .next (((s.setTable (bits v 3 0) (bits v 7 4) (bits v 19 8)).remapRecord v).result f.d 0)

/-! ### ERRPOP (R389) -/

/-- The checks of ERRPOP's locator. -/
def State.errpopErr (s : State) (v : Nat) : Option Flt :=
  let e := Ext.of (locEp s.focus v) 64
  firstFlt [locForm v (spaceIn false true false), s.locScope s.focus v, e.check v, orAlign (epAddr e.ep % 64 == 0) (epAddr e.ep),
    s.extOwner s.focus e v]

/-- ERRPOP (R389): the record at TAIL is claimed and copied to scratchpad. A poisoned slot requests a device reset (R436). -/
def execErrpop (f : AF) (s : State) : Out :=
  let v := (s.g f.sa).toNat
  let d := s.dev
  let a := d.erAddr + 64 * d.erTail
  if !s.ready [f.d, f.sa] then .next s
  else match s.errpopErr v with
    | some e => .next (s.trapFlt e)
    | none =>
      if d.erHead = d.erTail then .next (s.result f.d (BitVec.ofNat 64 (flag d.erOvf 1)))
      else if poisoned 64 s.hbmPoison a 64 || s.channelFailed a then
        .next ((s.firmPoison s.focus a 1).onA s.focus fun r => { r with run := .dead, wait := none })
      else
        let (c, p) := s.wordAt v
        if s.spBlocked s.focus (some s.a.seq) true c p 64 then .next s
        else
        let t := s.softWrite c p (s.hbm.read a 64)
        let t : State := { t with dev := { d with erTail := (d.erTail + 1) % d.erSize } }
        .next (t.result f.d (BitVec.ofNat 64 (1 + flag d.erOvf 1 + Nat.min (d.erCount - 1) 65535 * 2 ^ 16)))

end Sys2Proof.Machine
end

