-- ==== Sys2Proof/Machine/Vcyc.lean ====
section
/-! DEFINITION. The virtual cycle counter (R187-R190): landings, comparison points (R325, R431), tower accesses (R90, R95, R344,
R345), freezes and their ends, the taking of X traps (R416) and the arrival of shifted rows (R341). -/

namespace Sys2Proof.Machine

/-! ### Tower accesses -/

/-- The bank of a cell's tower that an address lies in, by 16 times the cell plus the bank (R87). -/
def bankKey (cell a : Nat) : Nat := 16 * cell + a / 16384

/-- A number joins a list unless it is in it. -/
def addNew (l : List Nat) (n : Nat) : List Nat := if l.contains n then l else l ++ [n]

/-- The banks that the tower access of a landing addresses. -/
def Eff.banks : Eff → List Nat
  | .twld _ mask addr | .twst mask addr _ =>
    (List.range 1024).foldl (fun bs l => if mask.getLsbD l then addNew bs (bankKey (cellOf l) (NMap.get 0 addr l)) else bs) []
  | _ => []

/-- The banks addressed at a vcyc. -/
def XCore.banksAt (x : XCore) (v : Nat) : List Nat :=
  (x.land.filter fun l => l.due == v).foldl (fun bs l => l.eff.banks.foldl addNew bs) []

def Ctl.bankAsleep (c : Ctl) (k : Nat) : Bool := NMap.get false c.asleep k
def Ctl.bankRefreshing (c : Ctl) (k : Nat) : Bool := NMap.get false c.refreshing (k % 16)

/-- An access to banks: they are awake, and their idle time begins anew (R90). -/
def Ctl.touch (c : Ctl) (now : Nat) (ks : List Nat) : Ctl :=
  { c with asleep := ks.foldl (fun m k => NMap.set false m k false) c.asleep,
           lastAcc := ks.foldl (fun m k => NMap.set 0 m k now) c.lastAcc }

/-- The lanes by rising in-cell position, cell by cell: the order in which a TWST's lanes write one word (R345). -/
def towerOrder : List Nat :=
  (List.range 16).flatMap fun p => (List.range 64).map fun c => 64 * (c / 16 * 4 + p / 4) + (c % 16 * 4 + p % 4)

/-- A tile written to towers (R344). -/
def State.twStore (s : State) (cl : Nat) (mask : Pred) (addr : NMap Nat) (v : Tile) : State :=
  towerOrder.foldl (fun s l =>
    if mask.getLsbD l then s.twWrite cl (cellOf l) (NMap.get 0 addr l) (toBytes 4 (Tile.lane v l).toNat) else s) s

/-- The first poisoned unit that the lanes of a tower load meet. -/
def State.twBadUnit (s : State) (cl : Nat) (mask : Pred) (addr : NMap Nat) : Option MemUnit :=
  ((List.range 1024).find? fun l => mask.getLsbD l && s.twPoisoned cl (cellOf l) (NMap.get 0 addr l) 4).map fun l =>
    .tw cl (cellOf l) (NMap.get 0 addr l / 64)

/-- The tile that a tower load reads. -/
def State.twLoad (s : State) (cl : Nat) (addr : NMap Nat) : Tile :=
  Tile.ofFn fun l => BitVec.ofNat 32 ((s.cl cl).tw.readN ((s.cl cl).twAddr (cellOf l) (NMap.get 0 addr l)) 4)

/-! ### Landing -/

/-- A protection mismatch found where results land: the syllables of that vcyc still issue (R416). -/
def XCore.note (x : XCore) (t : XTrap) : XCore := { x.raise t with run := if x.run == .run then .run else .draining }

/-- A trap of the vcyc in which the syllable issued: nothing issues any more (R416). -/
def State.landTrap (s : State) (cl code tval slot : Nat) : State :=
  s.onX cl fun x => x.raise { code := code, detail := 0, tval := tval, slot := slot }

/-- lc, ec, rb and the stage predicates take new values (R195), in the X-core and in the Vigil core's copy. -/
def Cluster.setLoop (c : Cluster) (lc ec rb : Nat) (ks : List Pred) : Cluster :=
  { c with
    x := (List.range 8).foldl (fun x i => x.setPred (8 + i) (ks.getD i 0)) { c.x with lc := lc, ec := ec, rb := rb },
    vigil := { c.vigil with lc := lc, ec := ec, rb := rb } }

/-- The Vigil core's own value of an x register, where it is another. -/
def Cluster.vigilX (c : Cluster) (n : Nat) : Option W64 → Cluster
  | some v => if n = 0 then c else { c with vigil := { c.vigil with x := NMap.set 0 c.vigil.x n v } }
  | none => c

/-- A tile enters a store queue, or overflows it (R83). -/
def State.pushSq (s : State) (cl q slot : Nat) (v : Tile) : State :=
  if 8 ≤ s.sqOcc cl q then s.landTrap cl 0x10 q slot
  else s.onX cl fun x => { x with sq := NMap.set [] x.sq q (NMap.get [] x.sq q ++ [v]) }

/-- A pack tile with bit `j` of every lane taken from a predicate (R343). -/
def packBit (t : Tile) (k : Pred) (j : Nat) : Tile :=
  Tile.ofFn fun l => BitVec.ofNat 32 (setBits (Tile.lane t l).toNat j j (b2n (k.getLsbD l)))

/-- One result lands (R187, R191, R195, R332, R341-R344); `k7` is the AND of the outcomes that land together (R192). -/
def State.landOne (cl : Nat) (k7 : Bool) (s : State) (l : Landing) : State :=
  if (s.cl cl).x.run == .idle then s
  else match l.eff with
  | .tile p mask v => s.onX cl fun x => { x with t := NMap.set [] x.t p (Tile.merge mask (x.tile p) v) }
  | .pred n mask v => s.onX cl fun x => x.setPred n ((x.pred n &&& ~~~mask) ||| (v &&& mask))
  | .x n v => s.onCl cl fun c => (c.setX n v).vigilX n l.vig
  | .flags v => s.onX cl fun x => { x with xfp := x.xfp ||| BitVec.ofNat 64 v }
  | .k7 _ => s.onX cl fun x => x.setPred 7 (if k7 then BitVec.allOnes 1024 else 0)
  | .push q v => s.pushSq cl q l.slot v
  | .kstq q k j push =>
    let t := packBit (NMap.get [] (s.cl cl).x.pack q) k j
    if !push then s.onX cl fun x => { x with pack := NMap.set [] x.pack q t }
    else if 8 ≤ s.sqOcc cl q then s.landTrap cl 0x10 q l.slot
    else (s.pushSq cl q l.slot t).onX cl fun x => { x with pack := NMap.set [] x.pack q [] }
  | .twld p mask addr =>
    (match s.twBadUnit cl mask addr with
    | some u => s.corePoison cl u (match u with
      | .tw _ _ n => 64 * n
      | _ => 0) 1
    | none =>
      s.onX cl fun x => { x with land := x.land ++ [{ l with due := l.issued + 8, eff := .tile p mask (s.twLoad cl addr) }] })
  | .twst mask addr v => s.twStore cl mask addr v
  | .sem k n =>
    if 65535 < s.sem cl k + n then s.landTrap cl 0x13 k l.slot else s.setSem cl k (s.sem cl k + n)
  | .loop lc ec rb ks => s.onCl cl fun c => c.setLoop lc ec rb ks
  | .ls v => s.onX cl fun x => { x with ls := BitVec.ofNat 64 v }
  | .xfp v => s.onX cl fun x => { x with xfp := BitVec.ofNat 64 v }
  | .xfpClear m => s.onX cl fun x => { x with xfp := x.xfp &&& ~~~BitVec.ofNat 64 m }
  | .send k north =>
    { s with flights := s.flights.map fun g => if g.cl == k && g.north == north then { g with sent := true } else g }
  | .latch north => s.onX cl fun x => if north then { x with latchN := none } else { x with latchS := none }

/-! ### Comparison points (R325, R431) -/

/-- What is compared where it lands; a tower load is compared where its tile lands. Lanes whose guard bit is 0 take no part (R325). -/
def Eff.compared : Eff → Bool
  | .tile _ m _ | .pred _ m _ | .twst m _ _ => m != 0
  | .x _ _ | .send _ _ => true
  | _ => false

/-- The syllables whose copies are compared among results, in order: issue vcyc, slot and class. -/
def comparedKeys (due : List Landing) : List (Nat × Nat × Nat) :=
  due.foldl (fun ks l =>
    let k := (l.issued, l.slot, l.pcl)
    if l.pcl != 0 && l.eff.compared && !ks.contains k then ks ++ [k] else ks) []

/-- Whether copies of class `pcl` that compare so fail: any difference under `.dc`, three values under `.tv`. -/
def cmpFails (pcl : Nat) (c : Cmp) : Bool := pcl != 0 && (c == .differ || (pcl == 1 && c == .dissent))

/-- What takes effect before everything else that lands with it: the clearing of flags, so that none raised then is lost (R262). -/
def Eff.first : Eff → Bool
  | .xfpClear _ => true
  | _ => false

/-- Every result due lands in issue order (R188), but for those of syllables whose copies mismatch, which trap; a single dissent
under `.tv` is logged. -/
def State.landAll (s : State) (cl : Nat) (due : List Landing) (cmps : List Cmp) : State :=
  let rs := (comparedKeys due).zipIdx.map fun (k, i) => (k, cmps.getD i .agree)
  let bad := (rs.filter fun (k, c) => cmpFails k.2.2 c).map Prod.fst
  let ok := due.filter fun l => !bad.contains (l.issued, l.slot, l.pcl)
  let k7 := due.all fun l => match l.eff with
    | .k7 b => b
    | _ => true
  let s := rs.foldl (fun s (k, c) => if k.2.2 == 2 && c == .dissent then s.dissent cl 1 0 else s) s
  let s := bad.foldl (fun s (_, slot, pcl) =>
    s.onX cl fun x => x.note { code := 7, detail := if pcl = 2 then 3 else 1, tval := 0, slot := slot }) s
  let s := s.dropSends (due.filter fun l => bad.contains (l.issued, l.slot, l.pcl))
  (ok.filter (fun l => l.eff.first) ++ ok.filter fun l => !l.eff.first).foldl (State.landOne cl k7) s

/-! ### The counter -/

/-- A tower access of the next vcyc meets a sleeping or refreshing bank (R95). -/
def Cluster.towerHeld (c : Cluster) : Bool := (c.x.banksAt (c.x.vcyc + 1)).any fun k => c.ctl.bankAsleep k || c.ctl.bankRefreshing k

/-- The X-core moves to the next vcyc and its results land; a draining core with nothing left stops (R416). A tower access that
meets a sleeping or refreshing bank freezes the vcyc instead (R95, R190). -/
def State.vcycStep (s : State) (cl : Nat) (cmps : List Cmp) : State :=
  let c := s.cl cl
  let v := c.x.vcyc + 1
  let banks := c.x.banksAt v
  if c.towerHeld then s.xfreeze .tower
  else
    let due := sortLe (fun a b => decide (4 * a.issued + a.slot ≤ 4 * b.issued + b.slot)) (c.x.land.filter fun l => l.due == v)
    let t := s.onCl cl fun c =>
      { c with x := { c.x with vcyc := v, issued := false, land := c.x.land.filter fun l => l.due != v },
               ctl := c.ctl.touch s.clk banks }
    (t.landAll cl due cmps).onX cl fun x => if x.run == .draining && x.land.isEmpty then { x with run := .stopped } else x

/-- What the syllables of the next vcyc may do, with the results that are due at it written (R189): a freeze that they meet holds back those
results too. -/
def State.xNext (s : State) (cmps : List Cmp) : Ready :=
  match s.xFetch, s.cur.pauses with
  | .go t _, some k | .trap t _, some k => .freeze t k
  | .go t ys, none =>
    if s.x.issued && s.cur.towerHeld then .freeze t .tower
    else
      let u := if s.x.issued then t.vcycStep s.focus cmps else t
      if u.x.run != .run then .go t ys
      else (match ({ u with slot := 3 } : State).xBlocks (sylInstrs ys) with
        | some k => .freeze t k
        | none => .go t ys)
  | r, _ => r

/-- The next vcyc of a core that has ended or drains, unless the counter pauses (R190, R416). -/
def State.vcycTail (s : State) (cl : Nat) (cmps : List Cmp) : State :=
  match s.cur.pauses with
  | some k => s.xfreeze k
  | none => s.vcycStep cl cmps

/-- VCYC (R187-R190, R416): the next vcyc begins once the last one's syllables have issued and no cause freezes it; a core that
has ended or drains goes on until nothing is in flight. In a step the vcyc's syllables issue at once. -/
def execVcyc (cl : Nat) (cmps : List Cmp) (s : State) : Out :=
  let s : State := { s with focus := cl }
  let x := s.x
  if x.freeze.isSome then .next s
  else match x.run with
  | .run =>
    if !x.issued || (s.halting cl && x.ckptNow) then .next s
    else match s.xNext cmps with
      | .stop t => .next t
      | .freeze t k => .next (t.xfreeze k)
      | .go t _ | .trap t _ => .next (t.vcycStep cl cmps)
  | .ended =>
    if x.land.isEmpty then .next s else .next (s.vcycTail cl cmps)
  | .draining => .next (s.vcycTail cl cmps)
  | .idle | .stopped | .halted _ _ _ => .next s

/-- Whether pre-emption may halt the X-core at a freeze (R190). -/
def Freeze.haltable : Freeze → Bool
  | .beats _ | .vigil => false
  | _ => true

/-- The freeze of the focused X-core is over, or has another cause from now on. -/
def State.thaw (s : State) (k : Option Freeze) : State := s.onX s.focus fun x => { x with freeze := k, frozenAt := s.clk }

/-- The freeze of an XSEMP ends with the count lowered, so that no other takes it before the vcyc issues (R190). -/
def State.takeSem (s : State) : Freeze → State
  | .sem k => if s.sem s.focus k = 0 then s else (s.setSem s.focus k (s.sem s.focus k - 1)).onX s.focus fun x => { x with semGot := some k }
  | _ => s

/-- X_FREEZE_END (R189, R190, R200): the freeze ends when its cause has cleared, unless a pre-emption halts the core at it. -/
def execXFreezeEnd (cl : Nat) (s : State) : Out :=
  let s : State := { s with focus := cl }
  match s.x.freeze with
  | none => .next s
  | some k =>
    if s.halting cl && k.haltable then .next s
    else match k with
    | .beats n => .next (if s.x.frozenAt + n < s.clk then s.thaw none else s)
    | .tower =>
      let banks := s.x.banksAt (s.x.vcyc + 1)
      if banks.any s.cur.ctl.bankRefreshing then .next s
      else .next ((s.thaw none).onCtl cl fun c => c.touch s.clk banks)
    | .retrain => .next (if s.cur.ctl.retrainEnd.isSome then s else s.thaw none)
    | .vigil => .next (if s.cur.vigil.behind then s else s.thaw none)
    | .queue | .sem _ | .mwait _ _ | .recQueue | .fetch =>
      if s.x.run != .run then .next (s.thaw none)
      else match s.xNext [] with
        | .stop t => .next t
        | .freeze t k' => .next (if k' == k then t else t.thaw (some k'))
        | .go t _ | .trap t _ => .next ((t.thaw none).takeSem k)

/-- X_TRAP_TAKEN (R416, R418). -/
def execXTrapTaken (cl : Nat) (s : State) : Out :=
  match s.xTrapDue cl with
  | some t => .next (s.takeXTrap cl t)
  | none => .next s

/-- LATCH_ROWS_ARRIVE (R341): the rows that have left the sender fill the latch. -/
def execLatchRowsArrive (cl : Nat) (north : Bool) (s : State) : Out :=
  match s.flights.find? fun g => g.cl == cl && g.north == north && g.sent with
  | none => .next s
  | some g =>
    let t : State := { s with flights := s.flights.erase g }
    .next (t.onX cl fun x => if north then { x with latchN := some g.rows } else { x with latchS := some g.rows })

end Sys2Proof.Machine
end

