-- ==== Sys2Proof/Machine/Preempt.lean ====
section
/-! DEFINITION. Pre-emption (R196-R201, R422-R429): the request, the halt of the two cores, the suspension record and its
restoring. -/

namespace Sys2Proof.Machine

/-! ### The request (R422, R423) -/

/-- PREEMPT_REQUEST (R422, R423, R429): in mode T the A-core stops at its next boundary, after a precise trap of the instruction there
(R418); in mode S PREEMPT is set and it stops at the return to mode T. A request waits for the disposition of an X trap and for a task's start;
one halt serves two requests. -/
def execPreemptRequest (cl : Nat) (s : State) : Out :=
  let c := s.cl cl
  if s.disp.pending.all fun p => p.1 != cl then .next s
  else match c.ctl.occ with
    | .free | .halting | .saving => .next (s.requestServed cl)
    | .placed | .restoring => .next s
    | .running =>
      if c.x.trap.isSome then .next s
      else
        let t := (s.requestServed cl).onCtl cl fun c => { c with preempt := true, occ := .halting }
        .next (if c.a.mode = .t then (if c.a.run = .run then t else t.freezeA cl) else t.onA cl fun a => { a with pend := a.pend ||| 4 })

/-! ### The live-range table (R197, R198) -/

/-- Ranges of a table: base and length. -/
def tabSp (t : Nat) : List (Nat × Nat) :=
  (List.range (bits t 99 96)).map fun i => (bits t (64 * i + 277) (64 * i + 256), bits t (64 * i + 299) (64 * i + 278))
def tabTw (t : Nat) : List (Nat × Nat) :=
  (List.range (bits t 102 100)).map fun j => (bits t (64 * j + 785) (64 * j + 768), bits t (64 * j + 804) (64 * j + 786))

/-- The conditions of R198 on the contents of a table. -/
def tabUsable (t : Nat) : Bool :=
  bits t 99 96 ≤ 8 && bits t 102 100 ≤ 4
    && (tabSp t).all (fun r => decide (r.1 + r.2 ≤ 0x300000)) && (tabTw t).all (fun r => decide (r.1 + r.2 ≤ 0x40000))
    && decide (((tabSp t).map Prod.snd).sum ≤ 3 * 2 ^ 20) && decide (((tabTw t).map Prod.snd).sum ≤ 65536)
    && !bit t 95 && bits t 255 103 == 0
    && (List.range 8).all (fun i => bits t (64 * i + 319) (64 * i + 300) == 0)
    && (List.range 4).all fun j => bits t (64 * j + 831) (64 * j + 805) == 0

/-- What the reading of a table's line finds: its bytes, a line not yet there, or a line that cannot be read. -/
inductive TabRes where
  | got (v : Nat) (s : State) | waits (s : State) | bad (s : State)

/-- A line of a live-range table, read through the X-stream fetcher with EX (R197). -/
def State.tabLine (s : State) (cl a : Nat) : TabRes :=
  let cid := (s.cl cl).ctl.cid
  match (s.cl cl).x.icache.find? fun l => l.cid == cid && l.addr == a with
  | some l => .got (ofBytes l.data) s
  | none =>
    match s.resolve cl cid a (.stream 11) [pEX] with
    | (.fault _, t) => .bad t
    | (.waits, t) => .waits t
    | (.poison p, t) => .bad (t.walkPoison cl cid p)
    | (.at_ .hbm pa, t) =>
      (match t.hbmRead pa 64 with
      | .ok bs => .got (ofBytes bs) t
      | .poison | .offline => .bad t
      | .retry => .waits (t.dropVa cid a)
      | .waits => .waits t)
    | (.at_ p pa, t) =>
      let o := ReqBy.fetch cl cid true a
      if t.fetchSent o then .waits t
      else match p with
        | .remote c => .waits (t.lineRequest c o pa)
        | _ => .waits (t.hostRequest o pa 64)

/-- The 1,024 bits of a table. -/
def State.tabRead (s : State) (cl a : Nat) : TabRes :=
  match s.tabLine cl a with
  | .got v t =>
    (match t.tabLine cl (a + 64) with
    | .got w u => .got (v + w * 2 ^ 512) u
    | r => r)
  | r => r

/-! ### The halt of the X-core (R200, R422) -/

/-- The halt point at which the X-core stands: at a freeze or not, and whether it has ended. A core that has ended halts at any
boundary. -/
def XCore.haltPoint (x : XCore) : Option (Bool × Bool) :=
  match x.run with
  | .run =>
    if x.ckptNow && x.issued then some (false, false)
    else (match x.freeze with
      | some k => if k.haltable then some (true, false) else none
      | none => none)
  | .ended => some (true, true)
  | _ => none

/-- The count that a frozen XSEMP has taken goes back: the XSEMP issues again on resume (R200). -/
def ACore.giveBack (a : ACore) : Option Nat → ACore
  | some k => { a with sems := NMap.set 0 a.sems k (NMap.get 0 a.sems k + 1) }
  | none => a

/-- X_HALT (R200, R422): the X-core stops at its halt point with a usable table; without one the task is aborted and requeued. -/
def execXHalt (cl : Nat) (s : State) : Out :=
  let c := s.cl cl
  if !s.halting cl || c.a.run != .frozen || c.x.trap.isSome then .next s
  else match c.x.haltPoint with
    | none => .next s
    | some (fr, fin) =>
      if !c.vigilSame then .next (s.divergence cl .ending c.a.pc.toNat)
      else match c.x.ckpt with
        | none => .next (s.endTask cl .requeue)
        | some a =>
          match s.tabRead cl a with
          | .waits t => .next t
          | .bad t => .next ((t.report (srcCl cl 1) 0 0x12 c.ctl.cid 0 0 a 0 0).endTask cl .requeue)
          | .got v t =>
            if !tabUsable v then .next ((t.report (srcCl cl 1) 0 0x12 c.ctl.cid 0 0 a 0 0).endTask cl .requeue)
            else .next (t.onCl cl fun c =>
              { c with a := c.a.giveBack c.x.semGot, x := { c.x with run := .halted fr fin v, freeze := none, semGot := none },
                       ctl := { c.ctl with occ := .saving } })

/-! ### What a suspension record holds (R199, R201, R424) -/

/-- A physical tile is live: some live name means it now. -/
def XCore.tileLive (x : XCore) (fr : Bool) (t p : Nat) : Bool := fr || (List.range 64).any fun n => bit t n && x.phys n == p

/-- An entry of the landing list whose destination is live (R201). -/
def XCore.landLive (x : XCore) (fr : Bool) (t : Nat) (l : Landing) : Bool :=
  match l.eff with
  | .tile p _ _ => x.tileLive fr t p
  | .twld p _ _ => x.tileLive fr t p
  | .pred n _ _ => fr || bit t (64 + n)
  | .k7 _ => fr || bit t 71
  | .push q _ => fr || bit t (88 + q)
  | .kstq q _ _ _ => fr || bit t (88 + q)
  | _ => true

/-- The X-core as it is saved. -/
def XCore.saved (x : XCore) (fr : Bool) (t : Nat) : XCore :=
  { x with
    t := x.t.filter fun e => x.tileLive fr t e.1, k := x.k.filter fun e => fr || bit t (64 + e.1),
    lq := x.lq.filter fun e => fr || bit t (80 + e.1), sq := x.sq.filter fun e => fr || bit t (88 + e.1),
    pack := x.pack.filter fun e => fr || bit t (88 + e.1), dq := if fr || bit t 92 then x.dq else [],
    hq := if fr || bit t 93 then x.hq else [], land := x.land.filter (x.landLive fr t), icache := [], jump := none,
    ckptNow := false }

/-- A memory's bytes within ranges. -/
def inRanges (rs : List (Nat × Nat)) (a : Nat) : Bool := rs.any fun r => decide (r.1 ≤ a) && decide (a < r.1 + r.2)

/-- The contents of a cluster's towers by 262,144 times the cell plus the tower address. -/
def Cluster.towerImage (c : Cluster) : Memory :=
  (List.range 1024).flatMap fun i =>
    let base := bankAddr (i / 16) (twBankOf (i % 16) (c.ctl.twSelOf (i / 16) (i % 16)))
    (c.tw.slice base (base + 16384)).map fun (a, v) => (i * 16384 + (a - base), v)

/-- Bytes put over a memory whose ranges are cleared first. -/
def Memory.overlay (m : Memory) (rs : List (Nat × Nat)) (img : Memory) : Memory :=
  img.foldl (fun m (a, v) => NMap.set 0 m a v) (rs.foldl (fun m r => m.clear r.1 (r.1 + r.2)) m)

/-- A cluster whose towers hold an image. -/
def Cluster.setTowerImage (c : Cluster) (img : Memory) : Cluster :=
  { c with tw := img.foldl (fun m (a, v) => NMap.set 0 m (c.twAddr (a / 262144) (a % 262144)) v) c.unusedBanks }

/-- The tower ranges of a table in an image: the same in every cell. -/
def imageRanges (t : Nat) : List (Nat × Nat) := (List.range 64).flatMap fun k => (tabTw t).map fun r => (k * 262144 + r.1, r.2)

/-- The poisoned units among what is saved. -/
def State.savedBad (s : State) (cl t : Nat) : List MemUnit :=
  let p := s.phys cl
  let c := s.cl cl
  let mine (ps : List (Nat × Nat)) : List Nat := (ps.filter fun q => q.1 == p).map Prod.snd
  let meets (rs : List (Nat × Nat)) (u a : Nat) : Bool := rs.any fun r => decide (a * u < r.1 + r.2) && decide (r.1 < (a + 1) * u)
  ((s.spBad cl).filter (meets (tabSp t) 32)).map (MemUnit.sp cl)
    ++ ((List.range 64).flatMap fun k => ((List.range 4096).filter fun u =>
          meets (tabTw t) 64 u && (s.twBad cl).contains (c.twAddr k (64 * u) / 64)).map fun u => MemUnit.tw cl k u)
    ++ (if bit t 94 then (mine s.accPoison).map (MemUnit.acc cl) else []) ++ (mine s.pePoison).map (MemUnit.pe cl)

/-- A TLDQ that has not filled its slot and whose queue is saved: it goes with the suspension (R85). -/
def Cmd.refills (k : Cmd) (x : XCore) : Bool := k.kind == .tldq && (NMap.get [] x.lq k.aux).any fun q => q.cmd == k.id

/-- The suspension record of the task on cluster `cl` (R424). -/
def State.suspension (s : State) (cl : Nat) (fr : Bool) (t : Nat) : Susp :=
  let c := s.cl cl
  let x := c.x.saved fr t
  { task := c.ctl.task, cl := cl,
    a := { c.a with cmds := c.a.cmds.filter (fun k => k.ofTask c && k.refills x), loads := [], stores := [], l1 := [], tlb := [], icache := [] },
    x := x, arr := { c.arr with acc := if bit t 94 then c.arr.acc else [], drain := none },
    sp := c.sp.filter fun e => inRanges (tabSp t) e.1, tw := c.towerImage.filter fun e => inRanges (imageRanges t) e.1,
    mbox := c.ctl.mbox, mbHead := c.ctl.mbHead, mbTail := c.ctl.mbTail, mbPos := c.ctl.mbPos, at_ := s.gtc,
    bufs := s.bufs.filter fun e => e.1 / 64 == quadOf cl && e.2.who == quadPos cl, bad := s.savedBad cl t }

/-! ### The save (R425) -/

/-- A write that cannot perform now because its page waits for a pool frame or an outcome (R127). -/
def State.frameBlocked (s : State) (l : Acc) : Bool :=
  l.store && l.place == .hbm && (match s.hbmWrite l.pa (toBytes l.size l.data) with
    | .waits _ => true
    | _ => false)

/-- The task's issued accesses have come to an end: values have returned, and stores have performed but for those that wait for a
frame, with what is held back behind them. -/
def State.accsSaved (s : State) (cl : Nat) : Bool :=
  let a := (s.cl cl).a
  let own := a.stores.filter fun l => l.late.isNone
  a.resultsDone
    && own.all (fun l => l.place == .hbm && (s.frameBlocked l || (s.runA cl).heldBack (s.openCmds cl l.scope (s.runCmds cl)) cl l false))
    && (own.isEmpty || own.any s.frameBlocked)

/-- The commands that a save waits for: those that write into the cluster's scratchpad, as an NMCAS writes its payload (R306), or count on a
word there (R425). -/
def Cmd.savedAfter (k : Cmd) (cl : Nat) : Bool :=
  (match k.dst with
    | .sp c _ => c == cl
    | _ => false)
  || (k.kind == .nmcas && match k.src with
    | .sp c _ => c == cl
    | _ => false)
  || k.word.any fun w => w.1 == cl

/-- Rows that neighbours have sent to a cluster fill its latches (R341). -/
def State.landRows (s : State) (cl : Nat) : State :=
  (s.flights.filter fun g => g.cl == cl && g.sent).foldl (fun (s : State) g =>
    { s with flights := s.flights.erase g }.onX cl fun x => if g.north then { x with latchN := some g.rows } else { x with latchS := some g.rows }) s

/-- SUSPENSION_SAVE (R425): the record is written and the cluster is free; commands of the task run on, and so do stores that wait for
a frame. Without room in the reserved region the task is aborted and requeued. -/
def execSuspensionSave (cl : Nat) (room : Bool) (s : State) : Out :=
  let c := s.cl cl
  match c.x.run with
  | .halted fr _ t =>
    if c.ctl.occ != .saving || c.a.due.isSome || !s.accsSaved cl || !c.arr.passes.isEmpty || (c.arr.drain.any fun d => d.data.isSome) || (s.taskCmds cl).any fun k => k.savedAfter cl then .next s
    else if !room then .next (s.endTask cl .requeue)
    else
      let s := s.landRows cl
      let r := s.suspension cl fr t
      let left : List Cmd := c.a.cmds.filter fun k => !(k.ofTask c && k.kind == .tldq)
      let wait (l : Acc) : Acc := if l.late.isNone then { l with late := some (c.ctl.node, c.ctl.task), wins := 0 } else l
      let s := s.setCl cl { c.stop with a := { c.stop.a with cmds := left, stores := c.a.stores.map wait } }
      .next (s.onNode c.ctl.node fun n => if n.failing != 0 then n else { n.waits s.gtc with susp := n.susp ++ [r] })
  | _ => .next s

/-! ### The resume (R426-R428) -/

/-- The buffer entries of a quad that an unbind saved come back where the live entry is FREE (R428). -/
def State.restoreBufs (s : State) (cid q : Nat) : State :=
  let saved := (s.ctx cid).savedBufs.filter fun e => e.1 / 64 == q
  let t : State := saved.foldl (fun t (k, b) =>
    if (NMap.get Buf.free t.bufs k).st = 0 then { t with bufs := NMap.set Buf.free t.bufs k b } else t) s
  t.onCtx cid fun c => { c with savedBufs := c.savedBufs.filter fun e => e.1 / 64 != q }

/-- Buffer entries of a quad that name position `h` name `p`, and the other way round (R426). -/
def State.swapBufs (s : State) (q h p : Nat) : State :=
  (List.range 64).foldl (fun s i =>
    let b := s.buf q i
    if b.st = 0 then s
    else if b.who = h then s.setBuf q i { b with who := p }
    else if b.who = p then s.setBuf q i { b with who := h }
    else s) s

/-- The buffer entries of a suspension record come back where the live entry is FREE, for a task that resumes in its quad (R424, R426, R428,
log 83). -/
def State.restoreHeld (s : State) (bs : NMap Buf) : State :=
  bs.foldl (fun t (k, b) => if (NMap.get Buf.free t.bufs k).st = 0 then { t with bufs := NMap.set Buf.free t.bufs k b } else t) s

/-- The TLDQs of a suspension as they start again on cluster `cl`, numbered from `id` on (R85). -/
def refillCmds (old cl : Nat) : Nat → List Cmd → List Cmd
  | _, [] => []
  | id, k :: ks =>
    let src := match k.src with
      | .sp c a => Ep.sp (if c = old then cl else c) a
      | e => e
    { k with id := id, src := src, started := false, lock := 0, ask := 0, piece := 0, gran := [], got := [], done := [], buf := [], performed := 0 }
      :: refillCmds old cl (id + 1) ks

/-- The slots of the load queues with the new numbers of their commands. -/
def renumber (old new : List Cmd) (q : List LSlot) : List LSlot :=
  q.map fun l =>
    match (old.zip new).find? fun p => p.1.id == l.cmd && !l.ready with
    | some p => { l with cmd := p.2.id }
    | none => l

/-- A cluster on which a suspended task resumes; a record that failed during the save raises its trap (R429). Its mailbox ring has the counts
of the suspension (log 79). -/
def Cluster.resume (c : Cluster) (cl : Nat) (r : Susp) (fin : Bool) (t : Nat) : Cluster :=
  let ks := refillCmds r.cl cl c.a.nextId r.a.cmds
  let x := { r.x with run := if fin then .ended else .run, freeze := none,
                      lq := NMap.mapVals [] (fun _ q => renumber r.a.cmds ks q) r.x.lq }
  let x := match r.arr.arrayE.find? Rec.failed with
    | some f => x.raise f.mismatchTrap
    | none => x
  let c := { c with
    a := { c.a with pc := r.a.pc, g := r.a.g, run := .run, mode := .t, sems := r.a.sems, wins := r.a.wins, seq := Nat.max c.a.seq r.a.seq,
                    cmds := c.a.newWindows.cmds ++ ks, nextId := c.a.nextId + ks.length, wait := none, send := r.a.send, l1 := [], icache := [],
                    growCount := r.a.growCount, growReq := none },
    x := x, arr := { r.arr with acc := if bit t 94 then r.arr.acc else c.arr.acc, arrayE := r.arr.arrayE.filter fun q => !q.failed },
    sp := c.sp.overlay (tabSp t) r.sp, vigil := { g := r.a.g, x := x.x, lc := x.lc, ec := x.ec, rb := x.rb, behind := false },
    ctl := { c.ctl with occ := .running, runBit := true, ranCid := c.ctl.cid, preempt := false, mbox := r.mbox, mbHead := r.mbHead, mbTail := r.mbTail,
                        mbPos := r.mbPos } }
  c.setTowerImage (c.towerImage.overlay (imageRanges t) r.tw)

/-- The poisoned units of what is restored, in place of those of what it replaces. -/
def State.resumeBad (s : State) (cl t : Nat) (bad : List MemUnit) : State :=
  let p := s.phys cl
  let c := s.cl cl
  let inside (rs : List (Nat × Nat)) (u a : Nat) : Bool := rs.any fun r => decide (r.1 ≤ a * u) && decide ((a + 1) * u ≤ r.1 + r.2)
  let twIn (a : Nat) : Bool := (List.range 64).any fun k => (List.range 4096).any fun u =>
    c.twAddr k (64 * u) == 64 * a && inside (tabTw t) 64 u
  let s : State := { s with
    spPoison := s.spPoison.filter fun q => !(q.1 == p && inside (tabSp t) 32 q.2),
    twPoison := s.twPoison.filter fun q => !(q.1 == p && twIn q.2),
    accPoison := s.accPoison.filter fun q => !(q.1 == p && bit t 94), pePoison := s.pePoison.filter fun q => q.1 != p }
  let s := s.overtake (unitOfSp cl)
  bad.foldl (fun s u =>
    match u with
    | .sp _ g => { s with spPoison := s.spPoison ++ [(p, g)] }
    | .tw _ k u => { s with twPoison := s.twPoison ++ [(p, c.twAddr k (64 * u) / 64)] }
    | .acc _ e => { s with accPoison := s.accPoison ++ [(p, e)] }
    | .pe _ k => { s with pePoison := s.pePoison ++ [(p, k)] }
    | .hbm _ | .file _ _ | .l1 _ _ => s) s

/-- The rows on their way to the latches of a cluster where a task resumes with queues `x` (R341): those that reached it while the task was suspended
are lost, and so are those still to leave for a latch that comes back FULL (DESIGN CHOICE; log 107). -/
def State.keepFlights (s : State) (cl : Nat) (x : XCore) : State :=
  { s with flights := s.flights.filter fun g => g.cl != cl || (!g.sent && (x.latch g.north).isNone) }

/-- TASK_RESUME (R426-R428): the record is restored, an acquire at system scope and ICSYNC are done, and the cores go on. -/
def execTaskResume (cl : Nat) (s : State) : Out :=
  let c := s.cl cl
  if c.ctl.occ != .restoring then .next s
  else match (s.node? c.ctl.node).bind fun n => n.susp.find? fun r => r.task == c.ctl.task with
    | none => .next s
    | some r =>
      match r.x.run with
      | .halted _ fin t =>
        let s := s.onNode c.ctl.node fun n => { n with susp := n.susp.erase r }
        let s := (s.keepFlights cl r.x).dropFetches fun o => o.fetchOf cl false || o.fetchOf cl true
        let s := (s.setCl cl (c.resume cl r fin t)).resumeBad cl t r.bad
        let s := s.restoreBufs c.ctl.cid (quadOf cl)
        .next (if quadOf cl = quadOf r.cl then (s.restoreHeld r.bufs).swapBufs (quadOf cl) (quadPos r.cl) (quadPos cl) else s)
      | _ => .next s

end Sys2Proof.Machine
end

