-- ==== Sys2Proof/Machine/Reports.lean ====
section
/-! DEFINITION. What the device reports: fault batches and the fault ring (R53-R55, R462), error records, the error ring, Samovar's log
and the event ring (R440-R448, R455, R462). -/

namespace Sys2Proof.Machine

/-! ### Fault batches and the fault ring -/

/-- FAULT_BATCH_TIMER_EXPIRY (R53): FBTIME has passed since the first record of the open batch. -/
def execFaultBatchTimerExpiry (cid : Nat) (s : State) : Out :=
  if s.descBad cid then .next s
  else if (s.ctx cid).openedAt + bits (s.desc cid) 335 320 * 100 ≤ s.gtc then .next (s.closeBatch cid) else .next s

/-- The header and the ranges of a batch (R55). -/
def Batch.header (b : Batch) (cid : Nat) : List Byte :=
  toBytes 32 (cid % 4096 + flag b.coarse 12 + b.bseq % 2 ^ 32 * 2 ^ 32 + b.ranges.length % 2 ^ 16 * 2 ^ 64 + b.nrec % 2 ^ 16 * 2 ^ 80
    + b.gtc % 2 ^ 64 * 2 ^ 96)
def FRange.bytes (f : FRange) (cid : Nat) : List Byte :=
  toBytes 32 (f.page * 65536 % 2 ^ 52 + cid % 4096 * 2 ^ 52 + f.pages % 2 ^ 32 * 2 ^ 64 + f.kind % 16 * 2 ^ 96 + f.acc % 4 * 2 ^ 100
    + f.agent % 256 * 2 ^ 104 + f.tasks % 2 ^ 16 * 2 ^ 112 + f.first % 2 ^ 64 * 2 ^ 128)

/-- The number of entries of the fault ring and of the event ring (R462). -/
def HostPage.fsize (h : HostPage) : Nat :=
  let v := bits h.fcfg.toNat 3 0
  2 ^ (if 8 ≤ v && v ≤ 12 then v else 8)
def HostPage.esize (h : HostPage) : Nat := 2 ^ ringLog (bits h.ecfg.toNat 3 0)

/-- Free entries of a ring of `n` whose counts run modulo 2^16. -/
def ringFree (n head tail : Nat) : Nat := n - (tail + 65536 - head) % 65536

/-- Entries of `size` bytes written one after another from count `tail` on, wrapping at the end of the ring. -/
def ringPut (size base n : Nat) : Memory → Nat → List (List Byte) → Memory
  | m, _, [] => m
  | m, tail, e :: es => ringPut size base n (m.write (base + size * (tail % n)) e) (tail + 1) es

/-- FAULT_RING_WRITE (R54, R462): the oldest closed batch of a context goes whole into the ring, if it fits, and vector 64 fires. -/
def execFaultRingWrite (cid : Nat) (s : State) : Out :=
  let h := s.host
  match (s.ctx cid).held with
  | [] => .next s
  | b :: bs =>
    let es := b.header cid :: b.ranges.map (FRange.bytes · cid)
    if !h.fcfg.getLsbD 4 || ringFree h.fsize h.fhead h.ftail < es.length then .next s
    else
      let s : State := { s with hostMem := ringPut 32 (bits h.fcfg.toNat 41 12 * 4096) h.fsize s.hostMem h.ftail es }
      let s : State := { s with host := { s.host with ftail := (h.ftail + es.length) % 65536 } }
      .next ((s.onCtx cid fun c => { c with held := bs }).msix 64)

/-! ### Error records -/

/-- The 64 bytes of a record (R446). -/
def recBytes (r : ErrRec) : List Byte :=
  toBytes 64 (r.gtc % 2 ^ 64 + r.src % 2 ^ 16 * 2 ^ 64 + r.rung % 8 * 2 ^ 80 + r.event % 256 * 2 ^ 88 + r.cid % 4096 * 2 ^ 96
    + r.code % 256 * 2 ^ 112 + r.detail % 256 * 2 ^ 120 + r.addr % 2 ^ 64 * 2 ^ 128 + r.info % 2 ^ 64 * 2 ^ 192
    + r.count % 2 ^ 16 * 2 ^ 256 + r.tval % 2 ^ 64 * 2 ^ 320)

/-- The sources of R447. -/
def srcListed (n : Nat) : Bool :=
  (0x1000 ≤ n && n < 0x1000 + 16 * 192 && n % 16 ≤ 8) || (0x2000 ≤ n && n < 0x2208) || (0x3000 ≤ n && n ≤ 0x3010)
    || (0x4000 ≤ n && n ≤ 0x4004)

/-- The rungs of each event (R448). -/
def eventRungs (e : Nat) : List Nat :=
  match e with
  | 0x01 | 0x05 | 0x09 | 0x16 => [1]
  | 0x02 | 0x0A => [2]
  | 0x03 | 0x0D | 0x0E => [3]
  | 0x04 => [4, 6, 7]
  | 0x06 | 0x07 => [4]
  | 0x08 => [5]
  | 0x0B | 0x15 => [6]
  | 0x0C => [7]
  | 0x0F | 0x10 | 0x11 | 0x12 | 0x13 | 0x14 => [0]
  | _ => []

/-- A record as a source may deliver it: a listed source and event, the event's rung, and a stamp of the last 2 us (R445, R447, R448). -/
def State.recordOk (s : State) (r : ErrRec) : Bool :=
  srcListed r.src && (eventRungs r.event).contains r.rung && decide (r.gtc ≤ s.gtc) && decide (s.gtc ≤ r.gtc + 2000)
    && decide (1 ≤ r.count) && decide (r.count ≤ 65535)

/-- Records in the order of (GTC, SRC). -/
def recBefore (a b : ErrRec) : Bool := decide (a.gtc < b.gtc) || (a.gtc == b.gtc && decide (a.src ≤ b.src))

/-- The held record that is written next. -/
def firstRec : List ErrRec → Option ErrRec
  | [] => none
  | r :: rs => match firstRec rs with
    | none => some r
    | some q => some (if recBefore r q then r else q)

/-- A record reaches Samovar: its log of rung 5 and above, the event ring for rung 4 and above, and vector 66 for rung 7 (R440, R445,
R455, R462). -/
def State.forward (s : State) (r : ErrRec) : State :=
  let s : State := if 5 ≤ r.rung then
      { s with rel := { s.rel with samLog := (s.rel.samLog ++ [r]).drop (s.rel.samLog.length + 1 - 16) } } else s
  let s : State := if 4 ≤ r.rung then { s with rel := { s.rel with evHold := s.rel.evHold ++ [r] } } else s
  if r.rung = 7 then s.msix 66 else s

/-- A record written at HEAD, which is an event at every A-core (R378, R386), or dropped at a full or disabled ring (R445). -/
def State.ringRecord (s : State) (r : ErrRec) : State :=
  let d := s.dev
  if !d.erEn || (d.erHead + 1) % d.erSize = d.erTail then
    { s with dev := { d with erDrops := Nat.min 65535 (d.erDrops + 1), erOvf := true } }
  else
    let t := (s.rsvWrite (d.erAddr + 64 * d.erHead) (recBytes r)).wakeAll
    { t with dev := { t.dev with erHead := (d.erHead + 1) % d.erSize } }

/-- ERROR_RING_WRITE (R445): 4 us after its stamp, the first held record in the order of (GTC, SRC) leaves the engine. -/
def execErrorRingWrite (s : State) : Out :=
  match firstRec s.rel.held with
  | none => .next s
  | some r =>
    if s.gtc < r.gtc + 4000 then .next s
    else
      let t : State := { s with rel := { s.rel with held := s.rel.held.erase r } }
      .next ((t.ringRecord r).forward r)

/-! ### The event ring -/

/-- A record joins those that Samovar holds for want of room (R462). -/
def State.holdEvent (s : State) (r : ErrRec) : State :=
  let w := s.rel.evWait
  let drop (s : State) : State := { s with host := { s.host with edrop := Nat.min 65535 (s.host.edrop + 1) } }
  let set (s : State) (w : List ErrRec) : State := { s with rel := { s.rel with evWait := w } }
  if w.length < 1024 then set s (w ++ [r])
  else match w.find? fun q => q.rung == 4 with
    | some q => drop (set s (w.erase q ++ [r]))
    | none => drop s

/-- A record written into the event ring; vector 65 fires. -/
def State.putEvent (s : State) (r : ErrRec) : State :=
  let h := s.host
  let s : State := { s with hostMem := ringPut 64 (bits h.ecfg.toNat 41 12 * 4096) h.esize s.hostMem h.etail [recBytes r] }
  ({ s with host := { s.host with etail := (h.etail + 1) % 65536 } } : State).msix 65

/-- EVENT_RING_WRITE (R440, R455, R462): held records first, then the next one on its way; while the ring has no room it is held. -/
def execEventRingWrite (s : State) : Out :=
  let h := s.host
  let room : Bool := h.ecfg.getLsbD 4 && decide (1 ≤ ringFree h.esize h.ehead h.etail)
  match s.rel.evWait, s.rel.evHold with
  | r :: rs, hold =>
    if room then .next (({ s with rel := { s.rel with evWait := rs } } : State).putEvent r)
    else (match hold with
      | [] => .next s
      | q :: qs => .next (({ s with rel := { s.rel with evHold := qs } } : State).holdEvent q))
  | [], q :: qs =>
    let t : State := { s with rel := { s.rel with evHold := qs } }
    .next (if room then t.putEvent q else t.holdEvent q)
  | [], [] => .next s

end Sys2Proof.Machine
end

