-- ==== Sys2Proof/Machine/Upkeep.lean ====
section
/-! DEFINITION. Upkeep of the memories: page migration (R61-R64), retention sleep and the Almanac (R90-R94), remapping of tower banks
(R88, R89), scrubbers (R438, R439), failing channels (R115) and retirement of pages (R441). -/

namespace Sys2Proof.Machine

/-! ### Page migration (R61-R64) -/

/-- Samovar changes `n` bytes of a table in local HBM, as any other access there (R61, R117): whether that has been done, or has to wait. An
entry of an offline page cannot be reached, and one that cannot be read stays as it is (R436). -/
def State.samUpdate (s : State) (pa n : Nat) (f : Nat → Nat) : State × Bool :=
  match s.hbmRead pa n with
  | .waits | .retry => (s, false)
  | .offline => (s, true)
  | .poison => (s.rsvSeen pa, true)
  | .ok bs =>
    let v := ofBytes bs
    if f v = v then (s, true)
    else match s.hbmWrite pa (toBytes n (f v)) with
      | .ok t => (t, true)
      | .waits t => (t, false)
      | .retry => (s, false)
      | .offline => (s, true)
      | .noFrame t cid slot => (t.txAbort cid slot 0x3B, true)

/-- Sectors of 256 bytes of a page copied to another (R62). -/
def State.copySectors (s : State) (src dst : Nat) (ks : List Nat) : State :=
  ks.foldl (fun s k => [0, 1, 2, 3].foldl (fun s u =>
    s.copyUnit (src * 65536 + 256 * k + 64 * u) (dst * 65536 + 256 * k + 64 * u)) s) s

/-- The migration of a page under way. -/
def State.mig? (s : State) (page : Nat) : Option Mig := s.migs.find? fun m => m.src == page
def State.setMig (s : State) (m : Mig) : State := { s with migs := s.migs.map fun k => if k.src == m.src then m else k }

/-- An 8-byte atomic of Samovar on another chip's leaf, once a tag is free (R467). -/
def State.mapAtomic (s : State) (m : Mig) (e : Mapper) (op : AmoOp) (x : Nat) : State × Bool :=
  if s.tagsFree .samovar 1 then (s.request e.chip (.mig m.src) fun tag => .atomic tag e.addr 8 op x 0, true) else (s, false)

/-- MG set in the leaves of the mapper list (R62, step 1). -/
def State.markMapper (m : Mig) (s : State) (e : Mapper) : State × Bool :=
  if e.kind != 0 then (s, true)
  else if e.chip != s.dev.chip then s.mapAtomic m e .or (2 ^ 10)
  else s.samUpdate e.addr 8 fun v => setBits v 10 10 1

/-- An entry of the mapper list that points at the source made to point at the destination, with MG = 0 in leaves (R62, step 5; R24).
On another chip one exclusive-or changes the address and MG together. -/
def State.rewriteMapper (m : Mig) (s : State) (e : Mapper) : State × Bool :=
  if e.chip != s.dev.chip then
    (if e.kind = 0 then s.mapAtomic m e .xor (((m.src ^^^ m.dst) % 2 ^ 28) * 65536 + 2 ^ 10) else (s, true))
  else
    let n := if e.kind = 2 then 64 else 8
    let (hi, lo) := if e.kind = 2 then (107, 80) else (43, 16)
    s.samUpdate e.addr n fun v =>
      if bits v hi lo != m.src then v
      else if e.kind = 0 then setBits (setBits v hi lo m.dst) 10 10 0 else setBits v hi lo m.dst

/-- The entries of the mapper list that are still to be reached are tried, each for itself (R62, steps 1 and 5). -/
def State.tryMappers (s : State) (m : Mig) (f : Mig → State → Mapper → State × Bool) : State :=
  let r := m.pend.foldl (fun (p : State × List Mapper) e =>
    let q := f m p.1 e
    (q.1, if q.2 then p.2 else p.2 ++ [e])) (s, [])
  r.1.setMig { m with pend := r.2 }

/-- The mapper list has been gone through, on every chip. -/
def State.mappersDone (s : State) (page : Nat) : Bool :=
  (s.mig? page).any (fun m => m.pend.isEmpty) && !s.reqs.any fun r => r.owner == .mig page

/-- The page tag goes with the page (R62), and with it what names the page: its frames, and its place in a decant. -/
def State.moveTag (s : State) (src dst : Nat) : State :=
  let t := s.tag src
  let cid := tagOwner t
  let s := (s.setTag dst t).setTag src 0
  if cid = 0 then s
  else s.onCtx cid fun c =>
    { c with
      frames := c.frames.map fun (k, f) => (k, f.map fun f => if f.origin == src then { f with origin := dst } else f),
      snaps := c.snaps.map fun (k, n) => (k, { n with decanted := n.decanted.map fun p => if p == src then dst else p }) }

/-- The shoot-down of a flip begins once every mapper has been rewritten (R62, step 6). It covers every virtual range. -/
def State.flipShoot (s : State) (page : Nat) : State :=
  if s.pageSt page != .flipping || !s.mappersDone page || s.shoots.any (fun x => x.owner == .flip page) then s
  else s.beginShoot .all (.flip page)

/-- The flip (R62, steps 4 to 6): the remaining dirty sectors are copied, the mappers rewritten, and the shoot-down begins. -/
def State.flip (s : State) (m : Mig) (dirty : List Nat) : State :=
  let s := ((s.copySectors m.src m.dst dirty).moveTag m.src m.dst).setPageSt m.src .flipping
  (s.tryMappers { m with pend := m.mappers } State.rewriteMapper).flipShoot m.src

/-- MIGRATION_COPY_ROUND (R62): once MG is set in every leaf, the sectors of the round are copied; a round that leaves 8 dirty sectors or
fewer, and the fourth, are followed by the flip. -/
def execMigrationCopyRound (page : Nat) (s : State) : Out :=
  match s.mig? page, s.pageSt page with
  | some m, .copying dirty =>
    let t := s.copySectors m.src m.dst m.todo
    if !s.mappersDone page then .next (s.tryMappers m State.markMapper)
    else if 1 ≤ m.round && (dirty.length ≤ 8 || 4 ≤ m.round) then .next (t.flip m dirty)
    else .next ((t.setMig { m with round := m.round + 1, todo := dirty }).setPageSt page (.copying []))
  | _, _ => .next s

/-- A retirement of the page was requested (R441): then its migration takes it offline (R61). -/
def State.pageAsked (s : State) (page : Nat) : Bool := s.rel.history.any fun r => r.event == 0x0A && r.addr == page * 65536

/-- An entry of a mapper list that lies in a page which has moved is found at its new place. -/
def Mapper.moved (chip src dst : Nat) (e : Mapper) : Mapper :=
  if e.chip == chip && pageOf e.addr == src then { e with addr := dst * 65536 + e.addr % 65536 } else e
def Mig.moved (chip src dst : Nat) (m : Mig) : Mig :=
  { m with mappers := m.mappers.map (Mapper.moved chip src dst), pend := m.pend.map (Mapper.moved chip src dst) }

/-- MIGRATION_FLIP_END (R61, R62, R64, R482): the shoot-down of the flip has completed; a new image records a retired page. -/
def execMigrationFlipEnd (page : Nat) (s : State) : Out :=
  match s.mig? page, s.shoots.find? fun x => x.owner == .flip page with
  | some m, some x =>
    if !s.shootDone x then .next s
    else
      let t := ((s.endShoot x.id).setPageSt m.src (if m.retire then .offline else .inService)).setPageSt m.dst .inService
      let t : State := { t with migs := (t.migs.filter fun k => k.src != page).map (Mig.moved t.dev.chip m.src m.dst) }
      .next (if m.retire then { t with flash := { t.flash with retired := t.flash.retired ++ [page] } } else t)
  | some m, none => .next (if s.pageSt page == .flipping then (s.tryMappers m State.rewriteMapper).flipShoot page else s)
  | none, _ => .next s

/-! ### Retention sleep and the Almanac (R90-R94) -/

/-- RETENTION_SLEEP_ENTRY (R90): a bank in use that has seen neither an access nor a refresh for 2,048 clk. -/
def execRetentionSleepEntry (cl cell bank : Nat) (s : State) : Out :=
  let c := (s.cl cl).ctl
  let k := 16 * cell + bank
  if 64 ≤ cell || 16 ≤ bank || c.bankRefreshing k || s.clk < NMap.get 0 c.lastAcc k + 2048 then .next s
  else .next (s.onCtl cl fun c => { c with asleep := NMap.set false c.asleep k true })

/-- An X tower access waits for its banks, or has them and is about to be made, also on a core that has ended or drains. -/
def XCore.tower (x : XCore) : Bool :=
  x.freeze == some .tower || (x.freeze.isNone && (x.issued || x.run == .ended || x.run == .draining) && x.run != .idle)

/-- When the refresh of a bank starts: at its due time, or earlier where the bank would go more than the effective IVL and MAXDEF without one, as
they stand now (R92; log 108). -/
def State.refreshAt (s : State) (cl bank : Nat) : Nat :=
  let c := (s.cl cl).ctl
  Nat.min (c.dueOf bank) (NMap.get 0 c.refreshedAt bank + (s.dev.ivl + s.dev.maxDef) * tenthNs)

/-- ALMANAC_REFRESH_DUE (R91-R94): the time of a bank's refresh has come, and it starts in every cell, once a sleeping bank that an
access waits for has been woken and has served it (log 88). -/
def execAlmanacRefreshDue (cl bank : Nat) (s : State) : Out :=
  let c := (s.cl cl).ctl
  let x := (s.cl cl).x
  let waking := x.tower && (x.banksAt (x.vcyc + 1)).any fun k => k % 16 == bank && (c.bankAsleep k || x.freeze.isNone)
  if 16 ≤ bank || NMap.get false c.refreshing bank || s.gtc < s.refreshAt cl bank || waking then .next s
  else .next (s.onCtl cl fun c => { c with refreshing := NMap.set false c.refreshing bank true })

/-- ALMANAC_REFRESH_END (R90, R91): the bank is served again, and falls due after the effective IVL. A bank that sleeps stays asleep. -/
def execAlmanacRefreshEnd (cl bank : Nat) (s : State) : Out :=
  if 16 ≤ bank || !NMap.get false (s.cl cl).ctl.refreshing bank then .next s
  else
    let d := s.gtc + s.dev.ivl * tenthNs
    .next (s.onCtl cl fun c =>
      { c with refreshing := NMap.set false c.refreshing bank false, due := NMap.set 0 c.due bank d, due0 := NMap.set 0 c.due0 bank d,
               refreshedAt := NMap.set 0 c.refreshedAt bank s.gtc,
               lastAcc := (List.range 64).foldl (fun m k => NMap.set 0 m (16 * k + bank) s.clk) c.lastAcc })

/-- JUNCTION_TEMPERATURE_CHANGE (R92). -/
def execJunctionTemperatureChange (hot : Bool) (s : State) : Out := .next { s with dev := { s.dev with hot := hot } }

/-! ### Records of check units (R446-R448) -/

/-- The source and the address of a record about a check unit (R447, R448). -/
def State.unitSrc (s : State) : MemUnit → Nat
  | .hbm u => s.srcChannel (64 * u)
  | .sp c _ => srcCl c 5
  | .tw c _ _ => srcCl c 6
  | .acc c _ | .pe c _ => srcCl c 3
  | .file c _ => srcCl c 7
  | .l1 c _ => srcCl c 0
def unitAddr : MemUnit → Nat
  | .hbm u => 64 * u
  | .sp c g => spLoc c (32 * g)
  | .tw _ _ u => 64 * u
  | .acc _ e => e
  | .pe _ k => k
  | .file _ w => w
  | .l1 _ a => 64 * a

/-- The record of an error found in a unit: the syndrome, and how many bits were corrected, are free values (log 8). -/
def State.reportUnit (s : State) (u : MemUnit) (rung event : Nat) : State :=
  let (v, s) := s.draw
  let n := if event = 1 then bits v.toNat 15 8 else 0
  s.report (s.unitSrc u) rung event 0 0 0 (unitAddr u) (memKind u + n * 2 ^ 8 + bits v.toNat 31 16 * 2 ^ 16) 0

/-! ### Tower banks (R88, R89) -/

/-- A spare of a tower is healthy: it has not failed, and no logical bank uses it. -/
def spareFree (w sel : Nat) : Bool := !bit w (31 + sel) && (List.range 16).all fun b => bits w (2 * b + 1) (2 * b) != sel

/-- The mark of the physical bank that logical bank `b` uses as failed. -/
def markFailed (w b : Nat) : Nat :=
  let sel := bits w (2 * b + 1) (2 * b)
  let i := if sel = 0 then 34 + b else 31 + sel
  setBits w i i 1

/-- The units of a tower bank that are poisoned, counted from its first, and those that its remap newly finds unreadable. -/
def State.bankBad (s : State) (cl cell bank : Nat) : List Nat :=
  let src := (s.cl cl).twAddr cell (bank * 16384)
  ((s.twBad cl).filter fun u => src ≤ 64 * u && 64 * u < src + 16384).map fun u => u - src / 64
def State.newlyBad (s : State) (cl cell bank : Nat) (bad : List Nat) : List Nat :=
  bad.filter fun u => decide (u < 256) && !(s.bankBad cl cell bank).contains u

/-- The bank's 16 KiB copied to spare `sel`, its poison and the units that could not be read poisoned there (R89). -/
def State.copyBank (s : State) (cl cell bank sel : Nat) (bad : List Nat) : State :=
  let c := s.cl cl
  let src := c.twAddr cell (bank * 16384)
  let dst := bankAddr cell (15 + sel)
  let moved := (c.tw.slice src (src + 16384)).map fun (a, b) => (a - src + dst, b)
  let tw := moved.foldl (fun m (a, b) => NMap.set 0 m a b) (c.tw.clear dst (dst + 16384))
  let p := s.phys cl
  let inDst (u : Nat) : Bool := decide (dst ≤ 64 * u) && decide (64 * u < dst + 16384)
  let keep := s.twPoison.filter fun q => !(q.1 == p && inDst q.2)
  { s.onCl cl (fun c => { c with tw := tw }) with
    twPoison := keep ++ (s.bankBad cl cell bank ++ s.newlyBad cl cell bank bad).map fun u => (p, dst / 64 + u) }

/-- The hold of a cluster ends, unless its column is being retired or another tower remap of it has been asked for (R407, R451). -/
def State.endHold (s : State) (cl : Nat) : State :=
  if (s.rel.retiring.any fun t => t.col == clCol cl) || s.rel.remaps.any fun p => p.1 == cl then s else s.onCtl cl fun c => { c with held := false }

/-- The tower remaps that wait for their cluster to halt; a retirement of its column lets them complete first (R451). -/
def State.remapWaits (s : State) (cl cell bank : Nat) : State :=
  let l := s.rel.remaps
  { s with rel := { s.rel with remaps := if l.contains (cl, cell, bank) then l else l ++ [(cl, cell, bank)] } }
def State.remapDone (s : State) (cl cell bank : Nat) : State :=
  { s with rel := { s.rel with remaps := s.rel.remaps.filter (· != (cl, cell, bank)) } }

/-- TOWER_REMAP (R88, R89, R407): the cluster is cleared of its task first; then the failing bank is copied to a healthy spare and SEL
rewritten, with one record for each unit newly poisoned (R435). Without a healthy spare EXH is set. -/
def execTowerRemap (cl cell bank sel : Nat) (bad : List Nat) (s : State) : Out :=
  let w := (NMap.get 0 (s.cl cl).ctl.remap cell).toNat
  let setW (s : State) (v : Nat) : State := s.onCtl cl fun c => { c with remap := NMap.set 0 c.remap cell (BitVec.ofNat 64 v) }
  if !s.inService cl || 64 ≤ cell || 16 ≤ bank then .next s
  else if !(s.cl cl).drained then .next (((s.onCtl cl fun c => { c with held := true }).askPreempt cl 1).remapWaits cl cell bank)
  else if !spareFree w 1 && !spareFree w 2 then .next (((setW s (setBits (markFailed w bank) 50 50 1)).remapDone cl cell bank).endHold cl)
  else if (sel != 1 && sel != 2) || !spareFree w sel || NMap.get false (s.cl cl).ctl.refreshing bank then .next s
  else
    let v := setBits (markFailed w bank) (2 * bank + 1) (2 * bank) sel
    let t := (s.newlyBad cl cell bank bad).eraseDups.foldl (fun s u => s.reportUnit (.tw cl cell (256 * bank + u)) 2 2) s
    let t := (setW (t.copyBank cl cell bank sel bad) v).remapDone cl cell bank
    .next ((t.report srcSamovar 1 0x09 0 0 0 (cl + cell * 2 ^ 8 + bank * 2 ^ 14 + sel * 2 ^ 18) 0 0).endHold cl)

/-! ### Scrubbers and errors found (R434-R439) -/

/-- The occurrences counted by the records of a window in ns (R441). -/
def State.countRecs (s : State) (window : Nat) (p : ErrRec → Bool) : Nat :=
  (s.rel.history.filter fun r => p r && decide (s.gtc ≤ r.gtc + window)).foldl (fun n r => n + r.count) 0

/-- A threshold of R441, in the order of its rows. -/
def Dev.threshold (d : Dev) (i : Nat) : Nat := d.thresholds.getD i 1

/-- A record of an error in a page of HBM. -/
def recOfPage (event page : Nat) (r : ErrRec) : Bool :=
  decide (0x2000 ≤ r.src) && decide (r.src < 0x2200) && r.event == event && r.addr / 65536 == page

/-- The retirement of a page is requested when its errors reach a threshold (R61, R441). -/
def State.checkPage (s : State) (page : Nat) : State :=
  if s.pageAsked page || s.pageSt page == .offline then s
  else if s.dev.threshold 5 ≤ s.countRecs (86400 * 10 ^ 9) (recOfPage 1 page) || s.dev.threshold 6 ≤ s.countRecs s.gtc (recOfPage 2 page) then
    s.report srcSamovar 2 0x0A 0 0 0 (page * 65536) 1 0
  else s

/-- The units that exist. -/
def State.unitOk (s : State) : MemUnit → Bool
  | .hbm u => 64 * u < s.dev.top && !s.channelFailed (64 * u)
  | .sp c g => s.inService c && g < 98304
  | .tw c k u => s.inService c && k < 64 && u < 4096
  | .acc c e => s.inService c && e < 131072
  | .pe c k => s.inService c && k < 131072
  | .file c _ => s.inService c
  | .l1 c a => s.inService c && (s.cl c).a.l1.any fun l => l.addr == 64 * a

/-- A unit is marked poisoned (R435). An error in the file die is found by the read that consumes it (R436, R438). -/
def State.poisonUnit (s : State) (u : MemUnit) : State :=
  let add (k : Nat × Nat) (l : List (Nat × Nat)) : List (Nat × Nat) := if l.contains k then l else l ++ [k]
  match u with
  | .hbm n => { s with hbmPoison := addPoison n s.hbmPoison }
  | .sp c g => { s with spPoison := add (s.phys c, g) s.spPoison }
  | .tw c k n => { s with twPoison := add (s.phys c, (s.cl c).twAddr k (64 * n) / 64) s.twPoison }
  | .acc c e => { s with accPoison := add (s.phys c, e) s.accPoison }
  | .pe c k => { s with pePoison := add (s.phys c, k) s.pePoison }
  | .file c w => s.corePoison c (.file c w) w
  | .l1 _ _ => s

/-- An L1 line with an error is dropped, to be fetched anew (R434); the record of it is a corrected error's (log 94). -/
def State.dropLine (s : State) (c a : Nat) : State := s.onA c fun d => { d with l1 := d.l1.filter fun l => l.addr != 64 * a }

/-- The memories whose scrubber writes back conditionally (R438). -/
def scrubbed : MemUnit → Bool
  | .hbm _ | .sp _ _ => true
  | _ => false

/-- The bytes of a unit that is scrubbed. -/
def State.unitData (s : State) : MemUnit → List Byte
  | .hbm u => s.hbm.read (64 * u) 64
  | .sp c g => (s.cl c).sp.read (32 * g) 32
  | _ => []

/-- A unit's bytes written back by its scrubber: no covered write, and no sector becomes dirty (R438). -/
def State.scrubWrite (s : State) (u : MemUnit) (bs : List Byte) : State :=
  match u with
  | .hbm u => { s with hbm := s.hbm.write (64 * u) bs }
  | .sp c g => s.onCl c fun d => { d with sp := d.sp.write (32 * g) bs }
  | _ => s

/-- SCRUB_READ (R434, R435, R438, R441): a unit is read and found clean, corrected or uncorrectable, by a scrubber, by a refresh, or for
the memories without a scrubber by a read. A PE register corrects nothing. -/
def execScrubRead (unit : MemUnit) (found : Scrubbed) (s : State) : Out :=
  if !s.unitOk unit then .next s
  else
    let note (s : State) : State :=
      if scrubbed unit then
        { s with rel := { s.rel with scrubs := (s.rel.scrubs.filter fun p => p.unit != unit) ++ [{ unit := unit, data := s.unitData unit, overtaken := false }] } }
      else s
    let page (s : State) : State := match unit with
      | .hbm u => s.checkPage (u / 1024)
      | _ => s
    match unit, found with
    | _, .clean => .next (note s)
    | .l1 c a, _ => .next ((s.dropLine c a).reportUnit unit 1 1)
    | .pe _ _, .corrected => .next s
    | _, .corrected => .next (page ((note s).reportUnit unit 1 1))
    | _, .uncorrectable => .next (page (((s.reportUnit unit 2 2).overtake (· == unit)).poisonUnit unit))

/-- SCRUB_WRITEBACK (R115, R438, R439): the corrected unit is written back, or the write dropped if another has performed since the read; one to
a channel that has failed since is dropped and logged. -/
def execScrubWriteback (unit : MemUnit) (s : State) : Out :=
  let t : State := { s with rel := { s.rel with scrubs := s.rel.scrubs.filter fun p => p.unit != unit } }
  match s.rel.scrubs.find? fun p => p.unit == unit with
  | some p =>
    .next (if p.overtaken then t
      else match unit with
        | .hbm u => if s.channelFailed (64 * u) then t.report (s.srcChannel (64 * u)) 2 2 0 0 0 (64 * u) 1 0 else t.scrubWrite unit p.data
        | _ => if s.unitOk unit then t.scrubWrite unit p.data else t)
  | none => .next s

/-- CHANNEL_FAIL (R115, R440): a pseudo-channel in service fails, and Samovar asks for a device reset. -/
def execChannelFail (ch : Nat) (s : State) : Out :=
  if 512 ≤ ch || s.dev.failed.contains ch || s.chanFailed.contains ch then .next s
  else .next (({ s with chanFailed := s.chanFailed ++ [ch] } : State).report srcSamovar 7 0x0C 0 0 0 0 1 0)

end Sys2Proof.Machine
end

