-- ==== Sys2Proof/Machine/Repair.lean ====
section
/-! DEFINITION. Thresholds and cluster retirement (R441, R449, R450), delivered error records (R440, R445), the power arbiter
(R473-R475) and the retraining of vertical buses (R476, R477). -/

namespace Sys2Proof.Machine

/-! ### Thresholds of a cluster (R441) -/

/-- A record of logical cluster `n`, from one of its agents. -/
def recOfCluster (n : Nat) (r : ErrRec) : Bool := r.src / 16 == 0x100 + n

/-- The window of 600 s. -/
def window600 : Nat := 600 * 10 ^ 9

/-- Uncorrectable errors found in one bank of a cluster's scratchpad, and in its file die, reach a threshold. -/
def State.badMemory (s : State) (n k : Nat) : Bool :=
  let found := s.rel.history.filter fun r => recOfCluster n r && r.event == 2
  let sp := found.filter fun r => r.src % 16 == 5
  let bank (r : ErrRec) : Nat := r.addr % 2 ^ 22 / 32 % 384
  decide (k ≤ (found.filter fun r => r.src % 16 == 7).length)
    || sp.any fun r => decide (k ≤ (sp.filter fun q => bank q == bank r).length)

/-- A cluster reaches a threshold of R441, or the host asks for its retirement (R449, R460). -/
def State.retireDue (s : State) (n : Nat) : Bool :=
  let th := s.dev.threshold
  let mine (p : ErrRec → Bool) : Nat := s.countRecs window600 fun r => recOfCluster n r && p r
  decide (th 0 ≤ mine fun r => r.rung == 4 && (r.event == 6 || r.event == 7)) || decide (th 1 ≤ mine fun r => r.event == 5)
    || s.badMemory n (th 2)
    || decide (th 3 ≤ ((s.cl n).ctl.remap.filter fun w => w.2.getLsbD 50).length)
    || s.rel.asked.contains n

/-! ### Cluster retirement (R449, R450) -/

/-- The physical row of a logical cluster. -/
def State.physRow (s : State) (n : Nat) : Nat := s.phys n / 16

/-- The logical clusters of column `j` whose physical row lies from min(p, s) to max(p, s), without s (R449, step 1). -/
def State.heldRange (s : State) (j p : Nat) : List Nat :=
  let k := s.skip j
  ((List.range 12).map fun l => 16 * l + j).filter fun n =>
    decide (Nat.min p k ≤ s.physRow n) && decide (s.physRow n ≤ Nat.max p k) && s.physRow n != k

/-- The retirement under way in a column. -/
def State.retire? (s : State) (j : Nat) : Option Retire := s.rel.retiring.find? fun t => t.col == j
def State.setRetiring (s : State) (j : Nat) (t : Option Retire) : State :=
  { s with rel := { s.rel with retiring := (s.rel.retiring.filter fun t => t.col != j) ++ t.toList } }

/-- The clusters of a list held, and those that run a task asked to halt (R407, R449). -/
def State.holdAll (s : State) (ns : List Nat) : State :=
  ns.foldl (fun s n =>
    let s := s.onCtl n fun c => { c with held := true }
    if (s.cl n).ctl.occ = .free then s else s.askPreempt n 1) s

/-- Retirement begins (R449, step 1). -/
def State.beginRetire (s : State) (n : Nat) : State :=
  let j := clCol n
  let p := s.physRow n
  (s.holdAll (s.heldRange j p)).setRetiring j (some { col := j, row := p, next := s.skip j, since := s.clk, cl := n })

/-- The service bits of a column. -/
def State.rowBits (s : State) (j : Nat) : Nat := (List.range 12).foldl (fun v l => v + flag (bit s.dev.clsvc (16 * l + j)) l) 0

/-- A cluster's history ends: its thresholds count anew, and a request for its retirement is met. -/
def State.forgetCluster (s : State) (n : Nat) : State :=
  let r := s.rel
  { s with rel := { r with
      history := r.history.filter fun r => !recOfCluster n r, asked := r.asked.filter (· != n), remaps := r.remaps.filter fun p => p.1 != n } }

/-- A physical cluster lost with its contents. -/
def State.losePhys (s : State) (p : Nat) : State :=
  { s with
    clusters := NMap.set Cluster.reset s.clusters p Cluster.reset,
    spPoison := s.spPoison.filter fun q => q.1 != p, twPoison := s.twPoison.filter fun q => q.1 != p,
    accPoison := s.accPoison.filter fun q => q.1 != p, pePoison := s.pePoison.filter fun q => q.1 != p }

/-- The tower remap words of an image under a new cluster table: each stays with its physical cluster (R88, R482). -/
def imageRekey (i : Image) (skip : List Nat) : List (Nat × Nat) :=
  i.remap.filterMap fun e =>
    ((List.range 192).find? fun n => imagePhys skip n == imagePhys i.skip (e.1 / 64)).map fun n => (64 * n + e.1 % 64, e.2)

/-- The cluster table rewritten by Samovar's REMAP of KIND 1 (R388), and a row of a column noted as failed. -/
def State.remapColumn (s : State) (j skip rows row : Nat) : State :=
  let t : State := { s with dev := s.dev.setColumn j skip rows, rel := { s.rel with failedRows := s.rel.failedRows ++ [(j, row)] } }
  let t : State := { t with flash := { t.flash with
    skip := t.flash.skip.set j skip, svc := t.dev.clsvc, remap := imageRekey t.flash (t.flash.skip.set j skip) } }
  t.report srcSamovar 1 0x09 0 0 0 (j + skip * 2 ^ 4 + rows * 2 ^ 8) 0 0

/-- The record of a retired cluster (R448). -/
def State.reportRetired (s : State) (rung j row : Nat) : State := s.report srcSamovar rung 0x08 0 0 0 0 (j * 2 ^ 32 + row * 2 ^ 36) 0

/-- The holds of a column's clusters end. -/
def State.releaseAll (s : State) (ns : List Nat) : State := ns.foldl (fun s n => s.onCtl n fun c => { c with held := false }) s

/-- Retirement ends, all moves made (R449, steps 4 and 5; R482). -/
def State.endRetire (s : State) (t : Retire) : State :=
  let held := s.heldRange t.col t.row
  let s := (s.setRetiring t.col none).remapColumn t.col t.row (s.rowBits t.col) t.row
  (((s.losePhys (16 * t.row + t.col)).releaseAll held).forgetCluster t.cl).reportRetired 5 t.col t.row

/-- The removal of a cluster whose column has no healthy spare (R450). -/
def State.removeCluster (s : State) (n : Nat) : State :=
  let j := clCol n
  let p := s.phys n
  let s := (s.endTask n .requeue).remapColumn j (s.skip j) (setBits (s.rowBits j) (clRow n) (clRow n) 0) (p / 16)
  let s : State := { s with bufs := s.bufs.filter fun (k, b) => !(k / 64 == quadOf n && b.home == quadPos n) }
  ((s.losePhys p).forgetCluster n).reportRetired 5 j (p / 16)

/-- The unused row of a column has failed. -/
def State.noSpare (s : State) (j : Nat) : Bool := s.rel.failedRows.contains (j, s.skip j)

/-- CLUSTER_RETIREMENT (R441, R449, R450): the holds, and after the moves the REMAP. Numbers from 192 on stand for a failure of the unused
row of a column, which moves nothing. -/
def execClusterRetirement (cl : Nat) (s : State) : Out :=
  if 192 ≤ cl then
    let j := cl - 192
    if 16 ≤ j || s.noSpare j || (s.retire? j).isSome then .next s
    else
      let t : State := { s with rel := { s.rel with failedRows := s.rel.failedRows ++ [(j, s.skip j)] } }
      .next (t.reportRetired 1 j (s.skip j))
  else match s.retire? (clCol cl) with
    | some t =>
      if t.next = t.row then .next (s.endRetire t)
      else if (s.cl t.cl).ctl.occ != .free && (s.cl t.cl).ctl.occ != .saving && t.since + 625 ≤ s.clk then .next (s.endTask t.cl .requeue)
      else .next (s.holdAll (s.heldRange t.col t.row))
    | none =>
      if !s.inService cl || !s.retireDue cl then .next s
      else .next (if s.noSpare (clCol cl) then s.removeCluster cl else s.beginRetire cl)

/-- The place of a tower unit of one cluster in the tower memory of another with its own remap tables: bank by logical bank. -/
def Cluster.mapUnit (c d : Cluster) (u : Nat) : Option Nat :=
  let k := 64 * u / 294912
  ((List.range 16).find? fun b => c.twAddr k (b * 16384) ≤ 64 * u && 64 * u < c.twAddr k (b * 16384) + 16384).map fun b =>
    (d.twAddr k (b * 16384) + (64 * u - c.twAddr k (b * 16384))) / 64

/-- A cluster copied to another physical place (R449, step 3): its scratchpad, its towers bank by logical bank, its accumulator memory and
its mailbox, with what else the model keeps of it; the place keeps its own tower remap tables. -/
def State.movePhys (s : State) (p q : Nat) (bad : List MemUnit) : State :=
  let c := NMap.get Cluster.reset s.clusters p
  let old := NMap.get Cluster.reset s.clusters q
  let d : Cluster := { c with ctl := { c.ctl with remap := old.ctl.remap }, tw := old.tw }
  let d := d.setTowerImage c.towerImage
  let move (l : List (Nat × Nat)) : List (Nat × Nat) :=
    (l.filter fun x => x.1 != q) ++ (l.filter fun x => x.1 == p).map fun x => (q, x.2)
  let tw := (s.twPoison.filter fun x => x.1 != q)
    ++ (s.twPoison.filter fun x => x.1 == p).filterMap fun x => (c.mapUnit d x.2).map fun u => (q, u)
  let s : State := { s with
    clusters := NMap.set Cluster.reset s.clusters q d, spPoison := move s.spPoison, twPoison := tw, accPoison := move s.accPoison,
    pePoison := move s.pePoison }
  let s := s.overtake fun u => match u with
    | .sp n _ => clCol n == q % 16
    | _ => false
  let add (k : Nat × Nat) (l : List (Nat × Nat)) : List (Nat × Nat) := if l.contains k then l else l ++ [k]
  bad.foldl (fun (s : State) u => match u with
    | .sp _ g => { s with spPoison := add (q, g) s.spPoison }
    | .tw _ k u => { s with twPoison := add (q, d.twAddr k (64 * u) / 64) s.twPoison }
    | .acc _ e => { s with accPoison := add (q, e) s.accPoison }
    | _ => s) s

/-- A tower remap of one of these clusters has not completed (R451). -/
def State.remapWaiting (s : State) (ns : List Nat) : Bool := s.rel.remaps.any fun p => s.inService p.1 && ns.contains p.1

/-- CLUSTER_MOVE (R449, step 3; R451): once every held cluster has halted, and its tower remaps have completed, the cluster
next to the free row moves there; `bad` are the units that could not be read. -/
def execClusterMove (cl : Nat) (bad : List MemUnit) (s : State) : Out :=
  match s.retire? (clCol cl) with
  | none => .next s
  | some t =>
    let row := if t.row < t.next then t.next - 1 else t.next + 1
    if t.next = t.row || s.physRow cl != row || s.remapWaiting (s.heldRange t.col t.row)
        || !((s.heldRange t.col t.row).all fun n => (s.cl n).drained) then .next s
    else
      let bad := bad.filter fun u => match u with
        | .sp _ g => decide (g < 98304)
        | .tw _ k u => decide (k < 64) && decide (u < 4096)
        | .acc _ e => decide (e < 131072)
        | _ => false
      let s := bad.foldl (fun s u => s.reportUnit u 2 2) s
      .next ((s.movePhys (16 * row + t.col) (16 * t.next + t.col) bad).setRetiring t.col (some { t with next := row }))

/-! ### Delivered records (R440, R441, R445) -/

/-- ERROR_RECORD_DELIVERY (R440, R441, R445, R450): a record of a source reaches the reliability engine; Samovar checks the thresholds of
the page or the cluster that it names, and removes a cluster that reaches one while its column has no healthy spare. -/
def execErrorRecordDelivery (r : ErrRec) (s : State) : Out :=
  if !s.recordOk r then .next s
  else
    let s := (s.deliver r).checkPage (r.addr / 65536)
    let n := r.src / 16 - 0x100
    if 0x1000 ≤ r.src && r.src < 0x2000 && s.inService n && s.retireDue n && s.noSpare (clCol n) && (s.retire? (clCol n)).isNone then
      .next (s.removeCluster n)
    else .next s

/-! ### Power (R473-R475) -/

/-- A cluster's new interval: the grant, and what the last interval showed. -/
def Ctl.interval (c : Ctl) (g : Nat) : Ctl :=
  { c with grant := g, used := c.usedNow, capped := c.capNow, usedNow := 0, capNow := false }

/-- The energy that the arbiter estimates for an interval in quad region `q`, in nJ (R474): the passes of its clusters in service, at the
image's first energy each, and the other events (log 66). It depends on nothing that two runs of one program could show differently. -/
def State.quadEnergy (s : State) (passes : Nat → Nat) (k q : Nat) : Nat :=
  let ns := (List.range 192).filter fun n => quadOf n == q && s.inService n
  Config.otherEnergy s.dev.image.energies k q + s.dev.image.energies.getD 0 0 * (ns.map passes).sum

def State.packageEnergy (s : State) (passes : Nat → Nat) (k : Nat) : Nat := ((List.range 48).map (s.quadEnergy passes k)).sum

/-- The bounds of R474, if every cluster used its grant in the interval that begins: 1,000 W/cm² in each quad region, 2,100 W over the 10 ms and
1,750 W over the 1 s that end with it. -/
def State.powerOk (s : State) (grant : Nat → Nat) : Bool :=
  let k := s.dev.intervals
  let e := s.packageEnergy grant k
  ((List.range 48).all fun q => decide (s.quadEnergy grant k q ≤ Config.quadArea))
    && decide (e + (s.dev.spent.take 9999).sum ≤ 2100 * 10 ^ 7) && decide (e + (s.dev.spent.take 999999).sum ≤ 1750 * 10 ^ 9)

/-- The grant of a cluster in the field of R475. -/
def grantOf (grants : List Nat) (n : Nat) : Nat := Nat.max 64 (Nat.min 1250 (grants.getD n 1250))

/-- POWER_INTERVAL (R473-R475): each microsecond after bring-up every cluster in service gets the grant that the arbiter chooses within the
bounds of R474; where no such choice is given, the least that R474 lets a cluster have (log 66). -/
def execPowerInterval (grants : List Nat) (s : State) : Out :=
  let k := s.dev.intervals + 1
  if !s.dev.ready || s.gtc < s.dev.bootedAt + 1000 * k then .next s
  else
    let spent := s.packageEnergy (fun n => (s.cl n).ctl.usedNow) s.dev.intervals
    let t : State := { s with dev := { s.dev with intervals := k, spent := (spent :: s.dev.spent).take 999999 } }
    let ok := t.powerOk (grantOf grants)
    let place (p : Nat) : Nat :=
      match (List.range 192).find? fun n => s.inService n && s.phys n == p with
      | some n => if ok then grantOf grants n else 64
      | none => 1250
    .next { t with clusters := (List.range 208).foldl (fun m p =>
      NMap.set Cluster.reset m p (let c := NMap.get Cluster.reset m p; { c with ctl := c.ctl.interval (place p) })) t.clusters }

/-! ### Retraining (R476, R477) -/

/-- The time at which a cluster's retraining falls due (R476). -/
def State.retrainAt (s : State) (n : Nat) : Nat :=
  if (s.cl n).ctl.retrainDue = 0 then s.dev.bootedAt + 5 * n * 10 ^ 6 else (s.cl n).ctl.retrainDue

/-- The completion words that waiting WAITGENs name. -/
def State.awaitedWords (s : State) : List (Nat × Nat) :=
  s.listed.filterMap fun (n, c) =>
    match c.a.wait with
    | some w => if w.kind == .waitgen then some (({ s with focus := n } : State).wordAt (c.a.reg w.f.sa).toNat) else none
    | none => none

/-- A command crosses the vertical buses of cluster `n`. -/
def Cmd.crosses (k : Cmd) (cl n : Nat) : Bool :=
  let sp (e : Ep) : Bool := match e with
    | .sp c _ => c == n
    | _ => false
  sp k.src || sp k.dst || ((k.kind == .tldq || k.kind == .sqd) && cl == n)

/-- An MWAIT waits for a record. -/
def XCore.awaits (x : XCore) (r : Rec) : Bool :=
  match x.freeze with
  | some (.mwait all tag) => all || r.tag == tag
  | _ => false

/-- An awaited transfer that crosses the vertical buses of cluster `n` is in progress (R477). -/
def State.awaited (s : State) (n : Nat) : Bool :=
  let ws := s.awaitedWords
  let c := s.cl n
  (s.listed.any fun (m, d) => d.a.cmds.any fun k => k.started && !k.hasPerformed && k.crosses m n && k.word.any ws.contains)
    || (c.arr.arrayE ++ c.arr.loaderE ++ c.arr.pusherE ++ c.arr.nestE).any fun r =>
        r.ropc != 3 && r.ropc != 4 && (c.x.awaits r || (r.cw.any fun a => ws.contains (n, a)))

/-- A retraining starts (R476). -/
def State.retrain (s : State) (n : Nat) : State := s.onCtl n fun c => { c with retrainEnd := some (s.gtc + 1600) }

/-- RETRAINING_DUE (R476, R477): the retraining starts when it is due and no awaited transfer is in progress. -/
def execRetrainingDue (cl : Nat) (s : State) : Out :=
  if s.gtc < s.retrainAt cl || (s.cl cl).ctl.retrainEnd.isSome || s.awaited cl then .next s else .next (s.retrain cl)

/-- RETRAINING_FORCED (R477): 200 us after the due time it starts, whatever is in progress. -/
def execRetrainingForced (cl : Nat) (s : State) : Out :=
  if s.gtc < s.retrainAt cl + 200000 || (s.cl cl).ctl.retrainEnd.isSome then .next s else .next (s.retrain cl)

/-- RETRAINING_END (R476): 1.6 us after its start; the next falls due 1 s later. -/
def execRetrainingEnd (cl : Nat) (s : State) : Out :=
  match (s.cl cl).ctl.retrainEnd with
  | none => .next s
  | some t =>
    if s.gtc < t then .next s
    else .next (s.onCtl cl fun c => { c with retrainEnd := none, retrainDue := s.gtc + 10 ^ 9 })

end Sys2Proof.Machine
end

