-- ==== Sys2Proof/Machine/Host.lean ====
section
/-! DEFINITION. Host commands (R391, R456-R461, R502): how a queue takes its head command, and the commands about contexts, tables, pages,
snapshots and transactions. -/

namespace Sys2Proof.Machine

/-! ### The head command of a queue -/

/-- A host command: its queue, the context of its header, its arguments, and the bits of its payload (R458). -/
structure HCmd where
  q : Nat
  cid : Nat
  a : Nat
  b : Nat
  c : Nat
  pay : Nat
  deriving DecidableEq, Repr

/-- What a command answers: that it has taken its effect or failed, with a code and a result, or that it waits (R391, R459). -/
inductive CmdAns where
  | fin (s : State) (code res : Nat) | wait (s : State)

/-- Slots of a command ring, and its place in host memory (R456). -/
def Queue.slots (q : Queue) : Nat := 2 ^ ringLog (bits q.qcfg.toNat 3 0)
def Queue.slotAt (q : Queue) (i : Nat) : Nat := bits q.qcfg.toNat 41 12 * 4096 + 64 * ((q.head + i) % q.slots)

/-- The payload slots of each assigned opcode (R460). -/
def npayOf (opc : Nat) : Option Nat :=
  match opc with
  | 0x02 | 0x03 | 0x04 | 0x08 | 0x0A | 0x0B | 0x0C | 0x0D | 0x18 | 0x19 | 0x1A | 0x20 | 0x21 | 0x22 => some 0
  | 0x01 | 0x05 | 0x06 | 0x07 | 0x09 | 0x11 | 0x12 => some 1
  | 0x10 => some 4
  | _ => none

/-- A header stops its queue: no opcode, another number of payload slots, or slots past TAIL (R457). -/
def Queue.malformed (q : Queue) (h : Nat) : Bool :=
  match npayOf (bits h 7 0) with
  | none => true
  | some n => bits h 10 8 != n || decide ((q.tail + q.slots - q.head) % q.slots < 1 + n)

/-- The command of a header, with its payload; reserved fields of a header, an argument or a payload are ignored (R6; log 18). -/
def State.hcmd (s : State) (qn : Nat) (q : Queue) (h : Nat) : HCmd :=
  { q := qn, cid := bits h 27 16, a := bits h 127 64, b := bits h 191 128, c := bits h 255 192,
    pay := (List.range (bits h 10 8)).foldl (fun v i => v + s.hostMem.readN (q.slotAt (1 + i)) 64 * 2 ^ (512 * i)) 0 }

/-- RESULT and then STATUS are written, and HEAD moves past the command (R457, R459). -/
def State.finishCmd (s : State) (qn h code res : Nat) : State :=
  let q := s.queue qn
  let m := s.hostMem.writeN (q.slotAt 0 + 48) 8 res
  let m := m.writeN (q.slotAt 0 + 56) 8 (1 + code * 2 ^ 8)
  ({ s with hostMem := m }).setQueue qn { q with head := (q.head + 1 + bits h 10 8) % q.slots, wait := false, phase := 0, note := 0 }

/-- The queue has a command that can be taken. -/
def State.queueRuns (s : State) (qn : Nat) : Bool :=
  let q := s.queue qn
  s.dev.ready && decide (qn < 64) && q.en && !q.mal && q.head != q.tail

/-- Commands that begin only after every earlier write of the host has performed: submit, replace code, resolve, migrate and shoot-down (R40,
R391). -/
def afterWrites (h : Nat) : Bool := [0x10, 0x11, 0x18, 0x19, 0x1A].contains (bits h 7 0)

/-- The head command of a queue is held back: by a replica whose place in the queue has come and that waits for room in the node table (R391,
R395), or, before it begins, by writes of the host that wait (R40, R391). -/
def State.cmdHeld (s : State) (qn h : Nat) : Bool :=
  let q := s.queue qn
  (q.fwds.head?.any fun f => f.mark == q.head) || (afterWrites h && q.phase == 0 && !s.host.posted.isEmpty)

/-- The head command of queue `qn`, if `mine` accepts its header, runs (R391, R457, R459); a malformed header stops the queue. A
command of a context whose descriptor is poisoned waits for the reset that its reading asks for (R436). -/
def State.command (s : State) (qn : Nat) (mine : Nat → Bool) (run : State → HCmd → CmdAns) : Out :=
  let q := s.queue qn
  let h := s.hostMem.readN (q.slotAt 0) 64
  if !s.queueRuns qn then .next s
  else if q.malformed h then .next (s.setQueue qn { q with mal := true })
  else if !mine h then .next s
  else if s.cmdHeld qn h then .next (s.setQueue qn { q with wait := true })
  else if (s.hcmd qn q h).cid != 0 && s.descBad (s.hcmd qn q h).cid then
    .next ((s.rsvSeen (s.descAddr (s.hcmd qn q h).cid)).setQueue qn { q with wait := true })
  else match run s (s.hcmd qn q h) with
    | .fin t code res => .next (t.finishCmd qn h code res)
    | .wait t => .next (t.setQueue qn { t.queue qn with wait := true })

/-- A command of one opcode. -/
def isOpc (opc h : Nat) : Bool := bits h 7 0 == opc

/-- The lowest code among the causes that hold; 0 for none (R502). -/
def lowCode : List (Bool × Nat) → Nat
  | [] => 0
  | (b, c) :: r =>
    let l := lowCode r
    if b && (l == 0 || decide (c < l)) then c else l

/-- The header names no context (R502, code 0x02). -/
def State.noContext (s : State) (cid : Nat) : Bool := cid == 0 || !s.ctxValid cid

/-- How far a command of several steps has come, kept in its queue. -/
def State.phase (s : State) (q : Nat) : Nat := (s.queue q).phase
def State.note (s : State) (q : Nat) : Nat := (s.queue q).note
def State.setPhase (s : State) (q phase note : Nat) : State := s.setQueue q { s.queue q with phase := phase, note := note }

/-! ### Writes of tables in the reserved region -/

/-- The page-table area (R453). -/
def Dev.ptBase (d : Dev) : Nat := d.rsvBase + 0x2000000
def Dev.ptEnd (d : Dev) : Nat := d.ptBase + d.ptArea * 65536

/-- Bytes lie wholly inside the reserved region and meet no page-table area (R502, code 0x06). -/
def Dev.inReserved (d : Dev) (a n : Nat) : Bool :=
  decide (d.rsvBase ≤ a) && decide (a + n ≤ d.top) && !(decide (a < d.ptEnd) && decide (d.ptBase < a + n))

/-- Some page of a range is in the flip of its migration, so that a write of the device waits. -/
def State.flipBusy (s : State) (a n : Nat) : Bool :=
  s.pages.any fun (p, st) => st == .flipping && decide (p * 65536 < a + n) && decide (a < (p + 1) * 65536)

/-- Zeroes written over whole 64-byte units of the reserved region. -/
def State.rsvZero (s : State) (a n : Nat) : State :=
  if s.chanFailed.isEmpty && s.migs.isEmpty && s.rel.scrubs.isEmpty then
    { s with hbm := s.hbm.clear a (a + n), hbmPoison := s.hbmPoison.filter fun u => !(decide (a ≤ 64 * u) && decide (64 * u < a + n)) }
  else s.rsvWrite a (List.replicate n 0)

/-! ### Create and destroy (R25, R26, R29) -/

/-- Fields of a descriptor. -/
def descHtab (d : Nat) : Nat := bits d 171 134 * 64
def descTtab (d : Nat) : Nat := bits d 299 262 * 64
def descHcount (d : Nat) : Nat := bits d 208 192
def descTcount (d : Nat) : Nat := bits d 234 224

/-- The fields of a context descriptor (R25). -/
def descFields : List (Nat × Nat) :=
  [(11, 0), (12, 12), (107, 76), (171, 134), (208, 192), (234, 224), (299, 262), (335, 320), (343, 336), (431, 384)]

/-- The error status of a create (R26, R502). -/
def State.createCode (s : State) (cid d : Nat) : Nat :=
  lowCode [(cid == 0, 2), (s.ctxValid cid, 3), (bits d 11 0 != cid, 4),
    (decide (s.dev.top ≤ bits d 107 76 * 4096) || decide (s.dev.top ≤ descHtab d) || decide (s.dev.top ≤ descTtab d), 5),
    (!s.dev.inReserved (descHtab d) (64 * descHcount d) || !s.dev.inReserved (descTtab d) (64 * descTcount d), 6),
    (descHcount d == 0 || decide (65536 < descHcount d) || descTcount d == 0 || decide (1024 < descTcount d) || bits d 343 336 == 0, 7)]

/-- What a context that is created takes over of an earlier one of its CID: fault batches that have not been delivered (R54, log 80), and
transaction slots that had voted when that one was destroyed, with the frames of their pages and of redirected ones (R138; log 102). -/
def Ctx.renew (c : Ctx) : Ctx :=
  let frames := c.frames.filter fun e => e.2.any fun f => f.staged
  { Ctx.reset with
    held := c.held, txs := c.txs.filter fun e => e.2.st == .voted || e.2.st == .decided,
    frames := frames, frameSeq := c.frameSeq, scb := if frames.isEmpty then 0 else c.scb }

/-- The tables of a new context set to zero, and then its descriptor written with V = 1 (R26). The open fault batch of an earlier context of this
CID closes first (R54, log 80), and its slots whose transactions have ended are freed. -/
def State.createContext (s : State) (cid d : Nat) : State :=
  let s := s.closeBatch cid
  let s := [0, 1, 2, 3].foldl (fun s i =>
    if ((s.ctx cid).tx i).st == .committed || ((s.ctx cid).tx i).st == .aborted then s.freeTx cid i else s) s
  let t := (s.rsvZero (descHtab d) (64 * descHcount d)).rsvZero (descTtab d) (64 * descTcount d)
  (t.onCtx cid Ctx.renew).rsvWrite (t.descAddr cid) (toBytes 64 (setBits (fieldsOf descFields d) 12 12 1))

/-- CREATE_CONTEXT (R26). -/
def execCreateContext (q : Nat) (s : State) : Out :=
  s.command q (isOpc 0x01) fun s h =>
    let code := s.createCode h.cid h.pay
    if code != 0 then .fin s code 0
    else if s.flipBusy (descHtab h.pay) (64 * descHcount h.pay) || s.flipBusy (descTtab h.pay) (64 * descTcount h.pay)
        || s.flipBusy (s.descAddr h.cid) 64 then .wait s
    else .fin (s.createContext h.cid h.pay) 0 0

/-- The clusters of the quads in a context's QMASK. -/
def State.quadClusters (s : State) (cid : Nat) : List Nat := (List.range 192).filter fun n => bit (s.qmask cid) (quadOf n)

/-- The unbind of a context begins, or goes on: the clusters of its partition are held, and those that run a task of it asked to halt
(R422, R428). -/
def State.holdPartition (s : State) (cid : Nat) : State :=
  (s.quadClusters cid).foldl (fun s n =>
    let s := s.onCtl n fun c => { c with unbindHeld := true }
    if (s.cl n).ctl.occ = .free then s else s.askPreempt n 1) s

/-- No cluster has a task of the context. -/
def State.tasksGone (s : State) (cid : Nat) : Bool := s.listed.all fun (_, c) => c.ctl.occ == .free || c.ctl.cid != cid

/-- The buffer entries of the partition's quads saved (R428). -/
def State.saveBufs (s : State) (cid : Nat) : State :=
  let m := s.qmask cid
  let old := (s.ctx cid).savedBufs.filter fun e => !bit m (e.1 / 64)
  let saved := (s.bufs.filter fun e => bit m (e.1 / 64)).foldl (fun b e => NMap.set Buf.free b e.1 e.2) old
  s.onCtx cid fun c => { c with savedBufs := saved }

/-- The end of an unbind (R78, R428): the buffer tables are saved, EN becomes 0 in every cluster of the partition, and the holds end. -/
def State.endUnbind (s : State) (cid : Nat) : State :=
  let t := (s.quadClusters cid).foldl (fun s n =>
    s.onCtl n fun c => { c with unbindHeld := false, mbox := c.mbox &&& ~~~0x4000000#64, mbOwner := 0 }) (s.saveBufs cid)
  t.onCtx cid fun c => { c with resident := false }

/-- An unbind as far as it comes: done, or waiting for tasks. -/
def State.unbind (s : State) (cid : Nat) : Bool × State :=
  if !(s.ctx cid).resident then (true, s)
  else
    let t := s.holdPartition cid
    if t.tasksGone cid then (true, t.endUnbind cid) else (false, t)

/-- Commands of a context that have not come to an end. -/
def State.cmdsOf (s : State) (cid : Nat) : Bool := s.listed.any fun (_, c) => c.a.cmds.any fun k => k.mode == .t && k.cid == cid

/-- Live snapshots fail, and open transactions abort, with code 0x36 (R29, R129). -/
def State.dropGroups (s : State) (cid : Nat) : State :=
  [0, 1, 2, 3].foldl (fun s i =>
    let s := if ((s.ctx cid).snap i).st.isLive then s.endSnap cid i .failed 0x36 else s
    if ((s.ctx cid).tx i).st == .open then s.txAbort cid i 0x36 else s) s

/-- A pattern entry with V = 0, if the context owns it (R108). -/
def dropPattern (cid _k p : Nat) : Nat := if bits p 11 0 = cid then setBits p 12 12 0 else p

/-- The data in a cluster's memories is that of no context that exists: what its next task finds has been cleared (R28). -/
def Cluster.forget (cid : Nat) (c : Cluster) : Cluster :=
  if c.ctl.ranCid = cid ∨ c.ctl.dataCid = some cid then { c with ctl := { c.ctl with dataCid := none } } else c

/-- What is left of a context ends with it (R28, R29, R108, R409). -/
def State.endContext (s : State) (cid : Nat) : State :=
  let s := s.dropGroups cid
  let s : State := { s with patterns := NMap.mapVals 0 (dropPattern cid) s.patterns }
  let s := (s.nodeList.filter fun e => e.2.cid == cid).foldl (fun s e => s.failNode e.1 0x54) s
  let s := s.onCtx cid fun c => { c with aborted := false }
  let s : State := { s with clusters := NMap.mapVals Cluster.reset (fun _ c => c.forget cid) s.clusters }
  s.rsvWrite (s.descAddr cid) (toBytes 64 (setBits (s.desc cid) 12 12 0))

/-- DESTROY_CONTEXT (R29): the unbind, the wait for the context's commands, and the end of all it has. -/
def execDestroyContext (q : Nat) (s : State) : Out :=
  s.command q (isOpc 0x02) fun s h =>
    if s.noContext h.cid then .fin s 2 0
    else match s.unbind h.cid with
      | (false, t) => .wait t
      | (true, t) => if t.cmdsOf h.cid || t.flipBusy (t.descAddr h.cid) 64 then .wait t else .fin (t.endContext h.cid) 0 0

/-! ### Bind and unbind (R27, R428) -/

/-- The resident contexts. -/
def State.residents (s : State) : List Nat := (s.ctxs.filter fun e => e.2.resident).map Prod.fst

/-- The error status of a bind with a QMASK (R27, R502). -/
def State.bindCode (s : State) (cid a : Nat) : Nat :=
  lowCode [(s.noContext cid, 2), ((s.ctx cid).resident, 0x0B),
    (a == 0 || s.residents.any fun c => s.qmask c &&& a != 0, 0x0C), (decide (16 ≤ s.residents.length), 0x0D)]

/-- A bind: QMASK is written, and the buffer entries of its quads are FREE (R27, R76). -/
def State.bindTo (s : State) (cid m : Nat) : State :=
  let s := s.rsvWrite (s.descAddr cid) (toBytes 64 (setBits (s.desc cid) 431 384 m))
  let s : State := { s with bufs := s.bufs.filter fun e => !bit m (e.1 / 64) }
  s.onCtx cid fun c => { c with resident := true }

/-- BIND (R27). -/
def execBind (q : Nat) (s : State) : Out :=
  s.command q (isOpc 0x03) fun s h =>
    let m := bits h.a 47 0
    let code := s.bindCode h.cid m
    if code != 0 then .fin s code 0
    else if s.flipBusy (s.descAddr h.cid) 64 then .wait s
    else .fin (s.bindTo h.cid m) 0 0

/-- UNBIND (R27, R428). -/
def execUnbind (q : Nat) (s : State) : Out :=
  s.command q (isOpc 0x04) fun s h =>
    if s.noContext h.cid then .fin s 2 0
    else match s.unbind h.cid with
      | (true, t) => .fin t 0 0
      | (false, t) => .wait t

/-! ### Records, templates, patterns (R30-R36, R107, R108) -/

/-- The rules of R32 on a record. -/
def recShaped (r : Nat) : Bool :=
  let f := recFmt r
  let str (d : Nat) : Int := recStr r d
  let z := fmtBits f / 8
  if f == 0x15 then recExt r 0 % 2 == 0
  else if fmtPlanes f then
    recExt r 0 % 16 == 0 && recBase r % 32 == 0
      && (recRank r == 1 || (str 1 % 32 == 0 && decide (packedRow r ≤ (str 1).natAbs)))
  else recBase r % z == 0 && (List.range (recRank r)).all fun d => str d % (z : Nat) == 0

/-- The contents of a record break R33. -/
def recBroken (r : Nat) : Bool :=
  let box := recBox r
  !fmtLegal (recFmt r) || (List.range (recRank r)).any (fun d => recExt r d == 0) || !recShaped r
    || decide ((recBase r : Int) + box.1 < 0) || decide (2 ^ 52 ≤ (recBase r : Int) + box.2)

/-- The fields of a layout record (R30). -/
def recFields : List (Nat × Nat) :=
  [(23, 0), (47, 32), (115, 64), (255, 128), (303, 256), (367, 320), (431, 384), (495, 448)]

/-- A table entry stored whole with its new sequence number (R36). The old number of a poisoned entry is lost: a free value (log 95). -/
def State.putEntry (s : State) (a v : Nat) : State × Nat :=
  let (old, s) := if s.entryBad a then (let (w, t) := s.draw; (w.toNat % 2 ^ 16, t)) else (bits (s.hbm.readN a 64) 47 32, s)
  let seq := (old + 1) % 2 ^ 16
  (s.rsvWrite a (toBytes 64 (setBits v 47 32 seq)), seq)

/-- What a write of a table entry answers. -/
def State.writeEntry (s : State) (a v : Nat) : CmdAns :=
  if s.flipBusy a 64 then .wait s
  else
    let (t, seq) := s.putEntry a v
    .fin t 0 seq

/-- The error status of a record write (R33, R502). -/
def State.recordCode (s : State) (h : HCmd) : Nat :=
  lowCode [(s.noContext h.cid, 2), (bits h.pay 11 0 != h.cid, 4),
    (h.a == 0 || decide (s.hcount h.cid ≤ h.a), 8), (bit h.pay 12 && recBroken h.pay, 9)]

/-- WRITE_RECORD (R33, R36). -/
def execWriteRecord (q : Nat) (s : State) : Out :=
  s.command q (isOpc 0x05) fun s h =>
    let code := s.recordCode h
    if code != 0 then .fin s code 0 else s.writeEntry (s.htab h.cid + 64 * h.a) (fieldsOf recFields h.pay)

/-- The contents of a template break R35. -/
def tplBroken (t : Nat) : Bool :=
  let z : Nat := tplSize t
  decide (5 < bits t 18 16) || (List.range (tplDims t)).any fun d => tplExt t d == 0 || tplSrc t d % z != 0 || tplDst t d % z != 0

/-- The fields of a copy template (R34). -/
def tplFields : List (Nat × Nat) := [(14, 0), (18, 16), (47, 32), (383, 64)]

/-- The error status of a template write (R35, R502). -/
def State.templateCode (s : State) (h : HCmd) : Nat :=
  lowCode [(s.noContext h.cid, 2), (bits h.pay 11 0 != h.cid, 4), (decide (s.tcount h.cid ≤ h.a), 8),
    (bit h.pay 12 && tplBroken h.pay, 9)]

/-- WRITE_TEMPLATE (R35, R36). -/
def execWriteTemplate (q : Nat) (s : State) : Out :=
  s.command q (isOpc 0x06) fun s h =>
    let code := s.templateCode h
    if code != 0 then .fin s code 0 else s.writeEntry (s.ttab h.cid + 64 * h.a) (fieldsOf tplFields h.pay)

/-- The fields of a gather pattern (R107). -/
def patFields : List (Nat × Nat) := [(13, 0), (19, 16), (43, 32), (63, 48), (71, 64), (117, 96)]

/-- DPITCH of a valid pattern lies in its range (R107). -/
def patRanges (p : Nat) : Bool := !bit p 12 || decide (bits p 117 96 ≤ 0x2FFFFF)

/-- The contents of a pattern break R108. -/
def patBroken (p : Nat) : Bool :=
  bits p 117 96 == 0 || (bit p 13 && ((bits p 63 48 + 1) % 16 != 0 || bits p 117 96 % 32 != 0))

/-- The error status of a pattern write (R108, R502). -/
def State.patternCode (s : State) (h : HCmd) : Nat :=
  let old := NMap.get 0 s.patterns h.a
  lowCode [(!patRanges h.pay, 1), (s.noContext h.cid, 2), (bits h.pay 11 0 != h.cid, 4), (decide (64 ≤ h.a), 8),
    (bit h.pay 12 && patBroken h.pay, 9), (decide (h.a < 64) && bit old 12 && bits old 11 0 != h.cid, 0x0A)]

/-- WRITE_GATHER_PATTERN (R107, R108). -/
def execWriteGatherPattern (q : Nat) (s : State) : Out :=
  s.command q (isOpc 0x07) fun s h =>
    let code := s.patternCode h
    if code != 0 then .fin s code 0 else .fin { s with patterns := NMap.set 0 s.patterns h.a (fieldsOf patFields h.pay) } 0 0

/-- The value of `cr.mbox` for settings in the layout of the command (R77, R460). -/
def mboxOf (a : Nat) : W64 :=
  BitVec.ofNat 64 (bits a 13 0 * 2 ^ 8 + bits a 17 14 * 2 ^ 22 + bits a 19 19 * 2 ^ 26 + bits a 18 18 * 2 ^ 27)

/-- MAILBOX_SETTINGS (R77, R78, R460). -/
def execMailboxSettings (q : Nat) (s : State) : Out :=
  s.command q (isOpc 0x08) fun s h =>
    if s.noContext h.cid then .fin s 2 0 else .fin (s.onCtx h.cid fun c => { c with mbox := some (mboxOf h.a) }) 0 0

/-! ### Snapshots, page owners, transactions (R118, R125, R134, R312) -/

/-- The fields of a snapshot control block (R125). -/
def scbFields : List (Nat × Nat) := [(12, 0), (87, 64), (105, 96), (155, 128), (511, 256)]

/-- The numbers of a control block lie in their ranges (R125). -/
def scbRanges (b : Nat) : Bool :=
  bits b 87 64 != 0 && decide (1 ≤ bits b 105 96) && decide (bits b 105 96 ≤ 1000)

/-- The error status of a snapshot-configure (R125, R502). -/
def State.configureCode (s : State) (cid b : Nat) : Nat :=
  let c := s.ctx cid
  lowCode [(!scbRanges b || bits b 11 0 != cid, 1), (s.noContext cid, 2),
    (!s.dev.inReserved (bits b 155 128 * 65536) (bits b 87 64 * 65536), 6),
    ((List.range 4).any fun i => (c.snap i).st.isLive || (c.tx i).st != .free, 0x10)]

/-- SNAPSHOT_CONFIGURE (R125). -/
def execSnapshotConfigure (q : Nat) (s : State) : Out :=
  s.command q (isOpc 0x09) fun s h =>
    let code := s.configureCode h.cid h.pay
    if code != 0 then .fin s code 0 else .fin (s.onCtx h.cid fun c => { c with scb := fieldsOf scbFields h.pay }) 0 0

/-- The error status of a page-owner command for `n` pages from `pa` (R118, R502). -/
def State.ownerCode (s : State) (pa n cid : Nat) : Nat :=
  let last := pa / 65536 + n
  lowCode [(pa % 65536 != 0 || n == 0, 1), (cid != 0 && !s.ctxValid cid, 2),
    (decide (Nat.min s.dev.rsvBase s.dev.top < pa + n * 65536), 0x0E),
    (s.tags.any fun (p, t) => decide (pa / 65536 ≤ p) && decide (p < last) && tagMode t != 0, 0x0F)]

/-- The owner of one page changes: a covered write under the old owner, and GEN := CG of the new one (R117, R118). The flag is false while
the write waits; so does the change of a page that a transaction has staged since the command was checked (log 77), and of one that is migrating
into the reserved region (log 104). -/
def State.setOwner (s : State) (p cid : Nat) : State × Bool :=
  if s.pageSt p == .flipping || tagMode (s.tag p) != 0
      || s.migs.any (fun m => m.src == p && cid != 0 && decide (s.dev.rsvBase / 65536 ≤ m.dst)) then (s, false)
  else match s.cover p s.gtc with
    | .ok t =>
      if cid = 0 then (t.setTag p (setBits (t.tag p) 11 0 0), true)
      else
        let t := t.reachAll cid
        (t.setTag p (setBits (setBits (t.tag p) 11 0 cid) 47 16 (t.ctx cid).cg), true)
    | .waits t => (t, false)
    | _ => (s, false)

/-- The owners of `n` pages from `p` on change; it stops at a page that waits, and answers how many are left. -/
def State.setOwners (s : State) (cid : Nat) : Nat → Nat → Nat × State
  | 0, _ => (0, s)
  | n + 1, p =>
    match s.setOwner p cid with
    | (t, true) => t.setOwners cid n (p + 1)
    | (t, false) => (n + 1, t)

/-- PAGE_OWNER (R118): the phase says that it has begun, the note how many pages it has changed. -/
def execPageOwner (q : Nat) (s : State) : Out :=
  s.command q (isOpc 0x0A) fun s h =>
    let code := s.ownerCode h.a h.b (bits h.c 11 0)
    let k := s.note h.q
    if bits h.c 11 0 != 0 && s.descBad (bits h.c 11 0) then .wait (s.rsvSeen (s.descAddr (bits h.c 11 0)))
    else if s.phase h.q = 0 && code != 0 then .fin s code 0
    else match s.setOwners (bits h.c 11 0) (h.b - k) (h.a / 65536 + k) with
      | (0, t) => .fin t 0 0
      | (left, t) => .wait (t.setPhase h.q 1 (h.b - left))

/-- SNAPSHOT (R119, R312, R460). -/
def execSnapshot (q : Nat) (s : State) : Out :=
  s.command q (isOpc 0x0B) fun s h =>
    let slot := bits h.c 1 0
    let r := s.snapCode h.cid slot h.a (bits h.c 4 3)
    if s.noContext h.cid then .fin s 2 0
    else if r != 0 then .fin s 0 r
    else .fin (s.armSnap h.cid slot h.a (BitVec.ofNat 64 h.b ||| chipBit s.dev.chip) (bit h.c 2) (bits h.c 4 3) 0 0 none) 0 0

/-- DECANT_BUFFER (R125, R128, R460): a buffer joins a host-named ring of the context. -/
def execDecantBuffer (q : Nat) (s : State) : Out :=
  s.command q (isOpc 0x0C) fun s h =>
    let code := lowCode [(h.b % 65536 != 0 || decide (2 ^ 42 < h.b + h.c * 65536), 1), (s.noContext h.cid, 2)]
    if code != 0 then .fin s code 0
    else if h.c = 0 then .fin s 0 0
    else .fin (s.onCtx h.cid fun c =>
      { c with rings := NMap.set [] c.rings (bits h.a 7 0) (NMap.get [] c.rings (bits h.a 7 0) ++ [(h.b, h.c * 65536)]) }) 0 0

/-- TRANSACTION_RESOLVE (R134): the outcome is applied to a sealed slot; a commit waits for its frames. -/
def execTransactionResolve (q : Nat) (s : State) : Out :=
  s.command q (isOpc 0x0D) fun s h =>
    let x := (s.ctx h.cid).tx (bits h.a 1 0)
    let code := lowCode [(decide (1 < h.b), 1), (s.noContext h.cid, 2), (x.st != .voted && x.st != .decided, 0x12)]
    if code != 0 then .fin s code 0
    else match s.txOutcome h.cid (bits h.a 1 0) x.tc (if h.b = 1 then 0 else 0x3A) with
      | (t, true) => .fin t 0 0
      | (t, false) => .wait t

end Sys2Proof.Machine
end

