-- ==== Sys2Proof/Machine/HostDisp.lean ====
section
/-! DEFINITION. Host commands to the dispatcher and Samovar (R56, R61, R62, R387, R392-R395, R401, R410, R411, R449, R460, R461, R471):
submits, replacements of code, resolves, migrations, shoot-downs, queries, retirements and joins. -/

namespace Sys2Proof.Machine

/-! ### Nodes (R392-R395, R401, R410, R411) -/

/-- An accepted submit goes to the chips of its replicas (R395). -/
def State.forwardNode (s : State) (q id d : Nat) : State :=
  match s.entryOf id with
  | none => s
  | some e =>
    match s.node? e with
    | none => s
    | some n => (s.replicas n).foldl (fun s c => s.send c (.node id q (toDwords 32 d))) s

/-- An accepted submit is forwarded; then its dependences are looked at, and a node that names a fenced chip fails (R204, R395, R396). -/
def State.submitted (s : State) (q id d : Nat) : State :=
  let t := (s.forwardNode q id d).wakeNodes
  match t.entryOf id with
  | some e => t.failFenced e
  | none => t

/-- SUBMIT (R204, R391-R395): a submit that finds the node table full waits; a node that names a fenced chip is accepted and fails. -/
def execSubmit (q : Nat) (s : State) : Out :=
  s.command q (isOpc 0x10) fun s h =>
    let code := s.submitCode h.pay
    if code != 0 then .fin s code 0
    else match s.acceptNode h.pay h.q s.dev.chip 0 with
      | none => .wait s
      | some (id, t) => .fin (t.submitted h.q id h.pay) 0 id

/-- The live entry of a node that was submitted on this chip. -/
def State.ownEntry (s : State) (id : Nat) : Option Nat :=
  (s.entryOf id).filter fun e => (s.node? e).any fun n => n.origin == s.dev.chip

/-- The error status of a replacement (R410, R502); reserved fields of the payload are ignored (R6, log 18). -/
def State.replCode (s : State) (p : Nat) : Nat :=
  lowCode [(!entriesOk p, 0x64), ((s.ownEntry (bits p 31 0)).isNone, 0x65)]

/-- Steps 2 and 3 of R411: the replacement instant is fixed and made known; the note holds it. -/
def State.fixRepl (s : State) (q p : Nat) : State :=
  let id := bits p 31 0
  let tr := s.gtc + 50000
  let s := match s.ownEntry id with
    | none => s
    | some e =>
      let others := match s.node? e with
        | some n => s.replicas n
        | none => []
      others.foldl (fun s c => s.send c (.replace id tr (bits p 115 64) (bits p 179 128)))
        (s.setRepl e tr (bits p 115 64) (bits p 179 128))
  s.setPhase q 2 tr

/-- Step 1 of R411: instruction-cache lines of the range are dropped on every chip; the note holds the number of the ICINV. -/
def State.dropCode (s : State) (q p e : Nat) : State :=
  let cid := match s.node? e with
    | some n => n.cid
    | none => 0
  let t := s.icDropAll (fun _ => true) cid (bits p 243 192) (bits p 319 256)
  (t.icinvSend none (some e) cid (bits p 243 192) (bits p 319 256)).setPhase q 1 t.treeId

/-- REPLACE_CODE (R410, R411): the invalidation (phase 1), the instant (phase 2), and the status once the instant has come. -/
def execReplaceCode (q : Nat) (s : State) : Out :=
  s.command q (isOpc 0x11) fun s h =>
    let code := s.replCode h.pay
    match s.phase h.q with
    | 0 =>
      if code != 0 then .fin s code 0
      else if bits h.pay 319 256 = 0 then .wait (s.fixRepl h.q h.pay)
      else .wait (s.dropCode h.q h.pay ((s.ownEntry (bits h.pay 31 0)).getD 0))
    | 1 =>
      (match s.icinvs.find? fun i => i.id == s.note h.q with
      | some i => if s.icinvDone i then .wait ({ s with icinvs := s.icinvs.erase i }.fixRepl h.q h.pay) else .wait s
      | none => .wait (s.fixRepl h.q h.pay))
    | _ => if s.gtc ≤ s.note h.q then .wait s else .fin s 0 0

/-- DISPATCHER_CONFIGURE (R401). -/
def execDispatcherConfigure (q : Nat) (s : State) : Out :=
  s.command q (isOpc 0x12) fun s h =>
      let thr := (List.range 16).foldl (fun m j => NMap.set 12 m j (bits h.pay (67 + 4 * j) (64 + 4 * j))) s.disp.thr
      .fin { s with disp := { s.disp with age := bits h.pay 9 0, upre := bit h.pay 16, thr := thr } } 0 0

/-! ### Resolve (R56) -/

/-- Pages wholly inside a virtual range. -/
def pageInside (va n p : Nat) : Bool := decide (va ≤ p * 65536) && decide ((p + 1) * 65536 ≤ va + n * 65536)

/-- A parked task without the pages that are resolved. -/
def Parked.resolve (va n : Nat) (t : Parked) : Parked := { t with pages := t.pages.filter fun p => !pageInside va n p }

/-- A node whose parked tasks are requeued, in the order of their aborts, once none of their pages is unresolved. -/
def Node.requeueParked (n : Node) (va k now : Nat) : Node :=
  let ps := n.parked.map (Parked.resolve va k)
  let free := (sortLe (fun a b : Parked => decide (a.order ≤ b.order)) (ps.filter fun t => t.pages.isEmpty)).map (·.task)
  if free.isEmpty then { n with parked := ps }
  else { n.waits now with parked := ps.filter fun t => !t.pages.isEmpty, requeued := n.requeued ++ free }

/-- RESOLVE (R56, R409). -/
def execResolve (q : Nat) (s : State) : Out :=
  s.command q (isOpc 0x18) fun s h =>
    let code := lowCode [(decide (1 < h.c), 1), (s.noContext h.cid, 2), (decide (2 ^ 52 ≤ h.a) || decide (2 ^ 52 < h.a + h.b * 65536), 0x11)]
    let mine := s.nodeList.filter fun e => e.2.cid == h.cid
    if code != 0 then .fin s code 0
    else if h.c = 0 then .fin (mine.foldl (fun s e => s.onNode e.1 fun n => n.requeueParked h.a h.b s.gtc) s) 0 0
    else
      let hit := mine.filter fun e => e.2.parked.any fun t => t.pages.any (pageInside h.a h.b)
      .fin (hit.foldl (fun s e => s.failNode e.1 0x51) s) 0 0

/-! ### Migrate (R61, R62, R460) -/

/-- Entry `i` of a mapper list in host memory. -/
def State.mapperAt (s : State) (a i : Nat) : Nat := s.hostMem.readN (a + 16 * i) 16
def mapperOk (v : Nat) : Bool := bits v 7 6 != 3
def mapperOf (v : Nat) : Mapper := { chip := bits v 5 0, kind := bits v 7 6, addr := bits v 107 64 }

/-- The arguments of a migration are in their ranges: two different pages of HBM in service, and a well-formed list; an owned page stays out of
the reserved region, whose pages have no owner (R116; log 104). -/
def State.migrateOk (s : State) (h : HCmd) : Bool :=
  let vs := (List.range (bits h.c 63 48)).map (s.mapperAt (bits h.c 41 0))
  h.a % 65536 == 0 && h.b % 65536 == 0 && h.a != h.b && decide (h.a < s.dev.top) && decide (h.b < s.dev.top)
    && s.pageSt (pageOf h.a) == .inService && s.pageSt (pageOf h.b) == .inService && vs.all mapperOk
    && (tagOwner (s.tag (pageOf h.a)) == 0 || decide (h.b + 65536 ≤ s.dev.rsvBase))

/-- A migration begins: the source is in the copy phase, and MG is set in its leaves (R62, step 1). -/
def State.beginMig (s : State) (h : HCmd) : State :=
  let vs := (List.range (bits h.c 63 48)).map (s.mapperAt (bits h.c 41 0))
  let m : Mig := { src := pageOf h.a, dst := pageOf h.b, round := 0, todo := List.range 256, mappers := vs.map mapperOf, pend := vs.map mapperOf, queue := h.q,
                   retire := s.pageAsked (pageOf h.a) }
  let t := s.setPageSt m.src (.copying [])
  let t : State := { t with migs := t.migs ++ [m] }
  t.tryMappers m State.markMapper

/-- MIGRATE (R61, R62): the command is over when the flip has ended. -/
def execMigrate (q : Nat) (s : State) : Out :=
  s.command q (isOpc 0x19) fun s h =>
    if s.phase h.q = 0 then (if s.migrateOk h then .wait ((s.beginMig h).setPhase h.q 1 0) else .fin s 1 0)
    else if s.migs.any fun m => m.queue == h.q then .wait s
    else .fin s 0 0

/-! ### Shoot-down (R57-R59, R387) -/

/-- The scope that a command's KIND selects. -/
def hostScope (h : HCmd) : ShootScope :=
  match bits h.c 13 12 with
  | 0 => .range h.cid h.a h.b
  | 1 => .space h.cid
  | _ => .all

/-- SHOOT_DOWN (R57-R59, R387): RESULT is the mask of chips fenced by it. -/
def execShootDown (q : Nat) (s : State) : Out :=
  s.command q (isOpc 0x1A) fun s h =>
    let kind := bits h.c 13 12
    let code := lowCode [(kind == 3, 1), (decide (kind < 2) && s.noContext h.cid, 2),
      (kind == 0 && (rangeBad (hostScope h)).isSome, 0x11)]
    if s.phase h.q = 0 then
      if code != 0 then .fin s code 0
      else if rangeEmpty (hostScope h) then .fin s 0 0
      else
        let t : State := { s with shoots := s.shoots.filter fun x => x.owner != .queue h.q }
        .wait ((t.beginShoot (hostScope h) (.queue h.q)).setPhase h.q 1 0)
    else match s.shoots.find? fun x => x.owner == .queue h.q with
      | none => .fin s 0 0
      | some x => if s.shootDone x then .fin (s.endShoot x.id) 0 x.fencedMask.toNat else .wait s

/-! ### Queries (R461) -/

/-- A header of a query with selector `sel`, or with a selector that names none. -/
def isQuery (sel h : Nat) : Bool := isOpc 0x20 h && (bits h 127 64 == sel || bits h 127 64 == 0 || decide (9 < bits h 127 64))

/-- A query: its selector and index are checked, and its 64-byte answer, an error or a number, is written to host memory. -/
def State.query (s : State) (q sel : Nat) (ans : State → HCmd → Nat ⊕ Nat) : Out :=
  s.command q (isQuery sel) fun s h =>
    if h.a != sel || 2 ^ 42 < h.c + 64 then .fin s 1 0
    else match ans s h with
      | .inl code => .fin s code 0
      | .inr v => .fin { s with hostMem := s.hostMem.writeN h.c 64 v } 0 0

/-- An answer that stands, or code 0x01 for an index without meaning. -/
def orRange (ok : Bool) (v : Nat) : Nat ⊕ Nat := if ok then .inr v else .inl 1

/-- QUERY_TOWER_REMAP (R88, R461). -/
def execQueryTowerRemap (q : Nat) (s : State) : Out :=
  s.query q 1 fun s h =>
    let n := bits h.b 7 0
    orRange (decide (n < 192))
      (if s.inService n then bits (NMap.get 0 (s.cl n).ctl.remap (bits h.b 13 8)).toNat 50 0 else 0)

/-- QUERY_CLUSTER_TABLE (R381, R461). -/
def execQueryClusterTable (q : Nat) (s : State) : Out :=
  s.query q 2 fun s _ => .inr (s.dev.clmap.toNat + s.dev.clsvc % 2 ^ 192 * 2 ^ 64)

/-- QUERY_HBM_DEGRADED (R114, R461). -/
def execQueryHbmDegraded (q : Nat) (s : State) : Out :=
  s.query q 3 fun s h =>
    orRange (decide (h.b ≤ 1))
      (if h.b = 1 then s.dev.hbmfail 7 else s.dev.hbmdeg + ofDwords ((List.range 7).map s.dev.hbmfail) * 2 ^ 64)

/-- QUERY_PAGE_TAG (R116, R461). -/
def execQueryPageTag (q : Nat) (s : State) : Out :=
  s.query q 4 fun s h => orRange (decide (h.b < s.dev.top)) (s.tag (pageOf h.b))

/-- QUERY_GATHER_PATTERN (R107, R461). -/
def execQueryGatherPattern (q : Nat) (s : State) : Out :=
  s.query q 5 fun s h => orRange (decide (h.b < 64)) (NMap.get 0 s.patterns h.b)

/-- QUERY_DISPATCHER_PARAMETERS (R401, R461). -/
def execQueryDispatcherParameters (q : Nat) (s : State) : Out :=
  s.query q 6 fun s _ =>
    .inr ((List.range 16).foldl (fun v j => v + NMap.get 12 s.disp.thr j % 16 * 2 ^ (64 + 4 * j))
      (s.disp.age % 1024 + flag s.disp.upre 16))

/-- QUERY_SAMOVAR_LOG (R445, R461): records in the order of their delivery, the oldest first. -/
def execQuerySamovarLog (q : Nat) (s : State) : Out :=
  s.query q 7 fun s h =>
    .inr (match s.rel.samLog[h.b % 16]? with
      | some r => ofBytes (recBytes r)
      | none => 0)

/-- QUERY_SLOT_STATUS (R136, R461). -/
def execQuerySlotStatus (q : Nat) (s : State) : Out :=
  s.query q 8 fun s h =>
    if 3 < h.b then .inl 1
    else if s.noContext h.cid then .inl 2
    else .inr ((s.ctx h.cid).snapWord h.b + s.txWord h.cid h.b * 2 ^ 64)

/-- The LINK register of the device page (R462, R470). -/
def State.linkUp (s : State) : Nat := (List.range 16).foldl (fun v p => v + flag (s.port p).up p) 0

/-- QUERY_DEVICE_STATUS (R60, R453, R461, R470). -/
def execQueryDeviceStatus (q : Nat) (s : State) : Out :=
  s.query q 9 fun s _ =>
    .inr (s.host.dropw % 2 ^ 32 + s.dev.ptArea % 2 ^ 32 * 2 ^ 32 + s.csr 0 0x020 * 2 ^ 64 + s.linkUp * 2 ^ 128)

/-! ### Retirement and rejoin (R449, R471) -/

/-- RETIRE_CLUSTER (R449): the command is over when the cluster has been retired or removed. A cluster out of service has been. -/
def execRetireCluster (q : Nat) (s : State) : Out :=
  s.command q (isOpc 0x21) fun s h =>
    let n := bits h.a 7 0
    if 191 < n then .fin s 1 0
    else if s.phase h.q = 0 then
      if s.inService n then
        .wait ({ s with rel := { s.rel with asked := s.rel.asked.filter (· != n) ++ [n] } }.setPhase h.q 1 0)
      else .fin s 0 0
    else if s.rel.asked.contains n then .wait s else .fin s 0 0

/-- The GTC master: the lowest-numbered chip that is not fenced (R468). -/
def State.master (s : State) : Nat := s.peers.foldl Nat.min s.dev.chip

/-- The 25 ns bound is confirmed for a chip now (R468). -/
def State.confirmBound (s : State) (k : Nat) : State := { s with dev := { s.dev with aligned := NMap.set 0 s.dev.aligned k s.gtc } }

/-- A chip's fence is cleared (R471), and its GTC is aligned from now on. -/
def State.unfence (s : State) (k : Nat) : State :=
  ({ s with dev := { s.dev with fenced := s.dev.fenced &&& ~~~chipBit k } } : State).confirmBound k

/-- The join of chip `k` sent to chip `c`, which answers it (R471). -/
def State.sendJoin (s : State) (k c : Nat) : State := s.request c (.join k) fun tag => .join tag k

/-- The join of a chip at this chip, which passes it on if it is the master (R471, step 4). -/
def State.joinChip (s : State) (k : Nat) : State :=
  if s.master = s.dev.chip then
    let t := s.unfence k
    t.peers.foldl (fun t c => t.sendJoin k c) t
  else s.unfence k

/-- A join that this chip has sent has not been answered by every chip; one that is fenced since is awaited no more. -/
def State.joinOpen (s : State) (k : Nat) : Bool := s.reqs.any fun r => r.owner == .join k && !s.fencedChip r.peer

/-- FABRIC_JOIN (R471): on a chip that is not the master the join goes to the master, which answers once every chip has; the command is over
then. -/
def execFabricJoin (q : Nat) (s : State) : Out :=
  s.command q (isOpc 0x22) fun s h =>
    let k := bits h.a 5 0
    if s.phase h.q = 0 then
      .wait ((if s.master = s.dev.chip then s.joinChip k else s.sendJoin k s.master).setPhase h.q 1 0)
    else if s.joinOpen k then .wait s else .fin s 0 0

end Sys2Proof.Machine
end

