-- ==== Sys2Proof/Machine/Units.lean ====
section
/-! DEFINITION. The work of an engine command: its tile-transfer pieces (R69), bank locks (R66, R70),
its reads and writes of memory (R155, R167), and its end (R159, R160, R431, R436). -/

namespace Sys2Proof.Machine

/-! ### The command in the state -/

def State.cmd? (s : State) (cl id : Nat) : Option Cmd := (s.cl cl).a.cmds.find? fun k => k.id == id
def State.setCmd (s : State) (cl : Nat) (k : Cmd) : State :=
  s.onA cl fun a => { a with cmds := a.cmds.map fun j => if j.id == k.id then k else j }
def State.dropCmd (s : State) (cl id : Nat) : State := s.onA cl fun a => { a with cmds := a.cmds.filter fun j => j.id != id }

/-- A request of unit `j` of a command is on its way. -/
def State.unitSent (s : State) (cl id j : Nat) : Bool := s.fetchSent (.cmd cl id j)

/-- The load-queue slot that a TLDQ reserved. -/
def State.onSlot (s : State) (cl : Nat) (k : Cmd) (f : LSlot → LSlot) : State :=
  s.onX cl fun x => { x with lq := NMap.set [] x.lq k.aux ((NMap.get [] x.lq k.aux).map fun l => if l.cmd == k.id && !l.ready then f l else l) }

/-- A command fails: one arrival with its code adds every byte not yet counted, and the command is complete (R160). A TLDQ makes its
slot ready, poisoned (R298). -/
def State.failCmd (s : State) (cl : Nat) (k : Cmd) (err : Nat) : State :=
  let s := s.arriveAt k.word (k.count - k.counted) err
  let s := if k.kind = .tldq then s.onSlot cl k fun l => { l with ready := true, poison := true } else s
  s.dropCmd cl k.id

/-- A translation fault of a command: its task is stopped and parked, also while it is suspended (R51); in mode S it
traps, and nothing has issued after it (R52, log 82). -/
def State.cmdFault (s : State) (cl : Nat) (k : Cmd) (kind acc agent va : Nat) : State :=
  let s := s.dropVa k.cid va
  if k.mode = .s then (s.dropCmd cl k.id).takeTrap cl 6 kind (BitVec.ofNat 64 va) false k.pc
  else match s.runsOn k.node k.task with
    | some c => s.taskFault c kind acc agent va
    | none =>
      (s.faultRecord k.cid { page := va / 65536, kind := kind, acc := acc, agent := agent, node := k.node, task := k.task,
                             gtc := s.gtc }).unsuspend k.node k.task (.park [va / 65536])

/-- Poison consumed by a command (R436): a record, and the command fails; firmware's in the reserved region asks for a device
reset. -/
def State.cmdPoison (s : State) (cl : Nat) (k : Cmd) (mem addr : Nat) : State :=
  let s := if k.mode == .s && mem == 1 && decide (s.dev.rsvBase ≤ addr) then s.report srcSamovar 7 0x0C 0 4 0 addr mem 0
    else s.report (srcCl cl 4) 3 3 k.cid 4 0 addr mem 0
  s.failCmd cl k 4

/-- A protection mismatch of a command (R288, R431): its arrivals end with ERR 0x05, and one rung-4 record of this cluster is written; its task
takes the trap at its next boundary, wherever it has been resumed, and one that is suspended is aborted and requeued. -/
def State.cmdMismatch (s : State) (cl : Nat) (k : Cmd) (addr : Nat) : State :=
  let d := mismatchDetail (k.pcl == 2)
  let t := s.failCmd cl k 5
  if k.mode = .s then t.mismatchA cl 4 false (k.pcl == 2) 5 addr
  else match s.runsOn k.node k.task with
    | some c =>
      ((t.report (srcCl cl 4) 4 0x06 k.cid 5 d addr 0 addr).countRung4 cl k.node k.task).onA c fun a =>
        { a with due := a.due.orElse fun _ => some { code := 7, detail := d, tval := addr, slot := 1 } }
    | none => t.taskRung4 cl k.node k.task k.cid 4 6 5 d addr addr

/-- The agent bit of a command in a fault record (R55). -/
def Cmd.agent (k : Cmd) : Nat :=
  match k.kind with
  | .gather => 4
  | .tfill | .tdrain => 8
  | .nmred | .nmcas | .nmsax => 64
  | _ => 2

/-! ### Reads and writes of global memory -/

/-- Bytes read for a command. -/
def State.gotUnit (s : State) (cl : Nat) (k : Cmd) (j i : Nat) (bs : List Byte) : State :=
  s.setCmd cl { k with got := k.got ++ [j], buf := Memory.write k.buf i bs }

/-- Bytes of a command have performed. -/
def State.didUnit (s : State) (cl : Nat) (k : Cmd) (j n : Nat) : State :=
  s.setCmd cl { k with done := k.done ++ [j], performed := k.performed + n }

/-- The requests for bytes of another chip's memory, in 32-byte granules (R167, R469); they wait for free tags. -/
def State.requestGranules (s : State) (peer : Nat) (o : ReqBy) (cs : List (Nat × List Byte)) (m : ReqId → Nat → List Byte → Msg) : State :=
  if !s.tagsFree o.agent cs.length then s
  else cs.foldl (fun s (a, bs) => s.request peer o fun tag => m tag a bs) s

/-- The next page of a command after the one of `va`, of `size` bytes, and the permissions of the access there (R49). DESIGN CHOICE, for two
global endpoints and for falling strides: the page of the first address of a higher page that the command has still to access, its source before
its destination (log 106). -/
def Cmd.nextPage (k : Cmd) (size va : Nat) : Option (Nat × List Nat) :=
  (k.openUnits.find? fun u => decide (va / size < u.1 / size)).map fun u =>
    (u.1, if u.2 = 0 then [pER] else if u.2 = 1 then [pEW] else [pER, pEW])

/-- The addresses in global memory that a command has accessed. -/
def Cmd.touched (k : Cmd) : List Nat :=
  match k.kind with
  | .gather => k.got.flatMap fun j =>
      (List.range (patRows k.pat)).map fun i => (k.elemAddr (bits k.aux 31 0 + j * patStep k.pat) (bits k.aux 63 32 + i)).1
  | .nmred | .nmcas | .nmsax => k.done.map fun j => (k.nmSpan j).a
  | _ =>
    (match k.src with
    | .va _ => k.got.map fun j => (k.srcUnit j).a
    | _ => [])
    ++ match k.dst with
      | .va _ => (k.done.filter fun j => decide (j < k.srcUnits + k.dstUnits)).map fun j => (k.dstUnit (j - k.srcUnits)).a
      | _ => []

/-- The size of the page through which a cache translates an address. -/
def State.pageSize (s : State) (cl cid va : Nat) (v : Via) : Nat :=
  match (s.tlbOf cl v).find? fun t => t.covers cid va with
  | some t => if t.big then 2 ^ 25 else 2 ^ 16
  | none => 2 ^ 16

/-- The translation of an access of a command (R43, R49): with its first access to a page the translation of the next page is fetched ahead, of
which nothing comes if it faults or waits. `before` are addresses accessed in the same unit of work. -/
def State.reach (s : State) (cl : Nat) (k : Cmd) (va : Nat) (need : List Nat) (before : List Nat := []) : Target × State :=
  match s.resolve cl k.cid va k.via need with
  | (.at_ p pa, t) =>
    let z := t.pageSize cl k.cid va k.via
    if (k.touched ++ before).any fun a => a / z == va / z then (.at_ p pa, t)
    else match k.nextPage z va with
      | none => (.at_ p pa, t)
      | some (n, ns) => (.at_ p pa, match t.resolve cl k.cid n k.via ns with
        | (.at_ _ _, u) => u
        | _ => t)
  | r => r

/-- Unit `j` of a command is read from global memory at span `x` (R43, R97, R436): at once from local HBM, by requests from elsewhere. -/
def State.readUnit (s : State) (cl : Nat) (k : Cmd) (j : Nat) (x : Span) : State :=
  if s.unitSent cl k.id j then s
  else match s.reach cl k x.a [pER] with
    | (.fault e, t) => t.cmdFault cl k e 0 k.agent x.a
    | (.waits, t) => t
    | (.poison a, t) => t.walkPoison cl k.cid a
    | (.at_ .hbm pa, t) =>
      (match t.hbmRead pa x.n with
      | .ok bs => t.gotUnit cl k j x.i bs
      | .poison => t.cmdPoison cl k 1 pa
      | .waits | .retry | .offline => t)
    | (.at_ (.remote c) pa, t) =>
      t.requestGranules c (.cmd cl k.id j) (chunks 32 pa (List.replicate x.n 0)) fun tag a bs => .read tag a bs.length
    | (.at_ _ pa, t) => t.hostRequest (.cmd cl k.id j) pa x.n

/-- `n` bytes of a command's unit `j` are written to global memory at span `x` (R117, R131, R132, R147, R166): at once into local HBM
and the host window, by requests elsewhere. A staged write without a frame is dropped with its transaction (R127). -/
def State.writeUnit (s : State) (cl : Nat) (k : Cmd) (j : Nat) (x : Span) (bs : List Byte) : State :=
  if s.unitSent cl k.id j then s
  else match s.reach cl k x.a [pEW] with
    | (.fault e, t) => t.cmdFault cl k e 1 k.agent x.a
    | (.waits, t) => t
    | (.poison a, t) => t.walkPoison cl k.cid a
    | (.at_ .hbm pa, t) =>
      (match t.hbmWrite pa bs with
      | .ok u => (u.engineDrop cl pa x.n).didUnit cl k j x.n
      | .waits u => u
      | .retry | .offline => t
      | .noFrame u cid slot => (u.txAbort cid slot 0x3B).didUnit cl k j x.n)
    | (.at_ (.remote c) pa, t) => t.requestGranules c (.cmd cl k.id j) (chunks 32 pa bs) Msg.write
    | (.at_ _ pa, t) => ({ t with hostMem := t.hostMem.write (pa - 0x80000000000) bs } : State).didUnit cl k j x.n

end Sys2Proof.Machine
end

