-- ==== Sys2Proof/Machine/Scalar.lean ====
section
/-! DEFINITION. The performing of scalar accesses: loads and their values, stores and atomics at the head of the scalar store
queue (R140-R147, R288-R293, R431-R436). -/

namespace Sys2Proof.Machine

/-! ### Ends of an access -/

/-- An access of cluster `cl` is outstanding no more. With the last write of an aborted task its node may be complete (R397). -/
def State.dropAcc (s : State) (cl seq : Nat) : State :=
  let t := s.onA cl fun a => { a with loads := a.loads.filter fun l => l.seq != seq, stores := a.stores.filter fun l => l.seq != seq }
  match (s.cl cl).a.stores.find? fun l => l.seq == seq && l.orphan with
  | some l => t.completeNode (l.late.getD (0, 0)).1
  | none => t

/-- The value of a load or an atomic is fixed: it has performed, and an acquire is satisfied (R140, R144). An atomic of an aborted task
returns nothing. -/
def State.fixValue (s : State) (cl : Nat) (l : Acc) (v : Nat) : State :=
  let f (m : Acc) : Acc := if m.seq == l.seq then { m with val := some v } else m
  let t := s.onA cl fun a => { a with loads := a.loads.map f, stores := a.stores.map f }
  if l.orphan then s.dropAcc cl l.seq else if l.aq then t.acquired cl l.scope else t

/-- The value of an access reaches its register (R289, R291, R293). -/
def State.returnValue (s : State) (cl : Nat) (l : Acc) (v : Nat) : State :=
  (s.onCl cl fun c => c.setG (BitVec.ofNat 6 l.dst) (loadValue l.sx l.size v)).dropAcc cl l.seq

/-- Poison met by a scalar access (R436): firmware's in the reserved region, or with no task on the cluster, asks for a device reset and
stops the core. For an atomic of an aborted task there is only the record. -/
def State.scalarPoison (s : State) (cl : Nat) (u : MemUnit) (l : Acc) : State :=
  if l.orphan then (s.report (srcCl cl 0) 4 0x04 l.cid 0x04 0 l.va (memKind u) 0).dropAcc cl l.seq
  else if (s.cl cl).a.mode = .s && (decide (l.place = .hbm ∧ s.dev.rsvBase ≤ l.pa) || (s.cl cl).ctl.occ == .free) then
    ((s.firmPoison cl l.pa (memKind u)).dropAcc cl l.seq).onA cl fun a => { a with run := .dead, wait := none }
  else s.corePoison cl u l.va

/-- Cluster and address of a scratchpad access. -/
def Acc.home (l : Acc) : Nat := l.pa / 4194304
def Acc.spAddr (l : Acc) : Nat := l.pa % 4194304

/-- The check unit of an access. -/
def State.accUnit (s : State) (l : Acc) : MemUnit :=
  match l.place with
  | .sp => .sp l.home (l.spAddr / 32)
  | _ => .hbm ((s.homeOf (pageOf l.pa) + l.pa % 65536) / 64)

/-! ### Loads -/

/-- A line put into an L1 of 512 lines in place of any of its physical address, the oldest leaving (R147, log 10). -/
def ACore.l1Fill (a : ACore) (pa va : Nat) (bs : List Byte) : ACore :=
  let e : CLine := { cid := 0, addr := lineOf pa, va := lineOf va, data := bs }
  let ls := a.l1.filter fun l => l.addr != lineOf pa
  { a with l1 := (ls ++ [e]).drop (ls.length + 1 - 512) }

/-- The bytes of an access within the 64-byte line that holds it. -/
def Acc.ofLine (l : Acc) (bs : List Byte) : Nat := ofBytes ((bs.drop (l.pa % 64)).take l.size)

/-- A load's value is fixed and returns at once. -/
def State.loaded (s : State) (cl : Nat) (l : Acc) (v : Nat) : State :=
  (if l.aq then s.acquired cl l.scope else s).returnValue cl l v

/-- A load reads at its place (R68, R140, R147, R436): the L1 serves local HBM but no acquire, at which a line
that it holds leaves, since it may be older (R141); other chips and the host answer later. DEDUCED: every access to a sealed page waits, a
hit in the L1 among them, since R132 says "every access" and R147 gives only what a hit returns (log 103). -/
def State.loadPlace (s : State) (cl : Nat) (l : Acc) : State :=
  match l.place with
  | .sp =>
    if s.spPoisoned l.home l.spAddr l.size then s.scalarPoison cl (s.accUnit l) l else s.loaded cl l (s.spReadN l.home l.spAddr l.size)
  | .hbm =>
    if s.sealed (pageOf l.pa) then s else
    (match if l.aq then none else (s.cl cl).a.l1Line l.pa l.va with
    | some c => s.loaded cl l (l.ofLine c.data)
    | none =>
      match s.hbmRead (lineOf l.pa) 64 with
      | .ok bs => (s.onA cl fun a => if l.aq then a.l1Drop l.pa l.size else a.l1Fill l.pa l.va bs).loaded cl l (l.ofLine bs)
      | .poison => s.scalarPoison cl (s.accUnit l) l
      | .waits | .retry | .offline => s)
  | .remote c => if s.fetchSent (.acc cl l.seq) then s else s.request c (.acc cl l.seq) fun tag => .read tag l.pa l.size
  | .host => if s.fetchSent (.acc cl l.seq) then s else s.hostRequest (.acc cl l.seq) l.pa l.size

/-- The bytes of a load within a store that covers it wholly. -/
def Acc.forwarded (st l : Acc) : Option Nat :=
  if st.word.isNone && decide (st.pa ≤ l.pa) && decide (l.pa + l.size ≤ st.pa + st.size) then
    some (st.data / 256 ^ (l.pa - st.pa) % 256 ^ l.size)
  else none

/-! ### Refused accesses (R61, R63) -/

/-- The permissions of a scalar access and its access code. -/
def Acc.kindOf (l : Acc) : ScalarKind := { op := l.op, store := l.store, aq := l.aq, rl := l.rl }

/-- A translation fault of an access already accepted (R51, R52): of the task on the cluster; of one that left a store behind, which is parked,
or, if it had been aborted, only recorded; or of firmware, a trap that names the access itself, after which nothing has issued (log 82). -/
def State.accFault (s : State) (cl : Nat) (l : Acc) (kind : Nat) : State :=
  let r (node task : Nat) : FRec := { page := l.va / 65536, kind := kind, acc := l.kindOf.acc, agent := 1, node := node, task := task, gtc := s.gtc }
  match l.late with
  | none =>
    let s := s.dropVa l.cid l.va
    if l.cid = 0 then (s.dropAcc cl l.seq).takeTrap cl 6 kind (BitVec.ofNat 64 l.va) false l.pc
    else (s.dropAcc cl l.seq).taskFault cl kind l.kindOf.acc 1 l.va
  | some (node, task) =>
    let t := (s.dropVa l.cid l.va).dropAcc cl l.seq
    if l.orphan then t.faultRecord l.cid (r node task)
    else
      match t.runsOn node task with
      | some c => t.taskFault c kind l.kindOf.acc 1 l.va
      | none => (t.faultRecord l.cid (r node task)).unsuspend node task (.park [l.va / 65536])

/-- A refused scalar access gets a new translation, and keeps its place in the order; while the walk waits it is marked, and translates anew
before it is tried again (R63). -/
def State.retranslate (s : State) (cl : Nat) (l : Acc) : State :=
  match (s.dropVa l.cid l.va).resolve cl l.cid l.va .acore l.kindOf.perms with
  | (.fault e, t) => t.accFault cl l e
  | (.waits, t) =>
    let f (m : Acc) : Acc := if m.seq == l.seq then { m with redo := true } else m
    t.onA cl fun a => { a with loads := a.loads.map f, stores := a.stores.map f }
  | (.poison a, t) => t.walkPoison cl l.cid a
  | (.at_ p pa, t) =>
    let f (m : Acc) : Acc := if m.seq == l.seq then { m with place := p, pa := pa, xl := s.nextMsg, redo := false } else m
    t.onA cl fun a => { a with loads := a.loads.map f, stores := a.stores.map f }

/-! ### Loads perform -/

/-- A pending load performs, unless something holds it back (R141-R147, R153): an earlier store to its bytes forwards to it, or delays
it until it has performed. -/
def State.performLoad (s : State) (cl : Nat) (l : Acc) (evict : Bool) : State :=
  let a := s.runA cl
  if a.heldBack (s.openCmds cl l.scope (s.runCmds cl)) cl l (!l.aq) || (l.place == .sp && s.spBlocked cl (some l.seq) false l.home l.spAddr l.size) then s
  else match if l.aq then none else a.forwarder l with
    | some st =>
      (match st.forwarded l with
      | some v => (s.onA cl fun a => { a with stores := a.stores.map fun m => if m.seq == st.seq then { m with seen := true } else m }).loaded cl l v
      | none => s)
    | none => (if evict && l.place == .hbm then s.onA cl fun a => a.l1Drop l.pa l.size else s).loadPlace cl l

/-- LOAD_VALUE_RETURN (R289): the value of a load or an atomic returns; `evict` says that the line leaves the L1 before (R147). -/
def execLoadValueReturn (cl seq : Nat) (evict : Bool) (s : State) : Out :=
  match (s.cl cl).a.accs.find? fun l => l.seq == seq && (!l.store || l.op.isSome) with
  | none => .next s
  | some l =>
    match l.val with
    | some v => .next (s.returnValue cl l v)
    | none => .next (if l.op.isSome then s else if l.redo then s.retranslate cl l else s.performLoad cl l evict)

/-! ### Stores and atomics -/

/-- What holds a store back. A store that its task left waiting when it was suspended follows only such stores and commands of that
task. -/
def State.storeHeld (s : State) (cl : Nat) (l : Acc) : Bool :=
  let a := (s.cl cl).a
  match l.late with
  | none => (s.runA cl).heldBack (s.openCmds cl l.scope (s.runCmds cl)) cl l false
  | some (n, t) =>
    ({ a with loads := [], stores := a.stores.filter fun m => m.late == l.late } : ACore).heldBack
      (s.openCmds cl l.scope (a.cmds.filter fun k => k.mode == .t && k.node == n && k.task == t)) cl l false

/-- A store, an atomic or a write of a completion word performs in a scratchpad (R68, R160, R293, R307). -/
def State.storeSp (s : State) (cl : Nat) (l : Acc) : State :=
  match l.word, l.op with
  | some (false, target, _), _ => (s.onWord (l.home, l.spAddr) fun w => wordSet w target).dropAcc cl l.seq
  | some (true, n, err), _ => (s.onWord (l.home, l.spAddr) fun w => arrive w n err).dropAcc cl l.seq
  | none, none => (s.softWrite l.home l.spAddr (toBytes l.size l.data)).dropAcc cl l.seq
  | none, some op =>
    if s.spPoisoned l.home l.spAddr l.size then s.scalarPoison cl (s.accUnit l) l
    else
      let old := s.spReadN l.home l.spAddr l.size
      let t := match amoNew op l.size old l.data l.exp with
        | some v => s.softWrite l.home l.spAddr (toBytes l.size v)
        | none => s
      t.fixValue cl l old

/-- A page closed by an abort, which drops every write (R135). -/
def State.closed (s : State) (p : Nat) : Bool := tagMode (s.tag p) == 3

/-- A store that performs updates the line in the L1 of its cluster, and that of the cluster to which its task has moved since (R141, R147). -/
def State.storeLines (s : State) (cl : Nat) (l : Acc) : State :=
  let t := s.onA cl fun a => a.l1Update l.pa (toBytes l.size l.data)
  match l.late.bind fun p => if l.orphan then none else s.runsOn p.1 p.2 with
  | some c => t.onA c fun a => a.l1Update l.pa (toBytes l.size l.data)
  | none => t

/-- A store or an atomic performs in local HBM (R97, R117, R127, R131, R132, R147, R293). One that a closed page drops leaves the L1 as it is
(log 103). -/
def State.storeHbm (s : State) (cl : Nat) (l : Acc) : State :=
  match l.op with
  | none =>
    (match s.hbmWrite l.pa (toBytes l.size l.data) with
    | .ok u => ((if s.closed (pageOf l.pa) then u else u.storeLines cl l)).dropAcc cl l.seq
    | .waits u => u
    | .noFrame u cid slot => (u.txAbort cid slot 0x3B).dropAcc cl l.seq
    | .retry | .offline => s)
  | some op =>
    match s.hbmRead l.pa l.size with
    | .ok bs =>
      (let t := s.onA cl fun a => a.l1Drop l.pa l.size
      match amoNew op l.size (ofBytes bs) l.data l.exp with
      | none => t.fixValue cl l (ofBytes bs)
      | some v =>
        match t.hbmWrite l.pa (toBytes l.size v) with
        | .ok u => u.fixValue cl l (ofBytes bs)
        | .waits u => u
        | .noFrame u cid slot => (u.txAbort cid slot 0x3B).fixValue cl l (ofBytes bs)
        | .retry | .offline => s)
    | .poison => s.scalarPoison cl (s.accUnit l) l
    | .waits | .retry | .offline => s

/-- A store or an atomic leaves the cluster (R166, R293): those to other chips and atomics in the host window await an answer. -/
def State.storePlace (s : State) (cl : Nat) (l : Acc) : State :=
  match l.place, l.op with
  | .sp, _ => s.storeSp cl l
  | .hbm, _ => s.storeHbm cl l
  | .remote c, none => s.request c (.acc cl l.seq) fun tag => .write tag l.pa (toBytes l.size l.data)
  | .remote c, some op => s.request c (.acc cl l.seq) fun tag => .atomic tag l.pa l.size op l.data l.exp
  | .host, none => ({ s with hostMem := s.hostMem.write (l.pa - 0x80000000000) (toBytes l.size l.data) } : State).dropAcc cl l.seq
  | .host, some _ => s.hostRequest (.acc cl l.seq) l.pa l.size

/-- The store or atomic `seq` is still in its queue, with nothing sent. -/
def State.storeWaits (s : State) (cl seq : Nat) : Bool :=
  (s.cl cl).a.stores.any (fun l => l.seq == seq && l.pending) && !s.fetchSent (.acc cl seq)

/-- A store or atomic leaves its queue: from now on it performs whatever becomes of its task (R51). -/
def State.leaveQueue (s : State) (cl seq : Nat) : State :=
  s.onA cl fun a => { a with stores := a.stores.map fun l => if l.seq == seq then { l with left := true } else l }

/-- The Vigil core finds a divergence at a store (R433): of the task on the cluster, or of one that left it behind when it was suspended. -/
def State.storeDiverges (s : State) (cl : Nat) (l : Acc) : State :=
  match l.late with
  | none => s.divergence cl .access l.pc.toNat
  | some (e, t) => (s.dropAcc cl l.seq).taskRung4 cl e t l.cid 2 0x07 0 0 l.pc.toNat 0 (vigilInfo .access)

/-- The copies of a store mismatch (R288, R431): it does not leave the cluster, and the trap follows. -/
def State.storeMismatch (s : State) (cl : Nat) (l : Acc) : State :=
  match l.late with
  | none => (s.dropAcc cl l.seq).mismatchA cl 0 (l.cid != 0) (l.pcl == 2) 7 l.va
  | some (e, t) => (s.dropAcc cl l.seq).taskRung4 cl e t l.cid 0 0x06 7 (mismatchDetail (l.pcl == 2)) l.va l.va

/-- SCALAR_STORE_PERFORM (R51, R286, R288, R291, R293, R430-R433): once nothing holds it back, the Vigil core matches the store or atomic
and its copies are compared, once; then it leaves the queue and performs. -/
def execScalarStorePerform (cl seq : Nat) (vigil : Bool) (cmp : Cmp) (s : State) : Out :=
  match (s.cl cl).a.stores.find? fun l => l.seq == seq && l.pending with
  | none => .next s
  | some l =>
    if s.fetchSent (.acc cl seq) || s.storeHeld cl l || (l.place == .sp && s.spBlocked cl (some l.seq) true l.home l.spAddr l.size) then .next s
    else if l.redo then .next (s.retranslate cl l)
    else if l.left then .next (s.storePlace cl l)
    else if !(vigil && l.vig) then .next (s.storeDiverges cl l)
    else if cmpFails l.pcl cmp then .next (s.storeMismatch cl l)
    else
      let t := (s.leaveQueue cl seq).storePlace cl { l with left := true }
      .next (if l.pcl == 2 && cmp == .dissent then t.dissent cl 0 l.va else t)

end Sys2Proof.Machine
end

