-- ==== Sys2Proof/Machine/Transfer.lean ====
section
/-! DEFINITION. Engine commands at work: their start (R143, R286, R432), tile transfers (R69-R71, R82, R83), units of global memory and of
towers (R87, R94, R97, R156, R162), gathers (R109-R111), near-memory requests (R100-R105, R306) and arrivals (R159, R160). -/

namespace Sys2Proof.Machine

/-! ### Order among commands (R143, R156) -/

/-- What keeps a command from beginning (R143 rule 4, R144, R145): an earlier access of its class or an earlier acquire; for a message, what
its release covers, and an earlier message to the same target (R80). -/
def State.startBlocked (s : State) (cl : Nat) (k : Cmd) : Bool :=
  let ks := s.cmdsWith cl k
  let as := s.accsWith cl k
  let sent (j : Cmd) : Bool := j.kind == .msend && j.started
  as.any (fun l => l.pending && decide (l.seq < k.seq) && (l.cls == k.cls || l.aq))
    || (k.kind == .msend
        && (!({ (s.cl cl).a with loads := [], stores := as } : ACore).drained (s.openCmds cl k.scope (ks.filter fun j => !sent j)) cl k.seq (2 ^ k.cls) k.scope
            || ({ (s.cl cl).a with stores := as } : ACore).seenPending cl k.seq k.scope
            || (s.cl cl).a.cmds.any fun j => j.kind == .msend && decide (j.id < k.id) && bits j.aux 13 0 == bits k.aux 13 0))

/-! ### The check of a gather (R110) -/

/-- Bytes of one column's output. -/
def Cmd.colLen (k : Cmd) : Nat :=
  if patOut k.pat then 32 * cdiv (patRows k.pat * (patPlanes k.pat + 2)) 256 else patRows k.pat * (fmtBits (recFmt (k.tpl.getD 0)) / 8)

/-- The code with which the check of a gather fails. -/
def Cmd.gatherErr (k : Cmd) : Option Nat :=
  let p := k.pat
  let r := k.tpl.getD 0
  if k.kind != .gather then none
  else if !bit p 12 || bits p 11 0 != k.cid then some 0x20
  else if recRank r < 2 || (!patOut p && (recFmt r == 0x15 || fmtPlanes (recFmt r)))
      || (patOut p && !(([0x10, 0x11, 0x12, 0x13, 0x14, 0x15, 0, 1, 4, 5] : List Nat).contains (recFmt r))) then some 0x21
  else if recExt r 0 ≤ bits k.aux 31 0 + (patCols p - 1) * patStep p || recExt r 1 < bits k.aux 63 32 + patRows p then some 0x22
  else if patPitch p < k.colLen || (patCols p - 1) * patPitch p + k.colLen != k.count then some 0x23
  else none

/-- A gather fails with its code and the unit's record (R110). -/
def State.gatherFail (s : State) (cl : Nat) (k : Cmd) (code : Nat) : State :=
  let (c, a) := match k.dst with
    | .sp c a => (c, a)
    | _ => (cl, 0)
  (s.report (0x2200 + clCol c % 8) 3 0x0D k.cid code 0 (spLoc c a) 0 0).failCmd cl k code

/-! ### Messages (R78-R81, R311) -/

/-- The message of an MSEND, with the payload it has read. -/
def State.mailOf (s : State) (cl : Nat) (k : Cmd) : MailMsg :=
  { srcChip := s.dev.chip, srcCl := cl, chip := bits k.aux 13 8, cl := bits k.aux 7 0, cid := k.cid, id := k.id, tag := bits k.aux 63 32,
    payload := k.buf.read 0 k.count }

/-- A message of a command goes out, on the path of its cluster and class (R466). -/
def State.post (s : State) (k : Cmd) (m : MailMsg) : State :=
  if m.chip = s.dev.chip then { s with mailFlight := s.mailFlight ++ [m] } else s.send m.chip (.mail m) (16 * m.srcCl + k.cls)

/-- The send status of a command's core changes: that of the cluster where its task runs, or of its suspension record (R424). -/
def State.onSend (s : State) (cl : Nat) (k : Cmd) (f : SendStat → SendStat) : State :=
  if k.mode = .s then s.onA cl fun a => { a with send := f a.send }
  else match s.runsOn k.node k.task with
    | some c => s.onA c fun a => { a with send := f a.send }
    | none => s.onNode k.node fun n =>
        { n with susp := n.susp.map fun r => if r.task == k.task then { r with a := { r.a with send := f r.a.send } } else r }

/-- A message refused as disabled: the send status and a record say so, and the command is complete (R80, R311). -/
def State.mailRefused (s : State) (cl : Nat) (k : Cmd) : State :=
  ((s.onSend cl k fun v => { v with refused := true }).report (srcCl cl 0) 0 0x11 k.cid 0 0 (bits k.aux 13 0) 0 0).dropCmd cl k.id

/-- A unit of work of a command whose copies are compared before it (R288, R431). -/
def State.withCmp (s : State) (cl : Nat) (k : Cmd) (cmp : Cmp) (addr : Nat) (go : State → State) : State :=
  if cmpFails k.pcl cmp then s.cmdMismatch cl k addr
  else if k.pcl == 2 && cmp == .dissent then (go s).dissent cl 4 addr else go s

/-- The granules of a run of bytes that is written whole are compared one by one, in ascending order, and each with the copies that `cmps` says
(R288): how many bytes pass before a mismatch, the places of the dissents, and that of the mismatch. -/
def passBytes (pcl : Nat) : List (Nat × Nat) → List Cmp → Nat × List Nat × Option Nat
  | [], _ => (0, [], none)
  | (a, n) :: gs, cmps =>
    let c := cmps.headD .agree
    if cmpFails pcl c then (0, [], some a)
    else
      let (m, ds, e) := passBytes pcl gs cmps.tail
      (n + m, if pcl == 2 && c == .dissent then a :: ds else ds, e)

/-- The granules of a run of bytes: address and length. -/
def granulesIn (a n : Nat) : List (Nat × Nat) :=
  (granulesOf a n).map fun g => (Nat.max a (32 * g), Nat.min (a + n) (32 * g + 32) - Nat.max a (32 * g))

/-- A run of `n` bytes at `a` of a command is about to be written: the granules before a mismatch are (R288, R431); a unit that is written as
one is not written at all. -/
def State.withCmps (s : State) (cl : Nat) (k : Cmd) (cmps : List Cmp) (a n : Nat) (whole : Bool) (go : Nat → State → State) : State :=
  let (m, ds, e) := passBytes k.pcl (granulesIn a n) cmps
  let t := if m = 0 || (whole && e.isSome) then s else go m s
  let t := ds.foldl (fun t a => t.dissent cl 4 a) t
  match e with
  | some x => t.cmdMismatch cl k x
  | none => t

/-- An MSEND reads its payload, which is compared granule by granule, and sends it whole; a fenced chip refuses it at once (R288, R311). -/
def State.sendMail (s : State) (cl : Nat) (k : Cmd) (cmps : List Cmp) : State :=
  match k.src with
  | .sp c a =>
    if s.spBlocked cl (some k.seq) false c a k.count || s.granuleHeld cl k [(c, a, k.count)] then s
    else if s.spPoisoned c a k.count then s.cmdPoison cl k 2 (spLoc c a)
    else
      let go (s : State) : State :=
        let k := { k with started := true, buf := Memory.write [] 0 (s.spRead c a k.count) }
        if s.fencedChip (bits k.aux 13 8) then s.mailRefused cl k else (s.setCmd cl k).post k (s.mailOf cl k)
      if k.count = 0 then go s else s.withCmps cl k cmps a k.count true fun _ => go
  | _ => s

/-! ### The start of a command -/

/-- A command that has pieces to write asks for the locks of its next one, if it has not asked yet (R70). -/
def State.askLock (s : State) (cl : Nat) (k : Cmd) : State :=
  if k.lock != 0 then s.setCmd cl k
  else if k.piece < k.pieces then
    (s.setCmd cl { k with lock := 1, ask := (s.cl cl).a.nextId }).onA cl fun a => { a with nextId := a.nextId + 1 }
  else s.setCmd cl { k with lock := 0 }

/-- The Vigil core finds that a command differs from its own (R432, R433): a double fault for firmware's; a task, wherever it is, is requeued. -/
def State.cmdDivergence (s : State) (cl : Nat) (k : Cmd) : State :=
  if k.mode = .s then s.doubleFault cl
  else s.taskRung4 cl k.node k.task k.cid 2 0x07 0 0 k.pc.toNat 0 (vigilInfo .command)

/-- ENGINE_COMMAND_START (R70, R110, R143, R286, R432, R433): once its place in the order has come, the Vigil core matches the command,
a gather is checked, and the command begins. -/
def execEngineCommandStart (cl id : Nat) (vigil : Bool) (cmps : List Cmp) (s : State) : Out :=
  match s.cmd? cl id with
  | none => .next s
  | some k =>
    if k.started || s.startBlocked cl k then .next s
    else if !(vigil && k.vig) then .next (s.cmdDivergence cl k)
    else match k.gatherErr with
      | some code => .next (s.gatherFail cl k code)
      | none => if k.kind = .msend then .next (s.sendMail cl k cmps) else .next (s.askLock cl { k with started := true })

/-- A command that has performed everything and has made its arrivals is complete (R286). A TLDQ still has its slot to make ready. -/
def State.settle (s : State) (cl id : Nat) : State :=
  match s.cmd? cl id with
  | some k => if k.hasPerformed && (k.word.isNone || decide (k.count ≤ k.counted)) && k.kind != .tldq then s.dropCmd cl id else s
  | none => s

/-! ### Tile transfers -/

/-- TILE_TRANSFER_LOCK (R70): all banks at once, unless one is locked, or an earlier waiting transfer asked for one of them. -/
def execTileTransferLock (cl id : Nat) (s : State) : Out :=
  match s.cmd? cl id with
  | none => .next s
  | some k =>
    if k.lock != 1 || !s.banksFree cl k then .next s else .next (s.lockBanks cl k)

/-- Bytes of a run of a piece. -/
def State.spanBytes (s : State) (k : Cmd) (x : Span) : List Byte :=
  if k.kind = .gather then k.buf.read x.i x.n else s.srcBytes k (k.srcIndex x.i) x.n

/-- The vertical buses of an endpoint's scratchpad are retrained, those of the file die for a TLDQ or an SQD (R476), or its cluster is being moved. -/
def State.epStalled (s : State) (cl : Nat) (e : Ep) : Bool :=
  match e with
  | .sp c _ => (s.cl c).ctl.retrainEnd.isSome || (c != cl && (s.cl c).ctl.held)
  | _ => false
def State.stalled (s : State) (cl : Nat) (k : Cmd) : Bool :=
  s.epStalled cl k.src || s.epStalled cl k.dst || ((k.kind == .tldq || k.kind == .sqd) && (s.cl cl).ctl.retrainEnd.isSome)

/-- The bytes of a granule, in runs: where each byte comes from is as for one that is the last of the command there (R156). -/
def State.granuleBytes (s : State) (k : Cmd) (g : Nat) (xs : List Span) : List (Nat × List Byte) :=
  byteRuns (32 * g) ((List.range 32).map fun o =>
    (k.byteFor xs (32 * g + o)).map fun i => (s.spanBytes k { i := i, n := 1, a := 32 * g + o }).headD 0)

/-- A piece is complete: its locks are released, a TLDQ's tile is in its slot, and the next piece asks for its banks (R70, R82). -/
def State.pieceDone (s : State) (cl : Nat) (k : Cmd) : State :=
  let t := if k.kind = .tldq then s.onSlot cl k fun l => { l with tile := bytesTile k.buf 0 } else s
  (t.askLock cl { k with performed := k.pieceEnd k.piece, piece := k.piece + 1, gran := [], lock := 0 }).settle cl k.id

/-- Granule `g` of a piece is written: into a scratchpad, or for a TLDQ into what its slot is to hold. -/
def State.writeGranule (s : State) (cl : Nat) (k : Cmd) (g : Nat) : State :=
  let xs := k.granuleSpans k.piece g
  let k := s.takeElems k (xs.flatMap fun x => (List.range x.n).map (x.i + ·))
  let k := { k with performed := k.performed + (xs.map Span.n).sum, gran := k.gran ++ [g] }
  let (t, k) : State × Cmd := match k.dst with
    | .sp c _ => ((s.granuleBytes k g xs).foldl (fun (t : State) (p : Nat × List Byte) => t.softWrite c p.1 p.2) s, k)
    | _ => (s, { k with buf := (s.granuleBytes k g xs).foldl (fun m (p : Nat × List Byte) => Memory.write m p.1 p.2) k.buf })
  if (k.granules k.piece).all k.gran.contains then t.pieceDone cl k else t.setCmd cl k

/-- What a granule reads and writes in scratchpads. -/
def Cmd.granuleSp (k : Cmd) (xs : List Span) : List (Nat × Nat × Nat) :=
  (match k.dst with
    | .sp c _ => xs.map fun x => (c, x.a, x.n)
    | _ => [])
  ++ match k.src with
    | .sp c a => (k.spReads xs).map fun x => (c, k.spAddr a x.1, x.2)
    | _ => []

/-- A granule of a piece can be written now: its piece holds its locks, its data is there, both ends can be reached, and no earlier command has
still to access it (R69-R71, R143). -/
def State.granuleDue (s : State) (cl : Nat) (k : Cmd) (g : Nat) : Bool :=
  let xs := k.granuleSpans k.piece g
  k.started && k.lock == 2 && (k.granules k.piece).contains g && !k.gran.contains g && k.runsReady xs
    && !s.stalled cl k && !s.granuleHeld cl k (k.granuleSp xs)

/-- TILE_TRANSFER_DONE (R69-R71, R82, R83, R288, R431, R436): granule `g` of a transfer that holds its locks is compared and written; with the
last one the transfer is done. Agents of its own cluster are kept off by its locks, and so see it whole. -/
def execTileTransferDone (cl id : Nat) (w : GranuleCmp) (s : State) : Out :=
  match s.cmd? cl id with
  | none => .next s
  | some k =>
    let xs := k.granuleSpans k.piece w.g
    if !s.granuleDue cl k w.g then .next s
    else match (k.spReads xs).findSome? fun x => s.srcBad k x.1 x.2 with
      | some (c, a) => .next (s.cmdPoison cl k 2 (spLoc c a))
      | none =>
        let addr := if k.kind = .tldq then epAddr k.src + 32 * w.g else 32 * w.g
        .next (s.withCmp cl k w.cmp addr fun s => s.writeGranule cl k w.g)

/-- LOAD_QUEUE_SLOT_READY (R82): the slot of a TLDQ whose tile has arrived. -/
def execLoadQueueSlotReady (cl q : Nat) (s : State) : Out :=
  match (s.cl cl).a.cmds.find? fun k => k.kind == .tldq && k.aux == q && k.hasPerformed with
  | none => .next s
  | some k =>
    if (s.cl cl).ctl.retrainEnd.isSome then .next s else .next ((s.onSlot cl k fun l => { l with ready := true }).dropCmd cl k.id)

/-! ### Units of global memory and of towers -/

/-- Destination units before unit `d` that write one of its bytes, through whichever pages, have been written (R156). -/
def State.lowerDone (s : State) (cl : Nat) (k : Cmd) (d : Nat) : Bool :=
  let x := k.dstUnit d
  (List.range d).all fun j =>
    let y := k.dstUnit j
    y.n == 0 || k.done.contains (k.srcUnits + j)
      || !(s.sameUnit cl k.cid x.a k.cid y.a && decide (x.a % 64 < y.a % 64 + y.n) && decide (y.a % 64 < x.a % 64 + x.n))

/-- Element `e` of a source in a scratchpad is read ahead of its writing (R156). -/
def State.readAhead (s : State) (cl : Nat) (k : Cmd) (e : Nat) : State :=
  match k.src, k.spElem with
  | .sp c a, some z =>
    let p := k.spAddr a (e * z)
    let n := k.elemLen z e
    if k.srcTotal ≤ e * z || k.got.contains e || s.spBlocked cl (some k.seq) false c p n || s.granuleHeld cl k [(c, p, n)] then s
    else match s.srcBad k (e * z) n with
      | some (c, a) => s.cmdPoison cl k 2 (spLoc c a)
      | none => s.setCmd cl (s.readElems k [e])
  | _, _ => s

/-- The source bytes of a run can be taken: they have been read, or their scratchpad is free. -/
def State.srcReady (s : State) (cl : Nat) (k : Cmd) (x : Span) : Bool :=
  match k.src with
  | .sp c a => (k.spReads [x]).all fun y => !s.spBlocked cl (some k.seq) false c (k.spAddr a y.1) y.2
      && !s.granuleHeld cl k [(c, k.spAddr a y.1, y.2)]
  | _ => k.readAll && k.has (k.srcIndex x.i) x.n

/-- A poisoned scratchpad unit among the source bytes of a run. -/
def State.runBad (s : State) (k : Cmd) (x : Span) : Option (Nat × Nat) := (k.spReads [x]).findSome? fun y => s.srcBad k y.1 y.2

/-- The command with the source elements of a run, and the bytes of its first `n`. -/
def State.runBytes (s : State) (k : Cmd) (x : Span) (n : Nat) : Cmd × List Byte :=
  let k := s.takeElems k ((List.range x.n).map (x.i + ·))
  (k, s.srcBytes k (k.srcIndex x.i) n)

/-- Unit `j` of a command on local HBM, another chip or the host window, of a write the first `n` bytes: its source units come first, then its
destination units, then the sequence stamp, which follows every other byte (R162, R302); numbers above these are elements of a source in a
scratchpad. A unit waits for earlier commands (R104, R143). -/
def State.globalUnit (s : State) (cl : Nat) (k : Cmd) (j n : Nat) : State :=
  let d := j - k.srcUnits
  let x := k.dstUnit d
  if !k.started then s
  else if k.dstUnits < d then s.readAhead cl k (d - k.dstUnits - 1)
  else if j < k.srcUnits then
    match k.src with
    | .va _ => if (k.srcUnit j).n == 0 || k.got.contains j || s.unitHeld cl k (k.srcUnit j).a then s else s.readUnit cl k j (k.srcUnit j)
    | _ => s
  else match k.dst with
    | .va _ =>
      if d < k.dstUnits then
        if x.n == 0 || k.done.contains j || !s.srcReady cl k x || !s.lowerDone cl k d || s.unitHeld cl k x.a then s
        else match s.runBad k x with
          | some (c, a) => s.cmdPoison cl k 2 (spLoc c a)
          | none => s.writeUnit cl (s.runBytes k x n).1 j { x with n := n } (s.runBytes k x n).2
      else match k.stamp with
        | some v =>
          if d = k.dstUnits && k.count ≤ k.performed && !k.done.contains j && !s.unitHeld cl k k.aux then
            s.writeUnit cl k j { i := 0, n := 8, a := k.aux } (toBytes 8 v)
          else s
        | none => s
    | _ => s

/-- Destination unit `j`, or the stamp, is about to be written: its copies are compared now (R288). -/
def State.unitDue (s : State) (cl : Nat) (k : Cmd) (j : Nat) : Bool :=
  let d := j - k.srcUnits
  let x := k.dstUnit d
  k.started && decide (k.srcUnits ≤ j) && !k.done.contains j && !s.unitSent cl k.id j
    && (if d < k.dstUnits then x.n != 0 && s.srcReady cl k x && s.lowerDone cl k d && (s.runBad k x).isNone && !s.unitHeld cl k x.a
        else k.stamp.isSome && d == k.dstUnits && decide (k.count ≤ k.performed) && !s.unitHeld cl k k.aux)

/-- The bytes of destination unit `j`, or of the stamp: address and length. -/
def Cmd.unitRun (k : Cmd) (j : Nat) : Nat × Nat :=
  if j - k.srcUnits < k.dstUnits then ((k.dstUnit (j - k.srcUnits)).a, (k.dstUnit (j - k.srcUnits)).n) else (k.aux, 8)

/-- The write of a unit follows the comparison of its granules; a read is not compared. `go` gets the number of bytes that pass. -/
def State.unitCmp (s : State) (cl : Nat) (k : Cmd) (j : Nat) (cmps : List Cmp) (whole : Bool) (go : Nat → State → State) : State :=
  if s.unitDue cl k j then s.withCmps cl k cmps (k.unitRun j).1 (k.unitRun j).2 whole go else go (k.unitRun j).2 s

/-- HBM_UNIT_ACCESS (R97, R155, R156, R167, R288): one unit of a copy, refill or drain. -/
def execHbmUnitAccess (cl id k : Nat) (cmps : List Cmp) (s : State) : Out :=
  match s.cmd? cl id with
  | none => .next s
  | some c => .next (if c.kind.plain then s.unitCmp cl c k cmps false fun n s => (s.globalUnit cl c k n).settle cl id else s)

/-- A unit of a tower is read or written. -/
def State.towerUnit (s : State) (cl : Nat) (k : Cmd) (j : Nat) : State :=
  let d := j - k.srcUnits
  if !k.started then s
  else if j < k.srcUnits then
    match k.src with
    | .tw _ _ =>
      (let x := k.srcUnit j
      let c := k.unitCell k.src j
      if k.got.contains j then s
      else if s.twPoisoned cl c x.a x.n then s.cmdPoison cl k 3 x.a
      else s.gotUnit cl k j x.i (s.twRead cl c x.a x.n))
    | _ => s
  else match k.dst with
    | .tw _ _ =>
      (let x := k.dstUnit d
      if k.dstUnits ≤ d || k.done.contains j || !s.srcReady cl k x then s
      else match s.runBad k x with
        | some (c, a) => s.cmdPoison cl k 2 (spLoc c a)
        | none =>
          (let r := s.runBytes k x x.n
          (s.twWrite cl (k.unitCell k.dst d) x.a r.2).didUnit cl r.1 j x.n))
    | _ => s

/-- REFILL_DRAIN_TOWER_ACCESS (R87, R90, R94, R95, R288): a unit of a tower; it is replayed while its bank refreshes; one that
sleeps is woken for it and serves it, before any refresh that falls due (R94). -/
def execRefillDrainTowerAccess (cl id k : Nat) (cmps : List Cmp) (s : State) : Out :=
  match s.cmd? cl id with
  | none => .next s
  | some c =>
    let key := if k < c.srcUnits then bankKey (c.unitCell c.src k) (c.srcUnit k).a
               else bankKey (c.unitCell c.dst (k - c.srcUnits)) (c.dstUnit (k - c.srcUnits)).a
    let ctl := (s.cl cl).ctl
    if !c.kind.plain || ctl.bankRefreshing key then .next s
    else .next (s.unitCmp cl c k cmps true fun _ s => ((s.towerUnit cl c k).onCtl cl fun h => h.touch s.clk [key]).settle cl id)

/-! ### Arrivals -/

/-- The core has read a store of its own that it issued before a command and that has not performed: the arrivals of the command, as releases,
follow it (R146). -/
def State.arrivalHeld (s : State) (cl : Nat) (k : Cmd) : Bool :=
  ({ (s.cl cl).a with stores := s.accsWith cl k } : ACore).seenPending cl k.seq k.scope

/-- COMPLETION_ARRIVAL (R159, R160): `n` bytes that have performed are counted in the command's word. -/
def execCompletionArrival (cl id n : Nat) (s : State) : Out :=
  match s.cmd? cl id with
  | none => .next s
  | some k =>
    match k.word with
    | none => .next s
    | some w =>
      if Nat.min k.count k.performed < k.counted + n || s.arrivalHeld cl k || s.spBlocked cl (some k.seq) true w.1 w.2 8 then .next s
      else .next (((s.arriveAt k.word n 0).setCmd cl { k with counted := k.counted + n }).settle cl id)

/-! ### Near-memory requests -/

/-- The TYPE code of a FMT code of a record. -/
def typeOfFmt (c : Nat) : Nat :=
  match c with
  | 0 => 1 | 1 => 2 | 2 => 3 | 3 => 4 | 4 => 5 | 5 => 6 | 6 => 7 | 7 => 8
  | 0x10 => 9 | 0x11 => 0xA | 0x12 => 0xB | 0x13 => 0xC | 0x14 => 0xD | 0x15 => 0xE | 0x16 => 0xF
  | _ => 0

/-- The number format of a TYPE code. -/
def numTyOf (t : Nat) : NumTy :=
  match fmtOfType t with
  | some f => .fp f
  | none => if t = 0 then .raw 64 else if t ≤ 4 then .int (intWidth t) else .nat (intWidth t)

/-- The width in bits of a number format. -/
def numWidth : NumTy → Nat
  | .raw w | .int w | .nat w => w
  | .fp f => fmtWidth f

/-- One element of a reduction (R101, R102). -/
def redElem (t : NumTy) (y x : Nat) : Nat :=
  match t with
  | .fp f => (fadd f y x).1
  | _ => (y + x) % 2 ^ numWidth t

/-- One element of a scale-accumulate: the exact product of s and the widened x, and the sum, rounded once (R101, R102). -/
def saxElem (t : NumTy) (s y x : Nat) : Nat :=
  let w := match t with
    | .fp .bf16 => x * 65536
    | _ => x
  (ffma .f32 s w y).1

/-- Bytes of the target that a request touches. -/
def bankSize (r : BankReq) : Nat :=
  match r.op with
  | .cas => 8
  | .red => r.xs.length * (numWidth r.fmt / 8)
  | .sax => 4 * r.xs.length

/-- A request executed on the bytes it touches (R101): the new bytes. -/
def bankApply (r : BankReq) (bs : List Byte) : List Byte :=
  match r.op with
  | .cas => if ofBytes bs = r.c then toBytes 8 r.v else bs
  | .red =>
    let z := numWidth r.fmt / 8
    (r.xs.zipIdx).flatMap fun (x, i) => toBytes z (redElem r.fmt (ofBytes ((bs.drop (z * i)).take z)) x)
  | .sax => (r.xs.zipIdx).flatMap fun (x, i) => toBytes 4 (saxElem r.xfmt r.s (ofBytes ((bs.drop (4 * i)).take 4)) x)

/-- What a bank-side request finds at its HBM unit: done, with the old bytes; a wait or refusal; a dropped write; or poison; or a failed
channel. -/
inductive BankRes where
  | done (s : State) (old : List Byte) | later (s : State) | refused (offline : Bool) | poison | failed (s : State)

/-- A bank-side request at local HBM (R97, R101, R103, R105, R115, R436): it counts as a store, also an NMCAS whose compare fails and which
leaves the bytes as they are. The first staged write of a page can find its frame in a channel that has failed. -/
def State.bankSide (s : State) (pa : Nat) (r : BankReq) : BankRes :=
  if s.channelFailed (s.homeOf (pageOf pa) + pa % 65536) then .failed s
  else match s.hbmRead pa (bankSize r) with
  | .waits => .later s
  | .retry => .refused false
  | .offline => .refused true
  | .poison => .poison
  | .ok bs =>
    match s.hbmWrite pa (bankApply r bs) with
      | .ok u => if u.channelFailed (u.homeOf (pageOf pa) + pa % 65536) then .failed u else .done u bs
      | .waits u => .later u
      | .noFrame u cid slot => .done (u.txAbort cid slot 0x3B) bs
      | .retry => .refused false
      | .offline => .refused true

/-- Request `j`, from the payload in the scratchpad. -/
def State.nmReq (s : State) (k : Cmd) (j : Nat) : BankReq :=
  let x := k.nmSpan j
  let (c, p) := match k.src with
    | .sp c p => (c, p)
    | _ => (0, 0)
  let n := x.n / k.nmSize
  let e := x.i / k.nmSize
  let z := typeBytes k.layout
  let t := numTyOf k.layout
  match k.kind with
  | .nmcas =>
    { op := .cas, fmt := .raw 64, xfmt := .raw 64, addr := x.a, xs := [], s := 0, c := s.spReadN c (p + 16 * j) 8,
      v := s.spReadN c (p + 16 * j + 8) 8 }
  | .nmsax =>
    { op := .sax, fmt := .fp .f32, xfmt := t, addr := x.a, xs := (List.range n).map fun i => s.spReadN c (p + 32 + (e + i) * z) z,
      s := s.spReadN c p 4, c := 0, v := 0 }
  | _ =>
    { op := .red, fmt := t, xfmt := t, addr := x.a, xs := (List.range n).map fun i => s.spReadN c (p + (e + i) * z) z, s := 0, c := 0,
      v := 0 }

/-- A request of a command has performed; NMCAS returns the old word to the payload (R306). -/
def State.nmDone (s : State) (cl : Nat) (k : Cmd) (j : Nat) (old : Nat) : State :=
  let t := match k.kind, k.src with
    | .nmcas, .sp c p => s.softWrite c (p + 16 * j) (toBytes 8 old)
    | _, _ => s
  (t.didUnit cl k j (k.nmSpan j).n).settle cl k.id

/-- Request `j` of a near-memory command goes to its unit (R43, R104, R105, R115, R306, R436). -/
def State.nmSend (s : State) (cl : Nat) (k : Cmd) (j : Nat) : State :=
  let x := k.nmSpan j
  match s.reach cl k x.a [pER, pEW] with
  | (.fault e, t) => t.cmdFault cl k e 3 64 x.a
  | (.waits, t) => t
  | (.poison a, t) => t.walkPoison cl k.cid a
  | (.at_ .hbm pa, t) =>
    (match t.bankSide pa { t.nmReq k j with addr := pa } with
    | .done u old => (u.engineDrop cl pa x.n).nmDone cl k j (ofBytes old)
    | .later u => u
    | .refused _ => t
    | .poison => t.cmdPoison cl k 1 pa
    | .failed u => u.failCmd cl k 6)
  | (.at_ (.remote c) pa, t) =>
    if isHost pa then t.failCmd cl k 0x28
    else t.request c (.cmd cl k.id j) fun tag => .bankSide tag { t.nmReq k j with addr := pa }
  | (.at_ _ _, t) => t.failCmd cl k 0x28

/-- A payload run of a command is poisoned, or cannot be reached now. -/
def State.nmPayloadBad (s : State) (k : Cmd) (j : Nat) : Option Nat :=
  match k.src with
  | .sp c p => ((k.nmPayload j).find? fun x => s.spPoisoned c (p + x.1) x.2).map fun x => p + x.1
  | _ => none
def State.nmBlocked (s : State) (cl : Nat) (k : Cmd) (j : Nat) : Bool :=
  match k.src with
  | .sp c p => (k.nmPayload j).any fun x => s.spBlocked cl (some k.seq) (k.kind == .nmcas) c (p + x.1) x.2
      || s.granuleHeld cl k [(c, p + x.1, x.2)]
  | _ => false

/-- Requests of one near-memory command that touch one HBM unit, through whichever pages, go in ascending order (R104). -/
def State.nmTurn (s : State) (cl : Nat) (c : Cmd) (k : Nat) : Bool :=
  (List.range k).all fun j => c.done.contains j || !s.sameUnit cl c.cid (c.nmSpan k).a c.cid (c.nmSpan j).a

/-- BANK_SIDE_REQUEST (R100-R105, R288, R306): its operands are read and compared, and it executes once. -/
def execBankSideRequest (cl id k : Nat) (cmp : Cmp) (s : State) : Out :=
  match s.cmd? cl id with
  | none => .next s
  | some c =>
    if !c.kind.near || !c.started || c.nmUnits ≤ k || c.done.contains k || s.unitSent cl id k || !s.nmTurn cl c k || s.nmBlocked cl c k
        || s.unitHeld cl c (c.nmSpan k).a then .next s
    else match s.nmPayloadBad c k with
      | some a => .next (s.cmdPoison cl c 2 (match c.src with
        | .sp d _ => spLoc d a
        | _ => a))
      | none =>
        .next (s.withCmp cl c cmp (c.nmSpan k).a fun s => s.nmSend cl c k)

/-! ### Gathers -/

/-- The bytes of an element in memory. -/
def Cmd.elemBytes (k : Cmd) : Nat := Nat.max 1 (fmtBits (recFmt (k.tpl.getD 0)) / 8)

/-- What the reading of a column finds: its elements, a wait, or a stop that has been taken. -/
inductive ColRes where
  | ok (s : State) (vs : List Nat) | later (s : State) | stop (s : State)

/-- The elements of column `c` from row `r` on (R109, R110, R436). -/
def State.readColumn (s : State) (cl : Nat) (k : Cmd) (c : Nat) : Nat → Nat → List Nat → ColRes
  | 0, _, vs => .ok s vs
  | n + 1, r, vs =>
    let (a, hi) := k.elemAddr c r
    match s.reach cl k a [pER] ((List.range r).map fun i => (k.elemAddr c i).1) with
    | (.fault e, t) => .stop (t.cmdFault cl k e 0 4 a)
    | (.waits, t) => .later t
    | (.poison p, t) => .stop (t.walkPoison cl k.cid p)
    | (.at_ .hbm pa, t) =>
      (match t.hbmRead pa k.elemBytes with
      | .ok bs =>
        (let v := ofBytes bs
        t.readColumn cl k c n (r + 1) (vs ++ [if recFmt (k.tpl.getD 0) = 0x15 then (if hi then v / 16 else v % 16) else v]))
      | .poison => .stop (t.cmdPoison cl k 1 pa)
      | .waits | .retry | .offline => .later t)
    | (.at_ _ _, t) => .stop (t.gatherFail cl k 0x24)

/-- The blocks of 16 elements each. -/
def planeBlocks (t p : Nat) : Nat → List Nat → List Byte
  | 0, _ => []
  | n + 1, vs => (planesOf ((vs.take 16).map (valueOf t)) p).1.bytes p ++ planeBlocks t p n (vs.drop 16)

/-- The output of a column: packed elements, or plane blocks (R109). -/
def Cmd.column (k : Cmd) (vs : List Nat) : List Byte :=
  if patOut k.pat then planeBlocks (typeOfFmt (recFmt (k.tpl.getD 0))) (patPlanes k.pat) (vs.length / 16) vs
  else vs.flatMap (toBytes k.elemBytes)

/-- GATHER_COLUMN (R109-R111): source column `j` is read and goes into the output, which its tile transfers write. -/
def execGatherColumn (cl id j : Nat) (s : State) : Out :=
  match s.cmd? cl id with
  | none => .next s
  | some k =>
    let c := bits k.aux 31 0 + j * patStep k.pat
    let held := (List.range (patRows k.pat)).any fun i => s.unitHeld cl k (k.elemAddr c (bits k.aux 63 32 + i)).1
    if k.kind != .gather || !k.started || patCols k.pat ≤ j || k.got.contains j || held then .next s
    else match s.readColumn cl k (bits k.aux 31 0 + j * patStep k.pat) (patRows k.pat) (bits k.aux 63 32) [] with
      | .ok t vs => .next (t.gotUnit cl k j (j * patPitch k.pat) (k.column vs))
      | .later t => .next t
      | .stop t => .next t

end Sys2Proof.Machine
end

