-- ==== Sys2Proof/Machine/HostBus.lean ====
section
/-! DEFINITION. The PCIe side (R452-R457, R462, R481, R484): the registers of the queue pages and of the device page, host accesses through
BAR2, and the completions of requests to the host window. -/

namespace Sys2Proof.Machine

/-! ### Registers of the queue pages (R456, R457, R472) -/

/-- A register of a queue page written, once bring-up has completed (R484). -/
def State.onQueue (s : State) (q : Nat) (f : Queue → Queue) : Out :=
  if s.dev.ready && decide (q < 64) then .next (s.setQueue q (f (s.queue q))) else .next s

/-- DOORBELL (R457, R472): a TAIL past the ring stops the queue; a queue that has stopped stays so. -/
def Queue.ring (v : Nat) (q : Queue) : Queue :=
  if q.mal then q else if q.slots ≤ bits v 15 0 then { q with mal := true } else { q with tail := bits v 15 0 }
def execDoorbell (q : Nat) (v : BitVec 64) (s : State) : Out := s.onQueue q (Queue.ring v.toNat)

/-- QCFG (R456): EN = 1 starts the queue anew; replicas that wait in it are then at its head. -/
def Queue.configure (v : Nat) (q : Queue) : Queue :=
  let q := { q with qcfg := keep (2 ^ 42 - 2 ^ 12 + 31) v }
  if bit v 4 then { q with head := 0, tail := 0, ctail := 0, chead := 0, mal := false, wait := false, phase := 0, note := 0,
                                    fwds := q.fwds.map fun f => { f with mark := 0 } } else q
def execQcfgWrite (q : Nat) (v : BitVec 64) (s : State) : Out := s.onQueue q (Queue.configure v.toNat)

/-- CHEAD (R456, R472): a value beyond CTAIL is ignored. -/
def Queue.consume (v : Nat) (q : Queue) : Queue :=
  let n := 2 ^ q.plog
  let v := bits v 15 0
  if v < n && (v + n - q.chead) % n ≤ (q.ctail + n - q.chead) % n then { q with chead := v } else q
def execCheadWrite (q : Nat) (v : BitVec 64) (s : State) : Out := s.onQueue q (Queue.consume v.toNat)

/-- HOST_REGISTER_WRITE (R456, R462): PCFG and CWB of a queue page; nothing else takes a value. -/
def Queue.writeReg (off v : Nat) (q : Queue) : Queue :=
  match off with
  | 0x008 => { q with pcfg := keep (2 ^ 42 - 2 ^ 12 + 15) v }
  | 0x030 => { q with cwb := keep (2 ^ 42 - 2 ^ 3) v }
  | _ => q
def execHostRegisterWrite (off : Nat) (v : BitVec 64) (s : State) : Out := s.onQueue (off / 4096) (Queue.writeReg (off % 4096) v.toNat)

/-! ### Registers of the device page (R462) -/

/-- A configuration of the fault ring or the event ring. -/
def ringCfg (v : Nat) : W64 := keep (2 ^ 42 - 2 ^ 12 + 31) v

/-- FCFG_WRITE (R462): FEN = 1 empties the fault ring. -/
def execFcfgWrite (v : BitVec 64) (s : State) : Out :=
  let h := { s.host with fcfg := ringCfg v.toNat }
  .next { s with host := if v.getLsbD 4 then { h with fhead := 0, ftail := 0 } else h }

/-- ECFG_WRITE (R462): EEN = 1 empties the event ring. -/
def execEcfgWrite (v : BitVec 64) (s : State) : Out :=
  let h := { s.host with ecfg := ringCfg v.toNat }
  .next { s with host := if v.getLsbD 4 then { h with ehead := 0, etail := 0 } else h }

/-- A head moves to `v` within the entries that the ring holds; the counts run modulo 2^16 (R462). -/
def headTo (v head tail : Nat) : Nat := if (v + 65536 - head) % 65536 ≤ (tail + 65536 - head) % 65536 then v else head

/-- FHEAD_WRITE (R462). -/
def execFheadWrite (v : BitVec 64) (s : State) : Out :=
  .next { s with host := { s.host with fhead := headTo (bits v.toNat 15 0) s.host.fhead s.host.ftail } }

/-- EHEAD_WRITE (R462). -/
def execEheadWrite (v : BitVec 64) (s : State) : Out :=
  .next { s with host := { s.host with ehead := headTo (bits v.toNat 15 0) s.host.ehead s.host.etail } }

/-! ### Reads of BAR0 (R7, R456, R462, R484) -/

/-- What a host read of a register of a queue page returns (R456); DOORBELL is write only, and reads as zero (R7). -/
def Queue.readReg (off : Nat) (q : Queue) : Nat :=
  match off with
  | 0x000 => q.qcfg.toNat
  | 0x008 => q.pcfg.toNat
  | 0x018 => q.head % 65536 + flag q.wait 16 + flag q.mal 17
  | 0x020 => q.chead % 65536
  | 0x028 => q.ctail % 65536
  | 0x030 => q.cwb.toNat
  | _ => 0

/-- BOOTSTAT (R484). -/
def Dev.bootstat (d : Dev) : Nat := d.stage % 8 + d.bootFail % 256 * 2 ^ 8 + flag d.ready 16

/-- What a host read of a register of the device page returns (R462, R484). -/
def State.devicePage (s : State) (off : Nat) : Nat :=
  let h := s.host
  match off with
  | 0x000 => h.fcfg.toNat
  | 0x008 => h.fhead % 65536
  | 0x010 => h.ftail % 65536
  | 0x018 => h.ecfg.toNat
  | 0x020 => h.ehead % 65536
  | 0x028 => h.etail % 65536
  | 0x030 => Nat.min 1024 s.rel.evWait.length + h.edrop % 65536 * 2 ^ 16
  | 0x038 => h.dropw % 2 ^ 32
  | 0x040 => s.linkUp
  | 0x048 => s.dev.ptArea % 2 ^ 28
  | 0x100 => s.dev.bootstat
  | _ => 0

/-- What a host read of 8 bytes at an offset of BAR0 returns. Such a read changes nothing (R7): it is no event of the machine. -/
def State.bar0Read (s : State) (off : Nat) : Nat :=
  if off < 0x40000 then (s.queue (off / 4096)).readReg (off % 4096) else if off < 0x41000 then s.devicePage (off - 0x40000) else 0

/-! ### BAR2 (R453) -/

/-- The function answers the host: bring-up has come to step 7, or has failed (R483, R484). -/
def Dev.enumerated (d : Dev) : Bool := decide (7 ≤ d.stage) || d.bootFail != 0

/-- `n` bytes lie wholly below the reserved region or wholly in the page-table area. -/
def Dev.bar2Ok (d : Dev) (a n : Nat) : Bool :=
  decide (a + n ≤ Nat.min d.rsvBase d.top) || (decide (d.ptBase ≤ a) && decide (a + n ≤ Nat.min d.ptEnd d.top))

/-- BAR2_WRITE (R453, R117, R131, R166, R435): posted writes perform in order, so one that waits holds back those after it. -/
def execBar2Write (addr : Nat) (data : List (BitVec 8)) (s : State) : Out :=
  if !s.dev.enumerated then .next s
  else if !s.dev.bar2Ok addr data.length then
    .next { s with host := { s.host with dropw := Nat.min (2 ^ 32 - 1) (s.host.dropw + 1) } }
  else .next ({ s with host := { s.host with posted := s.host.posted ++ chunks 64 addr data } } : State).drainPosted

/-- What a host read of HBM finds: its bytes, a unit that cannot be read, or a wait. -/
inductive HostRead where
  | got (bs : List Byte) | abort (a : Option Nat) | waits
  deriving DecidableEq, Repr

/-- Bytes read for the host, unit by unit. An offline page answers as one that cannot be read, without a record. -/
def State.hostReads (s : State) : List (Nat × List Byte) → List Byte → HostRead
  | [], acc => .got acc
  | (a, bs) :: cs, acc =>
    match s.hbmRead a bs.length with
    | .ok v => s.hostReads cs (acc ++ v)
    | .poison => .abort (some a)
    | .offline => .abort none
    | .waits | .retry => .waits

/-- The source number of the PCIe interface (R447). -/
def srcPcie : Nat := 0x3010

/-- An error reported by AER (R452). -/
def State.aerError (s : State) (e : AerErr) : State := { s with host := { s.host with aer := s.host.aer ++ [e] } }

/-- A completion goes to the host; one that is an error is reported. -/
def State.answer (s : State) (x : HostAns) : State :=
  let t : State := { s with host := { s.host with answers := s.host.answers ++ [x] } }
  match x with
  | .completerAbort => t.aerError .completerAbort
  | .unsupported => t.aerError .unsupported
  | .data _ | .configRetry => t

/-- BAR2_READ (R453, R166): a read follows the posted writes before it. -/
def execBar2Read (addr len : Nat) (s : State) : Out :=
  if !s.dev.enumerated || !s.host.posted.isEmpty then .next s
  else if !s.dev.bar2Ok addr len then .next (s.answer (.data (List.replicate len 0xFF)))
  else match s.hostReads (chunks 64 addr (List.replicate len 0)) [] with
    | .got bs => .next (s.answer (.data bs))
    | .abort (some a) => .next ((s.report srcPcie 3 3 0 4 0 a 1 0).answer .completerAbort)
    | .abort none => .next (s.answer .completerAbort)
    | .waits => .next s

/-- HOST_ATOMICOP_TO_BAR (R452). -/
def execHostAtomicopToBar (s : State) : Out := .next (s.answer .unsupported)

/-- CONFIGURATION_REQUEST (R483, R484): retried until bring-up has come to step 7, or has failed. -/
def execConfigurationRequest (s : State) : Out :=
  if !s.dev.enumerated then .next (s.answer .configRetry) else .next s

/-! ### Completions of the device's requests (R293, R437, R454) -/

/-- The first `n` bytes of a completion. -/
def dataBytes (n : Nat) (data : List Byte) : List Byte := toBytes n (ofBytes data)

/-- What a completion makes of an atomic in the host window (R293): the host memory after it and the value returned, all ones with a
record if it failed. -/
def State.hostAtomic (s : State) (a size : Nat) (op : AmoOp) (x exp cid : Nat) (ok : Bool) (data : List Byte) : State × Nat :=
  let v := ofBytes (dataBytes size data)
  if ok then ({ s with hostMem := s.hostMem.writeN a size ((amoNew op size v x exp).getD v) }, v)
  else (s.report srcPcie 3 0x0E cid 8 0 a 0 0, 2 ^ 64 - 1)

/-- A scalar access in the host window completes: a load with its data, an atomic with the old value. A load that fails has a free value
(log 8). -/
def State.accCompletion (s : State) (cl : Nat) (l : Acc) (ok : Bool) (data : List Byte) : State :=
  match l.op with
  | none =>
    if ok then s.loaded cl l (ofBytes (dataBytes l.size data))
    else
      let (w, s) := s.draw
      s.loaded cl l (w.toNat % 256 ^ l.size)
  | some op =>
    let (s, v) := s.hostAtomic (l.pa - 0x80000000000) l.size op l.data l.exp l.cid ok data
    s.fixValue cl l v

/-- A unit of a command in the host window completes, or the command fails with ERR 0x08. -/
def State.cmdCompletion (s : State) (cl : Nat) (k : Cmd) (j : Nat) (ok : Bool) (data : List Byte) : State :=
  if ok then (s.gotUnit cl k j (k.srcUnit j).i (dataBytes (k.srcUnit j).n data)).settle cl k.id else s.failCmd cl k 8

/-- Free bytes (log 8). -/
def State.drawBytes : Nat → State → List Byte × State
  | 0, s => ([], s)
  | n + 1, s =>
    let (v, s) := s.draw
    let (bs, s) := State.drawBytes n s
    (BitVec.ofNat 8 v.toNat :: bs, s)

/-- A request of another chip to this chip's host window completes. -/
def State.peerCompletion (s : State) (src : Nat) (m : Msg) (ok : Bool) (data : List Byte) : State :=
  match m with
  | .read tag _ len =>
    if ok then s.respond { chip := src, agent := tag.agent } tag.tag .done (dataBytes len data)
    else
      let (bs, s) := State.drawBytes len s
      s.respond { chip := src, agent := tag.agent } tag.tag .done bs
  | .atomic tag addr size op x exp =>
    let (s, v) := s.hostAtomic (addr - 0x80000000000) size op x exp 0 ok data
    s.respond { chip := src, agent := tag.agent } tag.tag .done (toBytes size v)
  | _ => s

/-- A completion, or a failure, reaches what sent the request. The data of a completion are what host memory holds there by then. A fetch that
fails is asked for again. -/
def State.completion (s : State) (r : HostReq) (ok : Bool) (data : List Byte) : State :=
  let s : State := { s with
    host := { s.host with reqs := s.host.reqs.filter fun x => x.id != r.id },
    hostMem := if ok then s.hostMem.write r.addr (dataBytes r.len data) else s.hostMem }
  match r.owner with
  | .acc cl seq =>
    (match (s.cl cl).a.accs.find? fun l => l.seq == seq && l.pending && l.place == Place.host with
    | some l => s.accCompletion cl l ok data
    | none => s)
  | .cmd cl id j =>
    (match s.cmd? cl id with
    | some k => s.cmdCompletion cl k j ok data
    | none => s)
  | .fetch cl cid x va => if ok then s.icacheAdd cl x { cid := cid, addr := va, va := va, data := dataBytes 64 data } else s
  | .peer src m => s.peerCompletion src m ok data
  | .decant _ _ _ | .mig _ | .tx _ _ | .join _ => s

/-- HOST_COMPLETION (R293, R437, R454). -/
def execHostCompletion (id : Nat) (ok : Bool) (data : List (BitVec 8)) (s : State) : Out :=
  match s.host.reqs.find? fun r => r.id == id with
  | some r => .next (s.completion r ok data)
  | none => .next s

/-- HOST_COMPLETION_TIMEOUT (R454): 50 ms without a completion are a failure. -/
def execHostCompletionTimeout (id : Nat) (s : State) : Out :=
  match s.host.reqs.find? fun r => r.id == id with
  | some r => if r.sentAt + 50000000 ≤ s.gtc then .next ((s.aerError .timeout).completion r false []) else .next s
  | none => .next s

/-! ### Attestation (R481, R484) -/

/-- The device identity (R481): the digest of the public attestation key, which the device secret alone gives. -/
def identityOf (secret : Nat) : BitVec 256 := Config.shake256 [(Config.falconKeys secret).1]

/-- What an attestation answer states (R481): the nonce, the identity, the digests of the ROM, of the firmware image and of the configuration
image, and BOOTSTAT. -/
def Dev.attested (d : Dev) (nonce : BitVec 256) : List Nat :=
  [nonce.toNat, (identityOf d.secret).toNat, (Config.shake256 Config.romBytes).toNat, (Config.shake256 Config.firmwareBytes).toNat,
   (Config.shake256 (Config.imageBytes d.image)).toNat, d.bootstat]

/-- Firmware runs and has derived the identity, step 2 of bring-up (R481, R483): also where that step has failed, since an image may be signed
with the attestation key (R482). -/
def Dev.attests (d : Dev) : Bool := decide (2 ≤ d.stage) || decide (2 ≤ d.bootFail)

/-- ATTESTATION_REQUEST (R481): Samovar's answer over I3C, signed with the attestation key; none before firmware has derived that key. -/
def execAttestationRequest (nonce : BitVec 256) (s : State) : Out :=
  if !s.dev.attests then .next s
  else
    let m := s.dev.attested nonce
    .next { s with host := { s.host with i3c := s.host.i3c ++ [m ++ [Config.falconSign (Config.falconKeys s.dev.secret).2 m]] } }

end Sys2Proof.Machine
end

