-- ==== Sys2Proof/Machine/Wake.lean ====
section
/-! DEFINITION. What ends a wait: conditions of waiting instructions (R161, R285, R309, R310), walks that restart (R44), refused
accesses (R61, R63), pool frames (R127), messages and their answers (R78-R81, R311), and flits that fail their check (R478). -/

namespace Sys2Proof.Machine

/-! ### Waiting instructions -/

/-- WAITER_SATISFIED (R161, R309, R310): a waiting WAITGEN, SEMP, SEMV or BTAKE looks at its condition again. -/
def execWaiterSatisfied (cl : Nat) (s : State) : Out :=
  let t : State := { s with focus := cl }
  match (s.cl cl).a.wait with
  | none => .next s
  | some w =>
    match w.kind with
    | .waitgen => t.waited (execWaitgen w.f t)
    | .semv => t.waited (execSemv w.f t)
    | .semp => t.waited (execSemp w.f t)
    | .btake => t.waited (execBtake w.f t)
    | _ => .next s

/-- BGIVE_RELEASE_DONE (R73): a waiting BGIVE looks again whether the earlier accesses to its buffer have performed. -/
def execBgiveReleaseDone (cl : Nat) (s : State) : Out :=
  let t : State := { s with focus := cl }
  match (s.cl cl).a.wait with
  | some w =>
    if w.kind != .bgive then .next s
    else if bits w.f.imm.toNat 10 8 = 4 then execBgiveNone w.f t else execBgive w.f t
  | none => .next s

/-! ### Restarts and refusals -/

/-- Some page that a cached leaf covers is being flipped, or is offline. -/
def State.staleLeaf (s : State) (t : TlbEnt) : Bool :=
  let base := leafPa t.leaf t.big 0
  let size := if t.big then 2 ^ 25 else 2 ^ 16
  leafChip t.leaf == s.dev.chip && s.pages.any fun (p, st) =>
    (st == .flipping || st == .offline) && decide (p * 65536 < base + size) && decide (base < (p + 1) * 65536)

/-- The translations under which accesses of a context are refused are dropped (R63). -/
def State.dropStale (s : State) (cid : Nat) : State :=
  let keep (t : TlbEnt) : Bool := !(t.cid == cid && s.staleLeaf t)
  s.keepTlbs keep (· != cid)

/-- The first address of a command whose page is offline. -/
def State.offlineUnit (s : State) (cl : Nat) (k : Cmd) : List (Nat × Nat) → Option (Nat × Nat)
  | [] => none
  | (va, acc) :: us =>
    match (s.resolve cl k.cid va k.via []).1 with
    | .at_ .hbm pa => if s.pageSt (pageOf pa) == .offline then some (va, acc) else s.offlineUnit cl k us
    | _ => s.offlineUnit cl k us

/-- ACCESS_REFUSAL (R61, R63): an access refused with retry is translated anew, one refused with offline raises fault kind 7. `id` names
a scalar access, or else a command, which translates each access for itself. -/
def execAccessRefusal (cl id : Nat) (offline : Bool) (s : State) : Out :=
  match (s.cl cl).a.accs.find? fun l => l.seq == id && l.pending && l.place == .hbm with
  | some l =>
    (match s.pageSt (pageOf l.pa) with
    | .flipping => .next (if offline then s else s.retranslate cl l)
    | .offline => .next (if offline then s.accFault cl l 7 else s)
    | _ => .next s)
  | none =>
    match s.cmd? cl id with
    | none => .next s
    | some k =>
      if !offline then .next (s.dropStale k.cid)
      else match s.offlineUnit cl k k.openUnits with
        | some (va, acc) => .next (s.cmdFault cl k 7 acc k.agent va)
        | none => .next s

/-- WALK_RESTART (R44, R46): a walk that waited for a node or a flip begins again at the root: that of an instruction that waits, which
then issues again, or that of a command's next access. -/
def execWalkRestart (cl id : Nat) (s : State) : Out :=
  let t : State := { s with focus := cl, walkCache := s.walkCache.filter fun e => e.1 != s.runCid cl }
  match (s.cl cl).a.wait.filter fun w => w.kind == .walk && w.id == id with
  | some w => .next (t.resolve cl (s.runCid cl) (t.ea w.f) .acore []).2
  | none =>
    match s.cmd? cl id with
    | none => .next s
    | some k =>
      match k.openUnits with
      | [] => .next s
      | (va, _) :: _ => .next (({ s with walkCache := s.walkCache.filter fun e => e.1 != k.cid }).resolve cl k.cid va k.via []).2

/-- FRAME_WAIT_END (R127, R132): a write that waited for a pool frame, or for the outcome of a transaction, is tried again: a scalar
store that has been matched and compared and has left its queue, or the next write of a command without protection. One of a protected command is
compared, and so tried again as HBM_UNIT_ACCESS (R288, R430, R432). -/
def execFrameWaitEnd (cl id : Nat) (s : State) : Out :=
  match (s.cl cl).a.stores.find? fun l => l.seq == id && l.pending && l.place == .hbm with
  | some l => if s.storeHeld cl l || l.redo || !l.left then .next s else .next (s.storePlace cl l)
  | none =>
    match s.cmd? cl id with
    | none => .next s
    | some k =>
      if !k.kind.plain || k.pcl != 0 then .next s
      else match (List.range k.dstUnits).find? fun j => (k.dstUnit j).n != 0 && !k.done.contains (k.srcUnits + j) with
        | some j => .next ((s.globalUnit cl k (k.srcUnits + j) (k.dstUnit j).n).settle cl id)
        | none => .next s

/-! ### Messages at their target and back (R80, R311) -/

/-- What becomes of a message at its target (R80): the status, the free count it answers with, and the target's state; none while the
ring cannot be reached. -/
def State.enqueue (s : State) (m : MailMsg) : Option (MailStatus × Nat × State) :=
  let c := (s.cl m.cl).ctl
  if !s.inService m.cl || !c.mbEn || m.cid != c.mbOwner then some (.disabled, 0, s)
  else
    let n := s.mbUsed m.cl
    let from_ := if m.srcChip = s.dev.chip then m.srcCl else m.cl
    if c.mbSize ≤ n then
      some (.full, 0, if s.mbHeadBad m.cl then s.report (srcCl m.cl 5) 3 3 c.mbOwner 4 0 (spLoc m.cl c.mbBase) 2 0 else s)
    else if (m.srcChip == s.dev.chip && s.spBlocked from_ none true m.cl (c.mbSlot c.mbTail) 64) || c.retrainEnd.isSome || c.held then none
    else
      let head := m.srcCl + m.srcChip * 2 ^ 8 + m.payload.length * 2 ^ 16 + m.tag % 2 ^ 32 * 2 ^ 32
      let t := s.spWrite m.cl (c.mbSlot c.mbTail) (toBytes 8 head ++ m.payload ++ List.replicate (56 - m.payload.length) 0)
      let tail := (c.mbTail + 1) % 2 ^ 32
      some (.delivered, c.mbSize - (n + 1), (t.onCtl m.cl fun c => { c with mbTail := tail }).spWriteN m.cl (c.mbBase + 8) 8 tail)

/-- MAILBOX_ENTRY_MSG (R78-R81): a message in flight within the chip, or one from another chip, reaches its target, which answers. -/
def execMailboxEntryMsg (m : MailMsg) (s : State) : Out :=
  let local_ := m.srcChip == s.dev.chip
  if m.chip != s.dev.chip || (local_ && !s.mailFlight.contains m) || (!local_ && s.fencedChip m.srcChip) || 56 < m.payload.length then .next s
  else match s.enqueue m with
    | none => .next s
    | some (st, free, t) =>
      let t : State := if local_ then { t with mailFlight := t.mailFlight.erase m } else t
      .next (t.send m.srcChip (.mailAck m.srcCl m.id free st))

/-- The answer to a message reaches its sender (R80, R311). -/
def State.mailAnswer (s : State) (cl : Nat) (k : Cmd) (free : Nat) (st : MailStatus) : State :=
  match st with
  | .delivered =>
    (s.onSend cl k fun v => { v with free := free, clu := bits k.aux 7 0, chip := bits k.aux 13 8, valid := true }).dropCmd cl k.id
  | .full => s.setCmd cl { k with stamp := some s.clk }
  | .disabled => s.mailRefused cl k

/-- MAILBOX_ACK_MSG (R80, R311): an answer from this chip, or from the chip that the message went to. -/
def execMailboxAckMsg (cl id free : Nat) (status : MailStatus) (s : State) : Out :=
  match s.cmd? cl id with
  | none => .next s
  | some k =>
    let a := (s.dev.chip, Msg.mailAck cl id free status)
    let here := bits k.aux 13 8 == s.dev.chip
    if k.kind != .msend || !k.started || k.stamp.isSome || (here && !s.outbox.contains a) then .next s
    else
      let t : State := if here then { s with outbox := s.outbox.erase a } else s
      .next (t.mailAnswer cl k free status)

/-- MAILBOX_RETRY (R80): a message refused as full goes out again after at least 256 clk. -/
def execMailboxRetry (cl id : Nat) (s : State) : Out :=
  match s.cmd? cl id with
  | none => .next s
  | some k =>
    match k.kind, k.stamp with
    | .msend, some t =>
      if s.clk < t + 256 then .next s
      else if s.fencedChip (bits k.aux 13 8) then .next (s.mailRefused cl k)
      else .next ((s.setCmd cl { k with stamp := none }).post k (s.mailOf cl k))
    | _, _ => .next s

/-! ### Flits (R478) -/

/-- The address of a scratchpad granule or of an HBM unit with the list that it joins as poisoned on delivery (R435), and its record. -/
def State.poisonSp (s : State) (cid d a : Nat) : State :=
  let p := (s.phys d, a / 32)
  let t : State := { s with spPoison := if s.spPoison.contains p then s.spPoison else s.spPoison ++ [p] }
  t.report (srcCl d 5) 2 2 cid 0 0 (spLoc d (a / 32 * 32)) 2 0
def State.poisonHbm (s : State) (cid pa : Nat) : State :=
  let u := (s.homeOf (pageOf pa) + pa % 65536) / 64
  ({ s with hbmPoison := addPoison u s.hbmPoison } : State).report (s.srcChannel (64 * u)) 2 2 cid 0 0 (64 * u) 1 0

/-- The units and requests of a command that are numbered before the granules of the piece in transfer. -/
def Cmd.netUnits (k : Cmd) : Nat := if k.kind == .gather then patCols k.pat else if k.kind.near then k.nmUnits else k.srcUnits + k.dstUnits

/-- Unit `j` of a command is delivered poisoned: to the command that reads it, or to the HBM unit or the granule that it writes; a bank-side request
is not performed (R436). -/
def State.netCmd (s : State) (cl : Nat) (c : Cmd) (j : Nat) : State :=
  if !c.started then s
  else if c.kind == .gather && decide (j < patCols c.pat) then
    (if c.got.contains j then s
    else s.cmdPoison cl c 1 (c.elemAddr (bits c.aux 31 0 + j * patStep c.pat) (bits c.aux 63 32)).1)
  else if c.kind.near then
    (if c.nmUnits ≤ j || c.done.contains j || s.unitSent cl c.id j || s.nmBlocked cl c j || s.unitHeld cl c (c.nmSpan j).a then s
    else s.cmdPoison cl c 1 (c.nmSpan j).a)
  else if j < c.srcUnits then
    match c.src with
    | .va _ => if c.got.contains j then s else s.cmdPoison cl c 1 (c.srcUnit j).a
    | _ => s
  else if j < c.srcUnits + c.dstUnits then
    match c.dst with
    | .va _ =>
      (let x := c.dstUnit (j - c.srcUnits)
      let t := s.globalUnit cl c j x.n
      match (t.resolve cl c.cid x.a c.via [pEW]).1 with
      | .at_ .hbm pa =>
        if c.done.contains j || !((t.cmd? cl c.id).any fun d => d.done.contains j) then s else (t.poisonHbm c.cid pa).settle cl c.id
      | _ => s)
    | _ => s
  else
    let g := j - c.netUnits
    if !s.granuleDue cl c g then s
    else match c.dst with
      | .sp d _ => (s.writeGranule cl c g).poisonSp c.cid d (32 * g)
      | _ => s.cmdPoison cl c 2 (spLoc cl (epAddr c.src + 32 * g))

/-- A scalar access is delivered poisoned: a load or an atomic consumes it, a store leaves its unit poisoned (R435, R436). -/
def State.netAccess (s : State) (cl : Nat) (l : Acc) : State :=
  let far := l.place != .sp || l.home != cl
  if !far || !l.pending || s.fetchSent (.acc cl l.seq) || l.redo then s
  else if !l.store || l.op.isSome then
    (if (s.runA cl).heldBack (s.openCmds cl l.scope (s.runCmds cl)) cl l (!l.aq) || ((s.runA cl).forwarder l).isSome
        || (l.place == .hbm && !l.aq && ((s.cl cl).a.l1Line l.pa l.va).isSome) then s
    else s.scalarPoison cl (s.accUnit l) l)
  else if s.storeHeld cl l || !l.vig || (l.place == .sp && s.spBlocked cl (some l.seq) true l.home l.spAddr l.size) then s
  else
    let t := (s.leaveQueue cl l.seq).storePlace cl { l with left := true }
    if t.storeWaits cl l.seq then s
    else match l.place with
      | .sp => t.poisonSp l.cid l.home l.spAddr
      | .hbm => t.poisonHbm l.cid l.pa
      | .remote _ | .host => s

/-- The line at a core's pc arrives poisoned (R436). -/
def State.netFetch (s : State) (cl : Nat) (x : Bool) : State :=
  let c := s.cl cl
  let cid := s.fetchCid cl x
  let line := (if x then c.x.pc else c.a.pc.toNat) / 64 * 64
  if (if x then c.x.run != .run else c.a.run != .run) || (c.icacheOf x).any fun l => l.cid == cid && l.addr == line then s
  else match s.resolve cl cid line (if x then .stream 11 else .acore) [if x then pEX else pAX] with
    | (.at_ .hbm pa, t) => t.corePoison cl (.hbm (pa / 64)) pa (b2n x)
    | _ => s

/-- A message within the chip arrives with one granule of its slot poisoned (R80, R435). -/
def State.netMail (s : State) (m : MailMsg) (g : Nat) : State :=
  let c := (s.cl m.cl).ctl
  if !s.mailFlight.contains m || m.chip != s.dev.chip then s
  else match s.enqueue m with
    | some (.delivered, free, t) =>
      let t := ({ t with mailFlight := t.mailFlight.erase m } : State).send m.srcChip (.mailAck m.srcCl m.id free .delivered)
      t.poisonSp m.cid m.cl (c.mbSlot c.mbTail + 32 * (g % 2))
    | _ => s

/-- NETWORK_FLIT_CRC_FAILURE (R435, R436, R478): a flit is resent, and after 8 resends its unit is delivered poisoned: unit `k` of a command (granules
of the piece in transfer are counted beyond its units), the unit of a scalar access, the line that a core fetches, or granule `k` of a message. -/
def execNetworkFlitCrcFailure (cl : Nat) (what : NetUnit) (k resends : Nat) (s : State) : Out :=
  if resends < 8 then .next s
  else match what with
    | .cmd id => .next (match s.cmd? cl id with
      | some c => s.netCmd cl c k
      | none => s)
    | .access seq => .next (match (s.cl cl).a.accs.find? fun l => l.seq == seq with
      | some l => s.netAccess cl l
      | none => s)
    | .fetch x => .next (s.netFetch cl x)
    | .mail m => .next (s.netMail m k)

end Sys2Proof.Machine
end

