-- ==== Sys2Proof/Machine/Fabric.lean ====
section
/-! DEFINITION. The Slober Link fabric (R45, R63, R463-R472): requests of other chips at this chip, responses to its own requests and what
becomes of those that get none, ports and their replay buffers, alignment of the GTC, and joins. -/

namespace Sys2Proof.Machine

/-! ### Requests of other chips (R45, R61, R63, R467) -/

/-- The target's own checks of an address of local HBM: R21, which does not bind another chip's Samovar, and the page's state. -/
def State.peerCheck (s : State) (src : TagSource) (pa n : Nat) : Option RespStatus :=
  if !(decide (pa + n ≤ s.dev.top) && (src.agent == .samovar || decide (pa + n ≤ s.dev.rsvBase))) then some .forbidden
  else match s.pageSt (pageOf pa) with
    | .flipping => some .retry
    | .offline => some .offline
    | _ => none

/-- A request that goes on to the host window, once. -/
def State.toHost (s : State) (src : TagSource) (m : Msg) (pa n : Nat) : PeerAns :=
  if s.fetchSent (.peer src.chip m) then .waits s else .waits (s.hostRequest (.peer src.chip m) pa n)

/-- REMOTE_READ (R45, R61, R467, R469) of 1 to 32 bytes; poison is answered with no data. -/
def execRemoteRead (src : TagSource) (tag addr len : Nat) (s : State) : Out :=
  if len = 0 || 32 < len then .next s
  else s.peerRequest src tag fun s =>
    if isHost addr then s.toHost src (.read { agent := src.agent, tag := tag } addr len) addr len
    else match s.peerCheck src addr len with
      | some st => .refuse st
      | none =>
        match s.hostReads (chunks 64 addr (List.replicate len 0)) [] with
        | .got bs => .done s bs
        | .abort (some _) => .done s []
        | .abort none => .refuse .offline
        | .waits => .waits s

/-- The runs of consecutive bytes that a mask selects of a granule at `a`. -/
def maskRuns (mask : Nat) : Nat → List Byte → List (Nat × List Byte) → Nat → List (Nat × List Byte)
  | _, [], rs, _ => rs.reverse
  | a, b :: bs, rs, i =>
    if !bit mask i then maskRuns mask (a + 1) bs rs (i + 1)
    else match rs with
      | (x, ds) :: rest =>
        if x + ds.length = a then maskRuns mask (a + 1) bs ((x, ds ++ [b]) :: rest) (i + 1)
        else maskRuns mask (a + 1) bs ((a, [b]) :: rs) (i + 1)
      | [] => maskRuns mask (a + 1) bs [(a, [b])] (i + 1)

/-- A write of another chip: the runs perform together. A page that is closed counts one dropped write (R135). -/
def State.peerWrite (s : State) (src : TagSource) (pa n : Nat) (rs : List (Nat × List Byte)) : PeerAns :=
  match s.peerCheck src pa n with
  | some st => .refuse st
  | none =>
    match s.hostWrites (if tagMode (s.tag (pageOf pa)) = 3 then rs.take 1 else rs) with
    | (t, []) => .done t []
    | (t, _) => .waits t

/-- REMOTE_WRITE (R45, R61, R117, R167, R467, R469). -/
def execRemoteWrite (src : TagSource) (tag addr : Nat) (mask : BitVec 32) (data : List (BitVec 8)) (s : State) : Out :=
  s.peerRequest src tag fun s =>
    let rs := maskRuns mask.toNat addr (data.take 32) [] 0
    if isHost addr then .done { s with hostMem := rs.foldl (fun m r => m.write (r.1 - 0x80000000000) r.2) s.hostMem } []
    else s.peerWrite src addr (Nat.min 32 data.length) rs

/-- An atomic of another chip on local HBM (R293); poison is answered with no data. -/
def State.peerAtomic (s : State) (src : TagSource) (addr size : Nat) (op : AmoOp) (x exp : Nat) : PeerAns :=
  match s.peerCheck src addr size with
  | some st => .refuse st
  | none =>
    match s.hbmRead addr size with
    | .ok bs =>
      (match amoNew op size (ofBytes bs) x exp with
      | none => .done s bs
      | some v =>
        match s.hbmWrite addr (toBytes size v) with
        | .ok t => .done t bs
        | .waits t => .waits t
        | .noFrame t cid slot => .done (t.txAbort cid slot 0x3B) bs
        | .retry => .refuse .retry
        | .offline => .refuse .offline)
    | .poison => .done s []
    | .waits => .waits s
    | .retry => .refuse .retry
    | .offline => .refuse .offline

/-- REMOTE_ATOMIC (R45, R293, R467): it performs once. The host window serves three operations. -/
def execRemoteAtomic (src : TagSource) (tag addr size : Nat) (op : AmoOp) (x exp : BitVec 64) (s : State) : Out :=
  s.peerRequest src tag fun s =>
    if isHost addr then
      (if hostOp (some op) then s.toHost src (.atomic { agent := src.agent, tag := tag } addr size op x.toNat exp.toNat) addr size else .refuse .forbidden)
    else s.peerAtomic src addr size op (x.toNat % 256 ^ size) (exp.toNat % 256 ^ size)

/-- REMOTE_BANK_SIDE (R45, R101, R103, R105, R115, R467): a compare-exchange answers the old word; a request that is not performed answers
one byte with the code of R437. -/
def execRemoteBankSide (src : TagSource) (tag : Nat) (r : BankReq) (s : State) : Out :=
  s.peerRequest src tag fun s =>
    match s.peerCheck src r.addr (bankSize r) with
    | some st => .refuse st
    | none =>
      match s.bankSide r.addr r with
      | .done t old => .done t (if r.op = .cas then old else [])
      | .later t => .waits t
      | .refused off => .refuse (if off then .offline else .retry)
      | .poison => .done s [4]
      | .failed t => .done t [6]

/-- DECANT_WRITE_MSG (R125, R128, R467, R469): up to 32 bytes of a decant stream of another chip are written into this chip's HBM. -/
def execDecantWriteMsg (src : TagSource) (tag addr : Nat) (data : List (BitVec 8)) (s : State) : Out :=
  if 32 < data.length then .next s
  else s.peerRequest src tag fun s =>
    if s.dev.top < addr + data.length then .refuse .forbidden
    else match s.pageSt (pageOf addr) with
      | .flipping => .refuse .retry
      | .offline => .refuse .offline
      | _ =>
        match s.hostWrites (chunks 64 addr data) with
        | (t, []) => .done t []
        | (t, _) => .waits t

/-! ### Responses to this chip's requests -/

/-- A request has had its answer, or has failed; its tag can be used again after 20 ms (R467). -/
def State.dropReq (s : State) (r : Req) : State :=
  { s with reqs := s.reqs.filter fun x => x.tag != r.tag, oldTags := s.oldTags ++ [(r.tag, r.lastSent)] }

/-- The first half of a line that is fetched in two reads waits for the other. -/
def State.lineHalf (s : State) (o : ReqBy) (bs : List Byte) : State :=
  { s with reqs := s.reqs.map fun r => if r.owner == o then { r with part := bs } else r }

/-- Other requests of the same access or unit await their answers. -/
def State.moreOf (s : State) (o : ReqBy) : Bool := s.reqs.any fun r => r.owner == o

/-- The address that a request goes to. -/
def msgAddr : Msg → Nat
  | .read _ a _ | .write _ a _ | .atomic _ a _ _ _ _ | .decant _ a _ => a
  | .bankSide _ r => r.addr
  | _ => 0

/-- The request with another tag and address. -/
def reMsg (m : Msg) (pa : Nat) (tag : ReqId) : Msg :=
  match m with
  | .read _ _ n => .read tag pa n
  | .write _ _ d => .write tag pa d
  | .bankSide _ r => .bankSide tag { r with addr := pa }
  | m => m

/-- Poison at another chip, as a check unit of its own. -/
def peerUnit (r : Req) : MemUnit := .hbm (r.peer * 2 ^ 38 + msgAddr r.msg / 64)

/-- An answer reaches a scalar access (R45, R61, R63, R289). -/
def State.accResponse (s : State) (cl : Nat) (l : Acc) (r : Req) (st : RespStatus) (v : List Byte) : State :=
  match st with
  | .done =>
    if l.store && l.op.isNone then s.dropAcc cl l.seq
    else if v.isEmpty then s.scalarPoison cl (peerUnit r) l
    else if l.op.isSome then s.fixValue cl l (ofBytes (v.take l.size))
    else s.loaded cl l (ofBytes (v.take l.size))
  | .retry => (s.farRetry r.peer (msgAddr r.msg)).retranslate cl l
  | .offline => s.accFault cl l 7
  | .forbidden => s.accFault cl l 4

/-- The run of bytes that unit `j` of a command covers. -/
def Cmd.spanOf (k : Cmd) (j : Nat) : Span :=
  if k.kind.near then k.nmSpan j
  else if j < k.srcUnits then k.srcUnit j
  else if j - k.srcUnits < k.dstUnits then k.dstUnit (j - k.srcUnits)
  else { i := 0, n := 8, a := k.aux }

/-- How far into its unit a request's bytes lie. -/
def reqOffset (x : Span) (r : Req) : Nat := (msgAddr r.msg % 65536 + 65536 - x.a % 65536) % 65536

/-- The access code and the permissions of a command's request (R43, R55). -/
def reqAcc : Msg → Nat
  | .read _ _ _ => 0
  | .bankSide _ _ => 3
  | _ => 1
def reqPerms : Msg → List Nat
  | .read _ _ _ => [pER]
  | .bankSide _ _ => [pER, pEW]
  | _ => [pEW]

/-- A request of a command has been served. -/
def State.cmdServed (s : State) (cl : Nat) (k : Cmd) (j : Nat) (r : Req) (v : List Byte) : State :=
  let x := k.spanOf j
  let more := s.moreOf r.owner
  match r.msg with
  | .read _ a n =>
    if v.isEmpty then s.cmdPoison cl k 1 a
    else
      let k := { k with buf := Memory.write k.buf (x.i + reqOffset x r) (dataBytes n v) }
      if more then s.setCmd cl k else (s.gotUnit cl k j x.i []).settle cl k.id
  | .bankSide _ _ =>
    (match v with
    | [b] => if b = 4 then s.cmdPoison cl k 1 (msgAddr r.msg) else s.failCmd cl k 6
    | _ => s.nmDone cl k j (ofBytes v))
  | _ => if more then s else (s.didUnit cl k j x.n).settle cl k.id

/-- A request of a command that now leads to this chip's own memory or to its host window is served there (R61, R105, R127, R147); the flag is
false while it has to wait. -/
def State.cmdHere (s : State) (cl : Nat) (k : Cmd) (j : Nat) (r : Req) (p : Place) (pa : Nat) : State × Bool :=
  let served (t : State) (v : List Byte) : State × Bool := ((t.dropReq r).cmdServed cl k j r v, true)
  let offline : State × Bool := ((s.dropReq r).cmdFault cl k 7 (reqAcc r.msg) k.agent ((k.spanOf j).a + reqOffset (k.spanOf j) r), true)
  match reMsg r.msg pa r.tag, p with
  | .read _ a n, .hbm =>
    (match s.hbmRead a n with
    | .ok bs => served s bs
    | .poison => ((s.dropReq r).cmdPoison cl k 1 a, true)
    | .offline => offline
    | .waits | .retry => (s, false))
  | .write _ a bs, .hbm =>
    (match s.hbmWrite a bs with
    | .ok t => served (t.engineDrop cl a bs.length) []
    | .noFrame t c i => served (t.txAbort c i 0x3B) []
    | .waits t => (t, false)
    | .offline => offline
    | .retry => (s, false))
  | .bankSide _ q, .hbm =>
    (match s.bankSide pa q with
    | .done t old => served (t.engineDrop cl pa (bankSize q)) old
    | .poison => served s [4]
    | .failed t => served t [6]
    | .later t => (t, false)
    | .refused off => if off then offline else (s, false))
  | .read _ a n, .host => ((s.dropReq r).hostRequest r.owner a n, true)
  | .write _ a bs, .host => served { s with hostMem := s.hostMem.write (a - 0x80000000000) bs } []
  | .bankSide _ _, .host => ((s.dropReq r).failCmd cl k 0x28, true)
  | _, _ => (s, false)

/-- A request of a command that was refused with retry goes out again under a new translation (R63); it is held while its walk waits. -/
def State.cmdRetry (s : State) (cl : Nat) (k : Cmd) (j : Nat) (r : Req) : State :=
  let x := k.spanOf j
  let va := x.a + reqOffset x r
  let hold (t : State) : State := { t with reqs := t.reqs.map fun q => if q.tag == r.tag then { q with held := true } else q }
  match (s.dropVa k.cid va).resolve cl k.cid va k.via (reqPerms r.msg) with
  | (.fault e, t) => (t.dropReq r).cmdFault cl k e (reqAcc r.msg) k.agent va
  | (.waits, t) => hold t
  | (.poison a, t) => (t.dropReq r).walkPoison cl k.cid a
  | (.at_ (.remote c) pa, t) =>
    if isHost pa && k.kind.near then (t.dropReq r).failCmd cl k 0x28
    else if t.tagsFree r.owner.agent 1 then (t.dropReq r).request c r.owner (reMsg r.msg pa) else hold t
  | (.at_ p pa, t) => match t.cmdHere cl k j r p pa with
    | (u, true) => u
    | (u, false) => hold u

/-- An answer reaches what sent the request. -/
def State.answered (s : State) (r : Req) (st : RespStatus) (v : List Byte) : State :=
  match r.owner with
  | .acc cl seq =>
    (match (s.cl cl).a.accs.find? fun l => l.seq == seq && l.pending with
    | some l => (s.dropReq r).accResponse cl l r st v
    | none => s.dropReq r)
  | .cmd cl id j =>
    (match s.cmd? cl id with
    | none => s.dropReq r
    | some k =>
      let va := (k.spanOf j).a + reqOffset (k.spanOf j) r
      match st with
      | .done => (s.dropReq r).cmdServed cl k j r v
      | .retry => (s.farRetry r.peer (msgAddr r.msg)).cmdRetry cl k j r
      | .offline => (s.dropReq r).cmdFault cl k 7 (reqAcc r.msg) k.agent va
      | .forbidden => (s.dropReq r).cmdFault cl k 4 (reqAcc r.msg) k.agent va)
  | .fetch cl cid x va =>
    let t := s.dropReq r
    (match st with
    | .done =>
      if v.isEmpty then (t.dropFetches (· == r.owner)).corePoison cl (peerUnit r) (msgAddr r.msg) (b2n x)
      else if t.moreOf r.owner then t.lineHalf r.owner (dataBytes 32 v)
      else
        let bs := if msgAddr r.msg % 64 = 0 then dataBytes 32 v ++ r.part else r.part ++ dataBytes 32 v
        t.icacheAdd cl x { cid := cid, addr := va, va := va, data := bs }
    | .retry => ((t.dropFetches (· == r.owner)).farRetry r.peer (msgAddr r.msg)).dropVa cid va
    | .offline => (t.dropFetches (· == r.owner)).fetchFault cl x 7 va
    | .forbidden => (t.dropFetches (· == r.owner)).fetchFault cl x 4 va)
  | .decant cid slot i =>
    let t := s.dropReq r
    if st = .done || !((t.ctx cid).decantOf slot i) then t
    else if st = .retry then t.request r.peer r.owner fun tag => match r.msg with
      | .decant _ a d => .decant tag a d
      | m => m
    else t.endSnap cid slot .failed 0x34
  | .mig page =>
    let t := s.dropReq r
    if st = .retry then t.request r.peer r.owner fun tag => match r.msg with
      | .atomic _ a n op x e => .atomic tag a n op x e
      | m => m
    else t.flipShoot page
  | .peer _ _ | .tx _ _ | .join _ => s.dropReq r

/-- REMOTE_RESPONSE (R45, R63, R293, R467, R472): a response to a request that has had its answer is discarded. -/
def execRemoteResponse (tag : ReqId) (st : RespStatus) (v : List (BitVec 8)) (s : State) : Out :=
  match s.reqs.find? fun r => r.tag == tag with
  | some r => .next (s.answered r st v)
  | none => .next s

/-- A request goes out again with its tag (R467, R470), or for the first time if it still waited for credits. -/
def State.resend (s : State) (r : Req) (first : Bool := false) : State :=
  let h := s.reqHash r.owner
  let f (x : Req) : Req := if x.tag == r.tag then { x with sends := x.sends + if first then 0 else 1, lastSent := s.gtc, port := s.portFor r.peer h } else x
  ({ s with reqs := s.reqs.map f } : State).send r.peer r.msg h

/-- SLTMO (R467). -/
def sltmo : Nat := 1000000

/-- A request that is held tries its new translation again. -/
def State.heldAgain (s : State) (r : Req) : State :=
  match r.owner with
  | .cmd cl id j => (match s.cmd? cl id with
    | some k => s.cmdRetry cl k j r
    | none => s.dropReq r)
  | _ => s

/-- REQUEST_REISSUE (R63, R467): at most three, 1 ms after the send before; or the reissue of a request that was refused with retry. -/
def execRequestReissue (tag : ReqId) (s : State) : Out :=
  match s.reqs.find? fun r => r.tag == tag with
  | some r => if r.held then .next (s.heldAgain r) else if r.sends < 4 && r.lastSent + sltmo ≤ s.gtc && !s.unsent r.msg then .next (s.resend r) else .next s
  | none => .next s

/-- A request fails because its peer does not answer (R467). A message of a transaction then gives an abort, as far as the coordinator can still
decide (R133, R134). -/
def State.undelivered (s : State) (r : Req) : State :=
  let s := s.dropReq r
  match r.owner with
  | .acc cl seq =>
    (match (s.cl cl).a.accs.find? fun l => l.seq == seq && l.pending with
    | some l => s.accFault cl l 8
    | none => s)
  | .cmd cl id _ =>
    (match s.cmd? cl id with
    | some k => s.failCmd cl k 7
    | none => s)
  | .decant cid slot i => if (s.ctx cid).decantOf slot i then s.endSnap cid slot .failed 0x34 else s
  | .mig page => s.flipShoot page
  | .tx cid slot =>
    let x := (s.ctx cid).tx slot
    if coordOf x.mask == s.dev.chip && (x.st == .open || x.st == .voted || (x.st == .decided && decide (s.gtc < x.tc))) then
      s.txAbort cid slot 0x3A
    else s
  | .fetch _ _ _ _ | .peer _ _ | .join _ => s

/-- PEER_UNRESPONSIVE (R59, R467): a further SLTMO after the third reissue, or a peer that has been fenced since. -/
def execPeerUnresponsive (tag : ReqId) (s : State) : Out :=
  match s.reqs.find? fun r => r.tag == tag with
  | none => .next s
  | some r =>
    if r.held then .next s
    else if s.fencedChip r.peer then .next (s.undelivered r)
    else if 4 ≤ r.sends && r.lastSent + sltmo ≤ s.gtc && !s.unsent r.msg then .next ((s.fenceAll (chipBit r.peer)).undelivered r)
    else .next s

/-- TAG_MEMORY_EXPIRY (R467): 10 ms after it performed a request the target forgets it. -/
def execTagMemoryExpiry (src : TagSource) (tag : Nat) (s : State) : Out :=
  .next { s with remembered := s.remembered.filter fun r => !(r.src == src && r.tag == tag && decide (r.at_ + 10000000 ≤ s.gtc)) }

/-- TAG_REUSE_EXPIRY (R467): 20 ms after the last send that carried it, a tag is free again. -/
def execTagReuseExpiry (tag : ReqId) (s : State) : Out :=
  .next { s with oldTags := s.oldTags.filter fun o => !(o.1 == tag && decide (o.2 + 20000000 ≤ s.gtc)) }

/-! ### Ports (R464, R465, R470) -/

/-- A replay buffer without the flits up to place `n`; an acknowledgement has come. -/
def Port.acked (p : Port) (n now : Nat) : Port :=
  { p with replay := p.replay.drop n, lastAck := now, replays := if n = 0 then p.replays else 0 }

/-- The place in the replay buffer of the message to which flit `seq` belongs. -/
def Port.placeOf (p : Port) (seq : Nat) : Option Nat :=
  p.replay.findIdx? fun f => decide ((f.1 + 4096 - seq % 4096) % 4096 < f.2.2.flits)

/-- NAK (R465): flits before the expected one have arrived, and the others are replayed. -/
def execNak (port seq : Nat) (s : State) : Out :=
  let p := s.port port
  match p.placeOf seq with
  | some n => if p.up then .next ((s.setPort port { p.acked n (if n = 0 then p.lastAck else s.gtc) with
      replays := (if n = 0 then p.replays else 0) + 1 }).drainPort port) else .next s
  | none => .next s

/-- Messages up to a flit's ACK field leave the replay buffer (R463-R465). -/
def State.acked (s : State) (port ack : Nat) : State :=
  let p := s.port port
  match p.placeOf ack with
  | some n => (s.setPort port (p.acked (if p.replay[n]?.any fun f => f.1 == ack then n + 1 else n) s.gtc)).drainPort port
  | none => s.setPort port (p.acked 0 s.gtc)

/-- IDLE_ACK_FLIT (R463-R465): messages whose flits lie up to the ACK field leave the replay buffer, and their credits come back. -/
def execIdleAckFlit (port ack : Nat) (s : State) : Out :=
  if !(s.port port).up then .next s else .next (s.acked port ack)

/-- What a flit that goes on to another chip chooses its port by: the hash of its source, which its payload holds, as on every chip of the path
(R466; log 13). -/
opaque transitHash : List Byte → Nat

/-- BAD_CRC_FLIT (R465, R466, R469): a flit arrives on a port. One with a bad CRC or an unknown TYPE is counted and answered with a NAK that names
the expected SEQ; one out of order is discarded. One that is accepted advances the expected SEQ, and goes on if it is for another chip; what it
carries for this chip acts by its own row (log 13). Idle, ACK and NAK flits have no place in the sequence. -/
def execBadCrcFlit (port : Nat) (flit : List (BitVec 8)) (s : State) : Out :=
  let p := s.port port
  let v := ofBytes flit
  if !p.up then .next s
  else if !flitGood flit || !typeKnown (bits v 7 0) then
    .next { s.setPort port { p with crcFails := p.crcFails + 1 } with outbox := s.outbox ++ [(64 + port, .nak p.rx)] }
  else if bits v 7 0 ≤ 1 then .next (s.acked port (bits v 43 32))
  else if bits v 31 20 != p.rx then .next s
  else
    let t := (s.setPort port { p with rx := (p.rx + 1) % 4096 }).acked port (bits v 43 32)
    .next (if bits v 19 14 = s.dev.chip then t else t.send (bits v 19 14) (.transit flit) (transitHash flit))

/-- What a port held that carries no request of this chip goes over another path. -/
def State.reroute (s : State) (fs : List (Nat × Msg)) : State :=
  fs.foldl (fun s (dst, m) =>
    if s.reqs.any fun r => r.msg == m then s
    else s.send dst m) s

/-- PORT_DOWN (R465, R470): 16 replays of one flit, or 100 us without acknowledgement. Requests sent over the port are reissued on the
remaining paths. -/
def execPortDown (port : Nat) (s : State) : Out :=
  let p := s.port port
  if !p.up || !(decide (16 ≤ p.replays) || (!p.replay.isEmpty && decide (p.lastAck + 100000 ≤ s.gtc))) then .next s
  else
    let first (r : Req) : Bool := p.wait.any fun w => w.2 == r.msg
    let t := s.setPort port { p with up := false, replay := [], wait := [], replays := 0, trainAt := s.gtc + 10000000 }
    let t := (t.reqs.filter fun r => r.port == some port && !r.held && (decide (r.sends < 4) || first r)).foldl (fun t r => t.resend r (first r)) t
    .next ((t.reroute (p.replay.map (·.2) ++ p.wait)).report (0x3000 + port) 1 0x16 0 0 0 0 0 0)

/-- PORT_RETRAIN (R470): every 10 ms a down port trains again; one that the configuration image lists stays out of service. -/
def execPortRetrain (port : Nat) (ok : Bool) (s : State) : Out :=
  let p := s.port port
  if p.up || 16 ≤ port || s.dev.image.portsOut.contains port || s.gtc < p.trainAt || !s.dev.ready then .next s
  else if ok then .next (s.setPort port { Port.reset with up := true, lastAck := s.gtc, alignAt := s.gtc, crcFails := p.crcFails })
  else .next (s.setPort port { p with trainAt := s.gtc + 10000000 })

/-! ### The GTC (R468) and joins (R471) -/

/-- GTC_ALIGN_TIMER (R468): every 100 us a time-stamped flit goes out over a port. -/
def execGtcAlignTimer (port : Nat) (s : State) : Out :=
  let p := s.port port
  if !p.up || s.gtc < p.alignAt || !p.room (.gtc s.gtc) then .next s
  else .next ((s.setPort port { p with alignAt := s.gtc + 100000 }).sendOn port (64 + port) (.gtc s.gtc))

/-- The time that a flit shows lies within 25 ns of this chip's (R468). -/
def State.inBound (s : State) (stamp : Nat) : Bool := decide (stamp ≤ s.gtc + 25) && decide (s.gtc ≤ stamp + 25)

/-- GTC_ALIGN_MSG (R468): a flit within the bound confirms it for its chip (log 105); a chip other than the master slews towards the time that
the flit shows. -/
def execGtcAlignMsg (src stamp : Nat) (s : State) : Out :=
  if s.fencedChip src then .next s
  else
    let t := if s.inBound stamp then s.confirmBound src else s
    .next (if s.master = s.dev.chip then t else { t with slew := (stamp : Int) - s.gtc })

/-- GTC_BOUND_LOST (R59, R468): the master fences a chip that has not confirmed the bound for 1 ms. -/
def execGtcBoundLost (chip : Nat) (s : State) : Out :=
  if s.master = s.dev.chip && s.peers.contains chip && decide (Nat.max s.dev.bootedAt (NMap.get 0 s.dev.aligned chip) + 1000000 ≤ s.gtc) then
    .next (s.fenceAll (chipBit chip))
  else .next s

/-- JOIN_MSG (R471): the join of a chip is answered once every chip to which this one has passed it on has answered. -/
def execJoinMsg (j : JoinNote) (s : State) : Out :=
  s.peerRequest { chip := j.src, agent := .samovar } j.tag fun s =>
    if s.joins.contains j then
      (if s.joinOpen j.chip then .waits s else .done { s with joins := s.joins.erase j } [])
    else if s.master = s.dev.chip then .waits { s.joinChip j.chip with joins := s.joins ++ [j] }
    else .done (s.joinChip j.chip) []

end Sys2Proof.Machine
end

