-- ==== Sys2Proof/Machine/XScalar.lean ====
section
/-! DEFINITION. X scalar syllables (R326-R328). -/

namespace Sys2Proof.Machine

/-- The conditions of R327 on ordered values. -/
def condHolds (c : Nat) (a b : Int) : Bool :=
  match c with
  | 0 => a == b
  | 1 => a != b
  | 2 => decide (a < b)
  | 3 => decide (a ≤ b)
  | 4 => decide (a > b)
  | _ => decide (a ≥ b)

/-- A 64-bit value as the type `.i64` (TYPE 4) or another reads it. -/
def xval (ty : BitVec 4) (v : W64) : Int := if ty == 4 then v.toInt else v.toNat

/-- A shift left by a natural count (R326). -/
def shl64 (a b : W64) : W64 := if 64 ≤ b.toNat then 0 else a <<< b.toNat

/-- A shift right by a natural count: arithmetic for `.i64`, logical for `.n64` (R326). -/
def shr64 (ty : BitVec 4) (a b : W64) : W64 :=
  if ty == 4 then a.sshiftRight (Nat.min b.toNat 63) else if 64 ≤ b.toNat then 0 else a >>> b.toNat

/-- XADD (R326). -/
def execXadd (f : XF) (s : State) : Out := s.xscalar f 1 (s.xr f.a + s.xb f)
/-- XSUB (R326). -/
def execXsub (f : XF) (s : State) : Out := s.xscalar f 1 (s.xr f.a - s.xb f)
/-- XMUL (R326); its latency is 3 (R324). -/
def execXmul (f : XF) (s : State) : Out := s.xscalar f 3 (s.xr f.a * s.xb f)
/-- XAND (R326). -/
def execXand (f : XF) (s : State) : Out := s.xscalar f 1 (s.xr f.a &&& s.xb f)
/-- XORX (R326). -/
def execXorx (f : XF) (s : State) : Out := s.xscalar f 1 (s.xr f.a ||| s.xb f)
/-- XXOR (R326). -/
def execXxor (f : XF) (s : State) : Out := s.xscalar f 1 (s.xr f.a ^^^ s.xb f)
/-- XSHL (R326). -/
def execXshl (f : XF) (s : State) : Out := s.xscalar f 1 (shl64 (s.xr f.a) (s.xb f))
/-- XSHR (R326). -/
def execXshr (f : XF) (s : State) : Out := s.xscalar f 1 (shr64 f.ty (s.xr f.a) (s.xb f))
/-- XMIN (R326). -/
def execXmin (f : XF) (s : State) : Out :=
  s.xscalar f 1 (if xval f.ty (s.xr f.a) ≤ xval f.ty (s.xb f) then s.xr f.a else s.xb f)
/-- XMAX (R326). -/
def execXmax (f : XF) (s : State) : Out :=
  s.xscalar f 1 (if xval f.ty (s.xr f.a) ≤ xval f.ty (s.xb f) then s.xb f else s.xr f.a)
/-- XLI (R328). -/
def execXli (f : XF) (s : State) : Out := s.xscalar f 1 f.imm
/-- XCMP (R326, R327). -/
def execXcmp (f : XF) (s : State) : Out :=
  s.xscalar f 1 (if condHolds (f.fn.toNat % 8) (xval f.ty (s.xr f.a)) (xval f.ty (s.xb f)) then 1 else 0)

end Sys2Proof.Machine
end

