-- ==== Sys2Proof/Machine/Vector.lean ====
section
/-! DEFINITION. Vector integer syllables (R323, R333-R335) but for VMIX. -/

namespace Sys2Proof.Machine

/-- Slot `i` of width `w` of a lane word (R242). -/
def elem (w i : Nat) (v : W32) : Nat := v.toNat / 2 ^ (w * i) % 2 ^ w

/-- The lane word of slots `e 0, e 1, …` of width `w`, each taken modulo 2^w. -/
def packE (w : Nat) (e : Nat → Nat) : W32 :=
  BitVec.ofNat 32 ((List.range (32 / w)).foldl (fun acc i => acc + e i % 2 ^ w * 2 ^ (w * i)) 0)

/-- Whether a packed integer type is two's complement. -/
def vSigned (ty : BitVec 4) : Bool := ty.toNat ≤ 4

/-- A `w`-bit element as the type reads it: Sg or Nt (R323). -/
def vval (sg : Bool) (w v : Nat) : Int := if sg then sext w v else (v : Int)

/-- Sat (R323). -/
def sat (sg : Bool) (w : Nat) (i : Int) : Int :=
  if sg then max (-(2 ^ (w - 1) : Nat)) (min ((2 ^ (w - 1) : Nat) - 1) i) else max 0 (min ((2 ^ w : Nat) - 1) i)

/-- A packed integer syllable of one, two and three sources: the op takes whether the type is signed, the width and the
elements. -/
def State.vec1 (s : State) (f : XF) (lat : Nat) (op : Bool → Nat → Nat → Nat) : Out :=
  let w := typeWidth f.ty.toNat
  s.xtile f lat fun l => packE w fun i => op (vSigned f.ty) w (elem w i (s.srcA f l))
def State.vec2 (s : State) (f : XF) (lat : Nat) (op : Bool → Nat → Nat → Nat → Nat) : Out :=
  let w := typeWidth f.ty.toNat
  s.xtile f lat fun l => packE w fun i => op (vSigned f.ty) w (elem w i (s.srcA f l)) (elem w i (s.srcB f l))
def State.vec3 (s : State) (f : XF) (lat : Nat) (op : Bool → Nat → Nat → Nat → Nat → Nat) : Out :=
  let w := typeWidth f.ty.toNat
  s.xtile f lat fun l => packE w fun i =>
    op (vSigned f.ty) w (elem w i (s.srcA f l)) (elem w i (s.srcB f l)) (elem w i (s.srcC f l))

/-- The element results of R333. -/
def vAdd (_ : Bool) (w a b : Nat) : Nat := (a + b) % 2 ^ w
def vSub (_ : Bool) (w a b : Nat) : Nat := (a + (2 ^ w - b)) % 2 ^ w
def vMul (_ : Bool) (w a b : Nat) : Nat := a * b % 2 ^ w
def vMulh (sg : Bool) (w a b : Nat) : Nat := wrap w (vval sg w a * vval sg w b / (2 ^ w : Nat))
def vMadd (_ : Bool) (w a b c : Nat) : Nat := (a * b + c) % 2 ^ w
def vMin (sg : Bool) (w a b : Nat) : Nat := if vval sg w a ≤ vval sg w b then a else b
def vMax (sg : Bool) (w a b : Nat) : Nat := if vval sg w a ≤ vval sg w b then b else a
def vShl (_ : Bool) (w a n : Nat) : Nat := if w ≤ n then 0 else a * 2 ^ n % 2 ^ w
def vShr (_ : Bool) (w a n : Nat) : Nat := if w ≤ n then 0 else a / 2 ^ n
def vSar (_ : Bool) (w a n : Nat) : Nat := wrap w (sext w a / (2 ^ Nat.min n (w - 1) : Nat))
def vAbs (_ : Bool) (w a : Nat) : Nat := (sext w a).natAbs % 2 ^ w
def vSadd (sg : Bool) (w a b : Nat) : Nat := wrap w (sat sg w (vval sg w a + vval sg w b))
def vSsub (sg : Bool) (w a b : Nat) : Nat := wrap w (sat sg w (vval sg w a - vval sg w b))
def vPopc (_ : Bool) (w a : Nat) : Nat := popc a w
def vClz (_ : Bool) (w a : Nat) : Nat := if a = 0 then w else w - 1 - Nat.log2 a

/-- VADD (R333). -/
def execVadd (f : XF) (s : State) : Out := s.vec2 f 2 vAdd
/-- VSUB (R333). -/
def execVsub (f : XF) (s : State) : Out := s.vec2 f 2 vSub
/-- VMUL (R333); its latency is 4 (R324). -/
def execVmul (f : XF) (s : State) : Out := s.vec2 f 4 vMul
/-- VMULH (R333). -/
def execVmulh (f : XF) (s : State) : Out := s.vec2 f 4 vMulh
/-- VMADD (R333). -/
def execVmadd (f : XF) (s : State) : Out := s.vec3 f 4 vMadd
/-- VMIN (R333). -/
def execVmin (f : XF) (s : State) : Out := s.vec2 f 2 vMin
/-- VMAX (R333). -/
def execVmax (f : XF) (s : State) : Out := s.vec2 f 2 vMax
/-- VAND (R333). -/
def execVand (f : XF) (s : State) : Out := s.xtile f 2 fun l => s.srcA f l &&& s.srcB f l
/-- VOR (R333). -/
def execVor (f : XF) (s : State) : Out := s.xtile f 2 fun l => s.srcA f l ||| s.srcB f l
/-- VXOR (R333). -/
def execVxor (f : XF) (s : State) : Out := s.xtile f 2 fun l => s.srcA f l ^^^ s.srcB f l
/-- VSHL (R333). -/
def execVshl (f : XF) (s : State) : Out := s.vec2 f 2 vShl
/-- VSHR (R333). -/
def execVshr (f : XF) (s : State) : Out := s.vec2 f 2 vShr
/-- VSAR (R333). -/
def execVsar (f : XF) (s : State) : Out := s.vec2 f 2 vSar
/-- VABS (R333). -/
def execVabs (f : XF) (s : State) : Out := s.vec1 f 2 vAbs
/-- VSADD (R333). -/
def execVsadd (f : XF) (s : State) : Out := s.vec2 f 2 vSadd
/-- VSSUB (R333). -/
def execVssub (f : XF) (s : State) : Out := s.vec2 f 2 vSsub
/-- VPOPC (R333). -/
def execVpopc (f : XF) (s : State) : Out := s.vec1 f 2 vPopc
/-- VCLZ (R333). -/
def execVclz (f : XF) (s : State) : Out := s.vec1 f 2 vClz
/-- VCMP (R334): one bit per lane, of the slot in FN[5:4]. -/
def execVcmp (f : XF) (s : State) : Out :=
  let w := typeWidth f.ty.toNat
  let i := bits f.fn.toNat 5 4
  let sg := f.ty != 0 && vSigned f.ty
  s.xpred f 2 fun l =>
    (condHolds (f.fn.toNat % 8) (vval sg w (elem w i (s.srcA f l))) (vval sg w (elem w i (s.srcB f l))), 0)
/-- VSEL (R335). -/
def execVsel (f : XF) (s : State) : Out :=
  let k := s.x.pred (f.fn.toNat % 16)
  s.xtile f 2 fun l => if k.getLsbD l then s.srcA f l else s.srcB f l

end Sys2Proof.Machine
end

