-- ==== Sys2Proof/Machine/Float.lean ====
section
/-! DEFINITION. Floating, special, conversion and reduction syllables, VMIX and loss scaling (R253-R263, R336, R337, R339). -/

namespace Sys2Proof.Machine

/-- The lane word of slot results with their flags. -/
def packF (w : Nat) (e : Nat → Nat × Nat) : W32 × Nat :=
  (packE w fun i => (e i).1, (List.range (32 / w)).foldl (fun acc i => acc ||| (e i).2) 0)

/-- The floating format of a syllable's TYPE. -/
def fpFmt (f : XF) : Fmt := (fmtOfType f.ty.toNat).getD .f32

/-- Floating syllables of one, two and three sources, slot by slot (R323). -/
def State.fp1 (s : State) (f : XF) (lat : Nat) (op : Fmt → Nat → Nat × Nat) : Out :=
  let k := fpFmt f
  let w := fmtWidth k
  s.xtileFlags f lat fun l => packF w fun i => op k (elem w i (s.srcA f l))
def State.fp2 (s : State) (f : XF) (lat : Nat) (op : Fmt → Nat → Nat → Nat × Nat) : Out :=
  let k := fpFmt f
  let w := fmtWidth k
  s.xtileFlags f lat fun l => packF w fun i => op k (elem w i (s.srcA f l)) (elem w i (s.srcB f l))
def State.fp3 (s : State) (f : XF) (lat : Nat) (op : Fmt → Nat → Nat → Nat → Nat × Nat) : Out :=
  let k := fpFmt f
  let w := fmtWidth k
  s.xtileFlags f lat fun l => packF w fun i =>
    op k (elem w i (s.srcA f l)) (elem w i (s.srcB f l)) (elem w i (s.srcC f l))

/-- FADD (R336). -/
def execFadd (f : XF) (s : State) : Out := s.fp2 f 4 fadd
/-- FSUB (R336). -/
def execFsub (f : XF) (s : State) : Out := s.fp2 f 4 fsub
/-- FMUL (R336). -/
def execFmul (f : XF) (s : State) : Out := s.fp2 f 4 fmul
/-- FFMA (R336). -/
def execFfma (f : XF) (s : State) : Out := s.fp3 f 4 ffma
/-- FMIN (R336). -/
def execFmin (f : XF) (s : State) : Out := s.fp2 f 2 fun k => fmin k false
/-- FMAX (R336). -/
def execFmax (f : XF) (s : State) : Out := s.fp2 f 2 fun k => fmin k true
/-- FMINN (R336). -/
def execFminn (f : XF) (s : State) : Out := s.fp2 f 2 fun k => fminn k false
/-- FMAXN (R336). -/
def execFmaxn (f : XF) (s : State) : Out := s.fp2 f 2 fun k => fminn k true
/-- FABS (R336). -/
def execFabs (f : XF) (s : State) : Out := s.fp1 f 2 fabs
/-- FNEG (R336). -/
def execFneg (f : XF) (s : State) : Out := s.fp1 f 2 fneg
/-- FCMP (R336): of the slot in FN[5:4]. -/
def execFcmp (f : XF) (s : State) : Out :=
  let k := fpFmt f
  let w := fmtWidth k
  let i := bits f.fn.toNat 5 4
  s.xpred f 2 fun l => fcmp k (f.fn.toNat % 8) (elem w i (s.srcA f l)) (elem w i (s.srcB f l))
/-- FRCP (R337). -/
def execFrcp (f : XF) (s : State) : Out := s.fp1 f 10 frcp
/-- FRSQ (R337). -/
def execFrsq (f : XF) (s : State) : Out := s.fp1 f 10 frsq
/-- FEXP2 (R337). -/
def execFexp2 (f : XF) (s : State) : Out := s.fp1 f 10 fexp2
/-- FLOG2 (R337). -/
def execFlog2 (f : XF) (s : State) : Out := s.fp1 f 10 flog2
/-- FTANH (R337). -/
def execFtanh (f : XF) (s : State) : Out := s.fp1 f 10 ftanh

/-! ### VMIX (R260) -/

/-- VMIX of one element. -/
def vmix (l : Nat) (a b : W32) : W32 :=
  let v := a ^^^ (b * 0x2C1B3C6D#32).rotateLeft 16
  let v := v + BitVec.ofNat 32 (l + 1) * 0x6A5D39E9#32
  let v := v ^^^ (v >>> 16)
  let v := v * 0x297A2D39#32
  let v := v ^^^ (v >>> 15)
  let v := v * 0x4B935D27#32
  v ^^^ (v >>> 16)

/-- VMIX (R260). -/
def execVmix (f : XF) (s : State) : Out := s.xtile f 4 fun l => vmix l (s.srcA f l) (s.srcB f l)

/-! ### Conversions (R253-R258) -/

/-- A slot of a lane word replaced. -/
def setElem (w i : Nat) (v : W32) (e : Nat) : W32 := BitVec.ofNat 32 (setBits v.toNat (w * i + w - 1) (w * i) e)

/-- The lane word of R255: `conv` converts an element. -/
def convertLane (ws wd h : Nat) (a c : W32) (conv : Nat → Nat × Nat) : W32 × Nat :=
  let ns := 32 / ws
  let nd := 32 / wd
  if ns ≤ nd then
    (List.range ns).foldl (fun (w, fl) i =>
      let r := conv (elem ws i a)
      (setElem wd (h * ns + i) w r.1, fl ||| r.2)) (if ns = nd then 0 else c, 0)
  else packF wd fun i => conv (elem ws (h * nd + i) a)

/-- H and SAT of a conversion syllable (R253). -/
def cvtH (f : XF) : Nat := bits f.imm.toNat 33 32
def cvtSat (f : XF) : Bool := bit f.imm.toNat 34

/-- CVT (R255). -/
def execCvt (f : XF) (s : State) : Out :=
  let src := bits f.fn.toNat 3 0
  let dst := f.ty.toNat
  s.xtileFlags f 4 fun l =>
    convertLane (typeWidth src) (typeWidth dst) (cvtH f) (s.srcA f l) (s.srcC f l) fun v =>
      convert src dst (cvtSat f) (valueOf src v)

/-- CVTSR (R256). -/
def execCvtsr (f : XF) (s : State) : Out :=
  let n := bits f.fn.toNat 7 4 + 1
  let dst := f.ty.toNat
  s.xtileFlags f 5 fun l =>
    convertLane 32 (typeWidth dst) (cvtH f) (s.srcA f l) (s.srcC f l) fun v =>
      convertSR dst (cvtSat f) n ((s.srcB f l).toNat % 2 ^ n) v

/-- The packed element `j` of row `r` (R242). -/
def State.rowElem (src : Nat → W32) (w r j : Nat) : Nat :=
  let n := 32 / w
  elem w (j % n) (src (64 * r + j / n))

/-- The four blocks of a row that PLANES forms, with their flags (R257). -/
def State.rowPlanes (s : State) (f : XF) (r : Nat) : List (List Byte × Nat) :=
  let t := f.ty.toNat
  let w := typeWidth t
  let p := bits f.fn.toNat 3 0 + 1
  let h := cvtH f
  (List.range 4).map fun q =>
    let es := (List.range 16).map fun i => State.rowElem (s.srcA f) w r (64 * h + 16 * q + i)
    if t = 0xE then
      let x := State.rowElem (s.srcB f) 8 r (2 * h + q / 2)
      if 4 ≤ p then ((planesOfMX es x p).bytes p, if x = 0xFF then fNV else 0)
      else
        let b := planesOf (es.map (scaledE2m1 x)) p
        (b.1.bytes p, b.2)
    else
      let b := planesOf (es.map (valueOf t)) p
      (b.1.bytes p, b.2)

/-- PLANES (R257). -/
def execPlanes (f : XF) (s : State) : Out :=
  let size := 2 * (bits f.fn.toNat 3 0 + 3)
  let rows := (List.range 16).map fun r => s.rowPlanes f r
  s.xtileFlags f 6 fun l =>
    let row := rows.getD (l / 64) []
    let c := l % 64
    let bs := (row.flatMap Prod.fst).drop (4 * c) |>.take 4
    let touched := (List.range 4).filter fun q => q * size < 4 * c + 4 && 4 * c < (q + 1) * size
    (BitVec.ofNat 32 (ofBytes bs), touched.foldl (fun acc q => acc ||| (row.getD q ([], 0)).2) 0)

/-- UNPLANE (R258). -/
def execUnplane (f : XF) (s : State) : Out :=
  let p := bits f.fn.toNat 3 0 + 1
  let dst := f.ty.toNat
  let wd := typeWidth dst
  let n := 32 / wd
  let rows := (List.range 16).map fun r =>
    let bs := (List.range 64).flatMap fun c => toBytes 4 (s.srcA f (64 * r + c)).toNat
    (List.range 4).flatMap fun q =>
      let b := Block.ofBytes p (bs.drop (2 * (p + 2) * q))
      (List.range 16).map fun i => convert 9 dst (cvtSat f) (b.elem i)
  s.xtileFlags f 6 fun l =>
    let row := rows.getD (l / 64) []
    (List.range n).foldl (fun (w, fl) i =>
      let j := n * (l % 64) + i
      if 64 * cvtH f ≤ j && j < 64 * cvtH f + 64 then
        let r := row.getD (j - 64 * cvtH f) (0, 0)
        (setElem wd i w r.1, fl ||| r.2)
      else (w, fl)) (if n = 1 then 0 else s.srcC f l, 0)

/-! ### Reductions and scans (R339) -/

/-- A word with the flags that arose in it. -/
abbrev WF := Nat × Nat

/-- The operation of FN[1:0] on words of `.f32`, `.i32` or `.n32`. -/
def redOp (ty op : Nat) (x y : WF) : WF :=
  let sg := ty == 3
  let r : WF :=
    if ty = 9 then (match op with
      | 0 => fadd .f32 x.1 y.1
      | 1 => fmin .f32 true x.1 y.1
      | _ => fmin .f32 false x.1 y.1)
    else (match op with
      | 0 => vAdd sg 32 x.1 y.1
      | 1 => vMax sg 32 x.1 y.1
      | _ => vMin sg 32 x.1 y.1, 0)
  (r.1, r.2 ||| x.2 ||| y.2)

/-- One level of the pairwise tree. -/
def treeLevel (op : WF → WF → WF) : List WF → List WF
  | x :: y :: l => op x y :: treeLevel op l
  | l => l

/-- The pairwise tree in ascending index (R251, R339). -/
def tree (op : WF → WF → WF) : Nat → List WF → WF
  | 0, l => l.headD (0, 0)
  | k + 1, l => tree op k (treeLevel op l)

/-- The inclusive prefix of R339. -/
def scan (op : WF → WF → WF) (l : List WF) : List WF :=
  [1, 2, 4, 8, 16, 32].foldl (fun s d => (List.range s.length).map fun c =>
    if d ≤ c then op (s.getD (c - d) (0, 0)) (s.getD c (0, 0)) else s.getD c (0, 0)) l

/-- A word of A as a leaf: a signalling NaN raises NV (R339). -/
def State.leaf (s : State) (f : XF) (l : Nat) : WF :=
  let v := (s.srcA f l).toNat
  (v, if f.ty == 9 then nvIf (fIsSnan (fpVal .f32 v)) else 0)

def asWord (x : WF) : W32 × Nat := (BitVec.ofNat 32 x.1, x.2)

/-- REDROW (R339). -/
def execRedrow (f : XF) (s : State) : Out :=
  let op := redOp f.ty.toNat (f.fn.toNat % 4)
  let rows := (List.range 16).map fun r => tree op 6 ((List.range 64).map fun c => s.leaf f (64 * r + c))
  s.xtileFlags f 9 fun l => asWord (rows.getD (l / 64) (0, 0))
/-- REDCOL (R339). -/
def execRedcol (f : XF) (s : State) : Out :=
  let op := redOp f.ty.toNat (f.fn.toNat % 4)
  let cols := (List.range 64).map fun c => tree op 4 ((List.range 16).map fun r => s.leaf f (64 * r + c))
  s.xtileFlags f 6 fun l => asWord (cols.getD (l % 64) (0, 0))
/-- SCANROW (R339). -/
def execScanrow (f : XF) (s : State) : Out :=
  let op := redOp f.ty.toNat (f.fn.toNat % 4)
  let rows := (List.range 16).map fun r => scan op ((List.range 64).map fun c => s.leaf f (64 * r + c))
  s.xtileFlags f 9 fun l => asWord ((rows.getD (l / 64) []).getD (l % 64) (0, 0))

/-! ### Loss scaling (R261-R263) -/

def lsSexp (v : Nat) : Int := sext 8 (bits v 7 0)
def lsLo (v : Nat) : Int := sext 8 (bits v 15 8)
def lsHi (v : Nat) : Int := sext 8 (bits v 23 16)

/-- The adjustments of LSUPD.set (R262). -/
def lsAdjust (v : Nat) : Nat :=
  let lo := max (-126) (lsLo v)
  let hi := max lo (max (-126) (lsHi v))
  let se := max lo (min hi (lsSexp v))
  wrap 8 se + wrap 8 lo * 2 ^ 8 + wrap 8 hi * 2 ^ 16 + bits v 57 24 * 2 ^ 24

/-- The `.f32` bits of 2^e, −126 ≤ e ≤ 127. -/
def f32Pow (e : Int) : Nat := (e + 127).toNat * 2 ^ 23

/-- A step of loss scaling (R263): the new register and the status bits. -/
def lsStep (v : Nat) (ov : Bool) : Nat × Nat :=
  let se := lsSexp v
  let put (v : Nat) (e : Int) : Nat := setBits v 7 0 (wrap 8 e)
  if ov then
    let v := setBits v 55 40 0
    if lsLo v < se then (put v (se - 1), 5) else (setBits v 56 56 1, 9)
  else if bits v 39 24 = 0 then (v, 0)
  else
    let c := bits v 55 40 + 1
    if bits v 39 24 ≤ c then
      let v := setBits v 55 40 0
      if se < lsHi v then (put v (se + 1), 2) else (setBits v 57 57 1, 8)
    else (setBits v 55 40 c, 0)

/-- LSUPD (R262, R263): one step. -/
def execLsupd (f : XF) (s : State) : Out :=
  let r := lsStep s.x.ls.toNat (s.xr f.a != 0)
  s.xissue f [(1, .ls r.1), (1, .x (opIdx f.d) (BitVec.ofNat 64 (f32Pow (lsSexp r.1) * 2 ^ 32 + r.2)))]
/-- LSUPD.get (R262). -/
def execLsupdGet (f : XF) (s : State) : Out := s.xscalar f 1 s.x.ls
/-- LSUPD.set (R262). -/
def execLsupdSet (f : XF) (s : State) : Out := s.xissue f [(1, .ls (lsAdjust (s.xr f.a).toNat))]
/-- LSUPD.flg (R262): the flags as they stand, then those of xa[4:0] are cleared before flags that land at issue + 1. -/
def execLsupdFlg (f : XF) (s : State) : Out :=
  s.xissue f [(1, .x (opIdx f.d) s.x.xfp), (1, .xfpClear ((s.xr f.a).toNat % 32))]

end Sys2Proof.Machine
end

