-- ==== Sys2Proof/Machine/Int.lean ====
section
/-! DEFINITION. A-core integer and control instructions (R264-R281). -/

namespace Sys2Proof.Machine

/-- An instruction that writes `v` to its destination (R264, R265). -/
def State.alu (s : State) (f : AF) (v : W64) : Out := whenReady s [f.d, f.sa, f.sb] (s.result f.d v)

/-- 1 or 0 (R270). -/
def bool64 (b : Bool) : W64 := if b then 1 else 0

/-- Bits [127:64] of an exact product (R270). -/
def highOf (p : Int) : W64 := BitVec.ofInt 64 (p / 2 ^ 64)

/-- Signed and natural quotient and remainder (R271). -/
def quotS (a b : W64) : W64 :=
  if b = 0 then BitVec.allOnes 64 else if a = BitVec.intMin 64 && b = BitVec.allOnes 64 then a else BitVec.ofInt 64 (a.toInt.tdiv b.toInt)
def remS (a b : W64) : W64 :=
  if b = 0 then a else if a = BitVec.intMin 64 && b = BitVec.allOnes 64 then 0 else BitVec.ofInt 64 (a.toInt.tmod b.toInt)
def quotN (a b : W64) : W64 := if b = 0 then BitVec.allOnes 64 else BitVec.ofNat 64 (a.toNat / b.toNat)
def remN (a b : W64) : W64 := if b = 0 then a else BitVec.ofNat 64 (a.toNat % b.toNat)

/-- Shifts and rotates by a natural count (R274). -/
def shlOp (a : W64) (n : Nat) : W64 := if 64 ≤ n then 0 else a <<< n
def shrOp (a : W64) (n : Nat) : W64 := if 64 ≤ n then 0 else a >>> n
def sarOp (a : W64) (n : Nat) : W64 := a.sshiftRight (Nat.min n 63)
def rolOp (a : W64) (n : Nat) : W64 := a.rotateLeft (n % 64)
def rotrOp (a : W64) (n : Nat) : W64 := a.rotateRight (n % 64)

/-- The count of an immediate shift. -/
def shCount (f : AF) : Nat := bits f.imm.toNat 5 0

/-- CLZ and CTZ (R275). -/
def clzOp (a : W64) : Nat := if a = 0 then 64 else 63 - Nat.log2 a.toNat
def ctzOp (a : W64) : Nat := ((List.range 64).find? fun i => a.getLsbD i).getD 64

/-- The bits actually taken of a field of width `w` at offset `o` (R277). -/
def fieldBits (w o : Nat) : Nat := if w = 0 || 64 ≤ o then 0 else Nat.min w (64 - o)
def extzOp (a : W64) (w o : Nat) : W64 :=
  let n := fieldBits w o
  if n = 0 then 0 else BitVec.ofNat 64 (bits a.toNat (o + n - 1) o)
def extsOp (a : W64) (w o : Nat) : W64 :=
  let n := fieldBits w o
  if n = 0 then 0 else BitVec.ofInt 64 (sext n (bits a.toNat (o + n - 1) o))
def insOp (d a : W64) (w o : Nat) : W64 :=
  let n := fieldBits w o
  if n = 0 then d else BitVec.ofNat 64 (setBits d.toNat (o + n - 1) o (bits a.toNat (n - 1) 0))

/-- Width and offset of the immediate form and of the register form (R277). -/
def bfW (f : AF) : Nat := bits f.imm.toNat 6 0
def bfO (f : AF) : Nat := bits f.imm.toNat 14 8
def bfvW (v : W64) : Nat := Nat.min (bits v.toNat 6 0) 64
def bfvO (v : W64) : Nat := bits v.toNat 14 8

/-- The target of an offset in 8-byte units from the instruction (R209). -/
def State.target (s : State) (f : AF) : W64 := s.a.pc + (simm f) * 8

/-- A branch on a condition (R278, R279). -/
def State.branch (s : State) (f : AF) (c : Bool) : Out :=
  whenReady s [f.sa, f.sb] (if c then s.setPc (s.target f) else s.advance)

/-- ADD (R270). -/
def execAdd (f : AF) (s : State) : Out := s.alu f (s.g f.sa + s.g f.sb)
/-- SUB (R270). -/
def execSub (f : AF) (s : State) : Out := s.alu f (s.g f.sa - s.g f.sb)
/-- MUL (R270). -/
def execMul (f : AF) (s : State) : Out := s.alu f (s.g f.sa * s.g f.sb)
/-- MULH (R270). -/
def execMulh (f : AF) (s : State) : Out := s.alu f (highOf ((s.g f.sa).toInt * (s.g f.sb).toInt))
/-- MULHN (R270). -/
def execMulhn (f : AF) (s : State) : Out := s.alu f (highOf ((s.g f.sa).toNat * (s.g f.sb).toNat : Nat))
/-- DIV (R271). -/
def execDiv (f : AF) (s : State) : Out := s.alu f (quotS (s.g f.sa) (s.g f.sb))
/-- DIVN (R271). -/
def execDivn (f : AF) (s : State) : Out := s.alu f (quotN (s.g f.sa) (s.g f.sb))
/-- REM (R271). -/
def execRem (f : AF) (s : State) : Out := s.alu f (remS (s.g f.sa) (s.g f.sb))
/-- REMN (R271). -/
def execRemn (f : AF) (s : State) : Out := s.alu f (remN (s.g f.sa) (s.g f.sb))
/-- AND (R270). -/
def execAnd (f : AF) (s : State) : Out := s.alu f (s.g f.sa &&& s.g f.sb)
/-- OR (R270). -/
def execOr (f : AF) (s : State) : Out := s.alu f (s.g f.sa ||| s.g f.sb)
/-- XOR (R270). -/
def execXor (f : AF) (s : State) : Out := s.alu f (s.g f.sa ^^^ s.g f.sb)
/-- ANDN (R270). -/
def execAndn (f : AF) (s : State) : Out := s.alu f (s.g f.sa &&& ~~~s.g f.sb)
/-- SHL (R274). -/
def execShl (f : AF) (s : State) : Out := s.alu f (shlOp (s.g f.sa) (s.g f.sb).toNat)
/-- SHL_IMM (R274). -/
def execShlImm (f : AF) (s : State) : Out := s.alu f (shlOp (s.g f.sa) (shCount f))
/-- SHR (R274). -/
def execShr (f : AF) (s : State) : Out := s.alu f (shrOp (s.g f.sa) (s.g f.sb).toNat)
/-- SHR_IMM (R274). -/
def execShrImm (f : AF) (s : State) : Out := s.alu f (shrOp (s.g f.sa) (shCount f))
/-- SAR (R274). -/
def execSar (f : AF) (s : State) : Out := s.alu f (sarOp (s.g f.sa) (s.g f.sb).toNat)
/-- SAR_IMM (R274). -/
def execSarImm (f : AF) (s : State) : Out := s.alu f (sarOp (s.g f.sa) (shCount f))
/-- ROL (R274). -/
def execRol (f : AF) (s : State) : Out := s.alu f (rolOp (s.g f.sa) (s.g f.sb).toNat)
/-- ROL_IMM (R274). -/
def execRolImm (f : AF) (s : State) : Out := s.alu f (rolOp (s.g f.sa) (shCount f))
/-- ROTR (R274). -/
def execRotr (f : AF) (s : State) : Out := s.alu f (rotrOp (s.g f.sa) (s.g f.sb).toNat)
/-- ROTR_IMM (R274). -/
def execRotrImm (f : AF) (s : State) : Out := s.alu f (rotrOp (s.g f.sa) (shCount f))
/-- CLZ (R275). -/
def execClz (f : AF) (s : State) : Out := s.alu f (BitVec.ofNat 64 (clzOp (s.g f.sa)))
/-- CTZ (R275). -/
def execCtz (f : AF) (s : State) : Out := s.alu f (BitVec.ofNat 64 (ctzOp (s.g f.sa)))
/-- POPC (R275). -/
def execPopc (f : AF) (s : State) : Out := s.alu f (BitVec.ofNat 64 (popc (s.g f.sa).toNat 64))
/-- MIN (R270). -/
def execMin (f : AF) (s : State) : Out := s.alu f (if (s.g f.sa).toInt ≤ (s.g f.sb).toInt then s.g f.sa else s.g f.sb)
/-- MAX (R270). -/
def execMax (f : AF) (s : State) : Out := s.alu f (if (s.g f.sa).toInt ≤ (s.g f.sb).toInt then s.g f.sb else s.g f.sa)
/-- MINN (R270). -/
def execMinn (f : AF) (s : State) : Out := s.alu f (if (s.g f.sa).toNat ≤ (s.g f.sb).toNat then s.g f.sa else s.g f.sb)
/-- MAXN (R270). -/
def execMaxn (f : AF) (s : State) : Out := s.alu f (if (s.g f.sa).toNat ≤ (s.g f.sb).toNat then s.g f.sb else s.g f.sa)
/-- ADDI (R272). -/
def execAddi (f : AF) (s : State) : Out := s.alu f (s.g f.sa + simm f)
/-- ANDI (R272). -/
def execAndi (f : AF) (s : State) : Out := s.alu f (s.g f.sa &&& simm f)
/-- ORI (R272). -/
def execOri (f : AF) (s : State) : Out := s.alu f (s.g f.sa ||| simm f)
/-- XORI (R272). -/
def execXori (f : AF) (s : State) : Out := s.alu f (s.g f.sa ^^^ simm f)
/-- LI (R273). -/
def execLi (f : AF) (s : State) : Out := s.alu f (simm f)
/-- LIH (R273). -/
def execLih (f : AF) (s : State) : Out := s.alu f (f.imm ++ (s.g f.d).extractLsb' 0 32)
/-- EXTS (R277). -/
def execExts (f : AF) (s : State) : Out := s.alu f (extsOp (s.g f.sa) (bfW f) (bfO f))
/-- EXTS_VAR (R277). -/
def execExtsVar (f : AF) (s : State) : Out := s.alu f (extsOp (s.g f.sa) (bfvW (s.g f.sb)) (bfvO (s.g f.sb)))
/-- EXTZ (R277). -/
def execExtz (f : AF) (s : State) : Out := s.alu f (extzOp (s.g f.sa) (bfW f) (bfO f))
/-- EXTZ_VAR (R277). -/
def execExtzVar (f : AF) (s : State) : Out := s.alu f (extzOp (s.g f.sa) (bfvW (s.g f.sb)) (bfvO (s.g f.sb)))
/-- INS (R277). -/
def execIns (f : AF) (s : State) : Out := s.alu f (insOp (s.g f.d) (s.g f.sa) (bfW f) (bfO f))
/-- INS_VAR (R277). -/
def execInsVar (f : AF) (s : State) : Out := s.alu f (insOp (s.g f.d) (s.g f.sa) (bfvW (s.g f.sb)) (bfvO (s.g f.sb)))
/-- CMPEQ (R270). -/
def execCmpeq (f : AF) (s : State) : Out := s.alu f (bool64 (s.g f.sa == s.g f.sb))
/-- CMPNE (R270). -/
def execCmpne (f : AF) (s : State) : Out := s.alu f (bool64 (s.g f.sa != s.g f.sb))
/-- CMPLT (R270). -/
def execCmplt (f : AF) (s : State) : Out := s.alu f (bool64 (decide ((s.g f.sa).toInt < (s.g f.sb).toInt)))
/-- CMPLE (R270). -/
def execCmple (f : AF) (s : State) : Out := s.alu f (bool64 (decide ((s.g f.sa).toInt ≤ (s.g f.sb).toInt)))
/-- CMPLTN (R270). -/
def execCmpltn (f : AF) (s : State) : Out := s.alu f (bool64 (decide ((s.g f.sa).toNat < (s.g f.sb).toNat)))
/-- CMPLEN (R270). -/
def execCmplen (f : AF) (s : State) : Out := s.alu f (bool64 (decide ((s.g f.sa).toNat ≤ (s.g f.sb).toNat)))
/-- SEL (R276): the condition register is IMM[5:0]. -/
def execSel (f : AF) (s : State) : Out :=
  let c : BitVec 6 := f.imm.setWidth 6
  whenReady s [f.d, f.sa, f.sb, c] (s.result f.d (if s.g c = 0 then s.g f.sb else s.g f.sa))
/-- JMP (R278). -/
def execJmp (f : AF) (s : State) : Out := .next (s.setPc (s.target f))
/-- JAL (R278). -/
def execJal (f : AF) (s : State) : Out := whenReady s [f.d] ((s.setG f.d (s.a.pc + 8)).setPc (s.target f))
/-- JALI (R278): a misaligned target is illegal, and no link is written (R209). -/
def execJali (f : AF) (s : State) : Out :=
  let t := s.g f.sa + simm f
  whenReady s [f.d, f.sa]
    (if t.toNat % 8 = 0 then (s.setG f.d (s.a.pc + 8)).setPc t else s.trapHere 1 0x0C (encodeAF 0x3A f))
/-- LOOP (R280). -/
def execLoop (f : AF) (s : State) : Out :=
  let old := s.g f.d
  let t := if old = 0 then s else s.setG f.d (old - 1)
  whenReady s [f.d] (if 1 < old.toNat then t.setPc (s.target f) else t.advance)
/-- BEQ (R279). -/
def execBeq (f : AF) (s : State) : Out := s.branch f (s.g f.sa == s.g f.sb)
/-- BNE (R279). -/
def execBne (f : AF) (s : State) : Out := s.branch f (s.g f.sa != s.g f.sb)
/-- BLT (R279). -/
def execBlt (f : AF) (s : State) : Out := s.branch f (decide ((s.g f.sa).toInt < (s.g f.sb).toInt))
/-- BGE (R279). -/
def execBge (f : AF) (s : State) : Out := s.branch f (decide ((s.g f.sb).toInt ≤ (s.g f.sa).toInt))
/-- BLTN (R279). -/
def execBltn (f : AF) (s : State) : Out := s.branch f (decide ((s.g f.sa).toNat < (s.g f.sb).toNat))
/-- BGEN (R279). -/
def execBgen (f : AF) (s : State) : Out := s.branch f (decide ((s.g f.sb).toNat ≤ (s.g f.sa).toNat))

end Sys2Proof.Machine
end

