-- ==== Sys2Proof/Machine/Matrix.lean ====
section
/-! DEFINITION. The matrix array (R348-R370): record issue, MWAIT, the engines and their single issues. -/

namespace Sys2Proof.Machine

/-! ### Record issue (R350, R225, R352) -/

/-- A record-issue syllable of record opcode `ropc`: its line is there and is the record's, its operands pass, and the queue has room. -/
def State.issueRecord (s : State) (f : XF) (ropc opc : Nat) : Out :=
  let a := s.recLine f
  if 2 ^ 52 ≤ a then .next (s.xraise 3 kNonCanonical a)
  else match s.xLine? a with
    | none => .next (s.xfreeze .fetch)
    | some w =>
      match lineDetail ropc w with
      | some d => .next (s.xraise 1 d (syllTval (encodeXF opc f)))
      | none =>
        match s.recordErr s.focus (s.recordHere f w) with
        | some d => .next (s.xraise 0x15 d a)
        | none =>
          if 4 ≤ s.cur.arr.recQ.length then .next (s.xfreeze .recQueue)
          else .next (s.onArr s.focus fun r => { r with recQ := r.recQ ++ [s.recordHere f w], nextRec := r.nextRec + 1 })

/-- MMA (R350). -/
def execMma (f : XF) (s : State) : Out := s.issueRecord f 1 0xC0
/-- WLOAD (R350). -/
def execWload (f : XF) (s : State) : Out := s.issueRecord f 2 0xC1
/-- WSWAP (R350). -/
def execWswap (f : XF) (s : State) : Out := s.issueRecord f 3 0xC2
/-- ACCZ (R350). -/
def execAccz (f : XF) (s : State) : Out := s.issueRecord f 4 0xC3
/-- DRAIN (R350). -/
def execDrain (f : XF) (s : State) : Out := s.issueRecord f 5 0xC4
/-- ROWSTAT (R350). -/
def execRowstat (f : XF) (s : State) : Out := s.issueRecord f 6 0xC5
/-- VNEST (R350). -/
def execVnest (f : XF) (s : State) : Out := s.issueRecord f 7 0xC6
/-- SCQPUSH (R350). -/
def execScqpush (f : XF) (s : State) : Out := s.issueRecord f 8 0xC7

/-- MWAIT (R357): an acquire at cluster scope once the records of its tag are complete; until then the counter freezes. -/
def execMwait (f : XF) (s : State) : Out :=
  if s.cur.arr.awaits false (bits f.imm.toNat 35 32) then .next (s.xfreeze (.mwait false (bits f.imm.toNat 35 32))) else .next s
/-- MWAIT.all (R357). -/
def execMwaitAll (_ : XF) (s : State) : Out := if s.cur.arr.awaits true 0 then .next (s.xfreeze (.mwait true 0)) else .next s

/-! ### Engines (R349) -/

/-- The engines: array, weight loader, scale pusher, vector-nest sequencer. -/
inductive EngineOf where
  | array | loader | pusher | nest
  deriving DecidableEq, Repr

def engineOf (ropc : Nat) : EngineOf :=
  match ropc with
  | 2 => .loader | 8 => .pusher | 7 => .nest | _ => .array

/-- The records an engine holds. -/
def Arr.engine (r : Arr) : EngineOf → List Rec
  | .array => r.arrayE | .loader => r.loaderE | .pusher => r.pusherE | .nest => r.nestE

def Arr.setEngine (r : Arr) (e : EngineOf) (l : List Rec) : Arr :=
  match e with
  | .array => { r with arrayE := l }
  | .loader => { r with loaderE := l }
  | .pusher => { r with pusherE := l }
  | .nest => { r with nestE := l }

/-- RECORD_DISPATCH (R349): the head of the queue passes to its engine when that engine holds fewer than two records. -/
def execRecordDispatch (cl : Nat) (s : State) : Out :=
  let r := (s.cl cl).arr
  match r.recQ with
  | [] => .next s
  | q :: qs =>
    let e := engineOf q.ropc
    if 2 ≤ (r.engine e).length then .next s
    else .next (s.onArr cl fun r => ({ r with recQ := qs } : Arr).setEngine e (r.engine e ++ [q]))

/-- The record whose single issues an engine runs, if it has opcode `ropc` and no pre-emption keeps the engine from starting a single issue (R369). -/
def State.running (s : State) (cl ropc : Nat) : Option Rec :=
  if s.halting cl then none
  else match ((s.cl cl).arr.engine (engineOf ropc)).find? fun r => decide (r.j < r.total) with
    | some r => if r.ropc = ropc then some r else none
    | none => none

/-- The bytes that each single issue counts (R355). -/
def Rec.perIssue (r : Rec) : Nat :=
  match r.ropc with
  | 1 | 4 => 4 * r.cols.2
  | 2 => rowBytes (sparFactor r.mods) r.pw
  | 3 => 0
  | 5 | 6 => 4096
  | _ => 32

/-- The word of a record (R225). -/
def Rec.word (r : Rec) (cl : Nat) : Option (Nat × Nat) := r.cw.map fun a => (cl, a)

/-- A record is complete when its single issues have run and none of its sums is still to be added (R355). -/
def Arr.complete (a : Arr) (r : Rec) : Bool := decide (r.total ≤ r.j) && !r.failed && a.passes.all fun p => p.id != r.id

/-- A record of an engine replaced, or complete and gone. -/
def Arr.setRec (a : Arr) (r : Rec) : Arr :=
  let e := engineOf r.ropc
  a.setEngine e ((a.engine e).filterMap fun q => if q.id = r.id then (if a.complete r then none else some r) else some q)

/-- Bytes of a record counted at its completion word. -/
def State.countRec (s : State) (cl : Nat) (r : Rec) : State :=
  (s.arriveAt (r.word cl) r.perIssue 0).onArr cl fun a => a.setRec { r with counted := r.counted + r.perIssue }

/-- A single issue has run: its arrival is made, and the record is complete after the last one (R355). -/
def State.issued (s : State) (cl : Nat) (r : Rec) : State := s.countRec cl { r with j := r.j + 1, scales := [] }

/-- A record fails (R368): one arrival with its code adds every byte not yet counted, and what it has left is abandoned. During a save it
stays, as failed (R429). -/
def State.failRec (s : State) (cl : Nat) (r : Rec) (err : Nat) (keep : Bool := false) : State :=
  (s.arriveAt (r.word cl) (r.total * r.perIssue - r.counted) err).onArr cl fun a =>
    { a with passes := a.passes.filter fun p => p.id != r.id, drain := a.drain.filter fun d => d.id != r.id }.setRec { r with j := r.total, failed := keep }

/-- A record that consumes poison (R368, R436): a rung-3 record of agent 3 that names the unit. -/
def State.poisonRec (s : State) (cl : Nat) (r : Rec) (mem addr : Nat) : State :=
  (s.report (srcCl cl 3) 3 3 (s.cl cl).ctl.cid 4 0 (if mem = 2 then spLoc cl addr else addr) mem 0).failRec cl r 4

/-- The comparison point of a record (R367): the write goes on, after a log entry for a dissent that is outvoted, or the record fails
and the trap is raised at the next boundary; once the core has halted for a save, on resume (R429). -/
def State.compared (s : State) (cl : Nat) (r : Rec) (cmp : Cmp) (go : State → State) : State :=
  if cmpFails r.pcl cmp then
    match (s.cl cl).x.run with
    | .halted _ _ _ => s.failRec cl r 3 true
    | _ => (s.failRec cl r 3).onX cl fun x => if x.run == .run && !x.issued then x.note r.mismatchTrap else x.raise r.mismatchTrap
  else go (if r.pcl == 2 && cmp == .dissent then s.dissent cl 3 0 else s)

/-- What a single issue that reads `n` bytes at `a` of its scratchpad finds: poison, and whether it must wait. -/
def State.recWaits (s : State) (cl : Nat) (write : Bool) (a n : Nat) : Bool := s.spBlocked cl none write cl a n

/-- The completion word of a record cannot be reached now (R70, R476). -/
def State.wordHeld (s : State) (cl : Nat) (r : Rec) : Bool := r.cw.any fun a => s.spBlocked cl none true cl a 8

/-- The file die of a cluster cannot be reached while its vertical buses are retrained (R476). -/
def State.filePaused (s : State) (cl : Nat) : Bool := (s.cl cl).ctl.retrainEnd.isSome

/-! ### Accumulator memory and weights -/

def Arr.accOf (r : Arr) (a : Nat) : W32 := NMap.get 0 r.acc a
def Arr.setAcc (r : Arr) (a : Nat) (v : W32) : Arr := { r with acc := NMap.set 0 r.acc a v }

/-- Poisoned accumulator elements of a cluster. -/
def State.accBad (s : State) (cl a : Nat) : Bool := s.accPoison.contains (s.phys cl, a)

/-- A poisoned PE register of the active set in one of `cols`. Registers are numbered 512 k + n for PE (k, n), those of the shadow set from
65,536 on (R348, R434). -/
def State.peBadIn (s : State) (cl : Nat) (cols : List Nat) : Option Nat :=
  (s.pePoison.find? fun q => q.1 == s.phys cl && decide (q.2 < 65536) && cols.contains (q.2 % 512)).map Prod.snd

/-- Accumulator elements written, their poison cleared (R435). -/
def State.writeAcc (s : State) (cl : Nat) (ws : List (Nat × W32)) : State :=
  { s.onArr cl (fun r => ws.foldl (fun r (a, v) => r.setAcc a v) r) with
    accPoison := s.accPoison.filter fun q => !(q.1 == s.phys cl && ws.any fun w => w.1 == q.2) }

/-- A weight of a set with its sign: dense index `k` of column `n`. -/
def WSet.signed (w : WSet) (n k : Nat) : Int :=
  let v := NMap.get 0 w.w (512 * n + k)
  if v.testBit 8 then -((v % 256 : Nat) : Int) else (v % 256 : Nat)
def WSet.scaleOf (w : WSet) (n b : Nat) : Option Int := NMap.get (some 0) w.scale (32 * n + b)

/-! ### MMA (R249, R361) -/

/-- A block's element with its sign. -/
def Block.signed (b : Block) (i : Nat) : Int := if b.sign.getD i false then -((b.m.getD i 0 : Nat) : Int) else (b.m.getD i 0 : Nat)

/-- The value of block `b` of a streamed row against column `n` (R249): `.f32` bits. -/
def blockDot (w : WSet) (n b : Nat) (a : Block) : Nat :=
  match a.scale, w.scaleOf n b with
  | some x, some y =>
    let t : Int := (List.range 16).foldl (fun acc i => acc + a.signed i * w.signed n (16 * b + i)) 0
    (fpRound .f32 false (decide (t < 0)) t.natAbs (x + y)).1
  | _, _ => qNaN .f32

/-- The pass result of column `n` for a streamed row (R249): the sum that is added to the accumulator element. -/
def passSum (w : WSet) (n : Nat) (row : List Block) : Nat :=
  match row.zipIdx.map fun (a, b) => blockDot w n b a with
  | [] => 0
  | v :: vs => vs.foldl (fun p v => (fadd .f32 p v).1) v

/-- A pass's sums added to the accumulator (R249). -/
def Arr.added (a : Arr) (p : Pass) : List (Nat × W32) := p.sums.map fun (e, v) => (e, BitVec.ofNat 32 (fadd .f32 (a.accOf e).toNat v).1)

/-- Sums still to be added to an accumulator element: a later record's access to it waits (R354, rule 3). -/
def Arr.adding (a : Arr) (es : List Nat) : Bool := a.passes.any fun p => p.sums.any fun v => es.contains v.1

/-- The blocks of a row of `nb` blocks of `p` planes at `a` of a scratchpad. -/
def State.blocksAt (s : State) (cl a nb p : Nat) : List Block :=
  (List.range nb).map fun b => Block.ofBytes p (s.spRead cl (a + 2 * (p + 2) * b) (2 * (p + 2)))

/-- The passes of an MMA single issue: one for each group of four streamed planes, for each copy of a protected record (R250, R366). -/
def Rec.passes (r : Rec) : Nat := (r.pcl + 1) * cdiv r.pa 4

/-- Granule `a` among the destinations of a VNEST's single issues: run, and still to run. -/
def Rec.wrote (r : Rec) (a : Nat) : Bool := (List.range r.j).any fun i => ({ r with j := i } : Rec).addr 32 0 == a
def Rec.willWrite (r : Rec) (a : Nat) : Bool :=
  (List.range (r.total - r.j)).any fun i => ({ r with j := r.j + i } : Rec).addr 32 0 == a

/-- A block of `n` bytes at `a` that straddles two granules of which a running VNEST has written one and has the other to write: it is
read whole, so its reader waits (R168, R371). -/
def Arr.tornAt (arr : Arr) (a n : Nat) : Bool :=
  let g := a / 32 * 32
  decide (g + 32 < a + n) && arr.nestE.any fun r => (r.wrote g && r.willWrite (g + 32)) || (r.wrote (g + 32) && r.willWrite g)
def Arr.torn (arr : Arr) (a nb p : Nat) : Bool := (List.range nb).any fun b => arr.tornAt (a + 2 * (p + 2) * b) (2 * (p + 2))

/-- A block of `n` bytes at `a` that a gather with OUT = 1 has written in part: it goes on in a later tile transfer, and is read whole (R168). -/
def State.gatherTorn (s : State) (cl a n : Nat) : Bool :=
  let meets (c : Nat) (x : Nat × Nat) : Bool := c == cl && x.2 != 0 && decide (x.1 < a + n) && decide (a < x.1 + x.2)
  s.listed.any fun (_, d) => d.a.cmds.any fun k => k.kind == .gather && patOut k.pat && (match k.dst with
    | .sp c _ => k.openSp.any (fun y => meets y.1 y.2)
        && ((List.range k.piece).flatMap k.pieceSpans ++ k.gran.flatMap (k.granuleSpans k.piece)).any fun x => meets c (x.a, x.n)
    | _ => false)
def State.torn (s : State) (cl a nb p : Nat) : Bool :=
  (s.cl cl).arr.torn a nb p || (List.range nb).any fun b => s.gatherTorn cl (a + 2 * (p + 2) * b) (2 * (p + 2))

/-- Passes of the cluster admitted in this interval, or withheld because its grant is reached (R366, R473, R475). -/
def Ctl.spend (c : Ctl) (n : Nat) : Ctl := { c with usedNow := c.usedNow + n }
def Ctl.withheld (c : Ctl) (n : Nat) : Bool := decide (c.grant < c.usedNow + n)

/-- An MMA single issue begins (R361, R366): the factor is that of the active set when the MMA begins; its passes wait for the cluster's
grant. -/
def State.mmaBegin (s : State) (cl : Nat) (r0 : Rec) : State :=
  let arr := (s.cl cl).arr
  let r := if r0.began then r0 else { r0 with began := true, f := arr.active.f }
  let a0 := (r.addr 32 0).toNat
  let a1 := (r.addr 1 1).toNat
  let n := rowBytes r.f r.pa
  let cols := (List.range r.cols.2).map fun i => r.cols.1 + i
  if s.recWaits cl false a0 n || s.torn cl a0 (8 * r.f) r.pa then s
  else if (s.cl cl).ctl.withheld r.passes then s.onCtl cl fun c => { c with capNow := true }
  else if s.spPoisoned cl a0 n then s.poisonRec cl r 2 a0
  else match s.peBadIn cl cols with
    | some e => s.poisonRec cl r 6 e
    | none =>
      let row := s.blocksAt cl a0 (8 * r.f) r.pa
      let p : Pass := { id := r.id, sums := cols.map fun c => (a1 + c, passSum arr.active c row) }
      (s.onArr cl fun a => { a with passes := a.passes ++ [p] }.setRec { r with j := r.j + 1 }).onCtl cl fun c => c.spend r.passes

/-- The sums of the oldest pass are compared and added (R249, R367). -/
def State.mmaAdd (s : State) (cl : Nat) (cmp : Cmp) : State :=
  let arr := (s.cl cl).arr
  match arr.passes with
  | [] => s
  | p :: ps =>
    match arr.arrayE.find? fun r => r.id == p.id with
    | none => s.onArr cl fun a => { a with passes := ps }
    | some r =>
      if s.wordHeld cl r then s
      else (s.onArr cl fun a => { a with passes := ps }).compared cl r cmp fun s =>
        match p.sums.find? fun v => s.accBad cl v.1 with
        | some v => s.poisonRec cl r 5 v.1
        | none => (s.writeAcc cl (arr.added p)).countRec cl r

/-- MMA_SINGLE_ISSUE (R354, R361, R366): the next single issue of the MMA that the array runs begins, or the sums of the oldest one begun are
added; passes end in the order in which they began. -/
def execMmaSingleIssue (cl : Nat) (work : MmaWork) (s : State) : Out :=
  match work with
  | .add cmp => .next (s.mmaAdd cl cmp)
  | .passes =>
    match s.running cl 1 with
    | none => .next s
    | some r => .next (s.mmaBegin cl r)

/-! ### WLOAD, WSWAP and SCQPUSH (R358-R360) -/

/-- The records of the other kind, WSWAP or WLOAD, that were issued before `r` and are not complete (R354, rule 4). -/
def Arr.before (a : Arr) (r : Rec) (ropc : Nat) : Bool := a.recs.any fun q => q.ropc == ropc && decide (q.id < r.id)

/-- The scales of the blocks of a column: from those popped, one for each block or for two, or the blocks' own. -/
def wloadScales (mods p : Nat) (xs : List Nat) (bs : List Block) : List (Option Int) :=
  if bit mods 6 then
    (List.range bs.length).map fun b =>
      let x := xs.getD (if bit mods 7 then b / 2 else b) 0
      if x = 0xFF then none else some ((x : Int) - 124 - p)
  else bs.map Block.scale

/-- How a column's blocks end: all taken, a scale still to come, a block poisoned, or one with too many nonzero magnitudes. -/
inductive ColEnd where
  | whole | waits | dense
  | poison (b : Nat)
  deriving DecidableEq, Repr

/-- The blocks of a column in turn (R358): each is read, pops its scale from the queue `q` unless `xs` has it already, and is counted. -/
def takeColumn (mods lim : Nat) (bad : Nat → Bool) : Nat → List Block → List Nat → List Nat → ColEnd × List Nat × List Nat
  | _, [], q, xs => (.whole, q, xs)
  | b, k :: ks, q, xs =>
    let many : Bool := decide (lim < (k.m.filter (· != 0)).length)
    if bad b then (.poison b, q, xs)
    else if bit mods 6 && decide (xs.length ≤ if bit mods 7 then b / 2 else b) then
      match q with
      | [] => (.waits, [], xs)
      | x :: q => if many then (.dense, q, xs ++ [x]) else takeColumn mods lim bad (b + 1) ks q (xs ++ [x])
    else if many then (.dense, q, xs)
    else takeColumn mods lim bad (b + 1) ks q xs

/-- A column of a set written. -/
def WSet.setColumn (w : WSet) (n : Nat) (bs : List Block) (ss : List (Option Int)) : WSet :=
  let cells := bs.zipIdx.flatMap fun (b, i) =>
    (List.range 16).map fun e => (512 * n + 16 * i + e, b.m.getD e 0 + flag (b.sign.getD e false) 8)
  { w with w := cells.foldl (fun m (k, v) => NMap.set 0 m k v) w.w,
           scale := ss.zipIdx.foldl (fun m (x, i) => NMap.set (some 0) m (32 * n + i) x) w.scale }

/-- A column of the shadow set written, its poison cleared (R435). -/
def State.writeColumn (s : State) (cl n : Nat) (bs : List Block) (ss : List (Option Int)) : State :=
  { s.onArr cl (fun a => { a with shadow := a.shadow.setColumn n bs ss }) with
    pePoison := s.pePoison.filter fun q => !(q.1 == s.phys cl && decide (65536 ≤ q.2) && q.2 % 512 == n) }

/-- A WLOAD begins: with another factor than the shadow set's, every shadow column becomes zero. -/
def State.beginWload (s : State) (cl f : Nat) : State :=
  if f = (s.cl cl).arr.shadow.f then s
  else { s.onArr cl (fun a => { a with shadow := { f := f, w := [], scale := [] } }) with
         pePoison := s.pePoison.filter fun q => !(q.1 == s.phys cl && decide (65536 ≤ q.2)) }

/-- A WLOAD fails with 0x41 (R368): ERR takes its low six bits and the error ring the full code, in a record whose EVENT the spec does not
give (log 92). -/
def State.failDense (s : State) (cl : Nat) (r : Rec) : State :=
  (s.report (srcCl cl 3) 3 (Config.wloadEvent % 256) (s.cl cl).ctl.cid 0x41 0 (spLoc cl (r.addr 32 0).toNat) 0 0).failRec cl r 1

/-- WLOAD_SINGLE_ISSUE (R358): it waits for earlier WSWAPs, takes its column's blocks with the scales that are there, and writes the column
when it has them all; a block with too many nonzero magnitudes fails the record, and in a protected record it does so before the column is
compared (DEDUCED, log 55). -/
def execWloadSingleIssue (cl : Nat) (cmp : Cmp) (s : State) : Out :=
  match s.running cl 2 with
  | none => .next s
  | some r0 =>
    let f := sparFactor r0.mods
    let a0 := (r0.addr 32 0).toNat
    let p := r0.pw
    if (s.cl cl).arr.before r0 3 || s.recWaits cl false a0 (rowBytes f p) || s.torn cl a0 (8 * f) p || s.wordHeld cl r0 then .next s
    else
      let t := if r0.began then s else s.beginWload cl f
      let bs := t.blocksAt cl a0 (8 * f) p
      let (e, q, xs) := takeColumn r0.mods (16 / f) (fun b => t.spPoisoned cl (a0 + 2 * (p + 2) * b) (2 * (p + 2))) 0 bs (t.cl cl).arr.scaleQ r0.scales
      let r := { r0 with began := true, scales := xs }
      let t := t.onArr cl fun a => { a with scaleQ := q }
      .next (match e with
        | .waits => t.onArr cl fun a => a.setRec r
        | .poison b => t.poisonRec cl r 2 (a0 + 2 * (p + 2) * b)
        | .dense => t.failDense cl r
        | .whole => t.compared cl r cmp fun t => (t.writeColumn cl (r.cols.1 + r.j) bs (wloadScales r.mods p xs bs)).issued cl r)

/-- WSWAP_TAKES_EFFECT (R360): the sets are exchanged with their factors, after every earlier WLOAD has completed. -/
def execWswapTakesEffect (cl : Nat) (s : State) : Out :=
  match s.running cl 3 with
  | none => .next s
  | some r =>
    if (s.cl cl).arr.before r 2 || s.wordHeld cl r then .next s
    else
      let swap (q : Nat × Nat) : Nat × Nat := if q.1 = s.phys cl then (q.1, if q.2 < 65536 then q.2 + 65536 else q.2 - 65536) else q
      let t : State := { s.onArr cl (fun a => { a with active := a.shadow, shadow := a.active }) with pePoison := s.pePoison.map swap }
      .next (t.issued cl r)

/-- SCQPUSH_SINGLE_ISSUE (R359): it waits while the queue holds more than 8,160 bytes. -/
def execScqpushSingleIssue (cl : Nat) (cmp : Cmp) (s : State) : Out :=
  match s.running cl 8 with
  | none => .next s
  | some r =>
    let a0 := (r.addr 32 0).toNat
    if 8160 < (s.cl cl).arr.scaleQ.length || s.recWaits cl false a0 32 || s.wordHeld cl r then .next s
    else if s.spPoisoned cl a0 32 then .next (s.poisonRec cl r 2 a0)
    else
      let bs := (s.spRead cl a0 32).map BitVec.toNat
      .next (s.compared cl r cmp fun s => (s.onArr cl fun a => { a with scaleQ := a.scaleQ ++ bs }).issued cl r)

/-! ### ACCZ, DRAIN and ROWSTAT (R362-R364) -/

/-- ACCZ_SINGLE_ISSUE (R362). -/
def execAcczSingleIssue (cl : Nat) (s : State) : Out :=
  match s.running cl 4 with
  | none => .next s
  | some r =>
    let es := (List.range r.cols.2).map fun i => (r.addr 1 0).toNat + r.cols.1 + i
    if (s.cl cl).arr.adding es || s.wordHeld cl r then .next s else .next ((s.writeAcc cl (es.map fun e => (e, 0))).issued cl r)

/-- The accumulator addresses of the block of a DRAIN whose corner is `a`, with `n` columns for each lane. -/
def drainBlock (a n : Nat) : List Nat := (List.range 16).flatMap fun i => (List.range (64 * n)).map fun c => a + 512 * i + c

/-- The tile of a DRAIN (R363): slot `s` of lane (r, c) is the element at column n c + s, converted. -/
def drainTile (arr : Arr) (ty : Nat) (sat : Bool) (a : Nat) : Tile :=
  let w := typeWidth ty
  let n := 32 / w
  Tile.ofFn fun l => packE w fun i =>
    (convert 9 ty sat (fpVal .f32 (arr.accOf (a + 512 * (l / 64) + n * (l % 64) + i)).toNat)).1

/-- A DRAIN converts the block of its next single issue, which is compared and cleared if the record says so; `go` gets the tile (R363, R367,
R436). -/
def State.drainConvert (s : State) (cl : Nat) (r : Rec) (cmp : Cmp) (go : Tile → State → State) : State :=
  let a0 := (r.addr 1 0).toNat
  let block := drainBlock a0 (32 / typeWidth r.ty)
  if (s.cl cl).arr.adding block then s
  else match block.find? fun a => s.accBad cl a with
    | some a => s.poisonRec cl r 5 a
    | none =>
      let t := drainTile (s.cl cl).arr r.ty (bit r.mods 4) a0
      s.compared cl r cmp fun s => go t (if bit r.mods 6 then s.writeAcc cl (block.map fun a => (a, 0)) else s)

/-- A single issue of a DRAIN to scratchpad asks for the banks of its tile image, once (R70). -/
def State.drainAsk (s : State) (cl : Nat) (r : Rec) : State :=
  if (s.cl cl).arr.drain.isSome then s
  else s.onCl cl fun c =>
    { c with arr := { c.arr with drain := some { id := r.id, at_ := (r.addr 32 1).toNat, ask := c.a.nextId, data := none, gran := [] } },
             a := { c.a with nextId := c.a.nextId + 1 } }

/-- It takes them all when they are free, and has its tile then (R70, R354, R363). -/
def State.drainTake (s : State) (cl : Nat) (r : Rec) (cmp : Cmp) : State :=
  let s := s.drainAsk cl r
  match (s.cl cl).arr.drain with
  | some d =>
    if s.filePaused cl || !s.drainFree cl d then s
    else s.drainConvert cl r cmp fun t s => s.onArr cl fun a => { a with drain := some { d with data := some (tileBytes t) } }
  | none => s

/-- Granule `g` of a tile image that holds its banks is written; the last one ends the single issue and frees them (R69-R71). -/
def State.drainGranule (s : State) (cl : Nat) (d : TileWrite) (bs : List Byte) (g : Nat) : State :=
  match (s.cl cl).arr.arrayE.find? fun r => r.id == d.id with
  | none => s.onArr cl fun a => { a with drain := none }
  | some r =>
    let left := (List.range 128).filter fun i => i != g && !d.gran.contains i
    if 128 ≤ g || d.gran.contains g || s.filePaused cl || (left.isEmpty && (r.cw.any fun a => s.cmdBankHeld cl none true cl a 8)) then s
    else
      let t := s.softWrite cl (d.at_ + 32 * g) ((bs.drop (32 * g)).take 32)
      if left.isEmpty then (t.onArr cl fun a => { a with drain := none }).issued cl r
      else t.onArr cl fun a => { a with drain := some { d with gran := d.gran ++ [g] } }

/-- DRAIN_SINGLE_ISSUE (R363, R354, R369): the tile goes to dq0, waiting while that holds 8 tiles, or is written as a tile image, granule by
granule under the locks of a tile transfer. -/
def execDrainSingleIssue (cl : Nat) (work : GranuleCmp) (s : State) : Out :=
  match (s.cl cl).arr.drain.bind fun d => d.data.map fun bs => (d, bs) with
  | some (d, bs) => .next (s.drainGranule cl d bs work.g)
  | none =>
    match s.running cl 5 with
    | none => .next s
    | some r =>
      if bit r.mods 5 then .next (s.drainTake cl r work.cmp)
      else if 8 ≤ (s.cl cl).x.dq.length || s.filePaused cl || s.wordHeld cl r then .next s
      else .next (s.drainConvert cl r work.cmp fun t s => (s.onX cl fun x => { x with dq := x.dq ++ [t] }).issued cl r)

/-- The pairwise sum of 512 leaves (R251). -/
def pairSum (l : List Nat) : Nat := (tree (fun x y => ((fadd .f32 x.1 y.1).1, 0)) 9 (l.map fun v => (v, 0))).1

/-- The three values of a row (R251): columns outside the range are −infinity for the max and +0 for the sums. -/
def rowStats (v : Nat → Nat) (lo n : Nat) : Nat × Nat × Nat :=
  let inside (c : Nat) : Bool := decide (lo ≤ c) && decide (c < lo + n)
  let l := List.range 512
  ((l.foldl (fun m c => (fmin .f32 true m (if inside c then v c else 0xFF800000)).1) 0xFF800000),
   pairSum (l.map fun c => if inside c then v c else 0), pairSum (l.map fun c => if inside c then (fmul .f32 (v c) (v c)).1 else 0))

/-- The tile of a ROWSTAT: lanes (r, 0), (r, 1) and (r, 2). -/
def rowstatTile (arr : Arr) (a lo n : Nat) : Tile :=
  let rows := (List.range 16).map fun i => rowStats (fun c => (arr.accOf (a + 512 * i + c)).toNat) lo n
  Tile.ofFn fun l =>
    let v := rows.getD (l / 64) (0, 0, 0)
    match l % 64 with
    | 0 => BitVec.ofNat 32 v.1
    | 1 => BitVec.ofNat 32 v.2.1
    | 2 => BitVec.ofNat 32 v.2.2
    | _ => 0

/-- ROWSTAT_SINGLE_ISSUE (R364). -/
def execRowstatSingleIssue (cl : Nat) (cmp : Cmp) (s : State) : Out :=
  match s.running cl 6 with
  | none => .next s
  | some r =>
    let a0 := (r.addr 1 0).toNat
    let (lo, n) := r.cols
    let read := (List.range 16).flatMap fun i => (List.range n).map fun c => a0 + 512 * i + lo + c
    if 8 ≤ (s.cl cl).x.hq.length || (s.cl cl).arr.adding read || s.filePaused cl || s.wordHeld cl r then .next s
    else match read.find? fun a => s.accBad cl a with
      | some a => .next (s.poisonRec cl r 5 a)
      | none =>
        let t := rowstatTile (s.cl cl).arr a0 lo n
        .next (s.compared cl r cmp fun s => (s.onX cl fun x => { x with hq := x.hq ++ [t] }).issued cl r)

/-! ### VNEST (R365) -/

/-- The element operation of a VNEST. -/
def vnestOp (ty op x1 x2 x3 : Nat) : Nat :=
  match fmtOfType ty with
  | some f =>
    (match op with
    | 0 => x1
    | 1 => (fadd f x1 x2).1
    | 2 => (fmul f x1 x2).1
    | 3 => (ffma f x1 x2 x3).1
    | 4 => (fmin f true x1 x2).1
    | _ => (fmin f false x1 x2).1)
  | none =>
    (match op with
    | 0 => x1
    | 1 => (x1 + x2) % 2 ^ 32
    | 2 => x1 * x2 % 2 ^ 32
    | 3 => (x1 * x2 + x3) % 2 ^ 32
    | 4 => if sext 32 x1 ≤ sext 32 x2 then x2 else x1
    | _ => if sext 32 x1 ≤ sext 32 x2 then x1 else x2)

/-- The result granule: `gs` are the source granules, of operands 1 to 3. -/
def vnestGranule (ty op mods : Nat) (gs : Nat → List Byte) : List Byte :=
  let w := typeWidth ty / 8
  (List.range (32 / w)).flatMap fun i =>
    let x (m : Nat) : Nat := ofBytes (((gs m).drop (w * if bit mods (6 + m) then 0 else i)).take w)
    toBytes w (vnestOp ty op (x 1) (x 2) (x 3))

/-- VNEST_SINGLE_ISSUE (R365): the sources are read before the result is written. -/
def execVnestSingleIssue (cl : Nat) (cmp : Cmp) (s : State) : Out :=
  match s.running cl 7 with
  | none => .next s
  | some r =>
    let at_ (m : Nat) : Nat := (r.addr 32 m).toNat
    let srcs := (opsUsed 7 r.mods).filter (· != 0)
    if s.recWaits cl true (at_ 0) 32 || s.wordHeld cl r || srcs.any fun m => s.recWaits cl false (at_ m) 32 then .next s
    else match srcs.find? fun m => s.spPoisoned cl (at_ m) 32 with
      | some m => .next (s.poisonRec cl r 2 (at_ m))
      | none =>
        let g := vnestGranule r.ty (bits r.mods 6 4) r.mods fun m => s.spRead cl (at_ m) 32
        .next (s.compared cl r cmp fun s => (s.softWrite cl (at_ 0) g).issued cl r)

end Sys2Proof.Machine
end

