-- ==== Sys2Proof/Machine/Dispatch.lean ====
section
/-! DEFINITION. The dispatch of a step of the part to its meaning: one arm per row of the opcode table. -/

namespace Sys2Proof.Machine

def exec (i : Instr) (s : State) : Host.Outcome State Fault Refusal :=
  match i with
  | .add f => Sys2Proof.Machine.execAdd f s
  | .sub f => Sys2Proof.Machine.execSub f s
  | .mul f => Sys2Proof.Machine.execMul f s
  | .mulh f => Sys2Proof.Machine.execMulh f s
  | .mulhn f => Sys2Proof.Machine.execMulhn f s
  | .div f => Sys2Proof.Machine.execDiv f s
  | .divn f => Sys2Proof.Machine.execDivn f s
  | .rem f => Sys2Proof.Machine.execRem f s
  | .remn f => Sys2Proof.Machine.execRemn f s
  | .and f => Sys2Proof.Machine.execAnd f s
  | .or f => Sys2Proof.Machine.execOr f s
  | .xor f => Sys2Proof.Machine.execXor f s
  | .andn f => Sys2Proof.Machine.execAndn f s
  | .shl f => Sys2Proof.Machine.execShl f s
  | .shlImm f => Sys2Proof.Machine.execShlImm f s
  | .shr f => Sys2Proof.Machine.execShr f s
  | .shrImm f => Sys2Proof.Machine.execShrImm f s
  | .sar f => Sys2Proof.Machine.execSar f s
  | .sarImm f => Sys2Proof.Machine.execSarImm f s
  | .rol f => Sys2Proof.Machine.execRol f s
  | .rolImm f => Sys2Proof.Machine.execRolImm f s
  | .rotr f => Sys2Proof.Machine.execRotr f s
  | .rotrImm f => Sys2Proof.Machine.execRotrImm f s
  | .clz f => Sys2Proof.Machine.execClz f s
  | .ctz f => Sys2Proof.Machine.execCtz f s
  | .popc f => Sys2Proof.Machine.execPopc f s
  | .min f => Sys2Proof.Machine.execMin f s
  | .max f => Sys2Proof.Machine.execMax f s
  | .minn f => Sys2Proof.Machine.execMinn f s
  | .maxn f => Sys2Proof.Machine.execMaxn f s
  | .sel f => Sys2Proof.Machine.execSel f s
  | .addi f => Sys2Proof.Machine.execAddi f s
  | .andi f => Sys2Proof.Machine.execAndi f s
  | .ori f => Sys2Proof.Machine.execOri f s
  | .xori f => Sys2Proof.Machine.execXori f s
  | .li f => Sys2Proof.Machine.execLi f s
  | .lih f => Sys2Proof.Machine.execLih f s
  | .exts f => Sys2Proof.Machine.execExts f s
  | .extsVar f => Sys2Proof.Machine.execExtsVar f s
  | .extz f => Sys2Proof.Machine.execExtz f s
  | .extzVar f => Sys2Proof.Machine.execExtzVar f s
  | .ins f => Sys2Proof.Machine.execIns f s
  | .insVar f => Sys2Proof.Machine.execInsVar f s
  | .cmpeq f => Sys2Proof.Machine.execCmpeq f s
  | .cmpne f => Sys2Proof.Machine.execCmpne f s
  | .cmplt f => Sys2Proof.Machine.execCmplt f s
  | .cmple f => Sys2Proof.Machine.execCmple f s
  | .cmpltn f => Sys2Proof.Machine.execCmpltn f s
  | .cmplen f => Sys2Proof.Machine.execCmplen f s
  | .jmp f => Sys2Proof.Machine.execJmp f s
  | .jal f => Sys2Proof.Machine.execJal f s
  | .jali f => Sys2Proof.Machine.execJali f s
  | .loop f => Sys2Proof.Machine.execLoop f s
  | .beq f => Sys2Proof.Machine.execBeq f s
  | .bne f => Sys2Proof.Machine.execBne f s
  | .blt f => Sys2Proof.Machine.execBlt f s
  | .bge f => Sys2Proof.Machine.execBge f s
  | .bltn f => Sys2Proof.Machine.execBltn f s
  | .bgen f => Sys2Proof.Machine.execBgen f s
  | .ld f => Sys2Proof.Machine.execLd f s
  | .st f => Sys2Proof.Machine.execSt f s
  | .ldaq f => Sys2Proof.Machine.execLdaq f s
  | .strl f => Sys2Proof.Machine.execStrl f s
  | .cas f => Sys2Proof.Machine.execCas f s
  | .amoSwap f => Sys2Proof.Machine.execAmoSwap f s
  | .amoAdd f => Sys2Proof.Machine.execAmoAdd f s
  | .amoAnd f => Sys2Proof.Machine.execAmoAnd f s
  | .amoOr f => Sys2Proof.Machine.execAmoOr f s
  | .amoXor f => Sys2Proof.Machine.execAmoXor f s
  | .amoMin f => Sys2Proof.Machine.execAmoMin f s
  | .amoMax f => Sys2Proof.Machine.execAmoMax f s
  | .amoMinn f => Sys2Proof.Machine.execAmoMinn f s
  | .amoMaxn f => Sys2Proof.Machine.execAmoMaxn f s
  | .fence f => Sys2Proof.Machine.execFence f s
  | .fencew f => Sys2Proof.Machine.execFencew f s
  | .wset f => Sys2Proof.Machine.execWset f s
  | .wsetHandle f => Sys2Proof.Machine.execWsetHandle f s
  | .wclr f => Sys2Proof.Machine.execWclr f s
  | .icinv f => Sys2Proof.Machine.execIcinv f s
  | .icsync f => Sys2Proof.Machine.execIcsync f s
  | .tldq f => Sys2Proof.Machine.execTldq f s
  | .sqd f => Sys2Proof.Machine.execSqd f s
  | .qstat f => Sys2Proof.Machine.execQstat f s
  | .xcopy f => Sys2Proof.Machine.execXcopy f s
  | .xcopyTpl f => Sys2Proof.Machine.execXcopyTpl f s
  | .tfill f => Sys2Proof.Machine.execTfill f s
  | .tdrain f => Sys2Proof.Machine.execTdrain f s
  | .gathert f => Sys2Proof.Machine.execGathert f s
  | .nmred f => Sys2Proof.Machine.execNmred f s
  | .nmcas f => Sys2Proof.Machine.execNmcas f s
  | .nmsax f => Sys2Proof.Machine.execNmsax f s
  | .bwset f => Sys2Proof.Machine.execBwset f s
  | .bwarrive f => Sys2Proof.Machine.execBwarrive f s
  | .waitgen f => Sys2Proof.Machine.execWaitgen f s
  | .semv f => Sys2Proof.Machine.execSemv f s
  | .semp f => Sys2Proof.Machine.execSemp f s
  | .semtry f => Sys2Proof.Machine.execSemtry f s
  | .bgive f => Sys2Proof.Machine.execBgive f s
  | .bgiveNone f => Sys2Proof.Machine.execBgiveNone f s
  | .btake f => Sys2Proof.Machine.execBtake f s
  | .bquery f => Sys2Proof.Machine.execBquery f s
  | .msend f => Sys2Proof.Machine.execMsend f s
  | .snap f => Sys2Proof.Machine.execSnap f s
  | .snapq f => Sys2Proof.Machine.execSnapq f s
  | .snapqT f => Sys2Proof.Machine.execSnapqT f s
  | .txbegin f => Sys2Proof.Machine.execTxbegin f s
  | .txcommit f => Sys2Proof.Machine.execTxcommit f s
  | .txabort f => Sys2Proof.Machine.execTxabort f s
  | .txstate f => Sys2Proof.Machine.execTxstate f s
  | .texit f => Sys2Proof.Machine.execTexit f s
  | .grow f => Sys2Proof.Machine.execGrow f s
  | .tidx f => Sys2Proof.Machine.execTidx f s
  | .rdgtc f => Sys2Proof.Machine.execRdgtc f s
  | .refdefer f => Sys2Proof.Machine.execRefdefer f s
  | .csrrd f => Sys2Proof.Machine.execCsrrd f s
  | .csrwr f => Sys2Proof.Machine.execCsrwr f s
  | .trap f => Sys2Proof.Machine.execTrap f s
  | .eret f => Sys2Proof.Machine.execEret f s
  | .tlbinv f => Sys2Proof.Machine.execTlbinv f s
  | .shoot f => Sys2Proof.Machine.execShoot f s
  | .remapTowerBank f => Sys2Proof.Machine.execRemapTowerBank f s
  | .remapClusterTable f => Sys2Proof.Machine.execRemapClusterTable f s
  | .halt f => Sys2Proof.Machine.execHalt f s
  | .pause f => Sys2Proof.Machine.execPause f s
  | .errpop f => Sys2Proof.Machine.execErrpop f s
  | .nop f => Sys2Proof.Machine.execNop f s
  | .xadd f => Sys2Proof.Machine.execXadd f s
  | .xsub f => Sys2Proof.Machine.execXsub f s
  | .xmul f => Sys2Proof.Machine.execXmul f s
  | .xand f => Sys2Proof.Machine.execXand f s
  | .xorx f => Sys2Proof.Machine.execXorx f s
  | .xxor f => Sys2Proof.Machine.execXxor f s
  | .xshl f => Sys2Proof.Machine.execXshl f s
  | .xshr f => Sys2Proof.Machine.execXshr f s
  | .xmin f => Sys2Proof.Machine.execXmin f s
  | .xmax f => Sys2Proof.Machine.execXmax f s
  | .xli f => Sys2Proof.Machine.execXli f s
  | .xcmp f => Sys2Proof.Machine.execXcmp f s
  | .brx f => Sys2Proof.Machine.execBrx f s
  | .bcxNz f => Sys2Proof.Machine.execBcxNz f s
  | .bcxZ f => Sys2Proof.Machine.execBcxZ f s
  | .bcxK f => Sys2Proof.Machine.execBcxK f s
  | .bcxNk f => Sys2Proof.Machine.execBcxNk f s
  | .bcxAny f => Sys2Proof.Machine.execBcxAny f s
  | .bcxNone f => Sys2Proof.Machine.execBcxNone f s
  | .bcxLoop f => Sys2Proof.Machine.execBcxLoop f s
  | .lsetup f => Sys2Proof.Machine.execLsetup f s
  | .lsetupReg f => Sys2Proof.Machine.execLsetupReg f s
  | .chkpt f => Sys2Proof.Machine.execChkpt f s
  | .xsemv f => Sys2Proof.Machine.execXsemv f s
  | .xsemp f => Sys2Proof.Machine.execXsemp f s
  | .lsupd f => Sys2Proof.Machine.execLsupd f s
  | .lsupdGet f => Sys2Proof.Machine.execLsupdGet f s
  | .lsupdSet f => Sys2Proof.Machine.execLsupdSet f s
  | .lsupdFlg f => Sys2Proof.Machine.execLsupdFlg f s
  | .xtrap f => Sys2Proof.Machine.execXtrap f s
  | .xend f => Sys2Proof.Machine.execXend f s
  | .syncjFork f => Sys2Proof.Machine.execSyncjFork f s
  | .syncjJoin f => Sys2Proof.Machine.execSyncjJoin f s
  | .vadd f => Sys2Proof.Machine.execVadd f s
  | .vsub f => Sys2Proof.Machine.execVsub f s
  | .vmul f => Sys2Proof.Machine.execVmul f s
  | .vmulh f => Sys2Proof.Machine.execVmulh f s
  | .vmadd f => Sys2Proof.Machine.execVmadd f s
  | .vmin f => Sys2Proof.Machine.execVmin f s
  | .vmax f => Sys2Proof.Machine.execVmax f s
  | .vand f => Sys2Proof.Machine.execVand f s
  | .vor f => Sys2Proof.Machine.execVor f s
  | .vxor f => Sys2Proof.Machine.execVxor f s
  | .vshl f => Sys2Proof.Machine.execVshl f s
  | .vshr f => Sys2Proof.Machine.execVshr f s
  | .vsar f => Sys2Proof.Machine.execVsar f s
  | .vabs f => Sys2Proof.Machine.execVabs f s
  | .vsadd f => Sys2Proof.Machine.execVsadd f s
  | .vssub f => Sys2Proof.Machine.execVssub f s
  | .vcmp f => Sys2Proof.Machine.execVcmp f s
  | .vsel f => Sys2Proof.Machine.execVsel f s
  | .vpopc f => Sys2Proof.Machine.execVpopc f s
  | .vclz f => Sys2Proof.Machine.execVclz f s
  | .vmix f => Sys2Proof.Machine.execVmix f s
  | .fadd f => Sys2Proof.Machine.execFadd f s
  | .fsub f => Sys2Proof.Machine.execFsub f s
  | .fmul f => Sys2Proof.Machine.execFmul f s
  | .ffma f => Sys2Proof.Machine.execFfma f s
  | .fmin f => Sys2Proof.Machine.execFmin f s
  | .fmax f => Sys2Proof.Machine.execFmax f s
  | .fminn f => Sys2Proof.Machine.execFminn f s
  | .fmaxn f => Sys2Proof.Machine.execFmaxn f s
  | .fabs f => Sys2Proof.Machine.execFabs f s
  | .fneg f => Sys2Proof.Machine.execFneg f s
  | .fcmp f => Sys2Proof.Machine.execFcmp f s
  | .frcp f => Sys2Proof.Machine.execFrcp f s
  | .frsq f => Sys2Proof.Machine.execFrsq f s
  | .fexp2 f => Sys2Proof.Machine.execFexp2 f s
  | .flog2 f => Sys2Proof.Machine.execFlog2 f s
  | .ftanh f => Sys2Proof.Machine.execFtanh f s
  | .cvt f => Sys2Proof.Machine.execCvt f s
  | .cvtsr f => Sys2Proof.Machine.execCvtsr f s
  | .planes f => Sys2Proof.Machine.execPlanes f s
  | .unplane f => Sys2Proof.Machine.execUnplane f s
  | .rotrow f => Sys2Proof.Machine.execRotrow f s
  | .rotcol f => Sys2Proof.Machine.execRotcol f s
  | .bcrow f => Sys2Proof.Machine.execBcrow f s
  | .bccol f => Sys2Proof.Machine.execBccol f s
  | .redrow f => Sys2Proof.Machine.execRedrow f s
  | .redcol f => Sys2Proof.Machine.execRedcol f s
  | .scanrow f => Sys2Proof.Machine.execScanrow f s
  | .cshift f => Sys2Proof.Machine.execCshift f s
  | .cshiftXc f => Sys2Proof.Machine.execCshiftXc f s
  | .trans16 f => Sys2Proof.Machine.execTrans16 f s
  | .kand f => Sys2Proof.Machine.execKand f s
  | .kor f => Sys2Proof.Machine.execKor f s
  | .kxor f => Sys2Proof.Machine.execKxor f s
  | .knot f => Sys2Proof.Machine.execKnot f s
  | .kmov f => Sys2Proof.Machine.execKmov f s
  | .kpopc f => Sys2Proof.Machine.execKpopc f s
  | .twld f => Sys2Proof.Machine.execTwld f s
  | .twst f => Sys2Proof.Machine.execTwst f s
  | .twldx f => Sys2Proof.Machine.execTwldx f s
  | .qpop f => Sys2Proof.Machine.execQpop f s
  | .qpeek f => Sys2Proof.Machine.execQpeek f s
  | .qpush f => Sys2Proof.Machine.execQpush f s
  | .kstq f => Sys2Proof.Machine.execKstq f s
  | .kstqPush f => Sys2Proof.Machine.execKstqPush f s
  | .mma f => Sys2Proof.Machine.execMma f s
  | .wload f => Sys2Proof.Machine.execWload f s
  | .wswap f => Sys2Proof.Machine.execWswap f s
  | .accz f => Sys2Proof.Machine.execAccz f s
  | .drain f => Sys2Proof.Machine.execDrain f s
  | .rowstat f => Sys2Proof.Machine.execRowstat f s
  | .vnest f => Sys2Proof.Machine.execVnest f s
  | .scqpush f => Sys2Proof.Machine.execScqpush f s
  | .mwait f => Sys2Proof.Machine.execMwait f s
  | .mwaitAll f => Sys2Proof.Machine.execMwaitAll f s
  | .xFreezeEnd cl => Sys2Proof.Machine.execXFreezeEnd cl s
  | .recordDispatch cl => Sys2Proof.Machine.execRecordDispatch cl s
  | .mmaSingleIssue cl work => Sys2Proof.Machine.execMmaSingleIssue cl work s
  | .wloadSingleIssue cl cmp => Sys2Proof.Machine.execWloadSingleIssue cl cmp s
  | .wswapTakesEffect cl => Sys2Proof.Machine.execWswapTakesEffect cl s
  | .acczSingleIssue cl => Sys2Proof.Machine.execAcczSingleIssue cl s
  | .drainSingleIssue cl cmp => Sys2Proof.Machine.execDrainSingleIssue cl cmp s
  | .rowstatSingleIssue cl cmp => Sys2Proof.Machine.execRowstatSingleIssue cl cmp s
  | .vnestSingleIssue cl cmp => Sys2Proof.Machine.execVnestSingleIssue cl cmp s
  | .scqpushSingleIssue cl cmp => Sys2Proof.Machine.execScqpushSingleIssue cl cmp s
  | .engineCommandStart cl id vigil cmp => Sys2Proof.Machine.execEngineCommandStart cl id vigil cmp s
  | .tileTransferLock cl id => Sys2Proof.Machine.execTileTransferLock cl id s
  | .tileTransferDone cl id g => Sys2Proof.Machine.execTileTransferDone cl id g s
  | .loadQueueSlotReady cl q => Sys2Proof.Machine.execLoadQueueSlotReady cl q s
  | .scalarStorePerform cl seq vigil cmp => Sys2Proof.Machine.execScalarStorePerform cl seq vigil cmp s
  | .loadValueReturn cl seq evict => Sys2Proof.Machine.execLoadValueReturn cl seq evict s
  | .completionArrival cl id n => Sys2Proof.Machine.execCompletionArrival cl id n s
  | .waiterSatisfied cl => Sys2Proof.Machine.execWaiterSatisfied cl s
  | .bgiveReleaseDone cl => Sys2Proof.Machine.execBgiveReleaseDone cl s
  | .hbmUnitAccess cl id k cmps => Sys2Proof.Machine.execHbmUnitAccess cl id k cmps s
  | .bankSideRequest cl id k cmp => Sys2Proof.Machine.execBankSideRequest cl id k cmp s
  | .gatherColumn cl id j => Sys2Proof.Machine.execGatherColumn cl id j s
  | .walkRestart cl id => Sys2Proof.Machine.execWalkRestart cl id s
  | .faultBatchTimerExpiry cid => Sys2Proof.Machine.execFaultBatchTimerExpiry cid s
  | .faultRingWrite cid => Sys2Proof.Machine.execFaultRingWrite cid s
  | .shootDownMsg src id scope => Sys2Proof.Machine.execShootDownMsg src id scope s
  | .shootDownAckMsg id count mask => Sys2Proof.Machine.execShootDownAckMsg id count mask s
  | .shootDownTimeout id => Sys2Proof.Machine.execShootDownTimeout id s
  | .chipFence id => Sys2Proof.Machine.execChipFence id s
  | .fenceNoticeMsg chip => Sys2Proof.Machine.execFenceNoticeMsg chip s
  | .migrationCopyRound page => Sys2Proof.Machine.execMigrationCopyRound page s
  | .migrationFlipEnd page => Sys2Proof.Machine.execMigrationFlipEnd page s
  | .accessRefusal cl id offline => Sys2Proof.Machine.execAccessRefusal cl id offline s
  | .mailboxEntryMsg m => Sys2Proof.Machine.execMailboxEntryMsg m s
  | .mailboxAckMsg cl id free status => Sys2Proof.Machine.execMailboxAckMsg cl id free status s
  | .mailboxRetry cl id => Sys2Proof.Machine.execMailboxRetry cl id s
  | .retentionSleepEntry cl cell bank => Sys2Proof.Machine.execRetentionSleepEntry cl cell bank s
  | .almanacRefreshDue cl bank => Sys2Proof.Machine.execAlmanacRefreshDue cl bank s
  | .almanacRefreshEnd cl bank => Sys2Proof.Machine.execAlmanacRefreshEnd cl bank s
  | .towerRemap cl cell bank sel bad => Sys2Proof.Machine.execTowerRemap cl cell bank sel bad s
  | .frameWaitEnd cl id => Sys2Proof.Machine.execFrameWaitEnd cl id s
  | .snapshotInstant cid slot => Sys2Proof.Machine.execSnapshotInstant cid slot s
  | .armMsg src cid slot t => Sys2Proof.Machine.execArmMsg src cid slot t s
  | .armAnswerMsg chip cid slot ok => Sys2Proof.Machine.execArmAnswerMsg chip cid slot ok s
  | .armDeadline cid slot => Sys2Proof.Machine.execArmDeadline cid slot s
  | .confirmMsg cid slot => Sys2Proof.Machine.execConfirmMsg cid slot s
  | .cancelMsg cid slot => Sys2Proof.Machine.execCancelMsg cid slot s
  | .snapshotQueryTimer cid slot => Sys2Proof.Machine.execSnapshotQueryTimer cid slot s
  | .snapshotQueryMsg src cid slot => Sys2Proof.Machine.execSnapshotQueryMsg src cid slot s
  | .decantPage cid slot accepted => Sys2Proof.Machine.execDecantPage cid slot accepted s
  | .decantDone cid slot accepted => Sys2Proof.Machine.execDecantDone cid slot accepted s
  | .decantTimeout cid slot => Sys2Proof.Machine.execDecantTimeout cid slot s
  | .txbeginOpen cid slot => Sys2Proof.Machine.execTxbeginOpen cid slot s
  | .voteMsg chip cid slot txid mask yes => Sys2Proof.Machine.execVoteMsg chip cid slot txid mask yes s
  | .voteTimeout cid slot => Sys2Proof.Machine.execVoteTimeout cid slot s
  | .decideMsg cid slot tc => Sys2Proof.Machine.execDecideMsg cid slot tc s
  | .txAckMsg chip cid slot => Sys2Proof.Machine.execTxAckMsg chip cid slot s
  | .txDecision cid slot => Sys2Proof.Machine.execTxDecision cid slot s
  | .outcomeMsg cid slot tc code => Sys2Proof.Machine.execOutcomeMsg cid slot tc code s
  | .outcomeQueryTimer cid slot => Sys2Proof.Machine.execOutcomeQueryTimer cid slot s
  | .outcomeQueryMsg src cid slot => Sys2Proof.Machine.execOutcomeQueryMsg src cid slot s
  | .txFold page => Sys2Proof.Machine.execTxFold page s
  | .taskPlacement => Sys2Proof.Machine.execTaskPlacement s
  | .taskStart cl => Sys2Proof.Machine.execTaskStart cl s
  | .taskResume cl => Sys2Proof.Machine.execTaskResume cl s
  | .taskRetire cl vigil => Sys2Proof.Machine.execTaskRetire cl vigil s
  | .completionRecordWrite node => Sys2Proof.Machine.execCompletionRecordWrite node s
  | .growAnswer cl => Sys2Proof.Machine.execGrowAnswer cl s
  | .readyMsg node chip => Sys2Proof.Machine.execReadyMsg node chip s
  | .startMsg node g ts => Sys2Proof.Machine.execStartMsg node g ts s
  | .startInstant node => Sys2Proof.Machine.execStartInstant node s
  | .nodeForwardMsg src nodeid q desc => Sys2Proof.Machine.execNodeForwardMsg src nodeid q desc s
  | .replicaReportMsg node chip tasks what => Sys2Proof.Machine.execReplicaReportMsg node chip tasks what s
  | .replacementInstantMsg node tr aentry xentry => Sys2Proof.Machine.execReplacementInstantMsg node tr aentry xentry s
  | .replacementInstant node => Sys2Proof.Machine.execReplacementInstant node s
  | .preemptRequest cl => Sys2Proof.Machine.execPreemptRequest cl s
  | .xHalt cl => Sys2Proof.Machine.execXHalt cl s
  | .suspensionSave cl room => Sys2Proof.Machine.execSuspensionSave cl room s
  | .xTrapTaken cl => Sys2Proof.Machine.execXTrapTaken cl s
  | .scrubRead unit found => Sys2Proof.Machine.execScrubRead unit found s
  | .scrubWriteback unit => Sys2Proof.Machine.execScrubWriteback unit s
  | .errorRecordDelivery r => Sys2Proof.Machine.execErrorRecordDelivery r s
  | .errorRingWrite => Sys2Proof.Machine.execErrorRingWrite s
  | .eventRingWrite => Sys2Proof.Machine.execEventRingWrite s
  | .clusterRetirement cl => Sys2Proof.Machine.execClusterRetirement cl s
  | .clusterMove cl bad => Sys2Proof.Machine.execClusterMove cl bad s
  | .channelFail ch => Sys2Proof.Machine.execChannelFail ch s
  | .haltWake cl => Sys2Proof.Machine.execHaltWake cl s
  | .pauseExpiry cl => Sys2Proof.Machine.execPauseExpiry cl s
  | .samovarServiceRequest cl => Sys2Proof.Machine.execSamovarServiceRequest cl s
  | .crPendWrite cl v => Sys2Proof.Machine.execCrPendWrite cl v s
  | .crErbaseWrite v => Sys2Proof.Machine.execCrErbaseWrite v s
  | .crErheadWrite v => Sys2Proof.Machine.execCrErheadWrite v s
  | .crErtailWrite v => Sys2Proof.Machine.execCrErtailWrite v s
  | .crXfpLsWrite cl num v => Sys2Proof.Machine.execCrXfpLsWrite cl num v s
  | .crMboxWrite cl v => Sys2Proof.Machine.execCrMboxWrite cl v s
  | .crDeviceWrite num v => Sys2Proof.Machine.execCrDeviceWrite num v s
  | .crWrite cl num v => Sys2Proof.Machine.execCrWrite cl num v s
  | .powerInterval grants => Sys2Proof.Machine.execPowerInterval grants s
  | .retrainingDue cl => Sys2Proof.Machine.execRetrainingDue cl s
  | .retrainingForced cl => Sys2Proof.Machine.execRetrainingForced cl s
  | .retrainingEnd cl => Sys2Proof.Machine.execRetrainingEnd cl s
  | .createContext q => Sys2Proof.Machine.execCreateContext q s
  | .destroyContext q => Sys2Proof.Machine.execDestroyContext q s
  | .bind q => Sys2Proof.Machine.execBind q s
  | .unbind q => Sys2Proof.Machine.execUnbind q s
  | .writeRecord q => Sys2Proof.Machine.execWriteRecord q s
  | .writeTemplate q => Sys2Proof.Machine.execWriteTemplate q s
  | .writeGatherPattern q => Sys2Proof.Machine.execWriteGatherPattern q s
  | .mailboxSettings q => Sys2Proof.Machine.execMailboxSettings q s
  | .snapshotConfigure q => Sys2Proof.Machine.execSnapshotConfigure q s
  | .pageOwner q => Sys2Proof.Machine.execPageOwner q s
  | .snapshot q => Sys2Proof.Machine.execSnapshot q s
  | .decantBuffer q => Sys2Proof.Machine.execDecantBuffer q s
  | .transactionResolve q => Sys2Proof.Machine.execTransactionResolve q s
  | .submit q => Sys2Proof.Machine.execSubmit q s
  | .replaceCode q => Sys2Proof.Machine.execReplaceCode q s
  | .dispatcherConfigure q => Sys2Proof.Machine.execDispatcherConfigure q s
  | .resolve q => Sys2Proof.Machine.execResolve q s
  | .migrate q => Sys2Proof.Machine.execMigrate q s
  | .shootDown q => Sys2Proof.Machine.execShootDown q s
  | .queryTowerRemap q => Sys2Proof.Machine.execQueryTowerRemap q s
  | .queryClusterTable q => Sys2Proof.Machine.execQueryClusterTable q s
  | .queryHbmDegraded q => Sys2Proof.Machine.execQueryHbmDegraded q s
  | .queryPageTag q => Sys2Proof.Machine.execQueryPageTag q s
  | .queryGatherPattern q => Sys2Proof.Machine.execQueryGatherPattern q s
  | .queryDispatcherParameters q => Sys2Proof.Machine.execQueryDispatcherParameters q s
  | .querySamovarLog q => Sys2Proof.Machine.execQuerySamovarLog q s
  | .querySlotStatus q => Sys2Proof.Machine.execQuerySlotStatus q s
  | .queryDeviceStatus q => Sys2Proof.Machine.execQueryDeviceStatus q s
  | .retireCluster q => Sys2Proof.Machine.execRetireCluster q s
  | .fabricJoin q => Sys2Proof.Machine.execFabricJoin q s
  | .doorbell q v => Sys2Proof.Machine.execDoorbell q v s
  | .qcfgWrite q v => Sys2Proof.Machine.execQcfgWrite q v s
  | .cheadWrite q v => Sys2Proof.Machine.execCheadWrite q v s
  | .fcfgWrite v => Sys2Proof.Machine.execFcfgWrite v s
  | .fheadWrite v => Sys2Proof.Machine.execFheadWrite v s
  | .ecfgWrite v => Sys2Proof.Machine.execEcfgWrite v s
  | .eheadWrite v => Sys2Proof.Machine.execEheadWrite v s
  | .hostRegisterWrite off v => Sys2Proof.Machine.execHostRegisterWrite off v s
  | .bar2Write addr data => Sys2Proof.Machine.execBar2Write addr data s
  | .bar2Read addr len => Sys2Proof.Machine.execBar2Read addr len s
  | .hostCompletion id ok data => Sys2Proof.Machine.execHostCompletion id ok data s
  | .hostCompletionTimeout id => Sys2Proof.Machine.execHostCompletionTimeout id s
  | .remoteRead src tag addr len => Sys2Proof.Machine.execRemoteRead src tag addr len s
  | .remoteWrite src tag addr mask data => Sys2Proof.Machine.execRemoteWrite src tag addr mask data s
  | .remoteAtomic src tag addr size op x exp => Sys2Proof.Machine.execRemoteAtomic src tag addr size op x exp s
  | .remoteBankSide src tag r => Sys2Proof.Machine.execRemoteBankSide src tag r s
  | .decantWriteMsg src tag addr data => Sys2Proof.Machine.execDecantWriteMsg src tag addr data s
  | .remoteResponse tag st v => Sys2Proof.Machine.execRemoteResponse tag st v s
  | .requestReissue tag => Sys2Proof.Machine.execRequestReissue tag s
  | .peerUnresponsive tag => Sys2Proof.Machine.execPeerUnresponsive tag s
  | .nak port seq => Sys2Proof.Machine.execNak port seq s
  | .portDown port => Sys2Proof.Machine.execPortDown port s
  | .portRetrain port ok => Sys2Proof.Machine.execPortRetrain port ok s
  | .icinvMsg src id cid va len => Sys2Proof.Machine.execIcinvMsg src id cid va len s
  | .icinvAckMsg id chip => Sys2Proof.Machine.execIcinvAckMsg id chip s
  | .gtcAlignTimer port => Sys2Proof.Machine.execGtcAlignTimer port s
  | .gtcAlignMsg src stamp => Sys2Proof.Machine.execGtcAlignMsg src stamp s
  | .gtcBoundLost chip => Sys2Proof.Machine.execGtcBoundLost chip s
  | .joinMsg chip => Sys2Proof.Machine.execJoinMsg chip s
  | .latchRowsArrive cl north => Sys2Proof.Machine.execLatchRowsArrive cl north s
  | .powerOn checks => Sys2Proof.Machine.execPowerOn checks s
  | .functionLevelReset checks => Sys2Proof.Machine.execFunctionLevelReset checks s
  | .rejoinReset image checks => Sys2Proof.Machine.execRejoinReset image checks s
  | .attestationRequest nonce => Sys2Proof.Machine.execAttestationRequest nonce s
  | .vcyc cl cmps => Sys2Proof.Machine.execVcyc cl cmps s
  | .refillDrainTowerAccess cl id k cmps => Sys2Proof.Machine.execRefillDrainTowerAccess cl id k cmps s
  | .junctionTemperatureChange hot => Sys2Proof.Machine.execJunctionTemperatureChange hot s
  | .badCrcFlit port outOfOrder => Sys2Proof.Machine.execBadCrcFlit port outOfOrder s
  | .idleAckFlit port ack => Sys2Proof.Machine.execIdleAckFlit port ack s
  | .startRefusalMsg node chip => Sys2Proof.Machine.execStartRefusalMsg node chip s
  | .tagMemoryExpiry src tag => Sys2Proof.Machine.execTagMemoryExpiry src tag s
  | .tagReuseExpiry tag => Sys2Proof.Machine.execTagReuseExpiry tag s
  | .networkFlitCrcFailure cl id k resends => Sys2Proof.Machine.execNetworkFlitCrcFailure cl id k resends s
  | .configurationRequest => Sys2Proof.Machine.execConfigurationRequest s
  | .hostAtomicopToBar => Sys2Proof.Machine.execHostAtomicopToBar s

end Sys2Proof.Machine
end

