-- ==== Sys2Proof/Machine/Step.lean ====
section
/-! DEFINITION. One step of the machine, and the placing of an instruction where the next step fetches it. -/

namespace Sys2Proof.Machine

/-- A step of the machine: the next turn of the agenda (log 1). -/
def step (s : State) : Host.Outcome State Fault Refusal := stepWith exec State.boot State.bootTurn s

/-- `s` with the instruction whose bits are `w` where the next step fetches it: an A-core word on cluster 0, or a syllable on
cluster 0's X-core; events are not fetched (log 17). -/
def State.withFetchWord (s : State) (nbits w : Nat) : State :=
  if nbits = 64 then s.placeWord w else if nbits = 128 then s.placeSyllable w else s

end Sys2Proof.Machine
end

