-- ==== Sys2Proof/Safety.lean ====
section
/-! DEFINITION. What counts as a safe run: the tables of the state keep their canonical forms, and no step ends in a fault or a
refusal. -/

namespace Sys2Proof.Machine

/-- The memories of a cluster are in canonical form. -/
def Cluster.memWf (c : Cluster) : Bool := c.sp.wf && c.tw.wf

/-- The memories of the device are in canonical form. -/
def State.memWf (s : State) : Bool := s.hbm.wf && s.hostMem.wf && s.clusters.all fun (_, c) => c.memWf

/-- No byte of any memory differs: HBM, the host's memory, and the scratchpad and towers of every cluster. -/
def SameBytes (s t : State) : Prop :=
  (∀ a, t.hbm.byte a = s.hbm.byte a) ∧ (∀ a, t.hostMem.byte a = s.hostMem.byte a)
    ∧ ∀ n a, (t.cl n).sp.byte a = (s.cl n).sp.byte a ∧ (t.cl n).tw.byte a = (s.cl n).tw.byte a

/-- A step answers a next state. -/
def State.runs (s : State) : Prop := ∃ t, step s = .next t

end Sys2Proof.Machine
end

