-- ==== Sys2Proof/Certificates/Slice0/Obligations.lean ====
section
/-! DEFINITION. What is claimed of the model, rule by rule. -/

open Sys2Proof Sys2Proof.Machine

/-- A message to a chip has left, or waits at a port for credits. -/
def posted (t : State) (dst : Nat) (m : Msg) : Prop := (dst, m) ∈ t.outbox ∨ ∃ p, (dst, m) ∈ (t.port p).wait

/-! ### The A-core's integer and control instructions (R264-R281) -/

/-- R270, R272, R273, R276: with its registers ready, each instruction writes the value of its entry and goes on to the next instruction.
`a`, `b` are the values of ga and gb, `i` the extended immediate. -/
def Obligations.IntegerResults : Prop :=
  ∀ (f : AF) (s : State), s.ready [f.d, f.sa, f.sb] = true →
    let a := s.g f.sa
    let b := s.g f.sb
    let i : W64 := f.imm.signExtend 64
    exec (.add f) s = .next (s.result f.d (a + b)) ∧ exec (.sub f) s = .next (s.result f.d (a - b))
    ∧ exec (.mul f) s = .next (s.result f.d (a * b))
    ∧ exec (.mulh f) s = .next (s.result f.d (BitVec.ofInt 64 (a.toInt * b.toInt / 2 ^ 64)))
    ∧ exec (.mulhn f) s = .next (s.result f.d (BitVec.ofNat 64 (a.toNat * b.toNat / 2 ^ 64)))
    ∧ exec (.and f) s = .next (s.result f.d (a &&& b)) ∧ exec (.or f) s = .next (s.result f.d (a ||| b))
    ∧ exec (.xor f) s = .next (s.result f.d (a ^^^ b)) ∧ exec (.andn f) s = .next (s.result f.d (a &&& ~~~b))
    ∧ exec (.min f) s = .next (s.result f.d (if b.toInt < a.toInt then b else a))
    ∧ exec (.max f) s = .next (s.result f.d (if b.toInt < a.toInt then a else b))
    ∧ exec (.minn f) s = .next (s.result f.d (BitVec.ofNat 64 (Nat.min a.toNat b.toNat)))
    ∧ exec (.maxn f) s = .next (s.result f.d (BitVec.ofNat 64 (Nat.max a.toNat b.toNat)))
    ∧ exec (.cmpeq f) s = .next (s.result f.d (if a = b then 1 else 0))
    ∧ exec (.cmpne f) s = .next (s.result f.d (if a = b then 0 else 1))
    ∧ exec (.cmplt f) s = .next (s.result f.d (if a.toInt < b.toInt then 1 else 0))
    ∧ exec (.cmple f) s = .next (s.result f.d (if b.toInt < a.toInt then 0 else 1))
    ∧ exec (.cmpltn f) s = .next (s.result f.d (if a.toNat < b.toNat then 1 else 0))
    ∧ exec (.cmplen f) s = .next (s.result f.d (if b.toNat < a.toNat then 0 else 1))
    ∧ exec (.addi f) s = .next (s.result f.d (a + i)) ∧ exec (.andi f) s = .next (s.result f.d (a &&& i))
    ∧ exec (.ori f) s = .next (s.result f.d (a ||| i)) ∧ exec (.xori f) s = .next (s.result f.d (a ^^^ i))
    ∧ exec (.li f) s = .next (s.result f.d i)
    ∧ exec (.lih f) s = .next (s.result f.d (BitVec.ofNat 64 (f.imm.toNat * 2 ^ 32 + (s.g f.d).toNat % 2 ^ 32)))
    ∧ (s.ready [f.imm.setWidth 6] = true →
        exec (.sel f) s = .next (s.result f.d (if s.g (f.imm.setWidth 6) = 0 then b else a)))

/-- R271: division truncates toward zero, a zero divisor gives all ones and the dividend, and the one quotient that does not fit wraps;
quotient and remainder give the dividend back; the opcodes. -/
def Obligations.DivisionResults : Prop :=
  ∀ (f : AF) (s : State), s.ready [f.d, f.sa, f.sb] = true →
    let a := s.g f.sa
    let b := s.g f.sb
    exec (.div f) s = .next (s.result f.d (if b = 0 then BitVec.ofNat 64 (2 ^ 64 - 1) else BitVec.ofInt 64 (a.toInt.tdiv b.toInt)))
    ∧ exec (.rem f) s = .next (s.result f.d (if b = 0 then a else BitVec.ofInt 64 (a.toInt - a.toInt.tdiv b.toInt * b.toInt)))
    ∧ exec (.divn f) s = .next (s.result f.d (if b = 0 then BitVec.ofNat 64 (2 ^ 64 - 1) else BitVec.ofNat 64 (a.toNat / b.toNat)))
    ∧ exec (.remn f) s = .next (s.result f.d (if b = 0 then a else BitVec.ofNat 64 (a.toNat - a.toNat / b.toNat * b.toNat)))
    ∧ (∀ q r : W64, exec (.div f) s = .next (s.result f.d q) → exec (.rem f) s = .next (s.result f.d r) → f.d ≠ 0 → a = q * b + r)
    ∧ (∀ q r : W64, exec (.divn f) s = .next (s.result f.d q) → exec (.remn f) s = .next (s.result f.d r) → f.d ≠ 0 → a = q * b + r)
    ∧ encode (.div f) = some (64, (encodeAF 0x06 f).toNat) ∧ encode (.divn f) = some (64, (encodeAF 0x07 f).toNat)
    ∧ encode (.rem f) = some (64, (encodeAF 0x08 f).toNat) ∧ encode (.remn f) = some (64, (encodeAF 0x09 f).toNat)

/-- R274: shifts and rotates as arithmetic on the operand, for every count; the opcodes, and the fields of the two forms. -/
def Obligations.ShiftResults : Prop :=
  ∀ (f : AF) (s : State), s.ready [f.d, f.sa, f.sb] = true →
    let a := s.g f.sa
    let shl (n : Nat) : W64 := BitVec.ofNat 64 (a.toNat * 2 ^ n)
    let shr (n : Nat) : W64 := BitVec.ofNat 64 (a.toNat / 2 ^ n)
    let sar (n : Nat) : W64 := BitVec.ofInt 64 (a.toInt / 2 ^ Nat.min n 63)
    let rol (n : Nat) : W64 := BitVec.ofNat 64 (a.toNat * 2 ^ (n % 64) + a.toNat / 2 ^ (64 - n % 64))
    let rotr (n : Nat) : W64 := BitVec.ofNat 64 (a.toNat / 2 ^ (n % 64) + a.toNat * 2 ^ (64 - n % 64))
    let r := (s.g f.sb).toNat
    let i := f.imm.toNat % 64
    exec (.shl f) s = .next (s.result f.d (shl r)) ∧ exec (.shlImm f) s = .next (s.result f.d (shl i))
    ∧ exec (.shr f) s = .next (s.result f.d (shr r)) ∧ exec (.shrImm f) s = .next (s.result f.d (shr i))
    ∧ exec (.sar f) s = .next (s.result f.d (sar r)) ∧ exec (.sarImm f) s = .next (s.result f.d (sar i))
    ∧ exec (.rol f) s = .next (s.result f.d (rol r)) ∧ exec (.rolImm f) s = .next (s.result f.d (rol i))
    ∧ exec (.rotr f) s = .next (s.result f.d (rotr r)) ∧ exec (.rotrImm f) s = .next (s.result f.d (rotr i))
    ∧ (∀ i o, (i, o) ∈ [(Instr.shl f, 0x10), (.shr f, 0x11), (.sar f, 0x12), (.rol f, 0x13), (.rotr f, 0x14)] →
        encode i = some (64, (encodeAF o f).toNat) ∧ (i.wf = true ↔ f.ocl = 0 ∧ f.pcl = 0 ∧ f.imm = 0))
    ∧ (∀ i o, (i, o) ∈ [(Instr.shlImm f, 0x10), (.shrImm f, 0x11), (.sarImm f, 0x12), (.rolImm f, 0x13), (.rotrImm f, 0x14)] →
        encode i = some (64, (encodeAF o f).toNat) ∧ (i.wf = true ↔ f.ocl = 1 ∧ f.pcl = 0 ∧ f.sb = 0 ∧ f.imm.toNat < 64))

/-- Part 1 of 2 of `Obligations.BitResults`. -/
def Clause.BitCounts : Prop :=
  ∀ (f : AF) (s : State), s.ready [f.d, f.sa, f.sb] = true →
    let a := s.g f.sa
    (∃ n ≤ 64, exec (.clz f) s = .next (s.result f.d (BitVec.ofNat 64 n)) ∧ (∀ i, 64 - n ≤ i → a.getLsbD i = false)
      ∧ (n < 64 → a.getLsbD (63 - n) = true))
    ∧ (∃ n ≤ 64, exec (.ctz f) s = .next (s.result f.d (BitVec.ofNat 64 n)) ∧ (∀ i < n, a.getLsbD i = false)
      ∧ (n < 64 → a.getLsbD n = true))
    ∧ exec (.popc f) s = .next (s.result f.d (BitVec.ofNat 64 ((List.range 64).countP fun i => a.getLsbD i)))

/-- Part 2 of 2 of `Obligations.BitResults`. -/
def Clause.BitFieldResults : Prop :=
  ∀ (f : AF) (s : State), s.ready [f.d, f.sa, f.sb] = true →
    let a := s.g f.sa
    let m := f.imm.toNat
    let b := (s.g f.sb).toNat
    let taken (w o : Nat) : Nat := if 64 ≤ o then 0 else Nat.min w (64 - o)
    let z (w o : Nat) (v : W64) : Prop := ∀ i < 64, v.getLsbD i = (decide (i < taken w o) && a.getLsbD (i + o))
    let x (w o : Nat) (v : W64) : Prop :=
      ∀ i < 64, v.getLsbD i = (decide (0 < taken w o) && a.getLsbD (Nat.min i (taken w o - 1) + o))
    let ins (w o : Nat) (v : W64) : Prop :=
      ∀ i < 64, v.getLsbD i = if o ≤ i ∧ i < o + taken w o then a.getLsbD (i - o) else (s.g f.d).getLsbD i
    (∃ v, exec (.extz f) s = .next (s.result f.d v) ∧ z (m % 128) (m / 256 % 128) v)
    ∧ (∃ v, exec (.extzVar f) s = .next (s.result f.d v) ∧ z (Nat.min (b % 128) 64) (b / 256 % 128) v)
    ∧ (∃ v, exec (.exts f) s = .next (s.result f.d v) ∧ x (m % 128) (m / 256 % 128) v)
    ∧ (∃ v, exec (.extsVar f) s = .next (s.result f.d v) ∧ x (Nat.min (b % 128) 64) (b / 256 % 128) v)
    ∧ (∃ v, exec (.ins f) s = .next (s.result f.d v) ∧ ins (m % 128) (m / 256 % 128) v)
    ∧ (∃ v, exec (.insVar f) s = .next (s.result f.d v) ∧ ins (Nat.min (b % 128) 64) (b / 256 % 128) v)

/-- R275: the counts, said by the bits of the operand. R277: the bits of the field instructions' results. `w` and `o` are the width and
the offset of the immediate form; the register form takes them from gb, the width capped at 64. -/
def Obligations.BitResults : Prop := Clause.BitCounts ∧ Clause.BitFieldResults

/-- R278-R280: where a jump, branch or LOOP goes, what it links or counts, and that a misaligned JALI takes the illegal-instruction trap
with no link. -/
def Obligations.BranchTargets : Prop :=
  ∀ (f : AF) (s : State), s.ready [f.d, f.sa, f.sb] = true →
    let a := s.g f.sa
    let b := s.g f.sb
    let target : W64 := s.a.pc + 8 * f.imm.signExtend 64
    let branch (c : Prop) [Decidable c] : Out := .next (if c then s.setPc target else s.setPc (s.a.pc + 8))
    let t := a + f.imm.signExtend 64
    exec (.jmp f) s = .next (s.setPc target)
    ∧ exec (.jal f) s = .next ((s.setG f.d (s.a.pc + 8)).setPc target)
    ∧ (t.toNat % 8 = 0 → exec (.jali f) s = .next ((s.setG f.d (s.a.pc + 8)).setPc t))
    ∧ (t.toNat % 8 ≠ 0 → exec (.jali f) s = .next (s.trapHere 0x01 0x0C (encodeAF 0x3A f)))
    ∧ exec (.beq f) s = branch (a = b) ∧ exec (.bne f) s = branch (a ≠ b)
    ∧ exec (.blt f) s = branch (a.toInt < b.toInt) ∧ exec (.bge f) s = branch (b.toInt ≤ a.toInt)
    ∧ exec (.bltn f) s = branch (a.toNat < b.toNat) ∧ exec (.bgen f) s = branch (b.toNat ≤ a.toNat)
    ∧ (s.g f.d = 0 → exec (.loop f) s = .next (s.setPc (s.a.pc + 8)))
    ∧ (s.g f.d = 1 → exec (.loop f) s = .next ((s.setG f.d 0).setPc (s.a.pc + 8)))
    ∧ (1 < (s.g f.d).toNat → exec (.loop f) s = .next ((s.setG f.d (s.g f.d - 1)).setPc target))

/-- R206, R264: what the write of a result does and what it leaves: g0 discards it, the pc moves to the next instruction, the core waits
no more, and no other register, memory or unit of the device changes. -/
def Obligations.ResultFrame : Prop :=
  ∀ (s : State) (d : BitVec 6) (v : W64),
    let t := s.result d v
    (∀ r, t.g r = if r = d ∧ d ≠ 0 then v else s.g r) ∧ t.a.pc = s.a.pc + 8
      ∧ { t.a with g := s.a.g, pc := s.a.pc, wait := s.a.wait } = s.a
      ∧ t.x = s.x ∧ t.cur.ctl = s.cur.ctl ∧ t.cur.arr = s.cur.arr
      ∧ (∀ n, n ≠ s.focus → t.cl n = s.cl n) ∧ SameBytes s t ∧ { t with clusters := s.clusters } = s

/-! ### Traps, control registers and supervisor instructions (R372-R390) -/

/-- Part 1 of 3 of `Obligations.TrapEntries`. -/
def Clause.TrapEntry : Prop :=
  ∀ (s : State) (cl code detail : Nat) (tval : W64) (xc : Bool) (epc : W64),
    ((s.cl cl).a.mode = .s → (s.cl cl).a.sstat.getLsbD 1 = true) →
    let a := (s.cl cl).a
    let t := s.enterTrap cl code detail tval xc epc
    let b := (t.cl cl).a
    b.mode = .s ∧ b.pc = a.tvec &&& ~~~7#64 ∧ b.epc = epc &&& ~~~7#64 ∧ b.tval = tval
      ∧ b.sstat = BitVec.ofNat 64 ((if a.mode = .s then 1 else 0) + (if a.sstat.getLsbD 1 then 4 else 0))
      ∧ b.cause = BitVec.ofNat 64 (code % 256 + detail % 256 * 256 + if xc then 65536 else 0)
      ∧ b.g = a.g ∧ b.tvec = a.tvec ∧ b.scr = a.scr ∧ b.pend = a.pend ∧ b.loads = a.loads ∧ b.stores = a.stores ∧ b.cmds = a.cmds
      ∧ (t.cl cl).x = (s.cl cl).x ∧ (∀ n, n ≠ cl → t.cl n = s.cl n) ∧ SameBytes s t ∧ { t with clusters := s.clusters } = s
      ∧ (cl = s.focus → a.pc = epc → xc = false →
          (a.resultsDone = false → s.trapHere code detail tval = s) ∧ (a.resultsDone = true → a.mode = .s → s.trapHere code detail tval = t))

/-- Part 2 of 3 of `Obligations.TrapEntries`. -/
def Clause.DoubleFaultStops : Prop :=
  ∀ (s : State) (cl code detail : Nat) (tval : W64) (xc : Bool) (epc : W64),
    (s.cl cl).a.mode = .s → (s.cl cl).a.sstat.getLsbD 1 = false → (s.cl cl).ctl.occ = .free →
    let a := (s.cl cl).a
    let b := ((s.enterTrap cl code detail tval xc epc).cl cl).a
    b.run = .faulted ∧ b.sstat = a.sstat ∧ b.epc = a.epc ∧ b.cause = a.cause ∧ b.tval = a.tval ∧ b.mode = a.mode ∧ b.pc = a.pc
      ∧ ∀ tvec, let d := ((s.enterTrap cl code detail tval xc epc).cl cl).resetCores tvec
        d.a.run = .idle ∧ d.a.sstat = 1 ∧ d.a.tvec = tvec ∧ d.a.loads = [] ∧ d.x = XCore.reset

/-- Part 3 of 3 of `Obligations.TrapEntries`. -/
def Clause.DoubleFaultAborts : Prop :=
  ∀ (s : State) (cl code detail : Nat) (tval : W64) (xc : Bool) (epc : W64), cl < 192 →
    (s.cl cl).a.mode = .s → (s.cl cl).a.sstat.getLsbD 1 = false → (s.cl cl).ctl.occ ≠ .free →
    let a := (s.cl cl).a
    let t := s.enterTrap cl code detail tval xc epc
    let b := (t.cl cl).a
    b.run = .faulted ∧ b.sstat = a.sstat ∧ b.epc = a.epc ∧ b.cause = a.cause ∧ b.tval = a.tval ∧ b.mode = a.mode ∧ b.pc = a.pc
      ∧ (t.cl cl).x.run = .idle ∧ (t.cl cl).ctl.occ = .free ∧ (t.ctx (s.cl cl).ctl.cid).aborted = true

/-- R383, R415: a trap entry saves the mode and TE, the address to resume at, the cause and TVAL, and goes to the handler in mode S;
nothing else of the device changes; the trap of an instruction is taken once every earlier one has written its results. R383: in mode S
with TE = 0 a trap is a double fault: the trap registers keep their values and the core stops issuing, until the cluster's cores are
reset; the context of a task that the cluster holds is aborted, and the task is discarded. Where the manual leaves a point open it says
what the model chose: when Samovar resets the cores (log 41), and what its reset leaves: idle cores, sstat 1, the image's tvec, no loads
(log 85). -/
def Obligations.TrapEntries : Prop := Clause.TrapEntry ∧ Clause.DoubleFaultStops ∧ Clause.DoubleFaultAborts

/-- R384, R383, R415: once every earlier instruction has written its results, TRAP in mode S with TE = 1 enters the handler with CODE 0x3F
and DETAIL 0, the code in TVAL and the address after it in EPC; with TE = 0 it is a double fault. Its fields other than IMM[15:0] are
zero. -/
def Obligations.SupervisorCall : Prop :=
  ∀ (f : AF) (s : State), s.a.mode = .s →
    (s.a.resultsDone = false → exec (.trap f) s = .next s)
    ∧ (s.a.resultsDone = true → s.a.sstat.getLsbD 1 = true →
      ∃ t, exec (.trap f) s = .next t ∧ t.a.cause = 0x3F ∧ t.a.tval = BitVec.ofNat 64 (f.imm.toNat % 65536)
        ∧ t.a.epc = (s.a.pc + 8) &&& ~~~7#64 ∧ t.a.mode = .s ∧ t.a.pc = s.a.tvec &&& ~~~7#64 ∧ t.a.sstat = 5
        ∧ (∀ r, t.g r = s.g r) ∧ SameBytes s t)
    ∧ (s.a.resultsDone = true → s.a.sstat.getLsbD 1 = false → exec (.trap f) s = .next (s.doubleFault s.focus))
    ∧ encode (.trap f) = some (64, (encodeAF 0xF2 f).toNat)
    ∧ ((Instr.trap f).wf = true ↔ f.pcl = 0 ∧ f.ocl = 0 ∧ f.d = 0 ∧ f.sa = 0 ∧ f.sb = 0 ∧ f.imm.toNat < 65536)

/-- Part 1 of 2 of `Obligations.TrapReturnAndHolds`. -/
def Clause.TrapReturn : Prop :=
  ∀ (f : AF) (s : State), s.a.resultsDone = true → (s.a.doomed = none ∨ s.a.sstat.getLsbD 0 = true) →
    ∃ t, exec (.eret f) s = .next t ∧ t.a.mode = (if s.a.sstat.getLsbD 0 then .s else .t) ∧ t.a.pc = s.a.epc &&& ~~~7#64
      ∧ t.a.sstat.getLsbD 1 = s.a.sstat.getLsbD 2 ∧ t.a.sstat.getLsbD 0 = s.a.sstat.getLsbD 0
      ∧ t.a.sstat.getLsbD 2 = s.a.sstat.getLsbD 2 ∧ t.a.icache = []
      ∧ (∀ r ∈ t.reqs, ReqBy.fetchOf s.focus false r.owner = false) ∧ (∀ r, t.g r = s.g r) ∧ t.a.epc = s.a.epc
      ∧ (∀ n, n ≠ s.focus → t.cl n = s.cl n) ∧ SameBytes s t

/-- Part 2 of 2 of `Obligations.TrapReturnAndHolds`. -/
def Clause.HoldAndWake : Prop :=
  (∀ (f : AF) (s : State),
    (s.pendOf s.focus ≠ 0 → exec (.halt f) s = .next s.advance ∧ exec (.pause f) s = .next s.advance)
    ∧ (s.pendOf s.focus = 0 →
        (∃ t, exec (.halt f) s = .next t ∧ t.a.run = .halted none ∧ t.a.pc = s.a.pc ∧ (∀ r, t.g r = s.g r))
        ∧ ∃ t, exec (.pause f) s = .next t ∧ t.a.run = .halted (some (s.clk + f.imm.toNat % 2 ^ 20)) ∧ t.a.pc = s.a.pc
            ∧ ∀ r, t.g r = s.g r))
  ∧ (∀ (cl : Nat) (s : State) (e : Option Nat), (s.cl cl).a.run = .halted e → s.pendOf cl ≠ 0 →
      ∃ t, exec (.haltWake cl) s = .next t ∧ (t.cl cl).a.run = .run ∧ (t.cl cl).a.pc = (s.cl cl).a.pc + 8 ∧ (t.cl cl).a.pend = (s.cl cl).a.pend)
  ∧ (∀ (cl e : Nat) (s : State), (s.cl cl).a.run = .halted (some e) → e ≤ s.clk →
      ∃ t, exec (.pauseExpiry cl) s = .next t ∧ (t.cl cl).a.run = .run ∧ (t.cl cl).a.pc = (s.cl cl).a.pc + 8)
  ∧ ∀ (cl : Nat) (s : State), ∃ t, exec (.samovarServiceRequest cl) s = .next t ∧ (t.cl cl).a.pend = (s.cl cl).a.pend ||| 1
      ∧ ∀ n, n ≠ cl → t.cl n = s.cl n

/-- R385: ERET returns to the saved mode, TE and address, and discards the fetched instructions and the fetches under way; a return to a
task whose protection mismatch firmware has handled ends that task instead, which this leaves out. R386, R378: HALT and PAUSE hold the
core while nothing is pending and go on at once otherwise; a pending event or the end of the PAUSE lets the core go on after them; a
service request sets SVC. -/
def Obligations.TrapReturnAndHolds : Prop := Clause.TrapReturn ∧ Clause.HoldAndWake

/-- Part 1 of 3 of `Obligations.ControlRegisters`. -/
def Clause.ControlRegisterAccess : Prop :=
  ∀ (f : AF) (s : State),
    let n := f.imm.toNat % 4096
    let old := BitVec.ofNat 64 (s.csr s.focus n)
    (s.ready [f.d] = true → exec (.csrrd f) s = .next (s.result f.d old))
    ∧ (s.ready [f.d, f.sa] = true → exec (.csrwr f) s = .next ((s.writeCsr s.focus n (s.g f.sa).toNat).result f.d old))

/-- Part 2 of 3 of `Obligations.ControlRegisters`. -/
def Clause.ControlRegisterReadBack : Prop :=
  ∀ (s : State) (cl v : Nat), v < 2 ^ 64 →
    (s.writeCsr cl 0x000 v).csr cl 0x000 = v % 8
    ∧ (s.writeCsr cl 0x001 v).csr cl 0x001 = v / 8 * 8 ∧ (s.writeCsr cl 0x002 v).csr cl 0x002 = v % 2 ^ 17
    ∧ (s.writeCsr cl 0x003 v).csr cl 0x003 = v ∧ (s.writeCsr cl 0x004 v).csr cl 0x004 = v / 8 * 8
    ∧ (∀ n, 8 ≤ n → n ≤ 11 → (s.writeCsr cl n v).csr cl n = v)
    ∧ (s.writeCsr cl 0x020 v).csr cl 0x020 = s.dev.chip % 64 + v / 2 ^ 16 % 2 ^ 14 * 2 ^ 16
    ∧ (s.writeCsr cl 0x030 v).csr cl 0x030 = v / 2 ^ 8 % 2 ^ 20 * 2 ^ 8
    ∧ (s.writeCsr cl 0x040 v).csr cl 0x040 = v % 2 ^ 14
    ∧ (s.writeCsr cl 0x042 v).csr cl 0x042 = v % 2 ^ 16 + (if s.dev.hot then 2 ^ 16 else 0)
    ∧ (s.writeCsr cl 0x060 v).csr cl 0x060 = v % 2 ^ 42
    ∧ (∀ n, n = 0x010 ∨ n = 0x021 ∨ (0x032 ≤ n ∧ n ≤ 0x035) ∨ n = 0x041 ∨ (0x048 ≤ n ∧ n ≤ 0x04B) ∨ n = 0x050
        ∨ (0x058 ≤ n ∧ n ≤ 0x05F) ∨ n = 0x080 → (s.writeCsr cl n v).csr cl n = s.csr cl n)

/-- Part 3 of 3 of `Obligations.ControlRegisters`. -/
def Clause.ControlRegisterRows : Prop :=
  ∀ (s : State) (cl num : Nat) (v : BitVec 64),
    (∃ t, exec (.crPendWrite cl v) s = .next t ∧ (t.cl cl).a.pend = (s.cl cl).a.pend &&& ~~~(v &&& 7))
    ∧ (∃ t, exec (.crErbaseWrite v) s = .next t ∧ t.dev.erbase = v &&& BitVec.ofNat 64 (2 ^ 63 + (2 ^ 44 - 2 ^ 12) + 15)
        ∧ (t.dev.erbase.toNat % 2 ^ 44 ≠ s.dev.erbase.toNat % 2 ^ 44 →
            t.dev.erHead = 0 ∧ t.dev.erTail = 0 ∧ t.dev.erOvf = false ∧ t.dev.erDrops = 0))
    ∧ (∃ t, exec (.crErheadWrite v) s = .next t ∧ t.dev.erHead = s.dev.erHead
        ∧ t.dev.erOvf = (s.dev.erOvf && !v.getLsbD 63) ∧ (v.getLsbD 63 = true → t.dev.erDrops = 0))
    ∧ (∃ t, exec (.crErtailWrite v) s = .next t ∧ t.dev.erHead = s.dev.erHead
        ∧ (s.dev.erHead = s.dev.erTail → s.dev.erTail < s.dev.erSize → t.dev.erTail = s.dev.erTail)
        ∧ (s.dev.erTail ≤ v.toNat % 2 ^ 32 → v.toNat % 2 ^ 32 ≤ s.dev.erHead → s.dev.erHead < s.dev.erSize →
            t.dev.erTail = v.toNat % 2 ^ 32))
    ∧ ((s.cl cl).x.run = .idle →
        (∃ t, exec (.crXfpLsWrite cl 0x038 v) s = .next t ∧ (t.cl cl).x.xfp = BitVec.ofNat 64 (v.toNat % 32))
        ∧ ∃ t, exec (.crXfpLsWrite cl 0x039 v) s = .next t ∧ (t.cl cl).x.ls = BitVec.ofNat 64 (v.toNat % 2 ^ 58))
    ∧ ((s.cl cl).x.run ≠ .idle →
        (∃ t, exec (.crXfpLsWrite cl 0x038 v) s = .next t ∧ (t.cl cl).x.xfp = (s.cl cl).x.xfp
          ∧ ∃ e ∈ (t.cl cl).x.land, e.due = (s.cl cl).x.vcyc + 1 ∧ e.eff = .xfp (v.toNat % 32))
        ∧ ∃ t, exec (.crXfpLsWrite cl 0x039 v) s = .next t ∧ (t.cl cl).x.ls = (s.cl cl).x.ls
          ∧ ∃ e ∈ (t.cl cl).x.land, e.due = (s.cl cl).x.vcyc + 1 ∧ e.eff = .ls (v.toNat % 2 ^ 58))
    ∧ (∃ t, exec (.crMboxWrite cl v) s = .next t ∧ (t.cl cl).ctl.mbox = v &&& 0xFFFFF00)
    ∧ (∃ t, exec (.crDeviceWrite num v) s = .next t ∧ t.dev.sdtmo = (if num = 0x020 then v.toNat / 2 ^ 16 % 2 ^ 14 else s.dev.sdtmo)
        ∧ t.dev.alm = (if num = 0x042 then v &&& 0xFFFF else s.dev.alm)
        ∧ t.dev.gen = (if num = 0x060 then BitVec.ofNat 64 (v.toNat % 2 ^ 42) else s.dev.gen))
    ∧ (∃ t, exec (.crWrite cl num v) s = .next t ∧ (t.cl cl).a.tval = (if num = 0x003 then v else (s.cl cl).a.tval)
        ∧ (t.cl cl).a.tvec = (if num = 0x004 then v &&& ~~~7#64 else (s.cl cl).a.tvec)
        ∧ (t.cl cl).a.sstat = (if num = 0x000 then v &&& 7 else (s.cl cl).a.sstat))

/-- R382, R374: CSRRD returns the register; CSRWR returns its old value and then writes it. R7, R60, R77, R88, R92, R137, R374-R381: what
a control register reads after a write: the writable fields as written, every other field as before. R374, R378, R390, R442-R444: the rows
that write one control register, and what the error ring's registers do beside: a ring that moves or changes size is empty, and a TAIL
outside the records is ignored. Where the manual leaves a point open it says what the model chose: the fields that the manual does not
name (log 53), and that cr.ls takes every value of its 58 bits, also exponents outside the ranges of R261 (log 90). -/
def Obligations.ControlRegisters : Prop := Clause.ControlRegisterAccess ∧ Clause.ControlRegisterReadBack ∧ Clause.ControlRegisterRows

/-- R57, R58, R387: TLBINV with nothing outstanding drops the translations of its scope on this chip and goes on once no access under one
is on its way; an empty range does nothing. SHOOT over an empty range answers 0, and otherwise begins a shoot-down and waits; it ends,
with the mask of fenced chips, when every chip has answered. A range outside the address space takes its trap. Where the manual leaves a
point open it says what the model chose (logs 15, 67). -/
def Obligations.TranslationInvalidation : Prop :=
  ∀ (f : AF) (s : State), s.ready [f.d, f.sa, f.sb] = true →
    let sc := s.invScope f
    let t := s.dropTranslations sc
    (∀ va, rangeBad sc = some va → ∀ i ∈ [Instr.tlbinv f, .shoot f], exec i s = .next (s.trapHere 3 1 (BitVec.ofNat 64 va)))
    ∧ (rangeBad sc = none → s.devDrained = true →
      (rangeEmpty sc = true → exec (.tlbinv f) s = .next s.advance)
      ∧ (rangeEmpty sc = false → t.quiet sc t.nextMsg = true → exec (.tlbinv f) s = .next t.advance)
      ∧ (rangeEmpty sc = false → t.quiet sc t.nextMsg = false → exec (.tlbinv f) s = .next (t.waitAt .shoot f))
      ∧ (s.a.wait = none → rangeEmpty sc = true →
          ∃ u, exec (.shoot f) s = .next u ∧ u.a.pc = s.a.pc + 8 ∧ ∀ r, u.g r = if r = f.d ∧ f.d ≠ 0 then 0 else s.g r)
      ∧ (s.a.wait = none → rangeEmpty sc = false →
          ∃ u, exec (.shoot f) s = .next u ∧ u.a.pc = s.a.pc ∧ ∃ x ∈ u.shoots, x.owner = .core s.focus ∧ x.scope = sc ∧ x.num = s.nextMsg))
    ∧ (∀ x, rangeBad sc = none → s.a.wait.isSome = true → s.shoots.find? (fun y => y.owner == .core s.focus) = some x → s.shootDone x = true →
        exec (.shoot f) s = .next ((s.endShoot x.id).result f.d x.fencedMask))
    ∧ (rangeBad sc = none → s.devDrained = false → exec (.tlbinv f) s = .next (s.waitAt .shoot f))

/-- Part 1 of 2 of `Obligations.RemapAndErrorClaim`. -/
def Clause.RemapStatus : Prop :=
  ∀ (f : AF) (s : State), s.ready [f.d, f.sa] = true →
    let v := (s.g f.sa).toNat
    (191 < v % 256 ∨ v / 2 ^ 18 % 4 = 3 ∨ v / 2 ^ 20 ≠ 0 → exec (.remapTowerBank f) s = .next (s.result f.d 3))
    ∧ (12 < v / 16 % 16 ∨ v / 2 ^ 20 ≠ 0 → exec (.remapClusterTable f) s = .next (s.result f.d 3))
    ∧ (s.remapTowerStatus v = 0 → NMap.get false (s.cl (v % 256)).ctl.refreshing (v / 2 ^ 14 % 16) = false →
        ∃ t, exec (.remapTowerBank f) s = .next t ∧ t.a.pc = s.a.pc + 8 ∧ (∀ r, t.g r = if r = f.d ∧ f.d ≠ 0 then 0 else s.g r) ∧ t.rel.held ≠ []
          ∧ (t.cl (v % 256)).ctl.twSelOf (v / 256 % 64) (v / 2 ^ 14 % 16) = v / 2 ^ 18 % 4)
    ∧ (s.remapTableStatus v = 1 → exec (.remapClusterTable f) s = .next (s.result f.d 1))
    ∧ (s.remapTableStatus v = 0 →
        ∃ t, exec (.remapClusterTable f) s = .next t ∧ t.skip (v % 16) = v / 16 % 16
          ∧ ∀ l < 12, t.inService (16 * l + v % 16) = v.testBit (8 + l))

/-- Part 2 of 2 of `Obligations.RemapAndErrorClaim`. -/
def Clause.ErrorRecordClaim : Prop :=
  ∀ (f : AF) (s : State), s.ready [f.d, f.sa] = true → s.errpopErr (s.g f.sa).toNat = none →
    let ovf := if s.dev.erOvf then 2 else 0
    (s.dev.erHead = s.dev.erTail → exec (.errpop f) s = .next (s.result f.d (BitVec.ofNat 64 ovf)))
    ∧ (s.dev.erHead ≠ s.dev.erTail → poisoned 64 s.hbmPoison (s.dev.erAddr + 64 * s.dev.erTail) 64 = false →
        s.channelFailed (s.dev.erAddr + 64 * s.dev.erTail) = false →
        (let w := s.wordAt (s.g f.sa).toNat
         s.spBlocked s.focus (some s.a.seq) true w.1 w.2 64 = false) →
        ∃ t, exec (.errpop f) s = .next t ∧ t.dev.erTail = (s.dev.erTail + 1) % s.dev.erSize ∧ t.dev.erOvf = s.dev.erOvf
          ∧ (let w := s.wordAt (s.g f.sa).toNat
            (t.cl w.1).sp.read w.2 64 = s.hbm.read (s.dev.erAddr + 64 * s.dev.erTail) 64)
          ∧ (f.d ≠ 0 → t.g f.d = BitVec.ofNat 64 (1 + ovf + Nat.min (s.dev.erCount - 1) 65535 * 65536)))

/-- R388: REMAP answers a status: 3 for a value out of range; otherwise, with the clusters it moves drained and the new bank or row sound,
it rewrites SEL, or SKIP and the column's service bits, reports it and answers 0. R389: ERRPOP of an empty ring answers OVF alone;
otherwise it copies the record at TAIL to the scratchpad, moves TAIL on, and answers VALID, OVF and the records left, once no bank lock or
pause holds its write back. Where the manual leaves a point open it says what the model chose: status 3 goes before 1 and 1 before 2, and
the cluster that issues counts as not drained (log 63). -/
def Obligations.RemapAndErrorClaim : Prop := Clause.RemapStatus ∧ Clause.ErrorRecordClaim

/-! ### Scalar accesses, fences and windows (R140-R153, R284-R297) -/

/-- What the scalar instructions are (R291, R293): an atomic, a store or a load, acquire or release. -/
def scalarRows (f : AF) : List (Instr × ScalarKind) :=
  let at_ (op : AmoOp) : ScalarKind := { op := some op, aq := f.imm.getLsbD 29, rl := f.imm.getLsbD 30 }
  [(.ld f, {}), (.st f, { store := true }), (.ldaq f, { aq := true }), (.strl f, { store := true, rl := true }),
   (.cas f, at_ .cas), (.amoSwap f, at_ .swap), (.amoAdd f, at_ .add), (.amoAnd f, at_ .and), (.amoOr f, at_ .or),
   (.amoXor f, at_ .xor), (.amoMin f, at_ .min), (.amoMax f, at_ .max), (.amoMinn f, at_ .minn), (.amoMaxn f, at_ .maxn)]

/-- The access `x` that a scalar instruction of kind `k` in state `s` is accepted as, at effective address `ea`. -/
def isAccess (f : AF) (k : ScalarKind) (s : State) (ea : Nat) (x : Acc) : Prop :=
  x.seq = s.a.seq ∧ x.va = ea ∧ x.size = 2 ^ (f.imm.toNat / 2 ^ 25 % 4) ∧ x.op = k.op ∧ x.store = k.store ∧ x.aq = k.aq ∧ x.rl = k.rl
    ∧ x.dst = f.d.toNat ∧ x.cls = f.ocl.toNat ∧ x.sx = f.imm.getLsbD 27 ∧ x.val = none ∧ x.word = none
    ∧ x.data = (s.g f.sb).toNat % 256 ^ x.size ∧ x.exp = (s.g f.d).toNat % 256 ^ x.size

/-- The core took access `x` and went on; no register and no byte of memory has changed. -/
def tookAccess (k : ScalarKind) (s t : State) (x : Acc) : Prop :=
  t.a.pc = s.a.pc + 8 ∧ t.a.seq = s.a.seq + 1 ∧ (∀ r, t.g r = s.g r) ∧ SameBytes s t ∧ t.a.cmds = s.a.cmds
    ∧ (if k.store = true ∨ k.op.isSome = true then t.a.stores = s.a.stores ++ [x] ∧ t.a.loads = s.a.loads
       else t.a.loads = s.a.loads ++ [x] ∧ t.a.stores = s.a.stores)

/-- Part 1 of 2 of `Obligations.ScalarAcceptanceAndFaults`. -/
def Clause.ScalarAcceptance : Prop :=
  ∀ (f : AF) (s : State) (i : Instr) (k : ScalarKind), (i, k) ∈ scalarRows f →
    s.ready [f.sa, f.sb, f.d] = true → s.scalarErr f = none → s.scalarFull k = false →
    let ea := (s.g f.sa + (f.imm.extractLsb' 0 23).signExtend 64).toNat
    (f.imm.getLsbD 28 = true →
      ∃ t x, exec i s = .next t ∧ isAccess f k s ea x ∧ x.place = .sp ∧ x.pa = s.focus * 2 ^ 22 + ea ∧ tookAccess k s t x)
    ∧ (f.imm.getLsbD 28 = false → s.firmReady = true → ∀ p pa u, s.resolve s.focus (s.runCid s.focus) ea .acore k.perms = (.at_ p pa, u) →
        (p = .host → hostOp k.op = true) →
        ∃ t x, exec i s = .next t ∧ isAccess f k s ea x ∧ x.place = p ∧ x.pa = pa ∧ tookAccess k s t x)

/-- Part 2 of 2 of `Obligations.ScalarAcceptanceAndFaults`. -/
def Clause.ScalarAccessFaults : Prop :=
  ∀ (f : AF) (s : State) (i : Instr) (k : ScalarKind), (i, k) ∈ scalarRows f → s.ready [f.sa, f.sb, f.d] = true →
    let ea := (s.g f.sa + (f.imm.extractLsb' 0 23).signExtend 64).toNat
    let n := 2 ^ (f.imm.toNat / 2 ^ 25 % 4)
    (f.imm.getLsbD 28 = true →
      (0x300000 < ea + n → exec i s = .next (s.trapHere 3 2 (BitVec.ofNat 64 ea)))
      ∧ (ea + n ≤ 0x300000 → ea % n ≠ 0 → exec i s = .next (s.trapHere 4 0 (BitVec.ofNat 64 ea)))
      ∧ (ea + n ≤ 0x300000 → ea % n = 0 → s.owns s.focus s.focus ea n = false → exec i s = .next (s.trapHere 3 6 (BitVec.ofNat 64 ea))))
    ∧ (f.imm.getLsbD 28 = false →
      (2 ^ 52 < ea + n → exec i s = .next (s.trapHere 3 1 (BitVec.ofNat 64 ea)))
      ∧ (ea + n ≤ 2 ^ 52 → ea % n ≠ 0 → exec i s = .next (s.trapHere 4 0 (BitVec.ofNat 64 ea))))

/-- R284-R286, R291, R293: a scalar instruction whose checks pass and that finds room is accepted: its access becomes outstanding, in the
scratchpad at its address or, once translated, where its leaf says, and the core goes on; firmware's global accesses only when every
earlier result is in. R284, R291: a scratchpad access beyond the scratchpad, one that is not aligned, and one of a buffer that the cluster
does not hold each take their trap, in that order. Where the manual leaves a point open it says what the model chose (logs 5, 14, 45, 82).
-/
def Obligations.ScalarAcceptanceAndFaults : Prop := Clause.ScalarAcceptance ∧ Clause.ScalarAccessFaults

/-- Page `p` is neither in its flip, nor offline, nor sealed by a transaction. -/
def okPage (s : State) (p : Nat) : Prop := s.pageSt p ≠ .flipping ∧ s.pageSt p ≠ .offline ∧ s.sealed p = false

/-- Page `p` stores its writes in place: no transaction stages it or has redirected it, and its owner, if any, holds no live snapshot. -/
def plainPage (s : State) (p : Nat) : Prop :=
  okPage s p ∧ tagMode (s.tag p) = 0 ∧ (tagOwner (s.tag p) = 0 ∨ ∀ i < 4, ((s.ctx (tagOwner (s.tag p))).snap i).st.isLive = false)

/-- Part 1 of 3 of `Obligations.LoadsReturnStoresPerform`. -/
def Clause.LoadReturn : Prop :=
  ∀ (s : State) (cl seq : Nat) (evict : Bool) (l : Acc),
    ((s.cl cl).a.accs.find? fun l => l.seq == seq && (!l.store || l.op.isSome)) = some l → l.dst < 64 → l.redo = false →
    (∀ m ∈ (s.cl cl).a.stores, m.seq = seq → m.orphan = false) →
    let ret (v : Nat) (t : State) : Prop :=
      (l.dst ≠ 0 → (t.cl cl).a.reg (BitVec.ofNat 6 l.dst) = if l.sx then BitVec.ofInt 64 (sext (8 * l.size) v) else BitVec.ofNat 64 v)
        ∧ (∀ r : BitVec 6, r.toNat ≠ l.dst → (t.cl cl).a.reg r = (s.cl cl).a.reg r)
        ∧ (∀ m ∈ (t.cl cl).a.accs, m.seq ≠ seq) ∧ SameBytes s t ∧ ∀ n, n ≠ cl → t.cl n = s.cl n
    (∀ v, l.val = some v → ∃ t, exec (.loadValueReturn cl seq evict) s = .next t ∧ ret v t)
    ∧ (l.val = none → l.op = none → l.place = .sp → (s.runA cl).heldBack (s.openCmds cl l.scope (s.runCmds cl)) cl l (!l.aq) = false →
        s.spBlocked cl (some l.seq) false (l.pa / 2 ^ 22) (l.pa % 2 ^ 22) l.size = false → (l.aq = true ∨ (s.runA cl).forwarder l = none) →
        s.spPoisoned (l.pa / 2 ^ 22) (l.pa % 2 ^ 22) l.size = false →
        ∃ t, exec (.loadValueReturn cl seq evict) s = .next t
          ∧ ret (ofBytes ((s.cl (l.pa / 2 ^ 22)).sp.read (l.pa % 2 ^ 22) l.size)) t)
    ∧ (l.val = none → l.op = none → l.place = .hbm → (s.runA cl).heldBack (s.openCmds cl l.scope (s.runCmds cl)) cl l (!l.aq) = false →
        (l.aq = true ∨ (s.runA cl).forwarder l = none) → okPage s (l.pa / 65536) → l.pa % 64 + l.size ≤ 64 →
        let line := l.pa / 64 * 64
        let hits (c : CLine) : Prop := l.aq = false ∧ evict = false ∧ (s.cl cl).a.l1.find? (fun c => c.addr == line && c.va == l.va / 64 * 64) = some c
        let home := s.homeOf (l.pa / 65536) + l.pa % 65536
        (∀ c, hits c → ∃ t, exec (.loadValueReturn cl seq evict) s = .next t ∧ ret (ofBytes ((c.data.drop (l.pa % 64)).take l.size)) t)
        ∧ ((∀ c, ¬ hits c) → s.channelFailed (home / 64 * 64) = false → poisoned 64 s.hbmPoison (home / 64 * 64) 64 = false →
            ∃ t, exec (.loadValueReturn cl seq evict) s = .next t ∧ ret (ofBytes (s.hbm.read home l.size)) t))

/-- Part 2 of 3 of `Obligations.LoadsReturnStoresPerform`. -/
def Clause.StorePerform : Prop :=
  ∀ (s : State) (cl seq : Nat) (l : Acc),
    ((s.cl cl).a.stores.find? fun l => l.seq == seq && l.pending) = some l → l.place = .sp → l.late = none → l.redo = false →
    (∀ m ∈ (s.cl cl).a.stores, m.seq = seq → m.orphan = false) → s.fetchSent (.acc cl seq) = false → s.storeHeld cl l = false →
    let c := l.pa / 2 ^ 22
    let a := l.pa % 2 ^ 22
    s.spBlocked cl (some l.seq) true c a l.size = false → l.vig = true → s.spPoisoned c a l.size = false →
    let old := ofBytes ((s.cl c).sp.read a l.size)
    let wrote (n v : Nat) (t : State) : Prop :=
      (t.cl c).sp.read a n = toBytes n v ∧ (∀ b, b < a ∨ a + n ≤ b → (t.cl c).sp.byte b = (s.cl c).sp.byte b)
        ∧ (∀ m, m ≠ c → (t.cl m).sp = (s.cl m).sp) ∧ (∀ b, t.hbm.byte b = s.hbm.byte b)
    (l.word = none → l.op = none →
      ∃ t, exec (.scalarStorePerform cl seq true .agree) s = .next t ∧ wrote l.size l.data t ∧ ∀ m ∈ (t.cl cl).a.stores, m.seq ≠ seq)
    ∧ (∀ op, l.word = none → l.op = some op →
        ∃ t, exec (.scalarStorePerform cl seq true .agree) s = .next t
          ∧ (match amoNew op l.size old l.data l.exp with
             | some v => wrote l.size v t
             | none => SameBytes s t)
          ∧ ∃ m ∈ (t.cl cl).a.stores, m.seq = seq ∧ m.val = some old)
    ∧ (∀ target err, l.word = some (false, target, err) → l.size = 8 →
        ∃ t, exec (.scalarStorePerform cl seq true .agree) s = .next t ∧ wrote 8 (wordSet old target) t)
    ∧ (∀ n err, l.word = some (true, n, err) → l.size = 8 →
        ∃ t, exec (.scalarStorePerform cl seq true .agree) s = .next t ∧ wrote 8 (arrive old n err) t)
    ∧ (∀ cmp, l.left = false → exec (.scalarStorePerform cl seq false cmp) s = .next (s.divergence cl .access l.pc.toNat))

/-- Part 3 of 3 of `Obligations.LoadsReturnStoresPerform`. -/
def Clause.HbmStorePerform : Prop :=
  ∀ (s : State) (cl seq : Nat) (l : Acc),
    ((s.cl cl).a.stores.find? fun l => l.seq == seq && l.pending) = some l → l.place = .hbm → l.late = none → l.redo = false →
    (∀ m ∈ (s.cl cl).a.stores, m.seq = seq → m.orphan = false) → s.fetchSent (.acc cl seq) = false → s.storeHeld cl l = false → l.vig = true →
    plainPage s (l.pa / 65536) → l.pa % 64 + l.size ≤ 64 → s.channelFailed l.pa = false → poisoned 64 s.hbmPoison l.pa l.size = false →
    0 < l.size → (∀ c ∈ (s.cl cl).a.l1, c.data.length = 64) →
    let old := ofBytes (s.hbm.read l.pa l.size)
    let wrote (v : Nat) (t : State) : Prop :=
      t.hbm.read l.pa l.size = toBytes l.size v ∧ (∀ b, b < l.pa ∨ l.pa + l.size ≤ b → t.hbm.byte b = s.hbm.byte b)
        ∧ (∀ n b, (t.cl n).sp.byte b = (s.cl n).sp.byte b ∧ (t.cl n).tw.byte b = (s.cl n).tw.byte b)
    (l.op = none →
      ∃ t, exec (.scalarStorePerform cl seq true .agree) s = .next t ∧ wrote l.data t ∧ (∀ m ∈ (t.cl cl).a.stores, m.seq ≠ seq)
        ∧ ∀ c ∈ (t.cl cl).a.l1, c.addr = l.pa / 64 * 64 → (c.data.drop (l.pa % 64)).take l.size = toBytes l.size l.data)
    ∧ ∀ op, l.op = some op →
        ∃ t, exec (.scalarStorePerform cl seq true .agree) s = .next t
          ∧ (match amoNew op l.size old l.data l.exp with
             | some v => wrote v t
             | none => SameBytes s t)
          ∧ (∃ m ∈ (t.cl cl).a.stores, m.seq = seq ∧ m.val = some old)
          ∧ ∀ c ∈ (t.cl cl).a.l1, c.addr ≠ l.pa / 64 * 64

/-- R140, R141, R147, R289, R291: a load of the scratchpad or of local HBM that nothing holds back returns the bytes at its visibility
point, or in HBM those of an L1 line that it hits and that does not leave before, extended as it says, and is outstanding no more; a value
fixed before returns as it is. R160, R286, R293, R307: a store, an atomic or a write of a completion word in a scratchpad, matched by the
Vigil core and held back by nothing, performs on exactly its bytes; an atomic fixes the old value; the access leaves the queue unless its
value has still to return. R140, R147, R293: the same in local HBM, in a page that no transaction stages and no live snapshot covers; a
store updates the L1 line, and an atomic invalidates it. Where the manual leaves a point open it says what the model chose (logs 10, 38,
103). -/
def Obligations.LoadsReturnStoresPerform : Prop := Clause.LoadReturn ∧ Clause.StorePerform ∧ Clause.HbmStorePerform

/-- The instruction caches of cluster `n` have lost exactly the lines of context `cid` that bytes [va, va + len) meet. -/
def dropsFrom (s t : State) (n cid va len : Nat) : Prop :=
  let meets (l : CLine) : Prop := l.cid = cid ∧ l.addr < va + len ∧ va < l.addr + 64
  (∀ l, l ∈ (t.cl n).a.icache ↔ l ∈ (s.cl n).a.icache ∧ ¬ meets l) ∧ ∀ l, l ∈ (t.cl n).x.icache ↔ l ∈ (s.cl n).x.icache ∧ ¬ meets l

/-- The clusters of a set have lost such lines, and the fetches of them under way; no other cluster's caches differ. -/
def dropsLines (s t : State) (within : Nat → Prop) (cid va len : Nat) : Prop :=
  (∀ n < 192, (within n → dropsFrom s t n cid va len)
    ∧ (¬ within n → (t.cl n).a.icache = (s.cl n).a.icache ∧ (t.cl n).x.icache = (s.cl n).x.icache))
  ∧ ∀ r ∈ t.reqs, ∀ c x a, r.owner = .fetch c cid x a → within c → ¬ (a < va + len ∧ va < a + 64)

/-- Part 1 of 2 of `Obligations.FencesWindowsAndCaches`. -/
def Clause.FencesAndWindows : Prop :=
  ∀ (f : AF) (s : State),
    let m := f.imm.toNat
    let sc := scopeOf (m / 2 ^ 16 % 4)
    let dr := (s.runA s.focus).drained (s.openCmds s.focus sc (s.runCmds s.focus)) s.focus s.a.seq (m % 2 ^ 16) sc
    let n := m % 8
    let cid := s.runCid s.focus
    let h := m / 2 ^ 16 % 2 ^ 16
    let waits (i : Instr) : Prop := ∃ t, exec i s = .next t ∧ t.a.pc = s.a.pc ∧ t.a.wait.isSome = true ∧ SameBytes s t
    let done (i : Instr) (frame : State → Prop) : Prop :=
      ∃ t, exec i s = .next t ∧ t.a.pc = s.a.pc + 8 ∧ frame t ∧ (∀ r, t.g r = s.g r) ∧ t.a.loads = s.a.loads ∧ t.a.stores = s.a.stores
        ∧ t.a.cmds = s.a.cmds ∧ SameBytes s t
    let wins (t : State) (i : Nat) : Option Window := NMap.get none t.a.wins i
    let window (t : State) (w : Window) : Prop := ∀ i, wins t i = if i = n then some w else wins s i
    let leaves (l : CLine) : Prop := 2 ≤ m / 2 ^ 8 % 4 ∧ ∃ i w, (i, some w) ∈ s.a.wins ∧ m.testBit i = true ∧ i < 8 ∧ w.sp = false
      ∧ l.va < w.base + w.len ∧ w.base < l.va + 64
    (dr = true → done (.fence f) fun t => t.a.l1 = if sc = .dv ∨ sc = .sy then [] else s.a.l1)
    ∧ (dr = false → waits (.fence f))
    ∧ (s.winsClear (m % 256) = true → done (.fencew f) fun t => ∀ l, l ∈ t.a.l1 ↔ l ∈ s.a.l1 ∧ ¬ leaves l)
    ∧ (s.winsClear (m % 256) = true → done (.wclr f) fun t => ∀ i < 8, wins t i = if m.testBit i then none else wins s i)
    ∧ (s.winsClear (m % 256) = false → waits (.fencew f) ∧ waits (.wclr f))
    ∧ (s.ready [f.sa, f.sb] = true → s.locScope s.focus (s.g f.sa).toNat = none → (s.g f.sb).toNat ≠ 0 →
        let len := (s.g f.sb).toNat
        let sets (w : Window) : Prop := (s.winCount s.focus n = 0 → done (.wset f) fun t => window t w) ∧ (s.winCount s.focus n ≠ 0 → waits (.wset f))
        (∀ c a, locParse (s.g f.sa).toNat = some (.sp c a) → a + len ≤ 0x300000 →
          sets { sp := true, cl := if c = 255 then s.focus else c, base := a, len := len })
        ∧ ∀ a, locParse (s.g f.sa).toNat = some (.va a) → a + len ≤ 2 ^ 52 → sets { sp := false, cl := 0, base := a, len := len })
    ∧ (s.handleCheck cid h = none → s.entryBad (s.htab cid + 64 * h) = false →
        (s.winCount s.focus n = 0 → done (.wsetHandle f) fun t => window t (s.handleWindow cid h))
        ∧ (s.winCount s.focus n ≠ 0 → waits (.wsetHandle f)))

/-- Part 2 of 2 of `Obligations.FencesWindowsAndCaches`. -/
def Clause.InstructionCaches : Prop :=
  (∀ (f : AF) (s : State), s.ready [f.sa, f.sb] = true →
    let va := (s.g f.sa).toNat
    let len := (s.g f.sb).toNat
    let sc := scopeOf (f.imm.toNat % 4)
    let within (n : Nat) : Prop :=
      (sc = .cl → n = s.focus) ∧ (sc = .qd → n / 32 = s.focus / 32 ∧ n % 16 / 2 = s.focus % 16 / 2)
    va < 2 ^ 52 → va + len ≤ 2 ^ 52 → 0 < len →
    ((sc = .cl ∨ sc = .qd ∨ sc = .dv ∨ s.peers = []) →
      ∃ t, exec (.icinv f) s = .next t ∧ t.a.pc = s.a.pc + 8 ∧ (∀ r, t.g r = s.g r) ∧ dropsLines s t within (s.runCid s.focus) va len)
    ∧ (sc = .sy → s.peers ≠ [] → s.a.wait = none →
      ∃ t, exec (.icinv f) s = .next t ∧ t.a.pc = s.a.pc ∧ t.a.wait.isSome = true ∧ (∀ r, t.g r = s.g r)
        ∧ dropsLines s t within (s.runCid s.focus) va len ∧ ∃ i ∈ t.icinvs, i.cl = some s.focus)
    ∧ (sc = .sy → s.peers ≠ [] → ∀ i, s.a.wait.isSome = true → s.icinvs.find? (fun i => i.cl == some s.focus) = some i → s.icinvDone i = true →
      ∃ t, exec (.icinv f) s = .next t ∧ t.a.pc = s.a.pc + 8 ∧ ∀ r, t.g r = s.g r))
  ∧ (∀ (f : AF) (s : State), ∃ t, exec (.icsync f) s = .next t ∧ t.a.pc = s.a.pc + 8 ∧ t.a.icache = [] ∧ (∀ r, t.g r = s.g r) ∧ SameBytes s t
      ∧ ∀ r ∈ t.reqs, r.owner.fetchOf s.focus false = false)
  ∧ (∀ (s : State) (src id cid va len : Nat), s.fencedChip src = false →
      ∃ t, exec (.icinvMsg src id cid va len) s = .next t ∧ (∀ n < 192, dropsFrom s t n cid va len)
        ∧ (src = s.dev.chip ∨ s.upPorts src ≠ [] → posted t src (.icinvAck id s.dev.chip)))
  ∧ ∀ (s : State) (id chip : Nat) (i : Icinv), chip < 64 → id % 64 = s.dev.chip → i ∈ s.icinvs → i.id = id →
      ∃ t, exec (.icinvAckMsg id chip) s = .next t ∧ ∃ j ∈ t.icinvs, j.id = id ∧ j.got.getLsbD chip = true

/-- R147-R150, R294-R296: a fence or a window instruction goes on once the accesses it names are over, and waits at its pc until then; at
device or system scope FENCE empties the L1 and FENCEW drops the lines of its windows. R170, R297: ICINV drops the lines that its range
meets, and those being fetched, from the instruction caches of both cores of every cluster in its scope, and from no other; it goes on, or
at system scope with other chips waits until all have acknowledged; on another chip the message does so in every cluster and is
acknowledged, and each acknowledgement is counted; ICSYNC discards the core's fetched lines and those still being fetched. Where the
manual leaves a point open it says what the model chose (log 43). -/
def Obligations.FencesWindowsAndCaches : Prop := Clause.FencesAndWindows ∧ Clause.InstructionCaches

/-! ### Engine commands (R283-R288, R298-R305, R311) -/

/-- What an engine instruction asks for in state `s`: the registers it reads, its checks, the kind of its command, the register of its
completion word, its source, its destination and its bytes. -/
def engineRows (f : AF) (s : State) : List (Instr × List (BitVec 6) × Option Flt × CmdKind × BitVec 6 × Ep × Ep × Nat) :=
  let m := f.imm.toNat
  let n := m % 2 ^ 21
  let at_ (r : BitVec 6) : Ep := locEp s.focus (s.g r).toNat
  let t := s.template (s.runCid s.focus) (m % 1024)
  let three : List (BitVec 6) := [f.d, f.sa, f.sb]
  let near (i : Instr) (k : CmdKind) : Instr × List (BitVec 6) × Option Flt × CmdKind × BitVec 6 × Ep × Ep × Nat :=
    (i, three, s.nearErr f k, k, f.d, at_ f.sb, at_ f.sa, m % 65536 * (nearSizes k f).1)
  [(.xcopy f, three, s.copyErr f none (Ext.of (at_ f.sa) n) (Ext.of (at_ f.d) n), .xcopy, f.sb, at_ f.sa, at_ f.d, n),
   (.xcopyTpl f, three, s.copyErr f (some t) (tplBox t tplSrc (at_ f.sa)) (tplBox t tplDst (at_ f.d)), .xcopy, f.sb, at_ f.sa, at_ f.d,
      tplCount t * tplSize t),
   (.tfill f, three, s.tfillErr f, .tfill, f.sb, at_ f.sa, at_ f.d, towerTotal (at_ f.d) n),
   (.tdrain f, three, s.tdrainErr f, .tdrain, f.sb, at_ f.sa, at_ f.d, towerTotal (at_ f.sa) n),
   (.gathert f, f.d :: f.sa :: f.sb :: [f.sb + 1], s.gatherErr f, .gather, f.sb,
      .va (recBase (s.record (s.runCid s.focus) (m % 65536))), at_ f.d, (s.g (f.sb + 1)).toNat),
   near (.nmred f) .nmred, near (.nmcas f) .nmcas, near (.nmsax f) .nmsax]

/-- The core has taken command `k`: it has joined the others, of which at most the locks have changed. -/
def tookCmd (s t : State) (k : Cmd) : Prop :=
  ∃ js, t.a.cmds = js ++ [k] ∧ js.map (fun j => { j with lock := 0 }) = s.a.cmds.map (fun j => { j with lock := 0 })

/-- The core waits at its pc: nothing it has accepted and no byte of memory changes. -/
def waitsHere (s : State) (o : Out) : Prop :=
  ∃ t, o = .next t ∧ t.a.pc = s.a.pc ∧ t.a.wait.isSome = true ∧ t.a.cmds = s.a.cmds ∧ t.a.loads = s.a.loads ∧ t.a.stores = s.a.stores
    ∧ (∀ r, t.g r = s.g r) ∧ SameBytes s t

/-- The table entry that an engine instruction uses can be read. -/
def entriesRead (f : AF) (s : State) (i : Instr) : Prop :=
  (i = .xcopyTpl f → s.entryBad (s.ttab (s.runCid s.focus) + 64 * (f.imm.toNat % 1024)) = false)
    ∧ (i = .gathert f → s.entryBad (s.htab (s.runCid s.focus) + 64 * (f.imm.toNat % 65536)) = false)

/-- Part 1 of 2 of `Obligations.EngineCommands`. -/
def Clause.EngineAcceptance : Prop :=
  ∀ (f : AF) (s : State) (i : Instr) (regs : List (BitVec 6)) (kind : CmdKind) (wr : BitVec 6) (src dst : Ep) (n : Nat),
    (i, regs, none, kind, wr, src, dst, n) ∈ engineRows f s → s.ready regs = true → entriesRead f s i →
    (kind = .xcopy → f.imm.getLsbD 24 = true → s.a.stamp < s.gtc) →
    ((src.global = true ∨ dst.global = true) → s.firmReady = false → exec i s = .next s)
    ∧ (((src.global = true ∨ dst.global = true) → s.firmReady = true) →
     (s.a.cmds.length < 32 →
      ∃ t k, exec i s = .next t ∧ tookCmd s t k ∧ k.kind = kind ∧ k.src = src ∧ k.dst = dst ∧ k.count = n
        ∧ k.word = wordOf s.focus (s.g wr).toNat ∧ k.cls = f.ocl.toNat ∧ k.pcl = f.pcl.toNat ∧ k.seq = s.a.seq ∧ t.a.seq = s.a.seq + 1
        ∧ k.scope = scopeOf (f.imm.toNat / 2 ^ 22 % 4) ∧ k.started = false ∧ k.performed = 0 ∧ k.counted = 0 ∧ k.got = [] ∧ k.done = []
        ∧ t.a.pc = s.a.pc + 8 ∧ (∀ r, t.g r = s.g r) ∧ SameBytes s t ∧ ∀ c, c ≠ s.focus → t.cl c = s.cl c)
     ∧ (32 ≤ s.a.cmds.length → waitsHere s (exec i s)))

/-- Part 2 of 2 of `Obligations.EngineCommands`. -/
def Clause.EngineChecks : Prop :=
  ∀ (f : AF) (s : State),
    (∀ (i : Instr) (regs : List (BitVec 6)) (e : Flt) (kind : CmdKind) (wr : BitVec 6) (src dst : Ep) (n : Nat),
      (i, regs, some e, kind, wr, src, dst, n) ∈ engineRows f s → s.ready regs = true → entriesRead f s i →
        exec i s = .next (s.trapHere e.code e.detail (BitVec.ofNat 64 e.tval)))
    ∧ (s.ready [f.d, f.sa, f.sb] = true →
      (2 ^ 63 ≤ (s.g f.d).toNat → exec (.xcopy f) s = .next (s.trapHere 3 4 (s.g f.d)) ∧ exec (.tdrain f) s = .next (s.trapHere 3 4 (s.g f.d)))
      ∧ ((s.g f.d).toNat / 2 ^ 62 ≠ 2 → exec (.tfill f) s = .next (s.trapHere 3 4 (s.g f.d)))
      ∧ (2 ^ 62 ≤ (s.g f.sa).toNat → ∀ i ∈ [Instr.nmred f, .nmcas f, .nmsax f], exec i s = .next (s.trapHere 3 4 (s.g f.sa)))
      ∧ (s.ready [f.sb + 1] = true → f.imm.toNat % 65536 = 0 → exec (.gathert f) s = .next (s.trapHere 3 7 0))
      ∧ (f.imm.getLsbD 24 = true → s.gtc ≤ s.a.stamp →
          s.copyErr f none (Ext.of (locEp s.focus (s.g f.sa).toNat) (f.imm.toNat % 2 ^ 21))
            (Ext.of (locEp s.focus (s.g f.d).toNat) (f.imm.toNat % 2 ^ 21)) = none → exec (.xcopy f) s = .next s)
      ∧ (let a := s.ttab (s.runCid s.focus) + 64 * (f.imm.toNat % 1024)
        f.imm.toNat % 1024 < s.tcount (s.runCid s.focus) → s.entryBad a = true →
          exec (.xcopyTpl f) s = .next (s.corePoison s.focus (.hbm (a / 64)) a)))

/-- R284-R286, R301, R303-R305: an engine instruction whose checks pass and that finds room is accepted: its command joins the cluster's
with the operands latched, and the core goes on with no register and no byte changed; without room it waits at its pc, as firmware's does
while an earlier result is outstanding if it accesses global memory. R302: a stamped copy waits until the GTC has risen above the core's
last stamp. R19, R37, R284: the first check that fails takes its trap; so a locator of a space that the entry does not accept is a
malformed locator, and handle 0 an invalid handle. Where the manual leaves a point open it says what the model chose: details of the
checks (logs 14, 42, 82, 111), and that a table entry that cannot be read is poison consumed by the core (log 95). -/
def Obligations.EngineCommands : Prop := Clause.EngineAcceptance ∧ Clause.EngineChecks

/-- Part 1 of 2 of `Obligations.TileTransfersAndMessages`. -/
def Clause.TileTransfers : Prop :=
  ∀ (f : AF) (s : State),
    let q := f.d.toNat
    let lq (t : State) (q : Nat) : List LSlot := NMap.get [] t.x.lq q
    let sq (t : State) (q : Nat) : List Tile := NMap.get [] t.x.sq q
    (s.ready [f.sa] = true → s.tileErr f = none →
      ((lq s q).length < 8 → s.a.cmds.length < 32 →
        ∃ t k, exec (.tldq f) s = .next t ∧ tookCmd s t k ∧ k.kind = .tldq ∧ k.src = s.tileEp f ∧ k.count = 4096
          ∧ lq t q = lq s q ++ [{ cmd := k.id, ready := false, tile := [], poison := false }] ∧ (∀ p, p ≠ q → lq t p = lq s p)
          ∧ t.a.pc = s.a.pc + 8 ∧ (∀ r, t.g r = s.g r) ∧ SameBytes s t)
      ∧ (8 ≤ (lq s q).length → waitsHere s (exec (.tldq f) s))
      ∧ (sq s q = [] → waitsHere s (exec (.sqd f) s))
      ∧ ∀ tile ts, sq s q = tile :: ts → s.a.cmds.length < 32 →
          ∃ t k, exec (.sqd f) s = .next t ∧ tookCmd s t k ∧ k.kind = .sqd ∧ k.aux = q ∧ k.dst = s.tileEp f ∧ k.count = 4096
            ∧ k.buf.read 0 4096 = tileBytes tile ∧ sq t q = ts ∧ (∀ p, p ≠ q → sq t p = sq s p)
            ∧ t.a.pc = s.a.pc + 8 ∧ (∀ r, t.g r = s.g r) ∧ SameBytes s t)
    ∧ (∀ e, s.tileErr f = some e → s.ready [f.sa] = true →
        exec (.tldq f) s = .next (s.trapHere e.code e.detail (BitVec.ofNat 64 e.tval))
        ∧ exec (.sqd f) s = .next (s.trapHere e.code e.detail (BitVec.ofNat 64 e.tval)))
    ∧ (s.ready [f.d] = true →
        exec (.qstat f) s = .next (s.result f.d (BitVec.ofNat 64
          (((List.range 8).map fun q => (lq s q).length * 2 ^ (4 * q) + (if (lq s q).head?.any (·.ready) then 2 ^ (48 + q) else 0)).sum
            + ((List.range 4).map fun q => s.sqOcc s.focus q * 2 ^ (32 + 4 * q)).sum))))

/-- Part 2 of 2 of `Obligations.TileTransfersAndMessages`. -/
def Clause.MessageSend : Prop :=
  ∀ (f : AF) (s : State), s.ready [f.d, f.sa, f.sb] = true →
    (s.msendErr f = none → s.a.cmds.length < 32 →
      let v := s.a.send
      ∃ t k, exec (.msend f) s = .next t ∧ t.a.cmds = s.a.cmds ++ [k] ∧ k.kind = .msend ∧ k.aux = (s.g f.sa).toNat
        ∧ k.src = locEp s.focus (s.g f.sb).toNat ∧ k.count = f.imm.toNat % 64 ∧ t.a.send = { v with refused := false } ∧ t.a.pc = s.a.pc + 8
        ∧ (f.d ≠ 0 → t.g f.d = BitVec.ofNat 64 (v.free % 65536 + v.clu % 256 * 2 ^ 16 + v.chip % 64 * 2 ^ 24
            + (if v.valid then 2 ^ 30 else 0) + (if v.refused then 2 ^ 31 else 0)))
        ∧ (∀ r, r ≠ f.d → t.g r = s.g r) ∧ SameBytes s t)
    ∧ (s.msendErr f = none → 32 ≤ s.a.cmds.length → waitsHere s (exec (.msend f) s))
    ∧ (191 < (s.g f.sa).toNat % 256 → (s.g f.sb).toNat / 2 ^ 30 = 2 ^ 32 → exec (.msend f) s = .next (s.trapHere 3 5 (s.g f.sa)))
    ∧ ((s.g f.sb).toNat / 2 ^ 62 ≠ 1 → exec (.msend f) s = .next (s.trapHere 3 4 (s.g f.sb)))

/-- R82, R86, R298-R300: TLDQ reserves the last slot of its queue and gives its command the tile's place; SQD takes the tile at the head
of its queue into its command, which keeps the slot (R83); each waits for what it finds none of. QSTAT returns the slots taken of each
queue and which heads are ready. R311: MSEND returns the send status and clears REFUSED, and its message becomes an engine command; a
failing check takes its trap. Where the manual leaves a point open it says what the model chose (logs 42, 46). -/
def Obligations.TileTransfersAndMessages : Prop := Clause.TileTransfers ∧ Clause.MessageSend

/-! ### Completion words, semaphores and buffers (R158-R161, R307-R310) -/

/-- Part 1 of 3 of `Obligations.CompletionWordsAndSemaphores`. -/
def Clause.CompletionWordArithmetic : Prop :=
  ∀ (w n err : Nat), w < 2 ^ 64 →
    let gen (v : Nat) := v / 2 ^ 48 % 2 ^ 16
    let er (v : Nat) := v / 2 ^ 42 % 2 ^ 6
    let target (v : Nat) := v / 2 ^ 21 % 2 ^ 21
    let arrived (v : Nat) := v % 2 ^ 21
    (target w ≠ 0 →
      (gen (arrive w n err) * target w + arrived (arrive w n err)) % (2 ^ 16 * target w) = (gen w * target w + arrived w + n) % (2 ^ 16 * target w)
        ∧ arrived (arrive w n err) < target w)
    ∧ (target w = 0 → gen (arrive w n err) = gen w ∧ arrived (arrive w n err) = Nat.min (arrived w + n) (2 ^ 21 - 1))
    ∧ target (arrive w n err) = target w ∧ er (arrive w n err) = (if er w = 0 then err % 64 else er w)
    ∧ ∀ t < 2 ^ 21, target (wordSet w t) = t ∧ arrived (wordSet w t) = 0 ∧ er (wordSet w t) = 0 ∧ gen (wordSet w t) = gen w

/-- Part 2 of 3 of `Obligations.CompletionWordsAndSemaphores`. -/
def Clause.CompletionWordInstructions : Prop :=
  ∀ (f : AF) (s : State),
    let m := f.imm.toNat
    let w := s.wordAt (s.g f.sa).toNat
    let old := ofBytes ((s.cl w.1).sp.read w.2 8)
    let took (i : Instr) (what : Bool × Nat × Nat) : Prop :=
      ∃ t x, exec i s = .next t ∧ t.a.stores = s.a.stores ++ [x] ∧ x.word = some what ∧ x.place = .sp ∧ x.pa = w.1 * 2 ^ 22 + w.2 ∧ x.size = 8
        ∧ x.cls = f.ocl.toNat ∧ x.val = none ∧ t.a.pc = s.a.pc + 8 ∧ (∀ r, t.g r = s.g r) ∧ SameBytes s t
    (s.ready [f.sa] = true → s.wordErr (s.g f.sa).toNat = none →
      ((s.a.stores.filter (·.late.isNone)).length < 16 → took (.bwset f) (false, m % 2 ^ 21, 0) ∧ took (.bwarrive f) (true, m % 2 ^ 21, m / 2 ^ 24 % 64))
      ∧ (16 ≤ (s.a.stores.filter (·.late.isNone)).length → waitsHere s (exec (.bwset f) s) ∧ waitsHere s (exec (.bwarrive f) s)))
    ∧ (s.ready [f.d, f.sa] = true → s.wordErr (s.g f.sa).toNat = none → s.a.acqPending = false → s.a.storePending w.1 w.2 8 = false →
        s.spPoisoned w.1 w.2 8 = false →
        (s.spBlocked s.focus (some s.a.seq) false w.1 w.2 8 = true → waitsHere s (exec (.waitgen f) s))
        ∧ (s.spBlocked s.focus (some s.a.seq) false w.1 w.2 8 = false → (old / 2 ^ 48 + 2 ^ 16 - m % 2 ^ 16) % 2 ^ 16 < 2 ^ 15 →
          ∃ t, exec (.waitgen f) s = .next t ∧ t.a.pc = s.a.pc + 8 ∧ (∀ r, t.g r = if r = f.d ∧ f.d ≠ 0 then BitVec.ofNat 64 old else s.g r)
            ∧ (2 ≤ m / 2 ^ 22 % 4 → t.a.l1 = []) ∧ SameBytes s t)
        ∧ (s.spBlocked s.focus (some s.a.seq) false w.1 w.2 8 = false → 2 ^ 15 ≤ (old / 2 ^ 48 + 2 ^ 16 - m % 2 ^ 16) % 2 ^ 16 → waitsHere s (exec (.waitgen f) s)))
    ∧ (∀ e, s.wordErr (s.g f.sa).toNat = some e → s.ready [f.d, f.sa] = true → ∀ i ∈ [Instr.bwset f, .bwarrive f, .waitgen f],
        exec i s = .next (s.trapHere e.code e.detail (BitVec.ofNat 64 e.tval)))

/-- Part 3 of 3 of `Obligations.CompletionWordsAndSemaphores`. -/
def Clause.Semaphores : Prop :=
  ∀ (f : AF) (s : State),
    let k := f.imm.toNat % 16
    let n := f.imm.toNat / 2 ^ 16 % 2 ^ 16
    let sem (t : State) (j : Nat) : Nat := NMap.get 0 t.a.sems j
    let sets (t : State) (v : Nat) : Prop := ∀ j, sem t j = if j = k then v else sem s j
    ((s.runA s.focus).semvDrained (s.runCmds s.focus) = true → sem s k + n ≤ 65535 →
      ∃ t, exec (.semv f) s = .next t ∧ sets t (sem s k + n) ∧ t.a.pc = s.a.pc + 8 ∧ (∀ r, t.g r = s.g r) ∧ SameBytes s t)
    ∧ (65535 < sem s k + n ∨ (s.runA s.focus).semvDrained (s.runCmds s.focus) = false → waitsHere s (exec (.semv f) s))
    ∧ (s.a.acqPending = false → s.x.freeze ≠ some (.sem k) → n ≤ sem s k →
        ∃ t, exec (.semp f) s = .next t ∧ sets t (sem s k - n) ∧ t.a.pc = s.a.pc + 8 ∧ (∀ r, t.g r = s.g r) ∧ SameBytes s t)
    ∧ (sem s k < n → waitsHere s (exec (.semp f) s))
    ∧ (s.ready [f.d] = true → s.a.acqPending = false →
        ∃ t, exec (.semtry f) s = .next t ∧ sets t (if n ≤ sem s k then sem s k - n else sem s k) ∧ t.a.pc = s.a.pc + 8
          ∧ (∀ r, t.g r = if r = f.d ∧ f.d ≠ 0 then (if n ≤ sem s k then 1 else 0) else s.g r) ∧ SameBytes s t)

/-- R160: an arrival adds to ARRIVED and carries into GEN at TARGET, keeps TARGET, and keeps the first error code; with TARGET 0 ARRIVED
saturates. A BWSET sets TARGET, clears ARRIVED and ERR, and keeps GEN. R160, R307, R308, R161: BWSET and BWARRIVE are accepted as stores
of their word; WAITGEN returns the word once its GEN has reached the generation asked for and no bank lock or pause holds its read, and
waits until then. R309: SEMV adds to its semaphore when what it covers has performed and the sum fits; SEMP takes from it when the count
is there; SEMTRY does so or not, and says which. The others wait until then. -/
def Obligations.CompletionWordsAndSemaphores : Prop := Clause.CompletionWordArithmetic ∧ Clause.CompletionWordInstructions ∧ Clause.Semaphores

/-- R72, R73, R75, R146, R310: BGIVE of a held buffer offers it to an in-service position of the quad, or frees it, once the core's
accesses to it are over, and the stores of the quad that it has read; BTAKE defines a FREE entry or takes an OFFERED one; BQUERY reads the
descriptor; what R72 forbids takes the buffer fault. Where the manual leaves a point open it says what the model chose: the extents of
records that have not begun, for which BGIVE waits (log 16). -/
def Obligations.BufferInstructions : Prop :=
  ∀ (f : AF) (s : State),
    let q := quadOf s.focus
    let p := quadPos s.focus
    let n := f.imm.toNat % 64
    let to_ := f.imm.toNat / 256 % 8
    let base := f.imm.toNat / 256 % 256
    let len := f.imm.toNat / 2 ^ 16 % 256
    let b := s.buf q n
    let home := quadCluster q b.home
    let held := b.st = 1 ∧ b.who = p
    let clear := s.a.rangeDrained (s.a.cmds ++ s.runCmds s.focus) home (b.base * 16384) (b.len * 16384) = true
      ∧ (s.runA s.focus).seenPending s.focus s.a.seq .qd = false
      ∧ (home = s.focus → ∀ r ∈ s.cur.arr.recs, r.meets (s.cur.arr.factorFor r) (b.base * 16384) (b.len * 16384) = false)
    let fault : Out := .next (s.trapHere 5 0 (BitVec.ofNat 64 n))
    let desc (b : Buf) : W64 := if b.st = 0 then 0 else BitVec.ofNat 64 (b.base + b.len * 2 ^ 8 + b.home * 2 ^ 16 + b.who * 2 ^ 18 + b.st * 2 ^ 20)
    let into (o : Out) (v : Buf) (frame : State → Prop) : Prop :=
      ∃ t, o = .next t ∧ t.a.pc = s.a.pc + 8 ∧ (∀ k, NMap.get Buf.free t.bufs k = if k = 64 * q + n then v else NMap.get Buf.free s.bufs k)
        ∧ frame t ∧ SameBytes s t
    let same (t : State) : Prop := ∀ r, t.g r = s.g r
    let gets (v : W64) (t : State) : Prop := ∀ r, t.g r = if r = f.d ∧ f.d ≠ 0 then v else s.g r
    (held → to_ ≠ p → s.inService (quadCluster q to_) = true → clear → into (exec (.bgive f) s) { b with st := 2, who := to_ } same)
    ∧ (¬ held ∨ to_ = p ∨ s.inService (quadCluster q to_) = false → exec (.bgive f) s = fault)
    ∧ (held → clear → into (exec (.bgiveNone f) s) Buf.free same) ∧ (¬ held → exec (.bgiveNone f) s = fault)
    ∧ (held → ¬ clear → waitsHere s (exec (.bgiveNone f) s))
    ∧ (s.ready [f.d] = true →
      (let v : Buf := { st := 1, base := base, len := len, home := p, who := p }
       b.st = 0 → len ≠ 0 → base + len ≤ 192 → (∀ i < 64, (s.buf q i).meets p (base * 16384) (len * 16384) = false) →
         into (exec (.btake f) s) v (gets (desc v)))
      ∧ (b.st = 0 → len = 0 ∨ 192 < base + len → exec (.btake f) s = fault)
      ∧ (b.st = 2 → b.who = p → s.a.acqPending = false → into (exec (.btake f) s) { b with st := 1 } (gets (desc { b with st := 1 })))
      ∧ (held → exec (.btake f) s = .next (s.result f.d (desc b)))
      ∧ (b.st ≠ 0 → b.who ≠ p → waitsHere s (exec (.btake f) s))
      ∧ exec (.bquery f) s = .next (s.result f.d (desc b)))

/-! ### Snapshots and transactions: the A-core's instructions (R312-R314) -/

/-- R119, R120, R136, R312: SNAP answers the lowest refusal code that applies, or arms its slot and answers 0, with the accesses of its
class that have not performed noted where its instant waits for them; SNAPQ reads the status word or the instant. Where the manual leaves
a point open it says what the model chose (logs 61, 101). -/
def Obligations.SnapshotInstructions : Prop :=
  ∀ (f : AF) (s : State),
    let m := f.imm.toNat
    let cid := s.runCid s.focus
    let slot := m % 4
    let t := (s.g f.sa).toNat
    let c := s.ctx cid
    let live := (c.snap slot).st = .armed ∨ (c.snap slot).st = .pending ∨ (c.snap slot).st = .live
    let bad := t ≠ 0 ∧ (t < s.gtc + 1000 ∨ s.gtc + 10 ^ 10 < t)
    let noTarget := c.scbV = false ∨ tgtKind (c.tgt (m / 8 % 4)) = 0
    (s.ready [f.d, f.sa, f.sb] = true → s.snapErr f = none →
      (live → exec (.snap f) s = .next (s.result f.d 0x30))
      ∧ (¬ live → bad → exec (.snap f) s = .next (s.result f.d 0x31))
      ∧ (¬ live → ¬ bad → noTarget → exec (.snap f) s = .next (s.result f.d 0x35))
      ∧ (¬ live → ¬ bad → ¬ noTarget →
          ∃ u, exec (.snap f) s = .next u ∧ u.a.pc = s.a.pc + 8 ∧ (∀ r, u.g r = if r = f.d ∧ f.d ≠ 0 then 0 else s.g r) ∧ SameBytes s u
            ∧ (let n := (u.ctx cid).snap slot
              n.st = .armed ∧ (t ≠ 0 → n.t = t) ∧ n.abnd = m.testBit 2 ∧ n.target = m / 8 % 4
                ∧ n.mask = s.g f.sb ||| BitVec.ofNat 64 (2 ^ s.dev.chip) ∧ n.origin = s.dev.chip ∧ n.cl = s.focus
                ∧ (t = 0 → f.ocl ≠ 0 → s.focus < 192 → ∀ l ∈ s.a.accs, l.late = none → l.pending = true → l.cls = f.ocl.toNat →
                    n.t = 0 ∧ (s.focus, l.seq, false) ∈ n.awaits) ∧ n.word = some (s.focus, m / 32 % 2 ^ 19 * 8) ∧ n.code = 0
                ∧ (t = 0 → f.ocl = 0 → n.t = s.gtc + c.scb / 2 ^ 96 % 1024 * 1000))
            ∧ (s.undecided (c.snap slot) = false → ∀ j, j ≠ slot → (u.ctx cid).snap j = c.snap j)))
    ∧ (s.ready [f.d] = true →
        exec (.snapqT f) s = .next (s.result f.d (BitVec.ofNat 64 (c.snap slot).t))
        ∧ exec (.snapq f) s = .next (s.result f.d (BitVec.ofNat 64
            ((c.snap slot).st.code + (if (c.snap slot).abnd then 8 else 0) + (c.snap slot).code % 64 * 2 ^ 4
              + Nat.min (2 ^ 24 - 1) (c.heldBy slot).length * 2 ^ 16 + Nat.min (2 ^ 24 - 1) (c.snap slot).decpg * 2 ^ 40))))

/-- R129, R130, R132, R135, R136, R313, R314: TXBEGIN answers 0x3E for a slot in use and 0x3C for bad windows, and otherwise opens its
slot and stages its pages; TXCOMMIT seals an open slot and votes; TXABORT aborts an open slot and frees an ended one; TXSTATE reads the
status word. Where the manual leaves a point open it says what the model chose (logs 61, 62). -/
def Obligations.TransactionInstructions : Prop :=
  ∀ (f : AF) (s : State),
    let m := f.imm.toNat
    let cid := s.runCid s.focus
    let slot := m % 4
    let x := (s.ctx cid).tx slot
    let ended := x.st = .committed ∨ x.st = .aborted
    (s.ready [f.d, f.sa, f.sb] = true → s.txbeginErr f = none →
      (x.st ≠ .free → exec (.txbegin f) s = .next (s.result f.d 0x3E))
      ∧ (x.st = .free → s.a.txWindows (m / 4 % 256) = none → exec (.txbegin f) s = .next (s.result f.d 0x3C))
      ∧ ∀ ws p ps t, x.st = .free → s.a.txWindows (m / 4 % 256) = some ws → s.allPages cid ws [] false = (.ok p, ps, false, t) →
          (t.ctx cid).tx slot = Tx.free → (t.g f.sb).getLsbD t.dev.chip = true →
          ∃ u, exec (.txbegin f) s = .next u ∧ (f.d ≠ 0 → u.g f.d = 0) ∧ u.a.pc = t.a.pc + 8 ∧ SameBytes t u
            ∧ (let y := (u.ctx cid).tx slot
              y.st = .open ∧ y.txid = m / 2 ^ 16 % 2 ^ 16 ∧ y.mask = t.g f.sb ∧ y.windows = ws ∧ y.word = wordOf t.focus (s.g f.sa).toNat
                ∧ y.cl = t.focus)
            ∧ ∀ q ∈ ps, tagMode (u.tag q) = 1 ∧ tagTxs (u.tag q) = slot)
    ∧ (s.ready [f.d] = true →
      (x.st ≠ .open → exec (.txcommit f) s = .next (s.result f.d (BitVec.ofNat 64 x.st.code)))
      ∧ (x.st = .open → s.voteDrained x.windows = false → waitsHere s (exec (.txcommit f) s))
      ∧ (x.st = .open → s.voteDrained x.windows = true → coordOf x.mask ≠ s.dev.chip →
          ∃ u, exec (.txcommit f) s = .next u ∧ ((u.ctx cid).tx slot).st = .voted ∧ u.a.pc = s.a.pc + 8
            ∧ (∀ r, u.g r = if r = f.d ∧ f.d ≠ 0 then 9 else s.g r) ∧ SameBytes s u)
      ∧ (x.st = .open → s.voteDrained x.windows = true → coordOf x.mask = s.dev.chip → x.mask.getLsbD s.dev.chip = true →
          s.gtc < x.begun + s.votetmo → x.votes ||| BitVec.ofNat 64 (2 ^ s.dev.chip) = x.mask →
          ∃ u, exec (.txcommit f) s = .next u ∧ ((u.ctx cid).tx slot).st = .decided ∧ ((u.ctx cid).tx slot).tc = s.gtc + s.txlead
            ∧ u.a.pc = s.a.pc + 8 ∧ ∀ r, u.g r = if r = f.d ∧ f.d ≠ 0 then 9 else s.g r)
      ∧ (x.st = .open → ∃ u, exec (.txabort f) s = .next u ∧ ((u.ctx cid).tx slot).st = .aborted ∧ ((u.ctx cid).tx slot).code = 0x38
          ∧ u.a.pc = s.a.pc + 8 ∧ ∀ r, u.g r = if r = f.d ∧ f.d ≠ 0 then 9 else s.g r)
      ∧ (ended → ∃ u, exec (.txabort f) s = .next u ∧ ((u.ctx cid).tx slot).st = .free ∧ u.a.pc = s.a.pc + 8
          ∧ (∀ r, u.g r = if r = f.d ∧ f.d ≠ 0 then BitVec.ofNat 64 (x.st.code + 8) else s.g r) ∧ SameBytes s u)
      ∧ (¬ ended → x.st ≠ .open → exec (.txabort f) s = .next (s.result f.d (BitVec.ofNat 64 x.st.code)))
      ∧ exec (.txstate f) s = .next (s.result f.d (BitVec.ofNat 64
          (x.st.code + (if x.st ≠ .free ∧ coordOf x.mask = s.dev.chip then 8 else 0) + x.code % 64 * 2 ^ 4 + x.txid % 2 ^ 16 * 2 ^ 16
            + Nat.min 65535 x.drops * 2 ^ 32))))

/-! ### Tasks and the device clock (R176, R315-R319) -/

/-- Part 1 of 2 of `Obligations.TaskInstructionsAndIndices`. -/
def Clause.TaskInstructions : Prop :=
  ∀ (f : AF) (s : State),
    (s.a.mode = .t → ∃ t, exec (.texit f) s = .next t ∧ t.a.run = .exited ∧ t.a.pc = s.a.pc ∧ (∀ r, t.g r = s.g r) ∧ SameBytes s t)
    ∧ (s.a.mode = .s → exec (.texit f) s = .next (s.trapHere 1 9 (BitVec.ofNat 64 (0x98 * 2 ^ 56))))
    ∧ (s.a.growReq = none → s.ready [f.d, f.sa] = true →
        ∃ t, exec (.grow f) s = .next t ∧ t.a.growReq = some { dst := f.d.toNat, n := Nat.min (s.g f.sa).toNat (2 ^ 32 - 1), applied := none }
          ∧ t.a.pc = s.a.pc ∧ (∀ r, t.g r = s.g r) ∧ SameBytes s t)
    ∧ (s.ready [f.d] = true → exec (.rdgtc f) s = .next (s.result f.d (BitVec.ofNat 64 s.gtc)))
    ∧ (s.ready [f.sa] = true →
        let now := s.gtc
        let dur := f.imm.toNat % 2 ^ 16 * 10 ^ 6
        let ctl (t : State) : Ctl := t.cur.ctl
        ∃ t, exec (.refdefer f) s = .next t ∧ t.a.pc = s.a.pc + 8 ∧ (∀ r, t.g r = s.g r) ∧ SameBytes s t
          ∧ (∀ b, (ctl t).due0Of b = (ctl s).due0Of b)
          ∧ ∀ b, (ctl t).dueOf b =
              if b < 16 ∧ (s.g f.sa).toNat.testBit b ∧ NMap.get false (ctl s).refreshing b = false ∧ dur ≠ 0 then
                Nat.max ((ctl s).dueOf b) (Nat.min (Nat.max ((ctl s).dueOf b) (now + dur)) ((ctl s).due0Of b + s.dev.maxDef * 10 ^ 8))
              else (ctl s).dueOf b)
    ∧ ∀ (cl v : Nat) (r : GrowReq), (s.cl cl).a.growReq = some r → r.dst < 64 →
        (r.applied = some v →
          ∃ t, exec (.growAnswer cl) s = .next t ∧ (t.cl cl).a.growReq = none ∧ (t.cl cl).a.pc = (s.cl cl).a.pc + 8
            ∧ (r.dst ≠ 0 → (t.cl cl).a.reg (BitVec.ofNat 6 r.dst) = BitVec.ofNat 64 v) ∧ (t.cl cl).a.growCount = (s.cl cl).a.growCount + 1)
        ∧ (r.applied = none → ∃ t w, exec (.growAnswer cl) s = .next t ∧ (t.cl cl).a.growReq = some { r with applied := some w }
            ∧ (t.cl cl).a.pc = (s.cl cl).a.pc
            ∧ ∀ n, s.node? (s.cl cl).ctl.node = some n → n.failing ≠ 0 → w = 2 ^ 64 - 1 ∧ t.node? (s.cl cl).ctl.node = some n)

/-- Part 2 of 2 of `Obligations.TaskInstructionsAndIndices`. -/
def Clause.TaskIndices : Prop :=
  (∀ (f : AF) (s : State), s.ready [f.d] = true →
    let sel := f.imm.toNat % 16
    let returns (v : Nat) : Prop := exec (.tidx f) s = .next (s.result f.d (BitVec.ofNat 64 v))
    (sel = 8 → returns s.focus) ∧ (sel = 9 → returns s.cur.ctl.cid)
    ∧ (sel ≠ 8 → sel ≠ 9 → s.cur.ctl.occ = .free → returns 0)
    ∧ ∀ n, s.cur.ctl.occ ≠ .free → s.node? s.cur.ctl.node = some n →
        let ls := n.loopsOf s.cur.ctl.task
        (sel = 6 → returns s.cur.ctl.task)
        ∧ (sel < 6 → (ls.getD sel (0, 0)).2 = 1 → returns (ls.getD sel (0, 0)).1)
        ∧ (sel < 6 → (ls.getD sel (0, 0)).2 = 2 → returns (indexAt ls s.cur.ctl.task sel))
        ∧ (10 ≤ sel → returns (ls.getD (sel - 10) (0, 0)).1))
  ∧ ∀ (ls : List (Nat × Nat)) (t : Nat), (∀ l ∈ ls, 0 < l.1) → (∃ l ∈ ls, l.2 = 2) →
      let inner (i : Nat) : Nat := ((ls.take i).map fun l => if l.2 = 2 then l.1 else 1).prod
      ((List.range ls.length).map fun i => if (ls.getD i (0, 0)).2 = 2 then indexAt ls t i * inner i else 0).sum = t
        ∧ ∀ i < ls.length, (ls.getD i (0, 0)).2 = 2 → outerLevel ls ≠ some i → indexAt ls t i < (ls.getD i (0, 0)).1

/-- R176, R315, R316, R318, R319, R409: TEXIT ends the stream of a task and is illegal in mode S; GROW asks and waits; its answer goes to
gd, all ones in a node that has failed, and the core goes on; RDGTC reads the GTC; REFDEFER moves each named bank's due time as R93 says.
R174, R317: TIDX returns the cluster, the context, the task, the indices of the levels and their extents; the indices of the levels that
are spatial over clusters, each below its extent but for the outermost, make up the task's number. Where the manual leaves a point open it
says what the model chose (logs 39, 40). -/
def Obligations.TaskInstructionsAndIndices : Prop := Clause.TaskInstructions ∧ Clause.TaskIndices

/-! ### X-core syllables (R184-R195, R214, R320-R346) -/

/-- Every queue operand of a syllable finds a head that is not poisoned. -/
def headsThere (s : State) (f : XF) : Prop :=
  ∀ o ∈ qOpnds f, (s.qHead s.focus o.1).isEmpty = false ∧ (s.qHead s.focus o.1).poisoned = false

/-- The syllable has issued: its results `es`, each with its latency, are in flight, followed at most by the k7 result of R192; no
register, no other core and, unless an operand is the mailbox queue, no byte of memory has changed. -/
def issuedX (f : XF) (s : State) (es : List (Nat × Eff)) (o : Out) : Prop :=
  ∃ t rest, o = .next t
    ∧ t.x.land = s.x.land ++ es.map (fun e => { due := s.x.vcyc + e.1, issued := s.x.vcyc, slot := s.slot, pcl := f.pcl.toNat, eff := e.2, vig := none }) ++ rest
    ∧ (∀ l ∈ rest, l.eff = .k7 true ∧ l.due = s.x.vcyc + 1) ∧ t.x.x = s.x.x ∧ t.x.t = s.x.t ∧ t.x.k = s.x.k ∧ t.x.vcyc = s.x.vcyc ∧ t.x.run = s.x.run
    ∧ t.a = s.a ∧ (∀ n, n ≠ s.focus → t.cl n = s.cl n) ∧ ((∀ q ∈ qOpnds f, q.1 ≠ 14) → SameBytes s t)

/-- R82, R190-R193, R436: a syllable of any row with operands `f` whose not-ready operand finds its queue empty is cancelled, touches no
queue and clears k7, whatever its other operands find; one that is not cancelled, and whose stall-mode operand finds its queue empty,
freezes the counter. Where every operand finds a sound head, the syllable issues, and each queue that it pops loses its head, while one
that it peeks and one that it does not name keep theirs: the eighth dword of a mailbox entry frees the entry. Where one of the heads is
poisoned, none is delivered or popped: the core consumes poison, of the file-die word or of the mailbox's granule, and the cluster's task
is stopped. A shift across clusters that its latches cancel is no other (R341). Which of several poisoned heads is reported, the first, is
the model's choice, and so is the place of a queue's word (log 91). -/
def Obligations.QueueOperands : Prop :=
  ∀ (f : XF) (s : State) (i : Instr),
    i ∈ [Instr.vadd f, .vsub f, .vmul f, .vmulh f, .vmin f, .vmax f, .vand f, .vor f, .vxor f, .vshl f, .vshr f, .vsar f, .vabs f, .vsadd f, .vssub f,
      .vmadd f, .vcmp f, .vsel f, .vpopc f, .vclz f, .vmix f, .fadd f, .fsub f, .fmul f, .ffma f, .fmin f, .fmax f, .fminn f, .fmaxn f, .fabs f, .fneg f,
      .fcmp f, .frcp f, .frsq f, .fexp2 f, .flog2 f, .ftanh f, .cvt f, .cvtsr f, .planes f, .unplane f, .rotrow f, .rotcol f, .bcrow f, .bccol f,
      .redrow f, .redcol f, .scanrow f, .cshift f, .cshiftXc f, .trans16 f, .twld f, .twst f, .twldx f, .qpop f, .qpeek f, .qpush f] →
    let empty (stall : Bool) : Prop := ∃ o ∈ qOpnds f, o.2.2 = stall ∧ (s.qHead s.focus o.1).isEmpty = true
    (empty true → ¬ empty false → (i = .cshiftXc f → s.latchCancels f = false) →
        ∃ t, exec i s = .next t ∧ t.x.freeze = some .queue ∧ t.x.land = s.x.land ∧ SameBytes s t)
    ∧ (empty false ∨ (i = .cshiftXc f ∧ s.latchCancels f = true) →
        ∃ t, exec i s = .next t
          ∧ t.x.land = s.x.land ++ [{ due := s.x.vcyc + 1, issued := s.x.vcyc, slot := s.slot, pcl := 0, eff := .k7 false, vig := none }]
          ∧ t.x.lq = s.x.lq ∧ t.x.dq = s.x.dq ∧ t.x.hq = s.x.hq ∧ t.flights = s.flights ∧ SameBytes s t)
    ∧ (headsThere s f → ((qOpnds f).map Prod.fst).Nodup → (i = .cshiftXc f → s.latchCancels f = false) →
        ∃ t, exec i s = .next t ∧ t.x.freeze = s.x.freeze
          ∧ (let popped (q : Nat) : Bool := (qOpnds f).any fun o => o.1 == q && o.2.1
            (∀ q < 8, NMap.get [] t.x.lq q = if popped q then (NMap.get [] s.x.lq q).tail else NMap.get [] s.x.lq q)
            ∧ t.x.dq = (if popped 12 then s.x.dq.tail else s.x.dq) ∧ t.x.hq = (if popped 13 then s.x.hq.tail else s.x.hq)
            ∧ (t.cur.ctl.mbPos, t.cur.ctl.mbHead) = if !popped 14 then (s.cur.ctl.mbPos, s.cur.ctl.mbHead)
                else if s.cur.ctl.mbPos < 7 then (s.cur.ctl.mbPos + 1, s.cur.ctl.mbHead) else (0, (s.cur.ctl.mbHead + 1) % 2 ^ 32)))
    ∧ ∀ o ps, (qOpnds f).filter (fun o => (s.qHead s.focus o.1).poisoned) = o :: ps →
        (∀ o ∈ qOpnds f, (s.qHead s.focus o.1).isEmpty = false) → (i = .cshiftXc f → s.latchCancels f = false) →
        let at_ := s.cur.ctl.mbSlot s.cur.ctl.mbHead + 8 * s.cur.ctl.mbPos
        let t := if o.1 = 14 then s.corePoison s.focus (.sp s.focus (at_ / 32)) (spLoc s.focus at_) 1
          else s.corePoison s.focus (.file s.focus (2 ^ 20 + o.1)) (2 ^ 20 + o.1) 1
        exec i s = .next t
          ∧ (s.runsOn s.cur.ctl.node s.cur.ctl.task = some s.focus →
              (t.cl s.focus).ctl.occ = .free ∧ (t.cl s.focus).a.run = .idle ∧ (t.cl s.focus).x.run = .idle ∧ (t.cl s.focus).x.land = [])

/-- R214, R215, R261-R263, R324, R326-R328, R342: what each scalar syllable has in flight. `a` and `b` are its operands, `b` a register or
the sign-extended IMM32. -/
def Obligations.ScalarSyllables : Prop :=
  ∀ (f : XF) (s : State), headsThere s f →
    let a := s.xr f.a
    let b := s.xb f
    let sg := f.ty = 4
    let lt (u v : W64) : Bool := if sg then decide (u.toInt < v.toInt) else decide (u.toNat < v.toNat)
    let c := f.fn.toNat % 8
    let holds : Bool := if c = 0 then a == b else if c = 1 then a != b else if c = 2 then lt a b else if c = 3 then !lt b a
      else if c = 4 then lt b a else !lt a b
    let xw (lat : Nat) (v : W64) : List (Nat × Eff) := [(lat, .x (opIdx f.d) v)]
    issuedX f s (xw 1 (BitVec.ofNat 64 (a.toNat + b.toNat))) (exec (.xadd f) s)
    ∧ issuedX f s (xw 1 (BitVec.ofInt 64 (a.toInt - b.toInt))) (exec (.xsub f) s)
    ∧ issuedX f s (xw 3 (BitVec.ofNat 64 (a.toNat * b.toNat))) (exec (.xmul f) s)
    ∧ issuedX f s (xw 1 (a &&& b)) (exec (.xand f) s) ∧ issuedX f s (xw 1 (a ||| b)) (exec (.xorx f) s)
    ∧ issuedX f s (xw 1 (a ^^^ b)) (exec (.xxor f) s)
    ∧ issuedX f s (xw 1 (BitVec.ofNat 64 (a.toNat * 2 ^ b.toNat))) (exec (.xshl f) s)
    ∧ issuedX f s (xw 1 (if sg then BitVec.ofInt 64 (a.toInt / 2 ^ b.toNat) else BitVec.ofNat 64 (a.toNat / 2 ^ b.toNat))) (exec (.xshr f) s)
    ∧ issuedX f s (xw 1 (if lt b a then b else a)) (exec (.xmin f) s) ∧ issuedX f s (xw 1 (if lt b a then a else b)) (exec (.xmax f) s)
    ∧ issuedX f s (xw 1 f.imm) (exec (.xli f) s)
    ∧ (c < 6 → issuedX f s (xw 1 (if holds then 1 else 0)) (exec (.xcmp f) s))
    ∧ issuedX f s (xw 1 (BitVec.ofNat 64 ((List.range 1024).countP fun l => (s.x.pred (opIdx f.a)).getLsbD l && (s.guard f).getLsbD l)))
        (exec (.kpopc f) s)
    ∧ issuedX f s (xw 1 s.x.ls) (exec (.lsupdGet f) s)
    ∧ issuedX f s [(1, .x (opIdx f.d) s.x.xfp), (1, .xfpClear (a.toNat % 32))] (exec (.lsupdFlg f) s)
    ∧ (∃ v, issuedX f s [(1, .ls v)] (exec (.lsupdSet f) s) ∧ -126 ≤ lsLo v ∧ lsLo v ≤ lsSexp v ∧ lsSexp v ≤ lsHi v
        ∧ (-126 ≤ lsLo a.toNat → lsLo a.toNat ≤ lsSexp a.toNat → lsSexp a.toNat ≤ lsHi a.toNat → v = a.toNat % 2 ^ 58))
    ∧ ∃ v st, issuedX f s [(1, .ls v), (1, .x (opIdx f.d) (BitVec.ofNat 64 (f32Pow (lsSexp v) * 2 ^ 32 + st)))] (exec (.lsupd f) s)
        ∧ (let l := s.x.ls.toNat
          (a ≠ 0 → lsLo l < lsSexp l → lsSexp v = lsSexp l - 1 ∧ st = 5 ∧ v / 2 ^ 40 % 2 ^ 16 = 0)
          ∧ (a ≠ 0 → lsSexp l ≤ lsLo l → lsSexp v = lsSexp l ∧ st = 9 ∧ v.testBit 56 = true)
          ∧ (a = 0 → l / 2 ^ 24 % 2 ^ 16 = 0 → v = l ∧ st = 0)
          ∧ (a = 0 → l / 2 ^ 40 % 2 ^ 16 + 1 < l / 2 ^ 24 % 2 ^ 16 → lsSexp v = lsSexp l ∧ st = 0 ∧ v / 2 ^ 40 % 2 ^ 16 = l / 2 ^ 40 % 2 ^ 16 + 1)
          ∧ (a = 0 → l / 2 ^ 24 % 2 ^ 16 ≠ 0 → l / 2 ^ 24 % 2 ^ 16 ≤ l / 2 ^ 40 % 2 ^ 16 + 1 → lsSexp l < lsHi l → lsSexp v = lsSexp l + 1 ∧ st = 2))

/-- Part 1 of 2 of `Obligations.ControlSyllablesAndJoins`. -/
def Clause.ControlSyllables : Prop :=
  ∀ (f : XF) (s : State),
    let at_ : Nat := if s.x.indep then NMap.get 0 s.x.spc s.slot else s.x.pc + 16 * s.slot
    let target : Nat := ((at_ + 16 * (f.imm.setWidth 32).toInt) % 2 ^ 64).toNat
    let jumps (i : Instr) : Prop := ∃ t, exec i s = .next t ∧ t.x.jump = some target ∧ t.x.land = s.x.land ∧ t.x.x = s.x.x ∧ t.a = s.a ∧ SameBytes s t
    let branch (i : Instr) (c : Prop) : Prop := (c → jumps i) ∧ (¬ c → exec i s = .next s)
    let k := s.x.pred (opIdx f.a)
    let m := f.imm.toNat
    let loops (i : Instr) (lc ec rb : Nat) (k8 : Pred) (jump : Option Nat) : Prop :=
      ∃ t ks, exec i s = .next t ∧ t.x.jump = jump ∧ ks.length = 8 ∧ ks.head? = some k8
        ∧ t.x.land = s.x.land ++ [{ due := s.x.vcyc + 1, issued := s.x.vcyc, slot := s.slot, pcl := 0, eff := .loop lc ec rb ks, vig := none }]
    let n := (s.xr f.a).toNat
    let table := ((s.xpc / 128 * 128 + 128 * (f.imm.setWidth 32).toInt) % 2 ^ 64).toNat
    let sem := NMap.get 0 s.a.sems (m % 16)
    (headsThere s f → issuedX f s [] (exec (.nop f) s))
    ∧ jumps (.brx f) ∧ branch (.bcxNz f) (s.xr f.a ≠ 0) ∧ branch (.bcxZ f) (s.xr f.a = 0) ∧ branch (.bcxK f) (k.getLsbD 0 = true)
    ∧ branch (.bcxNk f) (k.getLsbD 0 = false) ∧ branch (.bcxAny f) (∃ l, k.getLsbD l = true) ∧ branch (.bcxNone f) (∀ l, k.getLsbD l = false)
    ∧ (0 < s.x.lc → loops (.bcxLoop f) (s.x.lc - 1) s.x.ec ((s.x.rb + 31) % 32) (BitVec.allOnes 1024) (some target))
    ∧ (s.x.lc = 0 → 1 < s.x.ec → loops (.bcxLoop f) 0 (s.x.ec - 1) ((s.x.rb + 31) % 32) 0 (some target))
    ∧ (s.x.lc = 0 → s.x.ec ≤ 1 → loops (.bcxLoop f) 0 0 ((s.x.rb + 31) % 32) 0 s.x.jump)
    ∧ loops (.lsetup f) (m % 2 ^ 17 - 1) (m / 2 ^ 17 % 16) 0 (BitVec.allOnes 1024) s.x.jump
    ∧ (1 ≤ n → n ≤ 65536 → loops (.lsetupReg f) (n - 1) (m / 2 ^ 17 % 16) 0 (BitVec.allOnes 1024) s.x.jump)
    ∧ (n = 0 ∨ 65536 < n → exec (.lsetupReg f) s = .next (s.xraise 0x12 0 n))
    ∧ (table < 2 ^ 52 → ∃ t, exec (.chkpt f) s = .next t ∧ t.x.ckpt = some table ∧ t.x.land = s.x.land)
    ∧ (2 ^ 52 ≤ table → exec (.chkpt f) s = .next (s.xraise 3 1 table))
    ∧ (∃ t l, exec (.xsemv f) s = .next t ∧ t.x.land = s.x.land ++ [l] ∧ l.eff = .sem (m % 16) (m / 2 ^ 16 % 2 ^ 16) ∧ s.x.vcyc + 1 ≤ l.due
        ∧ ∀ g ∈ s.x.land, (∃ p q v, g.eff = .twst p q v) ∨ (∃ q v, g.eff = .push q v) → g.due ≤ l.due)
    ∧ (s.x.semGot = some (m % 16) → ∃ t, exec (.xsemp f) s = .next t ∧ t.x.semGot = none ∧ t.x.freeze = s.x.freeze ∧ t.a = s.a)
    ∧ (sem ≠ 0 → s.x.semGot ≠ some (m % 16) → s.a.sempWait (m % 16) = none →
        ∃ t, exec (.xsemp f) s = .next t ∧ (∀ j, NMap.get 0 t.a.sems j = if j = m % 16 then sem - 1 else NMap.get 0 s.a.sems j) ∧ t.x = s.x)
    ∧ (sem = 0 → s.x.semGot ≠ some (m % 16) → ∃ t, exec (.xsemp f) s = .next t ∧ t.x.freeze = some (.sem (m % 16)) ∧ t.a = s.a)
    ∧ (∃ t, exec (.xtrap f) s = .next t ∧ t.x.run = .draining
        ∧ (s.x.trap = none → t.x.trap = some { code := 0x14, detail := 0, tval := m % 2 ^ 16, slot := s.slot }))
    ∧ (∃ t, exec (.xend f) s = .next t ∧ t.x.run = .ended ∧ t.x.land = s.x.land)
    ∧ ∃ t, exec (.syncjFork f) s = .next t ∧ NMap.get 0 t.x.spc s.slot = ((s.x.pc + 16 * (f.imm.setWidth 32).toInt) % 2 ^ 64).toNat
        ∧ (∀ j, j ≠ s.slot → NMap.get 0 t.x.spc j = NMap.get 0 s.x.spc j) ∧ (s.slot = 3 → t.x.indep = true ∧ t.x.joins = [])

/-- Part 2 of 2 of `Obligations.ControlSyllablesAndJoins`. -/
def Clause.Joins : Prop :=
  ∀ (f : XF) (s : State), s.slot < 4 →
    let tag := f.imm.toNat / 2 ^ 32 % 256
    let line := ((s.xpc + 16 * (f.imm.setWidth 32).toInt) % 2 ^ 64).toNat
    let j (k : Nat) : Option (Nat × Nat) := if k = s.slot then some (tag, line) else NMap.get none s.x.joins k
    ((∃ k < 4, j k = none) →
      ∃ t, exec (.syncjJoin f) s = .next t ∧ t.x.indep = s.x.indep ∧ t.x.trap = s.x.trap ∧ ∀ k < 4, NMap.get none t.x.joins k = j k)
    ∧ ∀ a b c d, j 0 = some a → j 1 = some b → j 2 = some c → j 3 = some d →
        (a.1 = b.1 ∧ b.1 = c.1 ∧ c.1 = d.1 → ∃ t, exec (.syncjJoin f) s = .next t ∧ t.x.indep = false ∧ t.x.pc = a.2 ∧ t.x.joins = [])
        ∧ (¬ (a.1 = b.1 ∧ b.1 = c.1 ∧ c.1 = d.1) → s.x.trap = none →
            ∃ t, exec (.syncjJoin f) s = .next t ∧ t.x.run = .draining
              ∧ ∃ e, t.x.trap = some e ∧ e.code = 0x11 ∧ e.tval = a.1 + 2 ^ 8 * b.1 + 2 ^ 16 * c.1 + 2 ^ 24 * d.1)

/-- R185, R195-R197, R220, R329-R332: where a branch goes and when, what a loop setup, a loop close, a checkpoint, a semaphore syllable,
XTRAP, XEND and a fork do. R186: a join makes its slot wait; when all four slots wait with one tag, lock-step resumes at the join line of
slot 0, and with different tags the join mismatch is raised with the four tags. Where the manual leaves a point open it says what the
model chose (logs 50, 51). -/
def Obligations.ControlSyllablesAndJoins : Prop := Clause.ControlSyllables ∧ Clause.Joins

/-- R242, R321-R324, R333-R335: what each packed integer syllable has in flight for the lanes of its guard: in every slot the exact
result, narrowed to the slot. -/
def Obligations.PackedIntegerResults : Prop :=
  ∀ (f : XF) (s : State), headsThere s f →
    let w := typeWidth f.ty.toNat
    let sg := decide (f.ty.toNat ≤ 4)
    let n (src : Nat → W32) (l i : Nat) : Nat := (src l).toNat / 2 ^ (w * i) % 2 ^ w
    let z (src : Nat → W32) (l i : Nat) : Int := if sg then sext w (n src l i) else (n src l i : Int)
    let signed (src : Nat → W32) (l i : Nat) : Int := sext w (n src l i)
    let a := s.srcA f
    let b := s.srcB f
    let c := s.srcC f
    let lim (v : Int) : Int := if sg then max (-(2 ^ (w - 1))) (min (2 ^ (w - 1) - 1) v) else max 0 (min (2 ^ w - 1) v)
    let tile (i : Instr) (lat : Nat) (v : Nat → Nat → Int) : Prop :=
      ∃ t : Tile, issuedX f s [(lat, .tile (s.x.phys (opIdx f.d)) (s.guard f) t)] (exec i s)
        ∧ ∀ l < 1024, ∀ j < 32 / w, ((Tile.lane t l).toNat / 2 ^ (w * j) % 2 ^ w : Nat) = v l j % 2 ^ w
    let lanes (i : Instr) (v : Nat → W32) : Prop :=
      ∃ t : Tile, issuedX f s [(2, .tile (s.x.phys (opIdx f.d)) (s.guard f) t)] (exec i s) ∧ ∀ l < 1024, Tile.lane t l = v l
    tile (.vadd f) 2 (fun l i => z a l i + z b l i) ∧ tile (.vsub f) 2 (fun l i => z a l i - z b l i)
    ∧ tile (.vmul f) 4 (fun l i => z a l i * z b l i) ∧ tile (.vmulh f) 4 (fun l i => z a l i * z b l i / 2 ^ w)
    ∧ tile (.vmadd f) 4 (fun l i => z a l i * z b l i + z c l i)
    ∧ tile (.vmin f) 2 (fun l i => min (z a l i) (z b l i)) ∧ tile (.vmax f) 2 (fun l i => max (z a l i) (z b l i))
    ∧ tile (.vshl f) 2 (fun l i => n a l i * 2 ^ n b l i) ∧ tile (.vshr f) 2 (fun l i => (n a l i / 2 ^ n b l i : Nat))
    ∧ (w ≠ 0 → tile (.vsar f) 2 fun l i => signed a l i / 2 ^ n b l i)
    ∧ tile (.vabs f) 2 (fun l i => |signed a l i|)
    ∧ tile (.vsadd f) 2 (fun l i => lim (z a l i + z b l i)) ∧ tile (.vssub f) 2 (fun l i => lim (z a l i - z b l i))
    ∧ tile (.vpopc f) 2 (fun l i => ((List.range w).countP fun k => (n a l i).testBit k : Nat))
    ∧ tile (.vclz f) 2 (fun l i => (w - (if n a l i = 0 then 0 else Nat.log2 (n a l i) + 1) : Nat))
    ∧ lanes (.vand f) (fun l => a l &&& b l) ∧ lanes (.vor f) (fun l => a l ||| b l) ∧ lanes (.vxor f) (fun l => a l ^^^ b l)
    ∧ lanes (.vsel f) (fun l => if (s.x.pred (f.fn.toNat % 16)).getLsbD l then a l else b l)
    ∧ (f.ty ≠ 0 → f.fn.toNat % 8 < 6 →
        ∃ k : Pred, issuedX f s [(2, .pred (opIdx f.d) (s.guard f) k)] (exec (.vcmp f) s)
          ∧ ∀ l < 1024, k.getLsbD l = condHolds (f.fn.toNat % 8) (z a l (f.fn.toNat / 16 % 4)) (z b l (f.fn.toNat / 16 % 4)))

/-- The result of a syllable with flags: `v` in the lanes, and the flags that the guarded lanes raise, if any. -/
def floats (f : XF) (s : State) (i : Instr) (lat : Nat) (v : Nat → W32 × Nat) : Prop :=
  ∃ (t : Tile) (fl : Nat),
    issuedX f s ((lat, .tile (s.x.phys (opIdx f.d)) (s.guard f) t) :: if fl = 0 then [] else [(lat, .flags fl)]) (exec i s)
      ∧ (∀ l < 1024, Tile.lane t l = (v l).1) ∧ ∀ b, fl.testBit b = true ↔ ∃ l < 1024, (s.guard f).getLsbD l = true ∧ (v l).2.testBit b = true

/-- Part 1 of 2 of `Obligations.FloatingResults`. -/
def Clause.FloatingSyllables : Prop :=
  ∀ (f : XF) (s : State), headsThere s f →
    let k := (fmtOfType f.ty.toNat).getD .f32
    let w := fmtWidth k
    let e (src : Nat → W32) (l i : Nat) : Nat := elem w i (src l)
    let a := s.srcA f
    let b := s.srcB f
    let c := s.srcC f
    let f1 (i : Instr) (lat : Nat) (op : Fmt → Nat → Nat × Nat) : Prop := floats f s i lat fun l => packF w fun j => op k (e a l j)
    let f2 (i : Instr) (lat : Nat) (op : Fmt → Nat → Nat → Nat × Nat) : Prop := floats f s i lat fun l => packF w fun j => op k (e a l j) (e b l j)
    let op := redOp f.ty.toNat (f.fn.toNat % 4)
    f2 (.fadd f) 4 Machine.fadd ∧ f2 (.fsub f) 4 Machine.fsub ∧ f2 (.fmul f) 4 Machine.fmul
    ∧ floats f s (.ffma f) 4 (fun l => packF w fun j => Machine.ffma k (e a l j) (e b l j) (e c l j))
    ∧ f2 (.fmin f) 2 (fun k => Machine.fmin k false) ∧ f2 (.fmax f) 2 (fun k => Machine.fmin k true)
    ∧ f2 (.fminn f) 2 (fun k => Machine.fminn k false) ∧ f2 (.fmaxn f) 2 (fun k => Machine.fminn k true)
    ∧ f1 (.fabs f) 2 Machine.fabs ∧ f1 (.fneg f) 2 Machine.fneg ∧ f1 (.frcp f) 10 Machine.frcp ∧ f1 (.frsq f) 10 Machine.frsq
    ∧ f1 (.fexp2 f) 10 Machine.fexp2 ∧ f1 (.flog2 f) 10 Machine.flog2 ∧ f1 (.ftanh f) 10 Machine.ftanh
    ∧ floats f s (.cvt f) 4 (fun l => convertLane (typeWidth (f.fn.toNat % 16)) (typeWidth f.ty.toNat) (cvtH f) (a l) (c l) fun v =>
        convert (f.fn.toNat % 16) f.ty.toNat (cvtSat f) (valueOf (f.fn.toNat % 16) v))
    ∧ floats f s (.cvtsr f) 5 (fun l => convertLane 32 (typeWidth f.ty.toNat) (cvtH f) (a l) (c l) fun v =>
        convertSR f.ty.toNat (cvtSat f) (f.fn.toNat / 16 % 16 + 1) ((b l).toNat % 2 ^ (f.fn.toNat / 16 % 16 + 1)) v)
    ∧ floats f s (.redrow f) 9 (fun l => asWord (tree op 6 ((List.range 64).map fun c => s.leaf f (64 * (l / 64) + c))))
    ∧ floats f s (.redcol f) 6 (fun l => asWord (tree op 4 ((List.range 16).map fun r => s.leaf f (64 * r + l % 64))))
    ∧ floats f s (.scanrow f) 9 (fun l => asWord ((scan op ((List.range 64).map fun c => s.leaf f (64 * (l / 64) + c))).getD (l % 64) (0, 0)))
    ∧ (let p := f.fn.toNat % 16 + 1
      let ty := f.ty.toNat
      let packed (src : Nat → W32) (w r j : Nat) : Nat := elem w (j % (32 / w)) (src (64 * r + j / (32 / w)))
      let block (r q : Nat) : List Byte × Nat :=
        let es := (List.range 16).map fun i => packed a (typeWidth ty) r (64 * cvtH f + 16 * q + i)
        let x := packed b 8 r (2 * cvtH f + q / 2)
        if ty = 0xE ∧ 4 ≤ p then ((planesOfMX es x p).bytes p, if x = 0xFF then fNV else 0)
        else let k := planesOf (es.map (if ty = 0xE then scaledE2m1 x else valueOf ty)) p
          (k.1.bytes p, k.2)
      floats f s (.planes f) 6 fun l =>
        let qs := (List.range 4).map (block (l / 64))
        (BitVec.ofNat 32 (ofBytes (((qs.flatMap Prod.fst).drop (4 * (l % 64))).take 4)),
          (List.range 4).foldl (fun fl q =>
            if q * (2 * (p + 2)) < 4 * (l % 64) + 4 ∧ 4 * (l % 64) < (q + 1) * (2 * (p + 2)) then fl ||| (block (l / 64) q).2 else fl) 0))
    ∧ (typeWidth f.ty.toNat ≤ 32 →
      let p := f.fn.toNat % 16 + 1
      let wd := typeWidth f.ty.toNat
      let half (r k : Nat) : Nat := (a (64 * r + k / 2)).toNat / 2 ^ (16 * (k % 2)) % 2 ^ 16
      let val (r j : Nat) : FVal :=
        let o := (p + 2) * (j / 16)
        if half r o % 4096 = 0x800 then .nan false
        else .fin ((half r (o + 1)).testBit (j % 16))
          ((List.range p).map fun k => if (half r (o + 2 + k)).testBit (j % 16) then 2 ^ k else 0).sum (sext 12 (half r o % 4096))
      floats f s (.unplane f) 6 fun l => packF wd fun i =>
        let j := 32 / wd * (l % 64) + i
        if 64 * cvtH f ≤ j ∧ j < 64 * cvtH f + 64 then convert 9 f.ty.toNat (cvtSat f) (val (l / 64) (j - 64 * cvtH f))
        else (if wd = 32 then 0 else elem wd i (c l), 0))
    ∧ (∃ t : Tile, issuedX f s [(4, .tile (s.x.phys (opIdx f.d)) (s.guard f) t)] (exec (.vmix f) s) ∧ ∀ l < 1024, Tile.lane t l = vmix l (a l) (b l))
    ∧ ∃ (p : Pred) (fl : Nat), issuedX f s ((2, .pred (opIdx f.d) (s.guard f) p) :: if fl = 0 then [] else [(2, .flags fl)]) (exec (.fcmp f) s)
        ∧ (∀ l < 1024, p.getLsbD l = (Machine.fcmp k (f.fn.toNat % 8) (elem w (f.fn.toNat / 16 % 4) (a l)) (elem w (f.fn.toNat / 16 % 4) (b l))).1)
        ∧ fl = if (List.range 1024).any (fun l => (s.guard f).getLsbD l
            && (fIsSnan (fpVal k (elem w (f.fn.toNat / 16 % 4) (a l))) || fIsSnan (fpVal k (elem w (f.fn.toNat / 16 % 4) (b l))))) then fNV else 0

/-- Part 2 of 2 of `Obligations.FloatingResults`. -/
def Clause.NanResults : Prop :=
  ∀ (k : Fmt) (a b c : Nat), fmtIeee k = true →
    let nan (v : Nat) : Prop := fIsNan (fpVal k v) = true
    let snan (v : Nat) : Bool := fIsSnan (fpVal k v)
    let inf (v : Nat) : Prop := ∃ s, fpVal k v = .inf s
    (nan a ∨ nan b → ∀ r ∈ [Machine.fadd k a b, Machine.fsub k a b, Machine.fmul k a b], r = (qNaN k, if snan a || snan b then 1 else 0))
    ∧ (nan c → ¬ (inf a ∧ fIsZero (fpVal k b) = true) → ¬ (inf b ∧ fIsZero (fpVal k a) = true) → ¬ nan a → ¬ nan b →
        Machine.ffma k a b c = (qNaN k, if snan c then 1 else 0))
    ∧ (inf a → fIsZero (fpVal k b) = true → Machine.fmul k a b = (qNaN k, 1) ∧ Machine.fmul k b a = (qNaN k, 1))
    ∧ (inf a → Machine.fsub k a a = (qNaN k, 1))

/-- R245, R246, R253-R258, R260, R322-R324, R336, R337, R339: what each floating, conversion and reduction syllable has in flight, by the
element operations of the model, with its latency and the flags of the guarded lanes. UNPLANE decodes the four blocks of a row as R246
lays them out. R243-R245: a NaN operand of an addition, subtraction, product or fused product gives the default NaN of the format, and NV
just for a signalling one (or infinity times zero in the fused product); without NaN operands, infinity less infinity and zero times
infinity give it with NV. Where the manual leaves a point open it says what the model chose (logs 8, 44). -/
def Obligations.FloatingResults : Prop := Clause.FloatingSyllables ∧ Clause.NanResults

/-- Part 1 of 2 of `Obligations.LaneMovesAndShifts`. -/
def Clause.LaneMoves : Prop :=
  ∀ (f : XF) (s : State), headsThere s f →
    let a := s.srcA f
    let b (r c : Nat) : Nat := (s.srcB f (64 * r + c)).toNat
    let moved (i : Instr) (lat : Nat) (v : Nat → Nat → W32) : Prop :=
      ∃ t : Tile, issuedX f s [(lat, .tile (s.x.phys (opIdx f.d)) (s.guard f) t)] (exec i s) ∧ ∀ r < 16, ∀ c < 64, Tile.lane t (64 * r + c) = v r c
    let ka := s.x.pred (opIdx f.a)
    let kb := s.x.pred (opIdx f.b)
    let preds (i : Instr) (v : Pred) : Prop := issuedX f s [(1, .pred (opIdx f.d) (s.guard f) v)] (exec i s)
    let queue := (Opnd.queue? f.d).getD 8 - 8
    let off : Int := 4 * sext 14 (f.imm.toNat / 2 ^ 32 % 2 ^ 14)
    let word (l : Nat) : Nat := (((a l).toNat + off) % 2 ^ 18 / 4 * 4).toNat
    let block (l : Nat) : Nat :=
      (((a (64 * (l / 64 / 4 * 4) + l % 64 / 4 * 4)).toNat + off) % 2 ^ 18 / 64 * 64).toNat + 4 * (4 * (l / 64 % 4) + l % 4)
    let fill := f.fn.toNat / 4 % 4 = 0
    let dir := f.fn.toNat % 4
    moved (.rotrow f) 5 (fun r c => a (64 * r + (c + 64 - b r 0 % 64) % 64)) ∧ moved (.rotcol f) 3 (fun r c => a (64 * ((r + 16 - b 0 c % 16) % 16) + c))
    ∧ moved (.bcrow f) 5 (fun r c => a (64 * r + b r c % 64)) ∧ moved (.bccol f) 3 (fun r c => a (64 * (b r c % 16) + c))
    ∧ moved (.trans16 f) 5 (fun r c => a (64 * (c % 16) + (16 * (c / 16) + r)))
    ∧ (dir = 0 → moved (.cshift f) 3 fun r c => if c < 4 ∧ fill then s.srcB f (64 * r + c) else a (64 * r + (c + 60) % 64))
    ∧ (dir = 1 → moved (.cshift f) 3 fun r c => if 60 ≤ c ∧ fill then s.srcB f (64 * r + c) else a (64 * r + (c + 4) % 64))
    ∧ (dir = 2 → moved (.cshift f) 3 fun r c => if r < 4 ∧ fill then s.srcB f (64 * r + c) else a (64 * ((r + 12) % 16) + c))
    ∧ (dir = 3 → moved (.cshift f) 3 fun r c => if 12 ≤ r ∧ fill then s.srcB f (64 * r + c) else a (64 * ((r + 4) % 16) + c))
    ∧ preds (.kand f) (ka &&& kb) ∧ preds (.kor f) (ka ||| kb) ∧ preds (.kxor f) (ka ^^^ kb) ∧ preds (.knot f) (~~~ka) ∧ preds (.kmov f) ka
    ∧ issuedX f s [(1, .kstq queue ka (f.imm.toNat % 32) false)] (exec (.kstq f) s)
    ∧ issuedX f s [(1, .kstq queue ka (f.imm.toNat % 32) true)] (exec (.kstqPush f) s)
    ∧ (∃ t : Tile, issuedX f s [(1, .push queue t)] (exec (.qpush f) s) ∧ ∀ l < 1024, Tile.lane t l = a l)
    ∧ (∃ m : NMap Nat, issuedX f s [(2, .twld (s.x.phys (opIdx f.d)) (s.guard f) m)] (exec (.twld f) s) ∧ ∀ l < 1024, NMap.get 0 m l = word l)
    ∧ (∃ m : NMap Nat, issuedX f s [(2, .twld (s.x.phys (opIdx f.d)) (s.guard f) m)] (exec (.twldx f) s) ∧ ∀ l < 1024, NMap.get 0 m l = block l)
    ∧ (∃ (m : NMap Nat) (t : Tile), issuedX f s [(2, .twst (s.guard f) m t)] (exec (.twst f) s)
        ∧ ∀ l < 1024, NMap.get 0 m l = word l ∧ Tile.lane t l = s.srcB f l)
    ∧ ∀ q, Opnd.queue? f.a = some q → ∀ i ∈ [Instr.qpop f, .qpeek f],
        (∀ t p, s.qHead s.focus q = .tile t p → issuedX f s [(1, .tile (s.x.phys (opIdx f.d)) (BitVec.allOnes 1024) t)] (exec i s))
        ∧ ∀ v p, s.qHead s.focus q = .dword v p → issuedX f s [(1, .x (opIdx f.d) v)] (exec i s)

/-- Part 2 of 2 of `Obligations.LaneMovesAndShifts`. -/
def Clause.ClusterShifts : Prop :=
  (∀ (f : XF) (s : State), headsThere s f → 2 ≤ f.fn.toNat % 4 →
    let south := decide (f.fn.toNat % 4 = 2)
    let feeder := s.neighbour s.focus south
    let target := s.neighbour s.focus (!south)
    let latch := if south then s.x.latchN else s.x.latchS
    let free := ∀ k, target = some k → s.latchFree k south = true
    ((feeder ≠ none → latch ≠ none) → free →
      ∃ (t : State) (v : Tile), exec (.cshiftXc f) s = .next t
        ∧ (∃ l ∈ t.x.land, l.due = s.x.vcyc + 6 ∧ l.eff = .tile (s.x.phys (opIdx f.d)) (s.guard f) v) ∧ (∃ l ∈ t.x.land, l.due = s.x.vcyc + 1 ∧ l.eff = .k7 true)
        ∧ (∃ l ∈ t.x.land, l.due = s.x.vcyc + 1 ∧ l.eff = .latch south)
        ∧ (∀ k, target = some k → ∃ l ∈ t.x.land, l.due = s.x.vcyc + 6 ∧ l.eff = .send k south)
        ∧ (∀ r < 16, ∀ c < 64, Tile.lane v (64 * r + c) =
            if south then (if r < 4 then (if feeder.isSome then Tile.lane (latch.getD []) (64 * r + c) else 0) else s.srcA f (64 * (r - 4) + c))
            else if 12 ≤ r then (if feeder.isSome then Tile.lane (latch.getD []) (64 * (r - 12) + c) else 0) else s.srcA f (64 * (r + 4) + c))
        ∧ ∀ k, target = some k → ∃ g ∈ t.flights, g.cl = k ∧ g.north = south ∧ g.sent = false
            ∧ ∀ i < 256, Tile.lane g.rows i = s.srcA f (if south then i + 768 else i))
    ∧ ((feeder ≠ none ∧ latch = none) ∨ ¬ free →
        ∃ t, exec (.cshiftXc f) s = .next t ∧ t.flights = s.flights
          ∧ t.x.land = s.x.land ++ [{ due := s.x.vcyc + 1, issued := s.x.vcyc, slot := s.slot, pcl := 0, eff := .k7 false, vig := none }]))
  ∧ ∀ (s : State) (cl : Nat) (north : Bool) (g : Flight), s.flights.find? (fun g => g.cl == cl && g.north == north && g.sent) = some g →
      ∃ t, exec (.latchRowsArrive cl north) s = .next t ∧ (if north then (t.cl cl).x.latchN else (t.cl cl).x.latchS) = some g.rows
        ∧ t.flights = s.flights.erase g

/-- R338, R340, R342-R346, R324: where each move takes its lanes from, and what the predicate, tower and queue syllables have in flight.
R340, R341: a shift across clusters whose neighbours allow it takes the latch's rows, empties the latch at issue + 1, sends its edge rows
at issue + 6 and sets k7; otherwise it is cancelled, and k7 is cleared. LATCH_ROWS_ARRIVE fills the latch with the rows that have left the
sender. -/
def Obligations.LaneMovesAndShifts : Prop := Clause.LaneMoves ∧ Clause.ClusterShifts

/-! ### Records and the matrix array (R223-R225, R348-R370) -/

/-- The record-issue syllables and the opcode of the record that each names. -/
def recordRows (f : XF) : List (Instr × Nat) :=
  [(.mma f, 1), (.wload f, 2), (.wswap f, 3), (.accz f, 4), (.drain f, 5), (.rowstat f, 6), (.vnest f, 7), (.scqpush f, 8)]

/-- Part 1 of 2 of `Obligations.Records`. -/
def Clause.RecordIssue : Prop :=
  ∀ (f : XF) (s : State) (i : Instr) (ropc : Nat), (i, ropc) ∈ recordRows f → s.recLine f < 2 ^ 52 →
    let rq (t : State) : List Rec := t.cur.arr.recQ
    (s.xLine? (s.recLine f) = none → ∃ t, exec i s = .next t ∧ t.x.freeze = some .fetch ∧ rq t = rq s)
    ∧ ∀ w, s.xLine? (s.recLine f) = some w → lineOk ropc w = true →
        (∀ d, s.recordErr s.focus (s.recordHere f w) = some d → exec i s = .next (s.xraise 0x15 d (s.recLine f)))
        ∧ (s.recordErr s.focus (s.recordHere f w) = none →
          (4 ≤ (rq s).length → ∃ t, exec i s = .next t ∧ t.x.freeze = some .recQueue ∧ rq t = rq s)
          ∧ ((rq s).length < 4 →
            ∃ t r, exec i s = .next t ∧ rq t = rq s ++ [r] ∧ r.ropc = ropc ∧ r.pcl = w / 2 ^ 506 % 4 ∧ r.mods = w / 2 ^ 480 % 2 ^ 20
              ∧ r.tag = f.imm.toNat / 2 ^ 32 % 16 ∧ r.j = 0 ∧ r.began = false
              ∧ (∀ n < 4, r.trip n = w / 2 ^ (416 + 16 * n) % 2 ^ 16 + 1)
              ∧ (∀ m < 4, r.base.getD m 0 = (w / 2 ^ (32 + 96 * m) % 2 ^ 32 + (s.xr ([f.d, f.a, f.b, f.c].getD m f.d)).toNat) % 2 ^ 32)
              ∧ (∀ m < 4, ∀ k < 4, r.stride m k = sext 16 (w / 2 ^ (64 + 96 * m + 16 * k) % 2 ^ 16))
              ∧ r.cw = (if w.testBit 24 then some (w % 2 ^ 22) else none) ∧ t.x = s.x ∧ t.a = s.a ∧ SameBytes s t))

/-- Part 2 of 2 of `Obligations.Records`. -/
def Clause.RecordWaitAndDispatch : Prop :=
  (∀ (f : XF) (s : State),
    let tag := f.imm.toNat / 2 ^ 32 % 16
    let recs := s.cur.arr.recs
    ((∀ r ∈ recs, r.tag ≠ tag) → exec (.mwait f) s = .next s) ∧ (recs = [] → exec (.mwaitAll f) s = .next s)
    ∧ ((∃ r ∈ recs, r.tag = tag) → ∃ t, exec (.mwait f) s = .next t ∧ t.x.freeze = some (.mwait false tag) ∧ t.cur.arr = s.cur.arr)
    ∧ (recs ≠ [] → ∃ t, exec (.mwaitAll f) s = .next t ∧ t.x.freeze = some (.mwait true 0) ∧ t.cur.arr = s.cur.arr))
  ∧ ∀ (cl : Nat) (s : State) (q : Rec) (qs : List Rec), (s.cl cl).arr.recQ = q :: qs →
      let e := engineOf q.ropc
      (((s.cl cl).arr.engine e).length < 2 →
        ∃ t, exec (.recordDispatch cl) s = .next t ∧ (t.cl cl).arr.recQ = qs ∧ (t.cl cl).arr.engine e = (s.cl cl).arr.engine e ++ [q]
          ∧ ∀ e', e' ≠ e → (t.cl cl).arr.engine e' = (s.cl cl).arr.engine e')
      ∧ (2 ≤ ((s.cl cl).arr.engine e).length → exec (.recordDispatch cl) s = .next s)

/-- R223, R225, R350, R352: a record-issue syllable with its line there, its checks passed and room in the queue issues the record: the
fields of its line with the registers' values added to the bases. Without room, or without its line, the counter freezes; a failing check
raises its trap. R349, R357: MWAIT goes on once no record of its tag (or none at all) is incomplete, and freezes the counter until then.
RECORD_DISPATCH passes the oldest queued record to its engine, which holds at most two. Where the manual leaves a point open it says what
the model chose (log 16). -/
def Obligations.Records : Prop := Clause.RecordIssue ∧ Clause.RecordWaitAndDispatch

/-- A single issue of the record `r` of its engine has run: the record has moved on, or is complete and gone. -/
def ranIssue (s t : State) (cl : Nat) (r : Rec) : Prop :=
  let e := engineOf r.ropc
  let more := r.j + 1 < r.total ∨ r.failed = true ∨ ((s.cl cl).arr.passes.any fun p => p.id == r.id) = true
  (t.cl cl).arr.engine e = ((s.cl cl).arr.engine e).filterMap fun q =>
    if q.id = r.id then (if more then some { r with j := r.j + 1, counted := r.counted + r.perIssue, scales := [] } else none) else some q

/-- R249, R250, R354, R355, R358-R362, R435: what a single issue of an MMA, a WLOAD, a WSWAP, an ACCZ and an SCQPUSH that nothing holds
back does to the array, when its copies agree and it meets no poison. That of an MMA has two parts: its passes begin, and their sums are
added, in the order in which passes began. Where the manual leaves a point open it says what the model chose (logs 54, 55, 56). -/
def Obligations.ArraySingleIssues : Prop :=
  ∀ (s : State) (cl : Nat) (r0 : Rec),
    let arr (t : State) : Arr := (t.cl cl).arr
    let acc (t : State) (a : Nat) : W32 := NMap.get 0 (arr t).acc a
    (s.running cl 1 = some r0 →
      let r := if r0.began then r0 else { r0 with began := true, f := (arr s).active.f }
      let a0 := (r.addr 32 0).toNat
      let a1 := (r.addr 1 1).toNat
      let row := s.blocksAt cl a0 (8 * r.f) r.pa
      let inside (c : Nat) : Prop := r.cols.1 ≤ c ∧ c < r.cols.1 + r.cols.2
      s.recWaits cl false a0 (rowBytes r.f r.pa) = false → s.torn cl a0 (8 * r.f) r.pa = false → s.spPoisoned cl a0 (rowBytes r.f r.pa) = false →
      (∀ q ∈ s.pePoison, q.1 = s.phys cl → q.2 < 65536 → ¬ inside (q.2 % 512)) →
      ((s.cl cl).ctl.usedNow + r.passes ≤ (s.cl cl).ctl.grant →
        ∃ t, exec (.mmaSingleIssue cl .passes) s = .next t
          ∧ (arr t).passes = (arr s).passes ++ [{ id := r.id, sums := (List.range r.cols.2).map fun i =>
              (a1 + (r.cols.1 + i), passSum (arr s).active (r.cols.1 + i) row) }]
          ∧ (arr t).arrayE = (arr s).arrayE.map (fun q => if q.id = r.id then { r with j := r.j + 1 } else q)
          ∧ (∀ a, acc t a = acc s a) ∧ (t.cl cl).ctl.usedNow = (s.cl cl).ctl.usedNow + r.passes ∧ SameBytes s t)
      ∧ ((s.cl cl).ctl.grant < (s.cl cl).ctl.usedNow + r.passes →
          ∃ t, exec (.mmaSingleIssue cl .passes) s = .next t ∧ (t.cl cl).ctl.capNow = true ∧ arr t = arr s))
    ∧ (∀ p ps, (arr s).passes = p :: ps → ((arr s).arrayE.find? fun q => q.id == p.id) = some r0 → s.wordHeld cl r0 = false → (∀ v ∈ p.sums, s.accBad cl v.1 = false) →
        let more := r0.j < r0.total ∨ r0.failed = true ∨ (ps.any fun q => q.id == r0.id) = true
        ∃ t, exec (.mmaSingleIssue cl (.add .agree)) s = .next t ∧ (arr t).passes = ps
          ∧ (∀ v ∈ p.sums, (∀ w ∈ p.sums, w.1 = v.1 → w = v) → acc t v.1 = BitVec.ofNat 32 (Machine.fadd .f32 (acc s v.1).toNat v.2).1)
          ∧ (∀ a, (∀ v ∈ p.sums, v.1 ≠ a) → acc t a = acc s a)
          ∧ (r0.ropc = 1 → (arr t).arrayE = (arr s).arrayE.filterMap fun q =>
              if q.id = r0.id then (if more then some { r0 with counted := r0.counted + r0.perIssue } else none) else some q)
          ∧ (r0.cw = none → SameBytes s t))
    ∧ (s.running cl 2 = some r0 →
      let f := sparFactor r0.mods
      let a0 := (r0.addr 32 0).toNat
      let n := r0.cols.1 + r0.j
      let bs := s.blocksAt cl a0 (8 * f) r0.pw
      let q := (arr s).scaleQ
      let pops := (if r0.mods.testBit 6 then (if r0.mods.testBit 7 then 4 * f else 8 * f) else 0) - r0.scales.length
      (arr s).before r0 3 = false → s.recWaits cl false a0 (rowBytes f r0.pw) = false → s.torn cl a0 (8 * f) r0.pw = false → s.wordHeld cl r0 = false →
      (∀ b < 8 * f, s.spPoisoned cl (a0 + 2 * (r0.pw + 2) * b) (2 * (r0.pw + 2)) = false) →
      pops ≤ q.length → (∀ b ∈ bs, (b.m.filter (· != 0)).length ≤ 16 / f) → (r0.began = true ∨ f = (arr s).shadow.f) →
      ∃ t, exec (.wloadSingleIssue cl .agree) s = .next t ∧ ranIssue s t cl { r0 with began := true }
        ∧ (arr t).scaleQ = q.drop pops ∧ (arr t).active = (arr s).active ∧ (arr t).shadow.f = (arr s).shadow.f
        ∧ ∀ i < 8 * f, ∀ e < 16, (arr t).shadow.signed n (16 * i + e) =
            (let b := bs.getD i nanBlock
             let v := b.m.getD e 0
             if v < 256 then (if b.sign.getD e false then -(v : Int) else v) else (arr t).shadow.signed n (16 * i + e)))
    ∧ (s.running cl 3 = some r0 → (arr s).before r0 2 = false → s.wordHeld cl r0 = false →
        ∃ t, exec (.wswapTakesEffect cl) s = .next t ∧ ranIssue s t cl r0 ∧ (arr t).active = (arr s).shadow ∧ (arr t).shadow = (arr s).active
          ∧ (arr t).acc = (arr s).acc)
    ∧ (s.running cl 4 = some r0 → s.wordHeld cl r0 = false →
        (∀ p ∈ (arr s).passes, ∀ v ∈ p.sums, v.1 < (r0.addr 1 0).toNat + r0.cols.1 ∨ (r0.addr 1 0).toNat + r0.cols.1 + r0.cols.2 ≤ v.1) →
        ∃ t, exec (.acczSingleIssue cl) s = .next t ∧ ranIssue s t cl r0
          ∧ (let a0 := (r0.addr 1 0).toNat
            ∀ a, acc t a = if a0 + r0.cols.1 ≤ a ∧ a < a0 + r0.cols.1 + r0.cols.2 then 0 else acc s a))
    ∧ (s.running cl 8 = some r0 →
        let a0 := (r0.addr 32 0).toNat
        (arr s).scaleQ.length ≤ 8160 → s.recWaits cl false a0 32 = false → s.wordHeld cl r0 = false → s.spPoisoned cl a0 32 = false →
        ∃ t, exec (.scqpushSingleIssue cl .agree) s = .next t ∧ ranIssue s t cl r0
          ∧ (arr t).scaleQ = (arr s).scaleQ ++ ((s.cl cl).sp.read a0 32).map BitVec.toNat)

/-- R69-R71, R251, R354, R363-R365: what a single issue of a DRAIN, a ROWSTAT and a VNEST does, when its copies agree, it meets no poison
and its word can be reached. A DRAIN to scratchpad asks for the banks of its tile image once, takes its tile when it has them all, and
writes the image granule by granule; with the last granule its single issue has run. Where the manual leaves a point open it says what the
model chose (logs 54, 93). -/
def Obligations.OutputSingleIssues : Prop :=
  ∀ (s : State) (cl : Nat) (r : Rec),
    let arr (t : State) : Arr := (t.cl cl).arr
    let dq (t : State) : List Tile := (t.cl cl).x.dq
    (s.running cl 5 = some r →
      let a0 := (r.addr 1 0).toNat
      let a1 := (r.addr 32 1).toNat
      let w := typeWidth r.ty
      let n := 32 / w
      let block := drainBlock a0 n
      let tile (t : Tile) : Prop := ∀ i < 16, ∀ c < 64, ∀ j < n, (Tile.lane t (64 * i + c)).toNat / 2 ^ (w * j) % 2 ^ w =
        (convert 9 r.ty (r.mods.testBit 4) (fpVal .f32 (NMap.get 0 (arr s).acc (a0 + 512 * i + n * c + j)).toNat)).1 % 2 ^ w
      let cleared (t : State) : Prop := ∀ a, NMap.get 0 (arr t).acc a = if r.mods.testBit 6 = true ∧ a ∈ block then 0 else NMap.get 0 (arr s).acc a
      let asked : TileWrite := (arr s).drain.getD { id := r.id, at_ := a1, ask := (s.cl cl).a.nextId, data := none, gran := [] }
      let asking := s.drainAsk cl r
      (∀ a ∈ block, s.accBad cl a = false ∧ (arr s).adding [a] = false) → ∀ work : GranuleCmp, work.cmp = .agree → asked.data = none →
      (r.mods.testBit 5 = false → (dq s).length < 8 → s.filePaused cl = false → s.wordHeld cl r = false →
        ∃ t v, exec (.drainSingleIssue cl work) s = .next t ∧ ranIssue s t cl r ∧ dq t = dq s ++ [v] ∧ tile v ∧ cleared t)
      ∧ (r.mods.testBit 5 = false → 8 ≤ (dq s).length → exec (.drainSingleIssue cl work) s = .next s)
      ∧ (r.mods.testBit 5 = true →
          (arr asking).drain = some asked ∧ SameBytes s asking
          ∧ (asking.drainFree cl asked = false → exec (.drainSingleIssue cl work) s = .next asking)
          ∧ (asking.drainFree cl asked = true → s.filePaused cl = false →
            ∃ t v, exec (.drainSingleIssue cl work) s = .next t ∧ (arr t).drain = some { asked with data := some (tileBytes v) } ∧ tile v ∧ cleared t
              ∧ (arr t).arrayE = (arr s).arrayE ∧ SameBytes s t)))
    ∧ (∀ (d : TileWrite) (bs : List Byte) (work : GranuleCmp), (arr s).drain = some d → d.data = some bs → bs.length = 4096 →
        (arr s).arrayE.find? (fun q => q.id == d.id) = some r → r.ropc = 5 → work.g < 128 → work.g ∉ d.gran → s.filePaused cl = false → r.cw = none →
        (∀ u, s.spPoisoned cl u 1 = false) →
        let last : Prop := ∀ g < 128, g ≠ work.g → g ∈ d.gran
        let at_ := d.at_ + 32 * work.g
        ∃ t, exec (.drainSingleIssue cl work) s = .next t
          ∧ (∀ i < 32, (t.cl cl).sp.byte (at_ + i) = bs.getD (32 * work.g + i) 0)
          ∧ (∀ b, b < at_ ∨ at_ + 32 ≤ b → (t.cl cl).sp.byte b = (s.cl cl).sp.byte b) ∧ dq t = dq s
          ∧ (last → (arr t).drain = none ∧ ranIssue s t cl r)
          ∧ (¬ last → (arr t).drain = some { d with gran := d.gran ++ [work.g] } ∧ (arr t).arrayE = (arr s).arrayE))
    ∧ (s.running cl 6 = some r →
      let a0 := (r.addr 1 0).toNat
      (s.cl cl).x.hq.length < 8 → s.filePaused cl = false → s.wordHeld cl r = false → r.cols.1 + r.cols.2 ≤ 512 →
      (∀ i < 16, ∀ c, r.cols.1 ≤ c → c < r.cols.1 + r.cols.2 →
        s.accBad cl (a0 + 512 * i + c) = false ∧ (arr s).adding [a0 + 512 * i + c] = false) →
      ∃ t v, exec (.rowstatSingleIssue cl .agree) s = .next t ∧ ranIssue s t cl r ∧ (t.cl cl).x.hq = (s.cl cl).x.hq ++ [v]
        ∧ (∀ i < 16, ∀ c < 64,
            let st := rowStats (fun c => (NMap.get 0 (arr s).acc (a0 + 512 * i + c)).toNat) r.cols.1 r.cols.2
            Tile.lane v (64 * i + c) = if c = 0 then BitVec.ofNat 32 st.1 else if c = 1 then BitVec.ofNat 32 st.2.1 else if c = 2 then BitVec.ofNat 32 st.2.2 else 0)
        ∧ (r.cw = none → SameBytes s t))
    ∧ (s.running cl 7 = some r →
      let at_ (m : Nat) : Nat := (r.addr 32 m).toNat
      let srcs := (opsUsed 7 r.mods).filter (· != 0)
      s.recWaits cl true (at_ 0) 32 = false → (∀ m ∈ srcs, s.recWaits cl false (at_ m) 32 = false) → (∀ u, s.spPoisoned cl u 1 = false) → r.cw = none →
      (r.ty = 3 ∨ r.ty = 9 ∨ r.ty = 11) →
      ∃ t, exec (.vnestSingleIssue cl .agree) s = .next t ∧ ranIssue s t cl r
        ∧ (t.cl cl).sp.read (at_ 0) 32 = vnestGranule r.ty (r.mods / 16 % 8) r.mods (fun m => (s.cl cl).sp.read (at_ m) 32)
        ∧ ∀ b, b < at_ 0 ∨ at_ 0 + 32 ≤ b → (t.cl cl).sp.byte b = (s.cl cl).sp.byte b)

/-! ### Steps of the units: waits, the vcyc counter, engine commands, mailboxes -/

/-- R73, R127, R130, R161, R285, R309, R310: a waiting instruction that looks at its condition again does what it does when it issues,
after which the instructions that have issued past it take effect; a walk that restarts forgets the context's cached nodes; a store that
has left its queue and waited for a frame is tried again. Where the manual leaves a point open it says what the model chose (logs 7, 39).
-/
def Obligations.WaitsReconsidered : Prop :=
  ∀ (cl : Nat) (s : State),
    let t : State := { s with focus := cl }
    let looks (i j : Instr) (done : State → State) : Prop := ∃ u, exec j t = .next u ∧ exec i s = .next (done u)
    let again (i j : Instr) : Prop := looks i j t.caughtUp
    (∀ w, (s.cl cl).a.wait = some w →
      (w.kind = .waitgen → again (.waiterSatisfied cl) (.waitgen w.f)) ∧ (w.kind = .semv → again (.waiterSatisfied cl) (.semv w.f))
      ∧ (w.kind = .semp → again (.waiterSatisfied cl) (.semp w.f)) ∧ (w.kind = .btake → again (.waiterSatisfied cl) (.btake w.f))
      ∧ (w.kind = .bgive → looks (.bgiveReleaseDone cl) (if w.f.imm.toNat / 256 % 8 = 4 then .bgiveNone w.f else .bgive w.f) id)
      ∧ (w.kind = .walk →
          exec (.walkRestart cl w.id) s =
            .next (({ t with walkCache := s.walkCache.filter fun e => e.1 != s.runCid cl }).resolve cl (s.runCid cl) (t.ea w.f) .acore []).2))
    ∧ (∀ cid slot n f, s.txWaiter cid slot = some (n, f) →
        let t : State := { s with focus := n }
        ∃ u, exec (.txbegin f) t = .next u ∧ exec (.txbeginOpen cid slot) s = .next (t.caughtUp u))
    ∧ ∀ seq l, ((s.cl cl).a.stores.find? fun l => l.seq == seq && l.pending && l.place == .hbm) = some l → l.op = none → l.redo = false → l.left = true → s.storeHeld cl l = false →
        (∀ m ∈ (s.cl cl).a.stores, m.seq = seq → m.orphan = false) →
        ∀ u, s.hbmWrite l.pa (toBytes l.size l.data) = .ok u →
          ∃ t, exec (.frameWaitEnd cl seq) s = .next t ∧ (∀ b, t.hbm.byte b = u.hbm.byte b) ∧ ∀ m ∈ (t.cl cl).a.stores, m.seq ≠ seq

/-- R187, R188, R191, R192, R195, R341, R344, R345: the next vcyc of a core that has ended takes the counter on by one, and a result due
then lands: a tile or a predicate in the lanes of its mask, a register, k7, a push, the loop state, a semaphore, `cr.ls`, `cr.xfp`, the
rows that a shift sends, a latch that it empties. A tower store whose banks can serve it writes the word of each lane of its mask, of
lanes of one word the last in order of position in the cell, and no other byte; a tower load reads the word of each lane, and its tile is
due 8 vcyc after its issue. Where the manual leaves a point open it says what the model chose (log 50). -/
def Obligations.ResultsLand : Prop :=
  ∀ (cl : Nat) (cmps : List Cmp) (s : State) (l : Landing),
    let x := (s.cl cl).x
    x.run = .ended → x.freeze = none → (s.cl cl).pauses = none → x.land = [l] → l.due = x.vcyc + 1 → l.pcl = 0 →
    let lands (f : State → Prop) : Prop := ∃ t, exec (.vcyc cl cmps) s = .next t ∧ (t.cl cl).x.vcyc = x.vcyc + 1 ∧ (t.cl cl).x.land = [] ∧ f t
    let sq (t : State) (q : Nat) : List Tile := NMap.get [] (t.cl cl).x.sq q
    (∀ p mask v, l.eff = .tile p mask v → lands fun t =>
      (∀ i < 1024, Tile.lane ((t.cl cl).x.tile p) i = if mask.getLsbD i then Tile.lane v i else Tile.lane (x.tile p) i)
        ∧ ∀ q, q ≠ p → (t.cl cl).x.tile q = x.tile q)
    ∧ (∀ n mask v, l.eff = .pred n mask v → n ≠ 0 → lands fun t =>
        (∀ i, ((t.cl cl).x.pred n).getLsbD i = if mask.getLsbD i then v.getLsbD i else (x.pred n).getLsbD i)
          ∧ ∀ m, m ≠ n → (t.cl cl).x.pred m = x.pred m)
    ∧ (∀ n v, l.eff = .x n v → lands fun t => ∀ m, (t.cl cl).x.xreg m = if m = n ∧ n ≠ 0 then v else x.xreg m)
    ∧ (∀ b, l.eff = .k7 b → lands fun t => (t.cl cl).x.pred 7 = if b then BitVec.allOnes 1024 else 0)
    ∧ (∀ q v, l.eff = .push q v → s.sqOcc cl q < 8 → lands fun t => sq t q = sq s q ++ [v])
    ∧ (∀ q v, l.eff = .push q v → 8 ≤ s.sqOcc cl q → x.trap = none → lands fun t =>
        sq t q = sq s q ∧ (t.cl cl).x.trap = some { code := 0x10, detail := 0, tval := q, slot := l.slot })
    ∧ (∀ q k j, l.eff = .kstq q k j false → j < 32 → lands fun t =>
        ∀ i < 1024, ∀ b < 32, (Tile.lane (NMap.get [] (t.cl cl).x.pack q) i).getLsbD b =
          if b = j then k.getLsbD i else (Tile.lane (NMap.get [] x.pack q) i).getLsbD b)
    ∧ (∀ k n, l.eff = .sem k n → s.sem cl k + n ≤ 65535 → lands fun t => t.sem cl k = s.sem cl k + n)
    ∧ (∀ k n, l.eff = .sem k n → 65535 < s.sem cl k + n → x.trap = none → lands fun t =>
        t.sem cl k = s.sem cl k ∧ (t.cl cl).x.trap = some { code := 0x13, detail := 0, tval := k, slot := l.slot })
    ∧ (∀ lc ec rb ks, l.eff = .loop lc ec rb ks → lands fun t =>
        (t.cl cl).x.lc = lc ∧ (t.cl cl).x.ec = ec ∧ (t.cl cl).x.rb = rb ∧ ∀ i < 8, (t.cl cl).x.pred (8 + i) = ks.getD i 0)
    ∧ (∀ v, l.eff = .ls v → lands fun t => (t.cl cl).x.ls = BitVec.ofNat 64 v)
    ∧ (∀ v, l.eff = .flags v → lands fun t => (t.cl cl).x.xfp = x.xfp ||| BitVec.ofNat 64 v)
    ∧ (∀ m, l.eff = .xfpClear m → lands fun t => (t.cl cl).x.xfp = x.xfp &&& ~~~BitVec.ofNat 64 m)
    ∧ (∀ k north, l.eff = .send k north → lands fun t =>
        t.flights = s.flights.map fun g => if g.cl = k ∧ g.north = north then { g with sent := true } else g)
    ∧ (∀ north, l.eff = .latch north → lands fun t =>
        (t.cl cl).x.latch north = none ∧ (t.cl cl).x.latch (!north) = x.latch (!north))
    ∧ ((s.cl cl).towerHeld = false → (∀ q ∈ s.twPoison, q.1 ≠ s.phys cl) →
        let word (addr : NMap Nat) (i : Nat) : Nat := (s.cl cl).twAddr (cellOf i) (NMap.get 0 addr i)
        (∀ mask addr v, l.eff = .twst mask addr v → lands fun t =>
          (∀ i < 1024, mask.getLsbD i = true →
            (∀ k < 1024, mask.getLsbD k = true → k ≠ i → inCell k < inCell i ∨ word addr k + 4 ≤ word addr i ∨ word addr i + 4 ≤ word addr k) →
            (t.cl cl).tw.readN (word addr i) 4 = (Tile.lane v i).toNat)
          ∧ ∀ b, (∀ k < 1024, mask.getLsbD k = true → b < word addr k ∨ word addr k + 4 ≤ b) → (t.cl cl).tw.byte b = (s.cl cl).tw.byte b)
        ∧ ∀ p mask addr, l.eff = .twld p mask addr →
          ∃ (t : State) (v : Tile), exec (.vcyc cl cmps) s = .next t ∧ (t.cl cl).x.vcyc = x.vcyc + 1
            ∧ (t.cl cl).x.land = [{ l with due := l.issued + 8, eff := .tile p mask v }]
            ∧ (∀ i < 1024, Tile.lane v i = BitVec.ofNat 32 ((s.cl cl).tw.readN (word addr i) 4))
            ∧ (∀ q, (t.cl cl).x.tile q = x.tile q) ∧ ∀ b, (t.cl cl).tw.byte b = (s.cl cl).tw.byte b)

/-- R189, R190, R418: a running counter takes the next vcyc once its syllables have issued and those of the next one may issue, and
freezes otherwise; a freeze ends when its cause has gone, and that of an XSEMP takes its count with it; a pending X trap of a drained core
is taken with XC = 1. Where the manual leaves a point open it says what the model chose (log 41). -/
def Obligations.CounterFreezesAndTraps : Prop :=
  ∀ (cl : Nat) (cmps : List Cmp) (s : State),
    let t : State := { s with focus := cl }
    let x := (s.cl cl).x
    (x.run = .run → x.freeze = none → x.issued = true → x.ckptNow = false →
      (∀ u ys, t.xNext cmps = .go u ys → exec (.vcyc cl cmps) s = .next (u.vcycStep cl cmps))
      ∧ ∀ u k, t.xNext cmps = .freeze u k → exec (.vcyc cl cmps) s = .next (u.xfreeze k))
    ∧ (s.halting cl = false →
      (∀ n, x.freeze = some (.beats n) → x.frozenAt + n < s.clk → ∃ u, exec (.xFreezeEnd cl) s = .next u ∧ (u.cl cl).x.freeze = none)
      ∧ (x.freeze = some .retrain → (s.cl cl).ctl.retrainEnd = none → ∃ u, exec (.xFreezeEnd cl) s = .next u ∧ (u.cl cl).x.freeze = none)
      ∧ (x.freeze = some .tower → (∀ k ∈ x.banksAt (x.vcyc + 1), (s.cl cl).ctl.bankRefreshing k = false) →
          ∃ u, exec (.xFreezeEnd cl) s = .next u ∧ (u.cl cl).x.freeze = none
            ∧ ∀ k ∈ x.banksAt (x.vcyc + 1), (u.cl cl).ctl.bankAsleep k = false)
      ∧ (x.freeze = some .queue → x.run = .run → ∀ u ys, t.xNext [] = .go u ys → ∃ v, exec (.xFreezeEnd cl) s = .next v ∧ v.x.freeze = none)
      ∧ ∀ k, x.freeze = some (.sem k) → x.run = .run → ∀ u ys, t.xNext [] = .go u ys → u.sem cl k ≠ 0 → u.focus = cl →
          ∃ v, exec (.xFreezeEnd cl) s = .next v ∧ v.x.freeze = none ∧ v.x.semGot = some k ∧ v.sem cl k = u.sem cl k - 1)
    ∧ ∀ e, s.xTrapDue cl = some e → e.code ≠ 7 → (s.cl cl).a.mode = .s → (s.cl cl).a.sstat.getLsbD 1 = true →
        ∃ u, exec (.xTrapTaken cl) s = .next u ∧ (u.cl cl).x.trap = none ∧ (u.cl cl).a.pc = (s.cl cl).a.tvec &&& ~~~7#64
          ∧ (u.cl cl).a.cause = BitVec.ofNat 64 (e.code % 256 + e.detail % 256 * 256 + 65536) ∧ (u.cl cl).a.tval = BitVec.ofNat 64 e.tval
          ∧ (u.cl cl).a.epc = (s.cl cl).a.pc &&& ~~~7#64

/-- R69-R71, R82, R143, R159, R160, R286, R432: a command whose turn has come and that the Vigil core matches starts, and one that it does
not match is a divergence; a transfer gets its locks when no other holds or asked before for a bank of it; with them and its data it
writes its piece, granule by granule, and a tile image of a DRAIN that holds a bank of it keeps it off; a TLDQ's slot becomes ready; bytes
that have performed are counted in the command's word. Where the manual leaves a point open it says what the model chose (logs 11, 42). -/
def Obligations.CommandProgress : Prop :=
  ∀ (cl id : Nat) (s : State) (k : Cmd), s.cmd? cl id = some k →
    let cmd (t : State) : Option Cmd := t.cmd? cl id
    (k.started = false → s.startBlocked cl k = false → k.vig = true → k.gatherErr = none → k.kind ≠ .msend → ∀ cmps,
      ∃ t k', exec (.engineCommandStart cl id true cmps) s = .next t ∧ cmd t = some k' ∧ k'.started = true
        ∧ k'.lock = (if k.lock ≠ 0 then k.lock else if k.piece < k.pieces then 1 else 0) ∧ k'.performed = k.performed ∧ SameBytes s t)
    ∧ (∀ vigil cmps, k.started = false → s.startBlocked cl k = false → vigil = false ∨ k.vig = false →
        exec (.engineCommandStart cl id vigil cmps) s = .next (if k.mode = .s then s.doubleFault cl
          else s.taskRung4 cl k.node k.task k.cid 2 7 0 0 k.pc.toNat 0 (vigilInfo .command)))
    ∧ (k.started = false → s.startBlocked cl k = true → exec (.engineCommandStart cl id true []) s = .next s)
    ∧ (∀ c, k.started = false → s.startBlocked cl k = false → k.vig = true → k.gatherErr = some c →
        ∃ t, exec (.engineCommandStart cl id true []) s = .next t ∧ cmd t = none)
    ∧ (k.lock = 1 → (∀ j ∈ (s.cl cl).a.cmds, j.id ≠ id → j.lock = 0) → (s.cl cl).arr.drain = none →
        ∃ t k', exec (.tileTransferLock cl id) s = .next t ∧ cmd t = some k' ∧ k'.lock = 2 ∧ SameBytes s t)
    ∧ (k.lock = 1 → (∃ j ∈ (s.cl cl).a.cmds, j.id ≠ id ∧ j.lock = 2 ∧ (j.started = true ∨ j.seq ≤ k.seq) ∧ (j.banks j.piece).clash (k.banks k.piece) = true) →
        exec (.tileTransferLock cl id) s = .next s)
    ∧ (∀ d, k.lock = 1 → (s.cl cl).arr.drain = some d → d.data.isSome = true → (d.banks cl).clash (k.banks k.piece) = true →
        exec (.tileTransferLock cl id) s = .next s)
    ∧ (∀ c a g, k.dst = .sp c a → k.kind ≠ .gather → k.copyTpl = none → k.bcast = false → s.granuleDue cl k g = true → k.pcl = 0 →
        (∀ d u, s.spPoisoned d u 1 = false) →
        let lo := max (a + 4096 * k.piece) (32 * g)
        let n := min (a + 4096 * k.piece + min 4096 (k.count - 4096 * k.piece)) (32 * g + 32) - lo
        ∀ cmp, ∃ t, exec (.tileTransferDone cl id ⟨g, cmp⟩) s = .next t ∧ (t.cl c).sp.read lo n = s.srcBytes k (lo - a) n
          ∧ (∀ b, b < lo ∨ lo + n ≤ b → (t.cl c).sp.byte b = (s.cl c).sp.byte b) ∧ (∀ m, m ≠ c → (t.cl m).sp = (s.cl m).sp)
          ∧ ∀ k', cmd t = some k' →
              (k'.gran = k.gran ++ [g] ∧ k'.performed = k.performed + n ∧ k'.piece = k.piece)
                ∨ ((∀ h ∈ k.granules k.piece, h ∈ k.gran ++ [g]) ∧ k'.gran = [] ∧ k'.piece = k.piece + 1 ∧ k'.performed = k.pieceEnd k.piece))
    ∧ (∀ w, k.word = some w → k.counted < Nat.min k.count k.performed → s.arrivalHeld cl k = false → s.spBlocked cl (some k.seq) true w.1 w.2 8 = false → s.spPoisoned w.1 w.2 8 = false →
        let n := Nat.min k.count k.performed - k.counted
        ∃ t, exec (.completionArrival cl id n) s = .next t
          ∧ (t.cl w.1).sp.read w.2 8 = toBytes 8 (arrive (ofBytes ((s.cl w.1).sp.read w.2 8)) n 0)
          ∧ ∀ k', cmd t = some k' → k'.counted = k.counted + n)
    ∧ (k.kind = .tldq → k.hasPerformed = true → (s.cl cl).ctl.retrainEnd = none →
        ((s.cl cl).a.cmds.find? fun j => j.kind == .tldq && j.aux == k.aux && j.hasPerformed) = some k →
        ∃ t, exec (.loadQueueSlotReady cl k.aux) s = .next t ∧ cmd t = none
          ∧ ∀ l ∈ NMap.get [] (t.cl cl).x.lq k.aux, l.cmd = k.id → l.ready = true)

/-- R94-R97, R100-R106, R109, R155, R156, R162, R288, R303, R306: what a unit of local memory, of a tower, a gathered column and a
bank-side request do for the command that they belong to, once no earlier command has still to access what they access; a protected unit
whose copies differ in its first granule is not written, and its command fails. A bank-side reduction adds each element of the payload to
the element in memory, in integers modulo 2^w or in the floating format; a scale-accumulate adds s times the widened element, rounded
once; a compare-and-swap writes its word where the compare holds and returns the old one to the payload. Where the manual leaves a point
open it says what the model chose (logs 9, 49, 106). -/
def Obligations.CommandUnits : Prop :=
  ∀ (cl id j : Nat) (s : State) (k : Cmd), s.cmd? cl id = some k → k.started = true →
    let cmd (t : State) : Option Cmd := t.cmd? cl id
    let more := k.performed < k.work
    let d := j - k.srcUnits
    let x := k.dstUnit d
    let h := (s.runBytes k x x.n).1
    let bytes := (s.runBytes k x x.n).2
    let did (v : State) (n : Nat) : Prop := ∀ k', cmd v = some k' → k'.done = k.done ++ [j] ∧ k'.performed = k.performed + n
    (k.kind.plain = true → j < k.srcUnits → k.got.contains j = false → (k.srcUnit j).n ≠ 0 → s.unitSent cl k.id j = false → more →
      s.unitHeld cl k (k.srcUnit j).a = false →
      ∀ a pa t bs cmps, k.src = .va a → s.reach cl k (k.srcUnit j).a [pER] = (.at_ .hbm pa, t) →
        t.hbmRead pa (k.srcUnit j).n = .ok bs → t.cmd? cl id = some k →
        ∃ u k', exec (.hbmUnitAccess cl id j cmps) s = .next u ∧ cmd u = some k' ∧ k'.got = k.got ++ [j] ∧ k'.buf = k.buf.write (k.srcUnit j).i bs
          ∧ k'.performed = k.performed)
    ∧ (k.kind.plain = true → k.stamp = none → k.srcUnits ≤ j → d < k.dstUnits →
      x.n ≠ 0 → k.done.contains j = false → s.srcReady cl k x = true → s.lowerDone cl k d = true → s.runBad k x = none →
      s.unitSent cl k.id j = false → s.unitHeld cl k x.a = false →
      ∀ a pa t u, k.dst = .va a → s.reach cl h x.a [pEW] = (.at_ .hbm pa, t) → t.hbmWrite pa bytes = .ok u → u.cmd? cl id = some k →
        ∃ v, exec (.hbmUnitAccess cl id j []) s = .next v ∧ (∀ b, v.hbm.byte b = u.hbm.byte b) ∧ did v x.n)
    ∧ (k.kind.plain = true → s.unitDue cl k j = true → k.pcl ≠ 0 →
        ∀ cmps, exec (.hbmUnitAccess cl id j (.differ :: cmps)) s = .next (s.cmdMismatch cl k (k.unitRun j).1))
    ∧ (k.kind.plain = true → j < k.srcUnits → k.got.contains j = false → more →
      ∀ c a, k.src = .tw c a →
        let x := k.srcUnit j
        let cell := k.unitCell k.src j
        (s.cl cl).ctl.bankRefreshing (bankKey cell x.a) = false → s.twPoisoned cl cell x.a x.n = false →
        ∀ cmps, ∃ t k', exec (.refillDrainTowerAccess cl id j cmps) s = .next t ∧ cmd t = some k' ∧ k'.got = k.got ++ [j]
          ∧ k'.buf = k.buf.write x.i ((s.cl cl).tw.read ((s.cl cl).twAddr cell x.a) x.n) ∧ (t.cl cl).ctl.bankAsleep (bankKey cell x.a) = false)
    ∧ (k.kind.plain = true → k.srcUnits ≤ j → d < k.dstUnits → k.done.contains j = false → s.srcReady cl k x = true → s.runBad k x = none →
      bytes.length = x.n →
      ∀ c a, k.dst = .tw c a →
        let cell := k.unitCell k.dst d
        let at_ := (s.cl cl).twAddr cell x.a
        (s.cl cl).ctl.bankRefreshing (bankKey cell x.a) = false → s.twPoisoned cl cell x.a x.n = false →
        ∃ t, exec (.refillDrainTowerAccess cl id j []) s = .next t ∧ did t x.n ∧ (t.cl cl).tw.read at_ x.n = bytes
          ∧ (∀ b, b < at_ ∨ at_ + x.n ≤ b → (t.cl cl).tw.byte b = (s.cl cl).tw.byte b) ∧ (t.cl cl).ctl.bankAsleep (bankKey cell x.a) = false)
    ∧ (k.kind = .gather → j < patCols k.pat → k.got.contains j = false →
      (∀ i < patRows k.pat, s.unitHeld cl k (k.elemAddr (k.aux % 2 ^ 32 + j * patStep k.pat) (k.aux / 2 ^ 32 % 2 ^ 32 + i)).1 = false) →
      ∀ t vs, s.readColumn cl k (k.aux % 2 ^ 32 + j * patStep k.pat) (patRows k.pat) (k.aux / 2 ^ 32 % 2 ^ 32) [] = .ok t vs → t.cmd? cl id = some k →
        ∃ u k', exec (.gatherColumn cl id j) s = .next u ∧ cmd u = some k' ∧ k'.got = k.got ++ [j] ∧ k'.buf = k.buf.write (j * patPitch k.pat) (k.column vs))
    ∧ (k.kind.near = true → j < k.nmUnits → k.done.contains j = false → s.unitSent cl id j = false → k.pcl = 0 → s.nmTurn cl k j = true →
      s.nmBlocked cl k j = false → s.unitHeld cl k (k.nmSpan j).a = false → (∀ c a, s.spPoisoned c a 1 = false) →
      ∀ c p pa t u bs cmp, k.src = .sp c p → s.reach cl k (k.nmSpan j).a [pER, pEW] = (.at_ .hbm pa, t) → t.cmd? cl id = some k → u.cmd? cl id = some k →
        t.channelFailed (t.homeOf (pageOf pa) + pa % 65536) = false → u.channelFailed (u.homeOf (pageOf pa) + pa % 65536) = false →
        let old (c a n : Nat) : Nat := (t.cl c).sp.readN a n
        let z := k.nmSize
        let n := (k.nmSpan j).n / z
        let e0 := (k.nmSpan j).i / z
        let y (e : Nat) : Nat := ofBytes ((bs.drop (z * e)).take z)
        let done (new : List Byte) (ret : List Byte) : Prop := t.hbmWrite pa new = .ok u →
          ∃ v, exec (.bankSideRequest cl id j cmp) s = .next v ∧ (∀ b, v.hbm.byte b = u.hbm.byte b) ∧ did v (k.nmSpan j).n
            ∧ (∀ i < ret.length, (v.cl c).sp.byte (p + 16 * j + i) = ret.getD i 0)
            ∧ ∀ b, b < p + 16 * j ∨ p + 16 * j + ret.length ≤ b → (v.cl c).sp.byte b = (u.cl c).sp.byte b
        (k.kind = .nmred → 0 < k.layout → k.layout < 16 → t.hbmRead pa (n * z) = .ok bs →
          done ((List.range n).flatMap fun e =>
            let x := old c (p + (e0 + e) * z) z
            toBytes z (match fmtOfType k.layout with
              | some f => (Machine.fadd f (y e) x).1
              | none => (y e + x) % 2 ^ (8 * z))) [])
        ∧ (k.kind = .nmsax → t.hbmRead pa (4 * n) = .ok bs →
          done ((List.range n).flatMap fun e =>
            let x := old c (p + 32 + (e0 + e) * typeBytes k.layout) (typeBytes k.layout)
            toBytes 4 (Machine.ffma .f32 (old c p 4) (if k.layout = 0xB then x * 65536 else x) (y e)).1) [])
        ∧ (k.kind = .nmcas → t.hbmRead pa 8 = .ok bs → bs.length = 8 →
          done (if ofBytes bs = old c (p + 16 * j) 8 then toBytes 8 (old c (p + 16 * j + 8) 8) else bs) bs))

/-- Part 1 of 2 of `Obligations.RefusalsAndMailboxes`. -/
def Clause.RefusalsAndBadFlits : Prop :=
  ∀ (cl id : Nat) (s : State),
    (∀ l, ((s.cl cl).a.accs.find? fun l => l.seq == id && l.pending && l.place == .hbm) = some l →
      (s.pageSt (pageOf l.pa) = .flipping → ∀ p pa t, (s.dropVa l.cid l.va).resolve cl l.cid l.va .acore l.kindOf.perms = (.at_ p pa, t) →
        ∃ u, exec (.accessRefusal cl id false) s = .next u ∧ (u.cl cl).a.loads.length = (t.cl cl).a.loads.length
          ∧ ∀ m ∈ (u.cl cl).a.loads ++ (u.cl cl).a.stores, m.seq = id → m.place = p ∧ m.pa = pa)
      ∧ (s.pageSt (pageOf l.pa) = .offline → l.late = none → l.cid = 0 → (s.cl cl).a.mode = .s → (s.cl cl).a.sstat.getLsbD 1 = true →
        ∃ u, exec (.accessRefusal cl id true) s = .next u ∧ (u.cl cl).a.cause = BitVec.ofNat 64 (6 + 7 * 256)
          ∧ (u.cl cl).a.tval = BitVec.ofNat 64 l.va ∧ (u.cl cl).a.epc = l.pc &&& ~~~7#64 ∧ ∀ m ∈ (u.cl cl).a.accs, m.seq ≠ id))
    ∧ ∀ k j resends a, s.cmd? cl id = some k → 8 ≤ resends → k.started = true → k.kind.plain = true → j < k.srcUnits → k.src = .va a → k.got.contains j = false →
        ∃ u, exec (.networkFlitCrcFailure cl (.cmd id) j resends) s = .next u ∧ u.cmd? cl id = none ∧ s.rel.history.length < u.rel.history.length

/-- Part 2 of 2 of `Obligations.RefusalsAndMailboxes`. -/
def Clause.Mailboxes : Prop :=
  (∀ (m : MailMsg) (s : State), m.chip = s.dev.chip → m.payload.length ≤ 56 →
    (m.srcChip = s.dev.chip ∧ s.mailFlight.contains m = true)
      ∨ (m.srcChip ≠ s.dev.chip ∧ s.fencedChip m.srcChip = false ∧ s.upPorts m.srcChip ≠ []) →
    let c := (s.cl m.cl).ctl
    let n := (c.mbTail + 2 ^ 32 - if c.mbCons then c.mbHead else ofBytes ((s.cl m.cl).sp.read c.mbBase 8) % 2 ^ 32) % 2 ^ 32
    let slot := c.mbSlot c.mbTail
    let answers (t : State) (free : Nat) (st : MailStatus) : Prop := posted t m.srcChip (.mailAck m.srcCl m.id free st)
    (s.inService m.cl = false ∨ c.mbEn = false ∨ m.cid ≠ c.mbOwner → ∃ t, exec (.mailboxEntryMsg m) s = .next t ∧ answers t 0 .disabled ∧ SameBytes s t)
    ∧ (s.inService m.cl = true → c.mbEn = true → m.cid = c.mbOwner → (c.mbCons = false → s.spPoisoned m.cl c.mbBase 8 = false) →
      (c.mbSize ≤ n → ∃ t, exec (.mailboxEntryMsg m) s = .next t ∧ answers t 0 .full ∧ SameBytes s t)
      ∧ (n < c.mbSize → m.srcChip ≠ s.dev.chip ∨ s.spBlocked m.srcCl none true m.cl slot 64 = false → c.retrainEnd = none → c.held = false →
          (∀ u, s.spPoisoned m.cl u 1 = false) →
          ∃ t, exec (.mailboxEntryMsg m) s = .next t ∧ answers t (c.mbSize - (n + 1)) .delivered ∧ (t.cl m.cl).ctl.mbTail = (c.mbTail + 1) % 2 ^ 32
            ∧ (t.cl m.cl).sp.read slot 64 = toBytes 8 (m.srcCl + m.srcChip * 2 ^ 8 + m.payload.length * 2 ^ 16 + m.tag % 2 ^ 32 * 2 ^ 32) ++ m.payload
                ++ List.replicate (56 - m.payload.length) 0
            ∧ (t.cl m.cl).sp.read (c.mbBase + 8) 8 = toBytes 8 ((c.mbTail + 1) % 2 ^ 32)
            ∧ t.mailFlight = if m.srcChip = s.dev.chip then s.mailFlight.erase m else s.mailFlight)))
  ∧ ∀ (cl id free : Nat) (s : State) (k : Cmd), s.cmd? cl id = some k → k.kind = .msend →
      (∀ st, k.started = true → k.stamp = none → (k.aux / 2 ^ 8 % 64 = s.dev.chip → s.outbox.contains (s.dev.chip, Msg.mailAck cl id free st) = true) → k.mode = .s →
        let v := (s.cl cl).a.send
        ∃ t, exec (.mailboxAckMsg cl id free st) s = .next t
          ∧ (st = .delivered → t.cmd? cl id = none ∧ (t.cl cl).a.send = { v with free := free, clu := k.aux % 256, chip := k.aux / 2 ^ 8 % 64, valid := true })
          ∧ (st = .full → t.cmd? cl id = some { k with stamp := some s.clk } ∧ (t.cl cl).a.send = v)
          ∧ (st = .disabled → t.cmd? cl id = none ∧ (t.cl cl).a.send = { v with refused := true }))
      ∧ (∀ since, k.stamp = some since → k.aux / 2 ^ 8 % 64 = s.dev.chip → s.fencedChip s.dev.chip = false →
        (s.clk < since + 256 → exec (.mailboxRetry cl id) s = .next s)
        ∧ (since + 256 ≤ s.clk → ∃ t m, exec (.mailboxRetry cl id) s = .next t ∧ t.mailFlight = s.mailFlight ++ [m] ∧ m.id = id ∧ m.srcCl = cl
            ∧ m.cl = k.aux % 256 ∧ m.payload = k.buf.read 0 k.count ∧ t.cmd? cl id = some { k with stamp := none }))

/-- R61, R63, R436, R478: an access refused with retry is translated anew and keeps its place; one refused with offline faults with kind
7; a flit that fails its check nine times poisons the unit that it carries: a command that reads it fails. R78-R81, R311: a message at an
enabled ring of its own context with room is stored at TAIL, with its header and zeros after the payload, and answered as delivered; a
full ring and a disabled one answer so; each answer does what it says to the sender; a message refused as full goes out again after 256
clk. Where the manual leaves a point open it says what the model chose (logs 46, 47). -/
def Obligations.RefusalsAndMailboxes : Prop := Clause.RefusalsAndBadFlits ∧ Clause.Mailboxes

/-! ### Tasks, nodes and pre-emption (R177-R180, R196-R204, R391-R429) -/

/-- R196-R201, R422-R428: a request makes the cluster halt: an A-core in mode T that issues is stopped at its next boundary (see
StepRunsDecoded), one that does not is frozen at once, and in mode S PREEMPT is set; the X-core halts at its halt point with a usable
table, and what an XSEMP that it stops has taken goes back; the save appends the suspension record to the node and frees the cluster; the
resume restores what the record holds: registers, tiles, queues, landings, latches, weights, scale queue, records, accumulators, the saved
ranges of scratchpad and towers, and buffer entries that named the old position of the quad name the new one. Where the manual leaves a
point open it says what the model chose (logs 38, 40, 60, 79, 83, 107). -/
def Obligations.Preemption : Prop :=
  ∀ (cl : Nat) (s : State),
    let c := s.cl cl
    (c.ctl.occ = .running → c.x.trap = none → (∃ p ∈ s.disp.pending, p.1 = cl) →
      ∃ t, exec (.preemptRequest cl) s = .next t ∧ (t.cl cl).ctl.occ = .halting ∧ (t.cl cl).ctl.preempt = true ∧ (∀ p ∈ t.disp.pending, p.1 ≠ cl)
        ∧ (c.a.mode = .t → c.a.run = .run → (t.cl cl).a = c.a)
        ∧ (c.a.mode = .t → c.a.run ≠ .run → (t.cl cl).a.run = .frozen ∧ (t.cl cl).a.pc = c.a.pc)
        ∧ (c.a.mode = .s → (t.cl cl).a.run = c.a.run ∧ (t.cl cl).a.pend = c.a.pend ||| 4) ∧ SameBytes s t)
    ∧ (∀ fr fin a v u, s.halting cl = true → c.a.run = .frozen → c.x.trap = none → c.x.haltPoint = some (fr, fin) → c.vigilSame = true → c.x.ckpt = some a →
        s.tabRead cl a = .got v u → tabUsable v = true →
        ∃ t, exec (.xHalt cl) s = .next t ∧ (t.cl cl).x.run = .halted fr fin v ∧ (t.cl cl).x.freeze = none ∧ (t.cl cl).ctl.occ = .saving
          ∧ (∀ k, (u.cl cl).x.semGot = some k → (t.cl cl).x.semGot = none ∧ t.sem cl k = u.sem cl k + 1)
          ∧ (t.cl cl).x.t = (u.cl cl).x.t ∧ (t.cl cl).x.land = (u.cl cl).x.land ∧ SameBytes u t)
    ∧ (∀ fr fin v n, c.x.run = .halted fr fin v → c.ctl.occ = .saving → c.a.due = none → s.accsSaved cl = true → c.arr.passes = [] → c.arr.drain = none → (∀ k ∈ s.taskCmds cl, k.savedAfter cl = false) →
        s.node? c.ctl.node = some n → n.failing = 0 →
        ∃ t m, exec (.suspensionSave cl true) s = .next t ∧ t.node? c.ctl.node = some m ∧ m.susp = n.susp ++ [(s.landRows cl).suspension cl fr v]
          ∧ (t.cl cl).ctl.occ = .free ∧ (t.cl cl).a.run = .idle ∧ (t.cl cl).x.run = .idle)
    ∧ (∀ n r fr fin v, c.ctl.occ = .restoring → s.node? c.ctl.node = some n → n.susp.find? (fun r => r.task == c.ctl.task) = some r →
        r.x.run = .halted fr fin v → (∀ q ∈ r.arr.arrayE, q.failed = false) →
        ∃ t, exec (.taskResume cl) s = .next t ∧
          let d := t.cl cl
          let q := quadOf cl
          let at_ (k a : Nat) : Nat := c.twAddr k a
          d.ctl.occ = .running ∧ d.a.mode = .t ∧ d.a.run = .run ∧ d.a.pc = r.a.pc ∧ d.a.g = r.a.g ∧ d.a.sems = r.a.sems ∧ d.a.wins = r.a.wins
            ∧ d.x.run = (if fin then .ended else .run) ∧ d.x.pc = r.x.pc ∧ d.x.x = r.x.x ∧ d.x.t = r.x.t ∧ d.x.k = r.x.k ∧ d.x.vcyc = r.x.vcyc
            ∧ d.x.land = r.x.land ∧ d.x.lc = r.x.lc ∧ d.x.ec = r.x.ec ∧ d.x.rb = r.x.rb ∧ d.x.ls = r.x.ls ∧ d.x.xfp = r.x.xfp
            ∧ d.x.indep = r.x.indep ∧ d.x.spc = r.x.spc ∧ d.x.joins = r.x.joins ∧ d.x.latchN = r.x.latchN ∧ d.x.latchS = r.x.latchS
            ∧ d.x.sq = r.x.sq ∧ d.x.pack = r.x.pack ∧ d.x.dq = r.x.dq ∧ d.x.hq = r.x.hq
            ∧ (∀ k, (NMap.get [] d.x.lq k).map (fun l => (l.ready, l.tile, l.poison)) = (NMap.get [] r.x.lq k).map fun l => (l.ready, l.tile, l.poison))
            ∧ d.a.send = r.a.send ∧ d.a.growCount = r.a.growCount ∧ d.a.l1 = [] ∧ d.a.icache = []
            ∧ d.arr.active = r.arr.active ∧ d.arr.shadow = r.arr.shadow ∧ d.arr.scaleQ = r.arr.scaleQ ∧ d.arr.recQ = r.arr.recQ
            ∧ d.arr.arrayE = r.arr.arrayE ∧ d.arr.loaderE = r.arr.loaderE ∧ d.arr.pusherE = r.arr.pusherE ∧ d.arr.nestE = r.arr.nestE
            ∧ d.arr.acc = (if v.testBit 94 then r.arr.acc else c.arr.acc)
            ∧ d.ctl.mbox = r.mbox ∧ d.ctl.mbHead = r.mbHead ∧ d.ctl.mbTail = r.mbTail ∧ d.ctl.mbPos = r.mbPos
            ∧ (c.sp.wf = true → r.sp.wf = true → (∀ e ∈ r.sp, inRanges (tabSp v) e.1 = true) →
                ∀ a, d.sp.byte a = if inRanges (tabSp v) a then r.sp.byte a else c.sp.byte a)
            ∧ (c.tw.wf = true → r.tw.wf = true → (∀ e ∈ r.tw, inRanges (imageRanges v) e.1 = true) → (∀ x ∈ tabTw v, x.1 + x.2 ≤ 2 ^ 18) →
                (∀ k < 64, ∀ b < 16, c.ctl.twSelOf k b ≠ 3 ∧ ∀ b' < 16, b' ≠ b → twBankOf b' (c.ctl.twSelOf k b') ≠ twBankOf b (c.ctl.twSelOf k b)) →
                ∀ k < 64, ∀ a < 2 ^ 18, d.tw.byte (at_ k a) = if inRanges (tabTw v) a then r.tw.byte (k * 2 ^ 18 + a) else c.tw.byte (at_ k a))
            ∧ ((s.ctx c.ctl.cid).savedBufs = [] → r.bufs = [] →
                (q ≠ quadOf r.cl → t.bufs = s.bufs)
                ∧ (q = quadOf r.cl → ∀ i < 64, t.buf q i =
                    let b := s.buf q i
                    if b.st = 0 then b else if b.who = quadPos r.cl then { b with who := quadPos cl }
                    else if b.who = quadPos cl then { b with who := quadPos r.cl } else b)))

/-- A task has been aborted (R420): both cores of its cluster are idle with nothing in flight, its records are gone, none of its commands
is left on any cluster, and no store that had not left its queue. -/
def aborted (s t : State) (cl : Nat) : Prop :=
  let c := s.cl cl
  let d := t.cl cl
  d.ctl.occ = .free ∧ d.a.run = .idle ∧ d.a.loads = [] ∧ d.x.run = .idle ∧ d.x.land = [] ∧ d.x.trap = none ∧ d.arr.recs = [] ∧ d.arr.passes = []
    ∧ (∀ n, ∀ k ∈ (t.cl n).a.cmds, ¬ (k.mode = .t ∧ k.node = c.ctl.node ∧ k.task = c.ctl.task))
    ∧ (∀ l ∈ d.a.stores, ∃ m ∈ c.a.stores, m.seq = l.seq ∧ (m.late ≠ none ∨ m.cid = 0 ∨ (m.left = true ∧ l.orphan = true)))
    ∧ (c.arr.drain = none → SameBytes s t)

/-- R28, R175-R180, R397-R408, R420, R421, R433, R441: the first placeable task goes to its cluster, which is cleared for a new context:
scratchpad, towers, accumulators, tiles, predicates, queues and semaphores; an urgent task without room names a victim; a start sets
registers 1 and 2 and both entries; a retirement frees the cluster; a completion record goes to the ring of its queue. A task that halts
without a live-range table is aborted and pending again; so is one whose end the Vigil core does not match, with its count one higher, and
at the limit its context is aborted: every task of the context on the chip with it. Where the manual leaves a point open it says what the
model chose (logs 57, 58, 60, 68). -/
def Obligations.TasksOnClusters : Prop :=
  (∀ (s : State) (e t k : Nat) (n : Node), s.firstPlaceable s.serviceOrder = some (e, n, t, k) → s.disp.upre = false →
    s.disp.preempts = s.inFlight → (∀ p ∈ s.serviceOrder, s.descBad p.2.cid = false) →
    ∃ u, exec .taskPlacement s = .next u ∧
      let c := u.cl k
      c.ctl.occ = (if n.susp.any (fun r => r.task == t) then .restoring else .placed) ∧ c.ctl.cid = n.cid ∧ c.ctl.node = e ∧ c.ctl.task = t
        ∧ c.ctl.placedAt = s.gtc ∧ c.a.pend = (s.cl k).a.pend ||| 2
        ∧ c.ctl.dataCid = some n.cid
        ∧ ((s.cl k).ctl.dataCid ≠ some n.cid →
            (∀ a, c.sp.byte a = 0) ∧ (∀ a, NMap.get 0 c.arr.acc a = 0) ∧ c.x.t = [] ∧ c.x.k = [] ∧ c.x.lq = [] ∧ c.x.sq = [] ∧ c.x.pack = []
              ∧ c.x.dq = [] ∧ c.x.hq = [] ∧ (∀ i, u.sem k i = 0)
              ∧ (∀ g a, c.ctl.twSelOf g (a / 2 ^ 14) ≠ 3 → g < 64 → a < 2 ^ 18 → c.tw.byte (c.twAddr g a) = 0)
              ∧ ∀ g a, u.spPoisoned k a 1 = false ∧ u.twPoisoned k g a 1 = false)
        ∧ ((s.cl k).ctl.dataCid = some n.cid → ∀ a, c.sp.byte a = (s.cl k).sp.byte a))
  ∧ (∀ (s : State) (e t v : Nat), s.firstPlaceable s.serviceOrder = none → s.disp.upre = true →
      s.disp.preempts = s.inFlight → (∀ p ∈ s.serviceOrder, s.descBad p.2.cid = false) → s.urgentTask s.serviceOrder = some (e, t, v) →
      ∃ u, exec .taskPlacement s = .next u ∧ u.disp.preempts = s.disp.preempts ++ [(e, t, v)] ∧ (∃ p ∈ u.disp.pending, p.1 = v))
  ∧ (∀ (cl : Nat) (s : State) (n : Node), (s.cl cl).ctl.occ = .placed → s.node? (s.cl cl).ctl.node = some n →
      ∃ t, exec (.taskStart cl) s = .next t ∧
        let c := t.cl cl
        let r (i : Nat) : W64 := if i = 1 then BitVec.ofNat 64 n.arg0 else if i = 2 then BitVec.ofNat 64 n.arg1 else 0
        c.ctl.occ = .running ∧ c.a.mode = .t ∧ c.a.run = .run ∧ c.x.run = .run ∧ c.a.pc = BitVec.ofNat 64 (s.cl cl).ctl.aentry
          ∧ c.x.pc = (s.cl cl).ctl.xentry ∧ (∀ i : BitVec 6, c.a.reg i = r i.toNat) ∧ (∀ i, c.x.xreg i = r i)
          ∧ c.x.lc = 0 ∧ c.x.rb = 0 ∧ c.x.vcyc = 0 ∧ c.sp = (s.cl cl).sp ∧ c.tw = (s.cl cl).tw
          ∧ c.ctl.ranCid = (s.cl cl).ctl.cid ∧ ∀ q ∈ t.pePoison, q.1 ≠ s.phys cl)
  ∧ (∀ (cl : Nat) (s : State), (s.cl cl).ctl.occ = .running → s.taskOver cl = true →
      (∃ t, exec (.taskRetire cl true) s = .next t ∧ (t.cl cl).ctl.occ = .free ∧ (t.cl cl).a.run = .idle ∧ (t.cl cl).x.run = .idle)
      ∧ ∀ n, s.node? (s.cl cl).ctl.node = some n → n.failing = 0 → (∀ r ∈ n.susp, r.task ≠ (s.cl cl).ctl.task) →
          s.runsOn (s.cl cl).ctl.node (s.cl cl).ctl.task = some cl →
          ∃ t, exec (.taskRetire cl false) s = .next t ∧
            let k := NMap.get 0 n.rung4 (s.cl cl).ctl.task + 1
            let cid := (s.cl cl).ctl.cid
            (t.cl cl).ctl.occ = .free
            ∧ (k < s.dev.taskLimit → aborted s t cl ∧ ∃ m, t.node? (s.cl cl).ctl.node = some m ∧ NMap.get 0 m.rung4 (s.cl cl).ctl.task = k
                ∧ m.requeued = n.requeued ++ [(s.cl cl).ctl.task])
            ∧ (s.dev.taskLimit ≤ k → (t.ctx cid).aborted = true ∧ (∃ r ∈ t.rel.history, r.event = 0x0B ∧ r.cid = cid)
                ∧ (∀ m < 192, (t.cl m).ctl.cid = cid → (t.cl m).ctl.occ = .free)
                ∧ ∀ e m, t.node? e = some m → m.cid = cid → m.susp = []))
  ∧ (∀ (cl : Nat) (s : State) (n : Node) (p : Bool × Bool), s.halting cl = true → (s.cl cl).a.run = .frozen → (s.cl cl).x.trap = none →
      (s.cl cl).x.haltPoint = some p → (s.cl cl).vigilSame = true → (s.cl cl).x.ckpt = none → (s.cl cl).ctl.occ = .halting →
      s.node? (s.cl cl).ctl.node = some n → n.failing = 0 → (∀ r ∈ n.susp, r.task ≠ (s.cl cl).ctl.task) →
      ∃ t m, exec (.xHalt cl) s = .next t ∧ aborted s t cl ∧ t.node? (s.cl cl).ctl.node = some m
        ∧ m.requeued = n.requeued ++ [(s.cl cl).ctl.task])
  ∧ ∀ (node status : Nat) (s : State) (n : Node), s.node? node = some n → s.nodeOver node n = some status →
      (n.origin ≠ s.dev.chip → exec (.completionRecordWrite node) s =
        .next (((s.send n.origin (.report n.originId n.retired (status != 0) false)).freeNode node).wakeNodes))
      ∧ (n.origin = s.dev.chip →
          let q := s.queue n.queue
          let next := (q.ctail + 1) % 2 ^ q.plog
          q.en = true → next ≠ q.chead →
          (∀ p ∈ s.nodeList, p.1 = node ∨ p.2.queue ≠ n.queue ∨ n.order ≤ p.2.order ∨ n.finishedAt ≤ p.2.finishedAt) →
          ∃ t, exec (.completionRecordWrite node) s = .next t ∧ t.queue n.queue = { q with ctail := next }
            ∧ t.hostMem = (s.hostMem.write (q.pbase + 32 * q.ctail) (recordBytes n.originId n status)).writeN
                (q.cwb.toNat / 2 ^ 3 % 2 ^ 39 * 8) 8 next)

/-- R203, R204, R395, R408, R409, R411: READY and START, the barrier's instant and its one repetition, a node forwarded to a replica,
which takes its place in the host queue of the same number, a replica's report, and the replacement of a node's entries from its instant
on. Where the manual leaves a point open it says what the model chose (log 57). -/
def Obligations.NodesAcrossChips : Prop :=
  (∀ (node chip e : Nat) (s : State) (n : Node), s.entryOf node = some e → s.node? e = some n →
    let m := n.readyMask ||| chipBit chip
    ∃ t k, exec (.readyMsg node chip) s = .next t ∧ t.node? e = some k ∧ k.readyMask = m
      ∧ (m &&& n.chipmask = n.chipmask → n.started = false → n.st = .barrier → k.started = true ∧ k.ts = s.gtc + 50000)
      ∧ (m &&& n.chipmask ≠ n.chipmask → k = { n with readyMask := m }))
  ∧ (∀ (node g ts e : Nat) (s : State) (n : Node), s.replicaOf (g / 2 ^ 26 % 64) node = some e → s.node? e = some n → n.st = .barrier →
      (ts < s.gtc + 1000 → exec (.startMsg node g ts) s = .next (s.send (g / 2 ^ 26 % 64) (.startRefused node)))
      ∧ (s.gtc + 1000 ≤ ts → ∃ t, exec (.startMsg node g ts) s = .next t ∧ t.node? e = some { n with gen := g, ts := ts, started := true }))
  ∧ (∀ (node : Nat) (s : State) (n : Node), s.node? node = some n → n.st = .barrier → n.started = true → n.failing = 0 →
      (n.ts ≤ s.gtc → ∃ t k, exec (.startInstant node) s = .next t ∧ t.node? node = some k ∧ k.st = .ready ∧ t.disp.pool = s.disp.pool ++ [node])
      ∧ (s.gtc < n.ts → exec (.startInstant node) s = .next s))
  ∧ (∀ (node chip e : Nat) (s : State) (n : Node), s.entryOf node = some e → s.node? e = some n → n.chipmask.getLsbD chip = true → n.st = .barrier →
      (n.refusals = 0 → ∃ t k, exec (.startRefusalMsg node chip) s = .next t ∧ t.node? e = some k ∧ k.refusals = 1 ∧ k.ts = s.gtc + 100000)
      ∧ (n.refusals ≠ 0 → n.failing = 0 → exec (.startRefusalMsg node chip) s = .next (s.failNode e 0x52)
          ∧ ∃ k, (s.fail1 e 0x52).node? e = some k ∧ k.failing = 0x52))
  ∧ (∀ (src node q : Nat) (desc : List Nat) (s : State), s.replicaOf src node = none → (s.queue q).fwds = [] →
      let v := s.queue q
      let held := { v with fwds := [{ mark := v.tail, src := src, id := node, desc := ofDwords desc, repls := [] }] }
      let accepted := (s.setQueue q held).acceptNode (ofDwords desc) q src node
      (v.en = false ∨ v.tail = v.head → ∀ id t e n, accepted = some (id, t) → (t.setQueue q { t.queue q with fwds := [] }).replicaOf src node = some e →
        t.node? e = some n → n.repls = [] →
        exec (.nodeForwardMsg src node q desc) s =
          .next ((((t.setQueue q { t.queue q with fwds := [] }).onNode e fun n => { n with repls := [] }).wakeNodes).failFenced e))
      ∧ (accepted = none → ∃ t, exec (.nodeForwardMsg src node q desc) s = .next t ∧ t.queue q = held ∧ t.disp = s.disp)
      ∧ (v.en = true → v.tail ≠ v.head → ∃ t, exec (.nodeForwardMsg src node q desc) s = .next t ∧ t.queue q = held ∧ t.disp = s.disp))
  ∧ (∀ (node chip tasks e : Nat) (s : State) (n : Node), s.entryOf node = some e → s.node? e = some n → n.origin = s.dev.chip →
      n.chipmask.getLsbD chip = true → n.reports.getLsbD chip = false →
      let u := s.onNode e fun n => { n with reports := n.reports ||| chipBit chip, reportTasks := n.reportTasks + tasks }
      exec (.replicaReportMsg node chip tasks .done) s = .next (u.completeNode e)
        ∧ exec (.replicaReportMsg node chip tasks .failed) s = .next (u.failNode e 0x55)
        ∧ u.node? e = some { n with reports := n.reports ||| chipBit chip, reportTasks := n.reportTasks + tasks })
  ∧ (∀ (node chip tasks e : Nat) (s : State), s.replicaOf chip node = some e →
      exec (.replicaReportMsg node chip tasks (.origin true)) s = .next (s.failNode e 0x55))
  ∧ (∀ (src node tr a x e : Nat) (s : State) (n : Node), s.replicaOf src node = some e → s.node? e = some n →
      ∃ t, exec (.replacementInstantMsg ⟨src, node⟩ tr a x) s = .next t ∧ t.node? e = some { n with repls := n.repls ++ [(tr, a, x)] })
  ∧ (∀ (src node tr a x q : Nat) (s : State), s.replicaOf src node = none →
      ∃ t, exec (.replacementInstantMsg ⟨src, node⟩ tr a x) s = .next t
        ∧ (t.queue q).fwds = (s.queue q).fwds.map fun f => if f.src = src ∧ f.id = node then { f with repls := f.repls ++ [(tr, a, x)] } else f)
  ∧ ∀ (node tr a x : Nat) (s : State) (n : Node), s.node? node = some n → n.repls = [(tr, a, x)] →
      ∃ t, exec (.replacementInstant node) s = .next t
        ∧ t.node? node = some (if tr ≤ s.gtc then { n with aentry := a, xentry := x, repls := [] } else n)

/-! ### Reports, invalidations, migrations and upkeep (R51-R63, R85-R94, R435-R450, R473-R477) -/

/-- R53-R55, R440-R448, R462: the timer closes a batch, and a closed batch goes whole into the fault ring; a record that reaches the
engine is held, leaves it 4 us after its stamp, is written at HEAD or dropped at a full ring, and goes on to the event ring from rung 4
on. Where the manual leaves a point open it says what the model chose (logs 65, 69, 70, 71). -/
def Obligations.Reports : Prop :=
  (∀ (cid : Nat) (s : State), (s.ctx cid).openedAt + s.desc cid / 2 ^ 320 % 2 ^ 16 * 100 ≤ s.gtc → (s.ctx cid).recs ≠ [] → s.descBad cid = false →
    let c := s.ctx cid
    let b : Batch := { coarse := false, bseq := c.bseq, nrec := Nat.min 65535 c.recs.length, gtc := s.gtc, ranges := rangesOf c.recs }
    ∃ t, exec (.faultBatchTimerExpiry cid) s = .next t ∧ (t.ctx cid).recs = [] ∧ (t.ctx cid).bseq = (c.bseq + 1) % 2 ^ 32
      ∧ (c.held.length < 256 → (t.ctx cid).held = c.held ++ [b]))
  ∧ (∀ (cid : Nat) (s : State) (b : Batch) (bs : List Batch), (s.ctx cid).held = b :: bs → s.host.fcfg.getLsbD 4 = true →
      b.ranges.length < ringFree s.host.fsize s.host.fhead s.host.ftail →
      ∃ t, exec (.faultRingWrite cid) s = .next t ∧ (t.ctx cid).held = bs ∧ t.host.ftail = (s.host.ftail + b.ranges.length + 1) % 65536
        ∧ t.host.msix = s.host.msix ++ [64]
        ∧ t.hostMem = ringPut 32 (s.host.fcfg.toNat / 2 ^ 12 % 2 ^ 30 * 4096) s.host.fsize s.hostMem s.host.ftail
            (b.header cid :: b.ranges.map fun f => f.bytes cid))
  ∧ (∀ (r : ErrRec) (s : State), s.recordOk r = true →
      (0x1000 ≤ r.src → r.src < 0x2000 → s.noSpare (clCol (r.src / 16 - 0x100)) = false) →
      ∃ t, exec (.errorRecordDelivery r) s = .next t ∧ r ∈ t.rel.history
        ∧ ∃ h ∈ t.rel.held, h.src = r.src ∧ h.event = r.event ∧ h.addr = r.addr ∧ h.gtc ≤ r.gtc)
  ∧ (∀ (s : State) (r : ErrRec), firstRec s.rel.held = some r → r.gtc + 4000 ≤ s.gtc →
      let d := s.dev
      let a := d.erAddr + 64 * d.erHead
      let passed (t : State) : Prop := t.rel.held = s.rel.held.erase r ∧ (5 ≤ r.rung → r ∈ t.rel.samLog) ∧ (4 ≤ r.rung → r ∈ t.rel.evHold)
        ∧ (r.rung = 7 → t.host.msix = s.host.msix ++ [66])
      (d.erEn = false ∨ (d.erHead + 1) % d.erSize = d.erTail →
        ∃ t, exec .errorRingWrite s = .next t ∧ passed t ∧ t.dev.erOvf = true ∧ t.dev.erDrops = Nat.min 65535 (d.erDrops + 1)
          ∧ t.dev.erHead = d.erHead ∧ SameBytes s t)
      ∧ (d.erEn = true → (d.erHead + 1) % d.erSize ≠ d.erTail → s.channelFailed a = false →
        ∃ t, exec .errorRingWrite s = .next t ∧ passed t ∧ t.dev.erHead = (d.erHead + 1) % d.erSize ∧ t.dev.erTail = d.erTail
          ∧ t.hbm.read a 64 = recBytes r ∧ ∀ b, b < a ∨ a + 64 ≤ b → t.hbm.byte b = s.hbm.byte b))
  ∧ ∀ (s : State), s.host.ecfg.getLsbD 4 = true → 1 ≤ ringFree s.host.esize s.host.ehead s.host.etail →
      let put (t : State) (r : ErrRec) : Prop := t.host.etail = (s.host.etail + 1) % 65536 ∧ t.host.msix = s.host.msix ++ [65]
        ∧ t.hostMem = s.hostMem.write (s.host.ecfg.toNat / 2 ^ 12 % 2 ^ 30 * 4096 + 64 * (s.host.etail % s.host.esize)) (recBytes r)
      (∀ r rs, s.rel.evWait = r :: rs → ∃ t, exec .eventRingWrite s = .next t ∧ put t r ∧ t.rel.evWait = rs ∧ t.rel.evHold = s.rel.evHold)
      ∧ ∀ r rs, s.rel.evWait = [] → s.rel.evHold = r :: rs → ∃ t, exec .eventRingWrite s = .next t ∧ put t r ∧ t.rel.evHold = rs

/-- R57-R59, R61-R64: a shoot-down that arrives drops its translations; acknowledgements join their masks; a timeout marks the second
sending, and a second one fences the chips that are missing; MG is set in every leaf of the mapper list before the first copy round; a
round goes on to the next, or to the flip, whose shoot-down begins once every leaf is rewritten and which ends with the page in service
again or offline. Where the manual leaves a point open it says what the model chose (logs 15, 24, 67). -/
def Obligations.ShootDownsAndMigrations : Prop :=
  (∀ (src id : Nat) (scope : ShootScope) (s : State), s.fencedChip src = false →
    ∃ t x, exec (.shootDownMsg src id scope) s = .next t ∧ t.shoot? id = some x ∧ x.scope = scope ∧ x.owner = .peer src ∧ x.mask = 0
      ∧ x.num = s.nextMsg ∧ t.llt = (s.dropTranslations scope).llt ∧ t.walkCache = (s.dropTranslations scope).walkCache
      ∧ ∀ n, (t.cl n).a.tlb = ((s.dropTranslations scope).cl n).a.tlb)
  ∧ (∀ (id count : Nat) (mask : BitVec 64) (s : State) (x : Shoot), s.shoot? id = some x →
      (count = popc mask.toNat 64 → ∃ t, exec (.shootDownAckMsg id count mask) s = .next t ∧ t.shoot? id = some { x with mask := x.mask ||| mask })
      ∧ (count ≠ popc mask.toNat 64 → exec (.shootDownAckMsg id count mask) s = .next s))
  ∧ (∀ (id : Nat) (s : State) (x : Shoot), s.shoot? id = some x → x.rooted = true → s.missing x ≠ 0 → x.sentAt + s.dev.sdtmoNs ≤ s.gtc →
      (x.resent = false → ∃ t, exec (.shootDownTimeout id) s = .next t ∧ t.shoot? id = some { x with resent := true, sentAt := s.gtc })
      ∧ (x.resent = true → exec (.shootDownTimeout id) s = .next s
          ∧ exec (.chipFence id) s = .next ((s.setShoot { x with fencedMask := x.fencedMask ||| s.missing x }).fenceAll (s.missing x))))
  ∧ (∀ (chip : Nat) (s : State), chip < 64 → chip ≠ s.dev.chip →
      ∃ t, exec (.fenceNoticeMsg chip) s = .next t ∧ t.dev.fenced = s.dev.fenced ||| chipBit chip)
  ∧ (∀ (page : Nat) (s : State) (m : Mig) (dirty : List Nat), s.mig? page = some m → s.pageSt page = .copying dirty →
      (s.mappersDone page = false → exec (.migrationCopyRound page) s = .next (s.tryMappers m State.markMapper))
      ∧ (s.mappersDone page = true → m.round = 0 ∨ (8 < dirty.length ∧ m.round < 4) →
        ∃ t, exec (.migrationCopyRound page) s = .next t ∧ t.mig? page = some { m with round := m.round + 1, todo := dirty }
          ∧ t.pageSt page = .copying []
          ∧ (s.hbmPoison = [] → s.chanFailed = [] → m.src ≠ m.dst → (∀ k ∈ m.todo, k < 256) → ∀ k ∈ m.todo, ∀ b < 256,
              t.hbm.byte (m.dst * 65536 + 256 * k + b) = s.hbm.byte (m.src * 65536 + 256 * k + b)))
      ∧ (s.mappersDone page = true → 1 ≤ m.round → dirty.length ≤ 8 ∨ 4 ≤ m.round →
        ∃ t, exec (.migrationCopyRound page) s = .next t ∧ t = (s.copySectors m.src m.dst m.todo).flip m dirty))
  ∧ (∀ (page : Nat) (s : State) (m : Mig), s.mig? page = some m → s.shoots.find? (fun x => x.owner == .flip page) = none →
      s.pageSt page = .flipping → exec (.migrationFlipEnd page) s = .next ((s.tryMappers m State.rewriteMapper).flipShoot page))
  ∧ ∀ (page : Nat) (s : State) (m : Mig) (x : Shoot), s.mig? page = some m → s.shoots.find? (fun x => x.owner == .flip page) = some x →
      s.shootDone x = true → m.src ≠ m.dst →
      ∃ t, exec (.migrationFlipEnd page) s = .next t ∧ t.pageSt m.src = (if m.retire then .offline else .inService) ∧ t.pageSt m.dst = .inService
        ∧ t.mig? page = none ∧ t.flash.retired = s.flash.retired ++ (if m.retire then [page] else []) ∧ SameBytes s t

/-- R89-R94, R473-R477: an idle tower bank sleeps; a refresh starts at its due time, but after an access that waits for a sleeping bank of
it, and ends with the next; the temperature sets HOT; a failing bank moves to a spare with its bytes; an interval sets the grants; a
retraining starts when due and lasts 1.6 us. Where the manual leaves a point open it says what the model chose (logs 64, 66, 108). -/
def Obligations.Upkeep : Prop :=
  ∀ (cl cell bank : Nat) (s : State), cell < 64 → bank < 16 →
    let c := (s.cl cl).ctl
    (NMap.get false c.refreshing bank = false → NMap.get 0 c.lastAcc (16 * cell + bank) + 2048 ≤ s.clk →
      ∃ t, exec (.retentionSleepEntry cl cell bank) s = .next t ∧ (t.cl cl).ctl.bankAsleep (16 * cell + bank) = true ∧ SameBytes s t)
    ∧ (NMap.get false c.refreshing bank = false →
        Nat.min (c.dueOf bank) (NMap.get 0 c.refreshedAt bank + (s.dev.ivl + s.dev.maxDef) * 10 ^ 8) ≤ s.gtc →
        (∀ k ∈ (s.cl cl).x.banksAt ((s.cl cl).x.vcyc + 1), k % 16 ≠ bank) →
        ∃ t, exec (.almanacRefreshDue cl bank) s = .next t ∧ NMap.get false (t.cl cl).ctl.refreshing bank = true ∧ SameBytes s t)
    ∧ ((s.cl cl).x.freeze = some .tower → (∃ k ∈ (s.cl cl).x.banksAt ((s.cl cl).x.vcyc + 1), k % 16 = bank ∧ c.bankAsleep k = true) →
        exec (.almanacRefreshDue cl bank) s = .next s)
    ∧ (NMap.get false c.refreshing bank = true →
        ∃ t, exec (.almanacRefreshEnd cl bank) s = .next t ∧ NMap.get false (t.cl cl).ctl.refreshing bank = false
          ∧ (t.cl cl).ctl.dueOf bank = s.gtc + s.dev.ivl * 10 ^ 8 ∧ SameBytes s t)
    ∧ (∀ hot, ∃ t, exec (.junctionTemperatureChange hot) s = .next t ∧ t.dev.hot = hot ∧ t.dev.alm = s.dev.alm ∧ SameBytes s t)
    ∧ (∀ sel bad, s.inService cl = true →
        let w := (NMap.get 0 c.remap cell).toNat
        ((s.cl cl).drained = false → ∃ t, exec (.towerRemap cl cell bank sel bad) s = .next t ∧ (t.cl cl).ctl.held = true ∧ (cl, cell, bank) ∈ t.rel.remaps)
        ∧ ((s.cl cl).drained = true → spareFree w 1 = false → spareFree w 2 = false →
            ∃ t, exec (.towerRemap cl cell bank sel bad) s = .next t ∧ (NMap.get 0 (t.cl cl).ctl.remap cell).getLsbD 50 = true)
        ∧ ((s.cl cl).drained = true → sel = 1 ∨ sel = 2 → spareFree w sel = true → NMap.get false c.refreshing bank = false →
            (s.cl cl).tw.wf = true →
            ∃ t, exec (.towerRemap cl cell bank sel bad) s = .next t ∧ (t.cl cl).ctl.twSelOf cell bank = sel
              ∧ ∀ i < 16384, (t.cl cl).tw.byte ((t.cl cl).twAddr cell (bank * 16384 + i))
                  = (s.cl cl).tw.byte ((s.cl cl).twAddr cell (bank * 16384 + i))))
    ∧ (∀ grants, s.dev.ready = true → s.dev.bootedAt + 1000 * (s.dev.intervals + 1) ≤ s.gtc →
        let spent := s.packageEnergy (fun n => (s.cl n).ctl.usedNow) s.dev.intervals
        let after : State := { s with dev := { s.dev with intervals := s.dev.intervals + 1, spent := (spent :: s.dev.spent).take 999999 } }
        let asked (n : Nat) : Nat := Nat.max 64 (Nat.min 1250 (grants.getD n 1250))
        ∃ t, exec (.powerInterval grants) s = .next t ∧ t.dev.intervals = s.dev.intervals + 1 ∧ t.dev.spent = after.dev.spent ∧ SameBytes s t
          ∧ ((∀ n < 192, s.inService n = true → (t.cl n).ctl.grant = asked n) ∨ ∀ n < 192, s.inService n = true → (t.cl n).ctl.grant = 64)
          ∧ (after.powerOk asked = true → ∀ n < 192, s.inService n = true → (t.cl n).ctl.grant = asked n)
          ∧ ∀ n < 192, s.inService n = true → (t.cl n).ctl.used = (s.cl n).ctl.usedNow ∧ (t.cl n).ctl.usedNow = 0
            ∧ (t.cl n).ctl.pwgrant t.dev.intervals / 2 ^ 32 = (s.dev.intervals + 1) % 2 ^ 32)
    ∧ (c.retrainEnd = none →
        (s.retrainAt cl ≤ s.gtc → s.awaited cl = false →
          ∃ t, exec (.retrainingDue cl) s = .next t ∧ (t.cl cl).ctl.retrainEnd = some (s.gtc + 1600) ∧ SameBytes s t)
        ∧ (s.retrainAt cl + 200000 ≤ s.gtc →
          ∃ t, exec (.retrainingForced cl) s = .next t ∧ (t.cl cl).ctl.retrainEnd = some (s.gtc + 1600) ∧ SameBytes s t))
    ∧ ∀ e, c.retrainEnd = some e → e ≤ s.gtc →
        ∃ t, exec (.retrainingEnd cl) s = .next t ∧ (t.cl cl).ctl.retrainEnd = none ∧ (t.cl cl).ctl.retrainDue = s.gtc + 10 ^ 9 ∧ SameBytes s t

/-- R115, R434-R441, R449-R451: a scrubber's read of a unit writes nothing, logs what it corrects and poisons what it cannot, but a PE
register corrects nothing, and an L1 line with an error is dropped; its write-back stores the corrected bytes unless overtaken or its
channel has failed, which is logged; a channel fails; a cluster that reaches a threshold is held or, without a spare, removed, and its
task is aborted and requeued if it has not halted in 625 clk; a held cluster moves to the free row once no held cluster awaits a tower
remap, and with all moves made the row is retired. Where the manual leaves a point open it says what the model chose (logs 11, 34, 36, 37,
65). -/
def Obligations.RepairOfMemoryAndClusters : Prop :=
  (∀ (u : MemUnit) (s : State), s.unitOk u = true →
    (∃ t, exec (.scrubRead u .clean) s = .next t ∧ SameBytes s t ∧ t.hbmPoison = s.hbmPoison ∧ t.spPoison = s.spPoison)
    ∧ (∀ c e, u = .pe c e → exec (.scrubRead u .corrected) s = .next s)
    ∧ ((∀ c e, u ≠ .pe c e) → ∃ t, exec (.scrubRead u .corrected) s = .next t ∧ SameBytes s t ∧ t.hbmPoison = s.hbmPoison ∧ t.spPoison = s.spPoison
        ∧ ∃ r ∈ t.rel.history, r.rung = 1 ∧ r.event = 1 ∧ r.gtc = s.gtc ∧ r.src = s.unitSrc u ∧ r.addr = unitAddr u)
    ∧ (∀ c a, u = .l1 c a → ∃ t, exec (.scrubRead u .uncorrectable) s = .next t ∧ SameBytes s t
        ∧ (t.cl c).a.l1 = ((s.cl c).a.l1.filter fun l => l.addr != 64 * a)
        ∧ ∃ r ∈ t.rel.history, r.rung = 1 ∧ r.event = 1 ∧ r.gtc = s.gtc ∧ r.src = s.unitSrc u ∧ r.addr = unitAddr u)
    ∧ ((∀ c w, u ≠ .file c w) → (∀ c a, u ≠ .l1 c a) → ∃ t, exec (.scrubRead u .uncorrectable) s = .next t ∧ SameBytes s t
        ∧ (∃ r ∈ t.rel.history, r.rung = 2 ∧ r.event = 2 ∧ r.gtc = s.gtc ∧ r.src = s.unitSrc u ∧ r.addr = unitAddr u)
        ∧ (∀ n, u = .hbm n → n ∈ t.hbmPoison) ∧ (∀ c g, u = .sp c g → (s.phys c, g) ∈ t.spPoison)
        ∧ (∀ c k n, u = .tw c k n → (s.phys c, (s.cl c).twAddr k (64 * n) / 64) ∈ t.twPoison)
        ∧ (∀ c e, u = .acc c e → (s.phys c, e) ∈ t.accPoison) ∧ ∀ c e, u = .pe c e → (s.phys c, e) ∈ t.pePoison))
  ∧ (∀ (u : MemUnit) (s : State) (p : Scrub), s.rel.scrubs.find? (fun p => p.unit == u) = some p →
      (p.overtaken = true → ∃ t, exec (.scrubWriteback u) s = .next t ∧ SameBytes s t ∧ ∀ q ∈ t.rel.scrubs, q.unit ≠ u)
      ∧ (∀ n, u = .hbm n → p.overtaken = false → s.channelFailed (64 * n) = true →
          ∃ t, exec (.scrubWriteback u) s = .next t ∧ SameBytes s t ∧ ∃ r ∈ t.rel.history, r.rung = 2 ∧ r.event = 2 ∧ r.addr = 64 * n)
      ∧ (∀ n, u = .hbm n → p.overtaken = false → s.channelFailed (64 * n) = false → p.data.length = 64 →
          ∃ t, exec (.scrubWriteback u) s = .next t ∧ t.hbm.read (64 * n) 64 = p.data ∧ t.tags = s.tags ∧ t.pages = s.pages
            ∧ ∀ b, b < 64 * n ∨ 64 * n + 64 ≤ b → t.hbm.byte b = s.hbm.byte b))
  ∧ (∀ (ch : Nat) (s : State), ch < 512 → ch ∉ s.dev.failed → ch ∉ s.chanFailed →
      ∃ t, exec (.channelFail ch) s = .next t ∧ t.chanFailed = s.chanFailed ++ [ch] ∧ SameBytes s t
        ∧ ∃ r ∈ t.rel.history, r.rung = 7 ∧ r.event = 0x0C ∧ r.gtc = s.gtc)
  ∧ (∀ (cl : Nat) (s : State), cl < 192 →
      (s.retire? (clCol cl) = none → s.inService cl = true → s.retireDue cl = true →
        (s.noSpare (clCol cl) = false → ∃ t r, exec (.clusterRetirement cl) s = .next t ∧ t.retire? (clCol cl) = some r ∧ r.cl = cl
          ∧ r.row = s.physRow cl ∧ r.next = s.skip (clCol cl) ∧ ∀ n ∈ s.heldRange (clCol cl) (s.physRow cl), (t.cl n).ctl.held = true)
        ∧ (s.noSpare (clCol cl) = true → ∃ t, exec (.clusterRetirement cl) s = .next t ∧ t.inService cl = false))
      ∧ ∀ r, s.retire? (clCol cl) = some r → r.row < 16 →
        (r.next = r.row → ∃ t, exec (.clusterRetirement cl) s = .next t ∧ t.skip (clCol cl) = r.row ∧ t.retire? (clCol cl) = none)
        ∧ (r.next ≠ r.row → (s.cl r.cl).ctl.occ ≠ .free → (s.cl r.cl).ctl.occ ≠ .saving → r.since + 625 ≤ s.clk →
            exec (.clusterRetirement cl) s = .next (s.endTask r.cl .requeue))
        ∧ (let row := if r.row < r.next then r.next - 1 else r.next + 1
          r.next ≠ r.row → s.physRow cl = row → (∀ n ∈ s.heldRange r.col r.row, (s.cl n).drained = true) →
          ((∃ e ∈ s.rel.remaps, s.inService e.1 = true ∧ e.1 ∈ s.heldRange r.col r.row) → exec (.clusterMove cl []) s = .next s)
          ∧ ((∀ e ∈ s.rel.remaps, s.inService e.1 = true → e.1 ∉ s.heldRange r.col r.row) → ∃ t, exec (.clusterMove cl []) s = .next t ∧ t.retire? (clCol cl) = some { r with next := row }
            ∧ (NMap.get Cluster.reset t.clusters (16 * r.next + r.col)).sp = (NMap.get Cluster.reset s.clusters (16 * row + r.col)).sp
            ∧ (NMap.get Cluster.reset t.clusters (16 * r.next + r.col)).arr.acc = (NMap.get Cluster.reset s.clusters (16 * row + r.col)).arr.acc
            ∧ (NMap.get Cluster.reset t.clusters (16 * r.next + r.col)).ctl.mbox = (NMap.get Cluster.reset s.clusters (16 * row + r.col)).ctl.mbox
            ∧ let c := NMap.get Cluster.reset s.clusters (16 * row + r.col)
              let old := NMap.get Cluster.reset s.clusters (16 * r.next + r.col)
              let d := NMap.get Cluster.reset t.clusters (16 * r.next + r.col)
              let place (k b : Nat) : Nat := twBankOf b (old.ctl.twSelOf k b)
              d.ctl.remap = old.ctl.remap
              ∧ (c.tw.wf = true → old.tw.wf = true →
                  (∀ k < 64, ∀ b < 16, place k b < 18 ∧ ∀ b' < 16, place k b = place k b' → b = b') →
                  ∀ k < 64, ∀ a < 262144, d.tw.byte (d.twAddr k a) = c.tw.byte (c.twAddr k a)))))
  ∧ ∀ (j : Nat) (s : State), j < 16 → s.noSpare j = false → s.retire? j = none →
      ∃ t, exec (.clusterRetirement (192 + j)) s = .next t ∧ t.rel.failedRows = s.rel.failedRows ++ [(j, s.skip j)]

/-! ### Snapshots and staged transactions: instants, messages and timers (R116-R138) -/

/-- R117, R119, R120, R124: an armed slot reaches its instant; ARM arms or refuses; the answers of a group decide at T - 1 us between
CONFIRM and CANCEL, each of which a slot takes; a pending slot asks again, and the issuing chip repeats what it decided of the group of
that instant, also of one that the slot held before. Where the manual leaves a point open it says what the model chose (logs 8, 72, 73,
101). -/
def Obligations.SnapshotGroups : Prop :=
  ∀ (src cid slot : Nat) (s : State), slot < 4 →
    let n := (s.ctx cid).snap slot
    let gives (i : Instr) (f : Snap → Prop) : Prop := ∃ t, exec i s = .next t ∧ f ((t.ctx cid).snap slot)
    let open_ := n.st = .armed ∨ n.st = .pending
    (n.st = .armed → n.t ≠ 0 → n.t ≤ s.gtc →
      (n.confirmed = true ∨ n.origin = s.dev.chip ∨ s.fencedChip n.origin = false →
        gives (.snapshotInstant cid slot) fun m => m = { n with st := if n.confirmed then .live else .pending, gen := m.gen })
      ∧ (n.confirmed = false → n.origin ≠ s.dev.chip → s.fencedChip n.origin = true →
        gives (.snapshotInstant cid slot) fun m => m.st = .failed ∧ m.code = 0x32))
    ∧ (∀ T, cid = 0 ∨ s.ctxValid cid = false ∨ n.st.isLive = true → exec (.armMsg src cid slot T) s = .next (s.send src (.armAnswer cid slot false)))
    ∧ (∀ T, cid ≠ 0 → s.ctxValid cid = true → n.st.isLive = false →
        gives (.armMsg src cid slot T) fun m => m.st = .armed ∧ m.t = T ∧ m.origin = src ∧ m.confirmed = false ∧ (∃ l, m.past = n.past ++ l)
          ∧ (n.origin = s.dev.chip → s.others n.mask ≠ [] → n.confirmed = true → (n.t, true) ∈ m.past))
    ∧ (∀ chip, s.undecided n = true → n.mask.getLsbD chip = true →
        (s.gtc + 1000 < n.t → gives (.armAnswerMsg chip cid slot true) fun m => m = { n with answers := n.answers ||| chipBit chip })
        ∧ (n.t ≤ s.gtc + 1000 → gives (.armAnswerMsg chip cid slot true) fun m => m = n)
        ∧ gives (.armAnswerMsg chip cid slot false) fun m => m = { n with refused := n.refused ||| chipBit chip })
    ∧ (s.undecided n = true → n.t ≤ s.gtc + 1000 →
        ((∀ k ∈ s.others n.mask, n.answers.getLsbD k = true ∧ n.refused.getLsbD k = false) →
          gives (.armDeadline cid slot) fun m => m = { n with confirmed := true, st := m.st, lastProg := m.lastProg }
            ∧ m.st = (if n.st = .pending then .live else n.st))
        ∧ ((∃ k ∈ s.others n.mask, n.answers.getLsbD k = false ∨ n.refused.getLsbD k = true) →
          (open_ → gives (.armDeadline cid slot) fun m => m.st = .failed ∧ m.code = 0x32 ∧ m.cancelled = true)
          ∧ (¬ open_ → gives (.armDeadline cid slot) fun m => m = { n with cancelled := true })))
    ∧ (n.origin ≠ src → exec (.confirmMsg cid ⟨src, slot⟩) s = .next s ∧ exec (.cancelMsg cid ⟨src, slot⟩) s = .next s)
    ∧ (n.origin = src → n.st = .armed → gives (.confirmMsg cid ⟨src, slot⟩) fun m => m = { n with confirmed := true })
    ∧ (n.origin = src → n.st = .pending → gives (.confirmMsg cid ⟨src, slot⟩) fun m => m.st = .live ∧ m.confirmed = true ∧ m.gen = n.gen)
    ∧ (n.origin = src → open_ → n.confirmed = false → gives (.cancelMsg cid ⟨src, slot⟩) fun m => m.st = .failed ∧ m.code = 0x32)
    ∧ (n.st = .pending → n.origin ≠ s.dev.chip → Nat.max n.t n.lastProg + 100000 ≤ s.gtc →
        gives (.snapshotQueryTimer cid slot) fun m => m = { n with lastProg := s.gtc })
    ∧ (n.origin = s.dev.chip → n.st ≠ .free →
        (n.confirmed = true → exec (.snapshotQueryMsg src cid ⟨slot, n.t⟩) s = .next (s.send src (.confirm cid slot)))
        ∧ (n.confirmed = false → n.cancelled = true → exec (.snapshotQueryMsg src cid ⟨slot, n.t⟩) s = .next (s.send src (.cancel cid slot))))
    ∧ ∀ T p, n.t ≠ T → n.past.find? (fun p => p.1 == T) = some p →
        exec (.snapshotQueryMsg src cid ⟨slot, T⟩) s = .next (s.send src (if p.2 then .confirm cid slot else .cancel cid slot))

/-- R125, R126, R128: the decant engine writes the header and then page after page of the slot that it serves to its target, and the
trailer makes the slot DONE; a target that refuses, or DECTMO without progress, makes it FAILED with 0x34. Where the manual leaves a point
open it says what the model chose (log 59). -/
def Obligations.Decant : Prop :=
  ∀ (cid slot : Nat) (s : State), (s.ctx cid).decanting = some slot →
    let c := s.ctx cid
    let n := c.snap slot
    let tgt := c.tgt n.target
    let gives (i : Instr) (f : State → Snap → Prop) : Prop := ∃ t, exec i s = .next t ∧ f t ((t.ctx cid).snap slot)
    (∀ u, n.header = false → s.decantBegin cid slot = some (some u) → exec (.decantPage cid slot true) s = .next u)
    ∧ (∀ p a, n.header = true → s.nextDecant cid slot = some (p, a, false) → s.sealed p = true → exec (.decantPage cid slot true) s = .next s)
    ∧ (∀ p a frm u, n.header = true → s.nextDecant cid slot = some (p, a, frm) → (frm = true ∨ s.sealed p = false) → s.decantTo cid slot (s.decantRecord p a frm) = some u →
        (gives (.decantPage cid slot true) fun t m => m.decpg = n.decpg + 1 ∧ m.decanted = n.decanted ++ [p]
          ∧ m.pos = n.pos + (s.decantRecord p a frm).length ∧ m.lastProg = s.gtc ∧ m.st = n.st
          ∧ (tgtKind tgt = 1 → t.hostMem = s.hostMem.write (tgtAddr tgt + n.pos) (s.decantRecord p a frm)))
        ∧ gives (.decantPage cid slot false) fun _ m => m.st = .failed ∧ m.code = 0x34)
    ∧ (n.header = true → s.nextDecant cid slot = none →
        (∀ u, n.pos < n.streamLen → s.decantTo cid slot n.trailer = some u →
          (tgtKind tgt ≠ 2 → gives (.decantDone cid slot true) fun _ m => m.st = .done ∧ m.code = 0)
          ∧ (tgtKind tgt = 2 → exec (.decantDone cid slot true) s = .next u))
        ∧ (n.streamLen ≤ n.pos → (∀ r ∈ s.reqs, r.owner ≠ .decant cid slot n.t) → gives (.decantDone cid slot true) fun _ m => m.st = .done ∧ m.code = 0))
    ∧ (Nat.max (Nat.max n.t n.lastProg) c.decFree + s.dectmo ≤ s.gtc →
        gives (.decantTimeout cid slot) fun _ m => m.st = .failed ∧ m.code = 0x34)

/-- R129, R132-R135, R138, R467: each message runs once and is answered, also when it comes again; votes, DECIDE, ACK and the decision at
Tc; an abort before it; the outcome at a participant; the questions of a sealed participant; and the fold of a committed frame into its
page. Where the manual leaves a point open it says what the model chose (logs 59, 62). -/
def Obligations.TransactionMessages : Prop :=
  (∀ (src cid slot : Nat) (s : State),
    let x := (s.ctx cid).tx slot
    let gives (i : Instr) (f : Tx → Prop) : Prop := ∃ t, exec i s = .next t ∧ f ((t.ctx cid).tx slot)
    let from_ : TagSource := ⟨src, .samovar⟩
    let seen (tag : Nat) : Option Remembered := s.remembered.find? fun r => r.src == from_ && r.tag == tag
    let peer : Prop := s.fencedChip src = false ∧ src ≠ s.dev.chip ∧ src < 64
    (∀ tag txid mask yes, peer → seen tag = none →
      let m := Instr.voteMsg src cid ⟨slot, tag⟩ txid mask yes
      let heard (u : State) : Prop := exec m s = .next (u.respond from_ tag .done [])
      (x.st = .free ∨ ((x.st = .committed ∨ x.st = .aborted) ∧ txid ≠ x.txid) →
          gives m fun y => y = { x with early := x.early ++ [(src, txid, mask, yes)] })
      ∧ (x.st = TxSt.open ∨ x.st = .voted → x.mask.getLsbD src = false →
          heard ((s.txAbort cid slot 0x3D).sendTx cid slot src fun q => .outcome q cid slot 0 0x3D))
      ∧ (x.st = TxSt.open ∨ x.st = .voted → x.mask.getLsbD src = true → x.begun + s.votetmo ≤ s.gtc → heard (s.txAbort cid slot 0x39))
      ∧ (x.st = TxSt.open ∨ x.st = .voted → x.mask.getLsbD src = true → s.gtc < x.begun + s.votetmo →
        (txid ≠ x.txid ∨ mask ≠ x.mask → heard (s.txAbort cid slot 0x3D))
        ∧ (txid = x.txid → mask = x.mask → yes = false → heard (s.txAbort cid slot 0x38))
        ∧ (txid = x.txid → mask = x.mask → yes = true →
            gives m fun y => y.votes = x.votes ||| chipBit src
              ∧ (x.votes ||| chipBit src = x.mask → x.st = .voted → y.st = .decided ∧ y.tc = s.gtc + s.txlead)
              ∧ (x.votes ||| chipBit src ≠ x.mask ∨ x.st = TxSt.open → y.st = x.st))))
    ∧ (∀ tag r, peer → seen tag = some r → ∀ txid mask yes tc,
        ∀ i ∈ ([.voteMsg src cid ⟨slot, tag⟩ txid mask yes, .decideMsg cid ⟨src, slot, tag⟩ tc, .txAckMsg src cid ⟨slot, tag⟩,
          .outcomeMsg cid ⟨src, slot, tag⟩ tc 0] : List Instr), exec i s = .next (s.send src (.response ⟨.samovar, tag⟩ r.st r.data)))
    ∧ (∀ code, code ≠ 0 → ∃ y, ((s.txAbort cid slot code).ctx cid).tx slot = y ∧ y.st = .aborted ∧ y.code = code)
    ∧ (x.st = TxSt.open ∨ x.st = .voted → coordOf x.mask = s.dev.chip → x.votes ≠ x.mask →
        (x.begun + s.votetmo ≤ s.gtc → gives (.voteTimeout cid ⟨slot, false⟩) fun y => y.st = .aborted ∧ y.code = 0x39)
        ∧ gives (.voteTimeout cid ⟨slot, true⟩) fun y => y.st = .aborted ∧ y.code = 0x3A)
    ∧ (∀ tc tag, peer → seen tag = none → x.st = .voted → gives (.decideMsg cid ⟨src, slot, tag⟩ tc) fun y => y = { x with st := .decided, tc := tc })
    ∧ (x.st = .decided → coordOf x.mask = s.dev.chip →
        (∀ tag, peer → seen tag = none → s.gtc < x.tc → gives (.txAckMsg src cid ⟨slot, tag⟩) fun y => y = { x with acks := x.acks ||| chipBit src })
        ∧ (∀ u, x.tc ≤ s.gtc → x.acks &&& x.mask = x.mask → s.txOutcome cid slot x.tc 0 = (u, true) →
            gives (.txDecision cid slot) fun y => y.st = .committed ∧ y.code = 0 ∧ y.tc = x.tc)
        ∧ (x.tc ≤ s.gtc → x.acks &&& x.mask ≠ x.mask → gives (.txDecision cid slot) fun y => y.st = .aborted ∧ y.code = 0x3A))
    ∧ (∀ tc code tag, peer → seen tag = none → x.st = TxSt.open ∨ x.st = .voted ∨ x.st = .decided →
        (code ≠ 0 → gives (.outcomeMsg cid ⟨src, slot, tag⟩ tc code) fun y => y.st = .aborted ∧ y.code = code)
        ∧ ∀ u, s.txOutcome cid slot tc 0 = (u, true) → gives (.outcomeMsg cid ⟨src, slot, tag⟩ tc 0) fun y => y.st = .committed ∧ y.tc = tc)
    ∧ (x.st = .voted ∨ x.st = .decided → coordOf x.mask ≠ s.dev.chip → x.lastAsk + 100000 ≤ s.gtc →
        gives (.outcomeQueryTimer cid slot) fun y => y = { x with lastAsk := s.gtc })
    ∧ (x.st = .committed ∨ x.st = .aborted → exec (.outcomeQueryMsg src cid slot) s = .next (s.sendTx cid slot src
        fun q => if x.mask.getLsbD src then .outcome q cid slot x.tc x.code else .outcome q cid slot 0 0x3D)))
  ∧ ∀ (page : Nat) (s : State), tagMode (s.tag page) = 2 → s.pageSt page = .inService → s.hbm.wf = true → s.chanFailed = [] →
      ∃ t, exec (.txFold page) s = .next t ∧ tagMode (t.tag page) = 0 ∧ tagOwner (t.tag page) = tagOwner (s.tag page)
        ∧ (t.ctx (tagOwner (s.tag page))).frame (tagFrm (s.tag page)) = none
        ∧ (∀ b < 65536, t.hbm.byte (page * 65536 + b) = s.hbm.byte (s.homeOf page + b))
        ∧ ∀ b, b < page * 65536 ∨ page * 65536 + 65536 ≤ b → t.hbm.byte b = s.hbm.byte b

/-! ### The host: commands, registers, host accesses and bring-up (R391-R395, R452-R462, R480-R484, R502) -/

/-- The header of the command at HEAD of queue `q`, and the command. -/
def headOf (s : State) (q : Nat) : Nat := s.hostMem.readN ((s.queue q).slotAt 0) 64
def cmdOf (s : State) (q : Nat) : HCmd := s.hcmd q (s.queue q) (headOf s q)

/-- The queue runs, and the command at its HEAD is well formed, has opcode `opc`, is not held back, and names no context whose descriptor
is poisoned. -/
def takes (s : State) (q opc : Nat) : Prop :=
  s.queueRuns q = true ∧ (s.queue q).malformed (headOf s q) = false ∧ headOf s q % 256 = opc ∧ s.cmdHeld q (headOf s q) = false
    ∧ ((cmdOf s q).cid = 0 ∨ s.descBad (cmdOf s q).cid = false)

/-- The host commands other than queries, with their opcodes (R460). -/
def hostRow (q : Nat) (i : Instr) (opc : Nat) : Prop :=
  (i, opc) ∈ [(.createContext q, 1), (.destroyContext q, 2), (.bind q, 3), (.unbind q, 4), (.writeRecord q, 5), (.writeTemplate q, 6),
    (.writeGatherPattern q, 7), (.mailboxSettings q, 8), (.snapshotConfigure q, 9), (.pageOwner q, 10), (.snapshot q, 11), (.decantBuffer q, 12),
    (.transactionResolve q, 13), (.submit q, 16), (.replaceCode q, 17), (.dispatcherConfigure q, 18), (.resolve q, 24), (.migrate q, 25),
    (.shootDown q, 26), (.retireCluster q, 33), (.fabricJoin q, 34)]

/-- R40, R391, R395, R457-R459, R502: a queue that does not run leaves its command; a malformed header stops the queue; a command waits
behind a replica whose place in the queue has come, and a submit, a replacement of code, a resolve, a migrate and a shoot-down begin only
after the writes of the host before them have performed; a command of a context whose descriptor is poisoned waits. An answer writes
RESULT, then DONE with the code, and moves HEAD past the command and its payload. Where the manual leaves a point open it says what the
model chose (logs 18, 95). -/
def Obligations.HostCommandAnswers : Prop :=
  (∀ (q opc : Nat) (i : Instr) (s : State), hostRow q i opc →
    (s.queueRuns q = false → exec i s = .next s)
    ∧ (s.queueRuns q = true → (s.queue q).malformed (headOf s q) = true → exec i s = .next (s.setQueue q { s.queue q with mal := true }))
    ∧ (s.queueRuns q = true → (s.queue q).malformed (headOf s q) = false → headOf s q % 256 = opc →
        (∃ f fs, (s.queue q).fwds = f :: fs ∧ f.mark = (s.queue q).head)
          ∨ (opc ∈ [16, 17, 24, 25, 26] ∧ (s.queue q).phase = 0 ∧ s.host.posted ≠ []) →
        exec i s = .next (s.setQueue q { s.queue q with wait := true }))
    ∧ (s.queueRuns q = true → (s.queue q).malformed (headOf s q) = false → headOf s q % 256 = opc → s.cmdHeld q (headOf s q) = false →
        (cmdOf s q).cid ≠ 0 → s.descBad (cmdOf s q).cid = true →
        let t := s.rsvSeen (s.descAddr (cmdOf s q).cid)
        exec i s = .next (t.setQueue q { s.queue q with wait := true })))
  ∧ ∀ (q h code res : Nat) (s : State), code < 256 → res < 2 ^ 64 →
      let a := (s.queue q).slotAt 0
      let t := s.finishCmd q h code res
      t.hostMem.readN (a + 48) 8 = res ∧ t.hostMem.readN (a + 56) 8 = 1 + code * 256
        ∧ (∀ b, b < a + 48 ∨ a + 64 ≤ b → t.hostMem.byte b = s.hostMem.byte b)
        ∧ (t.queue q).head = ((s.queue q).head + 1 + h / 2 ^ 8 % 8) % (s.queue q).slots ∧ (t.queue q).wait = false
        ∧ ∀ n, n ≠ q → t.queue n = s.queue n

/-- R25-R36, R76, R108, R118, R125, R134, R312, R502: each command about contexts, tables, snapshots and transactions answers the code of
its checks, or takes its effect and answers 0. Where the manual leaves a point open it says what the model chose (logs 18, 19, 20, 21,
23). -/
def Obligations.HostContextCommands : Prop :=
  ∀ (q : Nat) (s : State),
    let h := cmdOf s q
    let fails (i : Instr) (opc code : Nat) : Prop := takes s q opc → code ≠ 0 → exec i s = .next (s.finishCmd q (headOf s q) code 0)
    let does (i : Instr) (opc : Nat) (t : State) (res : Nat) : Prop := takes s q opc → exec i s = .next (t.finishCmd q (headOf s q) 0 res)
    let x := (s.ctx h.cid).tx (h.a % 4)
    let r := s.snapCode h.cid (h.c % 4) h.a (h.c / 8 % 4)
    let no := s.noContext h.cid = true
    let ok := s.noContext h.cid = false
    fails (.createContext q) 1 (s.createCode h.cid h.pay)
    ∧ (s.createCode h.cid h.pay = 0 → s.flipBusy (descHtab h.pay) (64 * descHcount h.pay) = false →
        s.flipBusy (descTtab h.pay) (64 * descTcount h.pay) = false → s.flipBusy (s.descAddr h.cid) 64 = false →
        does (.createContext q) 1 (s.createContext h.cid h.pay) 0)
    ∧ (no → fails (.destroyContext q) 2 2 ∧ fails (.unbind q) 4 2)
    ∧ (ok → ∀ t, s.unbind h.cid = (true, t) → does (.unbind q) 4 t 0
        ∧ (t.cmdsOf h.cid = false → t.flipBusy (t.descAddr h.cid) 64 = false → does (.destroyContext q) 2 (t.endContext h.cid) 0))
    ∧ fails (.bind q) 3 (s.bindCode h.cid (h.a % 2 ^ 48))
    ∧ (s.bindCode h.cid (h.a % 2 ^ 48) = 0 → s.flipBusy (s.descAddr h.cid) 64 = false → does (.bind q) 3 (s.bindTo h.cid (h.a % 2 ^ 48)) 0)
    ∧ fails (.writeRecord q) 5 (s.recordCode h) ∧ fails (.writeTemplate q) 6 (s.templateCode h)
    ∧ (s.recordCode h = 0 → s.flipBusy (s.htab h.cid + 64 * h.a) 64 = false →
        does (.writeRecord q) 5 (s.putEntry (s.htab h.cid + 64 * h.a) (fieldsOf recFields h.pay)).1
          (s.putEntry (s.htab h.cid + 64 * h.a) (fieldsOf recFields h.pay)).2)
    ∧ (s.templateCode h = 0 → s.flipBusy (s.ttab h.cid + 64 * h.a) 64 = false →
        does (.writeTemplate q) 6 (s.putEntry (s.ttab h.cid + 64 * h.a) (fieldsOf tplFields h.pay)).1
          (s.putEntry (s.ttab h.cid + 64 * h.a) (fieldsOf tplFields h.pay)).2)
    ∧ fails (.writeGatherPattern q) 7 (s.patternCode h)
    ∧ (s.patternCode h = 0 → does (.writeGatherPattern q) 7 { s with patterns := NMap.set 0 s.patterns h.a (fieldsOf patFields h.pay) } 0)
    ∧ (ok → does (.mailboxSettings q) 8 (s.onCtx h.cid fun c => { c with mbox := some (mboxOf h.a) }) 0)
    ∧ (no → fails (.mailboxSettings q) 8 2)
    ∧ fails (.snapshotConfigure q) 9 (s.configureCode h.cid h.pay)
    ∧ (s.configureCode h.cid h.pay = 0 → does (.snapshotConfigure q) 9 (s.onCtx h.cid fun c => { c with scb := fieldsOf scbFields h.pay }) 0)
    ∧ (let own := h.c % 2 ^ 12
      (own = 0 ∨ s.descBad own = false) → s.phase q = 0 →
        fails (.pageOwner q) 10 (s.ownerCode h.a h.b own)
        ∧ ∀ t, s.note q = 0 → s.ownerCode h.a h.b own = 0 → s.setOwners own h.b (h.a / 65536) = (0, t) → does (.pageOwner q) 10 t 0)
    ∧ (ok → (r ≠ 0 → does (.snapshot q) 11 s r)
        ∧ (r = 0 → does (.snapshot q) 11
            (s.armSnap h.cid (h.c % 4) h.a (BitVec.ofNat 64 h.b ||| chipBit s.dev.chip) (h.c.testBit 2) (h.c / 8 % 4) 0 0 none) 0))
    ∧ (h.b % 65536 = 0 → h.b + h.c * 65536 ≤ 2 ^ 42 → ok → h.c ≠ 0 →
        does (.decantBuffer q) 12 (s.onCtx h.cid fun c =>
          { c with rings := NMap.set [] c.rings (h.a % 256) (NMap.get [] c.rings (h.a % 256) ++ [(h.b, h.c * 65536)]) }) 0)
    ∧ (1 < h.b → fails (.transactionResolve q) 13 1)
    ∧ (h.b ≤ 1 → ok → (x.st ≠ .voted → x.st ≠ .decided → fails (.transactionResolve q) 13 0x12)
        ∧ (x.st = .voted ∨ x.st = .decided → ∀ t, s.txOutcome h.cid (h.a % 4) x.tc (if h.b = 1 then 0 else 0x3A) = (t, true) →
            does (.transactionResolve q) 13 t 0))

/-- R56, R61, R62, R387, R394, R395, R401, R410, R411, R449, R461, R471, R502: submits, replacements of code, settings and resolves; the
commands that begin work and are over when it has ended; and the queries, whose answer goes to host memory. Where the manual leaves a
point open it says what the model chose (logs 22, 24, 25, 26, 27, 28). -/
def Obligations.HostDeviceCommands : Prop :=
  ∀ (q : Nat) (s : State),
    let h := cmdOf s q
    let hd := headOf s q
    let fails (i : Instr) (opc code : Nat) : Prop := takes s q opc → exec i s = .next (s.finishCmd q hd code 0)
    let does (i : Instr) (opc : Nat) (t : State) (res : Nat) : Prop := takes s q opc → exec i s = .next (t.finishCmd q hd 0 res)
    let waits (i : Instr) (opc : Nat) (t : State) : Prop := takes s q opc → exec i s = .next (t.setQueue q { t.queue q with wait := true })
    let mine := s.nodeList.filter fun e => e.2.cid == h.cid
    (s.submitCode h.pay ≠ 0 → fails (.submit q) 16 (s.submitCode h.pay))
    ∧ (s.submitCode h.pay = 0 →
        (∀ id t, s.acceptNode h.pay q s.dev.chip 0 = some (id, t) → does (.submit q) 16 (t.submitted q id h.pay) id)
        ∧ (s.acceptNode h.pay q s.dev.chip 0 = none → waits (.submit q) 16 s))
    ∧ (s.phase q = 0 → s.replCode h.pay ≠ 0 → fails (.replaceCode q) 17 (s.replCode h.pay))
    ∧ (s.phase q = 0 → s.replCode h.pay = 0 → h.pay / 2 ^ 256 % 2 ^ 64 = 0 → waits (.replaceCode q) 17 (s.fixRepl q h.pay))
    ∧ (s.phase q = 2 → (s.note q < s.gtc → does (.replaceCode q) 17 s 0) ∧ (s.gtc ≤ s.note q → waits (.replaceCode q) 17 s))
    ∧ (takes s q 18 →
        ∃ t, exec (.dispatcherConfigure q) s = .next t ∧ t.disp.age = h.pay % 2 ^ 10 ∧ t.disp.upre = h.pay.testBit 16
          ∧ ∀ j < 16, NMap.get 12 t.disp.thr j = h.pay / 2 ^ (64 + 4 * j) % 16)
    ∧ (s.noContext h.cid = false → h.a + h.b * 65536 ≤ 2 ^ 52 → h.a < 2 ^ 52 →
        (h.c = 0 → does (.resolve q) 24 (mine.foldl (fun s e => s.onNode e.1 fun n => n.requeueParked h.a h.b s.gtc) s) 0)
        ∧ (h.c = 1 → does (.resolve q) 24
            ((mine.filter fun e => e.2.parked.any fun t => t.pages.any (pageInside h.a h.b)).foldl (fun s e => s.failNode e.1 0x51) s) 0))
    ∧ (s.phase q = 0 → (s.migrateOk h = false → fails (.migrate q) 25 1)
        ∧ (s.migrateOk h = true → waits (.migrate q) 25 ((s.beginMig h).setPhase q 1 0)))
    ∧ (s.phase q = 1 → (∀ m ∈ s.migs, m.queue ≠ q) → does (.migrate q) 25 s 0)
    ∧ (s.phase q = 0 → h.c / 2 ^ 12 % 4 = 2 → waits (.shootDown q) 26
        ((({ s with shoots := s.shoots.filter fun x => x.owner != .queue q } : State).beginShoot .all (.queue q)).setPhase q 1 0))
    ∧ (s.phase q = 1 → ∀ x, s.shoots.find? (fun x => x.owner == .queue q) = some x → s.shootDone x = true →
        does (.shootDown q) 26 (s.endShoot x.id) x.fencedMask.toNat)
    ∧ (let n := h.a % 256
      (192 ≤ n → fails (.retireCluster q) 33 1)
      ∧ (s.phase q = 0 → n < 192 → s.inService n = false → does (.retireCluster q) 33 s 0)
      ∧ (s.phase q = 0 → n < 192 → s.inService n = true → takes s q 33 → ∃ t, exec (.retireCluster q) s = .next t ∧ n ∈ t.rel.asked)
      ∧ (s.phase q = 1 → n < 192 → n ∉ s.rel.asked → does (.retireCluster q) 33 s 0))
    ∧ (s.phase q = 1 → s.joinOpen (h.a % 64) = false → does (.fabricJoin q) 34 s 0)
    ∧ (let answers (i : Instr) (sel v : Nat) : Prop := takes s q 32 → h.a = sel → h.c + 64 ≤ 2 ^ 42 →
        exec i s = .next (({ s with hostMem := s.hostMem.writeN h.c 64 v } : State).finishCmd q hd 0 0)
      let fails (i : Instr) (sel code : Nat) : Prop := takes s q 32 → h.a = sel → h.c + 64 ≤ 2 ^ 42 → exec i s = .next (s.finishCmd q hd code 0)
      (h.b % 256 < 192 → s.inService (h.b % 256) = true →
          answers (.queryTowerRemap q) 1 ((NMap.get 0 (s.cl (h.b % 256)).ctl.remap (h.b / 2 ^ 8 % 64)).toNat % 2 ^ 51))
        ∧ answers (.queryClusterTable q) 2 (s.dev.clmap.toNat + s.dev.clsvc % 2 ^ 192 * 2 ^ 64)
        ∧ (h.b = 1 → answers (.queryHbmDegraded q) 3 (s.dev.hbmfail 7)) ∧ (1 < h.b → fails (.queryHbmDegraded q) 3 1)
        ∧ (h.b < s.dev.top → answers (.queryPageTag q) 4 (s.tag (h.b / 65536))) ∧ (s.dev.top ≤ h.b → fails (.queryPageTag q) 4 1)
        ∧ (h.b < 64 → answers (.queryGatherPattern q) 5 (NMap.get 0 s.patterns h.b)) ∧ (64 ≤ h.b → fails (.queryGatherPattern q) 5 1)
        ∧ (∃ v, v % 2 ^ 64 = s.disp.age % 1024 + (if s.disp.upre then 2 ^ 16 else 0)
            ∧ (∀ j < 16, v / 2 ^ (64 + 4 * j) % 16 = NMap.get 12 s.disp.thr j % 16) ∧ answers (.queryDispatcherParameters q) 6 v)
        ∧ (∀ r, s.rel.samLog[h.b % 16]? = some r → answers (.querySamovarLog q) 7 (ofBytes (recBytes r)))
        ∧ (s.rel.samLog[h.b % 16]? = none → answers (.querySamovarLog q) 7 0)
        ∧ (h.b ≤ 3 → s.noContext h.cid = false → answers (.querySlotStatus q) 8 ((s.ctx h.cid).snapWord h.b + s.txWord h.cid h.b * 2 ^ 64))
        ∧ (3 < h.b → fails (.querySlotStatus q) 8 1)
        ∧ answers (.queryDeviceStatus q) 9
            (s.host.dropw % 2 ^ 32 + s.dev.ptArea % 2 ^ 32 * 2 ^ 32 + s.csr 0 0x020 * 2 ^ 64 + s.linkUp * 2 ^ 128))

/-- R7, R166, R452-R457, R462, R472, R483, R484: the registers that the host writes, and reads (the write-only DOORBELL reads as zero);
its reads and writes of HBM, answered with all ones or dropped outside the ranges that it may use; completions of the device's requests
and their time-out; and the requests that are always refused. Where the manual leaves a point open it says what the model chose (logs 6,
29). -/
def Obligations.HostInterface : Prop :=
  (∀ (q : Nat) (s : State), q < 64 →
    s.bar0Read (4096 * q) = (s.queue q).qcfg.toNat ∧ s.bar0Read (4096 * q + 8) = (s.queue q).pcfg.toNat ∧ s.bar0Read (4096 * q + 0x10) = 0
      ∧ (s.bar0Read (4096 * q + 0x18) = (s.queue q).head % 65536 + (s.queue q).wait.toNat * 2 ^ 16 + (s.queue q).mal.toNat * 2 ^ 17)
      ∧ s.bar0Read (4096 * q + 0x20) = (s.queue q).chead % 65536 ∧ s.bar0Read (4096 * q + 0x28) = (s.queue q).ctail % 65536
      ∧ s.bar0Read 0x40010 = s.host.ftail % 65536 ∧ s.bar0Read 0x40028 = s.host.etail % 65536 ∧ s.bar0Read 0x40100 = s.dev.bootstat) ∧
  (∀ (q off : Nat) (v : BitVec 64) (s : State), s.dev.ready = true → q < 64 →
    let k := s.queue q
    let w := v.toNat % 2 ^ 16
    let to_ (i : Instr) (k' : Queue) : Prop := ∃ t, exec i s = .next t ∧ t.queue q = k' ∧ t.hostMem = s.hostMem
    (k.mal = true → to_ (.doorbell q v) k) ∧ (k.mal = false → k.slots ≤ w → to_ (.doorbell q v) { k with mal := true })
    ∧ (k.mal = false → w < k.slots → to_ (.doorbell q v) { k with tail := w })
    ∧ (v.getLsbD 4 = true → to_ (.qcfgWrite q v) { Queue.reset with
        qcfg := v &&& 0x3FFFFFFF01F, pcfg := k.pcfg, cwb := k.cwb, fwds := k.fwds.map fun f => { f with mark := 0 } })
    ∧ (v.getLsbD 4 = false → to_ (.qcfgWrite q v) { k with qcfg := v &&& 0x3FFFFFFF01F })
    ∧ (k.chead = k.ctail → k.ctail < 2 ^ k.plog → to_ (.cheadWrite q v) k)
    ∧ (k.chead ≤ w → w ≤ k.ctail → k.ctail < 2 ^ k.plog → to_ (.cheadWrite q v) { k with chead := w })
    ∧ to_ (.hostRegisterWrite (4096 * q + 8) v) { k with pcfg := v &&& 0x3FFFFFFF00F }
    ∧ to_ (.hostRegisterWrite (4096 * q + 0x30) v) { k with cwb := v &&& 0x3FFFFFFFFF8 }
    ∧ (off < 4096 → off ≠ 8 → off ≠ 0x30 → to_ (.hostRegisterWrite (4096 * q + off) v) k))
  ∧ (∀ (v : BitVec 64) (s : State),
      let w := v.toNat % 2 ^ 16
      let to_ (i : Instr) (f : HostPage → Prop) : Prop := ∃ t, exec i s = .next t ∧ f t.host ∧ SameBytes s t
      to_ (.fcfgWrite v) (fun h => h.fcfg = v &&& 0x3FFFFFFF01F ∧ h.fhead = (if v.getLsbD 4 then 0 else s.host.fhead)
        ∧ h.ftail = if v.getLsbD 4 then 0 else s.host.ftail)
      ∧ to_ (.ecfgWrite v) (fun h => h.ecfg = v &&& 0x3FFFFFFF01F ∧ h.ehead = (if v.getLsbD 4 then 0 else s.host.ehead)
        ∧ h.etail = if v.getLsbD 4 then 0 else s.host.etail)
      ∧ (s.host.fhead ≤ w → w ≤ s.host.ftail → s.host.ftail < 65536 → to_ (.fheadWrite v) fun h => h.fhead = w ∧ h.ftail = s.host.ftail)
      ∧ (s.host.ehead ≤ w → w ≤ s.host.etail → s.host.etail < 65536 → to_ (.eheadWrite v) fun h => h.ehead = w ∧ h.etail = s.host.etail))
  ∧ (∀ (addr len : Nat) (data : List (BitVec 8)) (s : State), s.dev.enumerated = true →
      (s.dev.bar2Ok addr data.length = false → ∃ t, exec (.bar2Write addr data) s = .next t ∧ SameBytes s t
        ∧ t.host.dropw = Nat.min (2 ^ 32 - 1) (s.host.dropw + 1))
      ∧ (∀ t rest, s.dev.bar2Ok addr data.length = true → s.host.posted = [] → data ≠ [] →
          ({ s with host := { s.host with posted := chunks 64 addr data } } : State).hostWrites (chunks 64 addr data) = (t, rest) →
          exec (.bar2Write addr data) s = .next { t with host := { t.host with posted := rest } })
      ∧ (s.host.posted ≠ [] → exec (.bar2Read addr len) s = .next s)
      ∧ (s.dev.bar2Ok addr len = false → s.host.posted = [] → exec (.bar2Read addr len) s = .next (s.answer (.data (List.replicate len 0xFF))))
      ∧ (s.dev.bar2Ok addr len = true → s.host.posted = [] →
          (∀ bs, s.hostReads (chunks 64 addr (List.replicate len 0)) [] = .got bs → exec (.bar2Read addr len) s = .next (s.answer (.data bs)))
          ∧ ∀ a, s.hostReads (chunks 64 addr (List.replicate len 0)) [] = .abort (some a) →
              ∃ t, exec (.bar2Read addr len) s = .next t ∧ t.host.answers = s.host.answers ++ [.completerAbort] ∧ t.host.aer = s.host.aer ++ [.completerAbort]
                ∧ ∃ r ∈ t.rel.history, r.src = 0x3010 ∧ r.rung = 3 ∧ r.event = 3 ∧ r.code = 4 ∧ r.addr = a))
  ∧ (∀ (id : Nat) (ok : Bool) (data : List (BitVec 8)) (s : State) (r : HostReq), s.host.reqs.find? (fun r => r.id == id) = some r →
      (∃ t, exec (.hostCompletion id ok data) s = .next t ∧ ∀ x ∈ t.host.reqs, x.id ≠ id)
      ∧ (∀ cl seq l, r.owner = .acc cl seq → (s.cl cl).a.accs.find? (fun l => l.seq == seq && l.pending && l.place == .host) = some l →
          l.op = some .add → l.size = 8 → data.length = 8 →
          ∃ t, exec (.hostCompletion id true data) s = .next t
            ∧ t.hostMem.readN (l.pa - 0x80000000000) 8 = (ofBytes data + l.data) % 2 ^ 64)
      ∧ (∀ cl seq l, r.owner = .acc cl seq → (s.cl cl).a.accs.find? (fun l => l.seq == seq && l.pending && l.place == .host) = some l →
          l.op = none → data.length = r.len → ∃ t, exec (.hostCompletion id true data) s = .next t ∧ t.hostMem.read r.addr r.len = data)
      ∧ (r.sentAt + 50000000 ≤ s.gtc → exec (.hostCompletionTimeout id) s = .next ((s.aerError .timeout).completion r false [])
          ∧ ∃ t, exec (.hostCompletionTimeout id) s = .next t ∧ ∀ x ∈ t.host.reqs, x.id ≠ id)
      ∧ (s.gtc < r.sentAt + 50000000 → exec (.hostCompletionTimeout id) s = .next s))
  ∧ ∀ (s : State), exec .hostAtomicopToBar s = .next (s.answer .unsupported)
      ∧ (s.answer .unsupported).host.aer = s.host.aer ++ [.unsupported]
      ∧ (s.dev.stage < 7 → s.dev.bootFail = 0 → exec .configurationRequest s = .next (s.answer .configRetry))
      ∧ (7 ≤ s.dev.stage ∨ s.dev.bootFail ≠ 0 → exec .configurationRequest s = .next s)
      ∧ ∀ nonce : BitVec 256,
          (s.dev.stage < 2 → s.dev.bootFail < 2 → exec (.attestationRequest nonce) s = .next s)
          ∧ (2 ≤ s.dev.stage ∨ 2 ≤ s.dev.bootFail →
            let m := [nonce.toNat, (identityOf s.dev.secret).toNat, (Config.shake256 Config.romBytes).toNat, (Config.shake256 Config.firmwareBytes).toNat,
              (Config.shake256 (Config.imageBytes s.dev.image)).toNat, s.dev.bootstat]
            ∃ t, exec (.attestationRequest nonce) s = .next t ∧ SameBytes s t
              ∧ t.host.i3c = s.host.i3c ++ [m ++ [Config.falconSign (Config.falconKeys s.dev.secret).2 m]])

/-- The contents that a reset leaves, whatever step bring-up has come to: nothing of a task, context or queue remains, and device memory
reads zero. -/
def resetContents (i : Image) (t : State) : Prop :=
  t.flash = i ∧ t.ctxs = [] ∧ t.queues = [] ∧ t.disp = Disp.reset ∧ t.reqs = [] ∧ t.tags = [] ∧ t.dev.fenced = 0 ∧ (∀ b, t.hbm.byte b = 0) ∧ t.hbmPoison = []
    ∧ ∀ n, (t.cl n).a.run = .idle ∧ (t.cl n).x.run = .idle ∧ (t.cl n).ctl.occ = .free ∧ (t.cl n).sp = [] ∧ (t.cl n).tw = [] ∧ (t.cl n).a.sstat = 1
        ∧ (t.cl n).ctl.mbox = 0x1000000 ∧ (t.cl n).ctl.grant = 1250

/-- A bring-up with these checks and this image has ended: at stage 7 with READY and the image's settings, or with the code of the first
step that fails. -/
def bringUpEnded (c : BootChecks) (i : Image) (t : State) : Prop :=
  resetContents i t ∧ t.dev.boot = none ∧ (t.dev.stage, t.dev.bootFail) = bootResult c i
    ∧ ((bootResult c i).2 ≠ 0 → t.dev.ready = false)
    ∧ ((bootResult c i).2 = 0 → t.dev.ready = true ∧ t.dev.chip = i.chip ∧ t.dev.clsvc = i.svc ∧ t.dev.rsvBase = i.rsvBase
        ∧ t.dev.failed = bootFailed c i ∧ t.dev.top = 0x6000000000 - (bootFailed c i).length * 0x30000000
        ∧ t.dev.alm.toNat = i.alm % 2 ^ 16 ∧ t.dev.gen.toNat = i.gen % 2 ^ 42
        ∧ (∀ p < 16, (t.port p).up = (c.ports.contains p && !i.portsOut.contains p))
        ∧ (∀ p ∈ i.retired, t.pageSt p = .offline) ∧ ∀ cl b, cl < 192 → b < 16 →
            (t.cl cl).ctl.dueOf b = t.dev.bootedAt + t.dev.ivl * (10 ^ 8 / 16) * (16 + b))

/-- R91, R112, R452, R471, R480-R484: power-on, a Function Level Reset and a reset for rejoin discard every content and run bring-up on
the image, step by step, each step within its time; until a step that fails, or the seventh, is over, BOOTSTAT shows the steps that are
done; then bring-up has ended, at stage 7 with READY or with the code of the first check that fails. Where the manual leaves a point open
it says what the model chose (logs 2, 3, 4, 12, 32, 33). -/
def Obligations.BringUp : Prop :=
  (∀ (c : BootChecks) (i : Image) (s : State),
    exec (.functionLevelReset c) s = exec (.powerOn c) s ∧ exec (.rejoinReset s.flash c) s = exec (.powerOn c) s
      ∧ (∃ t, exec (.powerOn c) s = .next t ∧ resetContents s.flash t) ∧ (∃ t, exec (.rejoinReset i c) s = .next t ∧ resetContents i t)
      ∧ ((∀ n ∈ c.times, n = 0) → ∃ t, exec (.rejoinReset i c) s = .next t ∧ bringUpEnded c i t)
      ∧ (0 < c.times.getD 0 0 → ∃ t, exec (.rejoinReset i c) s = .next t ∧ t.dev.stage = 0 ∧ t.dev.bootFail = 0 ∧ t.dev.ready = false
          ∧ t.dev.boot = some { image := i, checks := c, since := s.clk }))
  ∧ ∀ (s : State) (b : Boot), s.dev.boot = some b →
      let e := s.clk - b.since
      let ends (k : Nat) : Nat := ((List.range k).map fun i => Nat.min (b.checks.times.getD i 0) ([200, 300, 400, 100, 50, 500, 50].getD i 0 * 1250000)).sum
      let r := bootResult b.checks b.image
      (∀ k < 7, ends k ≤ e → e < ends (k + 1) → k ≤ r.1 →
        s.bootTurn.dev.stage = k ∧ s.bootTurn.dev.bootFail = s.dev.bootFail ∧ s.bootTurn.dev.ready = s.dev.ready ∧ s.bootTurn.dev.boot = some b)
      ∧ (∀ k ≤ 7, ends k ≤ e → r.1 < k → bringUpEnded b.checks b.image s.bootTurn)
      ∧ (ends 7 ≤ e → bringUpEnded b.checks b.image s.bootTurn)
      ∧ (1600 * 1250000 ≤ e → bringUpEnded b.checks b.image s.bootTurn)

/-! ### The fabric (R45, R63, R105, R293, R297, R463-R472) -/

/-- The rows by which another chip's request reaches this chip. -/
def peerRows (src : TagSource) (tag : Nat) (i : Instr) : Prop :=
  (∃ a n, 1 ≤ n ∧ n ≤ 32 ∧ i = .remoteRead src tag a n) ∨ (∃ a m d, i = .remoteWrite src tag a m d) ∨ (∃ a n op x e, i = .remoteAtomic src tag a n op x e)
    ∨ (∃ r, i = .remoteBankSide src tag r) ∨ ∃ a d, d.length ≤ 32 ∧ i = .decantWriteMsg src tag a d

/-- Part 1 of 2 of `Obligations.PeerRequestsAndResponses`. -/
def Clause.PeerRequests : Prop :=
  ∀ (src : TagSource) (tag : Nat) (s : State),
    (s.fencedChip src.chip = true → ∀ i, peerRows src tag i → exec i s = .next s)
    ∧ (s.fencedChip src.chip = false → src.chip ≠ s.dev.chip → src.chip < 64 →
      let old := s.remembered.find? fun r => r.src == src && r.tag == tag
      (∀ i r, peerRows src tag i → old = some r →
        exec i s = .next (s.send src.chip (.response { agent := src.agent, tag := tag } r.st r.data)))
      ∧ (old = none →
        (∀ addr len bs, 1 ≤ len → len ≤ 32 → isHost addr = false → s.peerCheck src addr len = none → s.hostReads (chunks 64 addr (List.replicate len 0)) [] = .got bs →
          exec (.remoteRead src tag addr len) s = .next (s.respond src tag .done bs))
        ∧ (∀ addr len st, 1 ≤ len → len ≤ 32 → isHost addr = false → s.peerCheck src addr len = some st →
            exec (.remoteRead src tag addr len) s = .next (s.respond src tag st []))
        ∧ (∀ addr data t, isHost addr = false → data.length = 32 → tagMode (s.tag (addr / 65536)) ≠ 3 → s.peerCheck src addr 32 = none →
            s.hostWrites [(addr, data)] = (t, []) → exec (.remoteWrite src tag addr (BitVec.allOnes 32) data) s = .next (t.respond src tag .done []))
        ∧ (∀ addr size op x e bs v t, isHost addr = false → s.peerCheck src addr size = none → s.hbmRead addr size = .ok bs →
            amoNew op size (ofBytes bs) (x.toNat % 256 ^ size) (e.toNat % 256 ^ size) = some v → s.hbmWrite addr (toBytes size v) = .ok t →
            exec (.remoteAtomic src tag addr size op x e) s = .next (t.respond src tag .done bs))
        ∧ (∀ r t bs, s.peerCheck src r.addr (bankSize r) = none → s.bankSide r.addr r = .done t bs →
            exec (.remoteBankSide src tag r) s = .next (t.respond src tag .done (if r.op = .cas then bs else [])))
        ∧ (∀ addr data t, data.length ≤ 32 → addr + data.length ≤ s.dev.top → s.pageSt (addr / 65536) = .inService → s.hostWrites (chunks 64 addr data) = (t, []) →
            exec (.decantWriteMsg src tag addr data) s = .next (t.respond src tag .done []))))

/-- Part 2 of 2 of `Obligations.PeerRequestsAndResponses`. -/
def Clause.Responses : Prop :=
  (∀ (tag : ReqId) (s : State), s.reqs.find? (fun r => r.tag == tag) = none →
    ∀ st v, exec (.remoteResponse tag st v) s = .next s ∧ exec (.requestReissue tag) s = .next s ∧ exec (.peerUnresponsive tag) s = .next s)
  ∧ (∀ (tag : ReqId) (s : State) (r : Req), s.reqs.find? (fun r => r.tag == tag) = some r →
      (∀ cl seq l v, r.owner = .acc cl seq → (s.cl cl).a.accs.find? (fun l => l.seq == seq && l.pending) = some l → l.op = some .add →
        v ≠ [] → l.aq = false → l.orphan = false →
        ∃ t, exec (.remoteResponse tag .done v) s = .next t ∧ (∀ x ∈ t.reqs, x.tag ≠ tag)
          ∧ ∀ m ∈ (t.cl cl).a.loads ++ (t.cl cl).a.stores, m.seq = l.seq → m.val = some (ofBytes (v.take l.size)))
      ∧ (∀ cl seq l, r.owner = .acc cl seq → (s.cl cl).a.accs.find? (fun l => l.seq == seq && l.pending) = some l → l.op = none → l.store = true →
          (∀ m ∈ (s.cl cl).a.stores, m.seq = l.seq → m.orphan = false) →
          ∃ t, exec (.remoteResponse tag .done []) s = .next t ∧ ∀ m ∈ (t.cl cl).a.accs, m.seq ≠ l.seq)
      ∧ (r.held = false → s.unsent r.msg = false → r.sends < 4 → r.lastSent + 1000000 ≤ s.gtc →
          ∃ t, exec (.requestReissue tag) s = .next t ∧ (∃ x ∈ t.reqs, x.tag = tag ∧ x.sends = r.sends + 1 ∧ x.held = false) ∧ SameBytes s t)
      ∧ (r.held = false → s.fencedChip r.peer = true → exec (.peerUnresponsive tag) s = .next (s.undelivered r))
      ∧ (r.held = false → s.unsent r.msg = false → s.fencedChip r.peer = false → 4 ≤ r.sends → r.lastSent + 1000000 ≤ s.gtc →
          exec (.peerUnresponsive tag) s = .next ((s.fenceAll (chipBit r.peer)).undelivered r))
      ∧ ∀ cl id j k, r.owner = .cmd cl id j → s.cmd? cl id = some k → ((s.undelivered r).cmd? cl id) = none)
  ∧ ∀ (src : TagSource) (tag : Nat) (id : ReqId) (s : State),
      (∃ t, exec (.tagMemoryExpiry src tag) s = .next t
        ∧ ∀ r, r ∈ t.remembered ↔ r ∈ s.remembered ∧ ¬(r.src = src ∧ r.tag = tag ∧ r.at_ + 10000000 ≤ s.gtc))
      ∧ ∃ t, exec (.tagReuseExpiry id) s = .next t ∧ ∀ o, o ∈ t.oldTags ↔ o ∈ s.oldTags ∧ ¬(o.1 = id ∧ o.2 + 20000000 ≤ s.gtc)

/-- R45, R59, R61, R101, R293, R467, R469: a fenced chip is not served; a request served before is answered as before; an address outside
what a peer may reach is refused; and a read of up to 32 bytes, a write, an atomic, a bank-side request and a decant write of a page in
service are served once and answered. R45, R63, R467: a response without a request is discarded; one with the data of a load puts the
value where its register will take it; a request without a response goes out again after SLTMO, three times, and then fails, its peer
fenced; tags are remembered for 10 ms and free again after 20 ms. Where the manual leaves a point open it says what the model chose (logs
30, 31, 49). -/
def Obligations.PeerRequestsAndResponses : Prop := Clause.PeerRequests ∧ Clause.Responses

/-- R297, R463-R466, R468-R471: what a NAK, an acknowledgement and an arriving flit do at a port: one with a bad CRC or an unknown TYPE is
answered with a NAK of the expected SEQ, one out of order is discarded, one in order is taken and goes on if it is for another chip; the
64 flits of credit of a virtual channel and the 256 of the replay buffer; a port that goes down and one that trains again; the alignment
of the GTC and its bound; a join, which the master answers once every chip has; and the messages of ICINV. Where the manual leaves a point
open it says what the model chose (logs 13, 28, 67, 96, 105). -/
def Obligations.LinksAndTime : Prop :=
  (∀ (port seq n : Nat) (s : State), (s.port port).up = true → (s.port port).placeOf seq = some n → (s.port port).wait = [] →
    (∃ t, exec (.nak port seq) s = .next t ∧ (t.port port).replay = (s.port port).replay.drop n
      ∧ (t.port port).replays = (if n = 0 then (s.port port).replays + 1 else 1))
    ∧ (∀ f, (s.port port).replay[n]? = some f → ∃ t, exec (.idleAckFlit port seq) s = .next t
        ∧ (t.port port).replay = (s.port port).replay.drop (if f.1 = seq then n + 1 else n)
        ∧ (f.1 = seq → (t.port port).replays = 0) ∧ (t.port port).lastAck = s.gtc))
  ∧ (∀ (port dst : Nat) (m : Msg) (s : State),
      ((s.port port).room m = false → s.sendOn port dst m = s.setPort port { s.port port with wait := (s.port port).wait ++ [(dst, m)] })
      ∧ ((s.port port).room m = true → (s.sendOn port dst m).outbox = s.outbox ++ [(dst, m)]
          ∧ ((s.sendOn port dst m).port port).replay.length = (s.port port).replay.length + 1)
      ∧ (m.vc ≠ none → (s.port port).room m = true → (s.port port).used m.vc + m.flits ≤ 64
          ∧ ((s.port port).replay.map fun f => f.2.2.flits).sum + m.flits ≤ 256))
  ∧ (∀ (port : Nat) (s : State), (s.port port).up = true →
      (∀ f, flitGood f = false → ∃ t, exec (.badCrcFlit port f) s = .next t ∧ t.outbox = s.outbox ++ [(64 + port, .nak (s.port port).rx)]
        ∧ t.port port = { s.port port with crcFails := (s.port port).crcFails + 1 })
      ∧ (∀ type from_ dst seq ack vc pay, type < 256 → dst < 64 → seq < 4096 → ack < 4096 →
          let f := flitBytes type from_ dst seq ack vc pay
          let taken := (s.setPort port { s.port port with rx := ((s.port port).rx + 1) % 4096 }).acked port ack
          flitGood f = true
          ∧ (typeKnown type = false → ∃ t, exec (.badCrcFlit port f) s = .next t ∧ t.outbox = s.outbox ++ [(64 + port, .nak (s.port port).rx)])
          ∧ (type ≤ 1 → exec (.badCrcFlit port f) s = exec (.idleAckFlit port ack) s)
          ∧ (typeKnown type = true → 1 < type → seq ≠ (s.port port).rx → exec (.badCrcFlit port f) s = .next s)
          ∧ (typeKnown type = true → 1 < type → seq = (s.port port).rx →
            (taken.port port).rx = (seq + 1) % 4096
            ∧ (dst = s.dev.chip → exec (.badCrcFlit port f) s = .next taken)
            ∧ (dst ≠ s.dev.chip → exec (.badCrcFlit port f) s = .next (taken.send dst (.transit f) (transitHash f)))))
      ∧ ((s.port port).replays < 16 → s.gtc < (s.port port).lastAck + 100000 ∨ (s.port port).replay = [] → exec (.portDown port) s = .next s)
      ∧ (16 ≤ (s.port port).replays → ∃ t, exec (.portDown port) s = .next t ∧ (t.port port).up = false ∧ (t.port port).replay = []
          ∧ (t.port port).trainAt = s.gtc + 10000000 ∧ ∃ r ∈ t.rel.history, r.src = 0x3000 + port ∧ r.rung = 1 ∧ r.event = 0x16)
      ∧ ((s.port port).alignAt ≤ s.gtc → (s.port port).room (.gtc s.gtc) = true → ∃ t, exec (.gtcAlignTimer port) s = .next t ∧ t.outbox = s.outbox ++ [(64 + port, .gtc s.gtc)]
          ∧ (t.port port).alignAt = s.gtc + 100000))
  ∧ (∀ (port : Nat) (s : State), (s.port port).up = false → port < 16 → port ∉ s.dev.image.portsOut → (s.port port).trainAt ≤ s.gtc →
      s.dev.ready = true →
      (∃ t, exec (.portRetrain port true) s = .next t ∧ t.port port
        = { Port.reset with up := true, lastAck := s.gtc, alignAt := s.gtc, crcFails := (s.port port).crcFails })
      ∧ ∃ t, exec (.portRetrain port false) s = .next t ∧ t.port port = { s.port port with trainAt := s.gtc + 10000000 })
  ∧ (∀ (chip stamp : Nat) (s : State),
      let bound (t : State) : Prop := NMap.get 0 t.dev.aligned chip = s.gtc
      (s.fencedChip chip = true → exec (.gtcAlignMsg chip stamp) s = .next s)
      ∧ (s.fencedChip chip = false → ∃ t, exec (.gtcAlignMsg chip stamp) s = .next t
        ∧ (s.master ≠ s.dev.chip → t.slew = (stamp : Int) - s.gtc) ∧ (s.master = s.dev.chip → t.slew = s.slew)
        ∧ (stamp ≤ s.gtc + 25 → s.gtc ≤ stamp + 25 → bound t) ∧ (s.gtc + 25 < stamp ∨ stamp + 25 < s.gtc → t.dev = s.dev) ∧ SameBytes s t)
      ∧ (let last := Nat.max s.dev.bootedAt (NMap.get 0 s.dev.aligned chip)
        s.master = s.dev.chip → chip ∈ s.peers →
          (last + 1000000 ≤ s.gtc → exec (.gtcBoundLost chip) s = .next (s.fenceAll (chipBit chip)))
          ∧ (s.gtc < last + 1000000 → exec (.gtcBoundLost chip) s = .next s)))
  ∧ (∀ (j : JoinNote) (s : State), s.fencedChip j.src = false → j.src ≠ s.dev.chip → j.src < 64 →
      s.remembered.find? (fun r => r.src == ⟨j.src, .samovar⟩ && r.tag == j.tag) = none →
      (j ∉ s.joins → ∃ t, exec (.joinMsg j) s = .next t ∧ t.dev.fenced = s.dev.fenced &&& ~~~chipBit j.chip
        ∧ (s.master = s.dev.chip → t.joins = s.joins ++ [j]) ∧ (s.master ≠ s.dev.chip → t.joins = s.joins))
      ∧ (j ∈ s.joins →
        (s.joinOpen j.chip = true → exec (.joinMsg j) s = .next s)
        ∧ (s.joinOpen j.chip = false →
            exec (.joinMsg j) s = .next (({ s with joins := s.joins.erase j } : State).respond ⟨j.src, .samovar⟩ j.tag .done []))))
  ∧ (∀ (src id cid va len : Nat) (s : State), s.fencedChip src = false →
      ∃ t, exec (.icinvMsg src id cid va len) s = .next t ∧ ∀ n, (t.cl n).a.icache = ((s.icDropAll (fun _ => true) cid va len).cl n).a.icache
        ∧ (t.cl n).x.icache = ((s.icDropAll (fun _ => true) cid va len).cl n).x.icache)
  ∧ ∀ (id chip : Nat) (s : State),
      (id % 64 = s.dev.chip → ∃ t, exec (.icinvAckMsg id chip) s = .next t
        ∧ ∀ i ∈ t.icinvs, i.id = id → chip < 64 → i.got.getLsbD chip = true)
      ∧ (id % 64 ≠ s.dev.chip → exec (.icinvAckMsg id chip) s = .next (s.send (s.parent (id % 64)) (.icinvAck id chip)))

/-! ### Fetching, decoding, reset and what every step keeps -/

/-- The state in which a turn `dt` clk later, with the lag of its cluster's Vigil core, finds cluster `cl`. -/
def turnState (s : State) (dt cl : Nat) (lag : Option (Nat × Nat)) (ts : List Turn) : State :=
  { (({ s with agenda := ts } : State).elapse dt).bootTurn.vigilLag lag with focus := cl }

/-- Syllable `y` runs at `s`, and the Vigil core runs it again: `v` is the state after both. -/
def ranSyl (s : State) (y : Syl) (v : State) : Prop :=
  ∃ i u, y.ins = .ok i ∧ exec i { s with slot := y.slot } = .next u ∧ v = ({ s with slot := y.slot } : State).vigilX exec i u

/-- R184, R187, R189, R206, R211, R222, R226-R228, R265-R268, R276, R281, R285, R415, R416, R418, R432, R483 and the model's agenda (log
1): a step is a turn of the agenda, after the time of that turn has passed. On the turn of an A-core a pending trap is taken first, once
every earlier instruction has completed. On that of one that issues, the word at its pc is decoded and step is exec of that instruction,
run again by the Vigil core, which changes nothing while its registers agree; a privileged word in mode T and a word that does not decode
trap, as does a pc that is not canonical; with a pre-emption request in mode T the core halts, unless the instruction traps. A turn ahead
runs an integer or control instruction past one that waits, unless it names the register that this one is to write. On the turn of an
X-core whose vcyc is ready, step is exec of the decoded instruction of each slot in turn. A row that is not an instruction is run as it
stands, the end of a vcyc with the issue of the next, and with an empty agenda a device that has been brought up lets a clk pass. -/
def Obligations.StepRunsDecoded : Prop :=
  (∀ (s : State) (dt cl : Nat) (lag : Option (Nat × Nat)) (ts : List Turn), s.agenda = { dt := dt, who := .acore cl, lag := lag } :: ts → cl < 192 →
    let e := turnState s dt cl lag ts
    (e.trapPending cl = true → step s = .next (e.takePending cl)
      ∧ (∀ x, e.xTrapDue cl = some x → e.takePending cl = e.takeXTrap cl x)
      ∧ ((e.cl cl).a.clean = false → e.takePending cl = e))
    ∧ (e.trapPending cl = false → e.a.run = .run → e.a.precise = true → e.cur.vigil.behind = false →
      (e.a.mode = .t → e.cur.ctl.preempt = true → step s = e.haltTurn exec
        ∧ ∀ t u, e.instrTurn exec = .next t → e.allDone.instrTurn exec = .next u →
          ((t.cl cl).a.mode = .s → step s = .next t)
          ∧ ((t.cl cl).a.mode = .t → (u.cl cl).a.mode = .s → step s = .next e)
          ∧ ((t.cl cl).a.mode = .t → (u.cl cl).a.mode = .t →
            ∃ v, step s = .next v ∧ (v.cl cl).a.run = .frozen ∧ (v.cl cl).a.wait = none ∧ (v.cl cl).a.pc = e.a.pc ∧ (v.cl cl).a.g = e.a.g ∧ SameBytes e v))
      ∧ ((e.a.mode = .t → e.cur.ctl.preempt = false) →
        (2 ^ 52 ≤ e.a.pc.toNat → step s = .next (e.spaceFault kNonCanonical e.a.pc))
        ∧ ∀ data t, e.a.pc.toNat < 2 ^ 52 → e.fetchLine cl false e.a.pc.toNat = .got data t →
            let w : W64 := BitVec.ofNat 64 (ofBytes ((data.drop (e.a.pc.toNat % 64)).take 8))
            let opc := (w.extractLsb' 56 8).toNat
            (t.a.mode = .t → 0xF0 ≤ opc → opc ≤ 0xF9 → step s = .next (e.caughtUp (t.trapHere 0x02 0 w)))
            ∧ (¬(t.a.mode = .t ∧ 0xF0 ≤ opc ∧ opc ≤ 0xF9) →
                (∀ i, decodeA w = .ok i →
                  (∀ u, exec i t = .next u → step s = .next (e.caughtUp (t.vigilA exec i w u)))
                  ∧ ∀ f, exec i t = .fault f → step s = .fault f)
                ∧ ∀ r, decodeA w = .error r → step s = .next (e.caughtUp (t.trapHere 0x01 r.code w))))))
  ∧ (∀ (i : Instr) (w : W64) (s u : State),
      (s.cur.vigil.g = s.a.g → s.vigilA exec i w u = u)
      ∧ (s.cur.vigil.x = s.x.x → s.cur.vigil.lc = s.x.lc → s.cur.vigil.ec = s.x.ec → s.cur.vigil.rb = s.x.rb → s.vigilX exec i u = u))
  ∧ (∀ (s : State) (dt cl : Nat) (lag : Option (Nat × Nat)) (ts : List Turn), s.agenda = { dt := dt, who := .ahead cl, lag := lag } :: ts → cl < 192 →
      let e := turnState s dt cl lag ts
      (e.a.wait = none → step s = .next e)
      ∧ ∀ w, e.a.wait = some w →
        let h := w.ahead.getD { pc := e.a.pc + 8, gs := [], vs := [] }
        (w.kind.passed = false → step s = .next e)
        ∧ ∀ l i n k f, w.kind.passed = true → e.trapPending cl = false → e.a.run = .run → e.cur.vigil.behind = false → (e.a.mode = .t → e.cur.ctl.preempt = false) →
            h.pc.toNat < 2 ^ 52 → e.a.icache.find? (fun l => l.cid == e.runCid cl && l.addr == h.pc.toNat / 64 * 64) = some l →
            let word : W64 := BitVec.ofNat 64 (ofBytes ((l.data.drop (h.pc.toNat % 64)).take 8))
            decodeA word = .ok i → i.aForm = some (n, k, f) →
            (formedWord word = false → step s = .next e)
            ∧ (w.dst ≠ 0 → w.dst ∈ namedRegs i f → step s = .next e)
            ∧ ∀ u, formedWord word = true → (w.dst = 0 ∨ w.dst ∉ namedRegs i f) →
                let p := e.onCl cl fun c => c.passing h
                exec i p = .next u →
                  (u.a.run ≠ .run ∨ u.a.mode ≠ p.a.mode ∨ u.a.sstat ≠ p.a.sstat ∨ u.a.pc = p.a.pc ∨ u.a.wait.isSome = true → step s = .next e)
                  ∧ (u.a.run = .run → u.a.mode = p.a.mode → u.a.sstat = p.a.sstat → u.a.pc ≠ p.a.pc → u.a.wait = none →
                    step s = .next (e.passOn exec w h i word f.d.toNat p u)
                    ∧ (p.cur.vigil.g = p.a.g → ∃ v h', step s = .next v ∧ (v.cl cl).a.pc = e.a.pc ∧ (v.cl cl).a.g = e.a.g ∧ (v.cl cl).a.wait = some { w with ahead := some h' }
                      ∧ h'.pc = u.a.pc ∧ (f.d ≠ 0 → (f.d.toNat, NMap.get 0 u.a.g f.d.toNat) ∈ h'.gs))))
  ∧ (∀ (s : State) (dt cl : Nat) (lag : Option (Nat × Nat)) (ts : List Turn) (t : State) (ys : List Syl),
      s.agenda = { dt := dt, who := .xcore cl, lag := lag } :: ts → cl < 192 →
      let e := turnState s dt cl lag ts
      let b := t.onX cl (fun x => { x with ckptNow := false })
      e.x.run = .run → e.x.issued = false → e.x.freeze = none → e.xReady = .go t ys →
        (∀ y ∈ ys, ∃ i forks, y.ins = .ok i ∧ decodePlaced y.word y.slot y.addr e.x.indep forks = .ok i)
        ∧ (∀ y v, ys = [y] → ranSyl b y v → step s = .next (v.xIssued e.x ys))
        ∧ ∀ y₀ y₁ y₂ y₃ v₀ v₁ v₂ v₃, ys = [y₀, y₁, y₂, y₃] →
            ranSyl b y₀ v₀ → v₀.x.run ≠ .idle → ranSyl v₀ y₁ v₁ → v₁.x.run ≠ .idle → ranSyl v₁ y₂ v₂ → v₂.x.run ≠ .idle → ranSyl v₂ y₃ v₃ →
            step s = .next (v₃.xIssued e.x ys))
  ∧ (∀ (s : State) (dt : Nat) (i : Instr) (lag : Option (Nat × Nat)) (ts : List Turn), s.agenda = { dt := dt, who := .event i, lag := lag } :: ts →
      let e := (({ s with agenda := ts } : State).elapse dt).bootTurn.vigilLag lag
      (i.fetched = false → (∀ cl x, i ≠ .vcyc cl x) → step s = exec i e)
      ∧ (∀ cl x u, i = .vcyc cl x → exec i e = .next u →
          step s = if (e.cl cl).x.vcyc < (u.cl cl).x.vcyc then xTurn exec cl u else .next u)
      ∧ (i.fetched = true → step s = .refused .notAnEvent))
  ∧ ∀ (s : State), s.agenda = [] →
      (s.dev.stage ≠ 0 ∨ s.dev.bootFail ≠ 0 ∨ s.dev.boot ≠ none → step s = .next (s.elapse 1).bootTurn)
      ∧ (s.dev.stage = 0 → s.dev.bootFail = 0 → s.dev.boot = none →
          step s = exec (.powerOn { fwOk := true, imgOk := true, trainFail := [], ports := [], times := [] }) s)

/-- Words of the spec's examples decode to the instructions they stand for: R274, R206, R280, R382, R389, R216 and R220. -/
def Obligations.DecodedWords : Prop :=
  let af (ocl : BitVec 4) (d sa sb : BitVec 6) (imm : BitVec 32) : AF := { pcl := 0, ocl := ocl, d := d, sa := sa, sb := sb, imm := imm }
  decodeTableWord 64 0x1004310000000005 = some (.shlImm (af 1 3 4 0 5))
    ∧ decodeTableWord 64 0x514C010704000010 = some (.st { af 3 0 4 7 0x04000010 with pcl := 1 })
    ∧ decodeTableWord 64 0x44000083FFFFFFFD = some (.bltn (af 0 0 2 3 0xFFFFFFFD))
    ∧ decodeTableWord 64 0xF10061C000000030 = some (.csrwr (af 0 6 7 0 0x30))
    ∧ decodeTableWord 64 0xF900B28000000000 = some (.errpop (af 0 11 10 0 0))
    ∧ (∃ f, decodeTableWord 128 0x887330A01013F000009000003F800000 = some (.ffma f) ∧ f.ls = true ∧ f.ty = 9 ∧ f.neg = true
        ∧ f.gp = 3 ∧ f.d = .reg 5 0 ∧ f.a = .reg 1 0 ∧ f.b = .reg 2 1 ∧ f.imm = 0x009000003F800000)
    ∧ (∃ f, decodeTableWord 128 0x98000000600000000000000100000003 = some (.mma f) ∧ f.imm = 0x0000000100000003)
    ∧ decodeTableWord 64 0x0000000000000000 = none

/-- R206, R210, R212, R214, R221: the encoder and the decoder agree, for every instruction and syllable with every operand at every value
its encoding admits, and for every word. -/
def Obligations.DecodeEncodeAgree : Prop :=
  ∀ (i : Instr) (n w : Nat),
    (i.fetched = true ∧ i.wf = true ∧ encode i = some (n, w)) ↔ (w < 2 ^ n ∧ decodeTableWord n w = some i)

/-- R60, R77, R92, R137, R375-R380, R390, R475, R484: what reset leaves where the spec states it. Every memory reads zero, as R483's step
5 leaves it, and the canonical forms hold; that memory reads zero before bring-up is the model's choice (log 3). -/
def Obligations.ResetState : Prop :=
  let s := State.reset
  (∀ cl, s.csr cl 0x000 = 1 ∧ s.csr cl 0x001 = 0 ∧ s.csr cl 0x002 = 0 ∧ s.csr cl 0x003 = 0 ∧ s.csr cl 0x005 = 0 ∧ s.csr cl 0x010 = 0
      ∧ (∀ n, 0x032 ≤ n → n ≤ 0x035 → s.csr cl n = 0) ∧ s.csr cl 0x030 = 0x1000000 ∧ s.csr cl 0x038 = 0 ∧ s.csr cl 0x039 = 0
      ∧ s.csr cl 0x040 = 0 ∧ s.csr cl 0x042 = 100 + 200 * 2 ^ 8 ∧ s.csr cl 0x060 = 1000 + 20 * 2 ^ 16 + 1000 * 2 ^ 26
      ∧ s.csr cl 0x020 = 100 * 2 ^ 16 ∧ (s.cl cl).ctl.grant = 1250 ∧ (s.cl cl).a.mode = .s ∧ (s.cl cl).a.run = .idle)
    ∧ s.dev.stage = 0 ∧ s.dev.bootFail = 0 ∧ s.dev.ready = false
    ∧ (∀ a, s.hbm.byte a = 0 ∧ s.hostMem.byte a = 0 ∧ ∀ n, (s.cl n).sp.byte a = 0 ∧ (s.cl n).tw.byte a = 0)
    ∧ s.memWf = true ∧ s.rel.samLog.length ≤ 16 ∧ s.rel.evWait.length ≤ 1024

/-- R445, R462 and the model's own form of memory (log 6): no step breaks the canonical form of a memory, Samovar's log never holds more
than 16 records, and the event ring never keeps more than 1,024 records waiting. -/
def Obligations.EveryStepKeeps : Prop :=
  ∀ (s t : State), s.memWf = true → s.rel.samLog.length ≤ 16 → s.rel.evWait.length ≤ 1024 → step s = .next t →
    t.memWf = true ∧ t.rel.samLog.length ≤ 16 ∧ t.rel.evWait.length ≤ 1024

/-- Part 1 of 3 of `Obligations.WaitingFormsComplete`. -/
def Clause.FormsComplete : Prop :=
  ∀ (f : AF) (s : State),
    let m := f.imm.toNat
    let n := m % 8
    let cid := s.runCid s.focus
    let wins (t : State) (i : Nat) : Option Window := NMap.get none t.a.wins i
    let completes (i : Instr) (p : State → Prop) : Prop := ∃ t, exec i s = .next t ∧ t.a.pc = s.a.pc + 8 ∧ t.a.wait = none ∧ SameBytes s t ∧ p t
    let regs (t : State) : Prop := ∀ r, t.g r = s.g r
    let clear := ∀ i < 8, m.testBit i = true → s.winCount s.focus i = 0
    let v := (s.g f.sa).toNat
    let len := (s.g f.sb).toNat
    ((∀ l ∈ (s.runA s.focus).accs, l.pending = false) → s.runCmds s.focus = [] →
      completes (.fence f) fun t => regs t ∧ t.a.l1 = if 2 ≤ m / 2 ^ 16 % 4 then [] else s.a.l1)
    ∧ (clear → completes (.fencew f) fun t => regs t ∧ t.a.wins = s.a.wins)
    ∧ (clear → completes (.wclr f) fun t => regs t ∧ ∀ i < 8, wins t i = if m.testBit i then none else wins s i)
    ∧ (s.ready [f.sa, f.sb] = true → s.winCount s.focus n = 0 → 0 < len →
        (v + len ≤ 2 ^ 52 → completes (.wset f) fun t => regs t ∧ wins t n = some { sp := false, cl := 0, base := v, len := len })
        ∧ ∀ a, v = 2 ^ 62 + 255 * 2 ^ 22 + a → a + len ≤ 0x300000 →
            completes (.wset f) fun t => regs t ∧ wins t n = some { sp := true, cl := s.focus, base := a, len := len })
    ∧ (let h := m / 2 ^ 16 % 2 ^ 16
      s.handleCheck cid h = none → s.entryBad (s.htab cid + 64 * h) = false → s.winCount s.focus n = 0 →
        completes (.wsetHandle f) fun t => regs t ∧ wins t n = some (s.handleWindow cid h))
    ∧ (s.ready [f.sa, f.sb] = true → v < 2 ^ 52 → v + len ≤ 2 ^ 52 →
        (len = 0 → completes (.icinv f) fun t => regs t ∧ t.a.icache = s.a.icache)
        ∧ (0 < len → m % 4 < 3 → completes (.icinv f) fun t => regs t
            ∧ ∀ l, l ∈ t.a.icache ↔ l ∈ s.a.icache ∧ ¬ (l.cid = cid ∧ l.addr < v + len ∧ v < l.addr + 64))
        ∧ ∀ i, 0 < len → m % 4 = 3 → s.peers ≠ [] → s.a.wait.isSome = true → s.icinvs.find? (fun i => i.cl == some s.focus) = some i →
            s.icinvDone i = true → completes (.icinv f) fun t => regs t ∧ t.icinvs = s.icinvs.erase i)
    ∧ (completes (.icsync f) fun t => regs t ∧ t.a.icache = [] ∧ ∀ r ∈ t.reqs, r.owner.fetchOf s.focus false = false)
    ∧ (s.ready [f.d] = true → ∃ t, exec (.csrrd f) s = .next t ∧ t.a.pc = s.a.pc + 8
        ∧ ∀ r, t.g r = if r = f.d ∧ f.d ≠ 0 then BitVec.ofNat 64 (s.csr s.focus (m % 4096)) else s.g r)
    ∧ (s.ready [f.d, f.sa] = true → 8 ≤ m % 4096 → m % 4096 ≤ 11 → ∃ t, exec (.csrwr f) s = .next t ∧ t.a.pc = s.a.pc + 8
        ∧ t.csr s.focus (m % 4096) = v ∧ ∀ r, t.g r = if r = f.d ∧ f.d ≠ 0 then BitVec.ofNat 64 (s.csr s.focus (m % 4096)) else s.g r)
    ∧ (s.ready [f.d, f.sa, f.sb] = true → rangeBad (s.invScope f) = none → (∀ l ∈ (s.runA s.focus).accs, l.pending = false) → s.runCmds s.focus = [] →
        (rangeEmpty (s.invScope f) = true → completes (.tlbinv f) regs)
        ∧ (s.reqs = [] → s.host.reqs = [] → (∀ e ∈ s.clusters, e.2.a.loads = [] ∧ e.2.a.stores = []) → rangeEmpty (s.invScope f) = false →
            completes (.tlbinv f) fun t => regs t ∧ t.llt = (s.dropTranslations (s.invScope f)).llt ∧ t.a.tlb = (s.dropTranslations (s.invScope f)).a.tlb)
        ∧ (s.a.wait = none → rangeEmpty (s.invScope f) = true →
            completes (.shoot f) fun t => ∀ r, t.g r = if r = f.d ∧ f.d ≠ 0 then 0 else s.g r))
    ∧ ∀ x, s.ready [f.d, f.sa, f.sb] = true → rangeBad (s.invScope f) = none → s.a.wait.isSome = true →
        s.shoots.find? (fun y => y.owner == .core s.focus) = some x → s.shootDone x = true →
        ∃ t, exec (.shoot f) s = .next t ∧ t.a.pc = s.a.pc + 8 ∧ ∀ r, t.g r = if r = f.d ∧ f.d ≠ 0 then x.fencedMask else s.g r

/-- Part 2 of 3 of `Obligations.WaitingFormsComplete`. -/
def Clause.RegisterRowsComplete : Prop :=
  ∀ (cl : Nat) (v : BitVec 64) (s : State),
    (∃ t, exec (.crPendWrite cl v) s = .next t ∧ (t.cl cl).a.pend = (s.cl cl).a.pend &&& ~~~(v &&& 7))
    ∧ (∃ t, exec (.crErbaseWrite v) s = .next t ∧ t.dev.erbase = v &&& BitVec.ofNat 64 (2 ^ 63 + (2 ^ 44 - 2 ^ 12) + 15))
    ∧ (∃ t, exec (.crErheadWrite v) s = .next t ∧ t.dev.erOvf = (s.dev.erOvf && !v.getLsbD 63) ∧ t.dev.erHead = s.dev.erHead)
    ∧ (s.dev.erTail ≤ v.toNat % 2 ^ 32 → v.toNat % 2 ^ 32 ≤ s.dev.erHead → s.dev.erHead < s.dev.erSize →
        ∃ t, exec (.crErtailWrite v) s = .next t ∧ t.dev.erTail = v.toNat % 2 ^ 32)
    ∧ ((s.cl cl).x.run = .idle → ∃ t, exec (.crXfpLsWrite cl 0x039 v) s = .next t ∧ (t.cl cl).x.ls = BitVec.ofNat 64 (v.toNat % 2 ^ 58))
    ∧ (∃ t, exec (.crMboxWrite cl v) s = .next t ∧ (t.cl cl).ctl.mbox = v &&& 0xFFFFF00)
    ∧ (∃ t, exec (.crDeviceWrite 0x042 v) s = .next t ∧ t.dev.alm = v &&& 0xFFFF)
    ∧ ∃ t, exec (.crWrite cl 0x004 v) s = .next t ∧ (t.cl cl).a.tvec = v &&& ~~~7#64

/-- Part 3 of 3 of `Obligations.WaitingFormsComplete`. -/
def Clause.WaitersComplete : Prop :=
  ∀ (cl : Nat) (s : State) (w : Wait), (s.cl cl).a.wait = some w →
    let u : State := { s with focus := cl }
    let m := w.f.imm.toNat
    let k := m % 16
    let q := quadOf cl
    let b := s.buf q (m % 64)
    let sem (t : State) (j : Nat) : Nat := NMap.get 0 (t.cl cl).a.sems j
    let past (i : Instr) (p : State → Prop) : Prop :=
      ∃ t, exec i s = .next t ∧ (t.cl cl).a.pc = (s.cl cl).a.pc + 8 ∧ (t.cl cl).a.wait = none ∧ SameBytes s t ∧ p t
    (w.kind = .semp → w.ahead = none → m / 2 ^ 16 % 2 ^ 16 ≤ sem s k → (s.cl cl).a.acqPending = false → (s.cl cl).x.freeze ≠ some (.sem k) →
      past (.waiterSatisfied cl) fun t => ∀ j, sem t j = if j = k then sem s k - m / 2 ^ 16 % 2 ^ 16 else sem s j)
    ∧ (w.kind = .bgive → m / 2 ^ 8 % 8 = 4 → b.st = 1 → b.who = quadPos cl →
        u.a.rangeDrained (u.a.cmds ++ u.runCmds cl) (u.homeCl b) (b.base * 16384) (b.len * 16384) = true → u.recordsClear b = true →
        (u.runA cl).seenPending cl u.a.seq .qd = false →
        past (.bgiveReleaseDone cl) fun t => NMap.get Buf.free t.bufs (64 * q + m % 64) = Buf.free)
    ∧ (w.kind = .txbegin → ∀ cid slot ws p ps t, slot = m % 4 → cid = s.runCid cl → s.txWaiter cid slot = some (cl, w.f) →
        u.ready [w.f.d, w.f.sa, w.f.sb] = true → u.txbeginErr w.f = none → (s.ctx cid).tx slot = Tx.free → u.a.txWindows (m / 4 % 256) = some ws →
        u.allPages cid ws [] false = (.ok p, ps, false, t) → (t.ctx cid).tx slot = Tx.free → (t.g w.f.sb).getLsbD t.dev.chip = true →
        ∃ v, exec (.txbeginOpen cid slot) s = .next v ∧ ((v.ctx cid).tx slot).st = .open ∧ ((v.ctx cid).tx slot).txid = m / 2 ^ 16 % 2 ^ 16)

/-- R44, R73, R127, R130, R148-R150, R161, R170, R285, R295-R297, R309, R310, R374, R378, R382, R387, R390, R442-R444: where the forms
that can wait complete, with the effect of each, and what the rows that write a control register leave: FENCE with nothing outstanding;
FENCEW, WSET and WCLR over windows whose COUNT is 0; ICINV in a scope within the chip, over nothing, and after the last acknowledgement;
ICSYNC; CSRRD and CSRWR; TLBINV and SHOOT; a SEMP, a BGIVE and a TXBEGIN that have waited. Where the manual leaves a point open it says
what the model chose (logs 15, 43, 53). -/
def Obligations.WaitingFormsComplete : Prop := Clause.FormsComplete ∧ Clause.RegisterRowsComplete ∧ Clause.WaitersComplete
end

