-- ==== Sys2Proof/Laws/Map.lean ====
section
/-! SUPPORT. Laws of the sparse tables: a read after a write, the canonical form, and that equal readings are equal tables. -/

namespace Sys2Proof.Machine
open Sys2Proof

variable {α : Type} [DecidableEq α] {d : α}

theorem NMap.wfFrom_mono {lo lo' : Nat} {m : NMap α} (h : NMap.wfFrom d lo m = true) (hle : lo' ≤ lo) :
    NMap.wfFrom d lo' m = true := by
  cases m with
  | nil => rfl
  | cons e m =>
    simp only [NMap.wfFrom, Bool.and_eq_true, decide_eq_true_eq] at h ⊢
    exact ⟨⟨by omega, h.1.2⟩, h.2⟩

/-- Below its keys a table reads as the default. -/
theorem NMap.get_below {lo i : Nat} {m : NMap α} (h : NMap.wfFrom d lo m = true) (hi : i < lo) : NMap.get d m i = d := by
  cases m with
  | nil => rfl
  | cons e m =>
    simp only [NMap.wfFrom, Bool.and_eq_true, decide_eq_true_eq] at h
    simp [NMap.get, show i < e.1 by omega]

theorem NMap.above_of_wf {lo i : Nat} {m : NMap α} (h : NMap.wfFrom d lo m = true) (hi : i < lo) : NMap.above m i = m := by
  cases m with
  | nil => rfl
  | cons e m =>
    simp only [NMap.wfFrom, Bool.and_eq_true, decide_eq_true_eq] at h
    simp [NMap.above, show ¬ e.1 ≤ i by omega]

/-- Another key reads after a write as before, in every table. -/
theorem NMap.get_set_ne (m : NMap α) {i j : Nat} (v : α) (h : j ≠ i) : NMap.get d (NMap.set d m i v) j = NMap.get d m j := by
  have habove : ∀ (n : NMap α), i < j → NMap.get d (NMap.above n i) j = NMap.get d n j := by
    intro n hij
    induction n with
    | nil => rfl
    | cons e n ih =>
      simp only [NMap.above]
      split
      · rw [ih]; simp [NMap.get, show ¬ j < e.1 by omega, show j ≠ e.1 by omega]
      · rfl
  induction m with
  | nil =>
    by_cases hv : v = d
    · simp [NMap.set, hv]
    · simp [NMap.set, hv, NMap.get, h]
  | cons e m ih =>
    by_cases h1 : i < e.1
    · by_cases hv : v = d
      · simp [NMap.set, h1, hv]
      · by_cases h2 : j < i
        · simp [NMap.set, h1, hv, NMap.get, h2, show j < e.1 by omega]
        · simp [NMap.set, h1, hv, NMap.get, h2, h]
    · by_cases h2 : i = e.1
      · rcases Nat.lt_or_gt_of_ne h with h3 | h3
        · have hb : ∀ n : NMap α, NMap.get d (NMap.above n i) j = d := by
            intro n
            induction n with
            | nil => rfl
            | cons e n ih =>
              simp only [NMap.above]
              split
              · exact ih
              · simp [NMap.get, show j < e.1 by omega]
          by_cases hv : v = d
          · simp only [NMap.set, h2, hv, if_true, if_false, lt_irrefl]
            rw [← h2, hb]; simp [NMap.get, show j < e.1 by omega]
          · simp only [NMap.set, h2, hv, if_true, if_false, lt_irrefl]
            simp [NMap.get, show j < e.1 by omega]
        · by_cases hv : v = d
          · simp only [NMap.set, h2, hv, if_true, if_false, lt_irrefl]
            rw [← h2, habove m h3]; simp [NMap.get, show ¬ j < e.1 by omega, show j ≠ e.1 by omega]
          · simp only [NMap.set, h2, hv, if_true, if_false, lt_irrefl]
            simp only [NMap.get, show ¬ j < e.1 by omega, show j ≠ e.1 by omega, if_false]
            rw [← h2, habove m h3]
      · simp only [NMap.set, h1, h2, if_false, NMap.get, ih]

omit [DecidableEq α] in
/-- What is left above a key reads at that key as the default. -/
theorem NMap.get_above_self (m : NMap α) (i : Nat) : NMap.get d (NMap.above m i) i = d := by
  induction m with
  | nil => rfl
  | cons e m ih =>
    simp only [NMap.above]
    split
    · exact ih
    · simp [NMap.get, show i < e.1 by omega]

/-- A key reads after a write as what was written, in every table. -/
theorem NMap.get_set_self (m : NMap α) (i : Nat) (v : α) : NMap.get d (NMap.set d m i v) i = v := by
  induction m with
  | nil => by_cases hv : v = d <;> simp [NMap.set, hv, NMap.get]
  | cons e m ih =>
    by_cases h1 : i < e.1
    · by_cases hv : v = d <;> simp [NMap.set, h1, hv, NMap.get]
    · by_cases h2 : i = e.1
      · by_cases hv : v = d
        · simp only [NMap.set, h2, hv, if_true, if_false, lt_irrefl]
          exact NMap.get_above_self m e.1
        · simp [NMap.set, h2, hv, NMap.get]
      · simp only [NMap.set, h1, h2, if_false, NMap.get]
        exact ih

/-- A write keeps the canonical form. -/
theorem NMap.wfFrom_set {lo : Nat} {m : NMap α} (hm : NMap.wfFrom d lo m = true) (i : Nat) (v : α) :
    NMap.wfFrom d (Nat.min lo i) (NMap.set d m i v) = true := by
  induction m generalizing lo with
  | nil =>
    by_cases hv : v = d
    · simp [NMap.set, hv, NMap.wfFrom]
    · simp [NMap.set, hv, NMap.wfFrom]
  | cons e m ih =>
    have h0 := hm
    simp only [NMap.wfFrom, Bool.and_eq_true, decide_eq_true_eq] at hm
    by_cases h1 : i < e.1
    · by_cases hv : v = d
      · simp only [NMap.set, h1, hv, if_true]
        exact NMap.wfFrom_mono h0 (Nat.min_le_left _ _)
      · simp only [NMap.set, h1, hv, if_true, if_false, NMap.wfFrom, Bool.and_eq_true, decide_eq_true_eq]
        exact ⟨⟨Nat.min_le_right _ _, by simp⟩, ⟨⟨by omega, hm.1.2⟩, hm.2⟩⟩
    · by_cases h2 : i = e.1
      · by_cases hv : v = d
        · simp only [NMap.set, h2, hv, if_true, if_false, lt_irrefl]
          rw [NMap.above_of_wf hm.2 (by omega)]
          exact NMap.wfFrom_mono hm.2 (Nat.le_trans (Nat.min_le_right _ _) (by omega))
        · simp only [NMap.set, h2, hv, if_true, if_false, lt_irrefl, NMap.wfFrom, Bool.and_eq_true, decide_eq_true_eq]
          rw [NMap.above_of_wf hm.2 (by omega)]
          exact ⟨⟨Nat.min_le_right _ _, by simp⟩, hm.2⟩
      · simp only [NMap.set, h1, h2, if_false, NMap.wfFrom, Bool.and_eq_true, decide_eq_true_eq]
        have hmin : Nat.min (e.1 + 1) i = e.1 + 1 := Nat.min_eq_left (by omega)
        exact ⟨⟨Nat.le_trans (Nat.min_le_left _ _) hm.1.1, hm.1.2⟩, by simpa [hmin] using ih hm.2⟩

theorem NMap.wf_set {m : NMap α} (hm : NMap.wf d m = true) (i : Nat) (v : α) : NMap.wf d (NMap.set d m i v) = true := by
  have := NMap.wfFrom_set hm i v
  simpa [NMap.wf] using this

theorem NMap.get_set (m : NMap α) (i j : Nat) (v : α) :
    NMap.get d (NMap.set d m i v) j = if j = i then v else NMap.get d m j := by
  by_cases h : j = i
  · subst h; simp [NMap.get_set_self]
  · simp [h, NMap.get_set_ne]

/-- Any sublist keeps the canonical form: filters, slices and clears do. -/
theorem NMap.wfFrom_filter {lo : Nat} {m : NMap α} (hm : NMap.wfFrom d lo m = true) (p : Nat × α → Bool) :
    NMap.wfFrom d lo (m.filter p) = true := by
  induction m generalizing lo with
  | nil => rfl
  | cons e m ih =>
    simp only [NMap.wfFrom, Bool.and_eq_true, decide_eq_true_eq] at hm
    by_cases hp : p e
    · simp only [List.filter_cons_of_pos hp, NMap.wfFrom, Bool.and_eq_true, decide_eq_true_eq]
      exact ⟨hm.1, ih hm.2⟩
    · rw [List.filter_cons_of_neg hp]
      exact NMap.wfFrom_mono (ih hm.2) (by omega)

theorem NMap.wf_filter {m : NMap α} (hm : NMap.wf d m = true) (p : Nat × α → Bool) : NMap.wf d (m.filter p) = true :=
  NMap.wfFrom_filter hm p

theorem NMap.wf_clear {m : NMap α} (hm : NMap.wf d m = true) (lo hi : Nat) : NMap.wf d (NMap.clear m lo hi) = true :=
  NMap.wf_filter hm _

theorem NMap.wf_slice {m : NMap α} (hm : NMap.wf d m = true) (lo hi : Nat) : NMap.wf d (NMap.slice m lo hi) = true :=
  NMap.wf_filter hm _

/-- Writes of a list of entries keep the canonical form. -/
theorem NMap.wf_foldl_set {β : Type} {m : NMap α} (hm : NMap.wf d m = true) (l : List β) (k : β → Nat) (v : β → α) :
    NMap.wf d (l.foldl (fun m e => NMap.set d m (k e) (v e)) m) = true := by
  induction l generalizing m with
  | nil => exact hm
  | cons e l ih => exact ih (NMap.wf_set hm _ _)

theorem NMap.get_cons (m : NMap α) (k i : Nat) (v : α) :
    NMap.get d (NMap.cons d k v m) i = if i < k then d else if i = k then v else NMap.get d m i := by
  cases m with
  | nil => by_cases hv : v = d <;> simp [NMap.cons, NMap.get, hv]
  | cons e m =>
    by_cases hc : v = d ∧ k < e.1
    · simp only [NMap.cons, hc, and_self, if_true, NMap.get]
      by_cases h1 : i < k
      · simp [h1, show i < e.1 by omega]
      · by_cases h2 : i = k
        · simp [h2, hc.2]
        · simp [h1, h2]
    · simp only [NMap.cons, hc, if_false, NMap.get]

/-- Reading commutes with a mapping that keeps the default, in every table. -/
theorem NMap.get_mapVals (m : NMap α) (f : Nat → α → α) (hf : ∀ k, f k d = d) (i : Nat) :
    NMap.get d (NMap.mapVals d f m) i = f i (NMap.get d m i) := by
  induction m with
  | nil => simp [NMap.mapVals, NMap.get, hf]
  | cons e m ih =>
    rw [NMap.mapVals, NMap.get_cons, ih]
    simp only [NMap.get]
    by_cases h1 : i < e.1
    · simp [h1, hf]
    · by_cases h2 : i = e.1 <;> simp [h1, h2]

theorem NMap.wfFrom_cons {lo k : Nat} {m : NMap α} (hm : NMap.wfFrom d (k + 1) m = true) (hk : lo ≤ k) (v : α) :
    NMap.wfFrom d lo (NMap.cons d k v m) = true := by
  cases m with
  | nil => by_cases hv : v = d <;> simp [NMap.cons, NMap.wfFrom, hv, hk]
  | cons e m =>
    have hm' := hm
    simp only [NMap.wfFrom, Bool.and_eq_true, decide_eq_true_eq] at hm'
    by_cases hv : v = d
    · rw [NMap.cons, if_pos ⟨hv, by omega⟩]
      exact NMap.wfFrom_mono hm (by omega)
    · rw [NMap.cons, if_neg (by simp [hv])]
      simp only [NMap.wfFrom, Bool.and_eq_true, decide_eq_true_eq]
      exact ⟨⟨hk, by simp [hv]⟩, hm'⟩

theorem NMap.wfFrom_mapVals {lo : Nat} {m : NMap α} (hm : NMap.wfFrom d lo m = true) (f : Nat → α → α) :
    NMap.wfFrom d lo (NMap.mapVals d f m) = true := by
  induction m generalizing lo with
  | nil => rfl
  | cons e m ih =>
    simp only [NMap.wfFrom, Bool.and_eq_true, decide_eq_true_eq] at hm
    exact NMap.wfFrom_cons (ih hm.2) hm.1.1 _

theorem NMap.wf_mapVals {m : NMap α} (hm : NMap.wf d m = true) (f : Nat → α → α) : NMap.wf d (NMap.mapVals d f m) = true :=
  NMap.wfFrom_mapVals hm f

/-- Two tables in canonical form that read alike are the same table. -/
theorem NMap.ext_of_wf {lo : Nat} {m n : NMap α} (hm : NMap.wfFrom d lo m = true) (hn : NMap.wfFrom d lo n = true)
    (h : ∀ i, NMap.get d m i = NMap.get d n i) : m = n := by
  induction m generalizing lo n with
  | nil =>
    cases n with
    | nil => rfl
    | cons e n =>
      simp only [NMap.wfFrom, Bool.and_eq_true, decide_eq_true_eq, Bool.not_eq_true', decide_eq_false_iff_not] at hn
      have := h e.1
      simp [NMap.get] at this
      exact absurd this.symm hn.1.2
  | cons e m ih =>
    have hm0 := hm
    simp only [NMap.wfFrom, Bool.and_eq_true, decide_eq_true_eq, Bool.not_eq_true', decide_eq_false_iff_not] at hm
    cases n with
    | nil =>
      have := h e.1
      simp [NMap.get] at this
      exact absurd this hm.1.2
    | cons e' n =>
      have hn0 := hn
      simp only [NMap.wfFrom, Bool.and_eq_true, decide_eq_true_eq, Bool.not_eq_true', decide_eq_false_iff_not] at hn
      have hk : e.1 = e'.1 := by
        rcases Nat.lt_trichotomy e.1 e'.1 with hlt | heq | hgt
        · have := h e.1; simp [NMap.get, hlt] at this; exact absurd this hm.1.2
        · exact heq
        · have := h e'.1; simp [NMap.get, hgt] at this; exact absurd this.symm hn.1.2
      have hv : e.2 = e'.2 := by have := h e.1; simp [NMap.get, ← hk] at this; exact this
      obtain ⟨k, v⟩ := e
      obtain ⟨k', v'⟩ := e'
      simp only at hk hv hm hn
      subst hk hv
      congr 1
      refine ih hm.2 hn.2 fun i => ?_
      by_cases hi : i < k + 1
      · rw [NMap.get_below hm.2 hi, NMap.get_below hn.2 hi]
      · have := h i
        simpa [NMap.get, show ¬ i < k by omega, show i ≠ k by omega] using this

/-! ### Memory -/

theorem Memory.wf_nil : Memory.wf [] = true := rfl

/-- A store keeps the canonical form. -/
theorem Memory.wf_write {m : Memory} (hm : m.wf = true) (a : Nat) (bs : List Byte) : (m.write a bs).wf = true := by
  induction bs generalizing m a with
  | nil => exact hm
  | cons b bs ih => exact ih (NMap.wf_set hm a b) (a + 1)

theorem Memory.wf_writeN {m : Memory} (hm : m.wf = true) (a n v : Nat) : (m.writeN a n v).wf = true := Memory.wf_write hm _ _

/-- A store leaves every byte outside its range alone. -/
theorem Memory.byte_write_of_outside (m : Memory) (a i : Nat) (bs : List Byte) (h : i < a ∨ a + bs.length ≤ i) :
    (m.write a bs).byte i = m.byte i := by
  induction bs generalizing m a with
  | nil => rfl
  | cons b bs ih =>
    simp only [List.length_cons] at h
    rw [Memory.write, ih _ _ (by omega)]
    exact NMap.get_set_ne m b (by omega)

/-- A byte inside a store's range reads as what was stored. -/
theorem Memory.byte_write_of_inside (m : Memory) (a i : Nat) (bs : List Byte) (h : i < bs.length) :
    (m.write a bs).byte (a + i) = bs[i] := by
  induction bs generalizing m a i with
  | nil => simp at h
  | cons b bs ih =>
    cases i with
    | zero =>
      rw [Memory.write, Nat.add_zero, Memory.byte_write_of_outside _ _ _ _ (by omega)]
      exact NMap.get_set_self m a b
    | succ i =>
      rw [Memory.write, show a + (i + 1) = a + 1 + i by omega]
      simpa using ih (NMap.set 0 m a b) (a + 1) i (by simpa using h)

theorem length_toBytes (n v : Nat) : (toBytes n v).length = n := by
  induction n generalizing v with
  | zero => rfl
  | succ n ih => simp [toBytes, ih]

/-- Little-endian bytes and their number agree (R5). -/
theorem ofBytes_toBytes (n v : Nat) : ofBytes (toBytes n v) = v % 256 ^ n := by
  induction n generalizing v with
  | zero => simp [toBytes, ofBytes, Nat.mod_one]
  | succ n ih =>
    rw [toBytes, ofBytes, ih, BitVec.toNat_ofNat, show 256 ^ (n + 1) = 256 * 256 ^ n from Nat.pow_succ', Nat.mod_mul]

theorem Memory.read_write_self (m : Memory) (a : Nat) (bs : List Byte) : (m.write a bs).read a bs.length = bs := by
  apply List.ext_getElem
  · simp [Memory.read]
  · intro i h1 h2
    simpa [Memory.read] using Memory.byte_write_of_inside m a i bs h2

/-- What is stored is read back (R5). -/
theorem Memory.readN_writeN (m : Memory) (a n v : Nat) : (m.writeN a n v).readN a n = v % 256 ^ n := by
  have h := Memory.read_write_self m a (toBytes n v)
  rw [length_toBytes] at h
  rw [Memory.readN, Memory.writeN, h, ofBytes_toBytes]

end Sys2Proof.Machine
end

