-- ==== Sys2Proof/Laws/State.lean ====
section
/-! SUPPORT. Small laws of the state: what each named update leaves of every field, and what it writes of the field it is for. -/

namespace Sys2Proof.Machine
open Sys2Proof

/-! ### Clusters -/

@[simp] theorem State.setCl_focus (s : State) (n : Nat) (c : Cluster) : (s.setCl n c).focus = s.focus := rfl
@[simp] theorem State.setCl_slot (s : State) (n : Nat) (c : Cluster) : (s.setCl n c).slot = s.slot := rfl
@[simp] theorem State.setCl_fresh (s : State) (n : Nat) (c : Cluster) : (s.setCl n c).fresh = s.fresh := rfl
@[simp] theorem State.setCl_clk (s : State) (n : Nat) (c : Cluster) : (s.setCl n c).clk = s.clk := rfl
@[simp] theorem State.setCl_gtc (s : State) (n : Nat) (c : Cluster) : (s.setCl n c).gtc = s.gtc := rfl
@[simp] theorem State.setCl_slew (s : State) (n : Nat) (c : Cluster) : (s.setCl n c).slew = s.slew := rfl
@[simp] theorem State.setCl_agenda (s : State) (n : Nat) (c : Cluster) : (s.setCl n c).agenda = s.agenda := rfl
@[simp] theorem State.setCl_hbm (s : State) (n : Nat) (c : Cluster) : (s.setCl n c).hbm = s.hbm := rfl
@[simp] theorem State.setCl_hbmPoison (s : State) (n : Nat) (c : Cluster) : (s.setCl n c).hbmPoison = s.hbmPoison := rfl
@[simp] theorem State.setCl_spPoison (s : State) (n : Nat) (c : Cluster) : (s.setCl n c).spPoison = s.spPoison := rfl
@[simp] theorem State.setCl_twPoison (s : State) (n : Nat) (c : Cluster) : (s.setCl n c).twPoison = s.twPoison := rfl
@[simp] theorem State.setCl_accPoison (s : State) (n : Nat) (c : Cluster) : (s.setCl n c).accPoison = s.accPoison := rfl
@[simp] theorem State.setCl_pePoison (s : State) (n : Nat) (c : Cluster) : (s.setCl n c).pePoison = s.pePoison := rfl
@[simp] theorem State.setCl_chanFailed (s : State) (n : Nat) (c : Cluster) : (s.setCl n c).chanFailed = s.chanFailed := rfl
@[simp] theorem State.setCl_hostMem (s : State) (n : Nat) (c : Cluster) : (s.setCl n c).hostMem = s.hostMem := rfl
@[simp] theorem State.setCl_tags (s : State) (n : Nat) (c : Cluster) : (s.setCl n c).tags = s.tags := rfl
@[simp] theorem State.setCl_pages (s : State) (n : Nat) (c : Cluster) : (s.setCl n c).pages = s.pages := rfl
@[simp] theorem State.setCl_migs (s : State) (n : Nat) (c : Cluster) : (s.setCl n c).migs = s.migs := rfl
@[simp] theorem State.setCl_patterns (s : State) (n : Nat) (c : Cluster) : (s.setCl n c).patterns = s.patterns := rfl
@[simp] theorem State.setCl_llt (s : State) (n : Nat) (c : Cluster) : (s.setCl n c).llt = s.llt := rfl
@[simp] theorem State.setCl_walkCache (s : State) (n : Nat) (c : Cluster) : (s.setCl n c).walkCache = s.walkCache := rfl
@[simp] theorem State.setCl_bufs (s : State) (n : Nat) (c : Cluster) : (s.setCl n c).bufs = s.bufs := rfl
@[simp] theorem State.setCl_ctxs (s : State) (n : Nat) (c : Cluster) : (s.setCl n c).ctxs = s.ctxs := rfl
@[simp] theorem State.setCl_dev (s : State) (n : Nat) (c : Cluster) : (s.setCl n c).dev = s.dev := rfl
@[simp] theorem State.setCl_host (s : State) (n : Nat) (c : Cluster) : (s.setCl n c).host = s.host := rfl
@[simp] theorem State.setCl_queues (s : State) (n : Nat) (c : Cluster) : (s.setCl n c).queues = s.queues := rfl
@[simp] theorem State.setCl_disp (s : State) (n : Nat) (c : Cluster) : (s.setCl n c).disp = s.disp := rfl
@[simp] theorem State.setCl_rel (s : State) (n : Nat) (c : Cluster) : (s.setCl n c).rel = s.rel := rfl
@[simp] theorem State.setCl_shoots (s : State) (n : Nat) (c : Cluster) : (s.setCl n c).shoots = s.shoots := rfl
@[simp] theorem State.setCl_icinvs (s : State) (n : Nat) (c : Cluster) : (s.setCl n c).icinvs = s.icinvs := rfl
@[simp] theorem State.setCl_nextMsg (s : State) (n : Nat) (c : Cluster) : (s.setCl n c).nextMsg = s.nextMsg := rfl
@[simp] theorem State.setCl_ports (s : State) (n : Nat) (c : Cluster) : (s.setCl n c).ports = s.ports := rfl
@[simp] theorem State.setCl_reqs (s : State) (n : Nat) (c : Cluster) : (s.setCl n c).reqs = s.reqs := rfl
@[simp] theorem State.setCl_farFlips (s : State) (n : Nat) (c : Cluster) : (s.setCl n c).farFlips = s.farFlips := rfl
@[simp] theorem State.setCl_remembered (s : State) (n : Nat) (c : Cluster) : (s.setCl n c).remembered = s.remembered := rfl
@[simp] theorem State.setCl_oldTags (s : State) (n : Nat) (c : Cluster) : (s.setCl n c).oldTags = s.oldTags := rfl
@[simp] theorem State.setCl_joins (s : State) (n : Nat) (c : Cluster) : (s.setCl n c).joins = s.joins := rfl
@[simp] theorem State.setCl_mailFlight (s : State) (n : Nat) (c : Cluster) : (s.setCl n c).mailFlight = s.mailFlight := rfl
@[simp] theorem State.setCl_flights (s : State) (n : Nat) (c : Cluster) : (s.setCl n c).flights = s.flights := rfl
@[simp] theorem State.setCl_outbox (s : State) (n : Nat) (c : Cluster) : (s.setCl n c).outbox = s.outbox := rfl
@[simp] theorem State.setCl_flash (s : State) (n : Nat) (c : Cluster) : (s.setCl n c).flash = s.flash := rfl
@[simp] theorem State.onCl_focus (s : State) (n : Nat) (f : Cluster → Cluster) : (s.onCl n f).focus = s.focus := rfl
@[simp] theorem State.onCl_slot (s : State) (n : Nat) (f : Cluster → Cluster) : (s.onCl n f).slot = s.slot := rfl
@[simp] theorem State.onCl_fresh (s : State) (n : Nat) (f : Cluster → Cluster) : (s.onCl n f).fresh = s.fresh := rfl
@[simp] theorem State.onCl_clk (s : State) (n : Nat) (f : Cluster → Cluster) : (s.onCl n f).clk = s.clk := rfl
@[simp] theorem State.onCl_gtc (s : State) (n : Nat) (f : Cluster → Cluster) : (s.onCl n f).gtc = s.gtc := rfl
@[simp] theorem State.onCl_slew (s : State) (n : Nat) (f : Cluster → Cluster) : (s.onCl n f).slew = s.slew := rfl
@[simp] theorem State.onCl_agenda (s : State) (n : Nat) (f : Cluster → Cluster) : (s.onCl n f).agenda = s.agenda := rfl
@[simp] theorem State.onCl_hbm (s : State) (n : Nat) (f : Cluster → Cluster) : (s.onCl n f).hbm = s.hbm := rfl
@[simp] theorem State.onCl_hbmPoison (s : State) (n : Nat) (f : Cluster → Cluster) : (s.onCl n f).hbmPoison = s.hbmPoison := rfl
@[simp] theorem State.onCl_spPoison (s : State) (n : Nat) (f : Cluster → Cluster) : (s.onCl n f).spPoison = s.spPoison := rfl
@[simp] theorem State.onCl_twPoison (s : State) (n : Nat) (f : Cluster → Cluster) : (s.onCl n f).twPoison = s.twPoison := rfl
@[simp] theorem State.onCl_accPoison (s : State) (n : Nat) (f : Cluster → Cluster) : (s.onCl n f).accPoison = s.accPoison := rfl
@[simp] theorem State.onCl_pePoison (s : State) (n : Nat) (f : Cluster → Cluster) : (s.onCl n f).pePoison = s.pePoison := rfl
@[simp] theorem State.onCl_chanFailed (s : State) (n : Nat) (f : Cluster → Cluster) : (s.onCl n f).chanFailed = s.chanFailed := rfl
@[simp] theorem State.onCl_hostMem (s : State) (n : Nat) (f : Cluster → Cluster) : (s.onCl n f).hostMem = s.hostMem := rfl
@[simp] theorem State.onCl_tags (s : State) (n : Nat) (f : Cluster → Cluster) : (s.onCl n f).tags = s.tags := rfl
@[simp] theorem State.onCl_pages (s : State) (n : Nat) (f : Cluster → Cluster) : (s.onCl n f).pages = s.pages := rfl
@[simp] theorem State.onCl_migs (s : State) (n : Nat) (f : Cluster → Cluster) : (s.onCl n f).migs = s.migs := rfl
@[simp] theorem State.onCl_patterns (s : State) (n : Nat) (f : Cluster → Cluster) : (s.onCl n f).patterns = s.patterns := rfl
@[simp] theorem State.onCl_llt (s : State) (n : Nat) (f : Cluster → Cluster) : (s.onCl n f).llt = s.llt := rfl
@[simp] theorem State.onCl_walkCache (s : State) (n : Nat) (f : Cluster → Cluster) : (s.onCl n f).walkCache = s.walkCache := rfl
@[simp] theorem State.onCl_bufs (s : State) (n : Nat) (f : Cluster → Cluster) : (s.onCl n f).bufs = s.bufs := rfl
@[simp] theorem State.onCl_ctxs (s : State) (n : Nat) (f : Cluster → Cluster) : (s.onCl n f).ctxs = s.ctxs := rfl
@[simp] theorem State.onCl_dev (s : State) (n : Nat) (f : Cluster → Cluster) : (s.onCl n f).dev = s.dev := rfl
@[simp] theorem State.onCl_host (s : State) (n : Nat) (f : Cluster → Cluster) : (s.onCl n f).host = s.host := rfl
@[simp] theorem State.onCl_queues (s : State) (n : Nat) (f : Cluster → Cluster) : (s.onCl n f).queues = s.queues := rfl
@[simp] theorem State.onCl_disp (s : State) (n : Nat) (f : Cluster → Cluster) : (s.onCl n f).disp = s.disp := rfl
@[simp] theorem State.onCl_rel (s : State) (n : Nat) (f : Cluster → Cluster) : (s.onCl n f).rel = s.rel := rfl
@[simp] theorem State.onCl_shoots (s : State) (n : Nat) (f : Cluster → Cluster) : (s.onCl n f).shoots = s.shoots := rfl
@[simp] theorem State.onCl_icinvs (s : State) (n : Nat) (f : Cluster → Cluster) : (s.onCl n f).icinvs = s.icinvs := rfl
@[simp] theorem State.onCl_nextMsg (s : State) (n : Nat) (f : Cluster → Cluster) : (s.onCl n f).nextMsg = s.nextMsg := rfl
@[simp] theorem State.onCl_ports (s : State) (n : Nat) (f : Cluster → Cluster) : (s.onCl n f).ports = s.ports := rfl
@[simp] theorem State.onCl_reqs (s : State) (n : Nat) (f : Cluster → Cluster) : (s.onCl n f).reqs = s.reqs := rfl
@[simp] theorem State.onCl_farFlips (s : State) (n : Nat) (f : Cluster → Cluster) : (s.onCl n f).farFlips = s.farFlips := rfl
@[simp] theorem State.onCl_remembered (s : State) (n : Nat) (f : Cluster → Cluster) : (s.onCl n f).remembered = s.remembered := rfl
@[simp] theorem State.onCl_oldTags (s : State) (n : Nat) (f : Cluster → Cluster) : (s.onCl n f).oldTags = s.oldTags := rfl
@[simp] theorem State.onCl_joins (s : State) (n : Nat) (f : Cluster → Cluster) : (s.onCl n f).joins = s.joins := rfl
@[simp] theorem State.onCl_mailFlight (s : State) (n : Nat) (f : Cluster → Cluster) : (s.onCl n f).mailFlight = s.mailFlight := rfl
@[simp] theorem State.onCl_flights (s : State) (n : Nat) (f : Cluster → Cluster) : (s.onCl n f).flights = s.flights := rfl
@[simp] theorem State.onCl_outbox (s : State) (n : Nat) (f : Cluster → Cluster) : (s.onCl n f).outbox = s.outbox := rfl
@[simp] theorem State.onCl_flash (s : State) (n : Nat) (f : Cluster → Cluster) : (s.onCl n f).flash = s.flash := rfl
@[simp] theorem State.onA_focus (s : State) (n : Nat) (f : ACore → ACore) : (s.onA n f).focus = s.focus := rfl
@[simp] theorem State.onA_slot (s : State) (n : Nat) (f : ACore → ACore) : (s.onA n f).slot = s.slot := rfl
@[simp] theorem State.onA_fresh (s : State) (n : Nat) (f : ACore → ACore) : (s.onA n f).fresh = s.fresh := rfl
@[simp] theorem State.onA_clk (s : State) (n : Nat) (f : ACore → ACore) : (s.onA n f).clk = s.clk := rfl
@[simp] theorem State.onA_gtc (s : State) (n : Nat) (f : ACore → ACore) : (s.onA n f).gtc = s.gtc := rfl
@[simp] theorem State.onA_slew (s : State) (n : Nat) (f : ACore → ACore) : (s.onA n f).slew = s.slew := rfl
@[simp] theorem State.onA_agenda (s : State) (n : Nat) (f : ACore → ACore) : (s.onA n f).agenda = s.agenda := rfl
@[simp] theorem State.onA_hbm (s : State) (n : Nat) (f : ACore → ACore) : (s.onA n f).hbm = s.hbm := rfl
@[simp] theorem State.onA_hbmPoison (s : State) (n : Nat) (f : ACore → ACore) : (s.onA n f).hbmPoison = s.hbmPoison := rfl
@[simp] theorem State.onA_spPoison (s : State) (n : Nat) (f : ACore → ACore) : (s.onA n f).spPoison = s.spPoison := rfl
@[simp] theorem State.onA_twPoison (s : State) (n : Nat) (f : ACore → ACore) : (s.onA n f).twPoison = s.twPoison := rfl
@[simp] theorem State.onA_accPoison (s : State) (n : Nat) (f : ACore → ACore) : (s.onA n f).accPoison = s.accPoison := rfl
@[simp] theorem State.onA_pePoison (s : State) (n : Nat) (f : ACore → ACore) : (s.onA n f).pePoison = s.pePoison := rfl
@[simp] theorem State.onA_chanFailed (s : State) (n : Nat) (f : ACore → ACore) : (s.onA n f).chanFailed = s.chanFailed := rfl
@[simp] theorem State.onA_hostMem (s : State) (n : Nat) (f : ACore → ACore) : (s.onA n f).hostMem = s.hostMem := rfl
@[simp] theorem State.onA_tags (s : State) (n : Nat) (f : ACore → ACore) : (s.onA n f).tags = s.tags := rfl
@[simp] theorem State.onA_pages (s : State) (n : Nat) (f : ACore → ACore) : (s.onA n f).pages = s.pages := rfl
@[simp] theorem State.onA_migs (s : State) (n : Nat) (f : ACore → ACore) : (s.onA n f).migs = s.migs := rfl
@[simp] theorem State.onA_patterns (s : State) (n : Nat) (f : ACore → ACore) : (s.onA n f).patterns = s.patterns := rfl
@[simp] theorem State.onA_llt (s : State) (n : Nat) (f : ACore → ACore) : (s.onA n f).llt = s.llt := rfl
@[simp] theorem State.onA_walkCache (s : State) (n : Nat) (f : ACore → ACore) : (s.onA n f).walkCache = s.walkCache := rfl
@[simp] theorem State.onA_bufs (s : State) (n : Nat) (f : ACore → ACore) : (s.onA n f).bufs = s.bufs := rfl
@[simp] theorem State.onA_ctxs (s : State) (n : Nat) (f : ACore → ACore) : (s.onA n f).ctxs = s.ctxs := rfl
@[simp] theorem State.onA_dev (s : State) (n : Nat) (f : ACore → ACore) : (s.onA n f).dev = s.dev := rfl
@[simp] theorem State.onA_host (s : State) (n : Nat) (f : ACore → ACore) : (s.onA n f).host = s.host := rfl
@[simp] theorem State.onA_queues (s : State) (n : Nat) (f : ACore → ACore) : (s.onA n f).queues = s.queues := rfl
@[simp] theorem State.onA_disp (s : State) (n : Nat) (f : ACore → ACore) : (s.onA n f).disp = s.disp := rfl
@[simp] theorem State.onA_rel (s : State) (n : Nat) (f : ACore → ACore) : (s.onA n f).rel = s.rel := rfl
@[simp] theorem State.onA_shoots (s : State) (n : Nat) (f : ACore → ACore) : (s.onA n f).shoots = s.shoots := rfl
@[simp] theorem State.onA_icinvs (s : State) (n : Nat) (f : ACore → ACore) : (s.onA n f).icinvs = s.icinvs := rfl
@[simp] theorem State.onA_nextMsg (s : State) (n : Nat) (f : ACore → ACore) : (s.onA n f).nextMsg = s.nextMsg := rfl
@[simp] theorem State.onA_ports (s : State) (n : Nat) (f : ACore → ACore) : (s.onA n f).ports = s.ports := rfl
@[simp] theorem State.onA_reqs (s : State) (n : Nat) (f : ACore → ACore) : (s.onA n f).reqs = s.reqs := rfl
@[simp] theorem State.onA_farFlips (s : State) (n : Nat) (f : ACore → ACore) : (s.onA n f).farFlips = s.farFlips := rfl
@[simp] theorem State.onA_remembered (s : State) (n : Nat) (f : ACore → ACore) : (s.onA n f).remembered = s.remembered := rfl
@[simp] theorem State.onA_oldTags (s : State) (n : Nat) (f : ACore → ACore) : (s.onA n f).oldTags = s.oldTags := rfl
@[simp] theorem State.onA_joins (s : State) (n : Nat) (f : ACore → ACore) : (s.onA n f).joins = s.joins := rfl
@[simp] theorem State.onA_mailFlight (s : State) (n : Nat) (f : ACore → ACore) : (s.onA n f).mailFlight = s.mailFlight := rfl
@[simp] theorem State.onA_flights (s : State) (n : Nat) (f : ACore → ACore) : (s.onA n f).flights = s.flights := rfl
@[simp] theorem State.onA_outbox (s : State) (n : Nat) (f : ACore → ACore) : (s.onA n f).outbox = s.outbox := rfl
@[simp] theorem State.onA_flash (s : State) (n : Nat) (f : ACore → ACore) : (s.onA n f).flash = s.flash := rfl
@[simp] theorem State.onX_focus (s : State) (n : Nat) (f : XCore → XCore) : (s.onX n f).focus = s.focus := rfl
@[simp] theorem State.onX_slot (s : State) (n : Nat) (f : XCore → XCore) : (s.onX n f).slot = s.slot := rfl
@[simp] theorem State.onX_fresh (s : State) (n : Nat) (f : XCore → XCore) : (s.onX n f).fresh = s.fresh := rfl
@[simp] theorem State.onX_clk (s : State) (n : Nat) (f : XCore → XCore) : (s.onX n f).clk = s.clk := rfl
@[simp] theorem State.onX_gtc (s : State) (n : Nat) (f : XCore → XCore) : (s.onX n f).gtc = s.gtc := rfl
@[simp] theorem State.onX_slew (s : State) (n : Nat) (f : XCore → XCore) : (s.onX n f).slew = s.slew := rfl
@[simp] theorem State.onX_agenda (s : State) (n : Nat) (f : XCore → XCore) : (s.onX n f).agenda = s.agenda := rfl
@[simp] theorem State.onX_hbm (s : State) (n : Nat) (f : XCore → XCore) : (s.onX n f).hbm = s.hbm := rfl
@[simp] theorem State.onX_hbmPoison (s : State) (n : Nat) (f : XCore → XCore) : (s.onX n f).hbmPoison = s.hbmPoison := rfl
@[simp] theorem State.onX_spPoison (s : State) (n : Nat) (f : XCore → XCore) : (s.onX n f).spPoison = s.spPoison := rfl
@[simp] theorem State.onX_twPoison (s : State) (n : Nat) (f : XCore → XCore) : (s.onX n f).twPoison = s.twPoison := rfl
@[simp] theorem State.onX_accPoison (s : State) (n : Nat) (f : XCore → XCore) : (s.onX n f).accPoison = s.accPoison := rfl
@[simp] theorem State.onX_pePoison (s : State) (n : Nat) (f : XCore → XCore) : (s.onX n f).pePoison = s.pePoison := rfl
@[simp] theorem State.onX_chanFailed (s : State) (n : Nat) (f : XCore → XCore) : (s.onX n f).chanFailed = s.chanFailed := rfl
@[simp] theorem State.onX_hostMem (s : State) (n : Nat) (f : XCore → XCore) : (s.onX n f).hostMem = s.hostMem := rfl
@[simp] theorem State.onX_tags (s : State) (n : Nat) (f : XCore → XCore) : (s.onX n f).tags = s.tags := rfl
@[simp] theorem State.onX_pages (s : State) (n : Nat) (f : XCore → XCore) : (s.onX n f).pages = s.pages := rfl
@[simp] theorem State.onX_migs (s : State) (n : Nat) (f : XCore → XCore) : (s.onX n f).migs = s.migs := rfl
@[simp] theorem State.onX_patterns (s : State) (n : Nat) (f : XCore → XCore) : (s.onX n f).patterns = s.patterns := rfl
@[simp] theorem State.onX_llt (s : State) (n : Nat) (f : XCore → XCore) : (s.onX n f).llt = s.llt := rfl
@[simp] theorem State.onX_walkCache (s : State) (n : Nat) (f : XCore → XCore) : (s.onX n f).walkCache = s.walkCache := rfl
@[simp] theorem State.onX_bufs (s : State) (n : Nat) (f : XCore → XCore) : (s.onX n f).bufs = s.bufs := rfl
@[simp] theorem State.onX_ctxs (s : State) (n : Nat) (f : XCore → XCore) : (s.onX n f).ctxs = s.ctxs := rfl
@[simp] theorem State.onX_dev (s : State) (n : Nat) (f : XCore → XCore) : (s.onX n f).dev = s.dev := rfl
@[simp] theorem State.onX_host (s : State) (n : Nat) (f : XCore → XCore) : (s.onX n f).host = s.host := rfl
@[simp] theorem State.onX_queues (s : State) (n : Nat) (f : XCore → XCore) : (s.onX n f).queues = s.queues := rfl
@[simp] theorem State.onX_disp (s : State) (n : Nat) (f : XCore → XCore) : (s.onX n f).disp = s.disp := rfl
@[simp] theorem State.onX_rel (s : State) (n : Nat) (f : XCore → XCore) : (s.onX n f).rel = s.rel := rfl
@[simp] theorem State.onX_shoots (s : State) (n : Nat) (f : XCore → XCore) : (s.onX n f).shoots = s.shoots := rfl
@[simp] theorem State.onX_icinvs (s : State) (n : Nat) (f : XCore → XCore) : (s.onX n f).icinvs = s.icinvs := rfl
@[simp] theorem State.onX_nextMsg (s : State) (n : Nat) (f : XCore → XCore) : (s.onX n f).nextMsg = s.nextMsg := rfl
@[simp] theorem State.onX_ports (s : State) (n : Nat) (f : XCore → XCore) : (s.onX n f).ports = s.ports := rfl
@[simp] theorem State.onX_reqs (s : State) (n : Nat) (f : XCore → XCore) : (s.onX n f).reqs = s.reqs := rfl
@[simp] theorem State.onX_farFlips (s : State) (n : Nat) (f : XCore → XCore) : (s.onX n f).farFlips = s.farFlips := rfl
@[simp] theorem State.onX_remembered (s : State) (n : Nat) (f : XCore → XCore) : (s.onX n f).remembered = s.remembered := rfl
@[simp] theorem State.onX_oldTags (s : State) (n : Nat) (f : XCore → XCore) : (s.onX n f).oldTags = s.oldTags := rfl
@[simp] theorem State.onX_joins (s : State) (n : Nat) (f : XCore → XCore) : (s.onX n f).joins = s.joins := rfl
@[simp] theorem State.onX_mailFlight (s : State) (n : Nat) (f : XCore → XCore) : (s.onX n f).mailFlight = s.mailFlight := rfl
@[simp] theorem State.onX_flights (s : State) (n : Nat) (f : XCore → XCore) : (s.onX n f).flights = s.flights := rfl
@[simp] theorem State.onX_outbox (s : State) (n : Nat) (f : XCore → XCore) : (s.onX n f).outbox = s.outbox := rfl
@[simp] theorem State.onX_flash (s : State) (n : Nat) (f : XCore → XCore) : (s.onX n f).flash = s.flash := rfl
@[simp] theorem State.onArr_focus (s : State) (n : Nat) (f : Arr → Arr) : (s.onArr n f).focus = s.focus := rfl
@[simp] theorem State.onArr_slot (s : State) (n : Nat) (f : Arr → Arr) : (s.onArr n f).slot = s.slot := rfl
@[simp] theorem State.onArr_fresh (s : State) (n : Nat) (f : Arr → Arr) : (s.onArr n f).fresh = s.fresh := rfl
@[simp] theorem State.onArr_clk (s : State) (n : Nat) (f : Arr → Arr) : (s.onArr n f).clk = s.clk := rfl
@[simp] theorem State.onArr_gtc (s : State) (n : Nat) (f : Arr → Arr) : (s.onArr n f).gtc = s.gtc := rfl
@[simp] theorem State.onArr_slew (s : State) (n : Nat) (f : Arr → Arr) : (s.onArr n f).slew = s.slew := rfl
@[simp] theorem State.onArr_agenda (s : State) (n : Nat) (f : Arr → Arr) : (s.onArr n f).agenda = s.agenda := rfl
@[simp] theorem State.onArr_hbm (s : State) (n : Nat) (f : Arr → Arr) : (s.onArr n f).hbm = s.hbm := rfl
@[simp] theorem State.onArr_hbmPoison (s : State) (n : Nat) (f : Arr → Arr) : (s.onArr n f).hbmPoison = s.hbmPoison := rfl
@[simp] theorem State.onArr_spPoison (s : State) (n : Nat) (f : Arr → Arr) : (s.onArr n f).spPoison = s.spPoison := rfl
@[simp] theorem State.onArr_twPoison (s : State) (n : Nat) (f : Arr → Arr) : (s.onArr n f).twPoison = s.twPoison := rfl
@[simp] theorem State.onArr_accPoison (s : State) (n : Nat) (f : Arr → Arr) : (s.onArr n f).accPoison = s.accPoison := rfl
@[simp] theorem State.onArr_pePoison (s : State) (n : Nat) (f : Arr → Arr) : (s.onArr n f).pePoison = s.pePoison := rfl
@[simp] theorem State.onArr_chanFailed (s : State) (n : Nat) (f : Arr → Arr) : (s.onArr n f).chanFailed = s.chanFailed := rfl
@[simp] theorem State.onArr_hostMem (s : State) (n : Nat) (f : Arr → Arr) : (s.onArr n f).hostMem = s.hostMem := rfl
@[simp] theorem State.onArr_tags (s : State) (n : Nat) (f : Arr → Arr) : (s.onArr n f).tags = s.tags := rfl
@[simp] theorem State.onArr_pages (s : State) (n : Nat) (f : Arr → Arr) : (s.onArr n f).pages = s.pages := rfl
@[simp] theorem State.onArr_migs (s : State) (n : Nat) (f : Arr → Arr) : (s.onArr n f).migs = s.migs := rfl
@[simp] theorem State.onArr_patterns (s : State) (n : Nat) (f : Arr → Arr) : (s.onArr n f).patterns = s.patterns := rfl
@[simp] theorem State.onArr_llt (s : State) (n : Nat) (f : Arr → Arr) : (s.onArr n f).llt = s.llt := rfl
@[simp] theorem State.onArr_walkCache (s : State) (n : Nat) (f : Arr → Arr) : (s.onArr n f).walkCache = s.walkCache := rfl
@[simp] theorem State.onArr_bufs (s : State) (n : Nat) (f : Arr → Arr) : (s.onArr n f).bufs = s.bufs := rfl
@[simp] theorem State.onArr_ctxs (s : State) (n : Nat) (f : Arr → Arr) : (s.onArr n f).ctxs = s.ctxs := rfl
@[simp] theorem State.onArr_dev (s : State) (n : Nat) (f : Arr → Arr) : (s.onArr n f).dev = s.dev := rfl
@[simp] theorem State.onArr_host (s : State) (n : Nat) (f : Arr → Arr) : (s.onArr n f).host = s.host := rfl
@[simp] theorem State.onArr_queues (s : State) (n : Nat) (f : Arr → Arr) : (s.onArr n f).queues = s.queues := rfl
@[simp] theorem State.onArr_disp (s : State) (n : Nat) (f : Arr → Arr) : (s.onArr n f).disp = s.disp := rfl
@[simp] theorem State.onArr_rel (s : State) (n : Nat) (f : Arr → Arr) : (s.onArr n f).rel = s.rel := rfl
@[simp] theorem State.onArr_shoots (s : State) (n : Nat) (f : Arr → Arr) : (s.onArr n f).shoots = s.shoots := rfl
@[simp] theorem State.onArr_icinvs (s : State) (n : Nat) (f : Arr → Arr) : (s.onArr n f).icinvs = s.icinvs := rfl
@[simp] theorem State.onArr_nextMsg (s : State) (n : Nat) (f : Arr → Arr) : (s.onArr n f).nextMsg = s.nextMsg := rfl
@[simp] theorem State.onArr_ports (s : State) (n : Nat) (f : Arr → Arr) : (s.onArr n f).ports = s.ports := rfl
@[simp] theorem State.onArr_reqs (s : State) (n : Nat) (f : Arr → Arr) : (s.onArr n f).reqs = s.reqs := rfl
@[simp] theorem State.onArr_farFlips (s : State) (n : Nat) (f : Arr → Arr) : (s.onArr n f).farFlips = s.farFlips := rfl
@[simp] theorem State.onArr_remembered (s : State) (n : Nat) (f : Arr → Arr) : (s.onArr n f).remembered = s.remembered := rfl
@[simp] theorem State.onArr_oldTags (s : State) (n : Nat) (f : Arr → Arr) : (s.onArr n f).oldTags = s.oldTags := rfl
@[simp] theorem State.onArr_joins (s : State) (n : Nat) (f : Arr → Arr) : (s.onArr n f).joins = s.joins := rfl
@[simp] theorem State.onArr_mailFlight (s : State) (n : Nat) (f : Arr → Arr) : (s.onArr n f).mailFlight = s.mailFlight := rfl
@[simp] theorem State.onArr_flights (s : State) (n : Nat) (f : Arr → Arr) : (s.onArr n f).flights = s.flights := rfl
@[simp] theorem State.onArr_outbox (s : State) (n : Nat) (f : Arr → Arr) : (s.onArr n f).outbox = s.outbox := rfl
@[simp] theorem State.onArr_flash (s : State) (n : Nat) (f : Arr → Arr) : (s.onArr n f).flash = s.flash := rfl
@[simp] theorem State.onCtl_focus (s : State) (n : Nat) (f : Ctl → Ctl) : (s.onCtl n f).focus = s.focus := rfl
@[simp] theorem State.onCtl_slot (s : State) (n : Nat) (f : Ctl → Ctl) : (s.onCtl n f).slot = s.slot := rfl
@[simp] theorem State.onCtl_fresh (s : State) (n : Nat) (f : Ctl → Ctl) : (s.onCtl n f).fresh = s.fresh := rfl
@[simp] theorem State.onCtl_clk (s : State) (n : Nat) (f : Ctl → Ctl) : (s.onCtl n f).clk = s.clk := rfl
@[simp] theorem State.onCtl_gtc (s : State) (n : Nat) (f : Ctl → Ctl) : (s.onCtl n f).gtc = s.gtc := rfl
@[simp] theorem State.onCtl_slew (s : State) (n : Nat) (f : Ctl → Ctl) : (s.onCtl n f).slew = s.slew := rfl
@[simp] theorem State.onCtl_agenda (s : State) (n : Nat) (f : Ctl → Ctl) : (s.onCtl n f).agenda = s.agenda := rfl
@[simp] theorem State.onCtl_hbm (s : State) (n : Nat) (f : Ctl → Ctl) : (s.onCtl n f).hbm = s.hbm := rfl
@[simp] theorem State.onCtl_hbmPoison (s : State) (n : Nat) (f : Ctl → Ctl) : (s.onCtl n f).hbmPoison = s.hbmPoison := rfl
@[simp] theorem State.onCtl_spPoison (s : State) (n : Nat) (f : Ctl → Ctl) : (s.onCtl n f).spPoison = s.spPoison := rfl
@[simp] theorem State.onCtl_twPoison (s : State) (n : Nat) (f : Ctl → Ctl) : (s.onCtl n f).twPoison = s.twPoison := rfl
@[simp] theorem State.onCtl_accPoison (s : State) (n : Nat) (f : Ctl → Ctl) : (s.onCtl n f).accPoison = s.accPoison := rfl
@[simp] theorem State.onCtl_pePoison (s : State) (n : Nat) (f : Ctl → Ctl) : (s.onCtl n f).pePoison = s.pePoison := rfl
@[simp] theorem State.onCtl_chanFailed (s : State) (n : Nat) (f : Ctl → Ctl) : (s.onCtl n f).chanFailed = s.chanFailed := rfl
@[simp] theorem State.onCtl_hostMem (s : State) (n : Nat) (f : Ctl → Ctl) : (s.onCtl n f).hostMem = s.hostMem := rfl
@[simp] theorem State.onCtl_tags (s : State) (n : Nat) (f : Ctl → Ctl) : (s.onCtl n f).tags = s.tags := rfl
@[simp] theorem State.onCtl_pages (s : State) (n : Nat) (f : Ctl → Ctl) : (s.onCtl n f).pages = s.pages := rfl
@[simp] theorem State.onCtl_migs (s : State) (n : Nat) (f : Ctl → Ctl) : (s.onCtl n f).migs = s.migs := rfl
@[simp] theorem State.onCtl_patterns (s : State) (n : Nat) (f : Ctl → Ctl) : (s.onCtl n f).patterns = s.patterns := rfl
@[simp] theorem State.onCtl_llt (s : State) (n : Nat) (f : Ctl → Ctl) : (s.onCtl n f).llt = s.llt := rfl
@[simp] theorem State.onCtl_walkCache (s : State) (n : Nat) (f : Ctl → Ctl) : (s.onCtl n f).walkCache = s.walkCache := rfl
@[simp] theorem State.onCtl_bufs (s : State) (n : Nat) (f : Ctl → Ctl) : (s.onCtl n f).bufs = s.bufs := rfl
@[simp] theorem State.onCtl_ctxs (s : State) (n : Nat) (f : Ctl → Ctl) : (s.onCtl n f).ctxs = s.ctxs := rfl
@[simp] theorem State.onCtl_dev (s : State) (n : Nat) (f : Ctl → Ctl) : (s.onCtl n f).dev = s.dev := rfl
@[simp] theorem State.onCtl_host (s : State) (n : Nat) (f : Ctl → Ctl) : (s.onCtl n f).host = s.host := rfl
@[simp] theorem State.onCtl_queues (s : State) (n : Nat) (f : Ctl → Ctl) : (s.onCtl n f).queues = s.queues := rfl
@[simp] theorem State.onCtl_disp (s : State) (n : Nat) (f : Ctl → Ctl) : (s.onCtl n f).disp = s.disp := rfl
@[simp] theorem State.onCtl_rel (s : State) (n : Nat) (f : Ctl → Ctl) : (s.onCtl n f).rel = s.rel := rfl
@[simp] theorem State.onCtl_shoots (s : State) (n : Nat) (f : Ctl → Ctl) : (s.onCtl n f).shoots = s.shoots := rfl
@[simp] theorem State.onCtl_icinvs (s : State) (n : Nat) (f : Ctl → Ctl) : (s.onCtl n f).icinvs = s.icinvs := rfl
@[simp] theorem State.onCtl_nextMsg (s : State) (n : Nat) (f : Ctl → Ctl) : (s.onCtl n f).nextMsg = s.nextMsg := rfl
@[simp] theorem State.onCtl_ports (s : State) (n : Nat) (f : Ctl → Ctl) : (s.onCtl n f).ports = s.ports := rfl
@[simp] theorem State.onCtl_reqs (s : State) (n : Nat) (f : Ctl → Ctl) : (s.onCtl n f).reqs = s.reqs := rfl
@[simp] theorem State.onCtl_farFlips (s : State) (n : Nat) (f : Ctl → Ctl) : (s.onCtl n f).farFlips = s.farFlips := rfl
@[simp] theorem State.onCtl_remembered (s : State) (n : Nat) (f : Ctl → Ctl) : (s.onCtl n f).remembered = s.remembered := rfl
@[simp] theorem State.onCtl_oldTags (s : State) (n : Nat) (f : Ctl → Ctl) : (s.onCtl n f).oldTags = s.oldTags := rfl
@[simp] theorem State.onCtl_joins (s : State) (n : Nat) (f : Ctl → Ctl) : (s.onCtl n f).joins = s.joins := rfl
@[simp] theorem State.onCtl_mailFlight (s : State) (n : Nat) (f : Ctl → Ctl) : (s.onCtl n f).mailFlight = s.mailFlight := rfl
@[simp] theorem State.onCtl_flights (s : State) (n : Nat) (f : Ctl → Ctl) : (s.onCtl n f).flights = s.flights := rfl
@[simp] theorem State.onCtl_outbox (s : State) (n : Nat) (f : Ctl → Ctl) : (s.onCtl n f).outbox = s.outbox := rfl
@[simp] theorem State.onCtl_flash (s : State) (n : Nat) (f : Ctl → Ctl) : (s.onCtl n f).flash = s.flash := rfl
@[simp] theorem State.setG_focus (s : State) (i : BitVec 6) (v : W64) : (s.setG i v).focus = s.focus := rfl
@[simp] theorem State.setG_slot (s : State) (i : BitVec 6) (v : W64) : (s.setG i v).slot = s.slot := rfl
@[simp] theorem State.setG_fresh (s : State) (i : BitVec 6) (v : W64) : (s.setG i v).fresh = s.fresh := rfl
@[simp] theorem State.setG_clk (s : State) (i : BitVec 6) (v : W64) : (s.setG i v).clk = s.clk := rfl
@[simp] theorem State.setG_gtc (s : State) (i : BitVec 6) (v : W64) : (s.setG i v).gtc = s.gtc := rfl
@[simp] theorem State.setG_slew (s : State) (i : BitVec 6) (v : W64) : (s.setG i v).slew = s.slew := rfl
@[simp] theorem State.setG_agenda (s : State) (i : BitVec 6) (v : W64) : (s.setG i v).agenda = s.agenda := rfl
@[simp] theorem State.setG_hbm (s : State) (i : BitVec 6) (v : W64) : (s.setG i v).hbm = s.hbm := rfl
@[simp] theorem State.setG_hbmPoison (s : State) (i : BitVec 6) (v : W64) : (s.setG i v).hbmPoison = s.hbmPoison := rfl
@[simp] theorem State.setG_spPoison (s : State) (i : BitVec 6) (v : W64) : (s.setG i v).spPoison = s.spPoison := rfl
@[simp] theorem State.setG_twPoison (s : State) (i : BitVec 6) (v : W64) : (s.setG i v).twPoison = s.twPoison := rfl
@[simp] theorem State.setG_accPoison (s : State) (i : BitVec 6) (v : W64) : (s.setG i v).accPoison = s.accPoison := rfl
@[simp] theorem State.setG_pePoison (s : State) (i : BitVec 6) (v : W64) : (s.setG i v).pePoison = s.pePoison := rfl
@[simp] theorem State.setG_chanFailed (s : State) (i : BitVec 6) (v : W64) : (s.setG i v).chanFailed = s.chanFailed := rfl
@[simp] theorem State.setG_hostMem (s : State) (i : BitVec 6) (v : W64) : (s.setG i v).hostMem = s.hostMem := rfl
@[simp] theorem State.setG_tags (s : State) (i : BitVec 6) (v : W64) : (s.setG i v).tags = s.tags := rfl
@[simp] theorem State.setG_pages (s : State) (i : BitVec 6) (v : W64) : (s.setG i v).pages = s.pages := rfl
@[simp] theorem State.setG_migs (s : State) (i : BitVec 6) (v : W64) : (s.setG i v).migs = s.migs := rfl
@[simp] theorem State.setG_patterns (s : State) (i : BitVec 6) (v : W64) : (s.setG i v).patterns = s.patterns := rfl
@[simp] theorem State.setG_llt (s : State) (i : BitVec 6) (v : W64) : (s.setG i v).llt = s.llt := rfl
@[simp] theorem State.setG_walkCache (s : State) (i : BitVec 6) (v : W64) : (s.setG i v).walkCache = s.walkCache := rfl
@[simp] theorem State.setG_bufs (s : State) (i : BitVec 6) (v : W64) : (s.setG i v).bufs = s.bufs := rfl
@[simp] theorem State.setG_ctxs (s : State) (i : BitVec 6) (v : W64) : (s.setG i v).ctxs = s.ctxs := rfl
@[simp] theorem State.setG_dev (s : State) (i : BitVec 6) (v : W64) : (s.setG i v).dev = s.dev := rfl
@[simp] theorem State.setG_host (s : State) (i : BitVec 6) (v : W64) : (s.setG i v).host = s.host := rfl
@[simp] theorem State.setG_queues (s : State) (i : BitVec 6) (v : W64) : (s.setG i v).queues = s.queues := rfl
@[simp] theorem State.setG_disp (s : State) (i : BitVec 6) (v : W64) : (s.setG i v).disp = s.disp := rfl
@[simp] theorem State.setG_rel (s : State) (i : BitVec 6) (v : W64) : (s.setG i v).rel = s.rel := rfl
@[simp] theorem State.setG_shoots (s : State) (i : BitVec 6) (v : W64) : (s.setG i v).shoots = s.shoots := rfl
@[simp] theorem State.setG_icinvs (s : State) (i : BitVec 6) (v : W64) : (s.setG i v).icinvs = s.icinvs := rfl
@[simp] theorem State.setG_nextMsg (s : State) (i : BitVec 6) (v : W64) : (s.setG i v).nextMsg = s.nextMsg := rfl
@[simp] theorem State.setG_ports (s : State) (i : BitVec 6) (v : W64) : (s.setG i v).ports = s.ports := rfl
@[simp] theorem State.setG_reqs (s : State) (i : BitVec 6) (v : W64) : (s.setG i v).reqs = s.reqs := rfl
@[simp] theorem State.setG_farFlips (s : State) (i : BitVec 6) (v : W64) : (s.setG i v).farFlips = s.farFlips := rfl
@[simp] theorem State.setG_remembered (s : State) (i : BitVec 6) (v : W64) : (s.setG i v).remembered = s.remembered := rfl
@[simp] theorem State.setG_oldTags (s : State) (i : BitVec 6) (v : W64) : (s.setG i v).oldTags = s.oldTags := rfl
@[simp] theorem State.setG_joins (s : State) (i : BitVec 6) (v : W64) : (s.setG i v).joins = s.joins := rfl
@[simp] theorem State.setG_mailFlight (s : State) (i : BitVec 6) (v : W64) : (s.setG i v).mailFlight = s.mailFlight := rfl
@[simp] theorem State.setG_flights (s : State) (i : BitVec 6) (v : W64) : (s.setG i v).flights = s.flights := rfl
@[simp] theorem State.setG_outbox (s : State) (i : BitVec 6) (v : W64) : (s.setG i v).outbox = s.outbox := rfl
@[simp] theorem State.setG_flash (s : State) (i : BitVec 6) (v : W64) : (s.setG i v).flash = s.flash := rfl
@[simp] theorem State.setPc_focus (s : State) (pc : W64) : (s.setPc pc).focus = s.focus := rfl
@[simp] theorem State.setPc_slot (s : State) (pc : W64) : (s.setPc pc).slot = s.slot := rfl
@[simp] theorem State.setPc_fresh (s : State) (pc : W64) : (s.setPc pc).fresh = s.fresh := rfl
@[simp] theorem State.setPc_clk (s : State) (pc : W64) : (s.setPc pc).clk = s.clk := rfl
@[simp] theorem State.setPc_gtc (s : State) (pc : W64) : (s.setPc pc).gtc = s.gtc := rfl
@[simp] theorem State.setPc_slew (s : State) (pc : W64) : (s.setPc pc).slew = s.slew := rfl
@[simp] theorem State.setPc_agenda (s : State) (pc : W64) : (s.setPc pc).agenda = s.agenda := rfl
@[simp] theorem State.setPc_hbm (s : State) (pc : W64) : (s.setPc pc).hbm = s.hbm := rfl
@[simp] theorem State.setPc_hbmPoison (s : State) (pc : W64) : (s.setPc pc).hbmPoison = s.hbmPoison := rfl
@[simp] theorem State.setPc_spPoison (s : State) (pc : W64) : (s.setPc pc).spPoison = s.spPoison := rfl
@[simp] theorem State.setPc_twPoison (s : State) (pc : W64) : (s.setPc pc).twPoison = s.twPoison := rfl
@[simp] theorem State.setPc_accPoison (s : State) (pc : W64) : (s.setPc pc).accPoison = s.accPoison := rfl
@[simp] theorem State.setPc_pePoison (s : State) (pc : W64) : (s.setPc pc).pePoison = s.pePoison := rfl
@[simp] theorem State.setPc_chanFailed (s : State) (pc : W64) : (s.setPc pc).chanFailed = s.chanFailed := rfl
@[simp] theorem State.setPc_hostMem (s : State) (pc : W64) : (s.setPc pc).hostMem = s.hostMem := rfl
@[simp] theorem State.setPc_tags (s : State) (pc : W64) : (s.setPc pc).tags = s.tags := rfl
@[simp] theorem State.setPc_pages (s : State) (pc : W64) : (s.setPc pc).pages = s.pages := rfl
@[simp] theorem State.setPc_migs (s : State) (pc : W64) : (s.setPc pc).migs = s.migs := rfl
@[simp] theorem State.setPc_patterns (s : State) (pc : W64) : (s.setPc pc).patterns = s.patterns := rfl
@[simp] theorem State.setPc_llt (s : State) (pc : W64) : (s.setPc pc).llt = s.llt := rfl
@[simp] theorem State.setPc_walkCache (s : State) (pc : W64) : (s.setPc pc).walkCache = s.walkCache := rfl
@[simp] theorem State.setPc_bufs (s : State) (pc : W64) : (s.setPc pc).bufs = s.bufs := rfl
@[simp] theorem State.setPc_ctxs (s : State) (pc : W64) : (s.setPc pc).ctxs = s.ctxs := rfl
@[simp] theorem State.setPc_dev (s : State) (pc : W64) : (s.setPc pc).dev = s.dev := rfl
@[simp] theorem State.setPc_host (s : State) (pc : W64) : (s.setPc pc).host = s.host := rfl
@[simp] theorem State.setPc_queues (s : State) (pc : W64) : (s.setPc pc).queues = s.queues := rfl
@[simp] theorem State.setPc_disp (s : State) (pc : W64) : (s.setPc pc).disp = s.disp := rfl
@[simp] theorem State.setPc_rel (s : State) (pc : W64) : (s.setPc pc).rel = s.rel := rfl
@[simp] theorem State.setPc_shoots (s : State) (pc : W64) : (s.setPc pc).shoots = s.shoots := rfl
@[simp] theorem State.setPc_icinvs (s : State) (pc : W64) : (s.setPc pc).icinvs = s.icinvs := rfl
@[simp] theorem State.setPc_nextMsg (s : State) (pc : W64) : (s.setPc pc).nextMsg = s.nextMsg := rfl
@[simp] theorem State.setPc_ports (s : State) (pc : W64) : (s.setPc pc).ports = s.ports := rfl
@[simp] theorem State.setPc_reqs (s : State) (pc : W64) : (s.setPc pc).reqs = s.reqs := rfl
@[simp] theorem State.setPc_farFlips (s : State) (pc : W64) : (s.setPc pc).farFlips = s.farFlips := rfl
@[simp] theorem State.setPc_remembered (s : State) (pc : W64) : (s.setPc pc).remembered = s.remembered := rfl
@[simp] theorem State.setPc_oldTags (s : State) (pc : W64) : (s.setPc pc).oldTags = s.oldTags := rfl
@[simp] theorem State.setPc_joins (s : State) (pc : W64) : (s.setPc pc).joins = s.joins := rfl
@[simp] theorem State.setPc_mailFlight (s : State) (pc : W64) : (s.setPc pc).mailFlight = s.mailFlight := rfl
@[simp] theorem State.setPc_flights (s : State) (pc : W64) : (s.setPc pc).flights = s.flights := rfl
@[simp] theorem State.setPc_outbox (s : State) (pc : W64) : (s.setPc pc).outbox = s.outbox := rfl
@[simp] theorem State.setPc_flash (s : State) (pc : W64) : (s.setPc pc).flash = s.flash := rfl
@[simp] theorem State.advance_focus (s : State) : s.advance.focus = s.focus := rfl
@[simp] theorem State.advance_slot (s : State) : s.advance.slot = s.slot := rfl
@[simp] theorem State.advance_fresh (s : State) : s.advance.fresh = s.fresh := rfl
@[simp] theorem State.advance_clk (s : State) : s.advance.clk = s.clk := rfl
@[simp] theorem State.advance_gtc (s : State) : s.advance.gtc = s.gtc := rfl
@[simp] theorem State.advance_slew (s : State) : s.advance.slew = s.slew := rfl
@[simp] theorem State.advance_agenda (s : State) : s.advance.agenda = s.agenda := rfl
@[simp] theorem State.advance_hbm (s : State) : s.advance.hbm = s.hbm := rfl
@[simp] theorem State.advance_hbmPoison (s : State) : s.advance.hbmPoison = s.hbmPoison := rfl
@[simp] theorem State.advance_spPoison (s : State) : s.advance.spPoison = s.spPoison := rfl
@[simp] theorem State.advance_twPoison (s : State) : s.advance.twPoison = s.twPoison := rfl
@[simp] theorem State.advance_accPoison (s : State) : s.advance.accPoison = s.accPoison := rfl
@[simp] theorem State.advance_pePoison (s : State) : s.advance.pePoison = s.pePoison := rfl
@[simp] theorem State.advance_chanFailed (s : State) : s.advance.chanFailed = s.chanFailed := rfl
@[simp] theorem State.advance_hostMem (s : State) : s.advance.hostMem = s.hostMem := rfl
@[simp] theorem State.advance_tags (s : State) : s.advance.tags = s.tags := rfl
@[simp] theorem State.advance_pages (s : State) : s.advance.pages = s.pages := rfl
@[simp] theorem State.advance_migs (s : State) : s.advance.migs = s.migs := rfl
@[simp] theorem State.advance_patterns (s : State) : s.advance.patterns = s.patterns := rfl
@[simp] theorem State.advance_llt (s : State) : s.advance.llt = s.llt := rfl
@[simp] theorem State.advance_walkCache (s : State) : s.advance.walkCache = s.walkCache := rfl
@[simp] theorem State.advance_bufs (s : State) : s.advance.bufs = s.bufs := rfl
@[simp] theorem State.advance_ctxs (s : State) : s.advance.ctxs = s.ctxs := rfl
@[simp] theorem State.advance_dev (s : State) : s.advance.dev = s.dev := rfl
@[simp] theorem State.advance_host (s : State) : s.advance.host = s.host := rfl
@[simp] theorem State.advance_queues (s : State) : s.advance.queues = s.queues := rfl
@[simp] theorem State.advance_disp (s : State) : s.advance.disp = s.disp := rfl
@[simp] theorem State.advance_rel (s : State) : s.advance.rel = s.rel := rfl
@[simp] theorem State.advance_shoots (s : State) : s.advance.shoots = s.shoots := rfl
@[simp] theorem State.advance_icinvs (s : State) : s.advance.icinvs = s.icinvs := rfl
@[simp] theorem State.advance_nextMsg (s : State) : s.advance.nextMsg = s.nextMsg := rfl
@[simp] theorem State.advance_ports (s : State) : s.advance.ports = s.ports := rfl
@[simp] theorem State.advance_reqs (s : State) : s.advance.reqs = s.reqs := rfl
@[simp] theorem State.advance_farFlips (s : State) : s.advance.farFlips = s.farFlips := rfl
@[simp] theorem State.advance_remembered (s : State) : s.advance.remembered = s.remembered := rfl
@[simp] theorem State.advance_oldTags (s : State) : s.advance.oldTags = s.oldTags := rfl
@[simp] theorem State.advance_joins (s : State) : s.advance.joins = s.joins := rfl
@[simp] theorem State.advance_mailFlight (s : State) : s.advance.mailFlight = s.mailFlight := rfl
@[simp] theorem State.advance_flights (s : State) : s.advance.flights = s.flights := rfl
@[simp] theorem State.advance_outbox (s : State) : s.advance.outbox = s.outbox := rfl
@[simp] theorem State.advance_flash (s : State) : s.advance.flash = s.flash := rfl
@[simp] theorem State.result_focus (s : State) (d : BitVec 6) (v : W64) : (s.result d v).focus = s.focus := rfl
@[simp] theorem State.result_slot (s : State) (d : BitVec 6) (v : W64) : (s.result d v).slot = s.slot := rfl
@[simp] theorem State.result_fresh (s : State) (d : BitVec 6) (v : W64) : (s.result d v).fresh = s.fresh := rfl
@[simp] theorem State.result_clk (s : State) (d : BitVec 6) (v : W64) : (s.result d v).clk = s.clk := rfl
@[simp] theorem State.result_gtc (s : State) (d : BitVec 6) (v : W64) : (s.result d v).gtc = s.gtc := rfl
@[simp] theorem State.result_slew (s : State) (d : BitVec 6) (v : W64) : (s.result d v).slew = s.slew := rfl
@[simp] theorem State.result_agenda (s : State) (d : BitVec 6) (v : W64) : (s.result d v).agenda = s.agenda := rfl
@[simp] theorem State.result_hbm (s : State) (d : BitVec 6) (v : W64) : (s.result d v).hbm = s.hbm := rfl
@[simp] theorem State.result_hbmPoison (s : State) (d : BitVec 6) (v : W64) : (s.result d v).hbmPoison = s.hbmPoison := rfl
@[simp] theorem State.result_spPoison (s : State) (d : BitVec 6) (v : W64) : (s.result d v).spPoison = s.spPoison := rfl
@[simp] theorem State.result_twPoison (s : State) (d : BitVec 6) (v : W64) : (s.result d v).twPoison = s.twPoison := rfl
@[simp] theorem State.result_accPoison (s : State) (d : BitVec 6) (v : W64) : (s.result d v).accPoison = s.accPoison := rfl
@[simp] theorem State.result_pePoison (s : State) (d : BitVec 6) (v : W64) : (s.result d v).pePoison = s.pePoison := rfl
@[simp] theorem State.result_chanFailed (s : State) (d : BitVec 6) (v : W64) : (s.result d v).chanFailed = s.chanFailed := rfl
@[simp] theorem State.result_hostMem (s : State) (d : BitVec 6) (v : W64) : (s.result d v).hostMem = s.hostMem := rfl
@[simp] theorem State.result_tags (s : State) (d : BitVec 6) (v : W64) : (s.result d v).tags = s.tags := rfl
@[simp] theorem State.result_pages (s : State) (d : BitVec 6) (v : W64) : (s.result d v).pages = s.pages := rfl
@[simp] theorem State.result_migs (s : State) (d : BitVec 6) (v : W64) : (s.result d v).migs = s.migs := rfl
@[simp] theorem State.result_patterns (s : State) (d : BitVec 6) (v : W64) : (s.result d v).patterns = s.patterns := rfl
@[simp] theorem State.result_llt (s : State) (d : BitVec 6) (v : W64) : (s.result d v).llt = s.llt := rfl
@[simp] theorem State.result_walkCache (s : State) (d : BitVec 6) (v : W64) : (s.result d v).walkCache = s.walkCache := rfl
@[simp] theorem State.result_bufs (s : State) (d : BitVec 6) (v : W64) : (s.result d v).bufs = s.bufs := rfl
@[simp] theorem State.result_ctxs (s : State) (d : BitVec 6) (v : W64) : (s.result d v).ctxs = s.ctxs := rfl
@[simp] theorem State.result_dev (s : State) (d : BitVec 6) (v : W64) : (s.result d v).dev = s.dev := rfl
@[simp] theorem State.result_host (s : State) (d : BitVec 6) (v : W64) : (s.result d v).host = s.host := rfl
@[simp] theorem State.result_queues (s : State) (d : BitVec 6) (v : W64) : (s.result d v).queues = s.queues := rfl
@[simp] theorem State.result_disp (s : State) (d : BitVec 6) (v : W64) : (s.result d v).disp = s.disp := rfl
@[simp] theorem State.result_rel (s : State) (d : BitVec 6) (v : W64) : (s.result d v).rel = s.rel := rfl
@[simp] theorem State.result_shoots (s : State) (d : BitVec 6) (v : W64) : (s.result d v).shoots = s.shoots := rfl
@[simp] theorem State.result_icinvs (s : State) (d : BitVec 6) (v : W64) : (s.result d v).icinvs = s.icinvs := rfl
@[simp] theorem State.result_nextMsg (s : State) (d : BitVec 6) (v : W64) : (s.result d v).nextMsg = s.nextMsg := rfl
@[simp] theorem State.result_ports (s : State) (d : BitVec 6) (v : W64) : (s.result d v).ports = s.ports := rfl
@[simp] theorem State.result_reqs (s : State) (d : BitVec 6) (v : W64) : (s.result d v).reqs = s.reqs := rfl
@[simp] theorem State.result_farFlips (s : State) (d : BitVec 6) (v : W64) : (s.result d v).farFlips = s.farFlips := rfl
@[simp] theorem State.result_remembered (s : State) (d : BitVec 6) (v : W64) : (s.result d v).remembered = s.remembered := rfl
@[simp] theorem State.result_oldTags (s : State) (d : BitVec 6) (v : W64) : (s.result d v).oldTags = s.oldTags := rfl
@[simp] theorem State.result_joins (s : State) (d : BitVec 6) (v : W64) : (s.result d v).joins = s.joins := rfl
@[simp] theorem State.result_mailFlight (s : State) (d : BitVec 6) (v : W64) : (s.result d v).mailFlight = s.mailFlight := rfl
@[simp] theorem State.result_flights (s : State) (d : BitVec 6) (v : W64) : (s.result d v).flights = s.flights := rfl
@[simp] theorem State.result_outbox (s : State) (d : BitVec 6) (v : W64) : (s.result d v).outbox = s.outbox := rfl
@[simp] theorem State.result_flash (s : State) (d : BitVec 6) (v : W64) : (s.result d v).flash = s.flash := rfl

/-! ### Contexts, buffers, ports, records of errors -/

@[simp] theorem State.onCtx_focus (s : State) (cid : Nat) (f : Ctx → Ctx) : (s.onCtx cid f).focus = s.focus := rfl
@[simp] theorem State.onCtx_slot (s : State) (cid : Nat) (f : Ctx → Ctx) : (s.onCtx cid f).slot = s.slot := rfl
@[simp] theorem State.onCtx_fresh (s : State) (cid : Nat) (f : Ctx → Ctx) : (s.onCtx cid f).fresh = s.fresh := rfl
@[simp] theorem State.onCtx_clk (s : State) (cid : Nat) (f : Ctx → Ctx) : (s.onCtx cid f).clk = s.clk := rfl
@[simp] theorem State.onCtx_gtc (s : State) (cid : Nat) (f : Ctx → Ctx) : (s.onCtx cid f).gtc = s.gtc := rfl
@[simp] theorem State.onCtx_slew (s : State) (cid : Nat) (f : Ctx → Ctx) : (s.onCtx cid f).slew = s.slew := rfl
@[simp] theorem State.onCtx_agenda (s : State) (cid : Nat) (f : Ctx → Ctx) : (s.onCtx cid f).agenda = s.agenda := rfl
@[simp] theorem State.onCtx_clusters (s : State) (cid : Nat) (f : Ctx → Ctx) : (s.onCtx cid f).clusters = s.clusters := rfl
@[simp] theorem State.onCtx_hbm (s : State) (cid : Nat) (f : Ctx → Ctx) : (s.onCtx cid f).hbm = s.hbm := rfl
@[simp] theorem State.onCtx_hbmPoison (s : State) (cid : Nat) (f : Ctx → Ctx) : (s.onCtx cid f).hbmPoison = s.hbmPoison := rfl
@[simp] theorem State.onCtx_spPoison (s : State) (cid : Nat) (f : Ctx → Ctx) : (s.onCtx cid f).spPoison = s.spPoison := rfl
@[simp] theorem State.onCtx_twPoison (s : State) (cid : Nat) (f : Ctx → Ctx) : (s.onCtx cid f).twPoison = s.twPoison := rfl
@[simp] theorem State.onCtx_accPoison (s : State) (cid : Nat) (f : Ctx → Ctx) : (s.onCtx cid f).accPoison = s.accPoison := rfl
@[simp] theorem State.onCtx_pePoison (s : State) (cid : Nat) (f : Ctx → Ctx) : (s.onCtx cid f).pePoison = s.pePoison := rfl
@[simp] theorem State.onCtx_chanFailed (s : State) (cid : Nat) (f : Ctx → Ctx) : (s.onCtx cid f).chanFailed = s.chanFailed := rfl
@[simp] theorem State.onCtx_hostMem (s : State) (cid : Nat) (f : Ctx → Ctx) : (s.onCtx cid f).hostMem = s.hostMem := rfl
@[simp] theorem State.onCtx_tags (s : State) (cid : Nat) (f : Ctx → Ctx) : (s.onCtx cid f).tags = s.tags := rfl
@[simp] theorem State.onCtx_pages (s : State) (cid : Nat) (f : Ctx → Ctx) : (s.onCtx cid f).pages = s.pages := rfl
@[simp] theorem State.onCtx_migs (s : State) (cid : Nat) (f : Ctx → Ctx) : (s.onCtx cid f).migs = s.migs := rfl
@[simp] theorem State.onCtx_patterns (s : State) (cid : Nat) (f : Ctx → Ctx) : (s.onCtx cid f).patterns = s.patterns := rfl
@[simp] theorem State.onCtx_llt (s : State) (cid : Nat) (f : Ctx → Ctx) : (s.onCtx cid f).llt = s.llt := rfl
@[simp] theorem State.onCtx_walkCache (s : State) (cid : Nat) (f : Ctx → Ctx) : (s.onCtx cid f).walkCache = s.walkCache := rfl
@[simp] theorem State.onCtx_bufs (s : State) (cid : Nat) (f : Ctx → Ctx) : (s.onCtx cid f).bufs = s.bufs := rfl
@[simp] theorem State.onCtx_dev (s : State) (cid : Nat) (f : Ctx → Ctx) : (s.onCtx cid f).dev = s.dev := rfl
@[simp] theorem State.onCtx_host (s : State) (cid : Nat) (f : Ctx → Ctx) : (s.onCtx cid f).host = s.host := rfl
@[simp] theorem State.onCtx_queues (s : State) (cid : Nat) (f : Ctx → Ctx) : (s.onCtx cid f).queues = s.queues := rfl
@[simp] theorem State.onCtx_disp (s : State) (cid : Nat) (f : Ctx → Ctx) : (s.onCtx cid f).disp = s.disp := rfl
@[simp] theorem State.onCtx_rel (s : State) (cid : Nat) (f : Ctx → Ctx) : (s.onCtx cid f).rel = s.rel := rfl
@[simp] theorem State.onCtx_shoots (s : State) (cid : Nat) (f : Ctx → Ctx) : (s.onCtx cid f).shoots = s.shoots := rfl
@[simp] theorem State.onCtx_icinvs (s : State) (cid : Nat) (f : Ctx → Ctx) : (s.onCtx cid f).icinvs = s.icinvs := rfl
@[simp] theorem State.onCtx_nextMsg (s : State) (cid : Nat) (f : Ctx → Ctx) : (s.onCtx cid f).nextMsg = s.nextMsg := rfl
@[simp] theorem State.onCtx_ports (s : State) (cid : Nat) (f : Ctx → Ctx) : (s.onCtx cid f).ports = s.ports := rfl
@[simp] theorem State.onCtx_reqs (s : State) (cid : Nat) (f : Ctx → Ctx) : (s.onCtx cid f).reqs = s.reqs := rfl
@[simp] theorem State.onCtx_farFlips (s : State) (cid : Nat) (f : Ctx → Ctx) : (s.onCtx cid f).farFlips = s.farFlips := rfl
@[simp] theorem State.onCtx_remembered (s : State) (cid : Nat) (f : Ctx → Ctx) : (s.onCtx cid f).remembered = s.remembered := rfl
@[simp] theorem State.onCtx_oldTags (s : State) (cid : Nat) (f : Ctx → Ctx) : (s.onCtx cid f).oldTags = s.oldTags := rfl
@[simp] theorem State.onCtx_joins (s : State) (cid : Nat) (f : Ctx → Ctx) : (s.onCtx cid f).joins = s.joins := rfl
@[simp] theorem State.onCtx_mailFlight (s : State) (cid : Nat) (f : Ctx → Ctx) : (s.onCtx cid f).mailFlight = s.mailFlight := rfl
@[simp] theorem State.onCtx_flights (s : State) (cid : Nat) (f : Ctx → Ctx) : (s.onCtx cid f).flights = s.flights := rfl
@[simp] theorem State.onCtx_outbox (s : State) (cid : Nat) (f : Ctx → Ctx) : (s.onCtx cid f).outbox = s.outbox := rfl
@[simp] theorem State.onCtx_flash (s : State) (cid : Nat) (f : Ctx → Ctx) : (s.onCtx cid f).flash = s.flash := rfl
@[simp] theorem State.setBuf_focus (s : State) (quad b : Nat) (v : Buf) : (s.setBuf quad b v).focus = s.focus := rfl
@[simp] theorem State.setBuf_slot (s : State) (quad b : Nat) (v : Buf) : (s.setBuf quad b v).slot = s.slot := rfl
@[simp] theorem State.setBuf_fresh (s : State) (quad b : Nat) (v : Buf) : (s.setBuf quad b v).fresh = s.fresh := rfl
@[simp] theorem State.setBuf_clk (s : State) (quad b : Nat) (v : Buf) : (s.setBuf quad b v).clk = s.clk := rfl
@[simp] theorem State.setBuf_gtc (s : State) (quad b : Nat) (v : Buf) : (s.setBuf quad b v).gtc = s.gtc := rfl
@[simp] theorem State.setBuf_slew (s : State) (quad b : Nat) (v : Buf) : (s.setBuf quad b v).slew = s.slew := rfl
@[simp] theorem State.setBuf_agenda (s : State) (quad b : Nat) (v : Buf) : (s.setBuf quad b v).agenda = s.agenda := rfl
@[simp] theorem State.setBuf_clusters (s : State) (quad b : Nat) (v : Buf) : (s.setBuf quad b v).clusters = s.clusters := rfl
@[simp] theorem State.setBuf_hbm (s : State) (quad b : Nat) (v : Buf) : (s.setBuf quad b v).hbm = s.hbm := rfl
@[simp] theorem State.setBuf_hbmPoison (s : State) (quad b : Nat) (v : Buf) : (s.setBuf quad b v).hbmPoison = s.hbmPoison := rfl
@[simp] theorem State.setBuf_spPoison (s : State) (quad b : Nat) (v : Buf) : (s.setBuf quad b v).spPoison = s.spPoison := rfl
@[simp] theorem State.setBuf_twPoison (s : State) (quad b : Nat) (v : Buf) : (s.setBuf quad b v).twPoison = s.twPoison := rfl
@[simp] theorem State.setBuf_accPoison (s : State) (quad b : Nat) (v : Buf) : (s.setBuf quad b v).accPoison = s.accPoison := rfl
@[simp] theorem State.setBuf_pePoison (s : State) (quad b : Nat) (v : Buf) : (s.setBuf quad b v).pePoison = s.pePoison := rfl
@[simp] theorem State.setBuf_chanFailed (s : State) (quad b : Nat) (v : Buf) : (s.setBuf quad b v).chanFailed = s.chanFailed := rfl
@[simp] theorem State.setBuf_hostMem (s : State) (quad b : Nat) (v : Buf) : (s.setBuf quad b v).hostMem = s.hostMem := rfl
@[simp] theorem State.setBuf_tags (s : State) (quad b : Nat) (v : Buf) : (s.setBuf quad b v).tags = s.tags := rfl
@[simp] theorem State.setBuf_pages (s : State) (quad b : Nat) (v : Buf) : (s.setBuf quad b v).pages = s.pages := rfl
@[simp] theorem State.setBuf_migs (s : State) (quad b : Nat) (v : Buf) : (s.setBuf quad b v).migs = s.migs := rfl
@[simp] theorem State.setBuf_patterns (s : State) (quad b : Nat) (v : Buf) : (s.setBuf quad b v).patterns = s.patterns := rfl
@[simp] theorem State.setBuf_llt (s : State) (quad b : Nat) (v : Buf) : (s.setBuf quad b v).llt = s.llt := rfl
@[simp] theorem State.setBuf_walkCache (s : State) (quad b : Nat) (v : Buf) : (s.setBuf quad b v).walkCache = s.walkCache := rfl
@[simp] theorem State.setBuf_ctxs (s : State) (quad b : Nat) (v : Buf) : (s.setBuf quad b v).ctxs = s.ctxs := rfl
@[simp] theorem State.setBuf_dev (s : State) (quad b : Nat) (v : Buf) : (s.setBuf quad b v).dev = s.dev := rfl
@[simp] theorem State.setBuf_host (s : State) (quad b : Nat) (v : Buf) : (s.setBuf quad b v).host = s.host := rfl
@[simp] theorem State.setBuf_queues (s : State) (quad b : Nat) (v : Buf) : (s.setBuf quad b v).queues = s.queues := rfl
@[simp] theorem State.setBuf_disp (s : State) (quad b : Nat) (v : Buf) : (s.setBuf quad b v).disp = s.disp := rfl
@[simp] theorem State.setBuf_rel (s : State) (quad b : Nat) (v : Buf) : (s.setBuf quad b v).rel = s.rel := rfl
@[simp] theorem State.setBuf_shoots (s : State) (quad b : Nat) (v : Buf) : (s.setBuf quad b v).shoots = s.shoots := rfl
@[simp] theorem State.setBuf_icinvs (s : State) (quad b : Nat) (v : Buf) : (s.setBuf quad b v).icinvs = s.icinvs := rfl
@[simp] theorem State.setBuf_nextMsg (s : State) (quad b : Nat) (v : Buf) : (s.setBuf quad b v).nextMsg = s.nextMsg := rfl
@[simp] theorem State.setBuf_ports (s : State) (quad b : Nat) (v : Buf) : (s.setBuf quad b v).ports = s.ports := rfl
@[simp] theorem State.setBuf_reqs (s : State) (quad b : Nat) (v : Buf) : (s.setBuf quad b v).reqs = s.reqs := rfl
@[simp] theorem State.setBuf_farFlips (s : State) (quad b : Nat) (v : Buf) : (s.setBuf quad b v).farFlips = s.farFlips := rfl
@[simp] theorem State.setBuf_remembered (s : State) (quad b : Nat) (v : Buf) : (s.setBuf quad b v).remembered = s.remembered := rfl
@[simp] theorem State.setBuf_oldTags (s : State) (quad b : Nat) (v : Buf) : (s.setBuf quad b v).oldTags = s.oldTags := rfl
@[simp] theorem State.setBuf_joins (s : State) (quad b : Nat) (v : Buf) : (s.setBuf quad b v).joins = s.joins := rfl
@[simp] theorem State.setBuf_mailFlight (s : State) (quad b : Nat) (v : Buf) : (s.setBuf quad b v).mailFlight = s.mailFlight := rfl
@[simp] theorem State.setBuf_flights (s : State) (quad b : Nat) (v : Buf) : (s.setBuf quad b v).flights = s.flights := rfl
@[simp] theorem State.setBuf_outbox (s : State) (quad b : Nat) (v : Buf) : (s.setBuf quad b v).outbox = s.outbox := rfl
@[simp] theorem State.setBuf_flash (s : State) (quad b : Nat) (v : Buf) : (s.setBuf quad b v).flash = s.flash := rfl
@[simp] theorem State.setPort_focus (s : State) (p : Nat) (v : Port) : (s.setPort p v).focus = s.focus := rfl
@[simp] theorem State.setPort_slot (s : State) (p : Nat) (v : Port) : (s.setPort p v).slot = s.slot := rfl
@[simp] theorem State.setPort_fresh (s : State) (p : Nat) (v : Port) : (s.setPort p v).fresh = s.fresh := rfl
@[simp] theorem State.setPort_clk (s : State) (p : Nat) (v : Port) : (s.setPort p v).clk = s.clk := rfl
@[simp] theorem State.setPort_gtc (s : State) (p : Nat) (v : Port) : (s.setPort p v).gtc = s.gtc := rfl
@[simp] theorem State.setPort_slew (s : State) (p : Nat) (v : Port) : (s.setPort p v).slew = s.slew := rfl
@[simp] theorem State.setPort_agenda (s : State) (p : Nat) (v : Port) : (s.setPort p v).agenda = s.agenda := rfl
@[simp] theorem State.setPort_clusters (s : State) (p : Nat) (v : Port) : (s.setPort p v).clusters = s.clusters := rfl
@[simp] theorem State.setPort_hbm (s : State) (p : Nat) (v : Port) : (s.setPort p v).hbm = s.hbm := rfl
@[simp] theorem State.setPort_hbmPoison (s : State) (p : Nat) (v : Port) : (s.setPort p v).hbmPoison = s.hbmPoison := rfl
@[simp] theorem State.setPort_spPoison (s : State) (p : Nat) (v : Port) : (s.setPort p v).spPoison = s.spPoison := rfl
@[simp] theorem State.setPort_twPoison (s : State) (p : Nat) (v : Port) : (s.setPort p v).twPoison = s.twPoison := rfl
@[simp] theorem State.setPort_accPoison (s : State) (p : Nat) (v : Port) : (s.setPort p v).accPoison = s.accPoison := rfl
@[simp] theorem State.setPort_pePoison (s : State) (p : Nat) (v : Port) : (s.setPort p v).pePoison = s.pePoison := rfl
@[simp] theorem State.setPort_chanFailed (s : State) (p : Nat) (v : Port) : (s.setPort p v).chanFailed = s.chanFailed := rfl
@[simp] theorem State.setPort_hostMem (s : State) (p : Nat) (v : Port) : (s.setPort p v).hostMem = s.hostMem := rfl
@[simp] theorem State.setPort_tags (s : State) (p : Nat) (v : Port) : (s.setPort p v).tags = s.tags := rfl
@[simp] theorem State.setPort_pages (s : State) (p : Nat) (v : Port) : (s.setPort p v).pages = s.pages := rfl
@[simp] theorem State.setPort_migs (s : State) (p : Nat) (v : Port) : (s.setPort p v).migs = s.migs := rfl
@[simp] theorem State.setPort_patterns (s : State) (p : Nat) (v : Port) : (s.setPort p v).patterns = s.patterns := rfl
@[simp] theorem State.setPort_llt (s : State) (p : Nat) (v : Port) : (s.setPort p v).llt = s.llt := rfl
@[simp] theorem State.setPort_walkCache (s : State) (p : Nat) (v : Port) : (s.setPort p v).walkCache = s.walkCache := rfl
@[simp] theorem State.setPort_bufs (s : State) (p : Nat) (v : Port) : (s.setPort p v).bufs = s.bufs := rfl
@[simp] theorem State.setPort_ctxs (s : State) (p : Nat) (v : Port) : (s.setPort p v).ctxs = s.ctxs := rfl
@[simp] theorem State.setPort_dev (s : State) (p : Nat) (v : Port) : (s.setPort p v).dev = s.dev := rfl
@[simp] theorem State.setPort_host (s : State) (p : Nat) (v : Port) : (s.setPort p v).host = s.host := rfl
@[simp] theorem State.setPort_queues (s : State) (p : Nat) (v : Port) : (s.setPort p v).queues = s.queues := rfl
@[simp] theorem State.setPort_disp (s : State) (p : Nat) (v : Port) : (s.setPort p v).disp = s.disp := rfl
@[simp] theorem State.setPort_rel (s : State) (p : Nat) (v : Port) : (s.setPort p v).rel = s.rel := rfl
@[simp] theorem State.setPort_shoots (s : State) (p : Nat) (v : Port) : (s.setPort p v).shoots = s.shoots := rfl
@[simp] theorem State.setPort_icinvs (s : State) (p : Nat) (v : Port) : (s.setPort p v).icinvs = s.icinvs := rfl
@[simp] theorem State.setPort_nextMsg (s : State) (p : Nat) (v : Port) : (s.setPort p v).nextMsg = s.nextMsg := rfl
@[simp] theorem State.setPort_reqs (s : State) (p : Nat) (v : Port) : (s.setPort p v).reqs = s.reqs := rfl
@[simp] theorem State.setPort_farFlips (s : State) (p : Nat) (v : Port) : (s.setPort p v).farFlips = s.farFlips := rfl
@[simp] theorem State.setPort_remembered (s : State) (p : Nat) (v : Port) : (s.setPort p v).remembered = s.remembered := rfl
@[simp] theorem State.setPort_oldTags (s : State) (p : Nat) (v : Port) : (s.setPort p v).oldTags = s.oldTags := rfl
@[simp] theorem State.setPort_joins (s : State) (p : Nat) (v : Port) : (s.setPort p v).joins = s.joins := rfl
@[simp] theorem State.setPort_mailFlight (s : State) (p : Nat) (v : Port) : (s.setPort p v).mailFlight = s.mailFlight := rfl
@[simp] theorem State.setPort_flights (s : State) (p : Nat) (v : Port) : (s.setPort p v).flights = s.flights := rfl
@[simp] theorem State.setPort_outbox (s : State) (p : Nat) (v : Port) : (s.setPort p v).outbox = s.outbox := rfl
@[simp] theorem State.setPort_flash (s : State) (p : Nat) (v : Port) : (s.setPort p v).flash = s.flash := rfl
@[simp] theorem State.deliver_focus (s : State) (r : ErrRec) : (s.deliver r).focus = s.focus := rfl
@[simp] theorem State.deliver_slot (s : State) (r : ErrRec) : (s.deliver r).slot = s.slot := rfl
@[simp] theorem State.deliver_fresh (s : State) (r : ErrRec) : (s.deliver r).fresh = s.fresh := rfl
@[simp] theorem State.deliver_clk (s : State) (r : ErrRec) : (s.deliver r).clk = s.clk := rfl
@[simp] theorem State.deliver_gtc (s : State) (r : ErrRec) : (s.deliver r).gtc = s.gtc := rfl
@[simp] theorem State.deliver_slew (s : State) (r : ErrRec) : (s.deliver r).slew = s.slew := rfl
@[simp] theorem State.deliver_agenda (s : State) (r : ErrRec) : (s.deliver r).agenda = s.agenda := rfl
@[simp] theorem State.deliver_clusters (s : State) (r : ErrRec) : (s.deliver r).clusters = s.clusters := rfl
@[simp] theorem State.deliver_hbm (s : State) (r : ErrRec) : (s.deliver r).hbm = s.hbm := rfl
@[simp] theorem State.deliver_hbmPoison (s : State) (r : ErrRec) : (s.deliver r).hbmPoison = s.hbmPoison := rfl
@[simp] theorem State.deliver_spPoison (s : State) (r : ErrRec) : (s.deliver r).spPoison = s.spPoison := rfl
@[simp] theorem State.deliver_twPoison (s : State) (r : ErrRec) : (s.deliver r).twPoison = s.twPoison := rfl
@[simp] theorem State.deliver_accPoison (s : State) (r : ErrRec) : (s.deliver r).accPoison = s.accPoison := rfl
@[simp] theorem State.deliver_pePoison (s : State) (r : ErrRec) : (s.deliver r).pePoison = s.pePoison := rfl
@[simp] theorem State.deliver_chanFailed (s : State) (r : ErrRec) : (s.deliver r).chanFailed = s.chanFailed := rfl
@[simp] theorem State.deliver_hostMem (s : State) (r : ErrRec) : (s.deliver r).hostMem = s.hostMem := rfl
@[simp] theorem State.deliver_tags (s : State) (r : ErrRec) : (s.deliver r).tags = s.tags := rfl
@[simp] theorem State.deliver_pages (s : State) (r : ErrRec) : (s.deliver r).pages = s.pages := rfl
@[simp] theorem State.deliver_migs (s : State) (r : ErrRec) : (s.deliver r).migs = s.migs := rfl
@[simp] theorem State.deliver_patterns (s : State) (r : ErrRec) : (s.deliver r).patterns = s.patterns := rfl
@[simp] theorem State.deliver_llt (s : State) (r : ErrRec) : (s.deliver r).llt = s.llt := rfl
@[simp] theorem State.deliver_walkCache (s : State) (r : ErrRec) : (s.deliver r).walkCache = s.walkCache := rfl
@[simp] theorem State.deliver_bufs (s : State) (r : ErrRec) : (s.deliver r).bufs = s.bufs := rfl
@[simp] theorem State.deliver_ctxs (s : State) (r : ErrRec) : (s.deliver r).ctxs = s.ctxs := rfl
@[simp] theorem State.deliver_dev (s : State) (r : ErrRec) : (s.deliver r).dev = s.dev := rfl
@[simp] theorem State.deliver_host (s : State) (r : ErrRec) : (s.deliver r).host = s.host := rfl
@[simp] theorem State.deliver_queues (s : State) (r : ErrRec) : (s.deliver r).queues = s.queues := rfl
@[simp] theorem State.deliver_disp (s : State) (r : ErrRec) : (s.deliver r).disp = s.disp := rfl
@[simp] theorem State.deliver_shoots (s : State) (r : ErrRec) : (s.deliver r).shoots = s.shoots := rfl
@[simp] theorem State.deliver_icinvs (s : State) (r : ErrRec) : (s.deliver r).icinvs = s.icinvs := rfl
@[simp] theorem State.deliver_nextMsg (s : State) (r : ErrRec) : (s.deliver r).nextMsg = s.nextMsg := rfl
@[simp] theorem State.deliver_ports (s : State) (r : ErrRec) : (s.deliver r).ports = s.ports := rfl
@[simp] theorem State.deliver_reqs (s : State) (r : ErrRec) : (s.deliver r).reqs = s.reqs := rfl
@[simp] theorem State.deliver_farFlips (s : State) (r : ErrRec) : (s.deliver r).farFlips = s.farFlips := rfl
@[simp] theorem State.deliver_remembered (s : State) (r : ErrRec) : (s.deliver r).remembered = s.remembered := rfl
@[simp] theorem State.deliver_oldTags (s : State) (r : ErrRec) : (s.deliver r).oldTags = s.oldTags := rfl
@[simp] theorem State.deliver_joins (s : State) (r : ErrRec) : (s.deliver r).joins = s.joins := rfl
@[simp] theorem State.deliver_mailFlight (s : State) (r : ErrRec) : (s.deliver r).mailFlight = s.mailFlight := rfl
@[simp] theorem State.deliver_flights (s : State) (r : ErrRec) : (s.deliver r).flights = s.flights := rfl
@[simp] theorem State.deliver_outbox (s : State) (r : ErrRec) : (s.deliver r).outbox = s.outbox := rfl
@[simp] theorem State.deliver_flash (s : State) (r : ErrRec) : (s.deliver r).flash = s.flash := rfl
@[simp] theorem State.report_focus (s : State) (src rung event cid code detail addr info tval : Nat) : (s.report src rung event cid code detail addr info tval).focus = s.focus := rfl
@[simp] theorem State.report_slot (s : State) (src rung event cid code detail addr info tval : Nat) : (s.report src rung event cid code detail addr info tval).slot = s.slot := rfl
@[simp] theorem State.report_fresh (s : State) (src rung event cid code detail addr info tval : Nat) : (s.report src rung event cid code detail addr info tval).fresh = s.fresh := rfl
@[simp] theorem State.report_clk (s : State) (src rung event cid code detail addr info tval : Nat) : (s.report src rung event cid code detail addr info tval).clk = s.clk := rfl
@[simp] theorem State.report_gtc (s : State) (src rung event cid code detail addr info tval : Nat) : (s.report src rung event cid code detail addr info tval).gtc = s.gtc := rfl
@[simp] theorem State.report_slew (s : State) (src rung event cid code detail addr info tval : Nat) : (s.report src rung event cid code detail addr info tval).slew = s.slew := rfl
@[simp] theorem State.report_agenda (s : State) (src rung event cid code detail addr info tval : Nat) : (s.report src rung event cid code detail addr info tval).agenda = s.agenda := rfl
@[simp] theorem State.report_clusters (s : State) (src rung event cid code detail addr info tval : Nat) : (s.report src rung event cid code detail addr info tval).clusters = s.clusters := rfl
@[simp] theorem State.report_hbm (s : State) (src rung event cid code detail addr info tval : Nat) : (s.report src rung event cid code detail addr info tval).hbm = s.hbm := rfl
@[simp] theorem State.report_hbmPoison (s : State) (src rung event cid code detail addr info tval : Nat) : (s.report src rung event cid code detail addr info tval).hbmPoison = s.hbmPoison := rfl
@[simp] theorem State.report_spPoison (s : State) (src rung event cid code detail addr info tval : Nat) : (s.report src rung event cid code detail addr info tval).spPoison = s.spPoison := rfl
@[simp] theorem State.report_twPoison (s : State) (src rung event cid code detail addr info tval : Nat) : (s.report src rung event cid code detail addr info tval).twPoison = s.twPoison := rfl
@[simp] theorem State.report_accPoison (s : State) (src rung event cid code detail addr info tval : Nat) : (s.report src rung event cid code detail addr info tval).accPoison = s.accPoison := rfl
@[simp] theorem State.report_pePoison (s : State) (src rung event cid code detail addr info tval : Nat) : (s.report src rung event cid code detail addr info tval).pePoison = s.pePoison := rfl
@[simp] theorem State.report_chanFailed (s : State) (src rung event cid code detail addr info tval : Nat) : (s.report src rung event cid code detail addr info tval).chanFailed = s.chanFailed := rfl
@[simp] theorem State.report_hostMem (s : State) (src rung event cid code detail addr info tval : Nat) : (s.report src rung event cid code detail addr info tval).hostMem = s.hostMem := rfl
@[simp] theorem State.report_tags (s : State) (src rung event cid code detail addr info tval : Nat) : (s.report src rung event cid code detail addr info tval).tags = s.tags := rfl
@[simp] theorem State.report_pages (s : State) (src rung event cid code detail addr info tval : Nat) : (s.report src rung event cid code detail addr info tval).pages = s.pages := rfl
@[simp] theorem State.report_migs (s : State) (src rung event cid code detail addr info tval : Nat) : (s.report src rung event cid code detail addr info tval).migs = s.migs := rfl
@[simp] theorem State.report_patterns (s : State) (src rung event cid code detail addr info tval : Nat) : (s.report src rung event cid code detail addr info tval).patterns = s.patterns := rfl
@[simp] theorem State.report_llt (s : State) (src rung event cid code detail addr info tval : Nat) : (s.report src rung event cid code detail addr info tval).llt = s.llt := rfl
@[simp] theorem State.report_walkCache (s : State) (src rung event cid code detail addr info tval : Nat) : (s.report src rung event cid code detail addr info tval).walkCache = s.walkCache := rfl
@[simp] theorem State.report_bufs (s : State) (src rung event cid code detail addr info tval : Nat) : (s.report src rung event cid code detail addr info tval).bufs = s.bufs := rfl
@[simp] theorem State.report_ctxs (s : State) (src rung event cid code detail addr info tval : Nat) : (s.report src rung event cid code detail addr info tval).ctxs = s.ctxs := rfl
@[simp] theorem State.report_dev (s : State) (src rung event cid code detail addr info tval : Nat) : (s.report src rung event cid code detail addr info tval).dev = s.dev := rfl
@[simp] theorem State.report_host (s : State) (src rung event cid code detail addr info tval : Nat) : (s.report src rung event cid code detail addr info tval).host = s.host := rfl
@[simp] theorem State.report_queues (s : State) (src rung event cid code detail addr info tval : Nat) : (s.report src rung event cid code detail addr info tval).queues = s.queues := rfl
@[simp] theorem State.report_disp (s : State) (src rung event cid code detail addr info tval : Nat) : (s.report src rung event cid code detail addr info tval).disp = s.disp := rfl
@[simp] theorem State.report_shoots (s : State) (src rung event cid code detail addr info tval : Nat) : (s.report src rung event cid code detail addr info tval).shoots = s.shoots := rfl
@[simp] theorem State.report_icinvs (s : State) (src rung event cid code detail addr info tval : Nat) : (s.report src rung event cid code detail addr info tval).icinvs = s.icinvs := rfl
@[simp] theorem State.report_nextMsg (s : State) (src rung event cid code detail addr info tval : Nat) : (s.report src rung event cid code detail addr info tval).nextMsg = s.nextMsg := rfl
@[simp] theorem State.report_ports (s : State) (src rung event cid code detail addr info tval : Nat) : (s.report src rung event cid code detail addr info tval).ports = s.ports := rfl
@[simp] theorem State.report_reqs (s : State) (src rung event cid code detail addr info tval : Nat) : (s.report src rung event cid code detail addr info tval).reqs = s.reqs := rfl
@[simp] theorem State.report_farFlips (s : State) (src rung event cid code detail addr info tval : Nat) : (s.report src rung event cid code detail addr info tval).farFlips = s.farFlips := rfl
@[simp] theorem State.report_remembered (s : State) (src rung event cid code detail addr info tval : Nat) : (s.report src rung event cid code detail addr info tval).remembered = s.remembered := rfl
@[simp] theorem State.report_oldTags (s : State) (src rung event cid code detail addr info tval : Nat) : (s.report src rung event cid code detail addr info tval).oldTags = s.oldTags := rfl
@[simp] theorem State.report_joins (s : State) (src rung event cid code detail addr info tval : Nat) : (s.report src rung event cid code detail addr info tval).joins = s.joins := rfl
@[simp] theorem State.report_mailFlight (s : State) (src rung event cid code detail addr info tval : Nat) : (s.report src rung event cid code detail addr info tval).mailFlight = s.mailFlight := rfl
@[simp] theorem State.report_flights (s : State) (src rung event cid code detail addr info tval : Nat) : (s.report src rung event cid code detail addr info tval).flights = s.flights := rfl
@[simp] theorem State.report_outbox (s : State) (src rung event cid code detail addr info tval : Nat) : (s.report src rung event cid code detail addr info tval).outbox = s.outbox := rfl
@[simp] theorem State.report_flash (s : State) (src rung event cid code detail addr info tval : Nat) : (s.report src rung event cid code detail addr info tval).flash = s.flash := rfl
@[simp] theorem State.msix_focus (s : State) (v : Nat) : (s.msix v).focus = s.focus := rfl
@[simp] theorem State.msix_slot (s : State) (v : Nat) : (s.msix v).slot = s.slot := rfl
@[simp] theorem State.msix_fresh (s : State) (v : Nat) : (s.msix v).fresh = s.fresh := rfl
@[simp] theorem State.msix_clk (s : State) (v : Nat) : (s.msix v).clk = s.clk := rfl
@[simp] theorem State.msix_gtc (s : State) (v : Nat) : (s.msix v).gtc = s.gtc := rfl
@[simp] theorem State.msix_slew (s : State) (v : Nat) : (s.msix v).slew = s.slew := rfl
@[simp] theorem State.msix_agenda (s : State) (v : Nat) : (s.msix v).agenda = s.agenda := rfl
@[simp] theorem State.msix_clusters (s : State) (v : Nat) : (s.msix v).clusters = s.clusters := rfl
@[simp] theorem State.msix_hbm (s : State) (v : Nat) : (s.msix v).hbm = s.hbm := rfl
@[simp] theorem State.msix_hbmPoison (s : State) (v : Nat) : (s.msix v).hbmPoison = s.hbmPoison := rfl
@[simp] theorem State.msix_spPoison (s : State) (v : Nat) : (s.msix v).spPoison = s.spPoison := rfl
@[simp] theorem State.msix_twPoison (s : State) (v : Nat) : (s.msix v).twPoison = s.twPoison := rfl
@[simp] theorem State.msix_accPoison (s : State) (v : Nat) : (s.msix v).accPoison = s.accPoison := rfl
@[simp] theorem State.msix_pePoison (s : State) (v : Nat) : (s.msix v).pePoison = s.pePoison := rfl
@[simp] theorem State.msix_chanFailed (s : State) (v : Nat) : (s.msix v).chanFailed = s.chanFailed := rfl
@[simp] theorem State.msix_hostMem (s : State) (v : Nat) : (s.msix v).hostMem = s.hostMem := rfl
@[simp] theorem State.msix_tags (s : State) (v : Nat) : (s.msix v).tags = s.tags := rfl
@[simp] theorem State.msix_pages (s : State) (v : Nat) : (s.msix v).pages = s.pages := rfl
@[simp] theorem State.msix_migs (s : State) (v : Nat) : (s.msix v).migs = s.migs := rfl
@[simp] theorem State.msix_patterns (s : State) (v : Nat) : (s.msix v).patterns = s.patterns := rfl
@[simp] theorem State.msix_llt (s : State) (v : Nat) : (s.msix v).llt = s.llt := rfl
@[simp] theorem State.msix_walkCache (s : State) (v : Nat) : (s.msix v).walkCache = s.walkCache := rfl
@[simp] theorem State.msix_bufs (s : State) (v : Nat) : (s.msix v).bufs = s.bufs := rfl
@[simp] theorem State.msix_ctxs (s : State) (v : Nat) : (s.msix v).ctxs = s.ctxs := rfl
@[simp] theorem State.msix_dev (s : State) (v : Nat) : (s.msix v).dev = s.dev := rfl
@[simp] theorem State.msix_queues (s : State) (v : Nat) : (s.msix v).queues = s.queues := rfl
@[simp] theorem State.msix_disp (s : State) (v : Nat) : (s.msix v).disp = s.disp := rfl
@[simp] theorem State.msix_rel (s : State) (v : Nat) : (s.msix v).rel = s.rel := rfl
@[simp] theorem State.msix_shoots (s : State) (v : Nat) : (s.msix v).shoots = s.shoots := rfl
@[simp] theorem State.msix_icinvs (s : State) (v : Nat) : (s.msix v).icinvs = s.icinvs := rfl
@[simp] theorem State.msix_nextMsg (s : State) (v : Nat) : (s.msix v).nextMsg = s.nextMsg := rfl
@[simp] theorem State.msix_ports (s : State) (v : Nat) : (s.msix v).ports = s.ports := rfl
@[simp] theorem State.msix_reqs (s : State) (v : Nat) : (s.msix v).reqs = s.reqs := rfl
@[simp] theorem State.msix_farFlips (s : State) (v : Nat) : (s.msix v).farFlips = s.farFlips := rfl
@[simp] theorem State.msix_remembered (s : State) (v : Nat) : (s.msix v).remembered = s.remembered := rfl
@[simp] theorem State.msix_oldTags (s : State) (v : Nat) : (s.msix v).oldTags = s.oldTags := rfl
@[simp] theorem State.msix_joins (s : State) (v : Nat) : (s.msix v).joins = s.joins := rfl
@[simp] theorem State.msix_mailFlight (s : State) (v : Nat) : (s.msix v).mailFlight = s.mailFlight := rfl
@[simp] theorem State.msix_flights (s : State) (v : Nat) : (s.msix v).flights = s.flights := rfl
@[simp] theorem State.msix_outbox (s : State) (v : Nat) : (s.msix v).outbox = s.outbox := rfl
@[simp] theorem State.msix_flash (s : State) (v : Nat) : (s.msix v).flash = s.flash := rfl

/-! ### The map from logical to physical clusters (R381) -/

@[simp] theorem State.setCl_skip (s : State) (n : Nat) (c : Cluster) (j : Nat) : (s.setCl n c).skip j = s.skip j := rfl
@[simp] theorem State.setCl_phys (s : State) (n : Nat) (c : Cluster) (m : Nat) : (s.setCl n c).phys m = s.phys m := rfl

/-- Two logical clusters never share a physical one. -/
theorem State.phys_inj (s : State) {n m : Nat} (h : s.phys n = s.phys m) : n = m := by
  have hcol : n % 16 = m % 16 := by
    unfold State.phys at h
    split at h <;> split at h <;> omega
  unfold State.phys at h
  rw [hcol] at h
  split at h <;> split at h <;> omega

/-- The cluster written reads as what was written. -/
@[simp] theorem State.cl_setCl_self (s : State) (n : Nat) (c : Cluster) : (s.setCl n c).cl n = c :=
  NMap.get_set_self s.clusters (s.phys n) c

/-- Every other cluster reads as before. -/
theorem State.cl_setCl_ne (s : State) {n m : Nat} (c : Cluster) (h : m ≠ n) : (s.setCl n c).cl m = s.cl m :=
  NMap.get_set_ne s.clusters c fun e => h (s.phys_inj e)

theorem State.cl_setCl (s : State) (n m : Nat) (c : Cluster) : (s.setCl n c).cl m = if m = n then c else s.cl m := by
  split
  · subst_vars; simp
  · exact s.cl_setCl_ne c ‹_›

@[simp] theorem State.cl_onCl_self (s : State) (n : Nat) (f : Cluster → Cluster) : (s.onCl n f).cl n = f (s.cl n) := s.cl_setCl_self _ _
theorem State.cl_onCl_ne (s : State) {n m : Nat} (f : Cluster → Cluster) (h : m ≠ n) : (s.onCl n f).cl m = s.cl m := s.cl_setCl_ne _ h
theorem State.cl_onCl (s : State) (n m : Nat) (f : Cluster → Cluster) : (s.onCl n f).cl m = if m = n then f (s.cl n) else s.cl m :=
  s.cl_setCl _ _ _
@[simp] theorem State.cl_onA_self (s : State) (n : Nat) (f : ACore → ACore) : (s.onA n f).cl n = { s.cl n with a := f (s.cl n).a } :=
  s.cl_onCl_self _ _
@[simp] theorem State.cl_onX_self (s : State) (n : Nat) (f : XCore → XCore) : (s.onX n f).cl n = { s.cl n with x := f (s.cl n).x } :=
  s.cl_onCl_self _ _
@[simp] theorem State.cl_onArr_self (s : State) (n : Nat) (f : Arr → Arr) : (s.onArr n f).cl n = { s.cl n with arr := f (s.cl n).arr } :=
  s.cl_onCl_self _ _
@[simp] theorem State.cl_onCtl_self (s : State) (n : Nat) (f : Ctl → Ctl) : (s.onCtl n f).cl n = { s.cl n with ctl := f (s.cl n).ctl } :=
  s.cl_onCl_self _ _
theorem State.cl_onA_ne (s : State) {n m : Nat} (f : ACore → ACore) (h : m ≠ n) : (s.onA n f).cl m = s.cl m := s.cl_onCl_ne _ h
theorem State.cl_onX_ne (s : State) {n m : Nat} (f : XCore → XCore) (h : m ≠ n) : (s.onX n f).cl m = s.cl m := s.cl_onCl_ne _ h
theorem State.cl_onArr_ne (s : State) {n m : Nat} (f : Arr → Arr) (h : m ≠ n) : (s.onArr n f).cl m = s.cl m := s.cl_onCl_ne _ h
theorem State.cl_onCtl_ne (s : State) {n m : Nat} (f : Ctl → Ctl) (h : m ≠ n) : (s.onCtl n f).cl m = s.cl m := s.cl_onCl_ne _ h

/-! ### General registers (R206) -/

/-- What a general register reads after a write: g0 reads zero, and a write of g0 is discarded. -/
theorem ACore.reg_setG (c : Cluster) (i j : BitVec 6) (v : W64) :
    (c.setG i v).a.reg j = if j = i ∧ i ≠ 0 then v else c.a.reg j := by
  unfold Cluster.setG
  by_cases hi : i = 0
  · simp [hi]
  · simp only [hi, if_false, ACore.reg]
    by_cases hj : j = i
    · subst hj; rw [if_neg hi, if_pos ⟨rfl, hi⟩]; exact NMap.get_set_self _ _ _
    · have : j.toNat ≠ i.toNat := fun h => hj (BitVec.eq_of_toNat_eq h)
      simp [hj, NMap.get_set_ne _ _ this]

@[simp] theorem Cluster.setG_x (c : Cluster) (i : BitVec 6) (v : W64) : (c.setG i v).x = c.x := by unfold Cluster.setG; split <;> rfl
@[simp] theorem Cluster.setG_ctl (c : Cluster) (i : BitVec 6) (v : W64) : (c.setG i v).ctl = c.ctl := by unfold Cluster.setG; split <;> rfl
@[simp] theorem Cluster.setG_arr (c : Cluster) (i : BitVec 6) (v : W64) : (c.setG i v).arr = c.arr := by unfold Cluster.setG; split <;> rfl
@[simp] theorem Cluster.setG_sp (c : Cluster) (i : BitVec 6) (v : W64) : (c.setG i v).sp = c.sp := by unfold Cluster.setG; split <;> rfl
@[simp] theorem Cluster.setG_tw (c : Cluster) (i : BitVec 6) (v : W64) : (c.setG i v).tw = c.tw := by unfold Cluster.setG; split <;> rfl

/-- A core with its general registers left out of account. -/
def ACore.besideG (a : ACore) : ACore := { a with g := [] }

theorem Cluster.setG_besideG (c : Cluster) (i : BitVec 6) (v : W64) : (c.setG i v).a.besideG = c.a.besideG := by
  unfold Cluster.setG; split <;> rfl

/-! ### A result and the next instruction -/

/-- Everything an instruction that writes a result does: one register, the pc, the wait; no other cluster changes. -/
theorem State.result_spec (s : State) (d : BitVec 6) (v : W64) :
    (∀ j, (s.result d v).g j = if j = d ∧ d ≠ 0 then v else s.g j) ∧ (s.result d v).a.pc = s.a.pc + 8
      ∧ (s.result d v).x = s.x ∧ ∀ n, n ≠ s.focus → (s.result d v).cl n = s.cl n := by
  refine ⟨fun j => ?_, ?_, ?_, fun n hn => ?_⟩
  · simp only [State.result, State.advance, State.setPc, State.g, State.a, State.cur, State.onA, State.setG, State.onCl_focus,
      State.cl_onCl_self]
    exact ACore.reg_setG _ _ _ _
  · simp only [State.result, State.advance, State.setPc, State.a, State.cur, State.onA, State.setG, State.onCl_focus,
      State.cl_onCl_self]
    unfold Cluster.setG; split <;> rfl
  · simp only [State.result, State.advance, State.setPc, State.x, State.a, State.cur, State.onA, State.setG, State.onCl_focus,
      State.cl_onCl_self, Cluster.setG_x]
  · simp only [State.result, State.advance, State.setPc, State.onA, State.setG, State.onCl_focus]
    rw [State.cl_onCl_ne _ _ hn, State.cl_onCl_ne _ _ hn]

end Sys2Proof.Machine
end

