-- ==== Sys2Proof/Laws/Bytes.lean ====
section
/-! SUPPORT. Which operations leave every byte of every memory as it was. -/

namespace Sys2Proof.Machine

theorem SameBytes.refl (s : State) : SameBytes s s := ⟨fun _ => rfl, fun _ => rfl, fun _ _ => ⟨rfl, rfl⟩⟩

theorem SameBytes.trans {s t u : State} (h : SameBytes s t) (k : SameBytes t u) : SameBytes s u :=
  ⟨fun a => (k.1 a).trans (h.1 a), fun a => (k.2.1 a).trans (h.2.1 a),
   fun n a => ⟨(k.2.2 n a).1.trans (h.2.2 n a).1, (k.2.2 n a).2.trans (h.2.2 n a).2⟩⟩

/-- A state that has the same memories and the same clusters has the same bytes. -/
theorem SameBytes.of_clusters {s t : State} (h : t.hbm = s.hbm) (k : t.hostMem = s.hostMem) (c : ∀ n, t.cl n = s.cl n) :
    SameBytes s t :=
  ⟨fun a => by rw [h], fun a => by rw [k], fun n a => by rw [c n]; exact ⟨rfl, rfl⟩⟩

/-- An update of one cluster that keeps its memories. -/
theorem SameBytes.onCl (s : State) (n : Nat) (f : Cluster → Cluster) (h : (f (s.cl n)).sp = (s.cl n).sp)
    (k : (f (s.cl n)).tw = (s.cl n).tw) : SameBytes s (s.onCl n f) := by
  refine ⟨fun _ => rfl, fun _ => rfl, fun m a => ?_⟩
  rw [State.cl_onCl]
  split
  · next e => subst e; rw [h, k]; exact ⟨rfl, rfl⟩
  · exact ⟨rfl, rfl⟩

theorem SameBytes.onA (s : State) (n : Nat) (f : ACore → ACore) : SameBytes s (s.onA n f) := .onCl s n _ rfl rfl
theorem SameBytes.onX (s : State) (n : Nat) (f : XCore → XCore) : SameBytes s (s.onX n f) := .onCl s n _ rfl rfl
theorem SameBytes.onArr (s : State) (n : Nat) (f : Arr → Arr) : SameBytes s (s.onArr n f) := .onCl s n _ rfl rfl
theorem SameBytes.onCtl (s : State) (n : Nat) (f : Ctl → Ctl) : SameBytes s (s.onCtl n f) := .onCl s n _ rfl rfl

theorem SameBytes.onCtx (s : State) (cid : Nat) (f : Ctx → Ctx) : SameBytes s (s.onCtx cid f) :=
  .of_clusters rfl rfl fun _ => rfl

theorem SameBytes.setG (s : State) (i : BitVec 6) (v : W64) : SameBytes s (s.setG i v) := by
  refine .onCl s _ _ ?_ ?_ <;> simp only [Cluster.setG] <;> split <;> rfl

theorem SameBytes.setPc (s : State) (v : W64) : SameBytes s (s.setPc v) := .onA s _ _
theorem SameBytes.advance (s : State) : SameBytes s s.advance := .setPc s _

theorem SameBytes.result (s : State) (i : BitVec 6) (v : W64) : SameBytes s (s.result i v) := (SameBytes.setG s i v).trans (.advance _)

theorem SameBytes.waitAt (s : State) (k : WaitKind) (f : AF) : SameBytes s (s.waitAt k f) := .onA s _ _

theorem SameBytes.report (s : State) (a b c d e f g h i : Nat) : SameBytes s (s.report a b c d e f g h i) :=
  .of_clusters rfl rfl fun _ => rfl

theorem SameBytes.sendOn (s : State) (p dst : Nat) (m : Msg) : SameBytes s (s.sendOn p dst m) := by
  simp only [State.sendOn]
  split <;> exact .of_clusters rfl rfl fun _ => rfl

theorem SameBytes.send (s : State) (dst : Nat) (m : Msg) (src : Nat) : SameBytes s (s.send dst m src) := by
  simp only [State.send]
  split
  · exact .of_clusters rfl rfl fun _ => rfl
  · split
    · exact .refl s
    · exact .sendOn s _ dst m

end Sys2Proof.Machine
end

