-- ==== Sys2Proof/Laws/Engine.lean ====
section
/-! SUPPORT. What waiting and the acceptance of an engine command do. -/

namespace Sys2Proof.Machine

/-- Everything a waiting instruction does: the core notes what it waits at. -/
theorem State.waitAt_spec (s : State) (k : WaitKind) (f : AF) :
    (s.waitAt k f).a.pc = s.a.pc ∧ (s.waitAt k f).a.wait.isSome = true ∧ (s.waitAt k f).a.cmds = s.a.cmds
      ∧ (s.waitAt k f).a.loads = s.a.loads ∧ (s.waitAt k f).a.stores = s.a.stores ∧ (∀ r, (s.waitAt k f).g r = s.g r)
      ∧ SameBytes s (s.waitAt k f) ∧ ∀ n, n ≠ s.focus → (s.waitAt k f).cl n = s.cl n := by
  refine ⟨?_, ?_, ?_, ?_, ?_, fun r => ?_, .waitAt s k f, fun n h => State.cl_onA_ne s _ h⟩ <;>
    simp [State.waitAt, State.a, State.cur, State.g, ACore.reg]

/-- What the acceptance of a command leaves of the state `s`: `t` has one command more on the focused core, and otherwise only places and locks
of commands differ. -/
def State.Joined (s t : State) : Prop :=
  SameBytes s t ∧ t.focus = s.focus ∧ t.a.cmds.length = s.a.cmds.length + 1 ∧ t.a.seq = s.a.seq + 1 ∧ t.a.nextId = s.a.nextId + 1
    ∧ t.a.pc = s.a.pc ∧ t.a.g = s.a.g ∧ t.x = s.x ∧ ∀ n, n ≠ s.focus → t.cl n = s.cl n

theorem State.joinCmd_spec (s : State) (k : Cmd) : s.Joined (s.joinCmd k) := by
  refine ⟨.onA s _ _, rfl, ?_, ?_, ?_, ?_, ?_, ?_, fun n h => State.cl_onA_ne s _ h⟩ <;>
    simp [State.joinCmd, State.a, State.x, State.cur]

/-- Taking banks changes locks of the cluster's commands and nothing else. -/
theorem State.lockBanks_spec {s t : State} (k : Cmd) (h : s.Joined t) : s.Joined (t.lockBanks s.focus k) := by
  obtain ⟨h1, h2, h3, h4, h5, h6, h7, h8, h9⟩ := h
  refine ⟨h1.trans (.onA t _ _), h2, ?_, ?_, ?_, ?_, ?_, ?_, fun n hn => ?_⟩
  · simpa [State.lockBanks, State.a, State.cur, h2] using h3
  · simpa [State.lockBanks, State.a, State.cur, h2] using h4
  · simpa [State.lockBanks, State.a, State.cur, h2] using h5
  · simpa [State.lockBanks, State.a, State.cur, h2] using h6
  · simpa [State.lockBanks, State.a, State.cur, h2] using h7
  · simpa [State.lockBanks, State.x, State.cur, h2] using h8
  · rw [State.lockBanks, State.cl_onA_ne _ _ hn, h9 n hn]

/-- Everything the acceptance of a command does. -/
theorem State.takeCmd_spec (s : State) (k : Cmd) (es : List Ext) : s.Joined (s.takeCmd k es) := by
  simp only [State.takeCmd]
  split
  · exact State.lockBanks_spec _ (s.joinCmd_spec _)
  · exact s.joinCmd_spec _

/-- An engine command whose checks pass and that finds room; in mode S every earlier result is in (R415). -/
theorem State.accept_next (s : State) (f : AF) (regs : List (BitVec 6)) (k : Cmd) (es : List Ext) (h : s.ready regs = true)
    (firm : s.firmReady = true) (room : s.a.cmds.length < 32) : s.accept f regs none k es = .next (s.takeCmd k es).advance := by
  simp [State.accept, h, firm, State.cmdFull, room]

/-- An engine command that finds no room waits. -/
theorem State.accept_full (s : State) (f : AF) (regs : List (BitVec 6)) (k : Cmd) (es : List Ext) (h : s.ready regs = true)
    (firm : s.firmReady = true) (full : 32 ≤ s.a.cmds.length) : s.accept f regs none k es = .next (s.waitAt .room f) := by
  simp [State.accept, h, firm, State.cmdFull, full]

/-- An engine command with a failing check takes its trap. -/
theorem State.accept_trap (s : State) (f : AF) (regs : List (BitVec 6)) (e : Flt) (k : Cmd) (es : List Ext) (h : s.ready regs = true) :
    s.accept f regs (some e) k es = .next (s.trapFlt e) := by
  simp [State.accept, h]

end Sys2Proof.Machine
end

