-- ==== Sys2Proof/Laws/PerInstr.lean ====
section
/-! SUPPORT. Laws of single instructions: the words of the encoder, one lemma per constructor. -/

namespace Sys2Proof.Laws.Encodes
open Sys2Proof

/-- An instruction of a core has one word of 64 or 128 bits; an event of the device has none. -/
def Statement (i : Instr) : Prop :=
  match encode i with
  | some (n, w) => i.fetched = true ∧ (n = 64 ∨ n = 128) ∧ w < 2 ^ n
  | none => i.fetched = false

/-- The words of every instruction. -/
theorem every (i : Instr) : Statement i := by
  unfold Statement encode
  cases h : i.aForm with
  | some p => exact ⟨by simp [Instr.fetched, h], .inl rfl, (encodeAF p.1 p.2.2).isLt⟩
  | none =>
    cases h2 : i.xForm with
    | some p => exact ⟨by simp [Instr.fetched, h2], .inr rfl, (encodeXF p.1 p.2.2).isLt⟩
    | none => simp [Instr.fetched, h, h2]

theorem add (f : AF) : Statement (.add f) := every _
theorem sub (f : AF) : Statement (.sub f) := every _
theorem mul (f : AF) : Statement (.mul f) := every _
theorem mulh (f : AF) : Statement (.mulh f) := every _
theorem mulhn (f : AF) : Statement (.mulhn f) := every _
theorem div (f : AF) : Statement (.div f) := every _
theorem divn (f : AF) : Statement (.divn f) := every _
theorem rem (f : AF) : Statement (.rem f) := every _
theorem remn (f : AF) : Statement (.remn f) := every _
theorem and (f : AF) : Statement (.and f) := every _
theorem or (f : AF) : Statement (.or f) := every _
theorem xor (f : AF) : Statement (.xor f) := every _
theorem andn (f : AF) : Statement (.andn f) := every _
theorem shl (f : AF) : Statement (.shl f) := every _
theorem shlImm (f : AF) : Statement (.shlImm f) := every _
theorem shr (f : AF) : Statement (.shr f) := every _
theorem shrImm (f : AF) : Statement (.shrImm f) := every _
theorem sar (f : AF) : Statement (.sar f) := every _
theorem sarImm (f : AF) : Statement (.sarImm f) := every _
theorem rol (f : AF) : Statement (.rol f) := every _
theorem rolImm (f : AF) : Statement (.rolImm f) := every _
theorem rotr (f : AF) : Statement (.rotr f) := every _
theorem rotrImm (f : AF) : Statement (.rotrImm f) := every _
theorem clz (f : AF) : Statement (.clz f) := every _
theorem ctz (f : AF) : Statement (.ctz f) := every _
theorem popc (f : AF) : Statement (.popc f) := every _
theorem min (f : AF) : Statement (.min f) := every _
theorem max (f : AF) : Statement (.max f) := every _
theorem minn (f : AF) : Statement (.minn f) := every _
theorem maxn (f : AF) : Statement (.maxn f) := every _
theorem sel (f : AF) : Statement (.sel f) := every _
theorem addi (f : AF) : Statement (.addi f) := every _
theorem andi (f : AF) : Statement (.andi f) := every _
theorem ori (f : AF) : Statement (.ori f) := every _
theorem xori (f : AF) : Statement (.xori f) := every _
theorem li (f : AF) : Statement (.li f) := every _
theorem lih (f : AF) : Statement (.lih f) := every _
theorem exts (f : AF) : Statement (.exts f) := every _
theorem extsVar (f : AF) : Statement (.extsVar f) := every _
theorem extz (f : AF) : Statement (.extz f) := every _
theorem extzVar (f : AF) : Statement (.extzVar f) := every _
theorem ins (f : AF) : Statement (.ins f) := every _
theorem insVar (f : AF) : Statement (.insVar f) := every _
theorem cmpeq (f : AF) : Statement (.cmpeq f) := every _
theorem cmpne (f : AF) : Statement (.cmpne f) := every _
theorem cmplt (f : AF) : Statement (.cmplt f) := every _
theorem cmple (f : AF) : Statement (.cmple f) := every _
theorem cmpltn (f : AF) : Statement (.cmpltn f) := every _
theorem cmplen (f : AF) : Statement (.cmplen f) := every _
theorem jmp (f : AF) : Statement (.jmp f) := every _
theorem jal (f : AF) : Statement (.jal f) := every _
theorem jali (f : AF) : Statement (.jali f) := every _
theorem loop (f : AF) : Statement (.loop f) := every _
theorem beq (f : AF) : Statement (.beq f) := every _
theorem bne (f : AF) : Statement (.bne f) := every _
theorem blt (f : AF) : Statement (.blt f) := every _
theorem bge (f : AF) : Statement (.bge f) := every _
theorem bltn (f : AF) : Statement (.bltn f) := every _
theorem bgen (f : AF) : Statement (.bgen f) := every _
theorem ld (f : AF) : Statement (.ld f) := every _
theorem st (f : AF) : Statement (.st f) := every _
theorem ldaq (f : AF) : Statement (.ldaq f) := every _
theorem strl (f : AF) : Statement (.strl f) := every _
theorem cas (f : AF) : Statement (.cas f) := every _
theorem amoSwap (f : AF) : Statement (.amoSwap f) := every _
theorem amoAdd (f : AF) : Statement (.amoAdd f) := every _
theorem amoAnd (f : AF) : Statement (.amoAnd f) := every _
theorem amoOr (f : AF) : Statement (.amoOr f) := every _
theorem amoXor (f : AF) : Statement (.amoXor f) := every _
theorem amoMin (f : AF) : Statement (.amoMin f) := every _
theorem amoMax (f : AF) : Statement (.amoMax f) := every _
theorem amoMinn (f : AF) : Statement (.amoMinn f) := every _
theorem amoMaxn (f : AF) : Statement (.amoMaxn f) := every _
theorem fence (f : AF) : Statement (.fence f) := every _
theorem fencew (f : AF) : Statement (.fencew f) := every _
theorem wset (f : AF) : Statement (.wset f) := every _
theorem wsetHandle (f : AF) : Statement (.wsetHandle f) := every _
theorem wclr (f : AF) : Statement (.wclr f) := every _
theorem icinv (f : AF) : Statement (.icinv f) := every _
theorem icsync (f : AF) : Statement (.icsync f) := every _
theorem tldq (f : AF) : Statement (.tldq f) := every _
theorem sqd (f : AF) : Statement (.sqd f) := every _
theorem qstat (f : AF) : Statement (.qstat f) := every _
theorem xcopy (f : AF) : Statement (.xcopy f) := every _
theorem xcopyTpl (f : AF) : Statement (.xcopyTpl f) := every _
theorem tfill (f : AF) : Statement (.tfill f) := every _
theorem tdrain (f : AF) : Statement (.tdrain f) := every _
theorem gathert (f : AF) : Statement (.gathert f) := every _
theorem nmred (f : AF) : Statement (.nmred f) := every _
theorem nmcas (f : AF) : Statement (.nmcas f) := every _
theorem nmsax (f : AF) : Statement (.nmsax f) := every _
theorem bwset (f : AF) : Statement (.bwset f) := every _
theorem bwarrive (f : AF) : Statement (.bwarrive f) := every _
theorem waitgen (f : AF) : Statement (.waitgen f) := every _
theorem semv (f : AF) : Statement (.semv f) := every _
theorem semp (f : AF) : Statement (.semp f) := every _
theorem semtry (f : AF) : Statement (.semtry f) := every _
theorem bgive (f : AF) : Statement (.bgive f) := every _
theorem bgiveNone (f : AF) : Statement (.bgiveNone f) := every _
theorem btake (f : AF) : Statement (.btake f) := every _
theorem bquery (f : AF) : Statement (.bquery f) := every _
theorem msend (f : AF) : Statement (.msend f) := every _
theorem snap (f : AF) : Statement (.snap f) := every _
theorem snapq (f : AF) : Statement (.snapq f) := every _
theorem snapqT (f : AF) : Statement (.snapqT f) := every _
theorem txbegin (f : AF) : Statement (.txbegin f) := every _
theorem txcommit (f : AF) : Statement (.txcommit f) := every _
theorem txabort (f : AF) : Statement (.txabort f) := every _
theorem txstate (f : AF) : Statement (.txstate f) := every _
theorem texit (f : AF) : Statement (.texit f) := every _
theorem grow (f : AF) : Statement (.grow f) := every _
theorem tidx (f : AF) : Statement (.tidx f) := every _
theorem rdgtc (f : AF) : Statement (.rdgtc f) := every _
theorem refdefer (f : AF) : Statement (.refdefer f) := every _
theorem csrrd (f : AF) : Statement (.csrrd f) := every _
theorem csrwr (f : AF) : Statement (.csrwr f) := every _
theorem trap (f : AF) : Statement (.trap f) := every _
theorem eret (f : AF) : Statement (.eret f) := every _
theorem tlbinv (f : AF) : Statement (.tlbinv f) := every _
theorem shoot (f : AF) : Statement (.shoot f) := every _
theorem remapTowerBank (f : AF) : Statement (.remapTowerBank f) := every _
theorem remapClusterTable (f : AF) : Statement (.remapClusterTable f) := every _
theorem halt (f : AF) : Statement (.halt f) := every _
theorem pause (f : AF) : Statement (.pause f) := every _
theorem errpop (f : AF) : Statement (.errpop f) := every _
theorem nop (f : XF) : Statement (.nop f) := every _
theorem xadd (f : XF) : Statement (.xadd f) := every _
theorem xsub (f : XF) : Statement (.xsub f) := every _
theorem xmul (f : XF) : Statement (.xmul f) := every _
theorem xand (f : XF) : Statement (.xand f) := every _
theorem xorx (f : XF) : Statement (.xorx f) := every _
theorem xxor (f : XF) : Statement (.xxor f) := every _
theorem xshl (f : XF) : Statement (.xshl f) := every _
theorem xshr (f : XF) : Statement (.xshr f) := every _
theorem xmin (f : XF) : Statement (.xmin f) := every _
theorem xmax (f : XF) : Statement (.xmax f) := every _
theorem xli (f : XF) : Statement (.xli f) := every _
theorem xcmp (f : XF) : Statement (.xcmp f) := every _
theorem brx (f : XF) : Statement (.brx f) := every _
theorem bcxNz (f : XF) : Statement (.bcxNz f) := every _
theorem bcxZ (f : XF) : Statement (.bcxZ f) := every _
theorem bcxK (f : XF) : Statement (.bcxK f) := every _
theorem bcxNk (f : XF) : Statement (.bcxNk f) := every _
theorem bcxAny (f : XF) : Statement (.bcxAny f) := every _
theorem bcxNone (f : XF) : Statement (.bcxNone f) := every _
theorem bcxLoop (f : XF) : Statement (.bcxLoop f) := every _
theorem lsetup (f : XF) : Statement (.lsetup f) := every _
theorem lsetupReg (f : XF) : Statement (.lsetupReg f) := every _
theorem chkpt (f : XF) : Statement (.chkpt f) := every _
theorem xsemv (f : XF) : Statement (.xsemv f) := every _
theorem xsemp (f : XF) : Statement (.xsemp f) := every _
theorem lsupd (f : XF) : Statement (.lsupd f) := every _
theorem lsupdGet (f : XF) : Statement (.lsupdGet f) := every _
theorem lsupdSet (f : XF) : Statement (.lsupdSet f) := every _
theorem lsupdFlg (f : XF) : Statement (.lsupdFlg f) := every _
theorem xtrap (f : XF) : Statement (.xtrap f) := every _
theorem xend (f : XF) : Statement (.xend f) := every _
theorem syncjFork (f : XF) : Statement (.syncjFork f) := every _
theorem syncjJoin (f : XF) : Statement (.syncjJoin f) := every _
theorem vadd (f : XF) : Statement (.vadd f) := every _
theorem vsub (f : XF) : Statement (.vsub f) := every _
theorem vmul (f : XF) : Statement (.vmul f) := every _
theorem vmulh (f : XF) : Statement (.vmulh f) := every _
theorem vmadd (f : XF) : Statement (.vmadd f) := every _
theorem vmin (f : XF) : Statement (.vmin f) := every _
theorem vmax (f : XF) : Statement (.vmax f) := every _
theorem vand (f : XF) : Statement (.vand f) := every _
theorem vor (f : XF) : Statement (.vor f) := every _
theorem vxor (f : XF) : Statement (.vxor f) := every _
theorem vshl (f : XF) : Statement (.vshl f) := every _
theorem vshr (f : XF) : Statement (.vshr f) := every _
theorem vsar (f : XF) : Statement (.vsar f) := every _
theorem vabs (f : XF) : Statement (.vabs f) := every _
theorem vsadd (f : XF) : Statement (.vsadd f) := every _
theorem vssub (f : XF) : Statement (.vssub f) := every _
theorem vcmp (f : XF) : Statement (.vcmp f) := every _
theorem vsel (f : XF) : Statement (.vsel f) := every _
theorem vpopc (f : XF) : Statement (.vpopc f) := every _
theorem vclz (f : XF) : Statement (.vclz f) := every _
theorem vmix (f : XF) : Statement (.vmix f) := every _
theorem fadd (f : XF) : Statement (.fadd f) := every _
theorem fsub (f : XF) : Statement (.fsub f) := every _
theorem fmul (f : XF) : Statement (.fmul f) := every _
theorem ffma (f : XF) : Statement (.ffma f) := every _
theorem fmin (f : XF) : Statement (.fmin f) := every _
theorem fmax (f : XF) : Statement (.fmax f) := every _
theorem fminn (f : XF) : Statement (.fminn f) := every _
theorem fmaxn (f : XF) : Statement (.fmaxn f) := every _
theorem fabs (f : XF) : Statement (.fabs f) := every _
theorem fneg (f : XF) : Statement (.fneg f) := every _
theorem fcmp (f : XF) : Statement (.fcmp f) := every _
theorem frcp (f : XF) : Statement (.frcp f) := every _
theorem frsq (f : XF) : Statement (.frsq f) := every _
theorem fexp2 (f : XF) : Statement (.fexp2 f) := every _
theorem flog2 (f : XF) : Statement (.flog2 f) := every _
theorem ftanh (f : XF) : Statement (.ftanh f) := every _
theorem cvt (f : XF) : Statement (.cvt f) := every _
theorem cvtsr (f : XF) : Statement (.cvtsr f) := every _
theorem planes (f : XF) : Statement (.planes f) := every _
theorem unplane (f : XF) : Statement (.unplane f) := every _
theorem rotrow (f : XF) : Statement (.rotrow f) := every _
theorem rotcol (f : XF) : Statement (.rotcol f) := every _
theorem bcrow (f : XF) : Statement (.bcrow f) := every _
theorem bccol (f : XF) : Statement (.bccol f) := every _
theorem redrow (f : XF) : Statement (.redrow f) := every _
theorem redcol (f : XF) : Statement (.redcol f) := every _
theorem scanrow (f : XF) : Statement (.scanrow f) := every _
theorem cshift (f : XF) : Statement (.cshift f) := every _
theorem cshiftXc (f : XF) : Statement (.cshiftXc f) := every _
theorem trans16 (f : XF) : Statement (.trans16 f) := every _
theorem kand (f : XF) : Statement (.kand f) := every _
theorem kor (f : XF) : Statement (.kor f) := every _
theorem kxor (f : XF) : Statement (.kxor f) := every _
theorem knot (f : XF) : Statement (.knot f) := every _
theorem kmov (f : XF) : Statement (.kmov f) := every _
theorem kpopc (f : XF) : Statement (.kpopc f) := every _
theorem twld (f : XF) : Statement (.twld f) := every _
theorem twst (f : XF) : Statement (.twst f) := every _
theorem twldx (f : XF) : Statement (.twldx f) := every _
theorem qpop (f : XF) : Statement (.qpop f) := every _
theorem qpeek (f : XF) : Statement (.qpeek f) := every _
theorem qpush (f : XF) : Statement (.qpush f) := every _
theorem kstq (f : XF) : Statement (.kstq f) := every _
theorem kstqPush (f : XF) : Statement (.kstqPush f) := every _
theorem mma (f : XF) : Statement (.mma f) := every _
theorem wload (f : XF) : Statement (.wload f) := every _
theorem wswap (f : XF) : Statement (.wswap f) := every _
theorem accz (f : XF) : Statement (.accz f) := every _
theorem drain (f : XF) : Statement (.drain f) := every _
theorem rowstat (f : XF) : Statement (.rowstat f) := every _
theorem vnest (f : XF) : Statement (.vnest f) := every _
theorem scqpush (f : XF) : Statement (.scqpush f) := every _
theorem mwait (f : XF) : Statement (.mwait f) := every _
theorem mwaitAll (f : XF) : Statement (.mwaitAll f) := every _
theorem xFreezeEnd (cl : Nat) : Statement (.xFreezeEnd cl) := every _
theorem recordDispatch (cl : Nat) : Statement (.recordDispatch cl) := every _
theorem mmaSingleIssue (cl : Nat) (work : MmaWork) : Statement (.mmaSingleIssue cl work) := every _
theorem wloadSingleIssue (cl : Nat) (cmp : Cmp) : Statement (.wloadSingleIssue cl cmp) := every _
theorem wswapTakesEffect (cl : Nat) : Statement (.wswapTakesEffect cl) := every _
theorem acczSingleIssue (cl : Nat) : Statement (.acczSingleIssue cl) := every _
theorem drainSingleIssue (cl : Nat) (work : GranuleCmp) : Statement (.drainSingleIssue cl work) := every _
theorem rowstatSingleIssue (cl : Nat) (cmp : Cmp) : Statement (.rowstatSingleIssue cl cmp) := every _
theorem vnestSingleIssue (cl : Nat) (cmp : Cmp) : Statement (.vnestSingleIssue cl cmp) := every _
theorem scqpushSingleIssue (cl : Nat) (cmp : Cmp) : Statement (.scqpushSingleIssue cl cmp) := every _
theorem engineCommandStart (cl id : Nat) (vigil : Bool) (cmps : List Cmp) : Statement (.engineCommandStart cl id vigil cmps) := every _
theorem tileTransferLock (cl id : Nat) : Statement (.tileTransferLock cl id) := every _
theorem tileTransferDone (cl id : Nat) (g : GranuleCmp) : Statement (.tileTransferDone cl id g) := every _
theorem loadQueueSlotReady (cl q : Nat) : Statement (.loadQueueSlotReady cl q) := every _
theorem scalarStorePerform (cl seq : Nat) (vigil : Bool) (cmp : Cmp) : Statement (.scalarStorePerform cl seq vigil cmp) := every _
theorem loadValueReturn (cl seq : Nat) (evict : Bool) : Statement (.loadValueReturn cl seq evict) := every _
theorem completionArrival (cl id n : Nat) : Statement (.completionArrival cl id n) := every _
theorem waiterSatisfied (cl : Nat) : Statement (.waiterSatisfied cl) := every _
theorem bgiveReleaseDone (cl : Nat) : Statement (.bgiveReleaseDone cl) := every _
theorem hbmUnitAccess (cl id k : Nat) (cmps : List Cmp) : Statement (.hbmUnitAccess cl id k cmps) := every _
theorem bankSideRequest (cl id k : Nat) (cmp : Cmp) : Statement (.bankSideRequest cl id k cmp) := every _
theorem gatherColumn (cl id j : Nat) : Statement (.gatherColumn cl id j) := every _
theorem walkRestart (cl id : Nat) : Statement (.walkRestart cl id) := every _
theorem faultBatchTimerExpiry (cid : Nat) : Statement (.faultBatchTimerExpiry cid) := every _
theorem faultRingWrite (cid : Nat) : Statement (.faultRingWrite cid) := every _
theorem shootDownMsg (src id : Nat) (scope : ShootScope) : Statement (.shootDownMsg src id scope) := every _
theorem shootDownAckMsg (id count : Nat) (mask : BitVec 64) : Statement (.shootDownAckMsg id count mask) := every _
theorem shootDownTimeout (id : Nat) : Statement (.shootDownTimeout id) := every _
theorem chipFence (id : Nat) : Statement (.chipFence id) := every _
theorem fenceNoticeMsg (chip : Nat) : Statement (.fenceNoticeMsg chip) := every _
theorem migrationCopyRound (page : Nat) : Statement (.migrationCopyRound page) := every _
theorem migrationFlipEnd (page : Nat) : Statement (.migrationFlipEnd page) := every _
theorem accessRefusal (cl id : Nat) (offline : Bool) : Statement (.accessRefusal cl id offline) := every _
theorem mailboxEntryMsg (m : MailMsg) : Statement (.mailboxEntryMsg m) := every _
theorem mailboxAckMsg (cl id free : Nat) (status : MailStatus) : Statement (.mailboxAckMsg cl id free status) := every _
theorem mailboxRetry (cl id : Nat) : Statement (.mailboxRetry cl id) := every _
theorem retentionSleepEntry (cl cell bank : Nat) : Statement (.retentionSleepEntry cl cell bank) := every _
theorem almanacRefreshDue (cl bank : Nat) : Statement (.almanacRefreshDue cl bank) := every _
theorem almanacRefreshEnd (cl bank : Nat) : Statement (.almanacRefreshEnd cl bank) := every _
theorem towerRemap (cl cell bank sel : Nat) (bad : List Nat) : Statement (.towerRemap cl cell bank sel bad) := every _
theorem frameWaitEnd (cl id : Nat) : Statement (.frameWaitEnd cl id) := every _
theorem snapshotInstant (cid slot : Nat) : Statement (.snapshotInstant cid slot) := every _
theorem armMsg (src cid slot t : Nat) : Statement (.armMsg src cid slot t) := every _
theorem armAnswerMsg (chip cid slot : Nat) (ok : Bool) : Statement (.armAnswerMsg chip cid slot ok) := every _
theorem armDeadline (cid slot : Nat) : Statement (.armDeadline cid slot) := every _
theorem confirmMsg (cid : Nat) (slot : GroupSlot) : Statement (.confirmMsg cid slot) := every _
theorem cancelMsg (cid : Nat) (slot : GroupSlot) : Statement (.cancelMsg cid slot) := every _
theorem snapshotQueryTimer (cid slot : Nat) : Statement (.snapshotQueryTimer cid slot) := every _
theorem snapshotQueryMsg (src cid : Nat) (w : SlotAsk) : Statement (.snapshotQueryMsg src cid w) := every _
theorem decantPage (cid slot : Nat) (accepted : Bool) : Statement (.decantPage cid slot accepted) := every _
theorem decantDone (cid slot : Nat) (accepted : Bool) : Statement (.decantDone cid slot accepted) := every _
theorem decantTimeout (cid slot : Nat) : Statement (.decantTimeout cid slot) := every _
theorem txbeginOpen (cid slot : Nat) : Statement (.txbeginOpen cid slot) := every _
theorem voteMsg (chip cid : Nat) (slot : TxTag) (txid : Nat) (mask : BitVec 64) (yes : Bool) : Statement (.voteMsg chip cid slot txid mask yes) := every _
theorem voteTimeout (cid : Nat) (slot : VoteWait) : Statement (.voteTimeout cid slot) := every _
theorem decideMsg (cid : Nat) (slot : TxFrom) (tc : Nat) : Statement (.decideMsg cid slot tc) := every _
theorem txAckMsg (chip cid : Nat) (slot : TxTag) : Statement (.txAckMsg chip cid slot) := every _
theorem txDecision (cid slot : Nat) : Statement (.txDecision cid slot) := every _
theorem outcomeMsg (cid : Nat) (slot : TxFrom) (tc code : Nat) : Statement (.outcomeMsg cid slot tc code) := every _
theorem outcomeQueryTimer (cid slot : Nat) : Statement (.outcomeQueryTimer cid slot) := every _
theorem outcomeQueryMsg (src cid slot : Nat) : Statement (.outcomeQueryMsg src cid slot) := every _
theorem txFold (page : Nat) : Statement (.txFold page) := every _
theorem taskPlacement : Statement .taskPlacement := every _
theorem taskStart (cl : Nat) : Statement (.taskStart cl) := every _
theorem taskResume (cl : Nat) : Statement (.taskResume cl) := every _
theorem taskRetire (cl : Nat) (vigil : Bool) : Statement (.taskRetire cl vigil) := every _
theorem completionRecordWrite (node : Nat) : Statement (.completionRecordWrite node) := every _
theorem growAnswer (cl : Nat) : Statement (.growAnswer cl) := every _
theorem readyMsg (node chip : Nat) : Statement (.readyMsg node chip) := every _
theorem startMsg (node g ts : Nat) : Statement (.startMsg node g ts) := every _
theorem startInstant (node : Nat) : Statement (.startInstant node) := every _
theorem nodeForwardMsg (src nodeid q : Nat) (desc : List Nat) : Statement (.nodeForwardMsg src nodeid q desc) := every _
theorem replicaReportMsg (node chip tasks : Nat) (what : ReplicaEnd) : Statement (.replicaReportMsg node chip tasks what) := every _
theorem replacementInstantMsg (node : NodeRef) (tr aentry xentry : Nat) : Statement (.replacementInstantMsg node tr aentry xentry) := every _
theorem replacementInstant (node : Nat) : Statement (.replacementInstant node) := every _
theorem preemptRequest (cl : Nat) : Statement (.preemptRequest cl) := every _
theorem xHalt (cl : Nat) : Statement (.xHalt cl) := every _
theorem suspensionSave (cl : Nat) (room : Bool) : Statement (.suspensionSave cl room) := every _
theorem xTrapTaken (cl : Nat) : Statement (.xTrapTaken cl) := every _
theorem scrubRead (unit : MemUnit) (found : Scrubbed) : Statement (.scrubRead unit found) := every _
theorem scrubWriteback (unit : MemUnit) : Statement (.scrubWriteback unit) := every _
theorem errorRecordDelivery (r : ErrRec) : Statement (.errorRecordDelivery r) := every _
theorem errorRingWrite : Statement .errorRingWrite := every _
theorem eventRingWrite : Statement .eventRingWrite := every _
theorem clusterRetirement (cl : Nat) : Statement (.clusterRetirement cl) := every _
theorem clusterMove (cl : Nat) (bad : List MemUnit) : Statement (.clusterMove cl bad) := every _
theorem channelFail (ch : Nat) : Statement (.channelFail ch) := every _
theorem haltWake (cl : Nat) : Statement (.haltWake cl) := every _
theorem pauseExpiry (cl : Nat) : Statement (.pauseExpiry cl) := every _
theorem samovarServiceRequest (cl : Nat) : Statement (.samovarServiceRequest cl) := every _
theorem crPendWrite (cl : Nat) (v : BitVec 64) : Statement (.crPendWrite cl v) := every _
theorem crErbaseWrite (v : BitVec 64) : Statement (.crErbaseWrite v) := every _
theorem crErheadWrite (v : BitVec 64) : Statement (.crErheadWrite v) := every _
theorem crErtailWrite (v : BitVec 64) : Statement (.crErtailWrite v) := every _
theorem crXfpLsWrite (cl num : Nat) (v : BitVec 64) : Statement (.crXfpLsWrite cl num v) := every _
theorem crMboxWrite (cl : Nat) (v : BitVec 64) : Statement (.crMboxWrite cl v) := every _
theorem crDeviceWrite (num : Nat) (v : BitVec 64) : Statement (.crDeviceWrite num v) := every _
theorem crWrite (cl num : Nat) (v : BitVec 64) : Statement (.crWrite cl num v) := every _
theorem powerInterval (grants : List Nat) : Statement (.powerInterval grants) := every _
theorem retrainingDue (cl : Nat) : Statement (.retrainingDue cl) := every _
theorem retrainingForced (cl : Nat) : Statement (.retrainingForced cl) := every _
theorem retrainingEnd (cl : Nat) : Statement (.retrainingEnd cl) := every _
theorem createContext (q : Nat) : Statement (.createContext q) := every _
theorem destroyContext (q : Nat) : Statement (.destroyContext q) := every _
theorem bind (q : Nat) : Statement (.bind q) := every _
theorem unbind (q : Nat) : Statement (.unbind q) := every _
theorem writeRecord (q : Nat) : Statement (.writeRecord q) := every _
theorem writeTemplate (q : Nat) : Statement (.writeTemplate q) := every _
theorem writeGatherPattern (q : Nat) : Statement (.writeGatherPattern q) := every _
theorem mailboxSettings (q : Nat) : Statement (.mailboxSettings q) := every _
theorem snapshotConfigure (q : Nat) : Statement (.snapshotConfigure q) := every _
theorem pageOwner (q : Nat) : Statement (.pageOwner q) := every _
theorem snapshot (q : Nat) : Statement (.snapshot q) := every _
theorem decantBuffer (q : Nat) : Statement (.decantBuffer q) := every _
theorem transactionResolve (q : Nat) : Statement (.transactionResolve q) := every _
theorem submit (q : Nat) : Statement (.submit q) := every _
theorem replaceCode (q : Nat) : Statement (.replaceCode q) := every _
theorem dispatcherConfigure (q : Nat) : Statement (.dispatcherConfigure q) := every _
theorem resolve (q : Nat) : Statement (.resolve q) := every _
theorem migrate (q : Nat) : Statement (.migrate q) := every _
theorem shootDown (q : Nat) : Statement (.shootDown q) := every _
theorem queryTowerRemap (q : Nat) : Statement (.queryTowerRemap q) := every _
theorem queryClusterTable (q : Nat) : Statement (.queryClusterTable q) := every _
theorem queryHbmDegraded (q : Nat) : Statement (.queryHbmDegraded q) := every _
theorem queryPageTag (q : Nat) : Statement (.queryPageTag q) := every _
theorem queryGatherPattern (q : Nat) : Statement (.queryGatherPattern q) := every _
theorem queryDispatcherParameters (q : Nat) : Statement (.queryDispatcherParameters q) := every _
theorem querySamovarLog (q : Nat) : Statement (.querySamovarLog q) := every _
theorem querySlotStatus (q : Nat) : Statement (.querySlotStatus q) := every _
theorem queryDeviceStatus (q : Nat) : Statement (.queryDeviceStatus q) := every _
theorem retireCluster (q : Nat) : Statement (.retireCluster q) := every _
theorem fabricJoin (q : Nat) : Statement (.fabricJoin q) := every _
theorem doorbell (q : Nat) (v : BitVec 64) : Statement (.doorbell q v) := every _
theorem qcfgWrite (q : Nat) (v : BitVec 64) : Statement (.qcfgWrite q v) := every _
theorem cheadWrite (q : Nat) (v : BitVec 64) : Statement (.cheadWrite q v) := every _
theorem fcfgWrite (v : BitVec 64) : Statement (.fcfgWrite v) := every _
theorem fheadWrite (v : BitVec 64) : Statement (.fheadWrite v) := every _
theorem ecfgWrite (v : BitVec 64) : Statement (.ecfgWrite v) := every _
theorem eheadWrite (v : BitVec 64) : Statement (.eheadWrite v) := every _
theorem hostRegisterWrite (off : Nat) (v : BitVec 64) : Statement (.hostRegisterWrite off v) := every _
theorem bar2Write (addr : Nat) (data : List (BitVec 8)) : Statement (.bar2Write addr data) := every _
theorem bar2Read (addr len : Nat) : Statement (.bar2Read addr len) := every _
theorem hostCompletion (id : Nat) (ok : Bool) (data : List (BitVec 8)) : Statement (.hostCompletion id ok data) := every _
theorem hostCompletionTimeout (id : Nat) : Statement (.hostCompletionTimeout id) := every _
theorem remoteRead (src : TagSource) (tag addr len : Nat) : Statement (.remoteRead src tag addr len) := every _
theorem remoteWrite (src : TagSource) (tag addr : Nat) (mask : BitVec 32) (data : List (BitVec 8)) : Statement (.remoteWrite src tag addr mask data) := every _
theorem remoteAtomic (src : TagSource) (tag addr size : Nat) (op : AmoOp) (x exp : BitVec 64) : Statement (.remoteAtomic src tag addr size op x exp) := every _
theorem remoteBankSide (src : TagSource) (tag : Nat) (r : BankReq) : Statement (.remoteBankSide src tag r) := every _
theorem decantWriteMsg (src : TagSource) (tag addr : Nat) (data : List (BitVec 8)) : Statement (.decantWriteMsg src tag addr data) := every _
theorem remoteResponse (tag : ReqId) (st : RespStatus) (v : List (BitVec 8)) : Statement (.remoteResponse tag st v) := every _
theorem requestReissue (tag : ReqId) : Statement (.requestReissue tag) := every _
theorem peerUnresponsive (tag : ReqId) : Statement (.peerUnresponsive tag) := every _
theorem nak (port seq : Nat) : Statement (.nak port seq) := every _
theorem portDown (port : Nat) : Statement (.portDown port) := every _
theorem portRetrain (port : Nat) (ok : Bool) : Statement (.portRetrain port ok) := every _
theorem icinvMsg (src id cid va len : Nat) : Statement (.icinvMsg src id cid va len) := every _
theorem icinvAckMsg (id chip : Nat) : Statement (.icinvAckMsg id chip) := every _
theorem gtcAlignTimer (port : Nat) : Statement (.gtcAlignTimer port) := every _
theorem gtcAlignMsg (src stamp : Nat) : Statement (.gtcAlignMsg src stamp) := every _
theorem gtcBoundLost (chip : Nat) : Statement (.gtcBoundLost chip) := every _
theorem joinMsg (chip : JoinNote) : Statement (.joinMsg chip) := every _
theorem latchRowsArrive (cl : Nat) (north : Bool) : Statement (.latchRowsArrive cl north) := every _
theorem powerOn (checks : BootChecks) : Statement (.powerOn checks) := every _
theorem functionLevelReset (checks : BootChecks) : Statement (.functionLevelReset checks) := every _
theorem rejoinReset (image : Image) (checks : BootChecks) : Statement (.rejoinReset image checks) := every _
theorem attestationRequest (nonce : BitVec 256) : Statement (.attestationRequest nonce) := every _
theorem vcyc (cl : Nat) (cmps : List Cmp) : Statement (.vcyc cl cmps) := every _
theorem refillDrainTowerAccess (cl id k : Nat) (cmps : List Cmp) : Statement (.refillDrainTowerAccess cl id k cmps) := every _
theorem junctionTemperatureChange (hot : Bool) : Statement (.junctionTemperatureChange hot) := every _
theorem badCrcFlit (port : Nat) (flit : List (BitVec 8)) : Statement (.badCrcFlit port flit) := every _
theorem idleAckFlit (port ack : Nat) : Statement (.idleAckFlit port ack) := every _
theorem startRefusalMsg (node chip : Nat) : Statement (.startRefusalMsg node chip) := every _
theorem tagMemoryExpiry (src : TagSource) (tag : Nat) : Statement (.tagMemoryExpiry src tag) := every _
theorem tagReuseExpiry (tag : ReqId) : Statement (.tagReuseExpiry tag) := every _
theorem networkFlitCrcFailure (cl : Nat) (what : NetUnit) (k resends : Nat) : Statement (.networkFlitCrcFailure cl what k resends) := every _
theorem configurationRequest : Statement .configurationRequest := every _
theorem hostAtomicopToBar : Statement .hostAtomicopToBar := every _

end Sys2Proof.Laws.Encodes
end

