-- ==== Sys2Proof/Tests/Slice0.lean ====
section
/-! SUPPORT. Tests: words of the spec decode to their instructions, ill-formed instructions are refused, single steps give the results of the
spec's examples, and for every statement with hypotheses a state and operands that meet them. -/

namespace Sys2Proof.Tests
open Sys2Proof Sys2Proof.Machine

section
set_option Elab.async false

/-- The machine after reset, its cluster 0 changed. -/
def mach (f : Cluster → Cluster) : State := State.reset.onCl 0 f
/-- An A-core word's fields. -/
def af (ocl : BitVec 4) (d sa sb : BitVec 6) (imm : BitVec 32) : AF := { pcl := 0, ocl := ocl, d := d, sa := sa, sb := sb, imm := imm }
/-- The machine with two registers set. -/
def two (ra : BitVec 6) (a : W64) (rb : BitVec 6) (b : W64) : State := (State.reset.setG ra a).setG rb b
/-- What a step leaves. -/
def after (o : Out) : State :=
  match o with
  | .next s => s
  | _ => State.reset
/-- A scalar access with the fields a witness needs. -/
def acc (seq dst size : Nat) (place : Place) (pa : Nat) : Acc :=
  { seq := seq, xl := 0, cid := 0, dst := dst, op := none, store := false, place := place, va := pa, pa := pa, size := size, sx := false,
    data := 0, exp := 0, cls := 0, scope := .cl, aq := false, rl := false, pcl := 0, wins := 0, tag := none, word := none, val := none,
    late := none, redo := false, orphan := false, left := false, seen := false, vig := true, pc := 0 }
/-- A copy of 64 bytes from virtual address 0 to the scratchpad, accepted and not started. -/
def copy0 : Cmd :=
  { id := 0, cid := 0, mode := .s, node := 0, task := 0, seq := 0, kind := .xcopy, cls := 0, pcl := 0, scope := .cl, word := some (0, 4096),
    src := .va 0, dst := .sp 0 0, count := 64, aux := 0, bcast := false, layout := 0, tpl := none, pat := 0, stamp := none, started := false,
    lock := 0, ask := 0, piece := 0, got := [], done := [], buf := [], performed := 0, counted := 0, wins := 0, gran := [], vig := true, pc := 0 }
/-- The machine with the given commands on cluster 0, and virtual page 0 mapped for its engines. -/
def cmds (ks : List Cmd) : State :=
  { (mach fun c => { c with a := { c.a with cmds := ks, seq := 9 } }) with llt := [{ cid := 0, vpn := 0, big := false, leaf := 0x12340002DD }] }

/-! ### Hypotheses of the statements are met -/

theorem witness_registers_ready : State.reset.ready [3, 4, 5] = true ∧ State.reset.ready [(5 : BitVec 32).setWidth 6] = true := by decide

theorem witness_branches : (State.reset.g 4 + (8 : BitVec 32).signExtend 64).toNat % 8 = 0
    ∧ (State.reset.g 4 + (4 : BitVec 32).signExtend 64).toNat % 8 ≠ 0 ∧ State.reset.g 3 = 0 ∧ (State.reset.setG 3 1).g 3 = 1
    ∧ 1 < ((State.reset.setG 3 2).g 3).toNat := by decide

theorem witness_trap_entries : ((mach fun c => { c with a := { c.a with sstat := 3 } }).cl 0).a.sstat.getLsbD 1 = true
    ∧ (State.reset.cl 0).a.mode = .s ∧ (State.reset.cl 0).a.sstat.getLsbD 1 = false ∧ (State.reset.cl 0).ctl.occ = .free := by decide

theorem witness_trap_entries_wait :
    let s := mach fun c => { c with a := { c.a with loads := [acc 0 3 8 .sp 0] } }
    s.a.resultsDone = false ∧ State.reset.a.resultsDone = true ∧ State.reset.a.mode = .s ∧ State.reset.a.sstat.getLsbD 1 = false
      ∧ ((mach fun c => { c with a := { c.a with sstat := 3 } }).a.sstat.getLsbD 1 = true) := by decide

theorem witness_double_fault_of_a_task :
    let s := mach fun c => { c with ctl := { c.ctl with occ := .running } }
    (s.cl 0).a.mode = .s ∧ (s.cl 0).a.sstat.getLsbD 1 = false ∧ (s.cl 0).ctl.occ ≠ .free := by decide

theorem witness_trap_return : State.reset.a.resultsDone = true ∧ State.reset.a.doomed = none := by decide

theorem witness_holds :
    let s := mach fun c => { c with a := { c.a with run := .halted (some 0), pend := 1 } }
    State.reset.pendOf 0 = 0 ∧ s.pendOf 0 ≠ 0 ∧ (s.cl 0).a.run = .halted (some 0) ∧ 0 ≤ s.clk := by decide

theorem witness_control_registers : State.reset.dev.erHead = State.reset.dev.erTail ∧ State.reset.dev.erTail < State.reset.dev.erSize
    ∧ (0 : BitVec 64).toNat % 2 ^ 32 ≤ State.reset.dev.erHead ∧ (BitVec.ofNat 64 (2 ^ 63)).getLsbD 63 = true
    ∧ (State.reset.cl 0).x.run = .idle ∧ ((mach fun c => { c with x := { c.x with run := .run } }).cl 0).x.run ≠ .idle := by decide

theorem witness_invalidation :
    let e := two 4 0x1000 5 0
    let s := two 4 0x1000 5 0x1000
    let x : Shoot := { id := 64, num := 0, scope := s.invScope (af 0 0 4 5 0x1000), owner := .core 0, mask := 0, expect := 0, sentAt := 0,
                       resent := false, fencedMask := 0 }
    let w : State := { (s.onA 0 fun a => { a with wait := some { kind := .shoot, f := af 0 3 4 5 0x1000, dst := 0, since := 0, id := 0, ahead := none } }) with shoots := [x] }
    e.ready [3, 4, 5] = true ∧ e.devDrained = true ∧ rangeBad (e.invScope (af 0 0 4 5 0)) = none ∧ rangeEmpty (e.invScope (af 0 0 4 5 0)) = true
      ∧ rangeBad (s.invScope (af 0 0 4 5 0)) = none ∧ rangeEmpty (s.invScope (af 0 0 4 5 0)) = false ∧ s.a.wait = none
      ∧ (s.dropTranslations (s.invScope (af 0 0 4 5 0))).quiet (s.invScope (af 0 0 4 5 0)) s.nextMsg = true
      ∧ (s.dropTranslations (s.invScope (af 0 0 4 5 0))).quiet (s.invScope (af 0 0 4 5 0)) 0 = true ∧ w.a.wait.isSome = true ∧ (s.onA 0 fun a => { a with stores := [{ acc 0 0 8 .hbm 0 with store := true }], seq := 1 }).devDrained = false ∧ w.shoots.find? (fun y => y.owner == .core w.focus) = some x ∧ w.shootDone x = true := by decide

/-- A state that came from bring-up on the default image, with cluster 3 free of work. -/
def up : State := State.reset.bringUp Image.default { fwOk := true, imgOk := true, trainFail := [], ports := [], times := [] }

theorem witness_remap :
    let out := (State.reset.setG 4 192).g 4
    let row := (State.reset.setG 4 0xD0).g 4
    191 < out.toNat % 256 ∧ 12 < row.toNat / 16 % 16 ∧ State.reset.remapTowerStatus (3 + 2 ^ 18) = 0
      ∧ NMap.get false (State.reset.cl 3).ctl.refreshing 0 = false := by decide

theorem witness_remap_table :
    let s : State := { State.reset with dev := { State.reset.dev with clmap := 0xCCCCCCCCCCCCCCCC } }
    s.remapTableStatus (1 + 12 * 16 + 0xFFF * 2 ^ 8) = 0 := by decide

theorem witness_error_claim :
    let s : State := { State.reset with dev := { State.reset.dev with erbase := BitVec.ofNat 64 (2 ^ 63 + 0x5F00000000), erHead := 1 } }
    s.ready [11, 10] = true ∧ s.errpopErr (s.g 10).toNat ≠ none ∧ (s.setG 10 (BitVec.ofNat 64 (2 ^ 62))).errpopErr (2 ^ 62) = none
      ∧ s.dev.erHead ≠ s.dev.erTail ∧ State.reset.dev.erHead = State.reset.dev.erTail
      ∧ (let t := s.setG 10 (BitVec.ofNat 64 (2 ^ 62))
        t.spBlocked t.focus (some t.a.seq) true (t.wordAt (2 ^ 62)).1 (t.wordAt (2 ^ 62)).2 64) = false
      ∧ poisoned 64 s.hbmPoison (s.dev.erAddr + 64 * s.dev.erTail) 64 = false ∧ s.channelFailed (s.dev.erAddr + 64 * s.dev.erTail) = false := by
  decide

/-- A machine whose A-core of cluster 0 finds virtual page 0 in its TLB, mapped to the page of the spec's walk example (R44). -/
def mapped : State := mach fun c => { c with a := { c.a with tlb := [{ cid := 0, vpn := 0, big := false, leaf := 0x12340002DD }] } }

theorem witness_scalar_accepted :
    let sp := af 0 3 4 5 0x16000000
    let va := af 0 3 4 5 0x06000000
    let k : ScalarKind := {}
    (Instr.ld sp, k) ∈ scalarRows sp ∧ State.reset.ready [4, 5, 3] = true ∧ State.reset.scalarErr sp = none
      ∧ State.reset.scalarFull k = false ∧ mapped.firmReady = true ∧ sp.imm.getLsbD 28 = true ∧ va.imm.getLsbD 28 = false ∧ mapped.scalarErr va = none
      ∧ (mapped.resolve mapped.focus (mapped.runCid mapped.focus) 0 .acore k.perms).1 = .at_ .hbm 0x1234000000 := by
  refine ⟨List.mem_cons_self, ?_⟩
  decide

theorem witness_scalar_faults :
    let s : State := State.reset.setG 4 0x2FFFFC
    let b : State := { State.reset with bufs := [(bufKey 0 0, { st := 1, base := 0, len := 64, home := 0, who := 1 })] }
    0x300000 < (s.g 4).toNat + 8 ∧ (s.g 4).toNat + 4 ≤ 0x300000 ∧ ((State.reset.setG 4 2).g 4).toNat % 4 ≠ 0
      ∧ (State.reset.g 4).toNat % 8 = 0 ∧ b.owns b.focus b.focus 0 8 = false
      ∧ 2 ^ 52 < ((State.reset.setG 4 (BitVec.ofNat 64 (2 ^ 52 - 4))).g 4).toNat + 8 := by decide

theorem witness_load_returns :
    let l := acc 0 3 8 .sp 0
    let s := mach fun c => { c with a := { c.a with loads := [l] } }
    let v := mach fun c => { c with a := { c.a with loads := [{ l with val := some 5 }] } }
    ((s.cl 0).a.accs.find? fun l => l.seq == 0 && (!l.store || l.op.isSome)) = some l ∧ l.dst < 64 ∧ l.val = none ∧ l.op = none ∧ l.place = .sp
      ∧ l.redo = false
      ∧ (s.runA 0).heldBack (s.openCmds 0 l.scope (s.runCmds 0)) 0 l (!l.aq) = false ∧ s.spBlocked 0 (some 0) false (l.pa / 2 ^ 22) (l.pa % 2 ^ 22) l.size = false
      ∧ (s.runA 0).forwarder l = none ∧ s.spPoisoned (l.pa / 2 ^ 22) (l.pa % 2 ^ 22) l.size = false
      ∧ ((v.cl 0).a.accs.find? fun l => l.seq == 0 && (!l.store || l.op.isSome)) = some { l with val := some 5 } := by decide

theorem witness_hbm_load_returns :
    let l := { acc 0 3 8 .hbm 0x1234000000 with va := 0x40 }
    let line : CLine := { cid := 0, addr := 0x1234000000, va := 0x40, data := List.replicate 64 1 }
    let s := mach fun c => { c with a := { c.a with loads := [l] } }
    let h := s.onA 0 fun a => { a with l1 := [line] }
    ((s.cl 0).a.accs.find? fun l => l.seq == 0 && (!l.store || l.op.isSome)) = some l ∧ l.dst < 64 ∧ l.redo = false ∧ l.val = none ∧ l.op = none
      ∧ (s.runA 0).heldBack (s.openCmds 0 l.scope (s.runCmds 0)) 0 l (!l.aq) = false ∧ (s.runA 0).forwarder l = none ∧ okPage s (l.pa / 65536)
      ∧ l.pa % 64 + l.size ≤ 64 ∧ (h.cl 0).a.l1.find? (fun c => c.addr == l.pa / 64 * 64 && c.va == l.va / 64 * 64) = some line
      ∧ (s.cl 0).a.l1 = [] ∧ s.channelFailed ((s.homeOf (l.pa / 65536) + l.pa % 65536) / 64 * 64) = false
      ∧ poisoned 64 s.hbmPoison ((s.homeOf (l.pa / 65536) + l.pa % 65536) / 64 * 64) 64 = false := by
  unfold okPage
  decide

theorem witness_hbm_store_performs :
    ∀ l ∈ [{ acc 0 0 8 .hbm 0x1234000000 with store := true }, { acc 0 3 8 .hbm 0x1234000000 with op := some .add }],
      let line : CLine := { cid := 0, addr := 0x1234000000, va := 0, data := List.replicate 64 1 }
      let s := mach fun c => { c with a := { c.a with stores := [l], l1 := [line] } }
      ((s.cl 0).a.stores.find? fun l => l.seq == 0 && l.pending) = some l ∧ l.late = none ∧ l.redo = false ∧ (∀ m ∈ (s.cl 0).a.stores, m.orphan = false)
        ∧ s.fetchSent (.acc 0 0) = false ∧ s.storeHeld 0 l = false ∧ l.vig = true ∧ plainPage s (l.pa / 65536) ∧ l.pa % 64 + l.size ≤ 64
        ∧ s.channelFailed l.pa = false ∧ poisoned 64 s.hbmPoison l.pa l.size = false ∧ 0 < l.size ∧ ∀ c ∈ (s.cl 0).a.l1, c.data.length = 64 := by
  unfold plainPage okPage
  decide

theorem witness_store_performs :
    ∀ l ∈ [{ acc 0 0 8 .sp 0 with store := true }, { acc 0 3 8 .sp 0 with op := some .add },
           { acc 0 0 8 .sp 0 with store := true, word := some (false, 4096, 0) }, { acc 0 0 8 .sp 0 with store := true, word := some (true, 8, 0) }],
      let s := mach fun c => { c with a := { c.a with stores := [l] } }
      ((s.cl 0).a.stores.find? fun l => l.seq == 0 && l.pending) = some l ∧ l.place = .sp ∧ l.late = none ∧ s.fetchSent (.acc 0 0) = false
        ∧ s.storeHeld 0 l = false ∧ s.spBlocked 0 (some 0) true (l.pa / 2 ^ 22) (l.pa % 2 ^ 22) l.size = false ∧ l.vig = true
        ∧ l.redo = false ∧ l.left = false ∧ (∀ m ∈ (s.cl 0).a.stores, m.orphan = false) ∧ s.spPoisoned (l.pa / 2 ^ 22) (l.pa % 2 ^ 22) l.size = false ∧ l.size = 8 := by decide

theorem witness_fences :
    let l := acc 0 3 8 .sp 0
    let s : State := (mach fun c => { c with a := { c.a with loads := [{ l with wins := 1 }], seq := 1 } })
    (State.reset.runA 0).drained (State.reset.openCmds 0 .dv (State.reset.runCmds 0)) 0 State.reset.a.seq 1 .dv = true
      ∧ (s.runA 0).drained (s.openCmds 0 .dv (s.runCmds 0)) 0 s.a.seq 1 .dv = false ∧ State.reset.winsClear 1 = true ∧ s.winsClear 1 = false := by decide

theorem witness_windows :
    let s := two 4 0x400000003FC00000 5 0x300000
    locParse (s.g 4).toNat = some (.sp 255 0) ∧ s.ready [4, 5] = true ∧ s.locScope s.focus (s.g 4).toNat = none ∧ (s.g 5).toNat ≠ 0
      ∧ 0 + (s.g 5).toNat ≤ 0x300000 ∧ s.winCount s.focus 7 = 0 := by decide

/-- A machine whose context 0 has one handle, with its record at address 0x1000, and one template at 0x2000. -/
def tabled : State :=
  let desc := [0, 0x10, 0, 0, 0, 0, 0, 0, 0, 0, 0, 0, 0, 0, 0, 0, 0, 0x10, 0, 0, 0, 0, 0, 0, 2, 0, 0, 0, 1, 0, 0, 0, 0, 0x20]
  { State.reset with hbm := (Memory.write [] 0 desc).write 0x1040 [0, 0x10] }

theorem witness_handle_window : tabled.handleCheck (tabled.runCid tabled.focus) 1 = none ∧ tabled.winCount tabled.focus 0 = 0 := by
  set_option maxRecDepth 20000 in decide

theorem witness_instruction_caches :
    let s := two 4 0x1000 5 0x40
    let i : Icinv := { id := 64, cl := some 0, node := none, cid := 0, va := 0, len := 64, expect := 2, got := 0 }
    let far : State :=
      { s.onA 0 (fun a => { a with wait := some { kind := .icinv, f := af 0 3 4 5 3, dst := 0, since := 0, id := 0, ahead := none } }) with
        icinvs := [{ i with got := 2 }], dev := { s.dev with routes := [(1, [0])] }, ports := [(0, { Port.reset with up := true })] }
    s.ready [4, 5] = true ∧ (s.g 4).toNat < 2 ^ 52 ∧ (s.g 4).toNat + (s.g 5).toNat ≤ 2 ^ 52 ∧ 0 < (s.g 5).toNat ∧ s.peers = []
      ∧ (scopeOf 0, scopeOf 1, scopeOf 2, scopeOf 3) = (.cl, .qd, .dv, .sy) ∧ far.peers ≠ [] ∧ far.ready [4, 5] = true ∧ (far.onA 0 fun a => { a with wait := none }).a.wait = none
      ∧ far.a.wait.isSome = true ∧ far.icinvs.find? (fun i => i.cl == some far.focus) = some { i with got := 2 } ∧ far.icinvDone { i with got := 2 } = true
      ∧ far.upPorts 1 ≠ []
      ∧ s.fencedChip 0 = false ∧ 0 = s.dev.chip ∧ 1 < 64 ∧ i.id % 64 = s.dev.chip ∧ i ∈ ({ s with icinvs := [i] } : State).icinvs := by decide

theorem witness_engine_commands :
    let s := two 3 0x4000000000000000 4 0x1000
    let f := af 1 3 4 0 64
    let full : State := s.onA 0 fun a => { a with cmds := List.replicate 32 (a.cmds.getD 0
      { id := 0, cid := 0, mode := .s, node := 0, task := 0, seq := 0, kind := .xcopy, cls := 0, pcl := 0, scope := .cl, word := none,
        src := .none, dst := .none, count := 0, aux := 0, bcast := false, layout := 0, tpl := none, pat := 0, stamp := none, started := false,
        lock := 0, ask := 0, piece := 0, got := [], done := [], buf := [], performed := 0, counted := 0, wins := 0, gran := [], vig := true, pc := 0 }) }
    s.copyErr f none (Ext.of (locEp s.focus (s.g 4).toNat) 64) (Ext.of (locEp s.focus (s.g 3).toNat) 64) = none ∧ s.ready [3, 4, 0] = true
      ∧ (locEp s.focus (s.g 4).toNat).global = true ∧ s.firmReady = true ∧ (s.onA 0 fun a => { a with loads := [acc 0 3 8 .sp 0] }).firmReady = false
      ∧ s.a.stamp < ({ s with gtc := 1 } : State).gtc ∧ s.gtc ≤ s.a.stamp ∧ s.entryBad (s.ttab 0) = false ∧ s.a.cmds.length < 32 ∧ 32 ≤ full.a.cmds.length ∧ full.ready [3, 4, 0] = true
      ∧ full.copyErr f none (Ext.of (locEp s.focus (full.g 4).toNat) 64) (Ext.of (locEp s.focus (full.g 3).toNat) 64) = none := by decide

theorem witness_engine_faults :
    let s := State.reset.setG 3 (BitVec.ofNat 64 (2 ^ 63))
    2 ^ 63 ≤ (s.g 3).toNat ∧ (State.reset.g 3).toNat / 2 ^ 62 ≠ 2 ∧ 2 ^ 62 ≤ (s.g 3).toNat ∧ s.ready [3, 4, 5, 6] = true ∧ (0 : Nat) % 65536 = 0
      ∧ (s.copyErr (af 1 3 4 5 64) none (Ext.of (locEp 0 (s.g 4).toNat) 64) (Ext.of (locEp 0 (s.g 3).toNat) 64)).isSome = true := by decide

/-- The machine with a scratchpad locator of cluster 0 in g10 and data in its queues. -/
def queued : State :=
  (mach fun c => { c with x := { c.x with lq := [(0, List.replicate 8 { cmd := 0, ready := true, tile := [], poison := false })], sq := [(0, [[(5, 7)]])] } }).setG
    10 0x4000000000000000

theorem witness_tile_transfers :
    queued.ready [10] = true ∧ queued.tileErr (af 1 1 10 0 0) = none ∧ (NMap.get [] queued.x.lq 1).length < 8 ∧ queued.a.cmds.length < 32
      ∧ 8 ≤ (NMap.get [] queued.x.lq 0).length ∧ NMap.get [] queued.x.sq 1 = [] ∧ NMap.get [] queued.x.sq 0 = [[(5, 7)]]
      ∧ (State.reset.setG 10 (BitVec.ofNat 64 (2 ^ 63))).tileErr (af 1 1 10 0 0) ≠ none := by decide

theorem witness_messages :
    let s := two 4 5 5 0x400000003FC00000
    let bad := two 4 192 5 0x400000003FC00000
    s.ready [3, 4, 5] = true ∧ s.msendErr (af 1 3 4 5 56) = none ∧ s.a.cmds.length < 32 ∧ 191 < (bad.g 4).toNat % 256
      ∧ (bad.g 5).toNat / 2 ^ 30 = 2 ^ 32 ∧ (State.reset.g 5).toNat / 2 ^ 62 ≠ 1 := by decide

theorem witness_completion_words :
    let w := 3 * 2 ^ 48 + 8 * 2 ^ 21 + 7
    let s := State.reset.setG 10 0x400000003FC00040
    let set : State := s.onCl 0 fun c => { c with sp := Memory.writeN [] 64 8 w }
    w < 2 ^ 64 ∧ w / 2 ^ 21 % 2 ^ 21 ≠ 0 ∧ 7 / 2 ^ 21 % 2 ^ 21 = 0 ∧ s.ready [3, 10] = true ∧ s.wordErr (s.g 10).toNat = none
      ∧ (s.a.stores.filter (·.late.isNone)).length < 16 ∧ s.a.acqPending = false ∧ s.a.storePending (s.wordAt (s.g 10).toNat).1 (s.wordAt (s.g 10).toNat).2 8 = false
      ∧ s.spPoisoned (s.wordAt (s.g 10).toNat).1 (s.wordAt (s.g 10).toNat).2 8 = false ∧ ofBytes ((set.cl 0).sp.read 64 8) = w
      ∧ (w / 2 ^ 48 + 2 ^ 16 - 3 % 2 ^ 16) % 2 ^ 16 < 2 ^ 15 ∧ 2 ^ 15 ≤ (w / 2 ^ 48 + 2 ^ 16 - 4 % 2 ^ 16) % 2 ^ 16
      ∧ (s.setG 10 1).wordErr 1 ≠ none
      ∧ s.spBlocked s.focus (some s.a.seq) false (s.wordAt (s.g 10).toNat).1 (s.wordAt (s.g 10).toNat).2 8 = false
      ∧ (s.onA 0 fun a => { a with cmds := [{ copy0 with started := true, lock := 2, src := .va 0, dst := .sp 0 64 }], seq := 5 }).spBlocked 0 (some 5) false 0 64 8 = true
      ∧ 16 ≤ ((s.onA 0 fun a => { a with stores := List.replicate 16 (acc 0 0 8 .sp 0) }).a.stores.filter (·.late.isNone)).length := by decide

theorem witness_semaphores :
    let s := mach fun c => { c with a := { c.a with sems := [(0, 65535)] } }
    (s.runA s.focus).semvDrained (s.runCmds s.focus) = true ∧ NMap.get 0 s.a.sems 1 + 65535 ≤ 65535 ∧ 65535 < NMap.get 0 s.a.sems 0 + 1
      ∧ s.a.acqPending = false ∧ s.x.freeze ≠ some (.sem 0) ∧ 65535 ≤ NMap.get 0 s.a.sems 0 ∧ NMap.get 0 s.a.sems 1 < 1
      ∧ s.ready [3] = true := by decide

theorem witness_buffers :
    let b (st who : Nat) : State :=
      { State.reset with dev := { State.reset.dev with clsvc := 2 ^ 192 - 1 }, bufs := [(0, { st := st, base := 0, len := 192, home := 0, who := who })] }
    let h := b 1 0
    let busy := h.onA 0 fun a => { a with stores := [{ acc 0 0 8 .sp 0 with store := true }], seq := 1 }
    (h.runA 0).seenPending 0 h.a.seq .qd = false ∧ h.focus = 0 ∧ quadOf 0 = 0 ∧ quadPos 0 = 0 ∧ (h.buf 0 0).st = 1 ∧ (h.buf 0 0).who = 0 ∧ h.inService (quadCluster 0 3) = true
      ∧ State.reset.inService (quadCluster 0 3) = false ∧ h.a.rangeDrained (h.a.cmds ++ h.runCmds 0) (quadCluster 0 0) 0 (192 * 16384) = true
      ∧ h.cur.arr.recs = [] ∧ busy.a.rangeDrained (busy.a.cmds ++ busy.runCmds 0) (quadCluster 0 0) 0 (192 * 16384) = false
      ∧ (State.reset.buf 0 0).st = 0 ∧ 0 + 192 ≤ 192 ∧ (∀ i < 64, (State.reset.buf 0 i).meets 0 0 (192 * 16384) = false) ∧ 192 < 1 + 192
      ∧ ((b 2 0).buf 0 0).st = 2 ∧ ((b 2 0).buf 0 0).who = 0 ∧ (b 2 0).a.acqPending = false ∧ ((b 2 1).buf 0 0).st ≠ 0
      ∧ ((b 2 1).buf 0 0).who ≠ 0 := by decide

/-- The machine at GTC 5,000 whose context 0 may snapshot to the host's memory, its slots in the state given. -/
def snaps (st : SnapSt) (kind : Nat) : State :=
  let s : State := { State.reset with gtc := 5000 }
  s.onCtx 0 fun c => (({ c with scb := 4096 + 10 * 2 ^ 64 + 7 * 2 ^ 96 + kind * 2 ^ 256 } : Ctx).setSnap 0 { c.snap 0 with st := st })

theorem witness_snapshots :
    let s := (snaps .free 1).setG 4 6000
    let live (s : State) : Prop := ((s.ctx 0).snap 0).st = .armed ∨ ((s.ctx 0).snap 0).st = .pending ∨ ((s.ctx 0).snap 0).st = .live
    s.ready [3, 4, 5] = true ∧ s.snapErr (af 1 3 4 5 0) = none ∧ live (snaps .armed 1) ∧ ¬ live s
      ∧ (5999 ≠ 0 ∧ (5999 < s.gtc + 1000 ∨ s.gtc + 10 ^ 10 < 5999)) ∧ ¬ ((s.g 4).toNat ≠ 0 ∧ ((s.g 4).toNat < s.gtc + 1000 ∨ s.gtc + 10 ^ 10 < (s.g 4).toNat))
      ∧ ((snaps .free 0).ctx 0).scbV = true ∧ tgtKind (((snaps .free 0).ctx 0).tgt 0) = 0 ∧ (s.ctx 0).scbV = true ∧ tgtKind ((s.ctx 0).tgt 0) = 1 := by
  decide

/-- A SNAP of class 1 finds an access of its class outstanding. -/
theorem witness_snapshot_waits :
    let l := { acc 0 3 8 .hbm 0 with cls := 1 }
    let s : State := (snaps .free 1).onA 0 fun a => { a with loads := [l], seq := 1 }
    s.ready [4, 5] = true ∧ s.snapErr (af 1 2 4 5 0) = none ∧ (af 1 2 4 5 0).ocl ≠ 0 ∧ s.focus < 192 ∧ l ∈ s.a.accs ∧ l.late = none ∧ l.pending = true ∧ l.cls = (af 1 2 4 5 0).ocl.toNat
      ∧ (s.g 4).toNat = 0 ∧ s.undecided ((s.ctx 0).snap 0) = false := by decide

/-- The machine whose context 0 has transaction slot 0 in the state given, begun with the mask given. -/
def txs (st : TxSt) (mask : BitVec 64) : State :=
  { State.reset with gtc := 5000 }.onCtx 0 fun c => c.setTx 0 { Tx.free with st := st, mask := mask, begun := 5000 }

theorem witness_transactions :
    let s := two 4 0 5 1
    let w : State := s.onA 0 fun a => { a with wins := [(0, some { sp := false, cl := 0, base := 0, len := 0 })] }
    let x (s : State) : Tx := (s.ctx (s.runCid s.focus)).tx 0
    s.ready [3, 4, 5] = true ∧ s.txbeginErr (af 0 3 4 5 0) = none ∧ (s.setG 4 0x400000003FC00041).txbeginErr (af 0 3 4 5 0) ≠ none
      ∧ (x (txs .open 1)).st ≠ .free ∧ (x s).st = .free ∧ s.a.txWindows 1 = none
      ∧ w.a.txWindows 1 = some [(0, 0)] ∧ (w.allPages 0 [(0, 0)] [] false).2.1 = [] ∧ (s.g 5).getLsbD s.dev.chip = true
      ∧ (x (txs .voted 1)).st ≠ .open ∧ (x (txs .open 1)).st = .open ∧ (txs .open 1).voteDrained (x (txs .open 1)).windows = true
      ∧ coordOf (x (txs .open 1)).mask = (txs .open 1).dev.chip ∧ (x (txs .open 1)).mask.getLsbD 0 = true
      ∧ (txs .open 1).gtc < (x (txs .open 1)).begun + (txs .open 1).votetmo
      ∧ (x (txs .open 1)).votes ||| BitVec.ofNat 64 (2 ^ (txs .open 1).dev.chip) = (x (txs .open 1)).mask
      ∧ coordOf (x (txs .open 6)).mask ≠ (txs .open 6).dev.chip ∧ (x (txs .committed 1)).st = .committed ∧ (x (txs .aborted 1)).st = .aborted
      ∧ (x (txs .decided 1)).st ≠ .open := by decide

theorem witness_transaction_waits :
    let l := { acc 0 0 8 .hbm 0 with store := true, cls := 1 }
    let s : State := (txs .open 1).onA 0 fun a => { a with stores := [l], seq := 1 }
    let y : State := s.onCtx 0 fun c => c.setTx 0 { c.tx 0 with windows := [(0, 65536)] }
    y.voteDrained ((y.ctx 0).tx 0).windows = false := by decide

theorem witness_tasks :
    let t := mach fun c => { c with a := { c.a with mode := .t } }
    let g (v : Option Nat) : State := mach fun c => { c with a := { c.a with growReq := some { dst := 3, n := 1, applied := v } } }
    t.a.mode = .t ∧ State.reset.a.mode = .s ∧ State.reset.a.growReq = none ∧ ((g none).cl 0).a.growReq = some { dst := 3, n := 1, applied := none }
      ∧ ((g (some 9)).cl 0).a.growReq = some { dst := 3, n := 1, applied := some 9 } ∧ 3 < 64 := by decide

/-- A node entry with two temporal and spatial levels and nothing else. -/
def node : Node :=
  { id := 1, cid := 5, prio := 0, ntag := 0, aentry := 0, xentry := 0, exts := [], arg0 := 0, arg1 := 0, chipmask := 1,
    loops := [(4, 2), (3, 1), (2, 2)], opers := [], queue := 0, order := 0, origin := 0, originId := 1, st := .ready, failing := 0, next := 0,
    requeued := [], parked := [], susp := [], retired := 0, grows := [], badCl := [], rung4 := [], poisonHit := [], poolSeq := 0, waitFrom := 0,
    gen := 0, ts := 0, readyMask := 0, refusals := 0, started := true, reports := 0, reportTasks := 0, repls := [],
    finishedAt := 0 }

/-- The machine with that node in entry 0 and its task 5 on cluster 0. -/
def tasked : State :=
  { (mach fun c => { c with a := { c.a with mode := .t, run := .run }, x := { c.x with run := .run }, ctl := { c.ctl with occ := .running, cid := 5, runBit := true, node := 0, task := 5 } }) with
    disp := { State.reset.disp with nodes := [(0, some node)] } }

theorem witness_task_indices :
    State.reset.cur.ctl.occ = .free ∧ tasked.cur.ctl.occ ≠ .free ∧ tasked.node? tasked.cur.ctl.node = some node
      ∧ ((node.loopsOf 5).getD 1 (0, 0)).2 = 1 ∧ ((node.loopsOf 5).getD 0 (0, 0)).2 = 2
      ∧ (∀ l ∈ node.loops, 0 < l.1) ∧ (∃ l ∈ node.loops, l.2 = 2) := by decide

/-- Fields of a syllable on registers. -/
def xf (d a b : BitVec 6) (fn : BitVec 8) (imm : BitVec 64) : XF :=
  { ls := true, pcl := 0, ty := 4, neg := false, gp := 0, d := .reg d 0, a := .reg a 0, b := .reg b 0, c := .reg 0 0, fn := fn, imm := imm }
/-- A queue operand in its two modes: head of the given queue, popped. -/
def xq (q : BitVec 4) (stall : Bool) : XF := { xf 5 0 0 0 0 with a := .queue q true stall 0 }

theorem witness_queue_operands :
    let empty (f : XF) (stall : Bool) : Prop := ∃ o ∈ qOpnds f, o.2.2 = stall ∧ (State.reset.qHead 0 o.1).isEmpty = true
    empty (xq 0 true) true ∧ ¬ empty (xq 0 true) false ∧ empty (xq 0 false) false ∧ State.reset.latchCancels (xq 0 true) = false := by decide +kernel

/-- A head that is popped, one popped from the mailbox at its last dword, one that is poisoned, and a task to stop. -/
theorem witness_pops_and_poison :
    let bad : State := (mach fun c => { c with x := { c.x with lq := [(0, [{ cmd := 0, ready := true, tile := [], poison := true }])] },
                                               ctl := { c.ctl with occ := .running, node := 3, task := 2 } })
    let mail := (mach fun c => { c with ctl := { c.ctl with mbox := 0x9000000, mbTail := 1, mbPos := 7 } })
    ((qOpnds (xq 0 true)).map Prod.fst).Nodup ∧ ((qOpnds (xq 0 true)).any fun o => o.1 == 0 && o.2.1) = true
      ∧ (∀ o ∈ qOpnds (xq 14 true), (mail.qHead 0 o.1).isEmpty = false ∧ (mail.qHead 0 o.1).poisoned = false) ∧ mail.cur.ctl.mbPos = 7
      ∧ (∃ o ps, (qOpnds (xq 0 true)).filter (fun o => (bad.qHead 0 o.1).poisoned) = o :: ps) ∧ (∀ o ∈ qOpnds (xq 0 true), (bad.qHead 0 o.1).isEmpty = false)
      ∧ bad.runsOn bad.cur.ctl.node bad.cur.ctl.task = some bad.focus := by
  refine ⟨by decide, by decide, by decide +kernel, by decide, ⟨_, _, rfl⟩, by decide, by decide +kernel⟩

theorem witness_heads_there :
    (∀ o ∈ qOpnds (xf 5 1 2 0 0), (State.reset.qHead 0 o.1).isEmpty = false ∧ (State.reset.qHead 0 o.1).poisoned = false)
      ∧ (∀ o ∈ qOpnds (xq 0 true), (queued.qHead 0 o.1).isEmpty = false ∧ (queued.qHead 0 o.1).poisoned = false) := by decide

/-- cr.ls with SEXP 0, its bounds and its interval. -/
def lsWord (sexp lo hi ivl : Nat) : Nat := sexp + lo * 2 ^ 8 + hi * 2 ^ 16 + ivl * 2 ^ 24

theorem witness_loss_scale :
    let low := lsWord 1 0 127 3
    let at_ := lsWord 0 0 127 3
    lsLo low ≥ -126 ∧ lsLo low ≤ lsSexp low ∧ lsSexp low ≤ lsHi low ∧ lsLo low < lsSexp low ∧ lsSexp at_ ≤ lsLo at_
      ∧ lsWord 1 0 127 0 / 2 ^ 24 % 2 ^ 16 = 0 ∧ low / 2 ^ 40 % 2 ^ 16 + 1 < low / 2 ^ 24 % 2 ^ 16
      ∧ (low + 2 * 2 ^ 40) / 2 ^ 24 % 2 ^ 16 ≠ 0 ∧ (low + 2 * 2 ^ 40) / 2 ^ 24 % 2 ^ 16 ≤ (low + 2 * 2 ^ 40) / 2 ^ 40 % 2 ^ 16 + 1
      ∧ lsSexp (low + 2 * 2 ^ 40) < lsHi (low + 2 * 2 ^ 40) ∧ (1 : W64) ≠ 0 := by decide

theorem witness_control_syllables :
    let s := mach fun c => { c with x := { c.x with lc := 1, ec := 2, k := [(1, 1)], x := [(3, 65537)] }, a := { c.a with sems := [(1, 1)] } }
    (State.reset.xr (.reg 1 0) = 0) ∧ (s.xr (.reg 3 0) ≠ 0) ∧ (s.x.pred 1).getLsbD 0 = true ∧ (s.x.pred 2).getLsbD 0 = false
      ∧ (∃ l, (s.x.pred 1).getLsbD l = true) ∧ 0 < s.x.lc ∧ State.reset.x.lc = 0 ∧ 1 < s.x.ec ∧ State.reset.x.ec ≤ 1
      ∧ 65536 < (s.xr (.reg 3 0)).toNat ∧ (State.reset.xr (.reg 3 0)).toNat = 0 ∧ NMap.get 0 s.a.sems 1 ≠ 0 ∧ s.a.sempWait 1 = none
      ∧ NMap.get 0 s.a.sems 2 = 0 ∧ s.x.trap = none ∧ s.x.semGot ≠ some 1
      ∧ (s.onX 0 fun x => { x with semGot := some 2 }).x.semGot = some (2 % 16) := by
  refine ⟨by decide, by decide +kernel, by decide +kernel, by decide +kernel, ⟨0, by decide +kernel⟩, by decide +kernel⟩

theorem witness_checkpoints :
    ((State.reset.xpc / 128 * 128 + 128 * ((2 : BitVec 64).setWidth 32).toInt) % 2 ^ 64).toNat < 2 ^ 52
      ∧ 2 ^ 52 ≤ ((State.reset.xpc / 128 * 128 + 128 * ((0xFFFFFFFF : BitVec 64).setWidth 32).toInt) % 2 ^ 64).toNat := by decide

theorem witness_joins :
    let j (tags : List Nat) : NMap (Option (Nat × Nat)) := [(1, some (tags.getD 0 0, 64)), (2, some (tags.getD 1 0, 64)), (3, some (tags.getD 2 0, 64))]
    let s := mach fun c => { c with x := { c.x with indep := true, joins := j [5, 5, 5] } }
    let m := mach fun c => { c with x := { c.x with indep := true, joins := j [5, 5, 6] } }
    s.slot < 4 ∧ NMap.get none State.reset.x.joins 1 = none ∧ NMap.get none s.x.joins 1 = some (5, 64) ∧ NMap.get none s.x.joins 2 = some (5, 64)
      ∧ NMap.get none s.x.joins 3 = some (5, 64) ∧ NMap.get none m.x.joins 3 = some (6, 64) ∧ m.x.trap = none := by decide

theorem witness_packed : typeWidth (xf 0 0 0 0 0).ty.toNat ≠ 1 ∧ (xf 0 0 0 5 0).ty ≠ 0 ∧ (xf 0 0 0 5 0).fn.toNat % 8 < 6 ∧ typeWidth 3 ≠ 0 ∧ typeWidth 9 ≤ 32 := by decide

theorem witness_nans :
    fmtIeee .f32 = true ∧ fIsNan (fpVal .f32 0x7F800001) = true ∧ fIsSnan (fpVal .f32 0x7F800001) = true ∧ fIsSnan (fpVal .f32 0x7FC00000) = false
      ∧ (∃ s, fpVal .f32 0x7F800000 = .inf s) ∧ fIsZero (fpVal .f32 0) = true ∧ ¬ (fIsNan (fpVal .f32 0) = true)
      ∧ ¬ (fIsZero (fpVal .f32 0x3F800000) = true) := by
  refine ⟨by decide, by decide, by decide, by decide, ⟨false, by decide⟩, by decide, by decide, by decide⟩

theorem witness_lane_moves :
    (xf 0 0 0 0 0).fn.toNat % 4 = 0 ∧ (xf 0 0 0 1 0).fn.toNat % 4 = 1 ∧ (xf 0 0 0 2 0).fn.toNat % 4 = 2 ∧ (xf 0 0 0 3 0).fn.toNat % 4 = 3
      ∧ Opnd.queue? (xq 0 true).a = some 0 ∧ (match queued.qHead 0 0 with | .tile [] false => true | _ => false) = true
      ∧ Opnd.queue? (xq 14 true).a = some 14
      ∧ (match (mach fun c => { c with ctl := { c.ctl with mbox := 0x9000000, mbTail := 1 } }).qHead 0 14 with | .dword 0 _ => true | _ => false) = true := by
  decide

/-- Three clusters of a column in one partition, with rows in the latches of the middle one. -/
def column : State :=
  { (State.reset.onCl 16 fun c => { c with x := { c.x with latchN := some [], latchS := some [] } }) with
    focus := 16, dev := { State.reset.dev with clsvc := 2 ^ 192 - 1 }, hbm := Memory.write [] 48 [255, 255, 255, 255, 255, 255],
    ctxs := [(0, { Ctx.reset with resident := true })] }

theorem witness_cluster_shifts :
    let g : Flight := { cl := 16, north := true, rows := [(0, 1)], sent := true }
    let bare : State := { column with clusters := [] }
    2 ≤ (xf 0 0 0 10 0).fn.toNat % 4 ∧ 2 ≤ (xf 0 0 0 11 0).fn.toNat % 4
      ∧ column.neighbour 16 true = some 0 ∧ column.x.latchN ≠ none ∧ column.x.latchS ≠ none ∧ column.neighbour 16 false = some 32
      ∧ column.latchFree 32 true = true ∧ column.latchFree 0 false = true ∧ bare.neighbour 16 true = some 0 ∧ bare.x.latchN = none
      ∧ ({ column with flights := [g] } : State).flights.find? (fun g => g.cl == 16 && g.north == true && g.sent) = some g := by
  decide +kernel

/-- A record of the given opcode, with its fields at their least values. -/
def rec (ropc ty : Nat) : Rec :=
  { id := 0, ropc := ropc, pcl := 0, mods := ty, trips := [1, 1, 1, 1], base := [0, 0, 0, 0], str := [[0, 0, 0, 0], [0, 0, 0, 0], [0, 0, 0, 0], [0, 0, 0, 0]],
    cw := none, scope := .cl, tag := 3, j := 0, began := false, f := 1, counted := 0, scales := [], failed := false }
/-- A line of the X-core's instruction cache with a record of the given opcode. -/
def line (ropc : Nat) : CLine := { cid := 0, addr := 0, va := 0, data := List.replicate 62 0 ++ [BitVec.ofNat 8 (16 * ropc), 0xF0] }
/-- The machine whose array holds the given records in an engine's queue. -/
def array (e : EngineOf) (rs : List Rec) : State := mach fun c => { c with arr := c.arr.setEngine e rs }

theorem witness_records :
    let s : State := mach fun c => { c with x := { c.x with icache := [line 3] } }
    let q (n : Nat) : State := mach fun c => { c with x := { c.x with icache := [line 3] }, arr := { c.arr with recQ := List.replicate n (rec 3 0) } }
    let f := xf 0 0 0 0 0
    (Instr.wswap f, 3) ∈ recordRows f ∧ s.recLine f < 2 ^ 52 ∧ State.reset.xLine? (State.reset.recLine f) = none
      ∧ s.xLine? (s.recLine f) = some (ofBytes (line 3).data) ∧ lineOk 3 (ofBytes (line 3).data) = true
      ∧ s.recordErr s.focus (s.recordHere f (ofBytes (line 3).data)) = none ∧ s.cur.arr.recQ.length < 4
      ∧ 4 ≤ (q 4).cur.arr.recQ.length ∧ (q 4).recordErr 0 ((q 4).recordHere f (ofBytes (line 3).data)) = none := by
  refine ⟨by simp [recordRows], ?_⟩
  decide +kernel

theorem witness_waits_and_dispatch :
    let s := array .array [rec 1 0]
    let f := xf 0 0 0 0 0x300000000
    let q (n : Nat) : State := (array .loader (List.replicate n (rec 2 0))).onCl 0 fun c => { c with arr := { c.arr with recQ := [rec 2 0] } }
    f.imm.toNat / 2 ^ 32 % 16 = 3 ∧ State.reset.cur.arr.recs = [] ∧ (∃ r ∈ s.cur.arr.recs, r.tag = 3) ∧ s.cur.arr.recs ≠ []
      ∧ ((q 1).cl 0).arr.recQ = [rec 2 0] ∧ (((q 1).cl 0).arr.engine (engineOf 2)).length < 2 ∧ 2 ≤ (((q 2).cl 0).arr.engine (engineOf 2)).length := by
  decide +kernel

theorem witness_mma :
    let s := array .array [rec 1 0]
    let r : Rec := { rec 1 0 with began := true }
    let p : Pass := { id := 0, sums := [(3, 0x3F800000)] }
    let a : State := s.onCl 0 fun c => { c with arr := { c.arr with passes := [p] } }
    s.running 0 1 = some (rec 1 0) ∧ s.recWaits 0 false (r.addr 32 0).toNat (rowBytes 1 1) = false
      ∧ s.torn 0 (r.addr 32 0).toNat (8 * r.f) r.pa = false ∧ a.wordHeld 0 (rec 1 0) = false
      ∧ s.spPoisoned 0 (r.addr 32 0).toNat (rowBytes 1 1) = false ∧ (s.cl 0).ctl.usedNow + r.passes ≤ (s.cl 0).ctl.grant
      ∧ s.pePoison = []
      ∧ (a.cl 0).arr.passes = [p] ∧ ((a.cl 0).arr.arrayE.find? fun q => q.id == p.id) = some (rec 1 0)
      ∧ (∀ v ∈ p.sums, a.accBad 0 v.1 = false) ∧ (rec 1 0).cw = none
      ∧ (∀ v ∈ p.sums, ∀ w ∈ p.sums, w.1 = v.1 → w = v)
      ∧ ((s.onCl 0 fun c => { c with ctl := { c.ctl with usedNow := 1250 } }).cl 0).ctl.grant
          < ((s.onCl 0 fun c => { c with ctl := { c.ctl with usedNow := 1250 } }).cl 0).ctl.usedNow + r.passes := by
  decide +kernel

theorem witness_loader :
    let s := array .loader [rec 2 0]
    let w := array .array [rec 3 0]
    let bs := s.blocksAt 0 0 8 1
    s.running 0 2 = some (rec 2 0) ∧ (s.cl 0).arr.before (rec 2 0) 3 = false ∧ s.recWaits 0 false 0 (rowBytes 1 1) = false
      ∧ s.torn 0 0 8 (rec 2 0).pw = false ∧ s.wordHeld 0 (rec 2 0) = false ∧ w.wordHeld 0 (rec 3 0) = false ∧ (∀ b < 8, s.spPoisoned 0 (2 * ((rec 2 0).pw + 2) * b) (2 * ((rec 2 0).pw + 2)) = false)
      ∧ (if (rec 2 0).mods.testBit 6 then (if (rec 2 0).mods.testBit 7 then 4 else 8) else 0) - (rec 2 0).scales.length ≤ (s.cl 0).arr.scaleQ.length
      ∧ (∀ b ∈ bs, (b.m.filter (· != 0)).length ≤ 16 / 1) ∧ sparFactor 0 = (s.cl 0).arr.shadow.f
      ∧ w.running 0 3 = some (rec 3 0) ∧ (w.cl 0).arr.before (rec 3 0) 2 = false := by
  decide +kernel

theorem witness_other_engines :
    (array .array [rec 4 0]).running 0 4 = some (rec 4 0) ∧ (array .array [rec 4 0]).cur.arr.passes = [] ∧ (array .pusher [rec 8 0]).running 0 8 = some (rec 8 0)
      ∧ (array .array [rec 4 0]).wordHeld 0 (rec 4 0) = false ∧ (array .pusher [rec 8 0]).wordHeld 0 (rec 8 0) = false
      ∧ State.reset.cur.arr.scaleQ.length ≤ 8160 ∧ State.reset.recWaits 0 false 0 32 = false ∧ State.reset.spPoisoned 0 0 32 = false := by
  decide +kernel

/-- A DRAIN to scratchpad in its three stages: its banks taken by a copy, its banks free, and its image written but for the last granule. -/
theorem witness_tile_image :
    let r : Rec := rec 5 41
    let s := array .array [r]
    let copy : Cmd := { copy0 with started := true, lock := 2 }
    let held := s.onA 0 fun a => { a with cmds := [copy] }
    let asked : TileWrite := { id := 0, at_ := 0, ask := s.a.nextId, data := none, gran := [] }
    let d : TileWrite := { asked with data := some (List.replicate 4096 0), gran := List.range 127 }
    let last := s.onCl 0 fun c => { c with arr := { c.arr with drain := some d } }
    s.running 0 5 = some r ∧ r.mods.testBit 5 = true ∧ s.cur.arr.drain.getD asked = asked ∧ (s.drainAsk 0 r).drainFree 0 asked = true
      ∧ (held.drainAsk 0 r).drainFree 0 asked = false ∧ held.running 0 5 = some r ∧ s.filePaused 0 = false ∧ asked.data = none
      ∧ last.cur.arr.drain = some d ∧ d.data = some (List.replicate 4096 0) ∧ (List.replicate 4096 (0 : Byte)).length = 4096
      ∧ last.cur.arr.arrayE.find? (fun q => q.id == d.id) = some r ∧ r.ropc = 5 ∧ 127 ∉ d.gran ∧ (∀ g < 128, g ≠ 127 → g ∈ d.gran)
      ∧ ¬ (∀ g < 128, g ≠ 126 → g ∈ ({ d with gran := List.range 126 } : TileWrite).gran) ∧ r.cw = none := by
  refine ⟨by decide +kernel, by decide, by decide +kernel, by decide +kernel, by decide +kernel, by decide +kernel, by decide +kernel, rfl, by rfl, rfl,
    List.length_replicate, by decide +kernel⟩

theorem witness_outputs :
    let q := (array .array [rec 5 9]).onX 0 fun x => { x with dq := List.replicate 8 [] }
    let n := array .nest [rec 7 9]
    (array .array [rec 5 9]).running 0 5 = some (rec 5 9) ∧ (∀ a, State.reset.accBad 0 a = false) ∧ (array .array [rec 5 9]).filePaused 0 = false ∧ (array .array [rec 5 9]).wordHeld 0 (rec 5 9) = false ∧ (array .array [rec 6 0]).filePaused 0 = false
      ∧ (array .array [rec 6 0]).wordHeld 0 (rec 6 0) = false ∧ (∀ a, State.reset.cur.arr.adding [a] = false) ∧ (rec 5 9).mods.testBit 5 = false
      ∧ (array .array [rec 5 9]).x.dq.length < 8 ∧ q.running 0 5 = some (rec 5 9) ∧ 8 ≤ q.x.dq.length ∧ (rec 5 41).mods.testBit 5 = true
      ∧ (array .array [rec 5 41]).running 0 5 = some (rec 5 41) ∧ State.reset.recWaits 0 true 0 4096 = false ∧ (rec 5 41).cw = none
      ∧ (∀ u, State.reset.spPoisoned 0 u 1 = false) ∧ (array .array [rec 6 0]).running 0 6 = some (rec 6 0) ∧ State.reset.x.hq.length < 8
      ∧ (rec 6 0).cols.1 + (rec 6 0).cols.2 ≤ 512 ∧ n.running 0 7 = some (rec 7 9) ∧ n.recWaits 0 true 0 32 = false
      ∧ (∀ m ∈ (opsUsed 7 9).filter (· != 0), n.recWaits 0 false ((rec 7 9).addr 32 m).toNat 32 = false) ∧ (rec 7 9).ty = 9 := by
  refine ⟨by decide +kernel, fun _ => rfl, by decide +kernel, by decide +kernel, by decide +kernel, by decide +kernel, fun _ => rfl, by decide, by decide +kernel, by decide +kernel, by decide +kernel, by decide, by decide +kernel,
    by decide +kernel, by decide, fun _ => rfl, by decide +kernel⟩

theorem witness_waits :
    let w (k : WaitKind) : State := mach fun c => { c with a := { c.a with wait := some { kind := k, f := af 0 0 0 0 0, dst := 0, since := 0, id := 0, ahead := none } } }
    (((w .waitgen).cl 0).a.wait.map (·.kind) = some .waitgen) ∧ (((w .semv).cl 0).a.wait.map (·.kind) = some .semv)
      ∧ (((w .semp).cl 0).a.wait.map (·.kind) = some .semp) ∧ (((w .btake).cl 0).a.wait.map (·.kind) = some .btake)
      ∧ (((w .bgive).cl 0).a.wait.map (·.kind) = some .bgive) ∧ (((w .walk).cl 0).a.wait.map (·.kind) = some .walk) := by decide

theorem witness_open_waits :
    let f := af 0 3 4 5 0
    let s : State := mach fun c => { c with a := { c.a with wait := some { kind := .txbegin, f := f, dst := 0, since := 0, id := 0, ahead := none } } }
    s.txWaiter 0 0 = some (0, f) := by decide +kernel

theorem witness_frame_wait :
    let l := { acc 0 0 8 .hbm 0x1234000000 with store := true, left := true }
    let s := mach fun c => { c with a := { c.a with stores := [l] } }
    ((s.cl 0).a.stores.find? fun l => l.seq == 0 && l.pending && l.place == .hbm) = some l ∧ l.op = none ∧ l.redo = false ∧ l.left = true ∧ s.storeHeld 0 l = false ∧ (∀ m ∈ (s.cl 0).a.stores, m.orphan = false)
      ∧ (match s.hbmWrite l.pa (toBytes l.size l.data) with | .ok _ => true | _ => false) = true := by decide

theorem witness_results_land :
    let l (e : Eff) : Landing := { due := 1, issued := 0, slot := 2, pcl := 0, eff := e, vig := none }
    let s (e : Eff) : State := mach fun c => { c with x := { c.x with run := .ended, land := [l e], sq := [(1, List.replicate 8 [])] }, a := { c.a with sems := [(1, 65535)] } }
    (∀ e ∈ [Eff.k7 true, .x 3 5, .push 0 [], .push 1 [], .kstq 0 0 31 false, .sem 0 65535, .sem 1 1, .loop 3 2 1 [], .ls 5, .flags 1, .xfpClear 31],
      ((s e).cl 0).x.run = .ended ∧ ((s e).cl 0).x.freeze = none ∧ ((s e).cl 0).ctl.retrainEnd = none ∧ ((s e).cl 0).x.land = [l e]
        ∧ (l e).due = ((s e).cl 0).x.vcyc + 1 ∧ (l e).pcl = 0 ∧ ((s e).cl 0).x.trap = none ∧ ((s e).cl 0).pauses = none)
      ∧ (∀ e ∈ [Eff.send 16 true, .latch true, .twst 1 [] [], .twld 0 1 []], ((s e).cl 0).x.land = [l e] ∧ ((s e).cl 0).pauses = none
          ∧ ((s e).cl 0).towerHeld = false ∧ (s e).twPoison = [])
      ∧ (∀ i < 1024, (1 : BitVec 1024).getLsbD i = true → ∀ k < 1024, (1 : BitVec 1024).getLsbD k = true → k = i)
      ∧ (s (.push 0 [])).sqOcc 0 0 < 8 ∧ 8 ≤ (s (.push 1 [])).sqOcc 0 1
      ∧ (s (.sem 0 65535)).sem 0 0 + 65535 ≤ 65535 ∧ 65535 < (s (.sem 1 1)).sem 0 1 + 1 := by decide +kernel

theorem witness_counter :
    let s (f : Option Freeze) : State := { (mach fun c => { c with x := { c.x with run := .run, freeze := f, issued := f.isNone } }) with clk := 9 }
    let trap := mach fun c => { c with x := { c.x with run := .stopped, trap := some { code := 0x10, detail := 0, tval := 1, slot := 0 } },
                                       a := { c.a with run := .run, sstat := 3 } }
    ((s none).cl 0).x.run = .run ∧ ((s none).cl 0).x.freeze = none ∧ ((s none).cl 0).x.issued = true ∧ ((s none).cl 0).x.ckptNow = false
      ∧ (match (s none).xNext [] with | .freeze _ _ => true | .go _ _ => true | _ => false) = false
      ∧ (s (some (.beats 2))).halting 0 = false ∧ ((s (some (.beats 8))).cl 0).x.frozenAt + 8 < 9
      ∧ ((s (some .retrain)).cl 0).x.freeze = some .retrain ∧ ((s (some .retrain)).cl 0).ctl.retrainEnd = none
      ∧ ((s (some .tower)).cl 0).x.banksAt 1 = [] ∧ trap.xTrapDue 0 = some { code := 0x10, detail := 0, tval := 1, slot := 0 }
      ∧ ((s (some (.sem 3))).cl 0).x.freeze = some (.sem 3) ∧ (trap.cl 0).a.mode = .s ∧ (trap.cl 0).a.sstat.getLsbD 1 = true := by decide +kernel

/-- The machine whose X-core has NOPs in its instruction cache, its counter as given. -/
def nops (f : Option Freeze) : State :=
  let c : CLine := { cid := 0, addr := 0, va := 0, data := (List.range 4).flatMap fun _ => List.replicate 15 0 ++ [0x80] }
  mach fun d => { d with x := { d.x with run := .run, freeze := f, issued := f.isNone, icache := [c] } }

theorem witness_counter_goes :
    (match (nops none).xNext [] with | .go _ ys => ys.length | _ => 0) = 4 ∧ (match (nops (some .queue)).xNext [] with | .go _ ys => ys.length | _ => 0) = 4
      ∧ ((nops (some .queue)).cl 0).x.freeze = some .queue ∧ ((nops (some .queue)).cl 0).x.run = .run ∧ (nops (some .queue)).halting 0 = false := by
  decide +kernel

theorem witness_counter_freezes :
    let s := (nops none).onCl 0 fun c => { c with ctl := { c.ctl with retrainEnd := some 5 } }
    (match s.xNext [] with | .freeze _ k => k == .retrain | _ => false) = true := by decide +kernel

/-- A counter frozen at an XSEMP goes when the semaphore has risen, and takes its count. -/
theorem witness_semaphore_wait :
    let x : XF := xf 0 0 0 0 1
    let s : State := (nops (some (.sem 1))).onA 0 fun a => { a with sems := [(1, 1)] }
    x.imm = 1 ∧ (s.cl 0).x.freeze = some (.sem 1) ∧ (s.cl 0).x.run = .run ∧ s.halting 0 = false
      ∧ (match s.xNext [] with | .go u _ => u.sem 0 1 != 0 && u.focus == 0 | _ => false) = true := by decide +kernel

theorem witness_commands :
    let s := cmds [copy0]
    let late : State := (cmds [{ copy0 with id := 1, seq := 1 }]).onA 0 fun a => { a with stores := [{ acc 0 0 8 .sp 0 with store := true }] }
    let g : Cmd := { copy0 with id := 0, kind := .gather, count := 0 }
    let asks : Cmd := { copy0 with started := true, lock := 1 }
    s.cmd? 0 0 = some copy0 ∧ copy0.started = false ∧ s.startBlocked 0 copy0 = false ∧ copy0.vig = true ∧ s.cur.arr.drain = none ∧ copy0.gatherErr = none
      ∧ copy0.kind ≠ .msend ∧ late.startBlocked 0 { copy0 with id := 1, seq := 1 } = true ∧ g.gatherErr.isSome = true
      ∧ (cmds [g]).startBlocked 0 g = false ∧ (cmds [asks]).cmd? 0 0 = some asks
      ∧ (∀ j ∈ ((cmds [asks]).cl 0).a.cmds, j.id ≠ 0 → j.lock = 0)
      ∧ ({ asks with id := 1, lock := 2 }.banks 0).clash (asks.banks 0) = true
      ∧ (({ id := 0, at_ := 0, ask := 0, data := some [], gran := [] } : TileWrite).banks 0).clash (asks.banks 0) = true := by decide +kernel

theorem witness_pieces :
    let k : Cmd := { copy0 with started := true, lock := 2, got := [0, 1], piece := 0 }
    let s := cmds [k]
    let w : Cmd := { copy0 with started := true, performed := 64 }
    let q : Cmd := { copy0 with kind := .tldq, count := 4096, word := none, started := true, performed := 4096, piece := 1 }
    let odd : Cmd := { copy0 with vig := false }
    k.dst = .sp 0 0 ∧ k.kind ≠ .gather ∧ k.copyTpl = none ∧ k.bcast = false ∧ s.granuleDue 0 k 0 = true ∧ s.granuleDue 0 k 1 = true
      ∧ (∀ d u, s.spPoisoned d u 1 = false) ∧ odd.vig = false ∧ odd.mode = .s ∧ (cmds [odd]).startBlocked 0 odd = false ∧ k.pcl = 0 ∧ w.word = some (0, 4096) ∧ w.counted < Nat.min w.count w.performed
      ∧ (cmds [w]).arrivalHeld 0 w = false ∧ (cmds [q]).cur.ctl.retrainEnd = none
      ∧ (cmds [w]).spBlocked 0 (some 0) true 0 4096 8 = false ∧ (cmds [w]).spPoisoned 0 4096 8 = false ∧ q.kind = .tldq ∧ q.hasPerformed = true
      ∧ (((cmds [q]).cl 0).a.cmds.find? fun j => j.kind == .tldq && j.aux == q.aux && j.hasPerformed) = some q := by
  refine ⟨by decide +kernel, by decide +kernel, by decide +kernel, by decide +kernel, by decide +kernel, by decide +kernel, fun _ _ => rfl, ?_⟩
  decide +kernel

theorem witness_units :
    let k : Cmd := { copy0 with started := true }
    let s := cmds [k]
    let w : Cmd := { k with src := .sp 0 0, dst := .va 0 }
    let g : Cmd := { k with kind := .gather, src := .va 0, pat := 1, aux := 0 }
    let gathers : Bool := match (cmds [g]).readColumn 0 g 0 1 0 [] with
      | .ok t _ => t.cmd? 0 0 == some g
      | _ => false
    let reads : Bool := match s.reach 0 k (k.srcUnit 0).a [pER] with
      | (.at_ .hbm pa, t) => (match t.hbmRead pa (k.srcUnit 0).n with | .ok _ => t.cmd? 0 0 == some k | _ => false)
      | _ => false
    let writes : Bool := match (cmds [w]).reach 0 ((cmds [w]).runBytes w (w.dstUnit 0) 64).1 (w.dstUnit 0).a [pEW] with
      | (.at_ .hbm pa, t) => (match t.hbmWrite pa ((cmds [w]).runBytes w (w.dstUnit 0) 64).2 with | .ok u => u.cmd? 0 0 == some w | _ => false)
      | _ => false
    k.kind.plain = true ∧ 0 < k.srcUnits ∧ k.got.contains 0 = false ∧ (k.srcUnit 0).n ≠ 0 ∧ s.unitSent 0 k.id 0 = false ∧ k.performed < k.work
      ∧ s.unitHeld 0 k (k.srcUnit 0).a = false ∧ reads = true
      ∧ w.stamp = none ∧ w.srcUnits = 0 ∧ 0 < w.dstUnits ∧ (w.dstUnit 0).n = 64 ∧ w.done.contains 0 = false ∧ (cmds [w]).srcReady 0 w (w.dstUnit 0) = true
      ∧ (cmds [w]).lowerDone 0 w 0 = true ∧ (cmds [w]).runBad w (w.dstUnit 0) = none ∧ (cmds [w]).unitHeld 0 w (w.dstUnit 0).a = false
      ∧ (cmds [w]).unitSent 0 w.id 0 = false ∧ writes = true ∧ patCols g.pat ≠ 0 ∧ gathers = true
      ∧ (∀ i < patRows g.pat, (cmds [g]).unitHeld 0 g (g.elemAddr (g.aux % 2 ^ 32 + 0 * patStep g.pat) (g.aux / 2 ^ 32 % 2 ^ 32 + i)).1 = false)
      ∧ (cmds [{ w with pcl := 1 }]).unitDue 0 { w with pcl := 1 } 0 = true := by decide +kernel

theorem witness_tower_units :
    let k : Cmd := { copy0 with started := true }
    let t : Cmd := { k with kind := .tfill, src := .tw (some 0) 0, aux := 262144 }
    let f : Cmd := { k with kind := .tfill, src := .sp 0 0, dst := .tw (some 0) 0, aux := 262144 }
    let x := f.dstUnit 0
    t.kind.plain = true ∧ 0 < t.srcUnits ∧ t.performed < t.work ∧ (cmds [t]).cur.ctl.bankRefreshing (bankKey (t.unitCell t.src 0) 0) = false
      ∧ (cmds [t]).twPoisoned 0 (t.unitCell t.src 0) 0 64 = false
      ∧ f.srcUnits = 0 ∧ 0 < f.dstUnits ∧ f.done.contains 0 = false ∧ (cmds [f]).srcReady 0 f x = true ∧ (cmds [f]).runBad f x = none
      ∧ ((cmds [f]).runBytes f x x.n).2.length = x.n ∧ (cmds [f]).cur.ctl.bankRefreshing (bankKey (f.unitCell f.dst 0) x.a) = false
      ∧ (cmds [f]).twPoisoned 0 (f.unitCell f.dst 0) x.a x.n = false := by decide +kernel

/-- One request of each near-memory command on HBM: an addition of 32-bit integers, a scale-accumulate, and a compare-and-swap that holds. -/
theorem witness_bank_side_units :
    let n (kind : CmdKind) (layout count : Nat) : Cmd := { copy0 with started := true, kind := kind, src := .sp 0 0, dst := .va 0, count := count, layout := layout, aux := 1 }
    let meets (k : Cmd) (m : Nat) (new : List Byte) : Bool := match (cmds [k]).reach 0 k (k.nmSpan 0).a [pER, pEW] with
      | (.at_ .hbm pa, t) => (match t.hbmRead pa m, t.hbmWrite pa new with
        | .ok bs, .ok u => bs.length == m && t.cmd? 0 0 == some k && u.cmd? 0 0 == some k && !t.channelFailed (t.homeOf (pageOf pa) + pa % 65536)
            && !u.channelFailed (u.homeOf (pageOf pa) + pa % 65536)
        | _, _ => false)
      | _ => false
    (∀ k ∈ [n .nmred 3 4, n .nmsax 9 4, n .nmcas 0 8], k.kind.near = true ∧ 0 < k.nmUnits ∧ k.done.contains 0 = false ∧ (cmds [k]).unitSent 0 0 0 = false
        ∧ (cmds [k]).nmTurn 0 k 0 = true ∧ (cmds [k]).nmBlocked 0 k 0 = false ∧ (cmds [k]).unitHeld 0 k (k.nmSpan 0).a = false)
      ∧ (∀ c a, State.reset.spPoisoned c a 1 = false) ∧ (n .nmred 3 4).nmSize = 4 ∧ meets (n .nmred 3 4) 4 [5, 0, 0, 0] = true
      ∧ meets (n .nmsax 9 4) 4 [0, 0, 0, 0] = true ∧ meets (n .nmcas 0 8) 8 [1, 0, 0, 0, 0, 0, 0, 0] = true := by
  refine ⟨by decide +kernel, fun _ _ => rfl, by decide +kernel⟩

/-- R288, R431, R437: a doubly compared copy into HBM whose copies differ writes nothing; its arrivals end with ERR 0x05. One that agrees is
written. -/
theorem test_copy_mismatch :
    let k : Cmd := { copy0 with started := true, src := .sp 0 0, dst := .va 0, pcl := 1 }
    let s := ((cmds [k]).onA 0 fun a => { a with sstat := 3 }).spWrite 0 0 [7]
    let t (c : Cmp) : State := after (exec (.hbmUnitAccess 0 0 0 [c]) s)
    (t .differ).hbm.byte 0x1234000000 = 0 ∧ bits ((t .differ).spReadN 0 4096 8) 47 42 = 5 ∧ ((t .differ).cl 0).a.due.map (·.code) = some 7
      ∧ (t .agree).hbm.byte 0x1234000000 = 7 := by decide +kernel

theorem witness_refusals :
    let l := { acc 7 3 8 .hbm 0x1234000000 with va := 0x40 }
    let s (st : PageSt) : State :=
      { (mach fun c => { c with a := { c.a with loads := [l], sstat := 3, tlb := [{ cid := 0, vpn := 0, big := false, leaf := 0x12340002DD }] } })
        with pages := [(pageOf 0x1234000000, st)] }
    let late : Acc := l
    (((s .flipping).cl 0).a.accs.find? fun l => l.seq == 7 && l.pending && l.place == .hbm) = some l ∧ (s .flipping).pageSt (pageOf l.pa) = .flipping
      ∧ (s .offline).pageSt (pageOf l.pa) = .offline ∧ late.late = none ∧ l.cid = 0 ∧ ((s .offline).cl 0).a.mode = .s ∧ ((s .offline).cl 0).a.sstat.getLsbD 1 = true := by
  decide +kernel

theorem witness_refused_translates_anew :
    let l := { acc 7 3 8 .hbm 0x1234000000 with va := 0x40 }
    let s : State := { mach (fun c => { c with a := { c.a with loads := [l] } }) with pages := [(pageOf 0x1234000000, .flipping)] }
    let t : State := s.dropVa 0 0x40
    (match (t.onA 0 fun a => { a with tlb := [{ cid := 0, vpn := 0, big := false, leaf := 0x12350002DD }] }).resolve 0 0 0x40 .acore [pER] with
      | (.at_ p pa, _) => decide (p = .hbm ∧ pa = 0x1235000040)
      | _ => false) = true := by decide +kernel

theorem witness_flit_failures :
    let k : Cmd := { copy0 with started := true }
    (cmds [k]).cmd? 0 0 = some k ∧ k.kind.plain = true ∧ 0 < k.srcUnits ∧ k.src = .va 0 ∧ k.got.contains 0 = false ∧ 8 ≤ 8 := by decide +kernel

/-- A message of cluster 1 to cluster 0. -/
def mail1 : MailMsg := { srcChip := 0, srcCl := 1, chip := 0, cl := 0, cid := 0, id := 5, tag := 9, payload := [1, 2] }

/-- The machine with that message in flight and a mailbox of 16 entries on cluster 0, with `n` of them taken. -/
def boxed (n : Nat) : State :=
  let s := mach fun c => { c with ctl := { c.ctl with mbox := BitVec.ofNat 64 (4 * 2 ^ 22 + 2 ^ 26), mbTail := n } }
  { s with mailFlight := [mail1], dev := { s.dev with clsvc := 2 ^ 192 - 1 } }

theorem witness_mailbox_entries :
    let s := boxed 0
    let c := (s.cl 0).ctl
    let taken (s : State) : Nat := ((s.cl 0).ctl.mbTail + 2 ^ 32 - ofBytes ((s.cl 0).sp.read (s.cl 0).ctl.mbBase 8) % 2 ^ 32) % 2 ^ 32
    mail1.chip = s.dev.chip ∧ mail1.srcChip = s.dev.chip ∧ s.mailFlight.contains mail1 = true ∧ mail1.payload.length ≤ 56 ∧ s.inService 0 = true
      ∧ c.mbEn = true ∧ mail1.cid = c.mbOwner ∧ taken s < c.mbSize ∧ c.mbCons = false ∧ s.spPoisoned 0 c.mbBase 8 = false
      ∧ s.spBlocked 1 none true 0 (c.mbSlot 0) 64 = false ∧ s.spPoison = []
      ∧ c.retrainEnd = none ∧ c.held = false
      ∧ c.mbSize ≤ taken (boxed 16)
      ∧ State.reset.inService 0 = false ∧ (State.reset.cl 0).ctl.mbEn = false := by decide +kernel

/-- A message and an ICINV message from chip 5, behind port 0. -/
theorem witness_messages_of_another_chip :
    let s : State := { boxed 0 with dev := { (boxed 0).dev with routes := [(5, [0])] }, ports := [(0, { Port.reset with up := true })] }
    s.dev.chip = 0 ∧ s.fencedChip 5 = false ∧ s.upPorts 5 ≠ [] := by decide +kernel

theorem witness_mailbox_answers :
    let k : Cmd := { copy0 with kind := .msend, src := .none, dst := .none, count := 8, aux := 1, started := true, stamp := none }
    let s (st : MailStatus) : State := { cmds [k] with outbox := [(0, .mailAck 0 0 3 st)] }
    let w : State := { cmds [{ k with stamp := some 10 }] with clk := 266 }
    (∀ st ∈ [MailStatus.delivered, .full, .disabled], (s st).outbox.contains ((s st).dev.chip, .mailAck 0 0 3 st) = true)
      ∧ (s .full).cmd? 0 0 = some k ∧ k.aux / 2 ^ 8 % 64 = (s .full).dev.chip ∧ k.mode = .s
      ∧ w.cmd? 0 0 = some { k with stamp := some 10 } ∧ w.fencedChip w.dev.chip = false ∧ 10 + 256 ≤ w.clk
      ∧ (cmds [k]).clk < 10 + 256 := by decide +kernel

/-- A node of context 0 with 4 tasks. -/
def node4 : Node := { (nodeOf 0 0 0 0 0) with loops := [(4, 2)], st := .ready, poolSeq := 1 }

/-- A device whose context 0 is resident with all quads bound, node 4 in its pool, and cluster 0 as given. -/
def busy (n : Node) (f : Cluster → Cluster) : State :=
  let s := (State.reset.onCl 0 f).onCtx 0 fun c => { c with resident := true }
  { s with dev := { s.dev with clsvc := 1 }, hbm := Memory.writeN [] 48 6 1, disp := { s.disp with nodes := [(4, some n)] } }

/-- A cluster with a task of node 4. -/
def onTask (o : Occ) (c : Cluster) : Cluster := { c with ctl := { c.ctl with occ := o, node := 4 } }

theorem witness_preemption_request :
    let s (m : Mode) : State :=
      let t := mach fun c => { onTask .running c with a := { c.a with mode := m, run := .run } }
      { t with disp := { t.disp with pending := [(0, 1)] } }
    (∀ m ∈ [Mode.t, .s], (((s m).cl 0).ctl.occ = .running ∧ ((s m).cl 0).x.trap = none ∧ ((s m).cl 0).a.mode = m))
      ∧ ((0, 1) : Nat × Nat) ∈ (s .t).disp.pending ∧ ((0, 1) : Nat × Nat).1 = 0 := by decide +kernel

theorem witness_preemption_halt :
    let z : List Byte := List.replicate 64 0
    let s := mach fun c => { onTask .halting c with
      ctl := { (onTask .halting c).ctl with preempt := true }, a := { c.a with run := .frozen, mode := .t },
      x := { c.x with run := .run, freeze := some .queue, semGot := some 1, ckpt := some 0, icache := [{ cid := 0, addr := 0, va := 0, data := z }, { cid := 0, addr := 64, va := 64, data := z }] } }
    s.halting 0 = true ∧ (s.cl 0).x.trap = none ∧ (s.cl 0).x.haltPoint = some (true, false) ∧ (s.cl 0).vigilSame = true ∧ (s.cl 0).x.ckpt = some 0
      ∧ (match s.tabRead 0 0 with | .got v _ => tabUsable v | _ => false) = true := by decide +kernel

/-- The same halt without a live-range table: its task of node 4 is aborted. -/
theorem witness_halt_without_table :
    let s := busy node4 fun c => { c with ctl := { (onTask .halting c).ctl with preempt := true }, a := { c.a with run := .frozen, mode := .t },
                                          x := { c.x with run := .ended } }
    s.halting 0 = true ∧ (s.cl 0).a.run = .frozen ∧ (s.cl 0).x.trap = none ∧ (s.cl 0).x.haltPoint = some (true, true) ∧ (s.cl 0).vigilSame = true
      ∧ (s.cl 0).x.ckpt = none ∧ (s.cl 0).ctl.occ = .halting ∧ s.node? (s.cl 0).ctl.node = some node4 ∧ node4.failing = 0
      ∧ (∀ r ∈ node4.susp, r.task ≠ (s.cl 0).ctl.task) := by decide +kernel

theorem witness_preemption_save :
    let s := busy node4 fun c => { onTask .saving c with x := { c.x with run := .halted true false 0 } }
    (s.cl 0).x.run = .halted true false 0 ∧ (s.cl 0).ctl.occ = .saving ∧ s.accsSaved 0 = true ∧ (s.cl 0).a.due = none ∧ (s.cl 0).arr.drain = none ∧ (s.cl 0).arr.passes = [] ∧ (∀ k ∈ s.taskCmds 0, k.savedAfter 0 = false)
      ∧ s.node? (s.cl 0).ctl.node = some node4 ∧ node4.failing = 0 := by decide +kernel

theorem witness_preemption_resume :
    let h := mach fun c => { onTask .saving c with x := { c.x with run := .halted true false 0 } }
    let r := h.suspension 0 true 0
    let n : Node := { node4 with susp := [r] }
    let s := busy n (onTask .restoring)
    (s.cl 0).ctl.occ = .restoring ∧ s.node? (s.cl 0).ctl.node = some n ∧ n.susp.find? (fun r => r.task == (s.cl 0).ctl.task) = some r
      ∧ r.x.run = .halted true false 0 ∧ (∀ q ∈ r.arr.arrayE, q.failed = false) := by
  refine ⟨by decide +kernel, by rfl, by rfl, by decide +kernel, by decide +kernel⟩

/-- What the clauses of a resume on scratchpad, towers and buffers ask: a record with a byte in a saved range of each, and a table that saves both. -/
theorem witness_resume_ranges :
    let v := 2 ^ 96 + 2 ^ 100 + 32 * 2 ^ 278 + 64 * 2 ^ 786
    let c := State.reset.cl 0
    c.sp.wf = true ∧ Memory.wf [(0, 7)] = true ∧ c.tw.wf = true ∧ (∀ x ∈ tabTw v, x.1 + x.2 ≤ 2 ^ 18)
      ∧ (∀ e ∈ ([(0, 7)] : Memory), inRanges (tabSp v) e.1 = true) ∧ (∀ e ∈ ([(0, 7)] : Memory), inRanges (imageRanges v) e.1 = true)
      ∧ (∀ k < 64, ∀ b < 16, c.ctl.twSelOf k b ≠ 3 ∧ ∀ b' < 16, b' ≠ b → twBankOf b' (c.ctl.twSelOf k b') ≠ twBankOf b (c.ctl.twSelOf k b))
      ∧ (State.reset.ctx 0).savedBufs = [] := by decide +kernel

theorem witness_placement :
    let s := { busy node4 id with disp := { (busy node4 id).disp with upre := false } }
    s.firstPlaceable s.serviceOrder = some (4, node4, 0, 0) ∧ s.disp.upre = false ∧ s.disp.preempts = s.inFlight ∧ (∀ p ∈ s.serviceOrder, s.descBad p.2.cid = false)
      ∧ (s.cl 0).ctl.dataCid ≠ some node4.cid ∧ (s.onCl 0 fun c => { c with ctl := { c.ctl with dataCid := some 0 } }).cur.ctl.dataCid = some node4.cid
      ∧ (∀ g < 64, ∀ b < 16, s.cur.ctl.twSelOf g b ≠ 3) := by decide +kernel

theorem witness_victim :
    let u : Node := { node4 with prio := 3, order := 1 }
    let b := busy u (onTask .running)
    let s : State := { b with disp := { b.disp with nodes := [(4, some { node4 with poolSeq := 0 }), (5, some u)] } }
    s.firstPlaceable s.serviceOrder = none ∧ s.disp.upre = true ∧ s.urgentTask s.serviceOrder = some (5, 0, 0)
      ∧ s.disp.preempts = s.inFlight ∧ (∀ p ∈ s.serviceOrder, s.descBad p.2.cid = false) := by
  decide +kernel

theorem witness_task_runs :
    let p := busy node4 (onTask .placed)
    let e := busy node4 fun c => { onTask .running c with a := { c.a with run := .exited, mode := .t }, x := { c.x with run := .ended } }
    (p.cl 0).ctl.occ = .placed ∧ p.node? (p.cl 0).ctl.node = some node4 ∧ (e.cl 0).ctl.occ = .running ∧ e.taskOver 0 = true
      ∧ e.node? (e.cl 0).ctl.node = some node4 ∧ node4.failing = 0 ∧ (∀ r ∈ node4.susp, r.task ≠ (e.cl 0).ctl.task)
      ∧ e.runsOn (e.cl 0).ctl.node (e.cl 0).ctl.task = some 0 ∧ NMap.get 0 node4.rung4 (e.cl 0).ctl.task + 1 < e.dev.taskLimit
      ∧ e.dev.taskLimit ≤ e.dev.taskLimit - 1 + 1 := by decide +kernel

theorem witness_completion_record :
    let n : Node := { node4 with st := .done 0 }
    let s : State := { busy n id with queues := [(0, { Queue.reset with qcfg := 16, pcfg := 8 })] }
    let r : State := busy { n with origin := 1 } id
    s.node? 4 = some n ∧ s.nodeOver 4 n = some 0 ∧ n.origin = s.dev.chip ∧ (s.queue 0).en = true
      ∧ ((s.queue 0).ctail + 1) % 2 ^ (s.queue 0).plog ≠ (s.queue 0).chead ∧ (∀ p ∈ s.nodeList, p.1 = 4)
      ∧ r.nodeOver 4 { n with origin := 1 } = some 0 ∧ ({ n with origin := 1 } : Node).origin ≠ r.dev.chip := by decide +kernel

theorem witness_barriers :
    let n : Node := { node4 with id := 4, originId := 4, st := .barrier, chipmask := 3, readyMask := 1 }
    let s := busy n id
    let p := busy { n with readyMask := 0 } id
    let r := busy { n with origin := 1, originId := 77 } id
    let go := busy { n with started := true, ts := 0 } id
    let later := busy { n with started := true, ts := 5 } id
    let again := busy { n with refusals := 1 } id
    s.entryOf 4 = some 4 ∧ s.node? 4 = some n ∧ (n.readyMask ||| chipBit 1) &&& n.chipmask = n.chipmask ∧ n.started = false ∧ n.st = .barrier
      ∧ p.entryOf 4 = some 4 ∧ ((0 : BitVec 64) ||| chipBit 1) &&& 3 ≠ (3 : BitVec 64)
      ∧ r.replicaOf (2 ^ 26 / 2 ^ 26 % 64) 77 = some 4 ∧ (999 : Nat) < r.gtc + 1000 ∧ r.gtc + 1000 ≤ (1000 : Nat)
      ∧ go.node? 4 = some { n with started := true, ts := 0 } ∧ (0 : Nat) ≤ go.gtc ∧ later.gtc < 5 ∧ n.failing = 0
      ∧ n.chipmask.getLsbD 1 = true ∧ n.refusals = 0 ∧ again.node? 4 = some { n with refusals := 1 }
      ∧ n.origin = s.dev.chip ∧ n.reports.getLsbD 1 = false ∧ r.replicaOf 1 78 = none := by decide +kernel

theorem witness_replicas :
    let n : Node := { node4 with id := 4, origin := 1, originId := 77 }
    let s := busy n id
    let tr := busy { node4 with repls := [(9, 8, 64)] } id
    (State.reset.acceptNode 0 0 1 77).isSome = true ∧ State.reset.replicaOf 1 77 = none ∧ (State.reset.queue 0).fwds = [] ∧ (State.reset.queue 0).en = false
      ∧ ({ Queue.reset with qcfg := 16, tail := 1 } : Queue).en = true ∧ s.replicaOf 1 77 = some 4
      ∧ s.disp.nodes.find? (fun p => p.2.any fun n => n.originId == 77 && n.origin != s.dev.chip) = some (4, some n) ∧ s.node? 4 = some n
      ∧ tr.node? 4 = some { node4 with repls := [(9, 8, 64)] } := by decide +kernel

/-- A replica that is accepted at once. -/
theorem witness_replica_accepted :
    let v := State.reset.queue 0
    let held := { v with fwds := [{ mark := v.tail, src := 1, id := 77, desc := ofDwords [], repls := [] }] }
    (match (State.reset.setQueue 0 held).acceptNode (ofDwords []) 0 1 77 with
      | some (_, t) =>
        let u := t.setQueue 0 { t.queue 0 with fwds := [] }
        (match u.replicaOf 1 77 with
        | some e => (u.node? e).any fun n => n.repls.isEmpty
        | none => false)
      | none => false) = true := by decide +kernel

theorem witness_fault_batches :
    let f : FRec := { page := 3, kind := 1, acc := 0, agent := 0, node := 0, task := 0, gtc := 0 }
    let s : State := State.reset.onCtx 0 fun c => { c with recs := [f] }
    let b : Batch := { coarse := false, bseq := 0, nrec := 1, gtc := 0, ranges := rangesOf [f] }
    let w : State := { (State.reset.onCtx 0 fun c => { c with held := [b] }) with host := { State.reset.host with fcfg := 16 } }
    (s.ctx 0).openedAt + s.desc 0 / 2 ^ 320 % 2 ^ 16 * 100 ≤ s.gtc ∧ (s.ctx 0).recs ≠ [] ∧ s.descBad 0 = false ∧ (s.ctx 0).held.length < 256
      ∧ (w.ctx 0).held = [b] ∧ w.host.fcfg.getLsbD 4 = true ∧ b.ranges.length = 1 ∧ 1 < ringFree w.host.fsize w.host.fhead w.host.ftail := by decide +kernel

/-- A record of rung 7 of channel 0, stamped 0. -/
def rec7 : ErrRec :=
  { gtc := 0, src := 0x2000, rung := 7, event := 0x0C, cid := 0, code := 0, detail := 0, addr := 0, info := 0, count := 1, tval := 0 }

theorem witness_reports :
    let c : ErrRec := { rec7 with src := 0x1000, rung := 1, event := 1 }
    let h (v : BitVec 64) : State :=
      let s : State := { State.reset with gtc := 4000, rel := { State.reset.rel with held := [rec7] } }
      { s with dev := { s.dev with erbase := v } }
    let q (w e : List ErrRec) : State :=
      { State.reset with host := { State.reset.host with ecfg := 16 }, rel := { State.reset.rel with evWait := w, evHold := e } }
    State.reset.recordOk rec7 = true ∧ State.reset.recordOk c = true ∧ up.noSpare (clCol (c.src / 16 - 0x100)) = false
      ∧ firstRec (h 0).rel.held = some rec7 ∧ rec7.gtc + 4000 ≤ (h 0).gtc ∧ (h 0).dev.erEn = false ∧ rec7.rung = 7
      ∧ (h (2 ^ 63)).dev.erEn = true ∧ ((h (2 ^ 63)).dev.erHead + 1) % (h (2 ^ 63)).dev.erSize ≠ (h (2 ^ 63)).dev.erTail
      ∧ (h (2 ^ 63)).channelFailed ((h (2 ^ 63)).dev.erAddr) = false
      ∧ (q [rec7] []).host.ecfg.getLsbD 4 = true ∧ 1 ≤ ringFree (q [] [rec7]).host.esize 0 0 ∧ (q [rec7] []).rel.evWait = [rec7]
      ∧ (q [] [rec7]).rel.evWait = [] ∧ (q [] [rec7]).rel.evHold = [rec7] := by decide +kernel

/-- A machine of which a shoot-down of its own, numbered 64, awaits chip 1. -/
def shooting (r : Bool) : State :=
  let x : Shoot := { id := 64, num := 0, scope := .all, owner := .core 0, mask := 0, expect := 2, sentAt := 0, resent := r, fencedMask := 0 }
  { State.reset with gtc := 100000000, shoots := [x] }

theorem witness_shoot_downs :
    let x : Shoot := { id := 64, num := 0, scope := .all, owner := .core 0, mask := 0, expect := 2, sentAt := 0, resent := false, fencedMask := 0 }
    (shooting false).fencedChip 1 = false ∧ (shooting false).shoot? 64 = some x ∧ (1 : Nat) = popc (2 : BitVec 64).toNat 64
      ∧ (0 : Nat) ≠ popc (2 : BitVec 64).toNat 64 ∧ x.rooted = true ∧ (shooting false).missing x ≠ 0
      ∧ x.sentAt + (shooting false).dev.sdtmoNs ≤ (shooting false).gtc ∧ x.resent = false
      ∧ (shooting true).shoot? 64 = some { x with resent := true } ∧ (shooting true).missing { x with resent := true } ≠ 0
      ∧ (1 : Nat) ≠ (shooting true).dev.chip := by decide +kernel

theorem witness_migrations :
    let m (r : Nat) : Mig := { src := 5, dst := 6, round := r, todo := [0, 255], mappers := [], pend := [], queue := 0, retire := false }
    let s (r : Nat) (d : List Nat) : State := { State.reset with migs := [m r], pages := [(5, .copying d)] }
    let x : Shoot := { id := 64, num := 0, scope := .all, owner := .flip 5, mask := 0, expect := 0, sentAt := 0, resent := false, fencedMask := 0 }
    let f : State := { s 1 [] with shoots := [x] }
    (s 0 []).mig? 5 = some (m 0) ∧ (s 0 [1]).pageSt 5 = .copying [1] ∧ (m 0).round = 0 ∧ 8 < (List.range 9).length ∧ (m 3).round < 4
      ∧ (s 3 (List.range 9)).pageSt 5 = .copying (List.range 9) ∧ (s 3 []).hbmPoison = [] ∧ (s 3 []).chanFailed = [] ∧ (m 3).src ≠ (m 3).dst
      ∧ (∀ k ∈ (m 3).todo, k < 256) ∧ (s 1 (List.range 8)).mig? 5 = some (m 1) ∧ (s 4 (List.range 9)).mig? 5 = some (m 4)
      ∧ (s 1 []).mappersDone 5 = true ∧ ({ s 1 [] with migs := [{ m 1 with pend := [{ chip := 0, kind := 0, addr := 0 }] }] } : State).mappersDone 5 = false
      ∧ ({ s 1 [] with pages := [(5, .flipping)] } : State).pageSt 5 = .flipping ∧ (s 1 []).shoots.find? (fun x => x.owner == .flip 5) = none
      ∧ f.mig? 5 = some (m 1) ∧ f.shoots.find? (fun x => x.owner == .flip 5) = some x ∧ f.shootDone x = true := by decide +kernel

theorem witness_upkeep :
    let s (f : Ctl → Ctl) : State := { (mach fun c => { c with ctl := f c.ctl }) with clk := 2048, gtc := 10 ^ 9, dev := { State.reset.dev with clsvc := 1 } }
    let z := s id
    let r := s fun c => { c with refreshing := [(15, true)] }
    let busy := s fun c => { c with occ := .running }
    let used := s fun c => { c with remap := [(63, BitVec.ofNat 64 (2 ^ 32 + 2 ^ 33))] }
    let e := s fun c => { c with retrainEnd := some 5 }
    let p : State := { z with dev := { z.dev with ready := true } }
    let wakes : State := mach fun c => { c with
      ctl := { c.ctl with asleep := [(15, true)] },
      x := { c.x with freeze := some .tower, land := [{ due := 1, issued := 0, slot := 0, pcl := 0, eff := .twld 0 1 [(0, 15 * 16384)], vig := none }] } }
    NMap.get false (z.cl 0).ctl.refreshing 15 = false ∧ NMap.get 0 (z.cl 0).ctl.lastAcc (16 * 63 + 15) + 2048 ≤ z.clk ∧ Nat.min ((z.cl 0).ctl.dueOf 15) (NMap.get 0 (z.cl 0).ctl.refreshedAt 15 + (z.dev.ivl + z.dev.maxDef) * 10 ^ 8) ≤ z.gtc ∧ (z.cl 0).x.banksAt ((z.cl 0).x.vcyc + 1) = []
      ∧ (wakes.cl 0).x.freeze = some .tower ∧ (∃ k ∈ (wakes.cl 0).x.banksAt 1, k % 16 = 15 ∧ (wakes.cl 0).ctl.bankAsleep k = true)
      ∧ NMap.get false (r.cl 0).ctl.refreshing 15 = true ∧ z.inService 0 = true ∧ (busy.cl 0).drained = false ∧ (used.cl 0).drained = true
      ∧ spareFree (NMap.get 0 (used.cl 0).ctl.remap 63).toNat 1 = false ∧ spareFree (NMap.get 0 (used.cl 0).ctl.remap 63).toNat 2 = false
      ∧ spareFree (NMap.get 0 (z.cl 0).ctl.remap 63).toNat 1 = true ∧ (z.cl 0).drained = true ∧ (z.cl 0).tw.wf = true
      ∧ p.dev.ready = true ∧ p.dev.bootedAt + 1000 * (p.dev.intervals + 1) ≤ p.gtc ∧ p.inService 0 = true
      ∧ (z.cl 0).ctl.retrainEnd = none ∧ z.retrainAt 0 ≤ z.gtc ∧ z.awaited 0 = false
      ∧ z.retrainAt 0 + 200000 ≤ z.gtc ∧ (e.cl 0).ctl.retrainEnd = some 5 ∧ 5 ≤ e.gtc := by decide +kernel

/-- The bounds on the grants are met where the energies, free values all, are 0. -/
theorem witness_power_bounds (h : ∀ k q, Config.otherEnergy [] k q = 0) : State.reset.powerOk (fun _ => 1250) = true := by
  have e : State.reset.dev.image.energies = [] := by decide +kernel
  have p : State.reset.dev.spent = [] := by decide +kernel
  have q : ∀ k, State.reset.quadEnergy (fun _ => 1250) k = fun _ => 0 := by intro k; funext q; simp only [State.quadEnergy, e, h]; simp
  simp only [State.powerOk, State.packageEnergy, q, p]
  simp

theorem witness_scrubs :
    let p (o : Bool) : Scrub := { unit := .hbm 0, data := List.replicate 64 1, overtaken := o }
    let s (o : Bool) : State := { up with rel := { up.rel with scrubs := [p o] } }
    (∀ u ∈ [MemUnit.hbm 0, .sp 191 98303, .tw 0 63 4095, .acc 0 131071, .pe 0 131071, .file 0 0], up.unitOk u = true)
      ∧ (up.onA 0 fun a => { a with l1 := [{ cid := 0, addr := 64, va := 64, data := [] }] }).unitOk (.l1 0 1) = true
      ∧ (∀ o ∈ [true, false], (s o).rel.scrubs.find? (fun p => p.unit == .hbm 0) = some (p o)) ∧ (s false).unitOk (.hbm 0) = true
      ∧ (s false).channelFailed (64 * 0) = false ∧ ({ s false with chanFailed := List.range 512 } : State).channelFailed (64 * 0) = true
      ∧ (p false).data.length = 64 ∧ 511 ∉ up.dev.failed ∧ 511 ∉ up.chanFailed := by decide +kernel

theorem witness_retirements :
    let s : State := { up with rel := { up.rel with asked := [3] } }
    let full : State := { s with rel := { s.rel with failedRows := [(3, 12)] } }
    let r (n : Nat) : Retire := { col := 3, row := 5, next := n, since := 0, cl := 83 }
    let m (n : Nat) : State := { up with rel := { up.rel with retiring := [r n] } }
    let low : Retire := { col := 3, row := 12, next := 5, since := 0, cl := 83 }
    let l : State := { up with rel := { up.rel with retiring := [low] } }
    s.retire? (clCol 3) = none ∧ s.inService 3 = true ∧ s.retireDue 3 = true ∧ s.noSpare (clCol 3) = false ∧ full.retireDue 3 = true
      ∧ full.noSpare (clCol 3) = true ∧ (m 5).retire? (clCol 83) = some (r 5) ∧ (m 12).retire? (clCol 179) = some (r 12)
      ∧ (m 12).physRow 179 = 11 ∧ (∀ n ∈ (m 12).heldRange 3 5, ((m 12).cl n).drained = true) ∧ l.retire? (clCol 99) = some low
      ∧ l.physRow 99 = 6 ∧ (m 12).rel.remaps = [] ∧ (∃ e ∈ [(83, 0, 0)], (m 12).inService e.1 = true ∧ e.1 ∈ (m 12).heldRange 3 5)
      ∧ ((m 12).onCl 83 (onTask .running)).cur.ctl.occ ≠ .saving ∧ (((m 12).onCl 83 (onTask .running)).cl 83).ctl.occ = .running ∧ 0 + 625 ≤ ({ m 12 with clk := 625 } : State).clk
      ∧ (let old := NMap.get Cluster.reset (m 12).clusters (16 * 12 + 3)
        old.tw.wf = true ∧ ∀ k < 64, ∀ b < 16, twBankOf b (old.ctl.twSelOf k b) < 18 ∧ ∀ b' < 16, twBankOf b (old.ctl.twSelOf k b) = twBankOf b' (old.ctl.twSelOf k b') → b = b')
      ∧ (m 12).inService 83 = true ∧ 83 ∈ (m 12).heldRange 3 5 ∧ up.noSpare 3 = false ∧ up.retire? 3 = none := by decide +kernel

/-- The machine with a valid context 1 whose snapshot slot 0 is as given. -/
def snapped (n : Snap) : State :=
  let s := State.reset.onCtx 1 fun c => (c.setSnap 0 n)
  { s with gtc := 200000, hbm := Memory.writeN [] 64 64 (2 ^ 12) }

theorem witness_groups :
    let n : Snap := { Snap.free with st := .armed, t := 100, mask := 3, answers := 0 }
    let st (st : SnapSt) : Snap := { n with st := st }
    let x (m : Snap) : Snap := ((snapped m).ctx 1).snap 0
    let o : Snap := { n with st := .pending, origin := 1 }
    let far : State := { snapped o with dev := { (snapped o).dev with fenced := 2 } }
    (x n).st = .armed ∧ (x n).t ≠ 0 ∧ (x n).t ≤ (snapped n).gtc ∧ (x n).st.isLive = true ∧ (snapped n).ctxValid 0 = false
      ∧ (snapped Snap.free).ctxValid 1 = true ∧ (x Snap.free).st.isLive = false ∧ (x n).origin = (snapped n).dev.chip ∧ (x n).mask.getLsbD 1 = true
      ∧ (snapped n).gtc + 1000 < (x { n with t := 201001 }).t ∧ (x n).confirmed = false ∧ (x n).refused.getLsbD 1 = false ∧ (snapped n).undecided (x n) = true
      ∧ (∀ k ∈ (snapped n).others (x n).mask, (x { n with answers := 2 }).answers.getLsbD k = true ∧ (x { n with answers := 2 }).refused.getLsbD k = false)
      ∧ (∃ k ∈ (snapped n).others (x n).mask, (x n).answers.getLsbD k = false ∨ (x n).refused.getLsbD k = true)
      ∧ far.fencedChip 1 = true ∧ far.dev.chip ≠ 1 ∧ (x { n with cancelled := true }).cancelled = true
      ∧ (x (st .pending)).st = .pending ∧ (x o).origin ≠ (snapped o).dev.chip ∧ Nat.max (x o).t (x o).lastProg + 100000 ≤ (snapped o).gtc
      ∧ (x (st .failed)).st = .failed ∧ (x { n with confirmed := true }).confirmed = true ∧ (x n).st ≠ .free ∧ (x n).origin = (snapped n).dev.chip
      ∧ (snapped n).others (x n).mask ≠ [] ∧ (x { n with cancelled := true }).confirmed = false ∧ (x { n with past := [(7, true), (9, false)] }).t ≠ 9
      ∧ (x { n with past := [(7, true), (9, false)] }).past.find? (fun p => p.1 == 9) = some (9, false)
      ∧ ((snapped n).gtc < 300000 ∧ (x { n with t := 201000 }).t ≤ (snapped n).gtc + 1000) := by decide +kernel

/-- The machine whose context 1 decants slot 0, of page 5, to host memory or to chip 1. -/
def decants (n : Snap) (kind : Nat) (pages : Bool) : State :=
  let s := (snapped { n with st := .live }).onCtx 1 fun c => { c with scb := 2 ^ 256 * (kind + 2 ^ 2 + 10 * 2 ^ 36) }
  { s with tags := if pages then [(5, 1)] else [] }

theorem witness_decants :
    let n : Snap := { Snap.free with header := true }
    let d := decants n 1 true
    let z := decants n 1 false
    let l : State := d.onCtx 1 fun c => c.setTx 0 { Tx.free with st := .voted }
    let w : State := { l with tags := [(5, 1 + 2 ^ 48)] }
    (d.ctx 1).decanting = some 0 ∧ ((decants { n with header := false } 1 true).ctx 1).decanting = some 0
      ∧ (match (decants { n with header := false } 1 true).decantBegin 1 0 with | some (some _) => true | _ => false) = true
      ∧ d.nextDecant 1 0 = some (5, 5 * 65536, false) ∧ d.sealed 5 = false ∧ w.nextDecant 1 0 = some (5, 5 * 65536, false) ∧ w.sealed 5 = true ∧ (d.decantTo 1 0 (d.decantRecord 5 (5 * 65536) false)).isSome = true
      ∧ tgtKind ((d.ctx 1).tgt 0) = 1 ∧ z.nextDecant 1 0 = none ∧ ((z.ctx 1).snap 0).pos < ((z.ctx 1).snap 0).streamLen
      ∧ (z.decantTo 1 0 ((z.ctx 1).snap 0).trailer).isSome = true ∧ tgtKind (((decants n 2 false).ctx 1).tgt 0) = 2
      ∧ ((decants n 2 false).decantTo 1 0 ((z.ctx 1).snap 0).trailer).isSome = true
      ∧ (((decants { n with pos := 128 } 2 false).ctx 1).snap 0).streamLen ≤ 128 ∧ (∀ r ∈ z.reqs, r.owner ≠ .decant 1 0 ((z.ctx 1).snap 0).t)
      ∧ (0 : Nat) + ({ z with gtc := 10 ^ 9 } : State).dectmo ≤ 10 ^ 9 := by decide +kernel

/-- The machine whose context 1 has transaction slot 0 as given. -/
def voting (x : Tx) : State := { State.reset.onCtx 1 fun c => c.setTx 0 x with gtc := 2000000 }

theorem witness_votes :
    let x : Tx := { Tx.free with st := .voted, txid := 7, mask := 3, votes := 1, begun := 1999999 }
    let d : Tx := { x with st := .decided, tc := 2000001 }
    let y (x : Tx) : Tx := ((voting x).ctx 1).tx 0
    (y Tx.free).st = .free ∧ (y x).st = .voted ∧ (y x).mask.getLsbD 1 = true ∧ (y x).votes ||| chipBit 1 = (y x).mask
      ∧ (voting x).gtc < (y x).begun + (voting x).votetmo ∧ (y { x with mask := 7 }).votes ||| chipBit 1 ≠ (7 : BitVec 64)
      ∧ (y { x with st := TxSt.open }).st = TxSt.open ∧ coordOf (y x).mask = (voting x).dev.chip
      ∧ (y { x with begun := 0 }).begun + (voting x).votetmo ≤ (voting x).gtc ∧ (y d).st = .decided ∧ (voting d).gtc < (y d).tc
      ∧ (y { d with tc := 5, acks := 3 }).tc ≤ (voting d).gtc ∧ ((3 : BitVec 64) &&& 3 = 3) ∧ ((1 : BitVec 64) &&& 3 ≠ 3)
      ∧ ((voting { d with tc := 5, acks := 3 }).txOutcome 1 0 5 0).2 = true ∧ ((voting x).txOutcome 1 0 5 0).2 = true ∧ (y x).mask.getLsbD 2 = false
      ∧ (y x).votes ≠ (y x).mask
      ∧ coordOf (y { x with mask := 6 }).mask ≠ (voting x).dev.chip ∧ (y x).lastAsk + 100000 ≤ (voting x).gtc
      ∧ (y { x with st := .committed }).st = .committed ∧ (y { x with st := .aborted }).st = .aborted
      ∧ (voting x).fencedChip 1 = false ∧ (voting x).dev.chip ≠ 1
      ∧ ((voting x).remembered.find? fun r => r.src == (⟨1, .samovar⟩ : TagSource) && r.tag == 3) = none
      ∧ (({ voting x with remembered := [{ src := ⟨1, .samovar⟩, tag := 3, at_ := 0, st := .done, data := [] }] } : State).remembered.find?
          fun r => r.src == (⟨1, .samovar⟩ : TagSource) && r.tag == 3).isSome = true
      ∧ (y { x with begun := 0 }).mask.getLsbD 1 = true ∧ 8 ≠ (y x).txid ∧ (7 : BitVec 64) ≠ (y x).mask ∧ 7 = (y x).txid := by decide +kernel

theorem witness_fold :
    let s : State := { State.reset with tags := [(5, 1 + 2 * 2 ^ 48)] }
    tagMode (s.tag 5) = 2 ∧ s.pageSt 5 = .inService ∧ s.hbm.wf = true ∧ s.chanFailed = [] := by decide +kernel

/-- The descriptor of context 1: tables of four entries in the reserved region. -/
def desc1 : Nat := 1 + 0x17C800000 * 2 ^ 134 + 4 * 2 ^ 192 + 4 * 2 ^ 224 + 0x17CC00000 * 2 ^ 262 + 2 ^ 336
/-- A command header. -/
def hdr (opc npay cid a b c : Nat) : Nat := opc + npay * 2 ^ 8 + cid * 2 ^ 16 + a * 2 ^ 64 + b * 2 ^ 128 + c * 2 ^ 192
/-- A device with context 1 and a command at the head of queue 0. -/
def hosted (h pay : Nat) : State :=
  { up with queues := [(0, { Queue.reset with qcfg := 16, tail := 5 })], hostMem := Memory.writeN (Memory.writeN [] 0 64 h) 64 256 pay,
            hbm := Memory.writeN [] (0x5F00000000 + 64) 64 (desc1 + 2 ^ 12) }
/-- The same with the command in its second step. -/
def later (h pay phase note : Nat) : State := (hosted h pay).setPhase 0 phase note

theorem witness_hosted :
    let row (i : Instr) (o n : Nat) : Prop := hostRow 0 i o ∧ (hosted (hdr o n 1 0 0 0) 0).queueRuns 0 = true
    row (.bind 0) 3 0 ∧ row (.submit 0) 16 4 := by
  unfold hostRow; decide +kernel

theorem witness_headers :
    let s := hosted (hdr 3 0 1 0 0 0) 0
    let m := hosted (hdr 0xFF 0 1 0 0 0) 0
    let short := hosted (hdr 3 1 1 0 0 0) 0
    let r := hosted (hdr 3 0 1 0 0 0 + 2 ^ 11) 0
    State.reset.queueRuns 0 = false ∧ s.queueRuns 0 = true ∧ (m.queue 0).malformed (headOf m 0) = true ∧ (short.queue 0).malformed (headOf short 0) = true
      ∧ (r.queue 0).malformed (headOf r 0) = false ∧ headOf r 0 % 256 = 3 ∧ s.cmdHeld 0 (headOf s 0) = false := by decide +kernel

/-- A command behind a replica whose place has come, and a submit behind a write of the host. -/
theorem witness_held_commands :
    let f : State := (hosted (hdr 3 0 1 0 0 0) 0).setQueue 0 { (hosted (hdr 3 0 1 0 0 0) 0).queue 0 with fwds := [{ mark := 0, src := 1, id := 77, desc := 0, repls := [] }] }
    let b := hosted (hdr 16 4 1 0 0 0) 0
    let w : State := { b with host := { b.host with posted := [(0, [1])] } }
    (∃ x xs, (f.queue 0).fwds = x :: xs ∧ x.mark = (f.queue 0).head) ∧ f.queueRuns 0 = true ∧ (f.queue 0).malformed (headOf f 0) = false
      ∧ headOf w 0 % 256 = 16 ∧ w.queueRuns 0 = true ∧ (w.queue 0).malformed (headOf w 0) = false ∧ 16 ∈ [16, 17, 24, 25, 26]
      ∧ (w.queue 0).phase = 0 ∧ w.host.posted ≠ [] := by
  refine ⟨⟨{ mark := 0, src := 1, id := 77, desc := 0, repls := [] }, [], by decide +kernel, by decide +kernel⟩, by decide +kernel⟩

theorem witness_poisoned_descriptor :
    let s := hosted (hdr 3 0 1 0 0 0) 0
    let p : State := { s with hbmPoison := [s.descAddr 1 / 64] }
    p.queueRuns 0 = true ∧ (p.queue 0).malformed (headOf p 0) = false ∧ headOf p 0 % 256 = 3 ∧ p.cmdHeld 0 (headOf p 0) = false
      ∧ (cmdOf p 0).cid ≠ 0 ∧ p.descBad (cmdOf p 0).cid = true ∧ s.descBad (cmdOf s 0).cid = false := by decide +kernel

theorem witness_takes :
    ∀ p ∈ [(1, 1), (2, 0), (3, 0), (4, 0), (5, 1), (6, 1), (7, 1), (8, 0), (9, 1), (10, 0), (11, 0), (12, 0), (13, 0), (16, 4), (17, 1), (18, 1),
      (24, 0), (25, 0), (26, 0), (32, 0), (33, 0), (34, 0)], takes (hosted (hdr p.1 p.2 1 0 0 0) 0) 0 p.1 := by
  unfold takes; decide +kernel

theorem witness_contexts :
    let s := hosted 0 0
    let res := s.onCtx 1 fun c => { c with resident := true }
    s.createCode 1 desc1 ≠ 0 ∧ s.createCode 2 (desc1 + 1) = 0 ∧ s.flipBusy (descHtab desc1) (64 * descHcount desc1) = false
      ∧ s.flipBusy (descTtab desc1) (64 * descTcount desc1) = false ∧ s.flipBusy (s.descAddr 2) 64 = false ∧ s.noContext 2 = true
      ∧ s.noContext 1 = false ∧ (res.unbind 1).1 = true ∧ (res.unbind 1).2.cmdsOf 1 = false ∧ (res.unbind 1).2.flipBusy (s.descAddr 1) 64 = false
      ∧ s.bindCode 1 0 ≠ 0 ∧ s.bindCode 1 (2 ^ 47) = 0 := by decide +kernel

theorem witness_entries :
    let s := hosted 0 0
    let cmd (a pay : Nat) : HCmd := { q := 0, cid := 1, a := a, b := 0, c := 0, pay := pay }
    s.recordCode (cmd 4 1) ≠ 0 ∧ s.recordCode (cmd 3 1) = 0 ∧ s.templateCode (cmd 4 1) ≠ 0 ∧ s.templateCode (cmd 3 1) = 0
      ∧ s.patternCode (cmd 64 1) ≠ 0 ∧ s.patternCode (cmd 63 1) = 0 ∧ s.configureCode 1 0 ≠ 0
      ∧ s.configureCode 1 (1 + 2 ^ 64 + 2 ^ 96 + 0x5F2000 * 2 ^ 128) = 0
      ∧ s.flipBusy (s.htab 1 + 64 * 3) 64 = false ∧ s.flipBusy (s.ttab 1 + 64 * 3) 64 = false := by decide +kernel

theorem witness_arguments :
    let c (o a b c : Nat) : HCmd := cmdOf (hosted (hdr o 0 1 a b c) 0) 0
    (c 10 0 1 4095).c % 2 ^ 12 = 4095 ∧ (c 10 0 1 4096).c % 2 ^ 12 = 0 ∧ (c 13 0 2 0).b = 2 ∧ (c 12 255 65536 1).b % 65536 = 0 ∧ (c 12 255 65536 1).c ≠ 0
      ∧ (c 12 255 65536 1).b + (c 12 255 65536 1).c * 65536 ≤ 2 ^ 42 ∧ (c 13 3 1 0).a % 4 = 3 ∧ (c 13 3 1 0).b ≤ 1
      ∧ (hosted 0 0).descBad 4095 = false := by decide +kernel

theorem witness_slots :
    let s := hosted 0 0
    let v : State := s.onCtx 1 fun c => c.setTx 3 { Tx.free with st := .voted }
    s.phase 0 = 0 ∧ s.note 0 = 0 ∧ s.ownerCode 0 1 1 = 0 ∧ s.ownerCode 0 0 1 ≠ 0 ∧ (s.setOwners 1 1 0).1 = 0 ∧ s.snapCode 1 3 0 0 = 0x35
      ∧ (let t : State := s.onCtx 1 fun c => { c with scb := 1 + 2 ^ 12 + 2 ^ 64 + 2 ^ 96 + 0x5F2000 * 2 ^ 128 + 2 ^ 256 }; t.snapCode 1 3 0 0 = 0)
      ∧ ((s.ctx 1).tx 3).st ≠ .voted ∧ ((s.ctx 1).tx 3).st ≠ .decided ∧ ((v.ctx 1).tx 3).st = .voted
      ∧ (v.txOutcome 1 3 0 0).2 = true ∧ (v.txOutcome 1 3 0 0x3A).2 = true := by decide +kernel

theorem witness_submits :
    let s := hosted (hdr 16 4 1 0 0 0) 1
    let id := (s.acceptNode 1 0 0 0).map Prod.fst
    s.submitCode 0 ≠ 0 ∧ s.submitCode 1 = 0 ∧ (cmdOf s 0).pay = 1 ∧ id = some 0 := by
  decide +kernel

/-- The first `k` entries of the node table taken. -/
def full (k : Nat) : State := { up with disp := { up.disp with nodes := (List.range k).map fun e => (e, some node4) } }

theorem nmap_get_range (n : Node) : ∀ (k lo e : Nat), lo ≤ e → e < lo + k → NMap.get none ((List.range' lo k).map fun i => (i, some n)) e = some n
  | 0, _, _, _, _ => by omega
  | k + 1, lo, e, h, g => by
    rw [List.range'_succ, List.map_cons, NMap.get, if_neg (by omega)]
    by_cases q : e = lo
    · rw [if_pos q]
    · rw [if_neg q]; exact nmap_get_range n k (lo + 1) e (by omega) (by omega)

theorem full_node (k e : Nat) (h : e < k) : (full k).node? e = some node4 := by
  show NMap.get none ((List.range k).map fun e => (e, some node4)) e = _
  rw [List.range_eq_range']
  exact nmap_get_range node4 k 0 e (Nat.zero_le _) (by omega)

theorem find_isNone (n : Nat) (p : Nat → Bool) (h : ∀ e, e < n → p e = false) : (List.range n).find? p = none := by
  rw [List.find?_eq_none]
  intro e m
  rw [h e (List.mem_range.1 m)]
  simp

theorem accept_full (s : State) (d q o i : Nat) (h : ∀ e, e < 4096 → (s.node? e).isNone = false) : s.acceptNode d q o i = none := by
  unfold State.acceptNode
  rw [find_isNone 4096 _ h]

theorem full_refuses (k d q o i : Nat) (h : k = 4096) : (full k).acceptNode d q o i = none :=
  accept_full _ _ _ _ _ fun e g => by rw [full_node k e (h ▸ g)]; rfl

theorem witness_full_table : ∃ k : Nat, (full k).acceptNode 1 0 0 0 = none := Exists.intro 4096 (full_refuses 4096 1 0 0 0 (Eq.refl 4096))

theorem setQueue_node (s : State) (q e : Nat) (v : Queue) : (s.setQueue q v).node? e = s.node? e := rfl

theorem full_refuses_replica (k : Nat) (v : Queue) (h : k = 4096) : ((full k).setQueue 0 v).acceptNode (ofDwords []) 0 1 77 = none :=
  accept_full _ _ _ _ _ fun e g => by rw [setQueue_node, full_node k e (h ▸ g)]; rfl

/-- A queue in which a replica of node 77 of chip 1 is held at the first place. -/
def holding (v : Queue) : Queue := { v with fwds := [{ mark := 0, src := 1, id := 77, desc := ofDwords [], repls := [] }] }

theorem witness_full_table_for_a_replica : ∃ k : Nat, ((full k).setQueue 0 (holding ((full k).queue 0))).acceptNode (ofDwords []) 0 1 77 = none :=
  Exists.intro 4096 (full_refuses_replica 4096 (holding ((full 4096).queue 0)) (Eq.refl 4096))

theorem witness_replacement :
    let p := 4 + 8 * 2 ^ 64 + 64 * 2 ^ 128
    let b := busy { node4 with id := 4, originId := 4 } id
    let s (phase note : Nat) : State := { later (hdr 17 1 1 0 0 0) p phase note with disp := b.disp }
    (s 0 0).replCode p = 0 ∧ (s 0 0).replCode 5 ≠ 0 ∧ (s 0 0).phase 0 = 0 ∧ p / 2 ^ 256 % 2 ^ 64 = 0 ∧ (cmdOf (s 0 0) 0).pay = p
      ∧ (s 2 7).phase 0 = 2 ∧ (s 2 7).note 0 = 7 ∧ (s 2 7).gtc ≤ 7 ∧ ({ s 2 7 with gtc := 8 } : State).note 0 < 8 := by decide +kernel

theorem witness_settings :
    let c (o a b c : Nat) : HCmd := cmdOf (hosted (hdr o 0 1 a b c) 0) 0
    let s := hosted (hdr 18 1 1 0 0 0) (1000 + 2 ^ 16 + 0xC * 2 ^ 64)
    let t := hosted 0 0
    (cmdOf s 0).pay % 2 ^ 10 = 1000
      ∧ (c 24 (2 ^ 52 - 65536) 1 0).a + (c 24 (2 ^ 52 - 65536) 1 0).b * 65536 ≤ 2 ^ 52 ∧ (c 24 (2 ^ 52 - 65536) 1 0).a < 2 ^ 52
      ∧ (c 24 0 0 1).c = 1 ∧ t.migrateOk (c 25 0 65536 0) = true ∧ t.migrateOk (c 25 0 0 0) = false ∧ (c 26 0 0 8192).c = 2 * 2 ^ 12
      ∧ (c 33 191 0 0).a % 256 = 191 ∧ (c 33 192 0 0).a % 256 = 192 ∧ t.inService 191 = true ∧ State.reset.inService 191 = false ∧ 191 ∉ t.rel.asked ∧ t.joinOpen 63 = false
      ∧ (c 34 63 0 0).a % 64 = 63 := by decide +kernel

theorem witness_second_steps :
    let x : Shoot := { id := 64, num := 0, scope := .all, owner := .queue 0, mask := 0, expect := 0, sentAt := 0, resent := false, fencedMask := 5 }
    let s : State := { later (hdr 26 0 1 0 0 8192) 0 1 0 with shoots := [x] }
    s.phase 0 = 1 ∧ s.shoots.find? (fun x => x.owner == .queue 0) = some x ∧ s.shootDone x = true ∧ (∀ m ∈ s.migs, m.queue ≠ 0)
      ∧ (later (hdr 25 0 1 0 65536 0) 0 1 0).phase 0 = 1 := by decide +kernel

theorem witness_queries :
    let c (a b c : Nat) : HCmd := cmdOf (hosted (hdr 32 0 1 a b c) 0) 0
    let s := hosted 0 0
    let l : State := { s with rel := { s.rel with samLog := [rec7] } }
    (∀ i ∈ [1, 2, 3, 4, 5, 6, 7, 8, 9], (c i 0 0).a = i) ∧ (c 1 0 (2 ^ 42 - 64)).c + 64 ≤ 2 ^ 42 
      ∧ (c 1 (63 * 256 + 191) 0).b % 256 < 192 ∧ s.inService 191 = true ∧ (c 3 1 0).b = 1 ∧ 1 < (c 3 2 0).b ∧ (c 4 0 0).b < s.dev.top
      ∧ s.dev.top ≤ (c 4 s.dev.top 0).b ∧ (c 5 63 0).b < 64 ∧ 64 ≤ (c 5 64 0).b ∧ l.rel.samLog[0]? = some rec7 ∧ s.rel.samLog[0]? = none
      ∧ (c 8 3 0).b ≤ 3 ∧ s.noContext 1 = false ∧ 3 < (c 8 4 0).b := by decide +kernel

theorem witness_host_registers :
    let q (f : Queue → Queue) : State := up.setQueue 63 (f { Queue.reset with chead := 0, ctail := 1 })
    up.dev.ready = true ∧ ((q fun k => { k with mal := true }).queue 63).mal = true ∧ ((q id).queue 63).mal = false
      ∧ ((q id).queue 63).slots ≤ 65535 ∧ 0 < ((q id).queue 63).slots ∧ (16 : BitVec 64).getLsbD 4 = true ∧ (0 : BitVec 64).getLsbD 4 = false
      ∧ (up.queue 63).chead = (up.queue 63).ctail ∧ ((q id).queue 63).chead ≤ 1 ∧ 1 ≤ ((q id).queue 63).ctail
      ∧ ((q id).queue 63).ctail < 2 ^ ((q id).queue 63).plog ∧ up.host.fhead ≤ 0 ∧ 0 ≤ up.host.ftail ∧ up.host.ftail < 65536 := by decide +kernel

theorem witness_host_accesses :
    let bad : State := { up with hbmPoison := [0] }
    up.dev.bar2Ok 0 64 = true ∧ up.dev.bar2Ok 0x5F00000000 64 = false ∧ up.dev.bar2Ok 0x5F02000000 64 = true
      ∧ (up.hostWrites (chunks 64 0 (List.replicate 8 1))).2 = [] ∧ up.host.posted = [] ∧ up.dev.enumerated = true
      ∧ ({ up with host := { up.host with posted := [(0, [1])] } } : State).host.posted ≠ []
      ∧ (match up.hostReads (chunks 64 0 (List.replicate 8 0)) [] with | .got _ => true | _ => false) = true
      ∧ (match bad.hostReads (chunks 64 0 (List.replicate 8 0)) [] with | .abort (some 0) => true | _ => false) = true := by decide +kernel

theorem witness_completions :
    let l := { acc 0 3 8 .host 0x80000000000 with op := some .add, data := 5 }
    let r : HostReq := { id := 9, owner := .acc 0 0, addr := 0, len := 8, sentAt := 0 }
    let s : State := { mach (fun c => { c with a := { c.a with loads := [l] } }) with host := { State.reset.host with reqs := [r] } }
    s.host.reqs.find? (fun r => r.id == 9) = some r ∧ (s.cl 0).a.accs.find? (fun l => l.seq == 0 && l.pending && l.place == .host) = some l
      ∧ l.op = some .add ∧ l.size = 8 ∧ (List.replicate 8 (0 : BitVec 8)).length = 8 ∧ r.sentAt + 50000000 ≤ ({ s with gtc := 50000000 } : State).gtc
      ∧ s.gtc < r.sentAt + 50000000 ∧ s.dev.stage < 7 ∧ s.dev.bootFail = 0 ∧ { l with op := none }.op = none ∧ (List.replicate 8 (0 : BitVec 8)).length = r.len
      ∧ s.dev.stage < 2 ∧ s.dev.bootFail < 2 ∧ 7 ≤ up.dev.stage := by decide +kernel

theorem witness_bring_up :
    let c : BootChecks := { fwOk := true, imgOk := true, trainFail := [], ports := [], times := [] }
    bootResult c Image.default = (7, 0) ∧ (bootResult { c with fwOk := false } Image.default).2 ≠ 0
      ∧ (∀ n ∈ c.times, n = 0) ∧ 0 < { c with times := [5] }.times.getD 0 0 := by decide +kernel

/-- A bring-up whose first step takes 5 clk and whose second 7, in its second step, at the end of its steps, and one that fails in its first. -/
theorem witness_bring_up_steps :
    let c : BootChecks := { fwOk := true, imgOk := true, trainFail := [], ports := [], times := [5, 7] }
    let b (c : BootChecks) : Boot := { image := Image.default, checks := c, since := 100 }
    let s (c : BootChecks) (clk : Nat) : State := { State.reset with clk := clk, dev := { State.reset.dev with boot := some (b c) } }
    let ends (k : Nat) : Nat := ((List.range k).map fun i => Nat.min (c.times.getD i 0) ([200, 300, 400, 100, 50, 500, 50].getD i 0 * 1250000)).sum
    (s c 110).dev.boot = some (b c) ∧ ends 1 ≤ 110 - 100 ∧ 110 - 100 < ends 2 ∧ 1 ≤ (bootResult c Image.default).1 ∧ ends 7 ≤ 112 - 100
      ∧ (bootResult { c with fwOk := false } Image.default).1 < 5 ∧ ends 5 ≤ 112 - 100 ∧ 1600 * 1250000 ≤ 2000000100 - 100 := by decide +kernel

theorem witness_peers :
    let c1 : TagSource := ⟨1, .cluster 5⟩
    let old : Remembered := { src := c1, tag := 7, at_ := 0, st := .done, data := [] }
    let s : State := { up with remembered := [old] }
    let f : State := { up with dev := { up.dev with fenced := 2 } }
    let r : BankReq := { op := .red, fmt := .int 32, xfmt := .int 32, addr := 0, xs := [5], s := 0, c := 0, v := 0 }
    f.fencedChip 1 = true ∧ up.fencedChip 1 = false ∧ c1.chip ≠ up.dev.chip ∧ (63 : Nat) < 64
      ∧ s.remembered.find? (fun r => r.src == c1 && r.tag == 7) = some old ∧ up.remembered.find? (fun r => r.src == c1 && r.tag == 7) = none
      ∧ isHost 0 = false ∧ up.peerCheck c1 0 32 = none ∧ (up.peerCheck c1 up.dev.rsvBase 32).isSome = true ∧ up.peerCheck ⟨1, .samovar⟩ up.dev.rsvBase 32 = none
      ∧ (match up.hostReads (chunks 64 0 (List.replicate 32 0)) [] with | .got _ => true | _ => false) = true
      ∧ tagMode (up.tag 0) ≠ 3 ∧ (match up.hbmWrite 0 (List.replicate 32 1) with | .ok _ => true | _ => false) = true
      ∧ (match up.hbmRead 0 8 with | .ok bs => (amoNew .add 8 (ofBytes bs) 1 0).isSome | _ => false) = true
      ∧ up.peerCheck c1 r.addr (bankSize r) = none ∧ (match up.bankSide 0 r with | .done _ _ => true | _ => false) = true
      ∧ 0 + (List.replicate 32 (1 : Byte)).length ≤ up.dev.top ∧ up.pageSt 0 = .inService
      ∧ (up.hostWrites (chunks 64 0 (List.replicate 32 1))).2 = [] ∧ (up.hostWrites [(0, List.replicate 32 1)]).2 = [] := by decide +kernel

theorem witness_requests :
    let l := { acc 0 3 8 (.remote 1) 0 with op := some .add }
    let w := { acc 0 0 8 (.remote 1) 0 with store := true }
    let id : ReqId := ⟨.cluster 0, 7⟩
    let r (n : Nat) (o : ReqBy) : Req :=
      { tag := id, num := 0, peer := 1, owner := o, port := none, msg := .read id 0 8, sends := n, lastSent := 0, held := false, part := [] }
    let s (n : Nat) (o : ReqBy) (f : ACore → ACore) : State := { (mach fun c => { c with a := f c.a }) with reqs := [r n o], gtc := 1000000 }
    let a := s 1 (.acc 0 0) fun a => { a with loads := [l] }
    let b := s 1 (.acc 0 0) fun a => { a with stores := [w] }
    let c := s 4 (.cmd 0 0 0) fun a => { a with cmds := [{ copy0 with started := true }] }
    State.reset.reqs.find? (fun r => r.tag == id) = none ∧ a.reqs.find? (fun r => r.tag == id) = some (r 1 (.acc 0 0))
      ∧ (a.cl 0).a.accs.find? (fun l => l.seq == 0 && l.pending) = some l ∧ l.aq = false ∧ l.orphan = false ∧ a.unsent (r 1 (.acc 0 0)).msg = false ∧ l.op = some .add
      ∧ (b.cl 0).a.accs.find? (fun l => l.seq == 0 && l.pending) = some w ∧ w.op = none ∧ w.store = true ∧ (∀ m ∈ (b.cl 0).a.stores, m.orphan = false) ∧ (r 3 (.acc 0 0)).sends < 4
      ∧ (r 1 (.acc 0 0)).held = false ∧ (r 1 (.acc 0 0)).lastSent + 1000000 ≤ a.gtc ∧ a.fencedChip 1 = false ∧ ({ a with dev := { a.dev with fenced := 2 } } : State).fencedChip 1 = true
      ∧ 4 ≤ (r 4 (.cmd 0 0 0)).sends ∧ c.cmd? 0 0 = some { copy0 with started := true } := by decide +kernel

/-- A flit from chip 1 to chip 0 of a known TYPE with the expected SEQ, one with another SEQ, one of a TYPE that R469 does not assign, and one
with a bad CRC; a join that has not come before, one that this chip passes on and one that every chip has answered. -/
theorem witness_flits_and_joins :
    let s : State := { up with ports := [(0, { Port.reset with up := true, rx := 9 })] }
    let f := flitBytes 0x10 1 0 9 0 0 5
    let j : JoinNote := ⟨3, 1, 7⟩
    let w : State := { up with joins := [j] }
    let r : Req := { tag := ⟨.samovar, 1⟩, num := 0, peer := 2, owner := .join 3, port := none, msg := .read ⟨.samovar, 1⟩ 0 8, sends := 1, lastSent := 0, held := false, part := [] }
    (s.port 0).up = true ∧ flitGood (f.set 3 1) = false ∧ typeKnown 0x22 = false ∧ typeKnown 0x10 = true ∧ 9 = (s.port 0).rx ∧ 8 ≠ (s.port 0).rx ∧ 0 = s.dev.chip ∧ 5 ≠ s.dev.chip
      ∧ up.fencedChip j.src = false ∧ j.src ≠ up.dev.chip ∧ j.src < 64
      ∧ up.remembered.find? (fun r => r.src == ⟨j.src, .samovar⟩ && r.tag == j.tag) = none ∧ j ∉ up.joins ∧ j ∈ w.joins
      ∧ w.joinOpen j.chip = false ∧ ({ w with reqs := [r] } : State).joinOpen j.chip = true ∧ up.master = up.dev.chip := by decide +kernel

theorem witness_links :
    let rd (k : Nat) : Msg := .read ⟨.cluster 0, k⟩ 0 8
    let p : Port := { Port.reset with up := true, txSeq := 2, replay := [(0, 1, rd 7), (1, 1, rd 8)], replays := 16, alignAt := 0 }
    let s (q : Port) : State := { up with ports := [(0, q)] }
    let q : Port := { p with replay := (List.range 64).map fun k => (k, 1, rd k) }
    let d : State := s { p with up := false, trainAt := up.gtc }
    let fenced : State := { up with dev := { up.dev with fenced := 2 } }
    let two : State := { up with dev := { up.dev with chip := 1, routes := [(0, [0])] } }
    let one : State := { up with dev := { up.dev with routes := [(1, [0])] } }
    ((s p).port 0).up = true ∧ ((s p).port 0).placeOf 0 = some 0 ∧ ((s p).port 0).wait = []
      ∧ ((s p).port 0).placeOf 1 = some 1 ∧ 16 ≤ ((s p).port 0).replays ∧ ((s { p with replays := 15 }).port 0).replays < 16
      ∧ (s p).gtc < ((s p).port 0).lastAck + 100000 ∧ ((s p).port 0).alignAt ≤ (s p).gtc ∧ ((s p).port 0).room (.gtc 0) = true
      ∧ ((s p).port 0).room (rd 9) = true ∧ Msg.vc (rd 9) ≠ none ∧ ((s q).port 0).room (rd 9) = false ∧ (d.port 0).up = false ∧ (15 : Nat) < 16
      ∧ 15 ∉ d.dev.image.portsOut ∧ (d.port 0).trainAt ≤ d.gtc ∧ d.dev.ready = true ∧ fenced.fencedChip 1 = true ∧ two.fencedChip 0 = false
      ∧ two.master ≠ two.dev.chip ∧ Nat.max one.dev.bootedAt (NMap.get 0 one.dev.aligned 1) + 1000000 ≤ ({ one with gtc := one.dev.bootedAt + 1000000 } : State).gtc
      ∧ one.gtc < Nat.max one.dev.bootedAt (NMap.get 0 one.dev.aligned 1) + 1000000 ∧ one.master = one.dev.chip ∧ 1 ∈ one.peers ∧ 64 % 64 = up.dev.chip ∧ 65 % 64 ≠ up.dev.chip := by decide +kernel

/-- The machine after reset whose A-core of cluster 0 runs at address 0 with the line there in its instruction cache. -/
def aline (m : Mode) (pc : W64) (w : Nat) : State :=
  let l : CLine := { cid := 0, addr := 0, va := 0, data := toBytes 64 w }
  { (mach fun c => { c with a := { c.a with run := .run, mode := m, sstat := 3, pc := pc, icache := [l] } }) with agenda := [{ dt := 0, who := .acore 0 }] }

/-- A register holding of the result of a step. -/
def stepped (s : State) (p : State → Bool) : Bool := match step s with | .next t => p t | _ => false

theorem witness_steps_of_the_a_core :
    let s := aline .s 0 0x2400900080000000
    let e : State := { ({ s with agenda := [] } : State).elapse 0 with focus := 0 }
    e.xTrapDue 0 = none ∧ e.trapPending 0 = false ∧ e.a.run = .run ∧ e.a.precise = true ∧ e.cur.vigil.behind = false ∧ (e.a.mode = .t → e.cur.ctl.preempt = false) ∧ e.a.pc.toNat < 2 ^ 52
      ∧ (match e.fetchLine 0 false e.a.pc.toNat with | .got data _ => data.take 8 == toBytes 8 0x2400900080000000 | _ => false) = true
      ∧ (match decodeA (0x2400900080000000 : BitVec 64) with | .ok _ => true | .error _ => false) = true
      ∧ (match decodeA (0 : BitVec 64) with | .ok _ => true | .error _ => false) = false
      ∧ (0xF1 : Nat) ≤ 0xF9 ∧ 2 ^ 52 ≤ (aline .s (BitVec.ofNat 64 (2 ^ 52)) 0).a.pc.toNat := by decide +kernel

/-- A pending trap of a core at a boundary, one of the X-core, and a core that is not clean. -/
theorem witness_pending_traps :
    let m : State := (aline .s 0 0x2400900080000000).onA 0 fun a => { a with due := some { code := 7, detail := 1, tval := 2, slot := 1 } }
    let x : State := (aline .s 0 0x2400900080000000).onX 0 fun x => { x with run := .stopped, trap := some { code := 0x10, detail := 0, tval := 1, slot := 0 } }
    m.trapPending 0 = true ∧ x.trapPending 0 = true ∧ x.xTrapDue 0 = some { code := 0x10, detail := 0, tval := 1, slot := 0 }
      ∧ ((m.onA 0 fun a => { a with loads := [acc 0 3 8 .sp 0] }).cl 0).a.clean = false
      ∧ (m.onA 0 fun a => { a with loads := [acc 0 3 8 .sp 0] }).trapPending 0 = true := by decide +kernel

theorem test_step_li : stepped (aline .s 0 0x2400900080000000) (fun t => t.g 9 == 0xFFFFFFFF80000000#64 && t.a.pc == 8) = true := by decide +kernel
theorem test_step_undefined : stepped (aline .s 0 0) (fun t => (t.cl 0).a.cause.toNat % 256 == 1) = true := by decide +kernel
theorem test_step_privileged : stepped (aline .t 0 0xF10061C000000030) (fun t => (t.cl 0).a.cause.toNat % 256 == 2 && (t.cl 0).a.mode == .s) = true := by
  decide +kernel

theorem witness_steps_of_the_x_core :
    let s := nops none
    let r : State := s.onX 0 fun x => { x with issued := false }
    let d : State := { r with agenda := [{ dt := 0, who := .xcore 0 }] }
    let e : State := { ({ d with agenda := [] } : State).elapse 0 with focus := 0 }
    e.x.run = .run ∧ e.x.issued = false ∧ e.x.freeze = none ∧ (match e.xReady with | .go _ ys => ys.length | _ => 0) = 4
      ∧ stepped d (fun t => t.x.issued && t.x.run == .run) = true := by decide +kernel

theorem witness_turns_that_halt_pass_and_issue :
    let halts : State := (aline .t 0 0x2400900080000000).onCl 0 fun c => { c with ctl := { c.ctl with preempt := true, occ := .halting } }
    let waits : State :=
      { (aline .s 0 (0x2400900080000000 * 2 ^ 64)).onA 0 fun a =>
          { a with wait := some { kind := .semp, f := af 0 0 0 0 0x10001, dst := 0, since := 0, id := 0, ahead := none } } with agenda := [{ dt := 0, who := .ahead 0 }] }
    let next : State := { nops none with agenda := [{ dt := 0, who := .event (.vcyc 0 []) }] }
    stepped halts (fun t => t.g 9 == 0 && t.a.pc == 0 && t.a.run == .frozen) = true
      ∧ stepped waits (fun t => t.a.pc == 0 && t.g 9 == 0 && (t.a.wait.bind (·.ahead)).map (·.pc) == some 16) = true
      ∧ WaitKind.txbegin.passed = true ∧ (9 : Nat) ∈ namedRegs (.sel (af 0 1 2 3 9)) (af 0 1 2 3 9) ∧ (9 : Nat) ∉ namedRegs (.add (af 0 1 2 3 9)) (af 0 1 2 3 9)
      ∧ waits.trapPending 0 = false ∧ WaitKind.semp.passed = true ∧ WaitKind.walk.passed = false ∧ formedWord 0x2400900080000000 = true ∧ formedWord 0xF10061C000000030 = false
      ∧ stepped next (fun t => t.x.vcyc == 1 && t.x.issued && t.x.freeze == none) = true
      ∧ State.reset.cur.vigil.g = State.reset.a.g ∧ State.reset.cur.vigil.x = State.reset.x.x ∧ State.reset.cur.vigil.lc = State.reset.x.lc
      ∧ State.reset.cur.vigil.ec = State.reset.x.ec ∧ State.reset.cur.vigil.rb = State.reset.x.rb := by decide +kernel

theorem witness_waiting_forms :
    let s := two 4 0x1000 5 0x40
    let i : Icinv := { id := 64, cl := some 0, node := none, cid := 0, va := 0, len := 64, expect := 2, got := 2 }
    let w (k : WaitKind) (imm : BitVec 32) : Wait := { kind := k, f := af 0 3 4 5 imm, dst := 0, since := 0, id := 0, ahead := none }
    let one : State := { s.onA 0 (fun a => { a with wait := some (w .icinv 3) }) with icinvs := [i], dev := { s.dev with routes := [(1, [0])] } }
    let held (imm : BitVec 32) (k : WaitKind) : State :=
      { (mach fun c => { c with
          a := { c.a with wait := some (w k imm), sems := [(1, 9)], wins := [(0, some { sp := false, cl := 0, base := 0, len := 0 })], g := [(4, 0), (5, 1)] } }) with
        bufs := [(0, { st := 1, base := 0, len := 192, home := 0, who := 0 })] }
    let b := held 0x400 .bgive
    let t := held 4 .txbegin
    State.reset.a.accs = [] ∧ State.reset.runCmds 0 = [] ∧ State.reset.winCount 0 0 = 0 ∧ s.ready [4, 5] = true ∧ (s.g 4).toNat + (s.g 5).toNat ≤ 2 ^ 52
      ∧ 0 < (s.g 5).toNat ∧ ((two 4 0x400000003FC00000 5 0x300000).g 4).toNat = 2 ^ 62 + 255 * 2 ^ 22 + 0 ∧ one.peers ≠ [] ∧ one.a.wait.isSome = true
      ∧ one.icinvs.find? (fun i => i.cl == some one.focus) = some i ∧ one.icinvDone i = true ∧ s.reqs = [] ∧ s.host.reqs = []
      ∧ (∀ e ∈ s.clusters, e.2.a.loads = [] ∧ e.2.a.stores = []) ∧ rangeEmpty (s.invScope (af 0 0 4 5 0x1000)) = false
      ∧ ((held 0x10001 .semp).cl 0).a.wait = some (w .semp 0x10001) ∧ 0x10001 / 2 ^ 16 % 2 ^ 16 ≤ NMap.get 0 ((held 0x10001 .semp).cl 0).a.sems 1
      ∧ ((held 0x10001 .semp).cl 0).a.acqPending = false ∧ ((held 0x10001 .semp).cl 0).x.freeze ≠ some (.sem 1)
      ∧ (0x400 : Nat) / 2 ^ 8 % 8 = 4 ∧ (b.buf 0 0).st = 1 ∧ (b.buf 0 0).who = quadPos 0
      ∧ b.a.rangeDrained (b.a.cmds ++ b.runCmds 0) (b.homeCl (b.buf 0 0)) 0 (192 * 16384) = true ∧ b.recordsClear (b.buf 0 0) = true
      ∧ (b.runA 0).seenPending 0 b.a.seq .qd = false
      ∧ t.txWaiter 0 0 = some (0, af 0 3 4 5 4) ∧ t.ready [3, 4, 5] = true ∧ t.txbeginErr (af 0 3 4 5 4) = none ∧ (t.ctx 0).tx 0 = Tx.free
      ∧ t.a.txWindows 1 = some [(0, 0)] ∧ (t.allPages 0 [(0, 0)] [] false).2.1 = [] ∧ (t.g 5).getLsbD t.dev.chip = true := by decide +kernel

theorem witness_other_turns :
    let e (i : Instr) : State := { State.reset with agenda := [{ dt := 3, who := .event i }] }
    (Instr.hostAtomicopToBar).fetched = false ∧ (Instr.add (af 0 1 2 3 0)).fetched = true
      ∧ stepped (e .hostAtomicopToBar) (fun t => t.host.answers == [.unsupported] && t.clk == 3) = true
      ∧ (match step (e (.add (af 0 1 2 3 0))) with | .refused .notAnEvent => true | _ => false) = true ∧ up.agenda = [] ∧ up.dev.stage ≠ 0
      ∧ stepped up (fun t => t.clk == up.clk + 1) = true ∧ stepped State.reset (fun t => t.memWf) = true := by decide +kernel

theorem witness_codes :
    (Instr.add (af 0 1 2 3 0)).fetched = true ∧ (Instr.add (af 0 1 2 3 0)).wf = true ∧ encode (.add (af 0 1 2 3 0)) = some (64, 0x0100108300000000) := by
  decide +kernel

/-! ### Words of the spec's encodings (R206-R216, R220, R221) decode to the instructions they stand for -/

theorem test_decode_words_integer : ∀ p ∈ ([
    (0x0100108300000000, .add (af 0 1 2 3 0x0)),
    (0x0200108300000000, .sub (af 0 1 2 3 0x0)),
    (0x0300108300000000, .mul (af 0 1 2 3 0x0)),
    (0x0400108300000000, .mulh (af 0 1 2 3 0x0)),
    (0x0500108300000000, .mulhn (af 0 1 2 3 0x0)),
    (0x0600108300000000, .div (af 0 1 2 3 0x0)),
    (0x0700108300000000, .divn (af 0 1 2 3 0x0)),
    (0x0800108300000000, .rem (af 0 1 2 3 0x0)),
    (0x0900108300000000, .remn (af 0 1 2 3 0x0)),
    (0x0A00108300000000, .and (af 0 1 2 3 0x0)),
    (0x0B00108300000000, .or (af 0 1 2 3 0x0)),
    (0x0C00108300000000, .xor (af 0 1 2 3 0x0)),
    (0x0D00108300000000, .andn (af 0 1 2 3 0x0)),
    (0x1800108300000000, .min (af 0 1 2 3 0x0)),
    (0x1900108300000000, .max (af 0 1 2 3 0x0)),
    (0x1A00108300000000, .minn (af 0 1 2 3 0x0)),
    (0x1B00108300000000, .maxn (af 0 1 2 3 0x0)),
    (0x1C00108300000004, .sel (af 0 1 2 3 0x4)),
    (0x3000108300000000, .cmpeq (af 0 1 2 3 0x0)),
    (0x3100108300000000, .cmpne (af 0 1 2 3 0x0)),
    (0x3200108300000000, .cmplt (af 0 1 2 3 0x0)),
    (0x3300108300000000, .cmple (af 0 1 2 3 0x0)),
    (0x3400108300000000, .cmpltn (af 0 1 2 3 0x0)),
    (0x3500108300000000, .cmplen (af 0 1 2 3 0x0))] : List (Nat × Instr)),
    decodeTableWord 64 p.1 = some p.2 := by decide +kernel

theorem test_decode_words_shift : ∀ p ∈ ([
    (0x1000108300000000, .shl (af 0 1 2 3 0x0)),
    (0x100410800000003F, .shlImm (af 1 1 2 0 0x3F)),
    (0x1100108300000000, .shr (af 0 1 2 3 0x0)),
    (0x110410800000003F, .shrImm (af 1 1 2 0 0x3F)),
    (0x1200108300000000, .sar (af 0 1 2 3 0x0)),
    (0x120410800000003F, .sarImm (af 1 1 2 0 0x3F)),
    (0x1300108300000000, .rol (af 0 1 2 3 0x0)),
    (0x130410800000003F, .rolImm (af 1 1 2 0 0x3F)),
    (0x1400108300000000, .rotr (af 0 1 2 3 0x0)),
    (0x140410800000003F, .rotrImm (af 1 1 2 0 0x3F)),
    (0x1500108000000000, .clz (af 0 1 2 0 0x0)),
    (0x1600108000000000, .ctz (af 0 1 2 0 0x0)),
    (0x1700108000000000, .popc (af 0 1 2 0 0x0))] : List (Nat × Instr)),
    decodeTableWord 64 p.1 = some p.2 := by decide +kernel

theorem test_decode_words_immediate : ∀ p ∈ ([
    (0x20001080FFFFFFFF, .addi (af 0 1 2 0 0xFFFFFFFF)),
    (0x21001080FFFFFFFF, .andi (af 0 1 2 0 0xFFFFFFFF)),
    (0x22001080FFFFFFFF, .ori (af 0 1 2 0 0xFFFFFFFF)),
    (0x23001080FFFFFFFF, .xori (af 0 1 2 0 0xFFFFFFFF)),
    (0x2400900080000000, .li (af 0 9 0 0 0x80000000)),
    (0x2500900000000001, .lih (af 0 9 0 0 0x1)),
    (0x260051800000380C, .exts (af 0 5 6 0 0x380C)),
    (0x2600518800008000, .extsVar (af 0 5 6 8 0x8000)),
    (0x270051800000380C, .extz (af 0 5 6 0 0x380C)),
    (0x2700518800008000, .extzVar (af 0 5 6 8 0x8000)),
    (0x280051800000380C, .ins (af 0 5 6 0 0x380C)),
    (0x2800518800008000, .insVar (af 0 5 6 8 0x8000))] : List (Nat × Instr)),
    decodeTableWord 64 p.1 = some p.2 := by decide +kernel

theorem test_decode_words_branch : ∀ p ∈ ([
    (0x38000000FFFFFFFD, .jmp (af 0 0 0 0 0xFFFFFFFD)),
    (0x3900100000000002, .jal (af 0 1 0 0 0x2)),
    (0x3A00108000000010, .jali (af 0 1 2 0 0x10)),
    (0x3B001000FFFFFFFE, .loop (af 0 1 0 0 0xFFFFFFFE)),
    (0x40000083FFFFFFFD, .beq (af 0 0 2 3 0xFFFFFFFD)),
    (0x41000083FFFFFFFD, .bne (af 0 0 2 3 0xFFFFFFFD)),
    (0x42000083FFFFFFFD, .blt (af 0 0 2 3 0xFFFFFFFD)),
    (0x43000083FFFFFFFD, .bge (af 0 0 2 3 0xFFFFFFFD)),
    (0x44000083FFFFFFFD, .bltn (af 0 0 2 3 0xFFFFFFFD)),
    (0x45000083FFFFFFFD, .bgen (af 0 0 2 3 0xFFFFFFFD))] : List (Nat × Instr)),
    decodeTableWord 64 p.1 = some p.2 := by decide +kernel

theorem test_decode_words_scalar : ∀ p ∈ ([
    (0x500C10800C000010, .ld (af 3 1 2 0 0xC000010)),
    (0x514C010704000010, .st { af 3 0 4 7 0x4000010 with pcl := 1 }),
    (0x520C108007800000, .ldaq (af 3 1 2 0 0x7800000)),
    (0x5388010711000008, .strl { af 2 0 4 7 0x11000008 with pcl := 2 }),
    (0x5444108366800000, .cas { af 1 1 2 3 0x66800000 with pcl := 1 }),
    (0x5500108304000000, .amoSwap (af 0 1 2 3 0x4000000)),
    (0x5800108306000000, .amoAdd (af 0 1 2 3 0x6000000)),
    (0x5900108306000000, .amoAnd (af 0 1 2 3 0x6000000)),
    (0x5A00108306000000, .amoOr (af 0 1 2 3 0x6000000)),
    (0x5B00108306000000, .amoXor (af 0 1 2 3 0x6000000)),
    (0x5C00108306000000, .amoMin (af 0 1 2 3 0x6000000)),
    (0x5D00108306000000, .amoMax (af 0 1 2 3 0x6000000)),
    (0x5E00108306000000, .amoMinn (af 0 1 2 3 0x6000000)),
    (0x5F00108306000000, .amoMaxn (af 0 1 2 3 0x6000000))] : List (Nat × Instr)),
    decodeTableWord 64 p.1 = some p.2 := by decide +kernel

theorem test_decode_words_order : ∀ p ∈ ([
    (0x6000000000020001, .fence (af 0 0 0 0 0x20001)),
    (0x6100000000000201, .fencew (af 0 0 0 0 0x201)),
    (0x6200010500000007, .wset (af 0 0 4 5 0x7)),
    (0x6200000000010002, .wsetHandle (af 0 0 0 0 0x10002)),
    (0x63000000000000FF, .wclr (af 0 0 0 0 0xFF)),
    (0x6400010500000003, .icinv (af 0 0 4 5 0x3)),
    (0x6500000000000000, .icsync (af 0 0 0 0 0x0))] : List (Nat × Instr)),
    decodeTableWord 64 p.1 = some p.2 := by decide +kernel

theorem test_decode_words_engine : ∀ p ∈ ([
    (0x6804028000000000, .tldq (af 1 0 10 0 0x0)),
    (0x6944328000001000, .sqd { af 1 3 10 0 0x1000 with pcl := 1 }),
    (0x6A00500000000000, .qstat (af 0 5 0 0 0x0)),
    (0x7004A2CC00001000, .xcopy (af 1 10 11 12 0x1000)),
    (0x7004A2CC002003FF, .xcopyTpl (af 1 10 11 12 0x2003FF)),
    (0x7104A2C000000040, .tfill (af 1 10 11 0 0x40)),
    (0x7204A2C000040000, .tdrain (af 1 10 11 0 0x40000)),
    (0x7304A2CC0000003F, .gathert (af 1 10 11 12 0x3F)),
    (0x740402CC00090004, .nmred (af 1 0 11 12 0x90004)),
    (0x750402CC00000001, .nmcas (af 1 0 11 12 0x1)),
    (0x760402CC000B0002, .nmsax (af 1 0 11 12 0xB0002))] : List (Nat × Instr)),
    decodeTableWord 64 p.1 = some p.2 := by decide +kernel

theorem test_decode_words_sync : ∀ p ∈ ([
    (0x8004030000001000, .bwset (af 1 0 12 0 0x1000)),
    (0x8104030000000004, .bwarrive (af 1 0 12 0 0x4)),
    (0x8200D30000000006, .waitgen (af 0 13 12 0 0x6)),
    (0x8300000000010003, .semv (af 0 0 0 0 0x10003)),
    (0x840000000001000F, .semp (af 0 0 0 0 0x1000F)),
    (0x8500100000010003, .semtry (af 0 1 0 0 0x10003)),
    (0x880000000000033F, .bgive (af 0 0 0 0 0x33F)),
    (0x880000000000043F, .bgiveNone (af 0 0 0 0 0x43F)),
    (0x8900100000010005, .btake (af 0 1 0 0 0x10005)),
    (0x8A0010000000003F, .bquery (af 0 1 0 0 0x3F)),
    (0x8B04110500000038, .msend (af 1 1 4 5 0x38))] : List (Nat × Instr)),
    decodeTableWord 64 p.1 = some p.2 := by decide +kernel

theorem test_decode_words_task : ∀ p ∈ ([
    (0x9004110500000003, .snap (af 1 1 4 5 0x3)),
    (0x9100100000000003, .snapq (af 0 1 0 0 0x3)),
    (0x9100100000000007, .snapqT (af 0 1 0 0 0x7)),
    (0x9200110500010003, .txbegin (af 0 1 4 5 0x10003)),
    (0x9300100000000003, .txcommit (af 0 1 0 0 0x3)),
    (0x9400100000000003, .txabort (af 0 1 0 0 0x3)),
    (0x9500100000000003, .txstate (af 0 1 0 0 0x3)),
    (0x9800000000000000, .texit (af 0 0 0 0 0x0)),
    (0x9900108000000000, .grow (af 0 1 2 0 0x0)),
    (0x9A00100000000009, .tidx (af 0 1 0 0 0x9)),
    (0x9B00500000000000, .rdgtc (af 0 5 0 0 0x0)),
    (0x9C0001000000FFFF, .refdefer (af 0 0 4 0 0xFFFF))] : List (Nat × Instr)),
    decodeTableWord 64 p.1 = some p.2 := by decide +kernel

theorem test_decode_words_supervisor : ∀ p ∈ ([
    (0xF000500000000020, .csrrd (af 0 5 0 0 0x20)),
    (0xF10061C000000030, .csrwr (af 0 6 7 0 0x30)),
    (0xF200000000001234, .trap (af 0 0 0 0 0x1234)),
    (0xF300000000000000, .eret (af 0 0 0 0 0x0)),
    (0xF400010500000007, .tlbinv (af 0 0 4 5 0x7)),
    (0xF500310500000007, .shoot (af 0 3 4 5 0x7)),
    (0xF600310000000000, .remapTowerBank (af 0 3 4 0 0x0)),
    (0xF600310000000001, .remapClusterTable (af 0 3 4 0 0x1)),
    (0xF700000000000000, .halt (af 0 0 0 0 0x0)),
    (0xF8000000000FFFFF, .pause (af 0 0 0 0 0xFFFFF)),
    (0xF900B28000000000, .errpop (af 0 11 10 0 0x0))] : List (Nat × Instr)),
    decodeTableWord 64 p.1 = some p.2 := by decide +kernel

theorem test_decode_syllables_scalar : ∀ p ∈ ([
    (0x80000000000000000000000000000000, .nop { xf 0 0 0 0x0 0x0 with ty := 0 }),
    (0x802003E0201800000000000000000000, .xadd { xf 31 2 3 0x0 0x0 with ty := 0 }),
    (0x804003E0201800000000000000000000, .xsub { xf 31 2 3 0x0 0x0 with ty := 0 }),
    (0x806003E0201800000000000000000000, .xmul { xf 31 2 3 0x0 0x0 with ty := 0 }),
    (0x808003E0201800000000000000000000, .xand { xf 31 2 3 0x0 0x0 with ty := 0 }),
    (0x80A003E0201800000000000000000000, .xorx { xf 31 2 3 0x0 0x0 with ty := 0 }),
    (0x80C003E0201800000000000000000000, .xxor { xf 31 2 3 0x0 0x0 with ty := 0 }),
    (0x80E003E0201800000000000000000000, .xshl { xf 31 2 3 0x0 0x0 with ty := 0 }),
    (0x81080020201800000000000000000000, .xshr (xf 1 2 3 0x0 0x0)),
    (0x81300020201800000000000000000000, .xmin { xf 1 2 3 0x0 0x0 with ty := 8 }),
    (0x8148002023E0000000000000FFFFFFFF, .xmax { xf 1 2 0 0x0 0xFFFFFFFF with b := .queue 15 false false 0 }),
    (0x8160002000000000FEDCBA9876543210, .xli { xf 1 0 0 0x0 0xFEDCBA9876543210 with ty := 0 }),
    (0x81900020201800050000000000000000, .xcmp { xf 1 2 3 0x5 0x0 with ty := 8 })] : List (Nat × Instr)),
    decodeTableWord 128 p.1 = some p.2 := by decide +kernel

theorem test_decode_syllables_control : ∀ p ∈ ([
    (0x820000000000000000000000FFFFFFFC, .brx { xf 0 0 0 0x0 0xFFFFFFFC with ty := 0 }),
    (0x82200000500000000000000000000004, .bcxNz { xf 0 5 0 0x0 0x4 with ty := 0 }),
    (0x82200000500000010000000000000004, .bcxZ { xf 0 5 0 0x1 0x4 with ty := 0 }),
    (0x82200000500000020000000000000004, .bcxK { xf 0 5 0 0x2 0x4 with ty := 0 }),
    (0x82200000500000030000000000000004, .bcxNk { xf 0 5 0 0x3 0x4 with ty := 0 }),
    (0x82200000500000040000000000000004, .bcxAny { xf 0 5 0 0x4 0x4 with ty := 0 }),
    (0x82200000500000050000000000000004, .bcxNone { xf 0 5 0 0x5 0x4 with ty := 0 }),
    (0x822000000000000600000000FFFFFFF8, .bcxLoop { xf 0 0 0 0x6 0xFFFFFFF8 with ty := 0 }),
    (0x82400000000000000000000000110000, .lsetup { xf 0 0 0 0x0 0x110000 with ty := 0 }),
    (0x82400000500000010000000000060000, .lsetupReg { xf 0 5 0 0x1 0x60000 with ty := 0 }),
    (0x82600000000000000000000000000002, .chkpt { xf 0 0 0 0x0 0x2 with ty := 0 }),
    (0x8280000000000000000000000001000F, .xsemv { xf 0 0 0 0x0 0x1000F with ty := 0 }),
    (0x82A0000000000000000000000000000F, .xsemp { xf 0 0 0 0x0 0xF with ty := 0 }),
    (0x82C00020200000000000000000000000, .lsupd { xf 1 2 0 0x0 0x0 with ty := 0 }),
    (0x82C00020000000010000000000000000, .lsupdGet { xf 1 0 0 0x1 0x0 with ty := 0 }),
    (0x82C00000200000020000000000000000, .lsupdSet { xf 0 2 0 0x2 0x0 with ty := 0 }),
    (0x82C00020200000030000000000000000, .lsupdFlg { xf 1 2 0 0x3 0x0 with ty := 0 }),
    (0x82E00000000000000000000000001234, .xtrap { xf 0 0 0 0x0 0x1234 with ty := 0 }),
    (0x83000000000000000000000000000000, .xend { xf 0 0 0 0x0 0x0 with ty := 0 }),
    (0x83E00000000000010000000000000008, .syncjFork { xf 0 0 0 0x1 0x8 with ty := 0 }),
    (0x83E000000000000000000005FFFFFFFB, .syncjJoin { xf 0 0 0 0x0 0x5FFFFFFFB with ty := 0 })] : List (Nat × Instr)),
    decodeTableWord 128 p.1 = some p.2 := by decide +kernel

theorem test_decode_syllables_vector : ∀ p ∈ ([
    (0x84020020201800000000000000000000, .vadd { xf 1 2 3 0x0 0x0 with ty := 1 }),
    (0x84220020201800000000000000000000, .vsub { xf 1 2 3 0x0 0x0 with ty := 1 }),
    (0x84420020201800000000000000000000, .vmul { xf 1 2 3 0x0 0x0 with ty := 1 }),
    (0x84620020201800000000000000000000, .vmulh { xf 1 2 3 0x0 0x0 with ty := 1 }),
    (0x848E0020201810000000000000000000, .vmadd { xf 1 2 3 0x0 0x0 with ty := 7, c := .reg 4 0 }),
    (0x84A40020201800000000000000000000, .vmin { xf 1 2 3 0x0 0x0 with ty := 2 }),
    (0x84CA0020201800000000000000000000, .vmax { xf 1 2 3 0x0 0x0 with ty := 5 }),
    (0x84E137E0201800000000000000000000, .vand { xf 63 2 3 0x0 0x0 with ty := 0, gp := 3, neg := true }),
    (0x850137E0201800000000000000000000, .vor { xf 63 2 3 0x0 0x0 with ty := 0, gp := 3, neg := true }),
    (0x852137E0201800000000000000000000, .vxor { xf 63 2 3 0x0 0x0 with ty := 0, gp := 3, neg := true }),
    (0x85460020201800000000000000000000, .vshl { xf 1 2 3 0x0 0x0 with ty := 3 }),
    (0x856A0020201800000000000000000000, .vshr { xf 1 2 3 0x0 0x0 with ty := 5 }),
    (0x85820020201800000000000000000000, .vsar { xf 1 2 3 0x0 0x0 with ty := 1 }),
    (0x85A40020200000000000000000000000, .vabs { xf 1 2 0 0x0 0x0 with ty := 2 }),
    (0x85CC0020201800000000000000000000, .vsadd { xf 1 2 3 0x0 0x0 with ty := 6 }),
    (0x85EE0020201800000000000000000000, .vssub { xf 1 2 3 0x0 0x0 with ty := 7 }),
    (0x86040080201800120000000000000000, .vcmp { xf 4 2 3 0x12 0x0 with ty := 2 }),
    (0x862000202018000F0000000000000000, .vsel { xf 1 2 3 0xF 0x0 with ty := 0 }),
    (0x864A0020200000000000000000000000, .vpopc { xf 1 2 0 0x0 0x0 with ty := 5 }),
    (0x866E0020200000000000000000000000, .vclz { xf 1 2 0 0x0 0x0 with ty := 7 }),
    (0x86800020201800000000000000000000, .vmix { xf 1 2 3 0x0 0x0 with ty := 0 })] : List (Nat × Instr)),
    decodeTableWord 128 p.1 = some p.2 := by decide +kernel

theorem test_decode_syllables_float : ∀ p ∈ ([
    (0x88120020201800000000000000000000, .fadd { xf 1 2 3 0x0 0x0 with ty := 9 }),
    (0x88320020201800000000000000000000, .fsub { xf 1 2 3 0x0 0x0 with ty := 9 }),
    (0x88520020201800000000000000000000, .fmul { xf 1 2 3 0x0 0x0 with ty := 9 }),
    (0x88740020201810000000000000000000, .ffma { xf 1 2 3 0x0 0x0 with ty := 10, c := .reg 4 0 }),
    (0x88960020201800000000000000000000, .fmin { xf 1 2 3 0x0 0x0 with ty := 11 }),
    (0x88B60020201800000000000000000000, .fmax { xf 1 2 3 0x0 0x0 with ty := 11 }),
    (0x88D60020201800000000000000000000, .fminn { xf 1 2 3 0x0 0x0 with ty := 11 }),
    (0x88F60020201800000000000000000000, .fmaxn { xf 1 2 3 0x0 0x0 with ty := 11 }),
    (0x89120020200000000000000000000000, .fabs { xf 1 2 0 0x0 0x0 with ty := 9 }),
    (0x89320020200000000000000000000000, .fneg { xf 1 2 0 0x0 0x0 with ty := 9 }),
    (0x89520080201800060000000000000000, .fcmp { xf 4 2 3 0x6 0x0 with ty := 9 }),
    (0x8A120020200000000000000000000000, .frcp { xf 1 2 0 0x0 0x0 with ty := 9 }),
    (0x8A320020200000000000000000000000, .frsq { xf 1 2 0 0x0 0x0 with ty := 9 }),
    (0x8A520020200000000000000000000000, .fexp2 { xf 1 2 0 0x0 0x0 with ty := 9 }),
    (0x8A720020200000000000000000000000, .flog2 { xf 1 2 0 0x0 0x0 with ty := 9 }),
    (0x8A920020200000000000000000000000, .ftanh { xf 1 2 0 0x0 0x0 with ty := 9 })] : List (Nat × Instr)),
    decodeTableWord 128 p.1 = some p.2 := by decide +kernel

theorem test_decode_syllables_convert : ∀ p ∈ ([
    (0x8C120040100000030000000000000000, .cvt { xf 2 1 0 0x3 0x0 with ty := 9 }),
    (0x8C340020201810090000000000000000, .cvtsr { xf 1 2 3 0x9 0x0 with ty := 10, c := .reg 4 0 }),
    (0x8C420020200000070000000000000000, .planes { xf 1 2 0 0x7 0x0 with ty := 1 }),
    (0x8C660020200000070000000000000000, .unplane { xf 1 2 0 0x7 0x0 with ty := 3 })] : List (Nat × Instr)),
    decodeTableWord 128 p.1 = some p.2 := by decide +kernel

theorem test_decode_syllables_axis : ∀ p ∈ ([
    (0x8E00002023E000000000000000000005, .rotrow { xf 1 2 0 0x0 0x5 with ty := 0, b := .queue 15 false false 0 }),
    (0x8E20002023E000000000000000000005, .rotcol { xf 1 2 0 0x0 0x5 with ty := 0, b := .queue 15 false false 0 }),
    (0x8E40002023E000000000000000000005, .bcrow { xf 1 2 0 0x0 0x5 with ty := 0, b := .queue 15 false false 0 }),
    (0x8E60002023E000000000000000000005, .bccol { xf 1 2 0 0x0 0x5 with ty := 0, b := .queue 15 false false 0 }),
    (0x8E860020200000020000000000000000, .redrow { xf 1 2 0 0x2 0x0 with ty := 3 }),
    (0x8EA60020200000020000000000000000, .redcol { xf 1 2 0 0x2 0x0 with ty := 3 }),
    (0x8EC60020200000020000000000000000, .scanrow { xf 1 2 0 0x2 0x0 with ty := 3 }),
    (0x8EE00020201800030000000000000000, .cshift { xf 1 2 3 0x3 0x0 with ty := 0 }),
    (0x8EE000202000000A0000000000000000, .cshiftXc { xf 1 2 0 0xA 0x0 with ty := 0 }),
    (0x8F000020200000000000000000000000, .trans16 { xf 1 2 0 0x0 0x0 with ty := 0 })] : List (Nat × Instr)),
    decodeTableWord 128 p.1 = some p.2 := by decide +kernel

theorem test_decode_syllables_predicate : ∀ p ∈ ([
    (0x900001E0201800000000000000000000, .kand { xf 15 2 3 0x0 0x0 with ty := 0 }),
    (0x902001E0201800000000000000000000, .kor { xf 15 2 3 0x0 0x0 with ty := 0 }),
    (0x904001E0201800000000000000000000, .kxor { xf 15 2 3 0x0 0x0 with ty := 0 }),
    (0x90600020200000000000000000000000, .knot { xf 1 2 0 0x0 0x0 with ty := 0 }),
    (0x90800020200000000000000000000000, .kmov { xf 1 2 0 0x0 0x0 with ty := 0 }),
    (0x90A003E0200000000000000000000000, .kpopc { xf 31 2 0 0x0 0x0 with ty := 0 })] : List (Nat × Instr)),
    decodeTableWord 128 p.1 = some p.2 := by decide +kernel

theorem test_decode_syllables_tower : ∀ p ∈ ([
    (0x92000020200000000000004000000000, .twld { xf 1 2 0 0x0 0x4000000000 with ty := 0 }),
    (0x92200000201800000000004000000000, .twst { xf 0 2 3 0x0 0x4000000000 with ty := 0 }),
    (0x924000A7C00000000000004000000000, .twldx { xf 5 0 0 0x0 0x4000000000 with ty := 0, a := .queue 15 false false 0 })] : List (Nat × Instr)),
    decodeTableWord 128 p.1 = some p.2 := by decide +kernel

theorem test_decode_syllables_queue : ∀ p ∈ ([
    (0x94000025E00000000000000000000000, .qpop { xf 1 0 0 0x0 0x0 with ty := 0, a := .queue 7 true false 0 }),
    (0x94200025D00000000000000000000000, .qpeek { xf 1 0 0 0x0 0x0 with ty := 0, a := .queue 7 false true 0 }),
    (0x94400C00200000000000000000000000, .qpush { xf 0 2 0 0x0 0x0 with ty := 0, d := .queue 8 false false 0 }),
    (0x94600D80200000000000000000000001, .kstq { xf 0 2 0 0x0 0x1 with ty := 0, d := .queue 11 false false 0 }),
    (0x94600D80200000000000000000000021, .kstqPush { xf 0 2 0 0x0 0x21 with ty := 0, d := .queue 11 false false 0 })] : List (Nat × Instr)),
    decodeTableWord 128 p.1 = some p.2 := by decide +kernel

theorem test_decode_syllables_record : ∀ p ∈ ([
    (0x9800002020187C000000000F00000003, .mma { xf 1 2 3 0x0 0xF00000003 with ty := 0, c := .reg 31 0 }),
    (0x9820002020187C000000000F00000003, .wload { xf 1 2 3 0x0 0xF00000003 with ty := 0, c := .reg 31 0 }),
    (0x9840002020187C000000000F00000003, .wswap { xf 1 2 3 0x0 0xF00000003 with ty := 0, c := .reg 31 0 }),
    (0x9860002020187C000000000F00000003, .accz { xf 1 2 3 0x0 0xF00000003 with ty := 0, c := .reg 31 0 }),
    (0x9880002020187C000000000F00000003, .drain { xf 1 2 3 0x0 0xF00000003 with ty := 0, c := .reg 31 0 }),
    (0x98A0002020187C000000000F00000003, .rowstat { xf 1 2 3 0x0 0xF00000003 with ty := 0, c := .reg 31 0 }),
    (0x98C0002020187C000000000F00000003, .vnest { xf 1 2 3 0x0 0xF00000003 with ty := 0, c := .reg 31 0 }),
    (0x98E0002020187C000000000F00000003, .scqpush { xf 1 2 3 0x0 0xF00000003 with ty := 0, c := .reg 31 0 }),
    (0x99000000000000000000000300000000, .mwait { xf 0 0 0 0x0 0x300000000 with ty := 0 }),
    (0x99000000000000010000000000000000, .mwaitAll { xf 0 0 0 0x1 0x0 with ty := 0 })] : List (Nat × Instr)),
    decodeTableWord 128 p.1 = some p.2 := by decide +kernel

/-! ### Ill-formed instructions are refused, with the detail of R226 -/

/-- The causes of an instruction's fields. -/
def why (i : Instr) : Option Reject :=
  match i.aForm with
  | some (_, k, f) => lowest (k.details f)
  | none => match i.xForm with
    | some (_, k, f) => lowest (k.details f)
    | none => none
/-- Every instruction of a list is ill-formed, by the cause given. -/
def refused (r : Reject) (is : List Instr) : Bool := is.all fun i => !i.wf && why i == some r

theorem test_ill_formed_class : refused .pclIllegal [.add { af 0 1 2 3 0 with pcl := 3 }, .xadd { xf 1 2 3 0 0 with ty := 0, pcl := 3 }]
    && refused .pclRefused [.add { af 0 1 2 3 0 with pcl := 1 }, .xadd { xf 1 2 3 0 0 with ty := 0, pcl := 1 }] = true := by decide +kernel

theorem test_ill_formed_integer : refused .reserved [.add (af 1 1 2 3 0), .shl (af 2 1 2 3 0), .add (af 0 1 2 3 1), .shlImm (af 1 1 2 3 0),
    .shlImm (af 1 1 2 0 64), .clz (af 0 1 2 3 0), .sel (af 0 1 2 3 64), .addi (af 0 1 2 3 0), .li (af 0 1 2 0 0), .exts (af 0 1 2 3 12),
    .exts (af 0 1 2 0 0x80), .exts (af 0 1 2 0 0x10000), .extsVar (af 0 1 2 3 0x8001), .jmp (af 0 1 0 0 0), .jal (af 0 1 2 0 0), .jali (af 0 1 2 3 0),
    .beq (af 0 1 2 3 0), .loop (af 0 1 2 0 0)]
    && refused .range [.exts (af 0 1 2 0 65)] && refused .index [.loop (af 0 0 0 0 0)] = true := by decide +kernel

theorem test_ill_formed_memory : refused .reserved [.ld (af 0 1 2 3 0), .ld (af 0 1 2 0 0x80000000), .ld (af 0 1 2 0 0x20000000),
    .ldaq (af 0 1 2 0 0x40000000), .st (af 0 1 2 3 0), .cas (af 0 1 2 3 0x84000000), .fence (af 0 1 0 0 0), .fence (af 0 0 0 0 0x40000),
    .fencew (af 0 0 0 0 0x400), .wset (af 0 1 2 3 0), .wset (af 0 0 2 3 8), .wsetHandle (af 0 0 1 0 0x10000), .wclr (af 0 0 0 0 0x100),
    .icinv (af 0 0 1 2 4), .icsync (af 0 0 0 0 1)]
    && refused .range [.ld (af 0 1 2 0 0x0E000000), .ld (af 0 1 2 0 0x800000), .st (af 0 0 2 3 0x08000000), .st (af 0 0 2 3 0x800000),
      .strl (af 0 0 2 3 0x08000000), .cas (af 0 1 2 3 0x02000000), .cas (af 0 1 2 3 0x0C000000), .cas (af 0 1 2 3 0x04800000)] = true := by decide +kernel

theorem test_ill_formed_engine : refused .reserved [.tldq (af 0 8 1 0 0), .tldq (af 0 0 1 2 0), .tldq (af 0 0 1 0 0x400000), .sqd (af 0 4 1 0 0),
    .qstat (af 0 1 1 0 0), .xcopy (af 0 1 2 3 0x2000001), .xcopy (af 0 1 2 0 0x400001), .xcopyTpl (af 0 1 2 3 0x200400), .tfill (af 0 1 2 3 0x200040),
    .tfill (af 0 1 2 3 0x1000040), .tdrain (af 0 1 2 3 0x1000040), .gathert (af 0 1 2 4 0x1000000), .nmred (af 0 1 2 3 0x130001),
    .nmred (af 0 0 2 3 0x430001)]
    && refused .range [.xcopy (af 0 1 2 3 0), .tfill (af 0 1 2 3 32), .tfill (af 0 1 2 3 262208), .tdrain (af 0 1 2 3 0), .nmred (af 0 1 2 3 0x30000)]
    && refused .index [.gathert (af 0 1 2 0 0), .gathert (af 0 1 2 3 0)]
    && refused .type [.nmred (af 0 1 2 3 1), .nmcas (af 0 1 2 3 0x10001), .nmsax (af 0 1 2 3 0x30001)] = true := by decide +kernel

theorem test_ill_formed_sync : refused .reserved [.bwset (af 0 1 2 0 0), .bwset (af 0 0 2 0 0x200000), .bwarrive (af 0 0 2 0 0x200001),
    .bwarrive (af 0 0 2 0 0x40000001), .waitgen (af 0 1 2 0 0x10000), .semv (af 0 0 0 0 0x10010), .semv (af 0 1 0 0 0x10000), .semtry (af 0 1 1 0 0x10000),
    .bgive (af 0 0 0 0 0x40), .bgiveNone (af 0 0 0 0 0x440), .btake (af 0 1 0 0 0x40), .bquery (af 0 1 0 0 0x40), .msend (af 0 1 2 3 0x40),
    .snap (af 0 1 2 3 0x1000000), .snapq (af 0 1 0 0 8), .snapqT (af 0 1 0 0 12), .txbegin (af 0 1 2 3 0x400), .txcommit (af 0 1 0 0 4),
    .texit (af 0 0 0 0 1), .grow (af 0 1 2 3 0), .tidx (af 0 1 0 0 16), .rdgtc (af 0 1 1 0 0), .refdefer (af 0 0 2 0 0x10000)]
    && refused .range [.semv (af 0 0 0 0 0), .semtry (af 0 1 0 0 0), .bgive (af 0 0 0 0 0x500), .msend (af 0 1 2 3 57)] = true := by decide +kernel

theorem test_ill_formed_supervisor : refused .reserved [.csrrd (af 0 1 0 0 0x1000), .csrwr (af 0 1 2 3 0), .trap (af 0 0 0 0 0x10000), .eret (af 0 1 0 0 0),
    .tlbinv (af 0 1 2 3 0), .tlbinv (af 0 0 2 3 0x1000), .tlbinv (af 0 0 0 0 0x2001), .shoot (af 0 1 2 3 0x1000), .shoot (af 0 1 0 0 0x4000),
    .remapTowerBank (af 0 1 2 3 0), .remapClusterTable (af 0 1 2 0 3), .halt (af 0 0 0 0 1), .pause (af 0 0 0 0 0x100001), .errpop (af 0 1 2 0 1)]
    && refused .range [.csrrd (af 0 1 0 0 6), .csrwr (af 0 1 2 0 0x73), .tlbinv (af 0 0 2 3 0x3000), .shoot (af 0 1 2 3 0x3000), .pause (af 0 0 0 0 0)]
      = true := by decide +kernel

/-- A syllable of type `ty`. -/
def xt (ty : BitVec 4) (d a b : BitVec 6) (fn : BitVec 8) (imm : BitVec 64) : XF := { xf d a b fn imm with ty := ty }

theorem test_ill_formed_scalar : refused .reserved [.nop (xt 0 0 0 0 0 1), .nop (xt 0 1 0 0 0 0), .xadd (xt 0 1 2 3 0 1), .xadd (xt 0 1 2 3 1 0),
    .xadd { xt 0 1 2 3 0 0 with c := .reg 1 0 }, .xcmp (xt 4 1 2 3 8 0), .brx (xt 0 0 0 0 0 0x100000000), .lsetup (xt 0 0 0 0 2 0x20001),
    .lsetupReg (xt 0 0 1 0 1 0x20001), .chkpt (xt 0 0 0 0 0 0x100000000), .xsemv (xt 0 0 0 0 0 0x10010), .xsemp (xt 0 0 0 0 0 16),
    .lsupd (xt 0 1 2 0 4 0), .lsupdSet (xt 0 1 2 0 2 0), .xtrap (xt 0 0 0 0 0 0x10000), .xend (xt 0 0 0 0 0 1), .syncjFork (xt 0 0 0 0 3 0),
    .syncjJoin (xt 0 0 0 0 0 0x10000000000)]
    && refused .index [.xadd (xt 0 32 2 3 0 0), .bcxK (xt 0 0 16 0 2 0)]
    && refused .kind [.xadd { xt 0 1 2 3 0 0 with a := .reg 2 1 }, .xadd { xt 0 1 2 3 0 0 with a := .queue 0 true false 0 },
      .xadd { xt 0 1 2 3 0 0 with c := .reg 0 1 }]
    && refused .type [.xshr (xt 0 1 2 3 0 0), .xadd (xt 4 1 2 3 0 0), .nop (xt 1 0 0 0 0 0)]
    && refused .range [.xcmp (xt 4 1 2 3 6 0), .xcmp (xt 0 1 2 3 2 0), .bcxLoop (xt 0 0 0 0 7 0), .lsetup (xt 0 0 0 0 0 0x20000),
      .lsetup (xt 0 0 0 0 0 1), .lsetup (xt 0 0 0 0 0 0x120001), .lsetup (xt 0 0 0 0 0 0x30001), .lsetupReg (xt 0 0 1 0 1 0), .xsemv (xt 0 0 0 0 0 1)]
    && refused .mode [.syncjFork (xt 0 0 0 0 1 0x500000000)]
    && refused .guard [.xadd { xt 0 1 2 3 0 0 with gp := 1 }, .vadd { xt 1 1 2 3 0 0 with neg := true }] = true := by decide +kernel

theorem test_ill_formed_vector : refused .reserved [.vadd (xt 1 1 2 3 1 0), .vadd (xt 1 1 2 3 0 1), .vadd (xt 1 1 2 3 0 0x100000000), .vsel (xt 0 1 2 3 0x10 0),
    .vcmp (xt 2 1 2 3 8 0), .cvt (xt 1 1 2 0 9 0x400000000), .cvt (xt 9 1 2 0 3 0x800000000), .planes (xt 1 1 2 0 0x10 0), .unplane (xt 3 1 2 0 7 0x400000000),
    .redrow (xt 3 1 2 0 4 0), .cshift (xt 0 1 2 3 0x10 0), .kand (xt 0 1 2 3 0 1), .knot (xt 0 1 2 0 1 0), .kpopc (xt 0 1 2 0 0 1)]
    && refused .kind [.vadd { xt 1 1 2 3 0 0 with d := .reg 1 1 }, .vadd { xt 1 1 2 3 0 0 with a := Opnd.marker, b := Opnd.marker },
      .vadd { xt 1 1 2 3 0 0 with a := .queue 3 true false 0, b := .queue 3 false false 0 }, .vadd { xt 1 1 2 3 0 0 with a := .queue 8 true false 0 }]
    && refused .index [.vcmp (xt 2 0 2 3 0 0), .kand (xt 0 16 2 3 0 0)]
    && refused .type [.vadd (xt 9 1 2 3 0 0), .fadd (xt 1 1 2 3 0 0), .vshr (xt 1 1 2 3 0 0), .cvt (xt 9 1 2 0 9 0),
      .cvtsr { xt 10 1 2 3 1 0 with c := .reg 4 0 }, .redrow (xt 1 1 2 0 0 0)]
    && refused .range [.vadd { xt 1 1 2 3 0 0x4000000000000000 with a := .reg 2 1 }, .vadd (xt 1 1 2 3 0 0x0400000000000000), .vcmp (xt 2 1 2 3 0x20 0),
      .vcmp (xt 0 1 2 3 2 0), .fcmp (xt 9 1 2 3 7 0), .cvt (xt 9 1 2 0 3 0x100000000), .planes (xt 2 1 2 0 0 0x200000000),
      .redcol (xt 3 1 2 0 3 0), .cshift (xt 0 1 2 0 0xC 0), .cshiftXc (xt 0 1 2 0 8 0)] = true := by decide +kernel

theorem test_ill_formed_queue : refused .reserved [.kstq { xt 0 0 2 0 0 0x40 with d := .queue 8 false false 0 }, .mma (xt 0 1 2 3 0 0x1000000000),
    .mwait (xt 0 0 0 0 0 1), .mwaitAll (xt 0 0 0 0 1 0x100000000)]
    && refused .kind [.qpop { xt 0 1 0 0 0 0 with a := .queue 0 false false 0 }, .qpeek { xt 0 1 0 0 0 0 with a := .queue 0 true false 0 },
      .qpop { xt 0 1 0 0 0 0 with a := .queue 8 true false 0 }, .qpush { xt 0 0 2 0 0 0 with d := .queue 0 false false 0 }] = true := by decide +kernel

theorem test_unassigned : (decodeA (0x0E00000000000000 : BitVec 64)).toOption = none ∧ (decodeX (0x81A00000000000000000000000000000 : BitVec 128)).toOption = none := by
  decide +kernel

/-- R186, R220-R222: what the place of a syllable adds: its slot, LS, the alignment of a branch, a join in lock-step mode. -/
theorem test_ill_placed :
    let e (w : BitVec 128) (slot at_ : Nat) (indep forks : Bool) : Option Reject := match decodePlaced w slot at_ indep forks with | .error r => some r | .ok _ => none
    let add : BitVec 128 := 0x80200000000000000000000000000000
    e add 0 0 false false = none ∧ e add 1 0 false false = some .slot ∧ e add 0 0 true false = some .mode
      ∧ e 0x82000000000000000000000000000002 0 0 false false = some .target ∧ e 0x82000000000000000000000000000004 0 0 false false = none
      ∧ e 0x83E00000000000000000000500000004 0 0 false false = some .mode ∧ e 0x03E00000000000000000000500000004 1 16 true false = some .reserved
      ∧ e 0x83E00000000000010000000000000008 2 32 false false = some .mode ∧ e 0x83E00000000000010000000000000008 2 32 false true = none := by
  decide +kernel

/-! ### Results of the spec's worked examples -/

/-- The register `r` that an instruction leaves from two registers set. -/
def res (i : Instr) (ra : BitVec 6) (a : W64) (rb : BitVec 6) (b : W64) (r : BitVec 6) : Nat := ((after (exec i (two ra a rb b))).g r).toNat

/-- The example of R271. -/
theorem test_division :
    res (.div (af 0 5 3 4 0)) 3 (BitVec.ofInt 64 (-7)) 4 2 5 = 0xFFFFFFFFFFFFFFFD ∧ res (.rem (af 0 5 3 4 0)) 3 (BitVec.ofInt 64 (-7)) 4 2 5 = 2 ^ 64 - 1
      ∧ res (.divn (af 0 5 3 4 0)) 3 0xFFFFFFFFFFFFFFF9 4 2 5 = 0x7FFFFFFFFFFFFFFC ∧ res (.remn (af 0 5 3 4 0)) 3 0xFFFFFFFFFFFFFFF9 4 2 5 = 1 := by
  decide +kernel
/-- The example of R273. -/
theorem test_wide_immediate :
    res (.li (af 0 9 0 0 0x80000000)) 1 0 2 0 9 = 0xFFFFFFFF80000000 ∧ res (.lih (af 0 9 0 0 1)) 9 0xFFFFFFFF80000000 2 0 9 = 0x180000000 := by decide +kernel
/-- The example of R274. -/
theorem test_shifts :
    res (.shlImm (af 1 3 4 0 5)) 4 0xF000000000000001 5 0 3 = 0x20 ∧ res (.sar (af 0 3 4 5 0)) 4 0xF000000000000001 5 200 3 = 2 ^ 64 - 1
      ∧ res (.rotr (af 0 3 4 5 0)) 4 0xF000000000000001 5 68 3 = 0x1F00000000000000 := by decide +kernel
/-- The example of R277. -/
theorem test_fields :
    let g6 : W64 := 0x8123456789ABCDEF
    res (.extz (af 0 5 6 0 0x408)) 6 g6 7 0 5 = 0xDE ∧ res (.exts (af 0 5 6 0 0x408)) 6 g6 7 0 5 = 0xFFFFFFFFFFFFFFDE
      ∧ res (.exts (af 0 5 6 0 0x380C)) 6 g6 7 0 5 = 0xFFFFFFFFFFFFFF81 ∧ res (.exts (af 0 5 6 0 0x40)) 6 g6 7 0 5 = 0x8123456789ABCDEF
      ∧ res (.exts (af 0 5 6 0 0x400)) 6 g6 7 0 5 = 0 ∧ res (.ins (af 0 5 7 0 0x380C)) 7 0xABC 5 0xFFFF0000 5 = 0xBC000000FFFF0000
      ∧ res (.ins (af 0 5 7 0 0x808)) 7 0xABC 5 0xFFFF0000 5 = 0xFFFFBC00 ∧ res (.extzVar (af 0 5 6 8 0x8000)) 6 g6 8 0x38D0 5 = 0x81 := by decide +kernel
/-- The example of R280: BLTN back by three. -/
theorem test_branch : ((after (exec (.bltn (af 0 0 2 3 0xFFFFFFFD)) { (two 2 1 3 2) with clusters := (two 2 1 3 2 |>.onA 0 fun a => { a with pc := 64 }).clusters })).a.pc) = 40 := by
  decide +kernel
/-- The examples of R23 and R113. -/
theorem test_channel :
    up.channel 0x01234567800 = (220, 0x091A2B00)
      ∧ ({ up with dev := { up.dev with failed := [220] } } : State).channel 0x01234567800 = (186, 0x2FEC8F00) := by decide +kernel
/-- The example of R44 and R46: a load's walk, and an instruction fetch of the same address. -/
theorem test_walk :
    let m : Memory := ((Memory.writeN [] 0x05000100810 8 0x5000101003).writeN 0x05000101468 8 0x5000102003).writeN 0x05000102158 8 0x12340002DD
    let s : State := { up with hbm := m.writeN (0x5F00000000 + 64 * 9) 64 (9 + 2 ^ 12 + 0x5000100 * 2 ^ 76) }
    (match (s.resolve 0 9 0x8123456789ABC .acore [pAR]).1 with | .at_ .hbm pa => pa | _ => 0) = 0x01234789ABC
      ∧ (match (s.resolve 0 9 0x8123456789ABC .acore [pAX]).1 with | .fault k => k | _ => 0) = 2 := by decide +kernel
/-- The example of R249: the order of the sum. -/
theorem test_sum_order : (fadd .f32 0x4B800000 0x3F800000).1 = 0x4B800000 ∧ (fadd .f32 (fadd .f32 0x4B800000 0x40000000).1 0x3F800000).1 = 0x4B800002 := by
  decide +kernel
/-- The worked example of R371, and its variation with SCQ. -/
theorem test_mma :
    let w (k : Int) : WSet := { f := 1, w := (List.range 16).map fun i => (512 * 7 + i, 5), scale := [(32 * 7, some k)] }
    let row : List Block := { scale := some 0, sign := List.replicate 16 false, m := List.replicate 16 3 } ::
      List.replicate 7 { scale := some 0, sign := List.replicate 16 false, m := List.replicate 16 0 }
    (fadd .f32 0x3F800000 (passSum (w (-4)) 7 row)).1 = 0x41800000 ∧ (fadd .f32 0x3F800000 (passSum (w (-7)) 7 row)).1 = 0x40380000 := by decide +kernel
/-- The example of R247: E4M3 into five planes. -/
theorem test_planes :
    let b := planesOf ([0x5A, 0xC3, 0x31, 0x06, 0x80].map (fpVal .e4m3) ++ List.replicate 11 (fpVal .e4m3 0)) 5
    b.1.bytes 5 = [0x00, 0x00, 0x12, 0x00, 0x06, 0x00, 0x02, 0x00, 0x01, 0x00, 0x00, 0x00, 0x01, 0x00] ∧ b.2 = fNX := by decide +kernel
/-- The example of R248: MXFP4 into four planes. -/
theorem test_planes_mx :
    (planesOfMX ([7, 9, 2, 0xC, 5] ++ List.replicate 10 0 ++ [0xF]) 0x7C 4).bytes 4
      = [0xFC, 0x0F, 0x0A, 0x80, 0x02, 0x00, 0x14, 0x00, 0x19, 0x80, 0x01, 0x80] := by decide +kernel
/-- The example of R263: five steps of loss scaling. -/
theorem test_loss_scale :
    let v0 := 15 + 15 * 2 ^ 8 + 16 * 2 ^ 16 + 2 * 2 ^ 24 + 1 * 2 ^ 40
    let go (v : Nat) (ov : Bool) : Nat × Nat := ((lsStep v ov).1, f32Pow (lsSexp (lsStep v ov).1) * 2 ^ 32 + (lsStep v ov).2)
    let a := go v0 false
    let b := go a.1 false
    let c := go b.1 false
    let d := go c.1 true
    let e := go d.1 true
    [a.2, b.2, c.2, d.2, e.2] = [0x4780000000000002, 0x4780000000000000, 0x4780000000000008, 0x4700000000000005, 0x4700000000000009] := by decide +kernel
/-- The example of R449: column 3 after the retirement of row 5. -/
theorem test_retired_column :
    let r : Retire := { col := 3, row := 5, next := 5, since := 0, cl := 83 }
    let s : State := { up with rel := { up.rel with retiring := [r] } }
    (after (exec (.clusterRetirement 83) s)).dev.clmap.toNat / 2 ^ 12 % 16 = 5 ∧ up.heldRange 3 5 = [83, 99, 115, 131, 147, 163, 179] := by decide +kernel
/-- The example of R256: four random bits. -/
theorem test_stochastic : convertSR 0xB false 4 5 0x3F80A000 = (0x3F80, fNX) ∧ convertSR 0xB false 4 6 0x3F80A000 = (0x3F81, fNX) := by decide +kernel

end

end Sys2Proof.Tests
end

section
/-! PROOFS. The host interface: what the queue and device registers hold, what host accesses through BAR2 do, and what the completions of the
device's requests leave of the host page and of host memory (R452-R457, R462, R472, R481-R484). -/

namespace Sys2Proof.Machine
open Sys2Proof

/-! ### Operations that leave the host page and host memory alone -/

/-- `t` has the host page of `s` and its host memory. -/
structure State.KeepsHost (s t : State) : Prop where
  host : t.host = s.host
  hostMem : t.hostMem = s.hostMem

namespace State.KeepsHost

theorem refl (s : State) : s.KeepsHost s := ⟨rfl, rfl⟩

theorem trans {s t u : State} (h : s.KeepsHost t) (k : t.KeepsHost u) : s.KeepsHost u :=
  ⟨k.host.trans h.host, k.hostMem.trans h.hostMem⟩

theorem foldl {α : Type} {f : State → α → State} (h : ∀ (s : State) (a : α), s.KeepsHost (f s a)) (s : State) (l : List α) :
    s.KeepsHost (l.foldl f s) := by
  induction l generalizing s with
  | nil => exact refl s
  | cons a l ih => exact (h s a).trans (ih _)

theorem onA (s : State) (n : Nat) (f : ACore → ACore) : s.KeepsHost (s.onA n f) := ⟨rfl, rfl⟩
theorem onX (s : State) (n : Nat) (f : XCore → XCore) : s.KeepsHost (s.onX n f) := ⟨rfl, rfl⟩
theorem onCl (s : State) (n : Nat) (f : Cluster → Cluster) : s.KeepsHost (s.onCl n f) := ⟨rfl, rfl⟩
theorem withDisp (s : State) (d : Disp) : s.KeepsHost { s with disp := d } := ⟨rfl, rfl⟩
theorem dropLate (s : State) (p : Nat → Nat → Bool) : s.KeepsHost (s.dropLate p) := ⟨rfl, rfl⟩
theorem draw (s : State) : s.KeepsHost s.draw.2 := ⟨rfl, rfl⟩

theorem report (s : State) (src rung event cid code detail addr info tval : Nat) :
    s.KeepsHost (s.report src rung event cid code detail addr info tval) := ⟨rfl, rfl⟩

theorem onNode (s : State) (e : Nat) (f : Node → Node) : s.KeepsHost (s.onNode e f) := by
  simp only [State.onNode]
  split
  · exact refl s
  · exact ⟨rfl, rfl⟩

/-! Messages to other chips -/

theorem sendOn (s : State) (p dst : Nat) (m : Msg) : s.KeepsHost (s.sendOn p dst m) := by
  simp only [State.sendOn]
  split <;> exact ⟨rfl, rfl⟩

theorem send (s : State) (dst : Nat) (m : Msg) (src : Nat) : s.KeepsHost (s.send dst m src) := by
  simp only [State.send]
  split
  · exact ⟨rfl, rfl⟩
  · split
    · exact refl s
    · exact sendOn s _ dst m

theorem respond (s : State) (src : TagSource) (tag : Nat) (st : RespStatus) (data : List Byte) : s.KeepsHost (s.respond src tag st data) := by
  simp only [State.respond]
  split
  · exact ⟨(send _ _ _ _).host, (send _ _ _ _).hostMem⟩
  · exact send _ _ _ _

/-! The node table -/

theorem leavePool (s : State) (e : Nat) : s.KeepsHost (s.leavePool e) := ⟨(onNode s e _).host, (onNode s e _).hostMem⟩

theorem fillPool (s : State) : s.KeepsHost s.fillPool := by
  refine foldl (fun s e => ?_) s _
  dsimp only
  split
  · split
    · exact ⟨(onNode s e _).host, (onNode s e _).hostMem⟩
    · exact refl s
  · exact refl s

theorem makeReady (s : State) (e : Nat) : s.KeepsHost (s.makeReady e) :=
  ((onNode s e _).trans (withDisp _ _)).trans (fillPool _)

theorem dropRecords (s : State) (rs : List Susp) : s.KeepsHost (s.dropRecords rs) :=
  foldl (f := fun s (r : Susp) => s.dropSends r.x.land) (fun _ _ => ⟨rfl, rfl⟩) s rs

theorem fail1 (s : State) (e status : Nat) : s.KeepsHost (s.fail1 e status) := by
  simp only [State.fail1]
  split
  · exact refl s
  · split
    · exact refl s
    · split
      · exact refl s
      · exact (((dropLate s _).trans (dropRecords _ _)).trans (onNode _ e _)).trans (leavePool _ e)

theorem tellReplicas (s : State) (n : Node) : s.KeepsHost (s.tellReplicas n) := by
  simp only [State.tellReplicas]
  split
  · exact foldl (fun s c => send s c _ _) s _
  · exact refl s

theorem launch (s : State) (e lead : Nat) : s.KeepsHost (s.launch e lead) := by
  simp only [State.launch]
  split
  · exact refl s
  · exact ((withDisp s _).trans (onNode _ e _)).trans (foldl (fun s c => send s c _ _) _ _)

theorem ready1 (s : State) (e c : Nat) : s.KeepsHost (s.ready1 e c) := by
  simp only [State.ready1]
  split
  · exact refl s
  · split
    · exact (onNode s e _).trans (launch _ e _)
    · exact onNode s e _

theorem release (s : State) (e : Nat) (n : Node) : s.KeepsHost (s.release e n) := by
  simp only [State.release]
  split
  · exact makeReady s e
  · split
    · exact (onNode s e _).trans (ready1 _ e _)
    · exact (onNode s e _).trans (send _ _ _ _)

theorem wakeNodes (s : State) : s.KeepsHost s.wakeNodes := by
  refine foldl (fun s e => ?_) s _
  split
  · split
    · split
      · exact (fail1 s e _).trans (tellReplicas _ _)
      · exact release s e _
      · exact refl s
    · exact refl s
  · exact refl s

theorem completeNode (s : State) (e : Nat) : s.KeepsHost (s.completeNode e) := by
  simp only [State.completeNode]
  split
  · exact refl s
  · split
    · exact refl s
    · have pool := (leavePool s e).trans (fillPool _)
      split
      · exact (pool.trans (onNode _ e _)).trans (wakeNodes _)
      · exact pool

/-! The end of an access -/

theorem dropAcc (s : State) (cl seq : Nat) : s.KeepsHost (s.dropAcc cl seq) := by
  simp only [State.dropAcc]
  split
  · exact (onA s cl _).trans (completeNode _ _)
  · exact onA s cl _

theorem acquired (s : State) (cl : Nat) (sc : Scope) : s.KeepsHost (s.acquired cl sc) := by
  simp only [State.acquired]
  split
  · exact onA s cl _
  · exact refl s

theorem returnValue (s : State) (cl : Nat) (l : Acc) (v : Nat) : s.KeepsHost (s.returnValue cl l v) :=
  (onCl s cl _).trans (dropAcc _ cl l.seq)

theorem loaded (s : State) (cl : Nat) (l : Acc) (v : Nat) : s.KeepsHost (s.loaded cl l v) := by
  simp only [State.loaded]
  split
  · exact (acquired s cl l.scope).trans (returnValue _ cl l v)
  · exact returnValue s cl l v

theorem fixValue (s : State) (cl : Nat) (l : Acc) (v : Nat) : s.KeepsHost (s.fixValue cl l v) := by
  simp only [State.fixValue]
  split
  · exact dropAcc s cl l.seq
  · split
    · exact (onA s cl _).trans (acquired _ cl l.scope)
    · exact onA s cl _

/-! The end of a command -/

theorem softWrite (s : State) (cl a : Nat) (bs : List Byte) : s.KeepsHost (s.softWrite cl a bs) := by
  have write : s.KeepsHost (s.spWrite cl a bs) := ⟨rfl, rfl⟩
  simp only [State.softWrite]
  split
  · exact write.trans (report _ _ _ _ _ _ _ _ _ _)
  · exact write

theorem arriveAt (s : State) (w : Option (Nat × Nat)) (n err : Nat) : s.KeepsHost (s.arriveAt w n err) := by
  simp only [State.arriveAt]
  split
  · exact refl s
  · simp only [State.onWord]
    split
    · exact report _ _ _ _ _ _ _ _ _ _
    · exact softWrite _ _ _ _

theorem failCmd (s : State) (cl : Nat) (k : Cmd) (err : Nat) : s.KeepsHost (s.failCmd cl k err) := by
  have arrived := arriveAt s k.word (k.count - k.counted) err
  simp only [State.failCmd]
  split
  · exact (arrived.trans (onX _ cl _)).trans (onA _ cl _)
  · exact arrived.trans (onA _ cl _)

theorem settle (s : State) (cl id : Nat) : s.KeepsHost (s.settle cl id) := by
  simp only [State.settle]
  split
  · split
    · exact onA s cl _
    · exact refl s
  · exact refl s

theorem cmdCompletion (s : State) (cl : Nat) (k : Cmd) (j : Nat) (ok : Bool) (data : List Byte) :
    s.KeepsHost (s.cmdCompletion cl k j ok data) := by
  simp only [State.cmdCompletion]
  split
  · exact (onA s cl _).trans (settle _ cl k.id)
  · exact failCmd s cl k 8

theorem icacheAdd (s : State) (cl : Nat) (x : Bool) (l : CLine) : s.KeepsHost (s.icacheAdd cl x l) := by
  simp only [State.icacheAdd]
  split <;> exact ⟨rfl, rfl⟩

theorem drawBytes (n : Nat) (s : State) : s.KeepsHost (State.drawBytes n s).2 := by
  induction n generalizing s with
  | zero => exact refl s
  | succ n ih => exact (draw s).trans (ih s.draw.2)

end State.KeepsHost

/-! ### Completions of the device's requests (R293, R437, R454) -/

/-- The bytes of the number that some bytes hold are those bytes (R5). -/
theorem toBytes_ofBytes (bs : List Byte) : toBytes bs.length (ofBytes bs) = bs := by
  induction bs with
  | nil => rfl
  | cons b bs ih =>
    have low : BitVec.ofNat 8 (b.toNat + 256 * ofBytes bs) = b := BitVec.eq_of_toNat_eq (by rw [BitVec.toNat_ofNat]; omega)
    have high : (b.toNat + 256 * ofBytes bs) / 256 = ofBytes bs := by omega
    rw [List.length_cons, ofBytes, toBytes, low, high, ih]

@[simp] theorem State.hostAtomic_host (s : State) (a size : Nat) (op : AmoOp) (x exp cid : Nat) (ok : Bool) (data : List Byte) :
    (s.hostAtomic a size op x exp cid ok data).1.host = s.host := by
  simp only [State.hostAtomic]
  split <;> rfl

theorem State.accCompletion_host (s : State) (cl : Nat) (l : Acc) (ok : Bool) (data : List Byte) :
    (s.accCompletion cl l ok data).host = s.host := by
  simp only [State.accCompletion]
  split
  · split
    · exact (KeepsHost.loaded s cl l _).host
    · exact ((KeepsHost.draw s).trans (.loaded _ cl l _)).host
  · rw [(KeepsHost.fixValue _ cl l _).host, State.hostAtomic_host]

theorem State.peerCompletion_host (s : State) (src : Nat) (m : Msg) (ok : Bool) (data : List Byte) :
    (s.peerCompletion src m ok data).host = s.host := by
  simp only [State.peerCompletion]
  split
  · split
    · exact (KeepsHost.respond s _ _ _ _).host
    · exact ((KeepsHost.drawBytes _ s).trans (.respond _ _ _ _ _)).host
  · rw [(KeepsHost.respond _ _ _ _ _).host, State.hostAtomic_host]
  · rfl

/-- The state in which a completion reaches what sent the request: the request is gone, and host memory holds the data that came. -/
def State.completed (s : State) (r : HostReq) (ok : Bool) (data : List Byte) : State :=
  { s with host := { s.host with reqs := s.host.reqs.filter fun x => x.id != r.id },
           hostMem := if ok then s.hostMem.write r.addr (dataBytes r.len data) else s.hostMem }

/-- Data of the length asked for stand in host memory as they came (R437). -/
theorem State.completed_read (s : State) (r : HostReq) (data : List Byte) (h : data.length = r.len) :
    (s.completed r true data).hostMem.read r.addr r.len = data := by
  rw [← h]
  simpa [State.completed, dataBytes, ← h, toBytes_ofBytes] using Memory.read_write_self s.hostMem r.addr data

/-- All that a completion does to the host page is to take its request off. -/
theorem State.completion_host (s : State) (r : HostReq) (ok : Bool) (data : List Byte) :
    (s.completion r ok data).host = (s.completed r ok data).host := by
  simp only [State.completion]
  split
  · split
    · exact State.accCompletion_host _ _ _ _ _
    · rfl
  · split
    · exact (KeepsHost.cmdCompletion _ _ _ _ _ _).host
    · rfl
  · split
    · exact (KeepsHost.icacheAdd _ _ _ _).host
    · rfl
  · exact State.peerCompletion_host _ _ _ _ _
  all_goals rfl

theorem State.id_ne_of_mem_completion (s : State) (r : HostReq) (ok : Bool) (data : List Byte) :
    ∀ x ∈ (s.completion r ok data).host.reqs, x.id ≠ r.id := by
  intro x hx
  rw [State.completion_host] at hx
  simpa using (List.mem_filter.mp hx).2

/-- The completion of a scalar access that still waits for it. -/
theorem State.completion_acc (s : State) (r : HostReq) (ok : Bool) (data : List Byte) {cl seq : Nat} {l : Acc} (ho : r.owner = .acc cl seq)
    (hl : (s.cl cl).a.accs.find? (fun l => l.seq == seq && l.pending && l.place == .host) = some l) :
    s.completion r ok data = (s.completed r ok data).accCompletion cl l ok data := by
  simp only [State.completion, ho]
  split
  · next m hm => rw [Option.some.inj (hl.symm.trans hm)]; rfl
  · next hm => exact absurd (hl.symm.trans hm) (by simp)

/-- A fetch-and-add of 8 bytes in the host window leaves the sum of the bytes that came and its operand (R293). -/
theorem State.accCompletion_add (s : State) (cl : Nat) (l : Acc) (data : List Byte) (hop : l.op = some .add) (hsize : l.size = 8) :
    (s.accCompletion cl l true data).hostMem.readN (l.pa - 0x80000000000) 8 = (ofBytes (dataBytes 8 data) + l.data) % 2 ^ 64 := by
  simp only [State.accCompletion, hop, hsize, State.hostAtomic, if_true]
  rw [(KeepsHost.fixValue _ cl l _).hostMem, Memory.readN_writeN]
  simp [amoNew]

/-- A load in the host window writes nothing there beyond what its completion brought. -/
theorem State.accCompletion_load (s : State) (cl : Nat) (l : Acc) (data : List Byte) (hop : l.op = none) :
    (s.accCompletion cl l true data).hostMem = s.hostMem := by
  simp only [State.accCompletion, hop, if_true]
  exact (KeepsHost.loaded s cl l _).hostMem

/-! ### Registers of the queue pages (R456, R457, R472) -/

theorem bits_low16 (v : Nat) : bits v 15 0 = v % 2 ^ 16 := by simp [bits]

theorem keep_toNat (m : Nat) (v : BitVec 64) : keep m v.toNat = v &&& BitVec.ofNat 64 m := by
  rw [keep, BitVec.ofNat_toNat, BitVec.setWidth_eq]

/-- A register of a queue page written after bring-up changes that queue, and no host memory. -/
theorem State.onQueue_next (s : State) {q : Nat} {f : Queue → Queue} {k : Queue} (ready : s.dev.ready = true) (hq : q < 64)
    (hk : f (s.queue q) = k) : ∃ t, s.onQueue q f = .next t ∧ t.queue q = k ∧ t.hostMem = s.hostMem := by
  refine ⟨s.setQueue q k, ?_, NMap.get_set_self _ _ _, rfl⟩
  simp [State.onQueue, ready, hq, hk]

theorem Queue.ring_of_mal {k : Queue} (v : Nat) (h : k.mal = true) : k.ring v = k := by simp [Queue.ring, h]

/-- DOORBELL of a queue that has not stopped: TAIL, unless it lies past the ring (R457). -/
theorem Queue.ring_of_not_mal {k : Queue} (v : Nat) (h : k.mal = false) :
    k.ring v = if k.slots ≤ v % 2 ^ 16 then { k with mal := true } else { k with tail := v % 2 ^ 16 } := by
  simp [Queue.ring, h, bits_low16]

/-- QCFG (R456): EN = 1 leaves of the queue the base of its completion ring, CWB, and the replicas that wait, now at its head. -/
theorem Queue.configure_eq (v : BitVec 64) (k : Queue) :
    k.configure v.toNat = if v.getLsbD 4 then
        { Queue.reset with qcfg := v &&& 0x3FFFFFFF01F, pcfg := k.pcfg, cwb := k.cwb, fwds := k.fwds.map fun f => { f with mark := 0 } }
      else { k with qcfg := v &&& 0x3FFFFFFF01F } := by
  simp only [Queue.configure, keep_toNat, bit, BitVec.testBit_toNat]
  split <;> rfl

/-- How far `x` lies behind `c` in a ring of `n` places. -/
theorem ring_distance {n c x : Nat} (hc : c < n) (hx : x < n) : (x + n - c) % n = if c ≤ x then x - c else x + n - c := by
  split
  · rw [show x + n - c = x - c + n by omega, Nat.add_mod_right, Nat.mod_eq_of_lt (by omega)]
  · exact Nat.mod_eq_of_lt (by omega)

/-- CHEAD (R472), where the records between CHEAD and CTAIL do not wrap: a value from the one to the other is taken, any other ignored. -/
theorem Queue.consume_eq {k : Queue} (v : Nat) (le : k.chead ≤ k.ctail) (lt : k.ctail < 2 ^ k.plog) :
    k.consume v = if k.chead ≤ v % 2 ^ 16 ∧ v % 2 ^ 16 ≤ k.ctail then { k with chead := v % 2 ^ 16 } else k := by
  simp only [Queue.consume, bits_low16, ring_distance (le.trans_lt lt) lt, if_pos le, Bool.and_eq_true, decide_eq_true_eq]
  by_cases h : v % 2 ^ 16 < 2 ^ k.plog
  · rw [ring_distance (le.trans_lt lt) h]
    congr 1
    refine propext ⟨fun hc => ?_, fun hc => ?_⟩ <;> split at * <;> omega
  · rw [if_neg (fun hc => h hc.1), if_neg (by omega)]

/-- CHEAD of a ring that holds no record keeps its value. -/
theorem Queue.consume_of_empty {k : Queue} (v : Nat) (e : k.chead = k.ctail) (lt : k.ctail < 2 ^ k.plog) : k.consume v = k := by
  rw [Queue.consume_eq v e.le lt]
  split
  · rw [show v % 2 ^ 16 = k.chead by omega]
  · rfl

/-- A register of a queue page other than PCFG and CWB takes no value so (R456). -/
theorem Queue.writeReg_other {off : Nat} (v : Nat) (k : Queue) (pcfg : off ≠ 8) (cwb : off ≠ 0x30) : k.writeReg off v = k := by
  unfold Queue.writeReg
  split
  · exact absurd rfl pcfg
  · exact absurd rfl cwb
  · rfl

theorem Queue.writeReg_pcfg (v : BitVec 64) (k : Queue) : k.writeReg 8 v.toNat = { k with pcfg := v &&& 0x3FFFFFFF00F } := by
  simp only [Queue.writeReg, keep_toNat]
  rfl

theorem Queue.writeReg_cwb (v : BitVec 64) (k : Queue) : k.writeReg 0x30 v.toNat = { k with cwb := v &&& 0x3FFFFFFFFF8 } := by
  simp only [Queue.writeReg, keep_toNat]
  rfl

/-- The page and the register that an offset of BAR0 names. -/
theorem exec_hostRegisterWrite (s : State) {q off : Nat} (v : BitVec 64) (ho : off < 4096) :
    exec (.hostRegisterWrite (4096 * q + off) v) s = s.onQueue q (Queue.writeReg off v.toNat) := by
  change s.onQueue ((4096 * q + off) / 4096) (Queue.writeReg ((4096 * q + off) % 4096) v.toNat) = _
  rw [show (4096 * q + off) / 4096 = q by omega, show (4096 * q + off) % 4096 = off by omega]

/-! ### Reads of BAR0 (R7, R456, R462, R484) -/

theorem flag_eq (b : Bool) (i : Nat) : flag b i = b.toNat * 2 ^ i := by cases b <;> simp [flag]

theorem State.bar0Read_queuePage (s : State) {q off : Nat} (hq : q < 64) (ho : off < 4096) :
    s.bar0Read (4096 * q + off) = (s.queue q).readReg off := by
  rw [State.bar0Read, if_pos (by omega), show (4096 * q + off) / 4096 = q by omega, show (4096 * q + off) % 4096 = off by omega]

/-! ### Registers of the device page (R462) -/

/-- FCFG_WRITE: FEN = 1 empties the fault ring. -/
theorem exec_fcfgWrite (s : State) (v : BitVec 64) :
    exec (.fcfgWrite v) s = .next { s with host := { s.host with
      fcfg := v &&& 0x3FFFFFFF01F
      fhead := if v.getLsbD 4 then 0 else s.host.fhead
      ftail := if v.getLsbD 4 then 0 else s.host.ftail } } := by
  change execFcfgWrite v s = _
  simp only [execFcfgWrite, ringCfg, keep_toNat]
  split <;> rfl

/-- ECFG_WRITE: EEN = 1 empties the event ring. -/
theorem exec_ecfgWrite (s : State) (v : BitVec 64) :
    exec (.ecfgWrite v) s = .next { s with host := { s.host with
      ecfg := v &&& 0x3FFFFFFF01F
      ehead := if v.getLsbD 4 then 0 else s.host.ehead
      etail := if v.getLsbD 4 then 0 else s.host.etail } } := by
  change execEcfgWrite v s = _
  simp only [execEcfgWrite, ringCfg, keep_toNat]
  split <;> rfl

/-- A ring whose entries do not wrap takes a head from its head to its tail. -/
theorem headTo_of_between {v head tail : Nat} (lo : head ≤ v % 2 ^ 16) (hi : v % 2 ^ 16 ≤ tail) (h : tail < 65536) :
    headTo (bits v 15 0) head tail = v % 2 ^ 16 := by
  rw [bits_low16, headTo, if_pos (by omega)]

theorem SameBytes.withHost (s : State) (h : HostPage) : SameBytes s { s with host := h } := .of_clusters rfl rfl fun _ => rfl

/-! ### BAR2 (R453) -/

theorem chunks_ne_nil (u a : Nat) {bs : List Byte} (h : bs ≠ []) : chunks u a bs ≠ [] := by
  cases bs with
  | nil => exact absurd rfl h
  | cons b bs => simp [chunks, unitChunks]

theorem State.drainPosted_of_ne_nil (s : State) (h : s.host.posted ≠ []) :
    s.drainPosted = { (s.hostWrites s.host.posted).1 with
      host := { (s.hostWrites s.host.posted).1.host with posted := (s.hostWrites s.host.posted).2 } } := by
  unfold State.drainPosted
  split
  · next e => exact absurd e h
  · rfl

/-- A host write outside the ranges that the host may use is dropped and counted (R453). -/
theorem exec_bar2Write_dropped (s : State) (addr : Nat) (data : List (BitVec 8)) (on : s.dev.enumerated = true)
    (out : s.dev.bar2Ok addr data.length = false) :
    exec (.bar2Write addr data) s = .next { s with host := { s.host with dropw := Nat.min (2 ^ 32 - 1) (s.host.dropw + 1) } } := by
  change execBar2Write addr data s = _
  simp [execBar2Write, on, out]

/-- A host write within them that finds none before it waiting performs unit by unit (R166). -/
theorem exec_bar2Write_performs (s : State) (addr : Nat) (data : List (BitVec 8)) (on : s.dev.enumerated = true)
    (within : s.dev.bar2Ok addr data.length = true) (first : s.host.posted = []) :
    exec (.bar2Write addr data) s
      = .next ({ s with host := { s.host with posted := chunks 64 addr data } } : State).drainPosted := by
  change execBar2Write addr data s = _
  simp [execBar2Write, on, within, first]

/-- A host read follows the posted writes before it (R166). -/
theorem exec_bar2Read_of_posted (s : State) (addr len : Nat) (h : s.host.posted ≠ []) : exec (.bar2Read addr len) s = .next s := by
  change execBar2Read addr len s = _
  simp [execBar2Read, h]

/-- A host read behind no waiting write and outside those ranges is answered with all ones (R453). -/
theorem exec_bar2Read_outside (s : State) (addr len : Nat) (on : s.dev.enumerated = true) (out : s.dev.bar2Ok addr len = false)
    (first : s.host.posted = []) : exec (.bar2Read addr len) s = .next (s.answer (.data (List.replicate len 0xFF))) := by
  change execBar2Read addr len s = _
  simp [execBar2Read, on, out, first]

/-- A host read within them whose units can all be read. -/
theorem exec_bar2Read_got (s : State) (addr len : Nat) {bs : List Byte} (on : s.dev.enumerated = true)
    (within : s.dev.bar2Ok addr len = true) (first : s.host.posted = [])
    (got : s.hostReads (chunks 64 addr (List.replicate len 0)) [] = .got bs) : exec (.bar2Read addr len) s = .next (s.answer (.data bs)) := by
  change execBar2Read addr len s = _
  simp only [execBar2Read, on, within, first, got, List.isEmpty_nil, Bool.not_true, Bool.or_false, Bool.false_eq_true, if_false]

/-- A host read that meets poison is recorded and ends with Completer Abort (R437, R453). -/
theorem exec_bar2Read_poison (s : State) (addr len : Nat) {a : Nat} (on : s.dev.enumerated = true)
    (within : s.dev.bar2Ok addr len = true) (first : s.host.posted = [])
    (bad : s.hostReads (chunks 64 addr (List.replicate len 0)) [] = .abort (some a)) :
    exec (.bar2Read addr len) s = .next ((s.report srcPcie 3 3 0 4 0 a 1 0).answer .completerAbort) := by
  change execBar2Read addr len s = _
  simp only [execBar2Read, on, within, first, bad, List.isEmpty_nil, Bool.not_true, Bool.or_false, Bool.false_eq_true, if_false]

/-! ### Completions and their time-out as steps (R454) -/

theorem exec_hostCompletion (s : State) {id : Nat} {r : HostReq} (ok : Bool) (data : List (BitVec 8))
    (found : s.host.reqs.find? (fun r => r.id == id) = some r) : exec (.hostCompletion id ok data) s = .next (s.completion r ok data) := by
  change execHostCompletion id ok data s = _
  simp only [execHostCompletion, found]

theorem exec_hostCompletionTimeout (s : State) {id : Nat} {r : HostReq} (found : s.host.reqs.find? (fun r => r.id == id) = some r) :
    exec (.hostCompletionTimeout id) s
      = .next (if r.sentAt + 50000000 ≤ s.gtc then (s.aerError .timeout).completion r false [] else s) := by
  change execHostCompletionTimeout id s = _
  simp only [execHostCompletionTimeout, found]
  split <;> rfl

/-! ### Configuration requests and attestation (R481, R483, R484) -/

theorem Dev.enumerated_iff (d : Dev) : d.enumerated = true ↔ 7 ≤ d.stage ∨ d.bootFail ≠ 0 := by simp [Dev.enumerated]

theorem Dev.attests_iff (d : Dev) : d.attests = true ↔ 2 ≤ d.stage ∨ 2 ≤ d.bootFail := by simp [Dev.attests]

theorem exec_configurationRequest (s : State) :
    exec .configurationRequest s = .next (if s.dev.enumerated then s else s.answer .configRetry) := by
  change execConfigurationRequest s = _
  cases h : s.dev.enumerated <;> simp [execConfigurationRequest, h]

theorem exec_attestationRequest_of_not (s : State) (nonce : BitVec 256) (h : s.dev.attests = false) :
    exec (.attestationRequest nonce) s = .next s := by
  change execAttestationRequest nonce s = _
  simp [execAttestationRequest, h]

theorem exec_attestationRequest (s : State) (nonce : BitVec 256) (h : s.dev.attests = true) :
    exec (.attestationRequest nonce) s = .next { s with host := { s.host with i3c := s.host.i3c ++
      [s.dev.attested nonce ++ [Config.falconSign (Config.falconKeys s.dev.secret).2 (s.dev.attested nonce)]] } } := by
  change execAttestationRequest nonce s = _
  simp [execAttestationRequest, h]

/-! ### The obligation -/

/-- Settles O51, clause by clause: registers read, queue registers written, device registers written, host accesses, completions, and requests
that are refused. -/
theorem hostInterface : Obligations.HostInterface := by
  unfold Obligations.HostInterface
  refine ⟨fun q s hq => ?reads, fun q off v s ready hq => ?queue, fun v s => ?device, fun addr len data s on => ?bar2,
    fun id ok data s r found => ?completions, fun s => ?refusals⟩
  case reads =>
    have page {off : Nat} (ho : off < 4096) := s.bar0Read_queuePage hq ho
    exact ⟨page (off := 0) (by decide), page (by decide), page (by decide), by rw [page (by decide), ← flag_eq, ← flag_eq]; rfl,
      page (by decide), page (by decide), rfl, rfl, rfl⟩
  case queue =>
    have to_ {f : Queue → Queue} {k : Queue} (hk : f (s.queue q) = k) := s.onQueue_next ready hq hk
    have reg {r : Nat} (hr : r < 4096) {k : Queue} (hk : (s.queue q).writeReg r v.toNat = k) :
        ∃ t, exec (.hostRegisterWrite (4096 * q + r) v) s = .next t ∧ t.queue q = k ∧ t.hostMem = s.hostMem :=
      exec_hostRegisterWrite s v hr ▸ to_ hk
    refine ⟨fun mal => to_ (Queue.ring_of_mal _ mal), fun mal past => to_ ?_, fun mal within => to_ ?_, fun en => to_ ?_, fun en => to_ ?_,
      fun e lt => to_ (Queue.consume_of_empty _ e lt), fun lo hi lt => to_ ?_, reg (by decide) (Queue.writeReg_pcfg v _),
      reg (by decide) (Queue.writeReg_cwb v _), fun ho pcfg cwb => reg ho (Queue.writeReg_other _ _ pcfg cwb)⟩
    · rw [Queue.ring_of_not_mal _ mal, if_pos past]
    · rw [Queue.ring_of_not_mal _ mal, if_neg (by omega)]
    · rw [Queue.configure_eq, if_pos en]
    · rw [Queue.configure_eq, if_neg (by rw [en]; decide)]
    · rw [Queue.consume_eq _ (lo.trans hi) lt, if_pos ⟨lo, hi⟩]
  case device =>
    exact ⟨⟨_, exec_fcfgWrite s v, ⟨rfl, rfl, rfl⟩, .withHost s _⟩, ⟨_, exec_ecfgWrite s v, ⟨rfl, rfl, rfl⟩, .withHost s _⟩,
      fun lo hi lt => ⟨_, rfl, ⟨headTo_of_between lo hi lt, rfl⟩, .withHost s _⟩,
      fun lo hi lt => ⟨_, rfl, ⟨headTo_of_between lo hi lt, rfl⟩, .withHost s _⟩⟩
  case bar2 =>
    refine ⟨fun out => ⟨_, exec_bar2Write_dropped s addr data on out, .withHost s _, rfl⟩, fun t rest within first some_ writes => ?_,
      exec_bar2Read_of_posted s addr len, exec_bar2Read_outside s addr len on, fun within first =>
        ⟨fun bs got => exec_bar2Read_got s addr len on within first got, fun a bad => ?_⟩⟩
    · rw [exec_bar2Write_performs s addr data on within first, State.drainPosted_of_ne_nil _ (chunks_ne_nil 64 addr some_), writes]
    · exact ⟨_, exec_bar2Read_poison s addr len on within first bad, rfl, rfl, _,
        List.mem_append_right _ (List.mem_singleton_self _), rfl, rfl, rfl, rfl, rfl⟩
  case completions =>
    have named : r.id = id := by simpa using List.find?_some found
    have gone {ok : Bool} {data : List Byte} (u : State) : ∀ x ∈ (u.completion r ok data).host.reqs, x.id ≠ id :=
      named ▸ u.id_ne_of_mem_completion r ok data
    refine ⟨⟨_, exec_hostCompletion s ok data found, gone s⟩,
      fun cl seq l own waits add size len => ⟨_, exec_hostCompletion s true data found, ?_⟩,
      fun cl seq l own waits load len => ⟨_, exec_hostCompletion s true data found, ?_⟩, fun late => ?_, fun early => ?_⟩
    · rw [s.completion_acc r true data own waits, State.accCompletion_add _ cl l data add size, dataBytes, ← len, toBytes_ofBytes]
    · rw [s.completion_acc r true data own waits, State.accCompletion_load _ cl l data load]
      exact s.completed_read r data len
    · have step := exec_hostCompletionTimeout s found
      rw [if_pos late] at step
      exact ⟨step, _, step, gone _⟩
    · rw [exec_hostCompletionTimeout s found, if_neg (by omega)]
  case refusals =>
    refine ⟨rfl, rfl, fun stage sound => ?_, fun on => ?_, fun nonce => ⟨fun stage fail => ?_, fun known => ?_⟩⟩
    · rw [exec_configurationRequest, if_neg (by rw [Dev.enumerated_iff]; omega)]
    · rw [exec_configurationRequest, if_pos (s.dev.enumerated_iff.mpr on)]
    · exact exec_attestationRequest_of_not s nonce (Bool.eq_false_iff.mpr fun h => by have := s.dev.attests_iff.mp h; omega)
    · exact ⟨_, exec_attestationRequest s nonce (s.dev.attests_iff.mpr known), .withHost s _, rfl⟩

end Sys2Proof.Machine
end

section
/-! PROOFS. Host commands about contexts, tables, snapshots and transactions: what each answers once its queue takes it (R25-R36, R76, R108,
R118, R125, R134, R312, R502). -/

namespace Sys2Proof.Machine
open Sys2Proof

/-! ### The head command of a queue (R391, R457, R459) -/

/-- A command that its queue takes and that comes to an end is answered with its code and result. -/
theorem State.command_fin {s t : State} {q opc code res : Nat} {run : State → HCmd → CmdAns} (take : takes s q opc)
    (ends : run s (cmdOf s q) = .fin t code res) : s.command q (isOpc opc) run = .next (t.finishCmd q (headOf s q) code res) := by
  obtain ⟨runs, formed, isOp, free, readable⟩ := take
  have mine : isOpc opc (headOf s q) = true := by simp [isOpc, bits, isOp]
  have good : ((cmdOf s q).cid != 0 && s.descBad (cmdOf s q).cid) = false := by
    rcases readable with h | h <;> simp [h]
  simp only [cmdOf, headOf] at formed mine free good ends ⊢
  simp only [State.command, runs, formed, mine, free, good, ends, Bool.not_true, Bool.false_eq_true, if_false]

/-- A command whose check fails is answered with the code of the check. -/
theorem State.command_code {s : State} {q opc code : Nat} {run : State → HCmd → CmdAns} {a : CmdAns} (take : takes s q opc)
    (ends : run s (cmdOf s q) = if code != 0 then .fin s code 0 else a) (bad : code ≠ 0) :
    s.command q (isOpc opc) run = .next (s.finishCmd q (headOf s q) code 0) :=
  s.command_fin take (ends.trans (if_pos (bne_iff_ne.mpr bad)))

/-! ### Low fields and lowest codes (R502) -/

theorem bits_low (v n : Nat) : bits v n 0 = v % 2 ^ (n + 1) := by simp [bits]

theorem lowCode_eq_zero_or_mem (l : List (Bool × Nat)) : lowCode l = 0 ∨ ∃ e ∈ l, lowCode l = e.2 := by
  induction l with
  | nil => exact .inl rfl
  | cons e l ih =>
    rw [lowCode]
    split
    · exact .inr ⟨e, List.mem_cons_self, rfl⟩
    · exact ih.imp_right fun ⟨f, hf, eq⟩ => ⟨f, List.mem_cons_of_mem _ hf, eq⟩

/-- A cause that holds goes before those of higher codes. -/
theorem lowCode_cons_true (c : Nat) (l : List (Bool × Nat)) (low : ∀ e ∈ l, c < e.2) : lowCode ((true, c) :: l) = c := by
  rcases lowCode_eq_zero_or_mem l with h | ⟨e, he, h⟩
  · simp [lowCode, h]
  · simp [lowCode, h, low e he]

/-! ### The obligation -/

/-- Settles O49, command by command: each fails with the code of its checks, or takes its effect once they pass. -/
theorem hostContextCommands : Obligations.HostContextCommands := by
  unfold Obligations.HostContextCommands
  intro q s
  have own : (cmdOf s q).q = q := rfl
  generalize hc : cmdOf s q = h at *
  -- The fields of the arguments as the model takes them out.
  simp only [show h.a % 2 ^ 48 = bits h.a 47 0 from (bits_low h.a 47).symm, show h.c % 2 ^ 12 = bits h.c 11 0 from (bits_low h.c 11).symm,
    show h.a % 256 = bits h.a 7 0 from (bits_low h.a 7).symm, show h.a % 4 = bits h.a 1 0 from (bits_low h.a 1).symm,
    show h.c % 4 = bits h.c 1 0 from (bits_low h.c 1).symm, show h.c / 8 % 4 = bits h.c 4 3 from rfl]
  have fin {t : State} {opc code res : Nat} {run : State → HCmd → CmdAns} (take : takes s q opc) (ends : run s h = .fin t code res) :=
    State.command_fin take (hc ▸ ends)
  have code {opc code : Nat} {run : State → HCmd → CmdAns} {a : CmdAns} (take : takes s q opc) (bad : code ≠ 0)
      (ends : run s h = if code != 0 then .fin s code 0 else a) := State.command_code take (hc ▸ ends) bad
  have held (readable : bits h.c 11 0 = 0 ∨ s.descBad (bits h.c 11 0) = false) :
      (bits h.c 11 0 != 0 && s.descBad (bits h.c 11 0)) = false := by simpa [or_iff_not_imp_left] using readable
  refine ⟨fun take bad => ?createFails, fun fine h₁ h₂ h₃ take => ?create,
    fun none => ⟨fun take _ => ?destroyFails, fun take _ => ?unbindFails⟩,
    fun valid t done => ⟨fun take => ?unbind, fun idle still take => ?destroy⟩,
    fun take bad => ?bindFails, fun fine still take => ?bind,
    fun take bad => ?recordFails, fun take bad => ?templateFails, fun fine still take => ?record, fun fine still take => ?template,
    fun take bad => ?patternFails, fun fine take => ?pattern, fun valid take => ?mailbox, fun none take _ => ?mailboxFails,
    fun take bad => ?configureFails, fun fine take => ?configure,
    fun readable first => ⟨fun take bad => ?ownerFails, fun t note fine all take => ?owner⟩,
    fun valid => ⟨fun bad take => ?snapshotFails, fun fine take => ?snapshot⟩, fun aligned within valid some take => ?decant,
    fun big take _ => ?resolveBig,
    fun small valid => ⟨fun voted decided take _ => ?resolveFails, fun sealed t done take => ?resolve⟩⟩
  case createFails => exact show execCreateContext q s = _ from code take bad rfl
  case create => exact show execCreateContext q s = _ from fin take (by simp [fine, h₁, h₂, h₃])
  case destroyFails => exact show execDestroyContext q s = _ from fin take (if_pos none)
  case unbindFails => exact show execUnbind q s = _ from fin take (if_pos none)
  case unbind => exact show execUnbind q s = _ from fin take (by simp [valid, done])
  case destroy => exact show execDestroyContext q s = _ from fin take (by simp [valid, done, idle, still])
  case bindFails => exact show execBind q s = _ from code take bad rfl
  case bind => exact show execBind q s = _ from fin take (by simp [fine, still])
  case recordFails => exact show execWriteRecord q s = _ from code take bad rfl
  case templateFails => exact show execWriteTemplate q s = _ from code take bad rfl
  case record => exact show execWriteRecord q s = _ from fin take (by simp [fine, State.writeEntry, still])
  case template => exact show execWriteTemplate q s = _ from fin take (by simp [fine, State.writeEntry, still])
  case patternFails => exact show execWriteGatherPattern q s = _ from code take bad rfl
  case pattern => exact show execWriteGatherPattern q s = _ from fin take (by simp [fine])
  case mailbox => exact show execMailboxSettings q s = _ from fin take (by simp [valid])
  case mailboxFails => exact show execMailboxSettings q s = _ from fin take (by simp [none])
  case configureFails => exact show execSnapshotConfigure q s = _ from code take bad rfl
  case configure => exact show execSnapshotConfigure q s = _ from fin take (by simp [fine])
  case ownerFails => exact show execPageOwner q s = _ from fin take (by simp [held readable, own, first, bad])
  case owner => exact show execPageOwner q s = _ from fin take (by simp [held readable, own, first, note, fine, all])
  case snapshotFails => exact show execSnapshot q s = _ from fin take (by simp [valid, bad])
  case snapshot => exact show execSnapshot q s = _ from fin take (by simp [valid, bit, fine])
  case decant =>
    have fine : lowCode [(h.b % 65536 != 0 || decide (2 ^ 42 < h.b + h.c * 65536), 1), (s.noContext h.cid, 2)] = 0 := by
      rw [decide_eq_false (Nat.not_lt.mpr within), aligned, valid]; rfl
    exact show execDecantBuffer q s = _ from fin take (by simp only [fine, some, bne_self_eq_false, Bool.false_eq_true, if_false])
  case resolveBig =>
    have least (b c : Bool) : lowCode [(true, 1), (b, 2), (c, 0x12)] = 1 := lowCode_cons_true 1 _ (by simp)
    exact show execTransactionResolve q s = _ from fin take (by simp only [decide_eq_true big, least]; rfl)
  case resolveFails =>
    exact show execTransactionResolve q s = _ from fin take (by
      simp [decide_eq_false (Nat.not_lt.mpr small), valid, voted, decided, lowCode])
  case resolve =>
    have open_ : (((s.ctx h.cid).tx (bits h.a 1 0)).st != .voted && ((s.ctx h.cid).tx (bits h.a 1 0)).st != .decided) = false := by
      rcases sealed with e | e <;> simp [e]
    exact show execTransactionResolve q s = _ from fin take (by
      simp [decide_eq_false (Nat.not_lt.mpr small), valid, open_, done, lowCode])

end Sys2Proof.Machine
end

section
/-! PROOFS. The dispatcher's operations on nodes: the relations between states that all of them keep, and what they change of a cluster and of the
node table (R396-R398, R409, R412). -/

namespace Sys2Proof.Machine
open Sys2Proof

/-! ### Relations that the dispatcher's operations on nodes keep -/

/-- A relation between states that holds across the parts of which every operation on nodes is made: a change of the dispatcher's own tables,
rows that are never sent, messages to other chips, and stores of failed tasks that are discarded. -/
structure NodeStable (R : State → State → Prop) : Prop where
  refl : ∀ s, R s s
  trans : ∀ {s t u}, R s t → R t u → R s u
  disp : ∀ (s : State) (d : Disp), R s { s with disp := d }
  flights : ∀ (s : State) (l : List Flight), R s { s with flights := l }
  send : ∀ (s : State) (dst : Nat) (m : Msg) (src : Nat), R s (s.send dst m src)
  dropLate : ∀ (s : State) (p : Nat → Nat → Bool), R s (s.dropLate p)

namespace NodeStable

variable {R : State → State → Prop}

theorem foldl {α : Type} {f : State → α → State} (k : NodeStable R) (h : ∀ (s : State) (a : α), R s (f s a)) (s : State) (l : List α) :
    R s (l.foldl f s) :=
  List.foldlRecOn l f (k.refl s) fun t ht a _ => k.trans ht (h t a)

theorem onNode (k : NodeStable R) (s : State) (e : Nat) (f : Node → Node) : R s (s.onNode e f) := by
  simp only [State.onNode]
  split
  · exact k.refl s
  · exact k.disp s _

theorem leavePool (k : NodeStable R) (s : State) (e : Nat) : R s (s.leavePool e) := k.trans (k.onNode s e _) (k.disp _ _)

theorem fillPool (k : NodeStable R) (s : State) : R s s.fillPool := by
  refine k.foldl (fun s e => ?_) s _
  dsimp only
  split
  · split
    · exact k.trans (k.onNode s e _) (k.disp _ _)
    · exact k.refl s
  · exact k.refl s

theorem makeReady (k : NodeStable R) (s : State) (e : Nat) : R s (s.makeReady e) :=
  k.trans (k.trans (k.onNode s e _) (k.disp _ _)) (k.fillPool _)

theorem dropRecords (k : NodeStable R) (s : State) (rs : List Susp) : R s (s.dropRecords rs) :=
  k.foldl (f := fun s (r : Susp) => s.dropSends r.x.land) (fun s _ => k.flights s _) s rs

theorem fail1 (k : NodeStable R) (s : State) (e status : Nat) : R s (s.fail1 e status) := by
  simp only [State.fail1]
  split
  · exact k.refl s
  · split
    · exact k.refl s
    · split
      · exact k.refl s
      · exact k.trans (k.trans (k.trans (k.dropLate s _) (k.dropRecords _ _)) (k.onNode _ e _)) (k.leavePool _ e)

theorem tellReplicas (k : NodeStable R) (s : State) (n : Node) : R s (s.tellReplicas n) := by
  simp only [State.tellReplicas]
  split
  · exact k.foldl (fun s c => k.send s c _ _) s _
  · exact k.refl s

theorem launch (k : NodeStable R) (s : State) (e lead : Nat) : R s (s.launch e lead) := by
  simp only [State.launch]
  split
  · exact k.refl s
  · exact k.trans (k.trans (k.disp s _) (k.onNode _ e _)) (k.foldl (fun s c => k.send s c _ _) _ _)

theorem ready1 (k : NodeStable R) (s : State) (e c : Nat) : R s (s.ready1 e c) := by
  simp only [State.ready1]
  split
  · exact k.refl s
  · split
    · exact k.trans (k.onNode s e _) (k.launch _ e _)
    · exact k.onNode s e _

theorem release (k : NodeStable R) (s : State) (e : Nat) (n : Node) : R s (s.release e n) := by
  simp only [State.release]
  split
  · exact k.makeReady s e
  · split
    · exact k.trans (k.onNode s e _) (k.ready1 _ e _)
    · exact k.trans (k.onNode s e _) (k.send _ _ _ _)

theorem wakeNodes (k : NodeStable R) (s : State) : R s s.wakeNodes := by
  refine k.foldl (fun s e => ?_) s _
  split
  · split
    · split
      · exact k.trans (k.fail1 s e _) (k.tellReplicas _ _)
      · exact k.release s e _
      · exact k.refl s
    · exact k.refl s
  · exact k.refl s

theorem completeNode (k : NodeStable R) (s : State) (e : Nat) : R s (s.completeNode e) := by
  simp only [State.completeNode]
  split
  · exact k.refl s
  · split
    · exact k.refl s
    · have pool := k.trans (k.leavePool s e) (k.fillPool _)
      split
      · exact k.trans (k.trans pool (k.onNode _ e _)) (k.wakeNodes _)
      · exact pool

end NodeStable

/-! ### Clusters under a change of all of them -/

/-- A change of every cluster that leaves a cluster after reset as it is. -/
theorem State.cl_mapClusters (s : State) (f : Nat → Cluster → Cluster) (h : ∀ p, f p Cluster.reset = Cluster.reset) (m : Nat) :
    ({ s with clusters := NMap.mapVals Cluster.reset f s.clusters } : State).cl m = f (s.phys m) (s.cl m) :=
  NMap.get_mapVals s.clusters f h _

@[simp] theorem State.cl_onNode (s : State) (e : Nat) (f : Node → Node) (m : Nat) : (s.onNode e f).cl m = s.cl m := by
  simp only [State.onNode]
  split <;> rfl

@[simp] theorem State.cl_send (s : State) (dst : Nat) (msg : Msg) (src m : Nat) : (s.send dst msg src).cl m = s.cl m := by
  simp only [State.send, State.sendOn]
  split
  · rfl
  · split
    · rfl
    · split <;> rfl

/-- What becomes of a store that a task left behind, where `p` names the tasks that are abandoned. -/
def Acc.dropLate (p : Nat → Nat → Bool) (l : Acc) : Option Acc :=
  match l.late with
  | some (e, t) => if p e t && !l.orphan then l.abandon e t else some l
  | none => some l

theorem State.cl_dropLate (s : State) (p : Nat → Nat → Bool) (m : Nat) :
    (s.dropLate p).cl m = { s.cl m with a := { (s.cl m).a with stores := (s.cl m).a.stores.filterMap (Acc.dropLate p) } } :=
  s.cl_mapClusters (fun _ c => { c with a := { c.a with stores := c.a.stores.filterMap (Acc.dropLate p) } }) (fun _ => rfl) m

/-- An engine command of a task. -/
def Cmd.isOf (node task : Nat) (k : Cmd) : Bool := k.mode == .t && k.node == node && k.task == task

theorem State.cl_dropCmds (s : State) (node task m : Nat) :
    (s.dropCmds node task).cl m
      = { s.cl m with a := { (s.cl m).a with cmds := (s.cl m).a.cmds.filter fun k => !k.isOf node task } } :=
  s.cl_mapClusters (fun _ c => { c with a := { c.a with cmds := c.a.cmds.filter fun k => !k.isOf node task } }) (fun _ => rfl) m

/-! ### Node table -/

theorem State.node?_onNode_self (s : State) (e : Nat) (f : Node → Node) : (s.onNode e f).node? e = (s.node? e).map f := by
  simp only [State.onNode]
  split
  · next h => rw [h]; rfl
  · next n h => rw [h]; exact NMap.get_set_self _ _ _

theorem State.node?_requestServed (s : State) (cl e : Nat) : (s.requestServed cl).node? e = s.node? e := rfl
theorem State.node?_dropLate (s : State) (p : Nat → Nat → Bool) (e : Nat) : (s.dropLate p).node? e = s.node? e := rfl
theorem State.node?_dropCmds (s : State) (node task e : Nat) : (s.dropCmds node task).node? e = s.node? e := rfl
theorem State.node?_setCl (s : State) (cl : Nat) (c : Cluster) (e : Nat) : (s.setCl cl c).node? e = s.node? e := rfl
theorem State.node?_dropSends (s : State) (ls : List Landing) (e : Nat) : (s.dropSends ls).node? e = s.node? e := rfl

/-! ### Retirement leaves the cores of every cluster as they are -/

/-- A cluster with the stores of its A-core left out of account. -/
def Cluster.besideStores (c : Cluster) : Cluster := { c with a := { c.a with stores := [] } }

/-- `t` has the host queues of `s`, and every cluster of `s` but for stores of its A-core. -/
structure State.KeepsTasks (s t : State) : Prop where
  queues : t.queues = s.queues
  cluster : ∀ m, (t.cl m).besideStores = (s.cl m).besideStores

theorem State.queues_send (s : State) (dst : Nat) (msg : Msg) (src : Nat) : (s.send dst msg src).queues = s.queues := by
  simp only [State.send, State.sendOn]
  split
  · rfl
  · split
    · rfl
    · split <;> rfl

theorem State.keepsTasks_nodeStable : NodeStable State.KeepsTasks where
  refl _ := ⟨rfl, fun _ => rfl⟩
  trans h k := ⟨k.queues.trans h.queues, fun m => (k.cluster m).trans (h.cluster m)⟩
  disp _ _ := ⟨rfl, fun _ => rfl⟩
  flights _ _ := ⟨rfl, fun _ => rfl⟩
  send s dst m src := ⟨s.queues_send dst m src, fun n => by rw [s.cl_send dst m src n]⟩
  dropLate s p := ⟨rfl, fun m => by rw [s.cl_dropLate p m]; rfl⟩

end Sys2Proof.Machine
end

section
/-! PROOFS. The end of a task and the abort of a context: what they leave of every cluster, of memory and of the entry (R51, R420, R421). -/

namespace Sys2Proof.Machine
open Sys2Proof

/-! ### The end of a tile image under way (R370) -/

theorem State.cl_spWrite (s : State) (cl a : Nat) (bs : List Byte) (m : Nat) :
    (s.spWrite cl a bs).cl m
      = (s.onCl cl fun c => { c with sp := ((chunks 32 a bs).foldl (writeChunk 32 id) ((s.cl cl).sp, s.spBad cl)).1 }).cl m := rfl

/-- `t` differs from `s` in bytes of the scratchpad of cluster `cl`, in poison, scrubs and new error records. -/
structure State.WritesSp (cl : Nat) (s t : State) : Prop where
  here : t.cl cl = { s.cl cl with sp := (t.cl cl).sp }
  others : ∀ m, m ≠ cl → t.cl m = s.cl m
  gtc : t.gtc = s.gtc
  disp : t.disp = s.disp
  ctxs : t.ctxs = s.ctxs
  history : ∀ r ∈ s.rel.history, r ∈ t.rel.history

namespace State.WritesSp

variable {cl : Nat}

theorem refl (s : State) : WritesSp cl s s := ⟨rfl, fun _ _ => rfl, rfl, rfl, rfl, fun _ => id⟩

theorem trans {s t u : State} (h : WritesSp cl s t) (k : WritesSp cl t u) : WritesSp cl s u where
  here := by rw [k.here, h.here]
  others m hm := (k.others m hm).trans (h.others m hm)
  gtc := k.gtc.trans h.gtc
  disp := k.disp.trans h.disp
  ctxs := k.ctxs.trans h.ctxs
  history r hr := k.history r (h.history r hr)

theorem ctl {s t : State} (w : WritesSp cl s t) : (t.cl cl).ctl = (s.cl cl).ctl := by rw [w.here]

theorem report (s : State) (src rung event cid code detail addr info tval : Nat) :
    WritesSp cl s (s.report src rung event cid code detail addr info tval) :=
  ⟨rfl, fun _ _ => rfl, rfl, rfl, rfl, fun _ => List.mem_append_left _⟩

theorem spWrite (s : State) (a : Nat) (bs : List Byte) : WritesSp cl s (s.spWrite cl a bs) where
  here := by rw [s.cl_spWrite, s.cl_onCl_self]
  others m hm := by rw [s.cl_spWrite, s.cl_onCl_ne _ hm]
  gtc := rfl
  disp := rfl
  ctxs := rfl
  history _ := id

theorem softWrite (s : State) (a : Nat) (bs : List Byte) : WritesSp cl s (s.softWrite cl a bs) := by
  simp only [State.softWrite]
  split
  · exact (spWrite s a bs).trans (report _ _ _ _ _ _ _ _ _ _)
  · exact spWrite s a bs

theorem endDrain (s : State) : WritesSp cl s (s.endDrain cl) := by
  have writes (f : Nat → Nat) (g : Nat → List Byte) (l : List Nat) (s : State) :
      WritesSp cl s (l.foldl (fun s i => s.softWrite cl (f i) (g i)) s) :=
    List.foldlRecOn l _ (refl s) fun t ht i _ => ht.trans (softWrite t _ _)
  simp only [State.endDrain]
  split
  · split
    · exact writes _ _ _ s
    · exact refl s
  · exact refl s

end State.WritesSp

/-! ### The end of a task on every cluster (R51, R420) -/

/-- A cluster without what a task has left on it: its commands, and its stores that have not left their queue. -/
def Cluster.shed (node task : Nat) (c : Cluster) : Cluster :=
  { c with a := { c.a with cmds := c.a.cmds.filter fun k => !k.isOf node task,
                           stores := c.a.stores.filterMap (Acc.dropLate fun e t => e == node && t == task) } }

theorem State.endTask_eq {s : State} {cl : Nat} (f : Fate) (busy : (s.cl cl).ctl.occ ≠ .free) :
    s.endTask cl f =
      ((((((s.endDrain cl).dropSends ((s.endDrain cl).cl cl).x.land).setCl cl ((s.endDrain cl).cl cl).stop).dropCmds
        (s.cl cl).ctl.node (s.cl cl).ctl.task).dropLate fun e t => e == (s.cl cl).ctl.node && t == (s.cl cl).ctl.task).onNode
          (s.cl cl).ctl.node fun n => n.takeBack (s.cl cl).ctl.task f s.gtc).requestServed cl := by
  have w : WritesSp cl s (s.endDrain cl) := .endDrain s
  simp only [State.endTask, if_neg busy, w.ctl, w.gtc]

theorem State.endTask_of_free {s : State} {cl : Nat} (f : Fate) (free : (s.cl cl).ctl.occ = .free) : s.endTask cl f = s := if_pos free

/-- The task's cluster is stopped, and what the task has left behind is gone from every cluster. -/
theorem State.cl_endTask {s : State} {cl : Nat} (f : Fate) (busy : (s.cl cl).ctl.occ ≠ .free) (m : Nat) :
    (s.endTask cl f).cl m
      = (if m = cl then ((s.endDrain cl).cl cl).stop else s.cl m).shed (s.cl cl).ctl.node (s.cl cl).ctl.task := by
  have w : WritesSp cl s (s.endDrain cl) := .endDrain s
  rw [State.endTask_eq f busy]
  change ((State.onNode _ _ _).cl m) = _
  rw [State.cl_onNode, State.cl_dropLate, State.cl_dropCmds, State.cl_setCl]
  split
  · rfl
  · next h => rw [← w.others m h]; rfl

theorem Cluster.shed_ctl (node task : Nat) (c : Cluster) : (c.shed node task).ctl = c.ctl := rfl
theorem Cluster.stop_occ (c : Cluster) : c.stop.ctl.occ = .free := rfl
theorem Cluster.stop_cid (c : Cluster) : c.stop.ctl.cid = c.ctl.cid := rfl

/-- The task's entry takes it back. -/
theorem State.node?_endTask {s : State} {cl : Nat} (f : Fate) (busy : (s.cl cl).ctl.occ ≠ .free) :
    (s.endTask cl f).node? (s.cl cl).ctl.node
      = (s.node? (s.cl cl).ctl.node).map fun n => n.takeBack (s.cl cl).ctl.task f s.gtc := by
  have w : WritesSp cl s (s.endDrain cl) := .endDrain s
  rw [State.endTask_eq f busy, State.node?_requestServed, State.node?_onNode_self, State.node?_dropLate, State.node?_dropCmds,
    State.node?_setCl, State.node?_dropSends, State.node?, w.disp]
  rfl

theorem Node.waits_eq (n : Node) (now : Nat) : n.waits now = { n with waitFrom := if n.hasWork then n.waitFrom else now } := by
  simp only [Node.waits]
  split <;> rfl

/-- A task that is requeued joins the pending ones of an entry that has not failed, unless its suspension record is still there. -/
theorem Node.takeBack_requeue {n : Node} {t : Nat} (now : Nat) (ok : n.failing = 0) (fresh : ∀ r ∈ n.susp, r.task ≠ t) :
    n.takeBack t .requeue now = { n.waits now with requeued := n.requeued ++ [t] } := by
  have none : (n.susp.any fun r => r.task == t) = false := by simpa using fresh
  simp [Node.takeBack, ok, none]

theorem Acc.seq_of_dropLate {p : Nat → Nat → Bool} {m l : Acc} (h : m.dropLate p = some l) :
    l.seq = m.seq ∧ (m.orphan = true → l.orphan = true) := by
  simp only [Acc.dropLate] at h
  split at h
  · split at h
    · simp only [Acc.abandon] at h
      split at h
      · cases h; exact ⟨rfl, fun _ => rfl⟩
      · cases h
    · cases h; exact ⟨rfl, id⟩
  · cases h; exact ⟨rfl, id⟩

/-- The stores on the cluster of a task that has been stopped (R51, R420): those that an earlier task left behind, those of firmware, and
those of the task that had left their queue. -/
theorem Cluster.mem_stores_of_stop {c : Cluster} {l : Acc} (h : l ∈ c.stop.a.stores) :
    ∃ m ∈ c.a.stores, m.seq = l.seq ∧ (m.late ≠ none ∨ m.cid = 0 ∨ (m.left = true ∧ l.orphan = true)) := by
  obtain ⟨m, hm, hl⟩ := List.mem_filterMap.mp h
  refine ⟨m, hm, ?_⟩
  split at hl
  · next kept =>
    cases hl
    rw [Bool.or_eq_true, Option.isSome_iff_ne_none, beq_iff_eq] at kept
    exact ⟨rfl, kept.imp_right .inl⟩
  · simp only [Acc.abandon] at hl
    split at hl
    · next left => cases hl; exact ⟨rfl, .inr (.inr ⟨(Bool.and_eq_true_iff.mp left).1, rfl⟩)⟩
    · cases hl

theorem Cluster.mem_stores_of_shed {c : Cluster} {node task : Nat} {l : Acc} (h : l ∈ (c.shed node task).a.stores) :
    ∃ m ∈ c.a.stores, l.seq = m.seq ∧ (m.orphan = true → l.orphan = true) := by
  obtain ⟨m, hm, hl⟩ := List.mem_filterMap.mp h
  exact ⟨m, hm, Acc.seq_of_dropLate hl⟩

theorem Cluster.not_isOf_of_mem_shed {c : Cluster} {node task : Nat} {k : Cmd} (h : k ∈ (c.shed node task).a.cmds) :
    ¬ (k.mode = .t ∧ k.node = node ∧ k.task = task) := by
  intro ⟨mode, here, it⟩
  simpa [Cmd.isOf, mode, here, it] using (List.mem_filter.mp h).2

theorem SameBytes.onNode (s : State) (e : Nat) (f : Node → Node) : SameBytes s (s.onNode e f) := by
  simp only [State.onNode]
  split <;> exact .of_clusters rfl rfl fun _ => rfl

theorem SameBytes.dropLate (s : State) (p : Nat → Nat → Bool) : SameBytes s (s.dropLate p) :=
  ⟨fun _ => rfl, fun _ => rfl, fun n _ => by rw [s.cl_dropLate p n]; exact ⟨rfl, rfl⟩⟩

theorem SameBytes.dropCmds (s : State) (node task : Nat) : SameBytes s (s.dropCmds node task) :=
  ⟨fun _ => rfl, fun _ => rfl, fun n _ => by rw [s.cl_dropCmds node task n]; exact ⟨rfl, rfl⟩⟩

theorem SameBytes.requestServed (s : State) (cl : Nat) : SameBytes s (s.requestServed cl) := .of_clusters rfl rfl fun _ => rfl
theorem SameBytes.dropSends (s : State) (ls : List Landing) : SameBytes s (s.dropSends ls) := .of_clusters rfl rfl fun _ => rfl

/-- Memory keeps its bytes when a task with no tile image under way is stopped. -/
theorem State.sameBytes_endTask {s : State} {cl : Nat} (f : Fate) (busy : (s.cl cl).ctl.occ ≠ .free) (idle : (s.cl cl).arr.drain = none) :
    SameBytes s (s.endTask cl f) := by
  have drained : s.endDrain cl = s := by simp only [State.endDrain, idle]
  have stopped (u : State) : SameBytes u (u.setCl cl (u.cl cl).stop) := .onCl u cl Cluster.stop rfl rfl
  rw [State.endTask_eq f busy, drained]
  refine .trans ?_ (.requestServed _ _)
  refine .trans ?_ (.onNode _ _ _)
  refine .trans ?_ (.dropLate _ _)
  refine .trans ?_ (.dropCmds _ _ _)
  exact (SameBytes.dropSends s _).trans (stopped _)

/-- Stopping a task aborts it, whatever it is told of its fate (R420). -/
theorem State.aborted_endTask {s : State} {cl : Nat} (f : Fate) (busy : (s.cl cl).ctl.occ ≠ .free) : aborted s (s.endTask cl f) cl := by
  have w : WritesSp cl s (s.endDrain cl) := .endDrain s
  have here : (s.endTask cl f).cl cl = (((s.endDrain cl).cl cl).stop).shed (s.cl cl).ctl.node (s.cl cl).ctl.task := by
    rw [State.cl_endTask f busy, if_pos rfl]
  have same : ((s.endDrain cl).cl cl).a.stores = (s.cl cl).a.stores := by rw [w.here]
  refine ⟨?_, ?_, ?_, ?_, ?_, ?_, ?_, ?_, fun n k hk => ?commands, fun l hl => ?stores, State.sameBytes_endTask f busy⟩
  case commands =>
    rw [State.cl_endTask f busy] at hk
    exact Cluster.not_isOf_of_mem_shed hk
  case stores =>
    rw [here] at hl
    obtain ⟨l', hl', seq', orphan'⟩ := Cluster.mem_stores_of_shed hl
    obtain ⟨m, hm, seq, kind⟩ := Cluster.mem_stores_of_stop hl'
    rw [same] at hm
    exact ⟨m, hm, seq.trans seq'.symm, kind.imp_right (.imp_right fun k => ⟨k.1, orphan' k.2⟩)⟩
  all_goals rw [here]; rfl

/-! ### What the end of tasks keeps of everything else -/

/-- `t` has the contexts and the error records of `s`, the contexts of its clusters, and no cluster of `s` without a task has one in `t`. -/
structure State.EndsTasks (s t : State) : Prop where
  ctxs : t.ctxs = s.ctxs
  history : ∀ r ∈ s.rel.history, r ∈ t.rel.history
  cid : ∀ m, (t.cl m).ctl.cid = (s.cl m).ctl.cid
  free : ∀ m, (s.cl m).ctl.occ = .free → (t.cl m).ctl.occ = .free

namespace State.EndsTasks

theorem refl (s : State) : s.EndsTasks s := ⟨rfl, fun _ => id, fun _ => rfl, fun _ => id⟩

theorem trans {s t u : State} (h : s.EndsTasks t) (k : t.EndsTasks u) : s.EndsTasks u :=
  ⟨k.ctxs.trans h.ctxs, fun r hr => k.history r (h.history r hr), fun m => (k.cid m).trans (h.cid m), fun m hm => k.free m (h.free m hm)⟩

/-- Nothing but the dispatcher's tables, rows on their way and stores changes. -/
theorem of_ctl {s t : State} (ctxs : t.ctxs = s.ctxs) (rel : t.rel = s.rel) (ctl : ∀ m, (t.cl m).ctl = (s.cl m).ctl) : s.EndsTasks t :=
  ⟨ctxs, fun r hr => by rwa [rel], fun m => by rw [ctl m], fun m h => by rwa [ctl m]⟩

theorem dropLate (s : State) (p : Nat → Nat → Bool) : s.EndsTasks (s.dropLate p) := of_ctl rfl rfl fun m => by rw [s.cl_dropLate p m]

theorem foldl {α : Type} {f : State → α → State} (h : ∀ (s : State) (a : α), s.EndsTasks (f s a)) (s : State) (l : List α) :
    s.EndsTasks (l.foldl f s) :=
  List.foldlRecOn l f (refl s) fun t ht a _ => ht.trans (h t a)

theorem onNode (s : State) (e : Nat) (f : Node → Node) : s.EndsTasks (s.onNode e f) := by
  simp only [State.onNode]
  split
  · exact refl s
  · exact of_ctl rfl rfl fun _ => rfl

theorem requestServed (s : State) (cl : Nat) : s.EndsTasks (s.requestServed cl) := of_ctl rfl rfl fun _ => rfl
theorem dropSends (s : State) (ls : List Landing) : s.EndsTasks (s.dropSends ls) := of_ctl rfl rfl fun _ => rfl
theorem dropCmds (s : State) (node task : Nat) : s.EndsTasks (s.dropCmds node task) := of_ctl rfl rfl fun m => by rw [s.cl_dropCmds]

theorem dropRecords (s : State) (rs : List Susp) : s.EndsTasks (s.dropRecords rs) :=
  foldl (f := fun s (r : Susp) => s.dropSends r.x.land) (fun s _ => dropSends s _) s rs

theorem stop (s : State) (cl : Nat) : s.EndsTasks (s.setCl cl (s.cl cl).stop) where
  ctxs := rfl
  history _ := id
  cid m := by
    rw [s.cl_setCl]
    split
    · next e => rw [e, Cluster.stop_cid]
    · rfl
  free m h := by
    rw [s.cl_setCl]
    split
    · exact Cluster.stop_occ _
    · exact h

theorem endDrain (s : State) (cl : Nat) : s.EndsTasks (s.endDrain cl) := by
  have w : WritesSp cl s (s.endDrain cl) := .endDrain s
  have ctl (m : Nat) : ((s.endDrain cl).cl m).ctl = (s.cl m).ctl := by
    by_cases e : m = cl
    · rw [e, w.ctl]
    · rw [w.others m e]
  exact ⟨w.ctxs, w.history, fun m => by rw [ctl m], fun m h => by rwa [ctl m]⟩

theorem endTask (s : State) (cl : Nat) (f : Fate) : s.EndsTasks (s.endTask cl f) := by
  by_cases busy : (s.cl cl).ctl.occ = .free
  · rw [State.endTask_of_free f busy]; exact refl s
  · rw [State.endTask_eq f busy]
    refine .trans ?_ (requestServed _ _)
    refine .trans ?_ (onNode _ _ _)
    refine .trans ?_ (dropLate _ _)
    refine .trans ?_ (dropCmds _ _ _)
    exact ((endDrain s cl).trans (dropSends _ _)).trans (stop _ cl)

end State.EndsTasks

/-! ### The abort of a context (R421) -/

/-- The tasks of a context on some clusters are dropped. -/
def State.dropTasks (s : State) (cid : Nat) (l : List Nat) : State :=
  l.foldl (fun s n => if (s.cl n).ctl.occ != .free && (s.cl n).ctl.cid == cid then s.endTask n .drop else s) s

theorem State.EndsTasks.dropTasks (s : State) (cid : Nat) (l : List Nat) : s.EndsTasks (s.dropTasks cid l) := by
  refine .foldl (fun s n => ?_) s l
  split
  · exact .endTask s n .drop
  · exact .refl s

theorem State.occ_endTask (s : State) (cl : Nat) (f : Fate) : ((s.endTask cl f).cl cl).ctl.occ = .free := by
  by_cases busy : (s.cl cl).ctl.occ = .free
  · rw [State.endTask_of_free f busy, busy]
  · rw [State.cl_endTask f busy, if_pos rfl, Cluster.shed_ctl, Cluster.stop_occ]

/-- No cluster among them keeps a task of the context. -/
theorem State.free_dropTasks (s : State) (cid : Nat) (l : List Nat) {m : Nat} (hm : m ∈ l)
    (its : ((s.dropTasks cid l).cl m).ctl.cid = cid) : ((s.dropTasks cid l).cl m).ctl.occ = .free := by
  induction l generalizing s with
  | nil => cases hm
  | cons n l ih =>
    rcases List.mem_cons.mp hm with rfl | hm
    · refine (EndsTasks.dropTasks _ cid l).free m ?_
      have mine : (s.cl m).ctl.cid = cid := by rw [← (EndsTasks.dropTasks s cid (m :: l)).cid m, its]
      by_cases busy : (s.cl m).ctl.occ = .free
      · simp [busy]
      · simpa [busy, mine] using s.occ_endTask m .drop
    · exact ih _ hm its

/-- The stores and the records on their way of the suspended tasks of a context are discarded. -/
def State.dropSuspended (s : State) (cid : Nat) : State :=
  let s := s.dropLate fun e _ => (s.node? e).any fun n => n.cid == cid
  s.disp.nodes.foldl (fun s e => match e.2 with
    | some n => if n.cid == cid then s.dropRecords n.susp else s
    | none => s) s

theorem State.EndsTasks.dropSuspended (s : State) (cid : Nat) : s.EndsTasks (s.dropSuspended cid) := by
  refine .trans (.dropLate s _) (.foldl (fun s e => ?_) _ _)
  split
  · split
    · exact .dropRecords s _
    · exact .refl s
  · exact .refl s

/-- An entry without the suspension records of a context. -/
def Node.unsuspended (cid : Nat) (n : Node) : Node := if n.cid == cid then { n with susp := [] } else n

theorem Node.unsuspended_cid (cid : Nat) (n : Node) : (n.unsuspended cid).cid = n.cid := by
  rw [Node.unsuspended]
  split <;> rfl

theorem Node.unsuspended_susp {cid : Nat} {n : Node} (h : n.cid = cid) : (n.unsuspended cid).susp = [] := by
  rw [Node.unsuspended, if_pos (beq_iff_eq.mpr h)]

/-- No entry keeps a suspension record of the context. -/
def State.clearSusp (s : State) (cid : Nat) : State :=
  { s with disp := { s.disp with nodes := s.disp.nodes.map fun e => (e.1, e.2.map (Node.unsuspended cid)) } }

theorem State.EndsTasks.clearSusp (s : State) (cid : Nat) : s.EndsTasks (s.clearSusp cid) := .of_ctl rfl rfl fun _ => rfl

/-- An entry of a table with every value mapped in place. -/
theorem NMap.get_map {α : Type} (m : NMap (Option α)) (f : α → α) (i : Nat) :
    NMap.get none (m.map fun e => (e.1, e.2.map f)) i = (NMap.get none m i).map f := by
  induction m with
  | nil => rfl
  | cons e m ih =>
    simp only [List.map_cons, NMap.get, ih]
    split
    · rfl
    · split <;> rfl

theorem State.node?_clearSusp (s : State) (cid e : Nat) : (s.clearSusp cid).node? e = (s.node? e).map (Node.unsuspended cid) :=
  NMap.get_map s.disp.nodes (Node.unsuspended cid) e

/-- The record of the abort, the mark in the context, the running tasks, and what is suspended. -/
theorem State.abortContext_eq (s : State) (cl cid code detail tval : Nat) :
    s.abortContext cl cid code detail tval =
      ((((s.report (srcCl cl 0) 6 0x0B cid code detail tval 0 tval).onCtx cid fun c => { c with aborted := true }).dropTasks cid
        (List.range 192)).dropSuspended cid).clearSusp cid := by
  unfold State.abortContext
  generalize List.range 192 = l
  rfl

section
variable (s : State) (cl cid code detail tval : Nat)

/-- After the record and the mark, an abort only ends tasks. -/
theorem State.endsTasks_abortContext :
    ((s.report (srcCl cl 0) 6 0x0B cid code detail tval 0 tval).onCtx cid fun c => { c with aborted := true }).EndsTasks
      (s.abortContext cl cid code detail tval) := by
  rw [State.abortContext_eq]
  exact ((EndsTasks.dropTasks _ cid _).trans (.dropSuspended _ cid)).trans (.clearSusp _ cid)

theorem State.aborted_abortContext : ((s.abortContext cl cid code detail tval).ctx cid).aborted = true := by
  rw [State.ctx, (s.endsTasks_abortContext cl cid code detail tval).ctxs]
  exact congrArg Ctx.aborted (NMap.get_set_self _ _ _)

theorem State.history_abortContext : ∃ r ∈ (s.abortContext cl cid code detail tval).rel.history, r.event = 0x0B ∧ r.cid = cid :=
  ⟨_, (s.endsTasks_abortContext cl cid code detail tval).history _ (List.mem_append_right _ (List.mem_singleton_self _)), rfl, rfl⟩

theorem State.cid_abortContext (m : Nat) : ((s.abortContext cl cid code detail tval).cl m).ctl.cid = (s.cl m).ctl.cid :=
  (s.endsTasks_abortContext cl cid code detail tval).cid m

theorem State.free_abortContext {m : Nat} (hm : m < 192) (its : (s.cl m).ctl.cid = cid) :
    ((s.abortContext cl cid code detail tval).cl m).ctl.occ = .free := by
  have listed := List.mem_range.mpr hm
  rw [State.abortContext_eq]
  generalize List.range 192 = l at listed ⊢
  refine ((EndsTasks.dropSuspended _ cid).trans (.clearSusp _ cid)).free m (State.free_dropTasks _ cid l listed ?_)
  exact ((EndsTasks.dropTasks _ cid _).cid m).trans its

theorem State.susp_abortContext {e : Nat} {m : Node} (hm : (s.abortContext cl cid code detail tval).node? e = some m)
    (its : m.cid = cid) : m.susp = [] := by
  rw [State.abortContext_eq, State.node?_clearSusp] at hm
  obtain ⟨n, -, rfl⟩ := Option.map_eq_some_iff.mp hm
  exact Node.unsuspended_susp ((n.unsuspended_cid cid).symm.trans its)

end

end Sys2Proof.Machine
end

section
/-! PROOFS. Tasks on clusters: placement, start, retirement, a divergence of the Vigil core, a halt without a live-range table, and completion
records (R28, R175-R180, R397-R408, R433, R441). -/

namespace Sys2Proof.Machine
open Sys2Proof

/-! ### A control divergence at the end of a task (R433, R441) -/

/-- The state in which a control divergence of the task on a cluster has been recorded and counted. -/
def State.diverged (s : State) (cl : Nat) (kind : VigilKind) (addr : Nat) : State :=
  (s.report (srcCl cl 2) 4 0x07 (s.cl cl).ctl.cid 0 0 addr (vigilInfo kind) 0).countRung4 cl (s.cl cl).ctl.node (s.cl cl).ctl.task

theorem State.divergence_of_task {s : State} {cl : Nat} (kind : VigilKind) (addr : Nat) (task : (s.cl cl).a.mode = .t)
    (busy : (s.cl cl).ctl.occ ≠ .free) :
    s.divergence cl kind addr
      = (s.diverged cl kind addr).requeueRung4 cl (s.cl cl).ctl.node (s.cl cl).ctl.task (s.cl cl).ctl.cid 0 0 0 := by
  simp only [State.divergence, task, State.rung4, if_neg busy, State.taskRung4]
  rfl

theorem State.cl_diverged (s : State) (cl : Nat) (kind : VigilKind) (addr m : Nat) : (s.diverged cl kind addr).cl m = s.cl m :=
  State.cl_onNode _ _ _ m

theorem SameBytes.diverged (s : State) (cl : Nat) (kind : VigilKind) (addr : Nat) : SameBytes s (s.diverged cl kind addr) :=
  (SameBytes.report s _ _ _ _ _ _ _ _ _).trans (.onNode _ _ _)

theorem State.dev_diverged (s : State) (cl : Nat) (kind : VigilKind) (addr : Nat) : (s.diverged cl kind addr).dev = s.dev := by
  simp only [State.diverged, State.countRung4, State.onNode]
  split <;> rfl

/-- An entry after a rung-4 event of task `t` on cluster `cl` (R431, R441). -/
def Node.counted (n : Node) (cl t : Nat) : Node :=
  { n with rung4 := NMap.set 0 n.rung4 t (NMap.get 0 n.rung4 t + 1), badCl := NMap.set [] n.badCl t (NMap.get [] n.badCl t ++ [cl]) }

theorem State.node?_diverged {s : State} {cl : Nat} (kind : VigilKind) (addr : Nat) {n : Node} (found : s.node? (s.cl cl).ctl.node = some n) :
    (s.diverged cl kind addr).node? (s.cl cl).ctl.node = some (n.counted cl (s.cl cl).ctl.task) := by
  rw [State.diverged, State.countRung4, State.node?_onNode_self]
  change (s.node? _).map _ = _
  rw [found]
  rfl

theorem State.rung4Count_diverged {s : State} {cl : Nat} (kind : VigilKind) (addr : Nat) {n : Node}
    (found : s.node? (s.cl cl).ctl.node = some n) :
    (s.diverged cl kind addr).rung4Count (s.cl cl).ctl.node (s.cl cl).ctl.task = NMap.get 0 n.rung4 (s.cl cl).ctl.task + 1 := by
  simp only [State.rung4Count, State.node?_diverged kind addr found, Node.counted, NMap.get_set_self]

theorem State.runsOn_congr {s t : State} (h : ∀ m, t.cl m = s.cl m) (node task : Nat) : t.runsOn node task = s.runsOn node task := by
  simp only [State.runsOn, h]

theorem State.lt_of_runsOn {s : State} {node task cl : Nat} (h : s.runsOn node task = some cl) : cl < 192 :=
  List.mem_range.mp (List.mem_of_find?_eq_some h)

/-- Short of the limit of its rung-4 events a task is requeued from the cluster it is on. -/
theorem State.divergence_requeues {s : State} {cl : Nat} (kind : VigilKind) (addr : Nat) {n : Node} (task : (s.cl cl).a.mode = .t)
    (busy : (s.cl cl).ctl.occ ≠ .free) (found : s.node? (s.cl cl).ctl.node = some n)
    (here : s.runsOn (s.cl cl).ctl.node (s.cl cl).ctl.task = some cl)
    (short : NMap.get 0 n.rung4 (s.cl cl).ctl.task + 1 < s.dev.taskLimit) :
    s.divergence cl kind addr = (s.diverged cl kind addr).endTask cl .requeue := by
  rw [State.divergence_of_task kind addr task busy, State.requeueRung4, State.rung4Count_diverged kind addr found, State.dev_diverged,
    if_neg (by omega), State.runsOn_congr (s.cl_diverged cl kind addr), here]

/-- At the limit its context is aborted. -/
theorem State.divergence_aborts {s : State} {cl : Nat} (kind : VigilKind) (addr : Nat) {n : Node} (task : (s.cl cl).a.mode = .t)
    (busy : (s.cl cl).ctl.occ ≠ .free) (found : s.node? (s.cl cl).ctl.node = some n)
    (limit : s.dev.taskLimit ≤ NMap.get 0 n.rung4 (s.cl cl).ctl.task + 1) :
    s.divergence cl kind addr = (s.diverged cl kind addr).abortContext cl (s.cl cl).ctl.cid 0 0 0 := by
  rw [State.divergence_of_task kind addr task busy, State.requeueRung4, State.rung4Count_diverged kind addr found, State.dev_diverged,
    if_pos limit]

/-- An abort from a state with the same clusters and the same bytes. -/
theorem aborted_of_same {s u t : State} {cl : Nat} (clusters : ∀ m, u.cl m = s.cl m) (bytes : SameBytes s u) (h : aborted u t cl) :
    aborted s t cl := by
  simp only [aborted, clusters] at h ⊢
  obtain ⟨h₁, h₂, h₃, h₄, h₅, h₆, h₇, h₈, cmds, stores, same⟩ := h
  exact ⟨h₁, h₂, h₃, h₄, h₅, h₆, h₇, h₈, cmds, stores, fun idle => bytes.trans (same idle)⟩

/-- A task that ends short of the limit without a match of the Vigil core is aborted and pending again, and its count is one higher (R433). -/
theorem State.divergence_short {s : State} {cl : Nat} (kind : VigilKind) (addr : Nat) {n : Node} (task : (s.cl cl).a.mode = .t)
    (busy : (s.cl cl).ctl.occ ≠ .free) (found : s.node? (s.cl cl).ctl.node = some n) (ok : n.failing = 0)
    (fresh : ∀ r ∈ n.susp, r.task ≠ (s.cl cl).ctl.task) (here : s.runsOn (s.cl cl).ctl.node (s.cl cl).ctl.task = some cl)
    (short : NMap.get 0 n.rung4 (s.cl cl).ctl.task + 1 < s.dev.taskLimit) :
    aborted s (s.divergence cl kind addr) cl ∧ ∃ m, (s.divergence cl kind addr).node? (s.cl cl).ctl.node = some m
      ∧ NMap.get 0 m.rung4 (s.cl cl).ctl.task = NMap.get 0 n.rung4 (s.cl cl).ctl.task + 1
      ∧ m.requeued = n.requeued ++ [(s.cl cl).ctl.task] := by
  have cls := s.cl_diverged cl kind addr
  have busy' : ((s.diverged cl kind addr).cl cl).ctl.occ ≠ .free := by rwa [cls]
  rw [State.divergence_requeues kind addr task busy found here short]
  refine ⟨aborted_of_same cls (.diverged s cl kind addr) (State.aborted_endTask _ busy'), ?_⟩
  have entry := State.node?_endTask .requeue busy'
  rw [cls, State.node?_diverged kind addr found, Option.map_some,
    Node.takeBack_requeue (n := n.counted cl _) _ ok fresh, Node.waits_eq] at entry
  exact ⟨_, entry, NMap.get_set_self _ _ _, rfl⟩

/-! ### The end of a task (R180, R412, R432) -/

theorem State.mode_of_taskOver {s : State} {cl : Nat} (h : s.taskOver cl = true) : (s.cl cl).a.mode = .t := by
  simp only [State.taskOver, Bool.and_eq_true, beq_iff_eq] at h
  tauto

/-- The state in which a retired task's cluster has been stopped, and its entry counts it. -/
def State.retired (s : State) (cl : Nat) : State :=
  ((s.setCl cl (s.cl cl).retire).requestServed cl).onNode (s.cl cl).ctl.node fun n =>
    { n with retired := n.retired + 1, rung4 := NMap.set 0 n.rung4 (s.cl cl).ctl.task 0,
             poisonHit := NMap.set [] n.poisonHit (s.cl cl).ctl.task [] }

theorem exec_taskRetire_matched {s : State} {cl : Nat} (running : (s.cl cl).ctl.occ = .running) (ended : s.taskOver cl = true) :
    exec (.taskRetire cl true) s = .next ((s.retired cl).completeNode (s.cl cl).ctl.node) := by
  change execTaskRetire cl true s = _
  simp only [execTaskRetire, running, ended]
  rfl

theorem exec_taskRetire_diverged {s : State} {cl : Nat} (running : (s.cl cl).ctl.occ = .running) (ended : s.taskOver cl = true) :
    exec (.taskRetire cl false) s = .next (s.divergence cl .ending (s.cl cl).a.pc.toNat) := by
  change execTaskRetire cl false s = _
  simp only [execTaskRetire, running, ended]
  rfl

/-- What completes with a retirement leaves the cores of the cluster as the retirement does. -/
theorem State.cl_retired (s : State) (cl : Nat) :
    (((s.retired cl).completeNode (s.cl cl).ctl.node).cl cl).besideStores = (s.cl cl).retire.besideStores := by
  rw [(State.keepsTasks_nodeStable.completeNode (s.retired cl) _).cluster cl, State.retired, State.cl_onNode]
  exact congrArg Cluster.besideStores (s.cl_setCl_self cl _)

/-! ### A halt without a live-range table (R200) -/

theorem exec_xHalt_without_table {s : State} {cl : Nat} {p : Bool × Bool} (halts : s.halting cl = true) (stands : (s.cl cl).a.run = .frozen)
    (clean : (s.cl cl).x.trap = none) (point : (s.cl cl).x.haltPoint = some p) (same : (s.cl cl).vigilSame = true)
    (none : (s.cl cl).x.ckpt = none) : exec (.xHalt cl) s = .next (s.endTask cl .requeue) := by
  change execXHalt cl s = _
  simp only [execXHalt, halts, stands, clean, point, same, none]
  rfl

/-! ### The start of a task (R177) -/

theorem exec_taskStart {s : State} {cl : Nat} {n : Node} (placed : (s.cl cl).ctl.occ = .placed)
    (found : s.node? (s.cl cl).ctl.node = some n) :
    exec (.taskStart cl) s = .next ((({ s with flights := s.flights.filter fun g => g.cl != cl } : State).dropFetches fun o =>
      o.fetchOf cl false || o.fetchOf cl true).startState cl ((s.cl cl).start n)) := by
  change execTaskStart cl s = _
  simp only [execTaskStart, placed, found]
  rfl

/-- Registers at a task's start: register 1 is ARG0, register 2 ARG1. -/
theorem get_startRegs (n : Node) (i : Nat) :
    NMap.get 0 (startRegs n) i = if i = 1 then BitVec.ofNat 64 n.arg0 else if i = 2 then BitVec.ofNat 64 n.arg1 else 0 := by
  rw [startRegs, NMap.get_set, NMap.get_set]
  by_cases h₁ : i = 1
  · simp [h₁]
  · simp [h₁, NMap.get]

/-! ### Completion records (R408, R457) -/

theorem exec_completionRecordWrite_replica {s : State} {node status : Nat} {n : Node} (found : s.node? node = some n)
    (ended : s.nodeOver node n = some status) (far : n.origin ≠ s.dev.chip) :
    exec (.completionRecordWrite node) s
      = .next (((s.send n.origin (.report n.originId n.retired (status != 0) false)).freeNode node).wakeNodes) := by
  change execCompletionRecordWrite node s = _
  simp only [execCompletionRecordWrite, found, ended, bne_iff_ne.mpr far, if_true]

/-- The place of the next record in the ring of a queue. -/
def Queue.nextRecord (q : Queue) : Nat := (q.ctail + 1) % 2 ^ q.plog

/-- The record of a node that is over stands in the ring of its queue, and the host is told. -/
def State.recorded (s : State) (n : Node) (status : Nat) : State :=
  let q := s.queue n.queue
  let m := (s.hostMem.write (q.pbase + 32 * q.ctail) (recordBytes n.originId n status)).writeN (q.cwb.toNat / 2 ^ 3 % 2 ^ 39 * 8) 8 q.nextRecord
  (({ s with hostMem := m } : State).setQueue n.queue { q with ctail := q.nextRecord }).msix n.queue

theorem exec_completionRecordWrite_own {s : State} {node status : Nat} {n : Node} (found : s.node? node = some n)
    (ended : s.nodeOver node n = some status) (own : n.origin = s.dev.chip) (on : (s.queue n.queue).en = true)
    (room : (s.queue n.queue).nextRecord ≠ (s.queue n.queue).chead)
    (first : ∀ p ∈ s.nodeList, p.1 = node ∨ p.2.queue ≠ n.queue ∨ n.order ≤ p.2.order ∨ n.finishedAt ≤ p.2.finishedAt) :
    exec (.completionRecordWrite node) s = .next (((s.recorded n status).freeNode node).wakeNodes) := by
  have noEarlier : (s.nodeList.any fun (e, m) => e != node && m.queue == n.queue && m.origin == s.dev.chip
      && decide (m.order < n.order) && (s.nodeOver e m).isSome && decide (m.finishedAt < n.finishedAt)) = false := by
    rw [List.any_eq_false]
    intro p hp holds
    simp only [Bool.and_eq_true, bne_iff_ne, beq_iff_eq, decide_eq_true_eq] at holds
    obtain ⟨⟨⟨⟨⟨other, queue⟩, -⟩, order⟩, -⟩, finished⟩ := holds
    rcases first p hp with h | h | h | h
    · exact other h
    · exact h queue
    · omega
    · omega
  have some_ : ((s.queue n.queue).nextRecord == (s.queue n.queue).chead) = false := beq_false_of_ne room
  change execCompletionRecordWrite node s = _
  simp only [Queue.nextRecord] at some_
  simp only [execCompletionRecordWrite, found, ended, own, on, some_, noEarlier, bne_self_eq_false, Bool.not_true, Bool.or_self,
    Bool.false_eq_true, if_false]
  rfl

/-! ### Placement (R28, R398-R407) -/

theorem State.foldl_rsvSeen {s : State} {l : List (Nat × Node)} (readable : ∀ p ∈ l, s.descBad p.2.cid = false) :
    l.foldl (fun t e => t.rsvSeen (t.descAddr e.2.cid)) s = s := by
  induction l with
  | nil => rfl
  | cons p l ih =>
    have first : s.rsvSeen (s.descAddr p.2.cid) = s := by
      rw [State.rsvSeen, show s.entryBad (s.descAddr p.2.cid) = false from readable p List.mem_cons_self]
      rfl
    rw [List.foldl_cons, first]
    exact ih fun e he => readable e (List.mem_cons_of_mem _ he)

theorem State.withPreempts_self {s : State} (h : s.disp.preempts = s.inFlight) :
    ({ s with disp := { s.disp with preempts := s.inFlight } } : State) = s := by
  rw [← h]

/-- A cluster as it stands when a task of a context is placed on it: with the context's mailbox settings, and cleared where its memories may hold
the data of another context (R28, R77). -/
def State.prepared (s : State) (k cid : Nat) : State :=
  let t := s.onCtl k fun c => c.loadMbox cid (s.ctx cid).mbox
  if (t.cl k).ctl.dataCid = some cid then t else t.clearCluster k

/-- A cluster with a task of entry `e` placed on it at `now`. -/
def Cluster.place (c : Cluster) (now e : Nat) (n : Node) (t : Nat) : Cluster :=
  { c with
    ctl := { c.ctl with occ := if n.susp.any (fun r => r.task == t) then .restoring else .placed, cid := n.cid, dataCid := some n.cid, node := e,
                        task := t, placedAt := now, preempt := false, aentry := (n.entries now).1, xentry := (n.entries now).2 },
    a := { c.a with pend := c.a.pend ||| 2 } }

theorem State.disp_prepared (s : State) (k cid : Nat) : (s.prepared k cid).disp = s.disp := by
  rw [State.prepared]
  split <;> rfl

/-- A placement changes the prepared cluster, and beside it only tables of the dispatcher. -/
theorem State.place_eq (s : State) (e : Nat) (n : Node) (t k : Nat) :
    ∃ d : Disp, s.place e n t k = { (s.prepared k n.cid).onCl k fun c => c.place (s.prepared k n.cid).gtc e n t with disp := d }
      ∧ d.upre = s.disp.upre := by
  have upre := congrArg Disp.upre (s.disp_prepared k n.cid)
  generalize hp : s.prepared k n.cid = p at upre
  simp only [State.prepared] at hp
  simp only [State.place, hp, State.onNode]
  split <;> exact ⟨_, rfl, upre⟩

theorem State.upre_place (s : State) (e : Nat) (n : Node) (t k : Nat) : (s.place e n t k).disp.upre = s.disp.upre := by
  obtain ⟨d, eq, upre⟩ := s.place_eq e n t k
  rw [eq, upre]

theorem exec_taskPlacement_places {s : State} {e t k : Nat} {n : Node} (found : s.firstPlaceable s.serviceOrder = some (e, n, t, k))
    (upre : s.disp.upre = false) (flight : s.disp.preempts = s.inFlight) (readable : ∀ p ∈ s.serviceOrder, s.descBad p.2.cid = false) :
    exec .taskPlacement s = .next (s.place e n t k) := by
  change execTaskPlacement s = _
  simp only [execTaskPlacement, State.withPreempts_self flight, State.foldl_rsvSeen readable]
  simp only [found, State.upre_place, upre, Bool.not_false, if_true]

/-- An urgent task without room: its victim is asked to halt. -/
theorem exec_taskPlacement_urgent {s : State} {e t v : Nat} (none : s.firstPlaceable s.serviceOrder = none) (upre : s.disp.upre = true)
    (flight : s.disp.preempts = s.inFlight) (readable : ∀ p ∈ s.serviceOrder, s.descBad p.2.cid = false)
    (urgent : s.urgentTask s.serviceOrder = some (e, t, v)) :
    exec .taskPlacement s = .next { s.askPreempt v 0 with
      disp := { (s.askPreempt v 0).disp with preempts := (s.askPreempt v 0).disp.preempts ++ [(e, t, v)] } } := by
  change execTaskPlacement s = _
  simp only [execTaskPlacement, State.withPreempts_self flight, State.foldl_rsvSeen readable]
  simp only [none, upre, urgent, Bool.not_true, Bool.false_eq_true, if_false]

/-- A choice among the elements of a list is one of them. -/
theorem mem_of_foldl_choice {α : Type} {f : Option α → α → Option α} (pick : ∀ o a, f o a = some a ∨ f o a = o) {l : List α}
    {o : Option α} {v : α} (h : l.foldl f o = some v) : o = some v ∨ v ∈ l := by
  induction l generalizing o with
  | nil => exact .inl h
  | cons a l ih =>
    rcases ih h, pick o a with ⟨eq | mem, p | p⟩
    · exact .inr (Option.some.inj (p.symm.trans eq) ▸ List.mem_cons_self)
    · exact .inl (p.symm.trans eq)
    all_goals exact .inr (List.mem_cons_of_mem _ mem)

/-- A victim runs a task, and no pre-emption of it is on its way (R404). -/
theorem State.victim_runs {s : State} {cid v : Nat} (h : s.victim cid = some v) :
    (s.cl v).ctl.occ = .running ∧ (s.disp.pending.any fun p => p.1 == v) = false := by
  have pick := mem_of_foldl_choice (fun o a => ?_) h
  · have mem := pick.resolve_left (by simp)
    simp only [List.mem_filter, Bool.and_eq_true, beq_iff_eq, Bool.not_eq_true'] at mem
    obtain ⟨-, ⟨⟨⟨⟨⟨-, running⟩, -⟩, -⟩, -⟩, -⟩, free⟩ := mem
    exact ⟨running, free⟩
  · dsimp only
    split
    · exact .inl rfl
    · exact ite_eq_or_eq _ _ _

theorem State.victim_of_urgentTask {s : State} {l : List (Nat × Node)} {e t v : Nat} (h : s.urgentTask l = some (e, t, v)) :
    ∃ cid, s.victim cid = some v := by
  induction l with
  | nil => cases h
  | cons p l ih =>
    simp only [State.urgentTask] at h
    split at h
    · next u hu =>
      cases h
      split at hu
      · obtain ⟨t', -, h⟩ := Option.bind_eq_some_iff.mp hu
        obtain ⟨v', hv, eq⟩ := Option.map_eq_some_iff.mp h
        cases eq
        exact ⟨_, hv⟩
      · cases hu
    · exact ih h

/-- A request to halt a cluster that runs a task is on its way, or comes to be. -/
theorem State.askPreempt_of_running {s : State} {k : Nat} (why : Nat) (running : (s.cl k).ctl.occ = .running)
    (none : (s.disp.pending.any fun p => p.1 == k) = false) :
    s.askPreempt k why = { s with disp := { s.disp with pending := s.disp.pending ++ [(k, why)] } } := by
  simp only [State.askPreempt, running, none]
  rfl

theorem State.hostMem_freeNode (s : State) (e : Nat) : (s.freeNode e).hostMem = s.hostMem := rfl
theorem State.queues_freeNode (s : State) (e : Nat) : (s.freeNode e).queues = s.queues := rfl

theorem State.queue_recorded (s : State) (n : Node) (status : Nat) :
    (s.recorded n status).queue n.queue = { s.queue n.queue with ctail := (s.queue n.queue).nextRecord } := NMap.get_set_self _ _ _

theorem State.hostMem_setQueue (s : State) (q : Nat) (v : Queue) : (s.setQueue q v).hostMem = s.hostMem := rfl

theorem State.hostMem_recorded (s : State) (n : Node) (status : Nat) :
    (s.recorded n status).hostMem = (s.hostMem.write ((s.queue n.queue).pbase + 32 * (s.queue n.queue).ctail)
      (recordBytes n.originId n status)).writeN ((s.queue n.queue).cwb.toNat / 2 ^ 3 % 2 ^ 39 * 8) 8 (s.queue n.queue).nextRecord := by
  simp only [State.recorded, State.msix_hostMem, State.hostMem_setQueue]

/-! ### What a cluster is cleared of (R28) -/

theorem Ctl.loadMbox_dataCid (c : Ctl) (cid : Nat) (m : Option W64) : (c.loadMbox cid m).dataCid = c.dataCid := by
  simp only [Ctl.loadMbox]
  split
  · rfl
  · split <;> rfl

/-- A table without the entries of a key reads there as the default. -/
theorem NMap.get_filter_of_out {α : Type} {d : α} (m : NMap α) {p : Nat × α → Bool} {i : Nat} (out : ∀ v, p (i, v) = false) :
    NMap.get d (m.filter p) i = d := by
  induction m with
  | nil => rfl
  | cons e m ih =>
    rw [List.filter_cons]
    split
    · next keep =>
      have ne : i ≠ e.1 := fun h => by rw [show e = (i, e.2) from Prod.ext h.symm rfl, out] at keep; cases keep
      simp only [NMap.get, if_neg ne, ih, ite_self]
    · exact ih

theorem Ctl.twSelOf_lt (c : Ctl) (k b : Nat) : c.twSelOf k b < 4 := by
  have width : 2 * b + 1 + 1 - 2 * b = 2 := by omega
  rw [Ctl.twSelOf, bits, width]
  exact Nat.mod_lt _ (by decide)

/-- The bytes of a tower bank in use are not among those of the banks that are in no use. -/
theorem Cluster.byte_unusedBanks {c : Cluster} {g a : Nat} (used : c.ctl.twSelOf g (a / 2 ^ 14) ≠ 3) (ha : a < 2 ^ 18) :
    Memory.byte c.unusedBanks (c.twAddr g a) = 0 := by
  have bank : twBankOf (a / 16384) (c.ctl.twSelOf g (a / 16384)) < 18 := by
    have narrow := c.ctl.twSelOf_lt g (a / 16384)
    rw [show (2 : Nat) ^ 14 = 16384 from rfl] at used
    simp only [twBankOf]
    split <;> omega
  have cell : c.twAddr g a / 294912 = g := by simp only [Cluster.twAddr, bankAddr]; omega
  have place : c.twAddr g a % 294912 / 16384 = twBankOf (a / 16384) (c.ctl.twSelOf g (a / 16384)) := by
    simp only [Cluster.twAddr, bankAddr]; omega
  refine NMap.get_filter_of_out _ fun v => List.all_eq_false.mpr ⟨a / 16384, List.mem_range.mpr (by omega), ?_⟩
  simp only [cell, place, bne_self_eq_false]
  decide

/-- A cluster cleared before the first task of another context. -/
def Cluster.cleared (c : Cluster) : Cluster :=
  { c with sp := [], tw := c.unusedBanks, x := { c.x with t := [], k := [], lq := [], sq := [], pack := [], dq := [], hq := [] },
           arr := { c.arr with acc := [] }, a := { c.a with sems := [] } }

theorem State.cl_clearCluster (s : State) (n : Nat) : (s.clearCluster n).cl n = (s.cl n).cleared := s.cl_setCl_self n _

theorem poison_elsewhere (l : List (Nat × Nat)) (p : Nat) : ((l.filter fun q => q.1 != p).filter fun q => q.1 == p).map Prod.snd = [] := by
  simp [List.filter_filter]

theorem State.spBad_clearCluster (s : State) (n : Nat) : (s.clearCluster n).spBad n = [] := poison_elsewhere s.spPoison (s.phys n)
theorem State.twBad_clearCluster (s : State) (n : Nat) : (s.clearCluster n).twBad n = [] := poison_elsewhere s.twPoison (s.phys n)

/-- A cluster that holds the context's data is left as it is but for mailbox settings. -/
theorem State.prepared_of_same {s : State} {k cid : Nat} (same : (s.cl k).ctl.dataCid = some cid) :
    s.prepared k cid = s.onCtl k fun c => c.loadMbox cid (s.ctx cid).mbox := by
  rw [State.prepared, if_pos (by rw [State.cl_onCtl_self, Ctl.loadMbox_dataCid, same])]

theorem State.prepared_of_other {s : State} {k cid : Nat} (other : (s.cl k).ctl.dataCid ≠ some cid) :
    s.prepared k cid = (s.onCtl k fun c => c.loadMbox cid (s.ctx cid).mbox).clearCluster k := by
  rw [State.prepared, if_neg (by rwa [State.cl_onCtl_self, Ctl.loadMbox_dataCid])]

theorem State.prepared_keeps (s : State) (k cid : Nat) :
    (s.prepared k cid).gtc = s.gtc ∧ ((s.prepared k cid).cl k).a.pend = (s.cl k).a.pend := by
  by_cases h : (s.cl k).ctl.dataCid = some cid
  · rw [State.prepared_of_same h, State.cl_onCtl_self]
    exact ⟨rfl, rfl⟩
  · rw [State.prepared_of_other h, State.cl_clearCluster, State.cl_onCtl_self]
    exact ⟨rfl, rfl⟩

/-- The cluster on which a task is placed. -/
theorem State.cl_place (s : State) (e : Nat) (n : Node) (t k : Nat) :
    (s.place e n t k).cl k = ((s.prepared k n.cid).cl k).place s.gtc e n t := by
  obtain ⟨d, eq, -⟩ := s.place_eq e n t k
  rw [eq, (s.prepared_keeps k n.cid).1]
  exact (s.prepared k n.cid).cl_onCl_self k fun c => c.place s.gtc e n t

theorem State.spBad_place (s : State) (e : Nat) (n : Node) (t k : Nat) : (s.place e n t k).spBad k = (s.prepared k n.cid).spBad k := by
  obtain ⟨d, eq, -⟩ := s.place_eq e n t k
  rw [eq]
  rfl

theorem State.twBad_place (s : State) (e : Nat) (n : Node) (t k : Nat) : (s.place e n t k).twBad k = (s.prepared k n.cid).twBad k := by
  obtain ⟨d, eq, -⟩ := s.place_eq e n t k
  rw [eq]
  rfl

/-! ### The cluster on which a task starts (R177) -/

theorem State.cl_startState (s : State) (cl : Nat) (c : Cluster) : (s.startState cl c).cl cl = c := State.cl_setCl_self _ _ _

theorem Cluster.reg_start (c : Cluster) (n : Node) (i : BitVec 6) :
    (c.start n).a.reg i = if i.toNat = 1 then BitVec.ofNat 64 n.arg0 else if i.toNat = 2 then BitVec.ofNat 64 n.arg1 else 0 := by
  rw [ACore.reg]
  split
  · next zero => rw [zero]; rfl
  · exact get_startRegs n _

theorem Cluster.xreg_start (c : Cluster) (n : Node) (i : Nat) :
    (c.start n).x.xreg i = if i = 1 then BitVec.ofNat 64 n.arg0 else if i = 2 then BitVec.ofNat 64 n.arg1 else 0 := by
  rw [XCore.xreg]
  split
  · next zero => rw [zero]; rfl
  · exact get_startRegs n _

/-! ### The obligation -/

/-- Settles O39, clause by clause: placement, the victim of an urgent task, start, retirement, a halt without a live-range table, and completion
records. -/
theorem tasksOnClusters : Obligations.TasksOnClusters := by
  unfold Obligations.TasksOnClusters
  refine ⟨fun s e t k n found upre flight readable => ⟨_, exec_taskPlacement_places found upre flight readable, ?placement⟩,
    fun s e t v none upre flight readable urgent => ⟨_, exec_taskPlacement_urgent none upre flight readable urgent, ?urgent⟩,
    fun cl s n placed found => ⟨_, exec_taskStart placed found, ?start⟩,
    fun cl s running ended => ⟨⟨_, exec_taskRetire_matched running ended, ?retirement⟩, fun n found ok fresh here =>
      ⟨_, exec_taskRetire_diverged running ended, ?divergence⟩⟩,
    fun cl s n p halts stands clean point same none halting found ok fresh => ?halt,
    fun node status s n found ended => ⟨exec_completionRecordWrite_replica found ended, fun own on room first =>
      ⟨_, exec_completionRecordWrite_own found ended own on room first, ?record⟩⟩⟩
  case placement =>
    have c := s.cl_place e n t k
    obtain ⟨-, pend⟩ := s.prepared_keeps k n.cid
    rw [c]
    refine ⟨rfl, rfl, rfl, rfl, rfl, congrArg (· ||| 2) pend, rfl, fun other => ?_, fun same a => ?_⟩
    · have clear : (s.prepared k n.cid).cl k = ((s.onCtl k fun c => c.loadMbox n.cid (s.ctx n.cid).mbox).cl k).cleared := by
        rw [State.prepared_of_other other, State.cl_clearCluster]
      have sp : (s.place e n t k).spBad k = [] := by rw [State.spBad_place, State.prepared_of_other other, State.spBad_clearCluster]
      have tw : (s.place e n t k).twBad k = [] := by rw [State.twBad_place, State.prepared_of_other other, State.twBad_clearCluster]
      rw [clear]
      refine ⟨fun _ => rfl, fun _ => rfl, rfl, rfl, rfl, rfl, rfl, rfl, rfl, fun i => ?_, fun g a used _ ha => ?_, fun g a => ?_⟩
      · rw [State.sem, c, clear]; rfl
      · exact Cluster.byte_unusedBanks used ha
      · rw [State.spPoisoned, State.twPoisoned, sp, tw]; exact ⟨rfl, rfl⟩
    · rw [State.prepared_of_same same, State.cl_onCtl_self]
      rfl
  case urgent =>
    obtain ⟨cid, victim⟩ := State.victim_of_urgentTask urgent
    obtain ⟨running, free⟩ := State.victim_runs victim
    rw [State.askPreempt_of_running 0 running free]
    exact ⟨rfl, _, List.mem_append_right _ (List.mem_singleton_self _), rfl⟩
  case start =>
    rw [State.cl_startState]
    exact ⟨rfl, rfl, rfl, rfl, rfl, rfl, Cluster.reg_start _ n, Cluster.xreg_start _ n, rfl, rfl, rfl, rfl, rfl, rfl,
      fun q hq => bne_iff_ne.mp (List.mem_filter.mp hq).2⟩
  case retirement =>
    have c := s.cl_retired cl
    exact ⟨congrArg (fun c : Cluster => c.ctl.occ) c, congrArg (fun c : Cluster => c.a.run) c, congrArg (fun c : Cluster => c.x.run) c⟩
  case divergence =>
    have task := State.mode_of_taskOver ended
    have busy : (s.cl cl).ctl.occ ≠ .free := by rw [running]; decide
    have small := State.lt_of_runsOn here
    have cls := s.cl_diverged cl .ending (s.cl cl).a.pc.toNat
    have short := State.divergence_short .ending (s.cl cl).a.pc.toNat task busy found ok fresh here
    have aborts := State.divergence_aborts .ending (s.cl cl).a.pc.toNat task busy found
    refine ⟨?_, short, fun limit => ?_⟩
    · rcases Nat.lt_or_ge (NMap.get 0 n.rung4 (s.cl cl).ctl.task + 1) s.dev.taskLimit with below | limit
      · exact (short below).1.1
      · rw [aborts limit]
        exact State.free_abortContext _ _ _ _ _ _ small (by rw [cls])
    · rw [aborts limit]
      refine ⟨State.aborted_abortContext _ _ _ _ _ _, State.history_abortContext _ _ _ _ _ _, fun m hm its => ?_,
        fun e m hm => State.susp_abortContext _ _ _ _ _ _ hm⟩
      exact State.free_abortContext _ _ _ _ _ _ hm ((State.cid_abortContext _ _ _ _ _ _ m).symm.trans its)
  case halt =>
    have busy : (s.cl cl).ctl.occ ≠ .free := by rw [halting]; decide
    have entry := State.node?_endTask .requeue busy
    rw [found, Option.map_some, Node.takeBack_requeue _ ok fresh] at entry
    exact ⟨_, _, exec_xHalt_without_table halts stands clean point same none, State.aborted_endTask .requeue busy, entry, rfl⟩
  case record =>
    have queues := (State.keepsTasks_nodeStable.wakeNodes ((s.recorded n status).freeNode node)).queues
    have host := (State.KeepsHost.wakeNodes ((s.recorded n status).freeNode node)).hostMem
    rw [State.hostMem_freeNode] at host
    rw [State.queue, queues, State.queues_freeNode, host]
    exact ⟨s.queue_recorded n status, s.hostMem_recorded n status⟩

end Sys2Proof.Machine
end

section
/-! PROOFS. What reset leaves (R60, R77, R92, R137, R375-R380, R390, R475, R484). -/

namespace Sys2Proof.Machine
open Sys2Proof

theorem State.cl_reset (n : Nat) : State.reset.cl n = Cluster.reset := rfl

/-- The semaphores of a core after reset count 0 (R380). -/
theorem ACore.semstat_reset (n : Nat) : ACore.reset.semstat n = 0 := by
  simp [ACore.semstat, ACore.reset, NMap.get]

/-- Settles O58: the control registers one by one, and the empty memories. -/
theorem resetState : Obligations.ResetState := by
  unfold Obligations.ResetState
  refine ⟨fun cl => ⟨rfl, rfl, rfl, rfl, show bits 0 2 0 + flag false 3 = 0 by decide, rfl, fun n lo hi => ?semaphores, rfl, rfl, rfl, rfl, rfl, rfl, rfl, rfl, rfl, rfl⟩,
    rfl, rfl, rfl, fun a => ⟨rfl, rfl, fun n => ⟨rfl, rfl⟩⟩, rfl, by decide, by decide⟩
  case semaphores =>
    have zero : State.reset.csr cl n = ACore.reset.semstat (n - 0x32) := by
      obtain rfl | rfl | rfl | rfl : n = 0x32 ∨ n = 0x33 ∨ n = 0x34 ∨ n = 0x35 := by omega
      all_goals rfl
    rw [zero, ACore.semstat_reset]

end Sys2Proof.Machine
end

section
/-! PROOFS. Messages, and the withdrawal of translations: what they leave of the state, and what the instructions TLBINV and SHOOT do
(R57, R58, R387). -/

namespace Sys2Proof.Machine
open Sys2Proof

/-! ### Messages to other chips -/

/-- `t` is `s` but for what its ports hold, the messages that have left, and the timers of its requests. -/
structure State.Posts (s t : State) : Prop where
  eq : t = { s with ports := t.ports, outbox := t.outbox, reqs := t.reqs }

namespace State.Posts

theorem refl (s : State) : s.Posts s := ⟨rfl⟩

theorem trans {s t u : State} (h : s.Posts t) (k : t.Posts u) : s.Posts u := ⟨by rw [k.eq, h.eq]⟩

theorem foldl {α : Type} {f : State → α → State} (h : ∀ (s : State) (a : α), s.Posts (f s a)) (s : State) (l : List α) :
    s.Posts (l.foldl f s) :=
  List.foldlRecOn l f (refl s) fun t ht a _ => ht.trans (h t a)

theorem sendOn (s : State) (p dst : Nat) (m : Msg) : s.Posts (s.sendOn p dst m) := by
  simp only [State.sendOn]
  split <;> exact ⟨rfl⟩

theorem send (s : State) (dst : Nat) (m : Msg) (src : Nat) : s.Posts (s.send dst m src) := by
  simp only [State.send]
  split
  · exact ⟨rfl⟩
  · split
    · exact refl s
    · exact sendOn s _ dst m

variable {s t : State} (h : s.Posts t)
include h

theorem cl (n : Nat) : t.cl n = s.cl n := (congrArg (State.cl · n) h.eq :)
theorem a : t.a = s.a := (congrArg State.a h.eq :)
theorem shoots : t.shoots = s.shoots := (congrArg State.shoots h.eq :)
theorem hbm : t.hbm = s.hbm := (congrArg State.hbm h.eq :)
theorem hostMem : t.hostMem = s.hostMem := (congrArg State.hostMem h.eq :)
theorem sameBytes : SameBytes s t := .of_clusters h.hbm h.hostMem h.cl

end State.Posts

/-! ### Translations dropped (R48, R57) -/

/-- A cluster whose translation caches keep some of their entries. -/
def Cluster.keepTlbs (keep : TlbEnt → Bool) (c : Cluster) : Cluster :=
  { c with a := { c.a with tlb := c.a.tlb.filter keep }, streams := NMap.mapVals [] (fun _ ts => ts.filter keep) c.streams }

theorem State.cl_keepTlbs (s : State) (keep : TlbEnt → Bool) (nodes : Nat → Bool) (m : Nat) :
    (s.keepTlbs keep nodes).cl m = (s.cl m).keepTlbs keep :=
  s.cl_mapClusters (fun _ c => c.keepTlbs keep) (fun _ => rfl) m

theorem State.cl_dropVa (s : State) (cid va m : Nat) : (s.dropVa cid va).cl m = (s.cl m).keepTlbs fun t => !t.covers cid va :=
  s.cl_keepTlbs _ _ m

/-- A shoot-down's scope filters the caches of every cluster alike. -/
theorem State.cl_dropTranslations (s : State) (sc : ShootScope) :
    ∃ keep, ∀ m, (s.dropTranslations sc).cl m = (s.cl m).keepTlbs keep :=
  ⟨_, fun m => s.cl_keepTlbs _ (fun _ => false) m⟩

theorem SameBytes.dropTranslations (s : State) (sc : ShootScope) : SameBytes s (s.dropTranslations sc) := by
  obtain ⟨keep, kept⟩ := s.cl_dropTranslations sc
  exact ⟨fun _ => rfl, fun _ => rfl, fun n _ => by rw [kept n]; exact ⟨rfl, rfl⟩⟩

/-! ### A shoot-down begins (R57, R58) -/

/-- The shoot-down that this chip begins as its root. -/
def State.newShoot (s : State) (scope : ShootScope) (owner : ShootBy) : Shoot :=
  { id := s.treeId, num := s.nextMsg, scope := scope, owner := owner, mask := 0, expect := maskOf s.peers, sentAt := s.gtc, resent := false,
    fencedMask := 0 }

/-- The state in which the translations of a shoot-down have been dropped and it is noted. -/
def State.noteShoot (s : State) (x : Shoot) : State :=
  { s.dropTranslations x.scope with shoots := s.shoots ++ [x], nextMsg := s.nextMsg + 1 }

theorem State.beginShoot_posts (s : State) (scope : ShootScope) (owner : ShootBy) :
    (s.noteShoot (s.newShoot scope owner)).Posts (s.beginShoot scope owner) :=
  .foldl (fun s k => .send s k _ _) _ _

theorem State.mem_shoots_beginShoot (s : State) (scope : ShootScope) (owner : ShootBy) :
    s.newShoot scope owner ∈ (s.beginShoot scope owner).shoots := by
  rw [(s.beginShoot_posts scope owner).shoots]
  exact List.mem_append_right _ (List.mem_singleton_self _)

theorem State.pc_beginShoot (s : State) (scope : ShootScope) (owner : ShootBy) : (s.beginShoot scope owner).a.pc = s.a.pc := by
  obtain ⟨keep, kept⟩ := s.cl_dropTranslations scope
  rw [(s.beginShoot_posts scope owner).a]
  exact (congrArg (fun c : Cluster => c.a.pc) (kept s.focus) :)

/-! ### TLBINV and SHOOT (R387) -/

theorem State.ready_of_subset {s : State} {rs qs : List (BitVec 6)} (h : s.ready qs = true) (sub : rs ⊆ qs) : s.ready rs = true :=
  List.all_eq_true.mpr fun r hr => List.all_eq_true.mp h r (sub hr)

section
variable {f : AF} {s : State}

theorem exec_tlbinv_bad {va : Nat} (ready : s.ready [f.sa, f.sb] = true) (bad : rangeBad (s.invScope f) = some va) :
    exec (.tlbinv f) s = .next (s.trapHere 3 1 (BitVec.ofNat 64 va)) := by
  change execTlbinv f s = _
  simp only [execTlbinv, ready, bad]
  rfl

/-- TLBINV over a range that may be named. -/
theorem exec_tlbinv (ready : s.ready [f.sa, f.sb] = true) (good : rangeBad (s.invScope f) = none) :
    exec (.tlbinv f) s = .next (
      if s.devDrained then
        if rangeEmpty (s.invScope f) then s.advance
        else if (s.dropTranslations (s.invScope f)).quiet (s.invScope f) (s.dropTranslations (s.invScope f)).nextMsg then
          (s.dropTranslations (s.invScope f)).advance
        else (s.dropTranslations (s.invScope f)).waitAt .shoot f
      else s.waitAt .shoot f) := by
  change execTlbinv f s = _
  simp only [execTlbinv, ready, good]
  cases s.devDrained <;> cases rangeEmpty (s.invScope f) <;> rfl

theorem exec_shoot_bad {va : Nat} (ready : s.ready [f.d, f.sa, f.sb] = true) (bad : rangeBad (s.invScope f) = some va) :
    exec (.shoot f) s = .next (s.trapHere 3 1 (BitVec.ofNat 64 va)) := by
  change execShoot f s = _
  simp only [execShoot, ready, bad]
  rfl

/-- The state in which a SHOOT begins: no shoot-down is the core's. -/
def State.shootFree (s : State) : State := { s with shoots := s.shoots.filter fun x => x.owner != .core s.focus }

/-- SHOOT at its first issue. -/
theorem exec_shoot_first (ready : s.ready [f.d, f.sa, f.sb] = true) (good : rangeBad (s.invScope f) = none) (fresh : s.a.wait = none)
    (drained : s.devDrained = true) :
    exec (.shoot f) s = .next (if rangeEmpty (s.invScope f) then s.shootFree.result f.d 0
      else (s.shootFree.beginShoot (s.invScope f) (.core s.focus)).waitAt .shoot f) := by
  change execShoot f s = _
  simp only [execShoot, ready, good, State.ownShoot, fresh, drained]
  cases rangeEmpty (s.invScope f) <;> rfl

/-- SHOOT once every chip has answered. -/
theorem exec_shoot_done {x : Shoot} (ready : s.ready [f.d, f.sa, f.sb] = true) (good : rangeBad (s.invScope f) = none)
    (waits : s.a.wait.isSome = true) (mine : s.shoots.find? (fun y => y.owner == .core s.focus) = some x) (done : s.shootDone x = true) :
    exec (.shoot f) s = .next ((s.endShoot x.id).result f.d x.fencedMask) := by
  change execShoot f s = _
  simp only [execShoot, ready, good, State.ownShoot, waits, if_true, mine, done]
  rfl

end

/-- Settles O11: the fault, TLBINV, and SHOOT at its first issue and at its end. -/
theorem translationInvalidation : Obligations.TranslationInvalidation := by
  unfold Obligations.TranslationInvalidation
  intro f s ready
  have two : s.ready [f.sa, f.sb] = true := State.ready_of_subset ready (by simp)
  refine ⟨fun va bad i hi => ?fault, fun good drained => ⟨fun empty => ?empty, fun full quiet => ?quiet, fun full busy => ?busy,
    fun fresh empty => ?nothing, fun fresh full => ?begins⟩, fun x good waits mine done => exec_shoot_done ready good waits mine done,
    fun good busy => ?undrained⟩
  case fault =>
    simp only [List.mem_cons, List.not_mem_nil, or_false] at hi
    obtain rfl | rfl := hi
    · exact exec_tlbinv_bad two bad
    · exact exec_shoot_bad ready bad
  case empty => rw [exec_tlbinv two good, if_pos drained, if_pos empty]
  case quiet => rw [exec_tlbinv two good, if_pos drained, if_neg (by simp [full]), if_pos quiet]
  case busy => rw [exec_tlbinv two good, if_pos drained, if_neg (by simp [full]), if_neg (by simp [busy])]
  case undrained => rw [exec_tlbinv two good, if_neg (by simp [busy])]
  case nothing =>
    obtain ⟨regs, pc, -⟩ := s.shootFree.result_spec f.d 0
    rw [exec_shoot_first ready good fresh drained, if_pos empty]
    exact ⟨_, rfl, pc, regs⟩
  case begins =>
    obtain ⟨pc, -⟩ := (s.shootFree.beginShoot (s.invScope f) (.core s.focus)).waitAt_spec .shoot f
    rw [exec_shoot_first ready good fresh drained, if_neg (by simp [full])]
    exact ⟨_, rfl, pc.trans (State.pc_beginShoot _ _ _), _, State.mem_shoots_beginShoot _ _ _, rfl, rfl, rfl⟩

end Sys2Proof.Machine
end

section
/-! PROOFS. What a host queue does with its head command before the command's own checks, and what an answer writes (R40, R391, R395,
R457-R459). -/

namespace Sys2Proof.Machine
open Sys2Proof

/-! ### The head command of a queue (R391, R457) -/

/-- Every row of the host commands other than queries is the head command of its queue, if that has its opcode. -/
theorem exec_hostRow {q opc : Nat} {i : Instr} (row : hostRow q i opc) : ∃ run, ∀ s, exec i s = s.command q (isOpc opc) run := by
  simp only [hostRow, List.mem_cons, List.not_mem_nil, or_false, Prod.mk.injEq] at row
  rcases row with ⟨rfl, rfl⟩ | ⟨rfl, rfl⟩ | ⟨rfl, rfl⟩ | ⟨rfl, rfl⟩ | ⟨rfl, rfl⟩ | ⟨rfl, rfl⟩ | ⟨rfl, rfl⟩ | ⟨rfl, rfl⟩ | ⟨rfl, rfl⟩ |
    ⟨rfl, rfl⟩ | ⟨rfl, rfl⟩ | ⟨rfl, rfl⟩ | ⟨rfl, rfl⟩ | ⟨rfl, rfl⟩ | ⟨rfl, rfl⟩ | ⟨rfl, rfl⟩ | ⟨rfl, rfl⟩ | ⟨rfl, rfl⟩ | ⟨rfl, rfl⟩ |
    ⟨rfl, rfl⟩ | ⟨rfl, rfl⟩
  all_goals
    delta exec
    dsimp only
    exact ⟨_, fun _ => rfl⟩

theorem isOpc_eq {h opc : Nat} (e : h % 256 = opc) : isOpc opc h = true := by
  rw [isOpc, bits_low, beq_iff_eq]
  exact e

section
variable {s : State} {q : Nat} {mine : Nat → Bool} {run : State → HCmd → CmdAns}

theorem State.command_of_not_runs (runs : s.queueRuns q = false) : s.command q mine run = .next s := by
  simp only [State.command, runs, Bool.not_false, if_true]

theorem State.command_of_malformed (runs : s.queueRuns q = true) (bad : (s.queue q).malformed (headOf s q) = true) :
    s.command q mine run = .next (s.setQueue q { s.queue q with mal := true }) := by
  simp only [headOf] at bad
  simp only [State.command, runs, bad, Bool.not_true, Bool.false_eq_true, if_false, if_true]

theorem State.command_of_held (runs : s.queueRuns q = true) (formed : (s.queue q).malformed (headOf s q) = false)
    (own : mine (headOf s q) = true) (held : s.cmdHeld q (headOf s q) = true) :
    s.command q mine run = .next (s.setQueue q { s.queue q with wait := true }) := by
  simp only [headOf] at formed own held
  simp only [State.command, runs, formed, own, held, Bool.not_true, Bool.false_eq_true, if_false, if_true]

theorem State.command_of_poisoned (runs : s.queueRuns q = true) (formed : (s.queue q).malformed (headOf s q) = false)
    (own : mine (headOf s q) = true) (free : s.cmdHeld q (headOf s q) = false) (some : (cmdOf s q).cid ≠ 0)
    (bad : s.descBad (cmdOf s q).cid = true) :
    s.command q mine run = .next ((s.rsvSeen (s.descAddr (cmdOf s q).cid)).setQueue q { s.queue q with wait := true }) := by
  simp only [cmdOf, headOf] at formed own free some bad ⊢
  simp only [State.command, runs, formed, own, free, bad, bne_iff_ne.mpr some, Bool.not_true, Bool.false_eq_true, Bool.and_true, if_false,
    if_true]

end

/-- A command is held by a replica whose place has come, or, before it begins, by writes of the host (R40, R391, R395). -/
theorem State.cmdHeld_of {s : State} {q h opc : Nat} (e : h % 256 = opc)
    (cause : (∃ f fs, (s.queue q).fwds = f :: fs ∧ f.mark = (s.queue q).head)
      ∨ (opc ∈ [16, 17, 24, 25, 26] ∧ (s.queue q).phase = 0 ∧ s.host.posted ≠ [])) : s.cmdHeld q h = true := by
  rcases cause with ⟨f, fs, queued, here⟩ | ⟨late, first, waiting⟩
  · simp [State.cmdHeld, queued, here]
  · have after : afterWrites h = true := by
      rw [afterWrites, bits_low, List.contains_iff_mem]
      exact e ▸ late
    simp [State.cmdHeld, after, first, waiting]

/-! ### An answer (R459) -/

theorem State.hostMem_finishCmd (s : State) (q h code res : Nat) :
    (s.finishCmd q h code res).hostMem
      = (s.hostMem.writeN ((s.queue q).slotAt 0 + 48) 8 res).writeN ((s.queue q).slotAt 0 + 56) 8 (1 + code * 2 ^ 8) := rfl

theorem Memory.byte_writeN_of_outside (m : Memory) {a n v i : Nat} (h : i < a ∨ a + n ≤ i) : (m.writeN a n v).byte i = m.byte i :=
  Memory.byte_write_of_outside m a i _ (by rwa [length_toBytes])

/-- Bytes that a store leaves alone read as before. -/
theorem Memory.readN_writeN_of_disjoint (m : Memory) {a n v b k : Nat} (h : b + k ≤ a ∨ a + n ≤ b) :
    (m.writeN a n v).readN b k = m.readN b k := by
  have same : (m.writeN a n v).read b k = m.read b k :=
    List.map_congr_left fun i hi => m.byte_writeN_of_outside (by have := List.mem_range.mp hi; omega)
  rw [Memory.readN, same, Memory.readN]

/-- RESULT reads as it was written before STATUS. -/
theorem State.result_finishCmd (s : State) (q h code : Nat) {res : Nat} (hr : res < 2 ^ 64) :
    (s.finishCmd q h code res).hostMem.readN ((s.queue q).slotAt 0 + 48) 8 = res := by
  rw [s.hostMem_finishCmd, Memory.readN_writeN_of_disjoint (b := (s.queue q).slotAt 0 + 48) (k := 8) _ (.inl (by omega)), Memory.readN_writeN]
  exact Nat.mod_eq_of_lt hr

/-- STATUS reads as the code with DONE. -/
theorem State.status_finishCmd (s : State) (q h res : Nat) {code : Nat} (hc : code < 256) :
    (s.finishCmd q h code res).hostMem.readN ((s.queue q).slotAt 0 + 56) 8 = 1 + code * 256 := by
  rw [s.hostMem_finishCmd, Memory.readN_writeN]
  exact Nat.mod_eq_of_lt (by omega)

theorem State.byte_finishCmd (s : State) (q h code res : Nat) {b : Nat}
    (out : b < (s.queue q).slotAt 0 + 48 ∨ (s.queue q).slotAt 0 + 64 ≤ b) :
    (s.finishCmd q h code res).hostMem.byte b = s.hostMem.byte b := by
  rw [s.hostMem_finishCmd, Memory.byte_writeN_of_outside _ (by omega), Memory.byte_writeN_of_outside _ (by omega)]

theorem State.queue_finishCmd (s : State) (q h code res : Nat) :
    (s.finishCmd q h code res).queue q
      = { s.queue q with head := ((s.queue q).head + 1 + h / 2 ^ 8 % 8) % (s.queue q).slots, wait := false, phase := 0, note := 0 } :=
  NMap.get_set_self _ _ _

theorem State.queue_finishCmd_ne (s : State) {q n : Nat} (h code res : Nat) (other : n ≠ q) :
    (s.finishCmd q h code res).queue n = s.queue n :=
  NMap.get_set_ne _ _ other

/-- Settles O48: the four ways in which a queue does not come to its command's own checks, in order, and the answer. -/
theorem hostCommandAnswers : Obligations.HostCommandAnswers := by
  unfold Obligations.HostCommandAnswers
  refine ⟨fun q opc i s row => ?command, fun q h code res s hc hr => ?answer⟩
  case command =>
    obtain ⟨run, is⟩ := exec_hostRow row
    rw [is s]
    exact ⟨State.command_of_not_runs, State.command_of_malformed,
      fun runs formed e cause => State.command_of_held runs formed (isOpc_eq e) (State.cmdHeld_of e cause),
      fun runs formed e free some bad => State.command_of_poisoned runs formed (isOpc_eq e) free some bad⟩
  case answer =>
    refine ⟨s.result_finishCmd q h code hr, s.status_finishCmd q h res hc, fun b => s.byte_finishCmd q h code res, ?_, ?_,
      fun n => s.queue_finishCmd_ne h code res⟩
    · rw [s.queue_finishCmd]
    · rw [s.queue_finishCmd]

end Sys2Proof.Machine
end

section
/-! PROOFS. Host commands about nodes, settings, migration, clusters and the fabric, and the queries: what each answers once its queue takes it
(R56, R61, R62, R387, R394, R395, R401, R410, R411, R449, R461, R471). -/

namespace Sys2Proof.Machine
open Sys2Proof

/-! ### The outcome of a command that its queue takes (R391, R459) -/

/-- What a queue does with the answer of its head command. -/
def CmdAns.outcome (q h : Nat) : CmdAns → Out
  | .fin t code res => .next (t.finishCmd q h code res)
  | .wait t => .next (t.setQueue q { t.queue q with wait := true })

theorem State.command_taken {s : State} {q opc : Nat} {mine : Nat → Bool} {run : State → HCmd → CmdAns} (take : takes s q opc)
    (own : mine (headOf s q) = true) : s.command q mine run = (run s (cmdOf s q)).outcome q (headOf s q) := by
  obtain ⟨runs, formed, -, free, readable⟩ := take
  have good : ((cmdOf s q).cid != 0 && s.descBad (cmdOf s q).cid) = false := by
    rcases readable with h | h <;> simp [h]
  simp only [cmdOf, headOf] at formed own free good ⊢
  simp only [State.command, runs, formed, own, free, good, Bool.not_true, Bool.false_eq_true, if_false]
  cases run s _ <;> rfl

/-- A command of an opcode that waits. -/
theorem State.command_wait {s t : State} {q opc : Nat} {run : State → HCmd → CmdAns} (take : takes s q opc)
    (waits : run s (cmdOf s q) = .wait t) :
    s.command q (isOpc opc) run = .next (t.setQueue q { t.queue q with wait := true }) := by
  rw [State.command_taken take (isOpc_eq take.2.2.1), waits]
  rfl

/-! ### Queries (R461) -/

section
variable {s : State} {q sel : Nat} {ans : State → HCmd → Nat ⊕ Nat}

theorem isQuery_of_takes (take : takes s q 32) (named : (cmdOf s q).a = sel) : isQuery sel (headOf s q) = true := by
  have own : bits (headOf s q) 127 64 = sel := named
  simp [isQuery, isOpc_eq take.2.2.1, own]

theorem State.query_eq (take : takes s q 32) (named : (cmdOf s q).a = sel) (room : (cmdOf s q).c + 64 ≤ 2 ^ 42) :
    s.query q sel ans = CmdAns.outcome q (headOf s q) ((ans s (cmdOf s q)).elim (fun code => .fin s code 0)
      fun v => .fin { s with hostMem := s.hostMem.writeN (cmdOf s q).c 64 v } 0 0) := by
  have fits : ((cmdOf s q).a != sel || decide (2 ^ 42 < (cmdOf s q).c + 64)) = false := by
    rw [named, bne_self_eq_false, Bool.false_or, decide_eq_false (by omega)]
  rw [State.query, State.command_taken take (isQuery_of_takes take named)]
  simp only [fits, Bool.false_eq_true, if_false]
  cases ans s (cmdOf s q) <;> rfl

theorem State.query_answers {v : Nat} (is : ans s (cmdOf s q) = .inr v) (take : takes s q 32) (named : (cmdOf s q).a = sel)
    (room : (cmdOf s q).c + 64 ≤ 2 ^ 42) :
    s.query q sel ans
      = .next (({ s with hostMem := s.hostMem.writeN (cmdOf s q).c 64 v } : State).finishCmd q (headOf s q) 0 0) := by
  rw [State.query_eq take named room, is]
  rfl

theorem State.query_fails {code : Nat} (is : ans s (cmdOf s q) = .inl code) (take : takes s q 32) (named : (cmdOf s q).a = sel)
    (room : (cmdOf s q).c + 64 ≤ 2 ^ 42) : s.query q sel ans = .next (s.finishCmd q (headOf s q) code 0) := by
  rw [State.query_eq take named room, is]
  rfl

end

/-! ### Settings of the dispatcher (R401, R461) -/

/-- Keys written one after another, each with its own value. -/
theorem NMap.get_foldl_set {α : Type} [DecidableEq α] {d : α} (g : Nat → α) (l : List Nat) (m : NMap α) (j : Nat) :
    NMap.get d (l.foldl (fun m k => NMap.set d m k (g k)) m) j = if j ∈ l then g j else NMap.get d m j := by
  induction l generalizing m with
  | nil => simp
  | cons k l ih =>
    rw [List.foldl_cons, ih, NMap.get_set]
    by_cases h : j = k
    · simp [h]
    · simp [h]

/-- Digits of 4 bits put above the low 64 bits of a number. -/
def nibbles (g : Nat → Nat) (base n : Nat) : Nat := (List.range n).foldl (fun v j => v + g j % 16 * 2 ^ (64 + 4 * j)) base

theorem nibbles_succ (g : Nat → Nat) (base n : Nat) : nibbles g base (n + 1) = nibbles g base n + g n % 16 * 2 ^ (64 + 4 * n) := by
  simp only [nibbles, List.range_succ, List.foldl_append, List.foldl_cons, List.foldl_nil]

theorem nibbles_lt (g : Nat → Nat) {base : Nat} (h : base < 2 ^ 64) (n : Nat) : nibbles g base n < 2 ^ (64 + 4 * n) := by
  induction n with
  | zero => exact h
  | succ n ih =>
    have step : 2 ^ (64 + 4 * (n + 1)) = 16 * 2 ^ (64 + 4 * n) := by rw [show 64 + 4 * (n + 1) = 64 + 4 * n + 4 by omega, Nat.pow_add]; omega
    have digit : g n % 16 * 2 ^ (64 + 4 * n) ≤ 15 * 2 ^ (64 + 4 * n) := Nat.mul_le_mul_right _ (by omega)
    rw [nibbles_succ, step]
    omega

/-- The low 64 bits stand. -/
theorem nibbles_low (g : Nat → Nat) (base n : Nat) : nibbles g base n % 2 ^ 64 = base % 2 ^ 64 := by
  induction n with
  | zero => rfl
  | succ n ih => rw [nibbles_succ, Nat.pow_add, Nat.mul_left_comm, Nat.add_mul_mod_self_left, ih]

/-- Each digit stands in its place. -/
theorem nibbles_digit (g : Nat → Nat) {base : Nat} (h : base < 2 ^ 64) {n j : Nat} (hj : j < n) :
    nibbles g base n / 2 ^ (64 + 4 * j) % 16 = g j % 16 := by
  induction n with
  | zero => omega
  | succ n ih =>
    rw [nibbles_succ]
    rcases Nat.lt_succ_iff_lt_or_eq.mp hj with lt | rfl
    · have place : 2 ^ (64 + 4 * n) = 2 ^ (64 + 4 * j) * (16 * 2 ^ (4 * (n - j - 1))) := by
        rw [show 64 + 4 * n = 64 + 4 * j + (4 + 4 * (n - j - 1)) by omega, Nat.pow_add, Nat.pow_add 2 4]
      rw [place, Nat.mul_left_comm, Nat.add_mul_div_left _ _ (Nat.two_pow_pos _), Nat.mul_left_comm, Nat.add_mul_mod_self_left, ih lt]
    · rw [Nat.add_mul_div_right _ _ (Nat.two_pow_pos _), Nat.div_eq_of_lt (nibbles_lt g h j), Nat.zero_add, Nat.mod_mod]

/-- The settings of a DISPATCHER_CONFIGURE with this payload. -/
def Disp.configure (d : Disp) (pay : Nat) : Disp :=
  { d with
    age := bits pay 9 0, upre := bit pay 16,
    thr := (List.range 16).foldl (fun m j => NMap.set 12 m j (bits pay (67 + 4 * j) (64 + 4 * j))) d.thr }

theorem Disp.thr_configure (d : Disp) (pay : Nat) {j : Nat} (hj : j < 16) :
    NMap.get 12 (d.configure pay).thr j = pay / 2 ^ (64 + 4 * j) % 16 := by
  rw [Disp.configure, NMap.get_foldl_set, if_pos (List.mem_range.mpr hj), bits, show 67 + 4 * j + 1 - (64 + 4 * j) = 4 by omega]
  rfl

theorem State.disp_finishCmd (s : State) (q h code res : Nat) : (s.finishCmd q h code res).disp = s.disp := rfl

theorem exec_dispatcherConfigure {s : State} {q : Nat} (take : takes s q 18) :
    exec (.dispatcherConfigure q) s
      = .next (({ s with disp := s.disp.configure (cmdOf s q).pay } : State).finishCmd q (headOf s q) 0 0) :=
  show execDispatcherConfigure q s = _ from State.command_fin take rfl

/-! ### The obligation -/

/-- Settles O50, command by command: its codes, its effect, the phase in which it waits and the one in which it ends, and the queries. -/
theorem hostDeviceCommands : Obligations.HostDeviceCommands := by
  unfold Obligations.HostDeviceCommands
  intro q s
  have own : (cmdOf s q).q = q := rfl
  have config (take : takes s q 18) := exec_dispatcherConfigure take
  have answers {sel v : Nat} {ans : State → HCmd → Nat ⊕ Nat} (is : ans s (cmdOf s q) = .inr v) := State.query_answers (sel := sel) is
  have fails {sel code : Nat} {ans : State → HCmd → Nat ⊕ Nat} (is : ans s (cmdOf s q) = .inl code) := State.query_fails (sel := sel) is
  generalize hc : cmdOf s q = h at *
  have fin {t : State} {opc code res : Nat} {run : State → HCmd → CmdAns} (take : takes s q opc) (ends : run s h = .fin t code res) :=
    State.command_fin take (hc ▸ ends)
  have code {opc code : Nat} {run : State → HCmd → CmdAns} {a : CmdAns} (take : takes s q opc) (bad : code ≠ 0)
      (ends : run s h = if code != 0 then .fin s code 0 else a) := State.command_code take (hc ▸ ends) bad
  have wait {t : State} {opc : Nat} {run : State → HCmd → CmdAns} (take : takes s q opc) (waits : run s h = .wait t) :=
    State.command_wait take (hc ▸ waits)
  have inRange {b : Bool} {v : Nat} (hb : b = true) : orRange b v = .inr v := if_pos hb
  have outOfRange {b : Bool} {v : Nat} (hb : b = false) : orRange b v = .inl 1 := if_neg (by simp [hb])
  refine ⟨fun bad take => ?submitFails, fun fine => ⟨fun id t accepted take => ?submit, fun full take => ?submitFull⟩,
    fun first bad take => ?replaceFails, fun first fine none take => ?replace,
    fun third => ⟨fun come take => ?replaceEnds, fun soon take => ?replaceWaits⟩, fun take => ?configure,
    fun valid within low => ?resolve,
    fun first => ⟨fun bad take => ?migrateFails, fun fine take => ?migrate⟩, fun later done take => ?migrateEnds,
    fun first all take => ?shoot, fun later x found done take => ?shootEnds,
    ⟨fun big take => ?retireFails, fun first small out take => ?retireOut, fun first small inS take => ?retire,
      fun later small done take => ?retireEnds⟩,
    fun later closed take => ?joinEnds, ?queries⟩
  case submitFails => exact show execSubmit q s = _ from code take bad rfl
  case submit => exact show execSubmit q s = _ from fin take (by simp [fine, own, accepted])
  case submitFull => exact show execSubmit q s = _ from wait take (by simp [fine, own, full])
  case replaceFails => exact show execReplaceCode q s = _ from fin take (by simp [own, first, bad])
  case replace =>
    have empty : bits h.pay 319 256 = 0 := none
    exact show execReplaceCode q s = _ from wait take (by simp [own, first, fine, empty])
  case replaceEnds => exact show execReplaceCode q s = _ from fin take (by simp [own, third, come])
  case replaceWaits => exact show execReplaceCode q s = _ from wait take (by simp [own, third, soon])
  case configure =>
    refine ⟨_, config take, ?_⟩
    rw [State.disp_finishCmd]
    exact ⟨bits_low _ 9, rfl, fun j => s.disp.thr_configure h.pay⟩
  case resolve =>
    have fine (few : h.c ≤ 1) : lowCode [(decide (1 < h.c), 1), (s.noContext h.cid, 2),
        (decide (2 ^ 52 ≤ h.a) || decide (2 ^ 52 < h.a + h.b * 65536), 0x11)] = 0 := by
      rw [decide_eq_false (Nat.not_lt.mpr few), valid, decide_eq_false (Nat.not_le.mpr low), decide_eq_false (Nat.not_lt.mpr within)]; rfl
    refine ⟨fun zero take => ?_, fun one take => ?_⟩
    · exact show execResolve q s = _ from fin take (by rw [fine (by omega), if_neg (by decide), if_pos zero])
    · exact show execResolve q s = _ from fin take (by rw [fine (by omega), if_neg (by decide), if_neg (by omega)])
  case migrateFails => exact show execMigrate q s = _ from fin take (by simp [own, first, bad])
  case migrate => exact show execMigrate q s = _ from wait take (by simp [own, first, fine])
  case migrateEnds =>
    have none : (s.migs.any fun m => m.queue == q) = false := by simpa using done
    exact show execMigrate q s = _ from fin take (by rw [own, if_neg (by omega), if_neg (by simp [none])])
  case shoot =>
    have kind : bits h.c 13 12 = 2 := all
    exact show execShootDown q s = _ from wait take (by simp [own, first, kind, hostScope, rangeEmpty, lowCode])
  case shootEnds => exact show execShootDown q s = _ from fin take (by simp [own, later, found, done])
  case retireFails => exact show execRetireCluster q s = _ from fin take (by simp [bits_low, show 191 < h.a % 256 from big])
  case retireOut => exact show execRetireCluster q s = _ from fin take (by simp [bits_low, Nat.le_of_lt_succ small, own, first, out])
  case retire =>
    rw [← show bits h.a 7 0 = h.a % 256 from bits_low h.a 7] at small inS ⊢
    refine ⟨_, show execRetireCluster q s = _ from wait take (by
      rw [own, if_neg (Nat.not_lt.mpr (Nat.le_of_lt_succ small)), if_pos first, if_pos inS]), ?_⟩
    exact List.mem_append_right _ (List.mem_singleton_self _)
  case retireEnds => exact show execRetireCluster q s = _ from fin take (by simp [bits_low, Nat.le_of_lt_succ small, own, later, done])
  case joinEnds =>
    have done : s.joinOpen (bits h.a 5 0) = false := by rw [bits_low]; exact closed
    exact show execFabricJoin q s = _ from fin take (by simp [own, later, done])
  case queries =>
    have small : s.disp.age % 1024 + flag s.disp.upre 16 < 2 ^ 64 := by
      rw [flag_eq]
      have := s.disp.upre.toNat_lt
      omega
    refine ⟨fun lt inS take named room => ?tower,
      fun take named room => show execQueryClusterTable q s = _ from answers rfl take named room,
      fun one take named room => ?page,
      fun big take named room => show execQueryHbmDegraded q s = _ from fails (outOfRange (decide_eq_false (Nat.not_le.mpr big))) take named room,
      fun lt take named room => show execQueryPageTag q s = _ from answers (inRange (decide_eq_true lt)) take named room,
      fun ge take named room => show execQueryPageTag q s = _ from fails (outOfRange (decide_eq_false (Nat.not_lt.mpr ge))) take named room,
      fun lt take named room => show execQueryGatherPattern q s = _ from answers (inRange (decide_eq_true lt)) take named room,
      fun ge take named room => show execQueryGatherPattern q s = _ from fails (outOfRange (decide_eq_false (Nat.not_lt.mpr ge))) take named room,
      ⟨nibbles (NMap.get 12 s.disp.thr) (s.disp.age % 1024 + flag s.disp.upre 16) 16, ?low, fun j hj => nibbles_digit _ small hj,
        fun take named room => show execQueryDispatcherParameters q s = _ from answers rfl take named room⟩,
      fun r found take named room => show execQuerySamovarLog q s = _ from answers (by rw [found]) take named room,
      fun none take named room => show execQuerySamovarLog q s = _ from answers (by rw [none]) take named room,
      fun le valid take named room => show execQuerySlotStatus q s = _ from
        answers (by rw [if_neg (Nat.not_lt.mpr le), valid, if_neg Bool.false_ne_true]) take named room,
      fun big take named room => show execQuerySlotStatus q s = _ from fails (if_pos big) take named room,
      fun take named room => show execQueryDeviceStatus q s = _ from answers rfl take named room⟩
    case tower =>
      rw [← show bits h.b 7 0 = h.b % 256 from bits_low h.b 7] at lt inS ⊢
      exact show execQueryTowerRemap q s = _ from answers ((inRange (decide_eq_true lt)).trans (by rw [if_pos inS, bits_low]; rfl)) take named room
    case page => exact show execQueryHbmDegraded q s = _ from answers ((inRange (decide_eq_true one.le)).trans (by rw [if_pos one])) take named room
    case low =>
      rw [nibbles_low, Nat.mod_eq_of_lt small]
      rfl

end Sys2Proof.Machine
end

section
/-! PROOFS. Shoot-downs between chips, the fencing of chips, and the migration of pages: what each step leaves of shoot-downs and migrations,
of the copied bytes and of the mask of fenced chips (R57-R59, R61-R64). -/

namespace Sys2Proof.Machine
open Sys2Proof

/-! ### Records that are replaced by their key -/

/-- The record of a key after a record of that key has replaced it. -/
theorem find?_map_replace {α : Type} (key : α → Nat) {l : List α} {x y : α} (found : l.find? (fun z => key z == key y) = some x) :
    (l.map fun z => if key z == key y then y else z).find? (fun z => key z == key y) = some y := by
  have same : ((fun z => key z == key y) ∘ fun z => if key z == key y then y else z) = fun z => key z == key y := by
    funext z
    by_cases h : key z = key y <;> simp [h]
  have is : (key x == key y) = true := List.find?_some (p := fun z => key z == key y) found
  rw [List.find?_map, same, found, Option.map_some, if_pos is]

theorem State.id_of_shoot? {s : State} {id : Nat} {x : Shoot} (found : s.shoot? id = some x) : x.id = id := by
  simpa using List.find?_some found

theorem State.src_of_mig? {s : State} {page : Nat} {m : Mig} (found : s.mig? page = some m) : m.src = page := by
  simpa using List.find?_some found

/-- The shoot-down of a number after it has been replaced. -/
theorem State.shoot?_setShoot {s : State} {id : Nat} {x y : Shoot} (found : s.shoot? id = some x) (named : y.id = id) :
    (s.setShoot y).shoot? id = some y := by
  subst named
  exact find?_map_replace Shoot.id found

/-- The migration of a page after it has been replaced. -/
theorem State.mig?_setMig {s : State} {page : Nat} {m k : Mig} (found : s.mig? page = some m) (named : k.src = page) :
    (s.setMig k).mig? page = some k := by
  subst named
  exact find?_map_replace Mig.src found

theorem State.Posts.shoot? {s t : State} (h : s.Posts t) (id : Nat) : t.shoot? id = s.shoot? id := by
  rw [State.shoot?, h.shoots, State.shoot?]

/-! ### Shoot-downs on their way (R57-R59) -/

section
variable {s : State} {id : Nat}

/-- The shoot-down of another chip as this chip notes it, with the children that it asks. -/
def State.peerShoot (s : State) (src id : Nat) (scope : ShootScope) (ks : List Nat) : Shoot :=
  { id := id, num := s.nextMsg, scope := scope, owner := .peer src, mask := 0, expect := maskOf ks, sentAt := s.gtc, resent := false, fencedMask := 0 }

/-- A shoot-down noted under its number, in the place of an earlier one. -/
def State.renoteShoot (s : State) (x : Shoot) : State :=
  { s with shoots := (s.shoots.filter fun y => y.id != x.id) ++ [x], nextMsg := s.nextMsg + 1 }

theorem State.shoot?_renoteShoot (s : State) (x : Shoot) : (s.renoteShoot x).shoot? x.id = some x := by
  have gone : (s.shoots.filter fun y => y.id != x.id).find? (fun y => y.id == x.id) = none := by simp
  simp only [State.shoot?, State.renoteShoot]
  rw [List.find?_append, gone]
  simp

/-- A shoot-down that arrives is noted, and goes on to the children (R57, R58). -/
theorem exec_shootDownMsg {src : Nat} (scope : ShootScope) (served : s.fencedChip src = false) :
    ∃ ks t, exec (.shootDownMsg src id scope) s = .next t
      ∧ ((s.dropTranslations scope).renoteShoot (s.peerShoot src id scope ks)).Posts t :=
  let ks := if (s.shoot? id).isSome || src != s.parent (id % 64) then [] else s.children (id % 64)
  ⟨ks, ks.foldl (fun t k => t.send k (.shoot id scope)) _, show execShootDownMsg src id scope s = _ from if_neg (by simp [served]),
    State.Posts.foldl (fun t k => .send t k _ _) _ ks⟩

variable {x : Shoot} (found : s.shoot? id = some x)
include found

theorem exec_shootDownAckMsg (count : Nat) (mask : BitVec 64) :
    exec (.shootDownAckMsg id count mask) s
      = if count = popc mask.toNat 64 then .next (s.setShoot { x with mask := x.mask ||| mask }) else .next s := by
  change execShootDownAckMsg id count mask s = _
  simp only [execShootDownAckMsg, found]

theorem exec_shootDownTimeout :
    exec (.shootDownTimeout id) s
      = if x.rooted && !x.resent && s.missing x != 0 && x.sentAt + s.dev.sdtmoNs ≤ s.gtc then
          .next ((chipsOf (s.missing x)).foldl (fun s k => s.send k (.shoot id x.scope)) (s.setShoot { x with resent := true, sentAt := s.gtc }))
        else .next s := by
  change execShootDownTimeout id s = _
  simp only [execShootDownTimeout, found]

theorem exec_chipFence :
    exec (.chipFence id) s
      = if x.rooted && x.resent && s.missing x != 0 && x.sentAt + s.dev.sdtmoNs ≤ s.gtc then
          .next ((s.setShoot { x with fencedMask := x.fencedMask ||| s.missing x }).fenceAll (s.missing x))
        else .next s := by
  change execChipFence id s = _
  simp only [execChipFence, found]

end

/-! ### The fencing of a chip keeps the rest of the device's record (R59) -/

namespace State

theorem dev_foldl {α : Type} {f : State → α → State} (h : ∀ (s : State) (a : α), (f s a).dev = s.dev) (s : State) (l : List α) :
    (l.foldl f s).dev = s.dev :=
  List.foldlRecOn l f (motive := fun t => t.dev = s.dev) rfl fun t ht a _ => (h t a).trans ht

theorem dev_ite {c : Prop} [Decidable c] {s t u : State} (ht : t.dev = s.dev) (hu : u.dev = s.dev) : (if c then t else u).dev = s.dev := by
  split
  · exact ht
  · exact hu

theorem Posts.dev {s t : State} (h : s.Posts t) : t.dev = s.dev := (congrArg State.dev h.eq :)

theorem dev_send (s : State) (dst : Nat) (m : Msg) (src : Nat) : (s.send dst m src).dev = s.dev := (Posts.send s dst m src).dev

theorem dev_request (s : State) (peer : Nat) (owner : ReqBy) (m : ReqId → Msg) : (s.request peer owner m).dev = s.dev := by
  rw [State.request]
  split
  · rfl
  · exact dev_send _ _ _ _

theorem dev_softWrite (s : State) (cl a : Nat) (bs : List Byte) : (s.softWrite cl a bs).dev = s.dev := by
  simp only [State.softWrite]
  split <;> rfl

theorem dev_closeWord (s : State) (w : Option (Nat × Nat)) (code : Nat) : (s.closeWord w code).dev = s.dev := by
  cases w with
  | none => rfl
  | some w =>
    simp only [State.closeWord, State.onWord]
    split
    · rfl
    · exact dev_softWrite _ _ _ _

theorem dev_closePage (s : State) (p : Nat) : (s.closePage p).dev = s.dev := by
  simp only [State.closePage]
  split <;> rfl

/-- An abort writes pages, the slot and its completion word. -/
theorem dev_txOutcome (s : State) (cid slot tc : Nat) {code : Nat} (abort : code ≠ 0) : (s.txOutcome cid slot tc code).1.dev = s.dev := by
  simp only [State.txOutcome, if_neg abort]
  exact (dev_closeWord _ _ _).trans (dev_foldl dev_closePage s _)

theorem dev_txAbort (s : State) (cid slot : Nat) {code : Nat} (abort : code ≠ 0) : (s.txAbort cid slot code).dev = s.dev := by
  simp only [State.txAbort]
  split
  · exact (dev_foldl (fun s k => dev_request s k _ _) _ _).trans (s.dev_txOutcome cid slot 0 abort)
  · exact (dev_request _ _ _ _).trans (s.dev_txOutcome cid slot 0 abort)

theorem dev_coordLost (s : State) (cid slot : Nat) : (s.coordLost cid slot).dev = s.dev := by
  simp only [State.coordLost]
  split <;> rfl

theorem dev_endSnap (s : State) (cid i : Nat) (st : SnapSt) (code : Nat) : (s.endSnap cid i st code).dev = s.dev :=
  dev_closeWord _ _ _

theorem dev_fenceGroups (s : State) (k cid : Nat) : (s.fenceGroups k cid).dev = s.dev := by
  refine dev_foldl (fun s i => ?_) s _
  have lost {c d : Prop} [Decidable c] [Decidable d] : (if c then s.txAbort cid i 0x3A else if d then s.coordLost cid i else s).dev = s.dev :=
    dev_ite (dev_txAbort s cid i (by decide)) (dev_ite (dev_coordLost s cid i) rfl)
  exact dev_ite ((dev_endSnap _ _ _ _ _).trans lost) lost

/-- What the dispatcher does with its nodes writes no record of the device. -/
theorem nodeStable_dev : NodeStable fun s t => t.dev = s.dev where
  refl _ := rfl
  trans h k := k.trans h
  disp _ _ := rfl
  flights _ _ := rfl
  send := dev_send
  dropLate _ _ := rfl

theorem dev_failNode (s : State) (e status : Nat) : (s.failNode e status).dev = s.dev := by
  simp only [State.failNode]
  split
  · rfl
  · split
    · rfl
    · exact nodeStable_dev.trans (nodeStable_dev.trans (nodeStable_dev.trans (nodeStable_dev.fail1 s e status) (nodeStable_dev.fillPool _))
        (nodeStable_dev.wakeNodes _)) (nodeStable_dev.tellReplicas _ _)

theorem dev_fenceNodes (s : State) (k : Nat) : (s.fenceNodes k).dev = s.dev := by
  refine dev_foldl (fun s en => ?_) s _
  dsimp only
  split
  · exact dev_failNode s _ _
  · rfl

/-- A chip that is fenced is added to the mask; the rest of the device's record stays. -/
theorem dev_fenceChip (s : State) {k : Nat} (other : k ≠ s.dev.chip) (free : s.fencedChip k = false) :
    (s.fenceChip k).dev = { s.dev with fenced := s.dev.fenced ||| chipBit k } := by
  rw [State.fenceChip, if_neg (by simp [free, other])]
  refine (dev_foldl (fun s i => ?_) _ _).trans ((dev_fenceNodes _ k).trans ?_)
  · exact dev_foldl (fun s j => dev_send s j _ _) s _
  · refine (dev_foldl ?_ _ _).trans rfl
    rintro s ⟨cid, c⟩
    exact dev_fenceGroups s k cid

theorem or_chipBit_of_getLsbD {m : BitVec 64} {k : Nat} (set : m.getLsbD k = true) : m ||| chipBit k = m := by
  refine BitVec.eq_of_getLsbD_eq fun i hi => ?_
  have one (h : (chipBit k).getLsbD i = true) : k = i := by
    rw [chipBit, BitVec.getLsbD_ofNat, Nat.testBit_two_pow, Bool.and_eq_true] at h
    exact of_decide_eq_true h.2
  rw [BitVec.getLsbD_or, Bool.or_eq_left_iff_imp]
  exact fun h => one h ▸ set

/-- Whether the chip has been fenced before or not, its bit is set and the others stay. -/
theorem fenced_fenceChip (s : State) {k : Nat} (other : k ≠ s.dev.chip) :
    (s.fenceChip k).dev.fenced = s.dev.fenced ||| chipBit k := by
  cases already : s.fencedChip k
  · rw [s.dev_fenceChip other already]
  · have set : s.dev.fenced.getLsbD k = true := (Bool.and_eq_true_iff.mp already).2
    rw [State.fenceChip, if_pos (by simp [already]), or_chipBit_of_getLsbD set]

end State

/-! ### The copied sectors of a migration (R62) -/

/-- Units of 64 bytes copied one after another from one base to another. -/
def Memory.copyUnits (src dst : Nat) (m : Memory) (os : List Nat) : Memory := os.foldl (fun m o => m.write (dst + o) (m.read (src + o) 64)) m

theorem Memory.copyUnits_cons (src dst o : Nat) (m : Memory) (os : List Nat) :
    m.copyUnits src dst (o :: os) = (m.write (dst + o) (m.read (src + o) 64)).copyUnits src dst os := by
  simp only [Memory.copyUnits, List.foldl_cons]

/-- A byte of a memory that a unit copy does not reach. -/
theorem Memory.byte_write_read_of_outside (m : Memory) {a b i : Nat} (h : i < a ∨ a + 64 ≤ i) : (m.write a (m.read b 64)).byte i = m.byte i :=
  Memory.byte_write_of_outside m a i _ (by simpa [Memory.read] using h)

theorem Memory.byte_write_read_of_inside (m : Memory) (a b : Nat) {i : Nat} (h : i < 64) : (m.write a (m.read b 64)).byte (a + i) = m.byte (b + i) := by
  rw [Memory.byte_write_of_inside m a i _ (by simpa [Memory.read] using h)]
  simp [Memory.read]

/-- Between two pages apart, a byte of a copied unit is the byte of the source, and another byte of the destination stays. -/
theorem Memory.byte_copyUnits {src dst : Nat} (apart : src + 65536 ≤ dst ∨ dst + 65536 ≤ src) {os : List Nat} (within : ∀ o ∈ os, o + 64 ≤ 65536)
    (m : Memory) {x : Nat} (hx : x < 65536) :
    (m.copyUnits src dst os).byte (dst + x) = if ∃ o ∈ os, o ≤ x ∧ x < o + 64 then m.byte (src + x) else m.byte (dst + x) := by
  induction os generalizing m with
  | nil => simp [Memory.copyUnits]
  | cons o os ih =>
    have here := within o List.mem_cons_self
    have source : (m.write (dst + o) (m.read (src + o) 64)).byte (src + x) = m.byte (src + x) := m.byte_write_read_of_outside (by omega)
    rw [Memory.copyUnits_cons, ih fun o ho => within o (List.mem_cons_of_mem _ ho), source]
    by_cases now : o ≤ x ∧ x < o + 64
    · have copied := m.byte_write_read_of_inside (dst + o) (src + o) (i := x - o) (by omega)
      rw [show dst + o + (x - o) = dst + x by omega, show src + o + (x - o) = src + x by omega] at copied
      simp [now, copied]
    · rw [m.byte_write_read_of_outside (by omega)]
      simp [now]

/-- `t` is `s` but for the bytes of HBM, their poison and what has been reported. -/
structure State.CopiesUnits (s t : State) : Prop where
  eq : t = { s with hbm := t.hbm, hbmPoison := t.hbmPoison, rel := t.rel }

namespace State.CopiesUnits

theorem refl (s : State) : s.CopiesUnits s := ⟨rfl⟩

theorem trans {s t u : State} (h : s.CopiesUnits t) (k : t.CopiesUnits u) : s.CopiesUnits u := ⟨by rw [k.eq, h.eq]⟩

theorem foldl {α : Type} {f : State → α → State} (h : ∀ (s : State) (a : α), s.CopiesUnits (f s a)) (s : State) (l : List α) :
    s.CopiesUnits (l.foldl f s) :=
  List.foldlRecOn l f (refl s) fun t ht a _ => ht.trans (h t a)

theorem copyUnit (s : State) (src dst : Nat) : s.CopiesUnits (s.copyUnit src dst) := by
  simp only [State.copyUnit, State.storeChunk]
  split
  · exact ⟨rfl⟩
  · split <;> exact ⟨rfl⟩

theorem copySectors (s : State) (src dst : Nat) (ks : List Nat) : s.CopiesUnits (s.copySectors src dst ks) :=
  foldl (fun s _ => foldl (fun s _ => copyUnit s _ _) s _) s ks

variable {s t : State} (h : s.CopiesUnits t)
include h

theorem migs : t.migs = s.migs := (congrArg State.migs h.eq :)
theorem pages : t.pages = s.pages := (congrArg State.pages h.eq :)

end State.CopiesUnits

/-- Memory without poison whose channels all work. -/
def State.Sound (s : State) : Prop := s.hbmPoison = [] ∧ s.chanFailed = []

theorem State.Sound.copyUnit_eq {s : State} (sound : s.Sound) (src dst : Nat) :
    s.copyUnit src dst
      = ({ s with hbm := s.hbm.write dst (s.hbm.read src 64), hbmPoison := [] } : State).overtake fun u => u == .hbm (dst / 64) := by
  obtain ⟨clean, works⟩ := sound
  have ok (pa : Nat) : s.channelFailed pa = false := by simp [State.channelFailed, works]
  have written : writeChunk 64 id (s.hbm, s.hbmPoison) (dst, s.hbm.read src 64) = (s.hbm.write dst (s.hbm.read src 64), []) := by
    rw [writeChunk, clean, if_neg (by simp)]
  rw [State.copyUnit, if_neg (by simp [ok, clean]), State.storeChunk, if_neg (by simp [ok]), written]

theorem State.Sound.copyUnit {s : State} (sound : s.Sound) (src dst : Nat) : (s.copyUnit src dst).Sound := by
  rw [sound.copyUnit_eq, State.Sound, State.overtake]
  exact ⟨rfl, sound.2⟩

theorem State.Sound.hbm_copyUnit {s : State} (sound : s.Sound) (src dst : Nat) :
    (s.copyUnit src dst).hbm = s.hbm.write dst (s.hbm.read src 64) := by
  rw [sound.copyUnit_eq, State.overtake]

/-- The offsets of the units of sectors. -/
def unitsOf (ks : List Nat) : List Nat := ks.flatMap fun k => [0, 1, 2, 3].map fun u => 256 * k + 64 * u

theorem State.copySectors_eq (s : State) (src dst : Nat) (ks : List Nat) :
    s.copySectors src dst ks = (unitsOf ks).foldl (fun s o => s.copyUnit (src * 65536 + o) (dst * 65536 + o)) s := by
  rw [unitsOf, List.foldl_flatMap]
  simp only [List.foldl_map, ← Nat.add_assoc]
  rfl

theorem State.Sound.hbm_foldl_copyUnit {s : State} (sound : s.Sound) (src dst : Nat) (os : List Nat) :
    (os.foldl (fun s o => s.copyUnit (src + o) (dst + o)) s).hbm = s.hbm.copyUnits src dst os := by
  induction os generalizing s with
  | nil => rfl
  | cons o os ih =>
    rw [List.foldl_cons, ih (sound.copyUnit _ _), sound.hbm_copyUnit, ← Memory.copyUnits_cons]

/-- Without poison and failed channels the bytes of the sectors arrive. -/
theorem State.Sound.byte_copySectors {s : State} (sound : s.Sound) {src dst : Nat} (other : src ≠ dst) {ks : List Nat} (within : ∀ k ∈ ks, k < 256)
    {k b : Nat} (hk : k ∈ ks) (hb : b < 256) :
    (s.copySectors src dst ks).hbm.byte (dst * 65536 + 256 * k + b) = s.hbm.byte (src * 65536 + 256 * k + b) := by
  have inPage := within k hk
  have unit : ∃ o ∈ unitsOf ks, o ≤ 256 * k + b ∧ 256 * k + b < o + 64 := by
    refine ⟨256 * k + 64 * (b / 64), List.mem_flatMap.mpr ⟨k, hk, List.mem_map.mpr ⟨b / 64, ?_, rfl⟩⟩, by omega, by omega⟩
    have : b / 64 < 4 := by omega
    interval_cases b / 64 <;> simp
  have small : ∀ o ∈ unitsOf ks, o + 64 ≤ 65536 := by
    intro o ho
    obtain ⟨j, hj, hu⟩ := List.mem_flatMap.mp ho
    have := within j hj
    simp only [List.map_cons, List.map_nil, List.mem_cons, List.not_mem_nil, or_false] at hu
    omega
  rw [s.copySectors_eq, sound.hbm_foldl_copyUnit, Nat.add_assoc, Memory.byte_copyUnits (by omega) small _ (by omega), if_pos unit, Nat.add_assoc]

/-! ### Migrations (R61, R62) -/

section
variable {s : State} {page : Nat} {m : Mig} (found : s.mig? page = some m)
include found

theorem exec_migrationCopyRound {dirty : List Nat} (phase : s.pageSt page = .copying dirty) :
    exec (.migrationCopyRound page) s
      = if !s.mappersDone page then .next (s.tryMappers m State.markMapper)
        else if 1 ≤ m.round && (dirty.length ≤ 8 || 4 ≤ m.round) then .next ((s.copySectors m.src m.dst m.todo).flip m dirty)
        else .next (((s.copySectors m.src m.dst m.todo).setMig { m with round := m.round + 1, todo := dirty }).setPageSt page (.copying [])) := by
  change execMigrationCopyRound page s = _
  simp only [execMigrationCopyRound, found, phase]

theorem exec_migrationFlipEnd_none (none : s.shoots.find? (fun x => x.owner == .flip page) = none) :
    exec (.migrationFlipEnd page) s
      = .next (if s.pageSt page == .flipping then (s.tryMappers m State.rewriteMapper).flipShoot page else s) := by
  change execMigrationFlipEnd page s = _
  simp only [execMigrationFlipEnd, found, none]

/-- The pages are in their last states and the migration is gone. -/
def State.endMig (s : State) (page : Nat) (m : Mig) (x : Shoot) : State :=
  let t := ((s.endShoot x.id).setPageSt m.src (if m.retire then .offline else .inService)).setPageSt m.dst .inService
  { t with migs := (t.migs.filter fun k => k.src != page).map (Mig.moved t.dev.chip m.src m.dst) }

theorem exec_migrationFlipEnd {x : Shoot} (shot : s.shoots.find? (fun x => x.owner == .flip page) = some x) (done : s.shootDone x = true) :
    exec (.migrationFlipEnd page) s
      = .next (if m.retire then { s.endMig page m x with flash := { s.flash with retired := s.flash.retired ++ [page] } } else s.endMig page m x) := by
  change execMigrationFlipEnd page s = _
  simp only [execMigrationFlipEnd, found, shot, done, Bool.not_true, Bool.false_eq_true, if_false]
  rfl

end

/-- No migration of the page stays, and the others still name their sources. -/
theorem State.mig?_endMig (s : State) (page : Nat) (m : Mig) (x : Shoot) : (s.endMig page m x).mig? page = none := by
  have gone : ∀ k ∈ (s.endMig page m x).migs, k.src ≠ page := by
    intro k hk
    obtain ⟨j, hj, rfl⟩ := List.mem_map.mp hk
    show j.src ≠ page
    simpa using (List.mem_filter.mp hj).2
  rw [State.mig?, List.find?_eq_none]
  intro k hk
  simpa using gone k hk

/-! ### The obligation -/

/-- Settles O42, step by step: arrival, acknowledgement, timeout and fencing of a shoot-down; copy round, flip and end of a migration. -/
theorem shootDownsAndMigrations : Obligations.ShootDownsAndMigrations := by
  unfold Obligations.ShootDownsAndMigrations
  refine ⟨fun src id scope s served => ?arrives, fun id count mask s x found => ⟨fun is => ?acked, fun no => ?notAcked⟩,
    fun id s x found root late due => ⟨fun first => ?again, fun second => ⟨?silent, ?fences⟩⟩, fun chip s lt other => ⟨_, rfl, s.fenced_fenceChip other⟩,
    fun page s m dirty found phase => ⟨fun waits => ?marks, fun ready round => ?round, fun ready low high => ?flips⟩,
    fun page s m found none flipping => ?rewrites, fun page s m x found shot done other => ?ends⟩
  case arrives =>
    obtain ⟨ks, t, step, posts⟩ := exec_shootDownMsg (id := id) scope served
    refine ⟨t, s.peerShoot src id scope ks, step, (posts.shoot? id).trans (State.shoot?_renoteShoot _ _), rfl, rfl, rfl, rfl,
      (congrArg State.llt posts.eq :), (congrArg State.walkCache posts.eq :), fun n => ?_⟩
    rw [posts.cl n]
    rfl
  case acked =>
    have named := State.id_of_shoot? found
    exact ⟨_, (exec_shootDownAckMsg found count mask).trans (if_pos is), State.shoot?_setShoot found named⟩
  case notAcked => exact (exec_shootDownAckMsg found count mask).trans (if_neg no)
  case again =>
    have named := State.id_of_shoot? found
    refine ⟨_, (exec_shootDownTimeout found).trans (if_pos (by simpa [root, first, due] using late)), ?_⟩
    rw [State.Posts.shoot? (.foldl (fun s k => .send s k _ _) _ _)]
    exact State.shoot?_setShoot found named
  case silent => exact (exec_shootDownTimeout found).trans (if_neg (by simp [second]))
  case fences => exact (exec_chipFence found).trans (if_pos (by simpa [root, second, due] using late))
  case marks => exact (exec_migrationCopyRound found phase).trans (if_pos (by simp [waits]))
  case round =>
    have here := State.src_of_mig? found
    have keeps := State.CopiesUnits.copySectors s m.src m.dst m.todo
    have foundT : (s.copySectors m.src m.dst m.todo).mig? page = some m := by rw [State.mig?, keeps.migs]; exact found
    refine ⟨_, ((exec_migrationCopyRound found phase).trans (if_neg (by simp [ready]))).trans (if_neg ?_), State.mig?_setMig foundT here,
      NMap.get_set_self _ _ _, fun clean works differ within k hk b hb => State.Sound.byte_copySectors ⟨clean, works⟩ differ within hk hb⟩
    simp only [Bool.and_eq_true, Bool.or_eq_true, decide_eq_true_eq]
    omega
  case flips =>
    refine ⟨_, ((exec_migrationCopyRound found phase).trans (if_neg (by simp [ready]))).trans (if_pos ?_), rfl⟩
    simp only [Bool.and_eq_true, Bool.or_eq_true, decide_eq_true_eq]
    exact ⟨low, high⟩
  case rewrites => rw [exec_migrationFlipEnd_none found none, if_pos (beq_iff_eq.mpr flipping)]
  case ends =>
    have source : (s.endMig page m x).pageSt m.src = if m.retire then .offline else .inService :=
      (NMap.get_set_ne _ _ other).trans (NMap.get_set_self _ _ _)
    have dest : (s.endMig page m x).pageSt m.dst = .inService := NMap.get_set_self _ _ _
    refine ⟨_, exec_migrationFlipEnd found shot done, ?_⟩
    have bytes : SameBytes s (s.endMig page m x) := .of_clusters rfl rfl fun _ => rfl
    cases retire : m.retire <;> rw [retire] at source
    · exact ⟨source, dest, s.mig?_endMig page m x, (List.append_nil _).symm, bytes⟩
    · exact ⟨source, dest, s.mig?_endMig page m x, rfl, bytes⟩

end Sys2Proof.Machine
end

section
/-! PROOFS. Fault batches, error records and event records on their way to their rings (R53-R55, R440-R448, R462). -/

namespace Sys2Proof.Machine
open Sys2Proof

/-! ### Fault batches (R53-R55, R462) -/

theorem State.ctx_onCtx (s : State) (cid : Nat) (f : Ctx → Ctx) : (s.onCtx cid f).ctx cid = f (s.ctx cid) := NMap.get_set_self _ _ _

theorem State.ctx_msix (s : State) (v cid : Nat) : (s.msix v).ctx cid = s.ctx cid := rfl

theorem exec_faultBatchTimerExpiry {s : State} {cid : Nat} (readable : s.descBad cid = false)
    (late : (s.ctx cid).openedAt + bits (s.desc cid) 335 320 * 100 ≤ s.gtc) :
    exec (.faultBatchTimerExpiry cid) s = .next (s.closeBatch cid) := by
  change execFaultBatchTimerExpiry cid s = _
  rw [execFaultBatchTimerExpiry, if_neg (by simp [readable]), if_pos late]

/-- The open batch as it closes. -/
def State.openBatch (s : State) (cid : Nat) : Batch :=
  { coarse := false, bseq := (s.ctx cid).bseq, nrec := Nat.min 65535 (s.ctx cid).recs.length, gtc := s.gtc, ranges := rangesOf (s.ctx cid).recs }

theorem State.ctx_closeBatch {s : State} {cid : Nat} (some : (s.ctx cid).recs ≠ []) :
    (s.closeBatch cid).ctx cid = { s.ctx cid with
      recs := [], bseq := ((s.ctx cid).bseq + 1) % 2 ^ 32, held := holdBatch (s.ctx cid).held (s.openBatch cid) } := by
  rw [State.closeBatch, if_neg (by simp [some]), State.ctx_onCtx]
  rfl

theorem exec_faultRingWrite {s : State} {cid : Nat} {b : Batch} {bs : List Batch} (held : (s.ctx cid).held = b :: bs)
    (on : s.host.fcfg.getLsbD 4 = true) (room : b.ranges.length < ringFree s.host.fsize s.host.fhead s.host.ftail) :
    exec (.faultRingWrite cid) s = .next ((State.onCtx { s with
      hostMem := ringPut 32 (bits s.host.fcfg.toNat 41 12 * 4096) s.host.fsize s.hostMem s.host.ftail
        (b.header cid :: b.ranges.map fun f => f.bytes cid)
      host := { s.host with ftail := (s.host.ftail + b.ranges.length + 1) % 65536 } } cid fun c => { c with held := bs }).msix 64) := by
  change execFaultRingWrite cid s = _
  simp only [execFaultRingWrite, held, List.length_cons, List.length_map]
  rw [if_neg (by simp [on]; omega), Nat.add_assoc]

/-! ### Records delivered (R445) -/

/-- A record stands for another: of the same source, event and address, and no younger. -/
structure StandsFor (k h : ErrRec) : Prop where
  src : k.src = h.src
  event : k.event = h.event
  addr : k.addr = h.addr
  gtc : k.gtc ≤ h.gtc

theorem StandsFor.refl (h : ErrRec) : StandsFor h h := ⟨rfl, rfl, rfl, le_rfl⟩

theorem StandsFor.trans {k h g : ErrRec} (a : StandsFor k h) (b : StandsFor h g) : StandsFor k g :=
  ⟨a.src.trans b.src, a.event.trans b.event, a.addr.trans b.addr, a.gtc.trans b.gtc⟩

/-- A merge loses no record: each of those held, and the new one, has one that stands for it. -/
theorem mergeRec_standsFor {r : ErrRec} {hs ks : List ErrRec} (merged : mergeRec r hs = some ks) :
    ∀ h ∈ r :: hs, ∃ k ∈ ks, StandsFor k h := by
  induction hs generalizing ks with
  | nil => cases merged
  | cons g hs ih =>
    rw [mergeRec] at merged
    split at merged
    · next same =>
      simp only [Bool.and_eq_true, beq_iff_eq] at same
      obtain ⟨⟨⟨-, src⟩, event⟩, addr⟩ := same
      cases merged
      intro h hh
      obtain rfl | rfl | hh := by simpa using hh
      · exact ⟨_, List.mem_cons_self, src, event, addr, Nat.min_le_right _ _⟩
      · exact ⟨_, List.mem_cons_self, rfl, rfl, rfl, Nat.min_le_left _ _⟩
      · exact ⟨h, List.mem_cons_of_mem _ hh, .refl h⟩
    · obtain ⟨js, below, rfl⟩ := Option.map_eq_some_iff.mp merged
      intro h hh
      obtain rfl | rfl | hh := by simpa using hh
      · obtain ⟨k, hk, stands⟩ := ih below h List.mem_cons_self
        exact ⟨k, List.mem_cons_of_mem _ hk, stands⟩
      · exact ⟨h, List.mem_cons_self, .refl h⟩
      · obtain ⟨k, hk, stands⟩ := ih below h (List.mem_cons_of_mem _ hh)
        exact ⟨k, List.mem_cons_of_mem _ hk, stands⟩

/-- After a delivery the engine holds a record that stands for each it held, and for the new one. -/
theorem State.held_deliver (s : State) (r : ErrRec) : ∀ h ∈ r :: s.rel.held, ∃ k ∈ (s.deliver r).rel.held, StandsFor k h := by
  intro h hh
  simp only [State.deliver]
  cases merged : mergeRec r s.rel.held with
  | some hs => exact mergeRec_standsFor merged h hh
  | none => exact ⟨h, by simpa [or_comm] using hh, .refl h⟩

theorem State.mem_history_deliver (s : State) (r : ErrRec) : ∀ q ∈ r :: s.rel.history, q ∈ (s.deliver r).rel.history := by
  intro q hq
  simpa [State.deliver, or_comm] using hq

/-- The check of a page may deliver one record of its own. -/
theorem State.checkPage_cases (s : State) (page : Nat) : s.checkPage page = s ∨ ∃ q, s.checkPage page = s.deliver q := by
  simp only [State.checkPage]
  split
  · exact .inl rfl
  · split
    · exact .inr ⟨_, rfl⟩
    · exact .inl rfl

/-- A record of a source whose column has a healthy spare is delivered, and its page checked. -/
theorem exec_errorRecordDelivery {s : State} {r : ErrRec} (ok : s.recordOk r = true)
    (spare : 0x1000 ≤ r.src → r.src < 0x2000 → s.noSpare (clCol (r.src / 16 - 0x100)) = false) :
    exec (.errorRecordDelivery r) s = .next ((s.deliver r).checkPage (r.addr / 65536)) := by
  change execErrorRecordDelivery r s = _
  have still (j : Nat) : ((s.deliver r).checkPage (r.addr / 65536)).noSpare j = s.noSpare j := by
    obtain same | ⟨q, same⟩ := (s.deliver r).checkPage_cases (r.addr / 65536) <;> rw [same] <;> rfl
  simp only [execErrorRecordDelivery, ok, still, Bool.not_true, Bool.false_eq_true, if_false]
  rw [if_neg]
  simp only [Bool.and_eq_true, decide_eq_true_eq]
  rintro ⟨⟨⟨⟨⟨lo, hi⟩, -⟩, -⟩, no⟩, -⟩
  rw [spare lo hi] at no
  cases no

/-! ### The error ring (R440, R445) -/

/-- What a record forwarded to Samovar leaves: its log, the event ring and vector 66 by its rung. -/
theorem State.forward_spec (s : State) (r : ErrRec) :
    (s.forward r).rel.held = s.rel.held ∧ (5 ≤ r.rung → r ∈ (s.forward r).rel.samLog) ∧ (4 ≤ r.rung → r ∈ (s.forward r).rel.evHold)
      ∧ (r.rung = 7 → (s.forward r).host.msix = s.host.msix ++ [66]) := by
  have logged : r ∈ (s.rel.samLog ++ [r]).drop (s.rel.samLog.length + 1 - 16) := by
    rw [List.drop_append_of_le_length (by omega)]
    exact List.mem_append_right _ (List.mem_singleton_self r)
  have held : r ∈ s.rel.evHold ++ [r] := List.mem_append_right _ (List.mem_singleton_self r)
  refine ⟨?_, fun h5 => ?_, fun h4 => ?_, fun h7 => ?_⟩
  · simp only [State.forward]
    split <;> split <;> split <;> rfl
  · simp only [State.forward, h5, if_true]
    split <;> split <;> exact logged
  · simp only [State.forward, h4, if_true]
    split <;> split <;> exact held
  · simp [State.forward, State.msix, h7]

/-- A record forwarded changes the records of Samovar and the host page. -/
theorem State.forward_frame (s : State) (r : ErrRec) :
    s.forward r = { s with rel := (s.forward r).rel, host := (s.forward r).host } := by
  simp only [State.forward]
  split <;> split <;> split <;> rfl

theorem State.forward_dev (s : State) (r : ErrRec) : (s.forward r).dev = s.dev := by rw [s.forward_frame]
theorem State.forward_hbm (s : State) (r : ErrRec) : (s.forward r).hbm = s.hbm := by rw [s.forward_frame]

theorem SameBytes.forward (s : State) (r : ErrRec) : SameBytes s (s.forward r) := by
  rw [s.forward_frame]
  exact .of_clusters rfl rfl fun _ => rfl

/-- The state without a held record that leaves the engine. -/
def State.releaseRec (s : State) (r : ErrRec) : State := { s with rel := { s.rel with held := s.rel.held.erase r } }

theorem exec_errorRingWrite {s : State} {r : ErrRec} (first : firstRec s.rel.held = some r) (late : r.gtc + 4000 ≤ s.gtc) :
    exec .errorRingWrite s
      = .next (((s.releaseRec r).ringRecord r).forward r) := by
  change execErrorRingWrite s = _
  simp only [execErrorRingWrite, first]
  rw [if_neg (by omega)]
  rfl

/-- Bytes that fill one unit are one chunk. -/
theorem chunks_unit {u a : Nat} {bs : List Byte} (hu : 0 < u) (aligned : a % u = 0) (len : bs.length = u) : chunks u a bs = [(a, bs)] := by
  cases bs with
  | nil => simp at len; omega
  | cons b bs =>
    have rest : ∀ k c, unitChunks u k c [] = [] := fun k c => by cases k <;> rfl
    have all : (b :: bs).take u = b :: bs := List.take_of_length_le len.le
    have none : (b :: bs).drop u = [] := List.drop_of_length_le len.le
    rw [chunks, List.length_cons, unitChunks]
    · simp only [aligned, Nat.sub_zero, all, none, rest]
    · exact List.cons_ne_nil b bs

theorem State.dirtySector_frame (s : State) (pa : Nat) : s.dirtySector pa = { s with pages := (s.dirtySector pa).pages } := by
  simp only [State.dirtySector]
  split
  · split <;> rfl
  · rfl

/-- A whole unit stored on a channel that works takes its bytes, poisoned before or not. -/
theorem State.storeChunk_unit {s : State} {a : Nat} {bs : List Byte} (works : s.channelFailed a = false) (len : bs.length = 64) :
    ∃ ps, s.storeChunk a bs = ({ s with hbm := s.hbm.write a bs, hbmPoison := ps } : State).overtake fun u => u == .hbm (a / 64) := by
  have written : ∃ ps, writeChunk 64 id (s.hbm, s.hbmPoison) (a, bs) = (s.hbm.write a bs, ps) := by
    simp only [writeChunk, len, if_true]
    split
    · exact ⟨_, rfl⟩
    · exact ⟨_, rfl⟩
  obtain ⟨ps, written⟩ := written
  exact ⟨ps, by rw [State.storeChunk, if_neg (by simp [works]), written]⟩

theorem State.ringRecord_dropped {s : State} {r : ErrRec} (full : s.dev.erEn = false ∨ (s.dev.erHead + 1) % s.dev.erSize = s.dev.erTail) :
    s.ringRecord r = { s with dev := { s.dev with erDrops := Nat.min 65535 (s.dev.erDrops + 1), erOvf := true } } := by
  rw [State.ringRecord]
  exact if_pos (by rcases full with h | h <;> simp [h])

/-- A record written into the error ring: its bytes, HEAD, and what stays. -/
theorem State.ringRecord_written {s : State} {r : ErrRec} (on : s.dev.erEn = true) (room : (s.dev.erHead + 1) % s.dev.erSize ≠ s.dev.erTail)
    (works : s.channelFailed (s.dev.erAddr + 64 * s.dev.erHead) = false) :
    (s.ringRecord r).dev = { s.dev with erHead := (s.dev.erHead + 1) % s.dev.erSize }
      ∧ (s.ringRecord r).hbm = s.hbm.write (s.dev.erAddr + 64 * s.dev.erHead) (recBytes r)
      ∧ (s.ringRecord r).rel.held = s.rel.held ∧ (s.ringRecord r).host = s.host := by
  have aligned : (s.dev.erAddr + 64 * s.dev.erHead) % 64 = 0 := by rw [Dev.erAddr]; omega
  have len : (recBytes r).length = 64 := length_toBytes _ _
  rw [State.ringRecord, if_neg (by simp [on, room])]
  generalize recBytes r = bs at len ⊢
  obtain ⟨ps, stored⟩ := State.storeChunk_unit works len
  rw [State.rsvWrite, chunks_unit (by decide) aligned len, List.foldl_cons, List.foldl_nil,
    State.dirtySector_frame, stored, State.overtake, State.wakeAll]
  exact ⟨rfl, rfl, rfl, rfl⟩

/-! ### The event ring (R440, R455, R462) -/

/-- A record written at the tail of the event ring, and the vector that fires. -/
theorem State.putEvent_spec (s : State) (r : ErrRec) :
    (s.putEvent r).host.etail = (s.host.etail + 1) % 65536 ∧ (s.putEvent r).host.msix = s.host.msix ++ [65]
      ∧ (s.putEvent r).hostMem
          = s.hostMem.write (bits s.host.ecfg.toNat 41 12 * 4096 + 64 * (s.host.etail % s.host.esize)) (recBytes r)
      ∧ (s.putEvent r).rel = s.rel := by
  generalize hb : recBytes r = bs
  simp only [State.putEvent, State.msix, ringPut, hb]
  exact ⟨trivial, trivial, trivial, trivial⟩

theorem exec_eventRingWrite {s : State} (room : (s.host.ecfg.getLsbD 4 && decide (1 ≤ ringFree s.host.esize s.host.ehead s.host.etail)) = true) :
    (∀ r rs, s.rel.evWait = r :: rs → exec .eventRingWrite s = .next (({ s with rel := { s.rel with evWait := rs } } : State).putEvent r))
      ∧ ∀ r rs, s.rel.evWait = [] → s.rel.evHold = r :: rs →
        exec .eventRingWrite s = .next (({ s with rel := { s.rel with evHold := rs } } : State).putEvent r) := by
  refine ⟨fun r rs waits => ?_, fun r rs none held => ?_⟩
  · change execEventRingWrite s = _
    simp only [execEventRingWrite, waits, room, if_true]
  · change execEventRingWrite s = _
    simp only [execEventRingWrite, none, held, room, if_true]

/-! ### The obligation -/

/-- Settles O41, ring by ring: a batch closes and goes out, a record is held, leaves or is dropped, and goes on to the event ring. -/
theorem reports : Obligations.Reports := by
  unfold Obligations.Reports
  refine ⟨fun cid s late some readable => ?closes, fun cid s b bs held on room => ⟨_, exec_faultRingWrite held on room, ?batch, ?rest⟩,
    fun r s ok spare => ⟨_, exec_errorRecordDelivery ok spare, ?history, ?held⟩, fun s r first late => ⟨fun full => ?drops, fun on room works => ?writes⟩,
    fun s on room => ⟨fun r rs waits => ?waiting, fun r rs none held => ?next⟩⟩
  case closes =>
    refine ⟨_, exec_faultBatchTimerExpiry readable late, ?_⟩
    rw [State.ctx_closeBatch some]
    exact ⟨rfl, rfl, fun few => if_pos few⟩
  case batch => rw [State.ctx_msix, State.ctx_onCtx]
  case rest =>
    simp only [State.msix, State.onCtx_host, State.onCtx_hostMem]
    exact ⟨trivial, trivial, rfl⟩
  case history =>
    have mem := s.mem_history_deliver r r List.mem_cons_self
    obtain same | ⟨q, same⟩ := (s.deliver r).checkPage_cases (r.addr / 65536) <;> rw [same]
    · exact mem
    · exact State.mem_history_deliver _ _ _ (List.mem_cons_of_mem _ mem)
  case held =>
    obtain ⟨k, hk, stands⟩ := s.held_deliver r r List.mem_cons_self
    obtain same | ⟨q, same⟩ := (s.deliver r).checkPage_cases (r.addr / 65536) <;> rw [same]
    · exact ⟨k, hk, stands.src, stands.event, stands.addr, stands.gtc⟩
    · obtain ⟨j, hj, also⟩ := State.held_deliver (s.deliver r) q k (List.mem_cons_of_mem _ hk)
      exact ⟨j, hj, (also.trans stands).src, (also.trans stands).event, (also.trans stands).addr, (also.trans stands).gtc⟩
  case drops =>
    have full : (s.releaseRec r).dev.erEn = false
        ∨ ((s.releaseRec r).dev.erHead + 1) % (s.releaseRec r).dev.erSize = (s.releaseRec r).dev.erTail := full
    have gone := State.ringRecord_dropped (r := r) full
    have same : SameBytes s ((s.releaseRec r).ringRecord r) := by
      rw [gone]
      exact .of_clusters rfl rfl fun _ => rfl
    have passed := ((s.releaseRec r).ringRecord r).forward_spec r
    refine ⟨_, exec_errorRingWrite first late, ?_, ?_⟩
    · rw [gone] at passed ⊢
      exact passed
    · rw [State.forward_dev]
      refine ⟨?_, ?_, ?_, same.trans (.forward _ r)⟩ <;> rw [gone] <;> rfl
  case writes =>
    obtain ⟨dev, hbm, held, host⟩ := State.ringRecord_written (s := s.releaseRec r) (r := r) on room works
    obtain ⟨kept, log, ev, vec⟩ := ((s.releaseRec r).ringRecord r).forward_spec r
    have len : (recBytes r).length = 64 := length_toBytes _ _
    refine ⟨_, exec_errorRingWrite first late, ⟨kept.trans held, log, ev, fun h => (vec h).trans (by rw [host]; rfl)⟩, ?_⟩
    rw [State.forward_dev, State.forward_hbm, dev, hbm]
    refine ⟨rfl, rfl, ?_, fun b out => Memory.byte_write_of_outside _ _ _ _ (by rwa [len])⟩
    rw [← len]
    exact Memory.read_write_self _ _ _
  case waiting =>
    obtain ⟨tail, vec, mem, rel⟩ := State.putEvent_spec { s with rel := { s.rel with evWait := rs } } r
    refine ⟨_, (exec_eventRingWrite (by simp [on, room])).1 r rs waits, ⟨tail, vec, mem⟩, ?_⟩
    rw [rel]
    exact ⟨rfl, rfl⟩
  case next =>
    obtain ⟨tail, vec, mem, rel⟩ := State.putEvent_spec { s with rel := { s.rel with evHold := rs } } r
    refine ⟨_, (exec_eventRingWrite (by simp [on, room])).2 r rs none held, ⟨tail, vec, mem⟩, ?_⟩
    rw [rel]

end Sys2Proof.Machine
end

section
/-! PROOFS. Requests of other chips at this chip, and the responses to this chip's own (R45, R59, R61, R63, R101, R293, R467, R469). -/

namespace Sys2Proof.Machine
open Sys2Proof

/-! ### Requests of other chips (R45, R467) -/

section
variable {s : State} {src : TagSource} {tag : Nat} {run : State → PeerAns}

theorem State.peerRequest_of_fenced (fenced : s.fencedChip src.chip = true) : s.peerRequest src tag run = .next s := by
  rw [State.peerRequest, if_pos (by simp [fenced])]

/-- A chip that may be served is answered as before, or else by what its request finds. -/
theorem State.peerRequest_served (free : s.fencedChip src.chip = false) (other : src.chip ≠ s.dev.chip) (lt : src.chip < 64) :
    (∀ r, s.remembered.find? (fun r => r.src == src && r.tag == tag) = some r →
        s.peerRequest src tag run = .next (s.send src.chip (.response { agent := src.agent, tag := tag } r.st r.data)))
      ∧ (s.remembered.find? (fun r => r.src == src && r.tag == tag) = none →
        (∀ t data, run s = .done t data → s.peerRequest src tag run = .next (t.respond src tag .done data))
        ∧ ∀ st, run s = .refuse st → s.peerRequest src tag run = .next (s.respond src tag st [])) := by
  have goes : (s.fencedChip src.chip || decide (src.chip = s.dev.chip) || decide (64 ≤ src.chip)) = false := by simp [free, other, lt]
  refine ⟨fun r old => ?_, fun new => ⟨fun t data done => ?_, fun st refused => ?_⟩⟩
  · simp only [State.peerRequest, goes, old, Bool.false_eq_true, if_false]
  · simp only [State.peerRequest, goes, new, done, Bool.false_eq_true, if_false]
  · simp only [State.peerRequest, goes, new, refused, Bool.false_eq_true, if_false]

end

/-- Every row by which another chip's request arrives asks in the same way. -/
theorem exec_peerRow {src : TagSource} {tag : Nat} {i : Instr} (row : peerRows src tag i) (s : State) :
    ∃ run, exec i s = s.peerRequest src tag run := by
  obtain ⟨a, n, lo, hi, rfl⟩ | ⟨a, m, d, rfl⟩ | ⟨a, n, op, x, e, rfl⟩ | ⟨r, rfl⟩ | ⟨a, d, le, rfl⟩ := row
  · exact ⟨_, show execRemoteRead src tag a n s = _ from if_neg (by simp; omega)⟩
  · exact ⟨_, show execRemoteWrite src tag a m d s = _ from rfl⟩
  · exact ⟨_, show execRemoteAtomic src tag a n op x e s = _ from rfl⟩
  · exact ⟨_, show execRemoteBankSide src tag r s = _ from rfl⟩
  · exact ⟨_, show execDecantWriteMsg src tag a d s = _ from if_neg (by omega)⟩

/-! ### The runs of a mask (R469) -/

/-- A mask that selects every byte goes on with the run that it has begun. -/
theorem maskRuns_run (bs : List Byte) {mask : Nat} (x : Nat) (ds : List Byte) (i : Nat) (all : ∀ j, i ≤ j → j < i + bs.length → bit mask j = true) :
    maskRuns mask (x + ds.length) bs [(x, ds)] i = [(x, ds ++ bs)] := by
  induction bs generalizing ds i with
  | nil => simp [maskRuns]
  | cons b bs ih =>
    have here : bit mask i = true := all i le_rfl (by simp)
    have next := ih (ds ++ [b]) (i + 1) fun j lo hi => all j (by omega) (by simp only [List.length_cons]; omega)
    rw [List.length_append, List.length_singleton, ← Nat.add_assoc, List.append_assoc, List.singleton_append] at next
    rw [maskRuns, here]
    simpa using next

theorem maskRuns_all {bs : List Byte} (some : bs ≠ []) {mask : Nat} (a : Nat) (all : ∀ j < bs.length, bit mask j = true) :
    maskRuns mask a bs [] 0 = [(a, bs)] := by
  cases bs with
  | nil => exact absurd rfl some
  | cons b bs =>
    rw [maskRuns, all 0 (by simp)]
    exact maskRuns_run bs a [b] 1 fun j lo hi => all j (by simp only [List.length_cons]; omega)

/-! ### Each request served (R45, R61, R101, R293) -/

section
variable {s : State} {src : TagSource} {tag : Nat}

theorem State.peerWrite_done {pa n : Nat} {rs : List (Nat × List Byte)} {t : State} (reached : s.peerCheck src pa n = none)
    (open_ : tagMode (s.tag (pageOf pa)) ≠ 3) (all : s.hostWrites rs = (t, [])) : s.peerWrite src pa n rs = .done t [] := by
  simp only [State.peerWrite, reached, open_, if_false, all]

theorem State.peerAtomic_done {addr size x e v : Nat} {op : AmoOp} {bs : List Byte} {t : State} (reached : s.peerCheck src addr size = none)
    (got : s.hbmRead addr size = .ok bs) (new : amoNew op size (ofBytes bs) x e = some v) (wrote : s.hbmWrite addr (toBytes size v) = .ok t) :
    s.peerAtomic src addr size op x e = .done t bs := by
  simp only [State.peerAtomic, reached, got, new, wrote]

variable (free : s.fencedChip src.chip = false) (other : src.chip ≠ s.dev.chip) (lt : src.chip < 64)
  (new : s.remembered.find? (fun r => r.src == src && r.tag == tag) = none)
include free other lt new

theorem exec_remoteRead {addr len : Nat} (lo : 1 ≤ len) (hi : len ≤ 32) (here : isHost addr = false) :
    (∀ bs, s.peerCheck src addr len = none → s.hostReads (chunks 64 addr (List.replicate len 0)) [] = .got bs →
        exec (.remoteRead src tag addr len) s = .next (s.respond src tag .done bs))
      ∧ ∀ st, s.peerCheck src addr len = some st → exec (.remoteRead src tag addr len) s = .next (s.respond src tag st []) := by
  have step : exec (.remoteRead src tag addr len) s = _ := show execRemoteRead src tag addr len s = _ from if_neg (by simp; omega)
  refine ⟨fun bs reached got => step.trans (((State.peerRequest_served free other lt).2 new).1 s bs ?_),
    fun st refused => step.trans (((State.peerRequest_served free other lt).2 new).2 st ?_)⟩
  · simp only [here, reached, got, Bool.false_eq_true, if_false]
  · simp only [here, refused, Bool.false_eq_true, if_false]

theorem exec_remoteWrite {addr : Nat} {data : List Byte} {t : State} (here : isHost addr = false) (len : data.length = 32)
    (open_ : tagMode (s.tag (pageOf addr)) ≠ 3) (reached : s.peerCheck src addr 32 = none) (all : s.hostWrites [(addr, data)] = (t, [])) :
    exec (.remoteWrite src tag addr (BitVec.allOnes 32) data) s = .next (t.respond src tag .done []) := by
  have one : maskRuns (BitVec.allOnes 32).toNat addr (data.take 32) [] 0 = [(addr, data)] := by
    rw [List.take_of_length_le len.le]
    refine maskRuns_all (by rintro rfl; simp at len) addr fun j hj => ?_
    rw [len] at hj
    rw [bit, BitVec.toNat_allOnes, Nat.testBit_two_pow_sub_one, decide_eq_true hj]
  refine show execRemoteWrite src tag addr _ data s = _ from ((State.peerRequest_served (tag := tag) free other lt).2 new).1 t [] ?_
  simp only [one, here, len, Bool.false_eq_true, if_false]
  exact State.peerWrite_done reached open_ all

theorem exec_remoteAtomic {addr size v : Nat} {op : AmoOp} {x e : BitVec 64} {bs : List Byte} {t : State} (here : isHost addr = false)
    (reached : s.peerCheck src addr size = none) (got : s.hbmRead addr size = .ok bs)
    (changes : amoNew op size (ofBytes bs) (x.toNat % 256 ^ size) (e.toNat % 256 ^ size) = some v)
    (wrote : s.hbmWrite addr (toBytes size v) = .ok t) :
    exec (.remoteAtomic src tag addr size op x e) s = .next (t.respond src tag .done bs) := by
  refine show execRemoteAtomic src tag addr size op x e s = _ from ((State.peerRequest_served (tag := tag) free other lt).2 new).1 t bs ?_
  simp only [here, Bool.false_eq_true, if_false]
  exact State.peerAtomic_done reached got changes wrote

theorem exec_remoteBankSide {r : BankReq} {bs : List Byte} {t : State} (reached : s.peerCheck src r.addr (bankSize r) = none)
    (done : s.bankSide r.addr r = .done t bs) :
    exec (.remoteBankSide src tag r) s = .next (t.respond src tag .done (if r.op = .cas then bs else [])) := by
  refine show execRemoteBankSide src tag r s = _ from ((State.peerRequest_served (tag := tag) free other lt).2 new).1 t _ ?_
  simp only [reached, done]

theorem exec_decantWriteMsg {addr : Nat} {data : List Byte} {t : State} (le : data.length ≤ 32) (within : addr + data.length ≤ s.dev.top)
    (here : s.pageSt (pageOf addr) = .inService) (all : s.hostWrites (chunks 64 addr data) = (t, [])) :
    exec (.decantWriteMsg src tag addr data) s = .next (t.respond src tag .done []) := by
  have step : exec (.decantWriteMsg src tag addr data) s = _ := show execDecantWriteMsg src tag addr data s = _ from if_neg (by omega)
  refine step.trans (((State.peerRequest_served (tag := tag) free other lt).2 new).1 t [] ?_)
  simp only [Nat.not_lt.mpr within, if_false, here, all]

end

theorem peerRequests : Clause.PeerRequests := by
  unfold Clause.PeerRequests
  refine fun src tag s => ⟨fun fenced i row => ?fenced, fun free other lt => ⟨fun i r row old => ?again, fun new => ⟨
    fun addr len bs lo hi here reached got => (exec_remoteRead free other lt new lo hi here).1 bs reached got,
    fun addr len st lo hi here refused => (exec_remoteRead free other lt new lo hi here).2 st refused,
    fun addr data t here len open_ reached all => exec_remoteWrite free other lt new here len open_ reached all,
    fun addr size op x e bs v t here reached got changes wrote => exec_remoteAtomic free other lt new here reached got changes wrote,
    fun r t bs reached done => exec_remoteBankSide free other lt new reached done,
    fun addr data t le within here all => exec_decantWriteMsg free other lt new le within here all⟩⟩⟩
  case fenced =>
    obtain ⟨run, step⟩ := exec_peerRow row s
    exact step.trans (State.peerRequest_of_fenced fenced)
  case again =>
    obtain ⟨run, step⟩ := exec_peerRow row s
    exact step.trans ((State.peerRequest_served free other lt).1 r old)

/-! ### Responses (R45, R63, R467) -/

/-- A message that leaves changes no more of this chip's requests than when they were sent. -/
theorem State.reqs_send (s : State) (dst : Nat) (m : Msg) (src : Nat) :
    ∃ at_ : Req → Nat, (s.send dst m src).reqs = s.reqs.map fun r => { r with lastSent := at_ r } := by
  have same : ∃ at_ : Req → Nat, s.reqs = s.reqs.map fun r => { r with lastSent := at_ r } := ⟨Req.lastSent, (List.map_id s.reqs).symm⟩
  simp only [State.send]
  split
  · exact same
  · split
    · exact same
    · simp only [State.sendOn]
      split
      · exact same
      · refine ⟨fun r => if r.msg == m then s.gtc else r.lastSent, List.map_congr_left (g := fun r => _) fun r _ => ?_⟩
        cases sent : r.msg == m <;> simp [sent]

section
variable {s : State} {tag : ReqId}

theorem exec_remoteResponse_none (none : s.reqs.find? (fun r => r.tag == tag) = none) (st : RespStatus) (v : List Byte) :
    exec (.remoteResponse tag st v) s = .next s := by
  change execRemoteResponse tag st v s = _
  simp only [execRemoteResponse, none]

theorem exec_requestReissue_none (none : s.reqs.find? (fun r => r.tag == tag) = none) : exec (.requestReissue tag) s = .next s := by
  change execRequestReissue tag s = _
  simp only [execRequestReissue, none]

theorem exec_peerUnresponsive_none (none : s.reqs.find? (fun r => r.tag == tag) = none) : exec (.peerUnresponsive tag) s = .next s := by
  change execPeerUnresponsive tag s = _
  simp only [execPeerUnresponsive, none]

variable {r : Req} (found : s.reqs.find? (fun r => r.tag == tag) = some r)
include found

theorem exec_remoteResponse (st : RespStatus) (v : List Byte) : exec (.remoteResponse tag st v) s = .next (s.answered r st v) := by
  change execRemoteResponse tag st v s = _
  simp only [execRemoteResponse, found]

theorem exec_requestReissue (free : r.held = false) (sent : s.unsent r.msg = false) (few : r.sends < 4) (late : r.lastSent + sltmo ≤ s.gtc) :
    exec (.requestReissue tag) s = .next (s.resend r) := by
  change execRequestReissue tag s = _
  simp only [execRequestReissue, found, free, Bool.false_eq_true, if_false]
  exact if_pos (by simp [sent, few, late])

theorem exec_peerUnresponsive_fenced (free : r.held = false) (fenced : s.fencedChip r.peer = true) :
    exec (.peerUnresponsive tag) s = .next (s.undelivered r) := by
  change execPeerUnresponsive tag s = _
  simp only [execPeerUnresponsive, found, free, fenced, Bool.false_eq_true, if_false, if_true]

theorem exec_peerUnresponsive_silent (free : r.held = false) (sent : s.unsent r.msg = false) (served : s.fencedChip r.peer = false)
    (thrice : 4 ≤ r.sends) (late : r.lastSent + sltmo ≤ s.gtc) :
    exec (.peerUnresponsive tag) s = .next ((s.fenceAll (chipBit r.peer)).undelivered r) := by
  change execPeerUnresponsive tag s = _
  simp only [execPeerUnresponsive, found, free, served, Bool.false_eq_true, if_false]
  exact if_pos (by simp [sent, thrice, late])

/-- The request has gone out once more, under its tag. -/
theorem State.mem_reqs_resend (free : r.held = false) : ∃ x ∈ (s.resend r).reqs, x.tag = tag ∧ x.sends = r.sends + 1 ∧ x.held = false := by
  have named : r.tag = tag := by simpa using List.find?_some found
  obtain ⟨at_, sent⟩ := State.reqs_send _ r.peer r.msg (s.reqHash r.owner)
  have mem := List.mem_of_find?_eq_some found
  rw [State.resend, sent]
  refine ⟨_, List.mem_map_of_mem (List.mem_map_of_mem mem), ?_⟩
  simp [named, free]

end

theorem SameBytes.resend (s : State) (r : Req) : SameBytes s (s.resend r) :=
  .trans (.of_clusters rfl rfl fun _ => rfl) (State.Posts.send _ _ _ _).sameBytes

/-- The value of a scalar access reaches every record of it. -/
theorem State.fixValue_spec {s : State} {cl : Nat} {l : Acc} (v : Nat) (task : l.orphan = false) (plain : l.aq = false) :
    (s.fixValue cl l v).reqs = s.reqs
      ∧ ∀ m ∈ ((s.fixValue cl l v).cl cl).a.loads ++ ((s.fixValue cl l v).cl cl).a.stores, m.seq = l.seq → m.val = some v := by
  simp only [State.fixValue, task, plain, Bool.false_eq_true, if_false, State.cl_onA_self]
  refine ⟨rfl, fun m hm named => ?_⟩
  rw [← List.map_append] at hm
  obtain ⟨k, -, rfl⟩ := List.mem_map.mp hm
  by_cases h : k.seq = l.seq
  · simp [h]
  · exact absurd (by rwa [if_neg (by simpa using h)] at named) h

/-- A store that was not of an aborted task is outstanding no more. -/
theorem State.accs_dropAcc {s : State} {cl seq : Nat} (task : ∀ m ∈ (s.cl cl).a.stores, m.seq = seq → m.orphan = false) :
    ∀ m ∈ ((s.dropAcc cl seq).cl cl).a.accs, m.seq ≠ seq := by
  have none : (s.cl cl).a.stores.find? (fun l => l.seq == seq && l.orphan) = none := by
    rw [List.find?_eq_none]
    intro m hm
    by_cases h : m.seq = seq
    · simp [task m hm h]
    · simp [h]
  simp only [State.dropAcc, none, State.cl_onA_self, ACore.accs, List.mem_append, List.mem_filter]
  rintro m (⟨-, h⟩ | ⟨-, h⟩) <;> simpa using h

/-- A command that has been dropped is there no more. -/
theorem State.cmd?_dropCmd (s : State) (cl id : Nat) : (s.dropCmd cl id).cmd? cl id = none := by
  simp [State.cmd?, State.dropCmd]

theorem State.id_of_cmd? {s : State} {cl id : Nat} {k : Cmd} (found : s.cmd? cl id = some k) : k.id = id := by
  simpa using List.find?_some found

/-- A command one of whose requests is not delivered has failed. -/
theorem State.cmd?_undelivered {s : State} {r : Req} {cl id j : Nat} {k : Cmd} (owner : r.owner = .cmd cl id j) (found : s.cmd? cl id = some k) :
    (s.undelivered r).cmd? cl id = none := by
  have foundT : (s.dropReq r).cmd? cl id = some k := found
  simp only [State.undelivered, owner, foundT, State.failCmd, State.id_of_cmd? found]
  exact State.cmd?_dropCmd _ _ _

theorem responses : Clause.Responses := by
  unfold Clause.Responses
  refine ⟨fun tag s none st v => ⟨exec_remoteResponse_none none st v, exec_requestReissue_none none, exec_peerUnresponsive_none none⟩,
    fun tag s r found => ⟨fun cl seq l v owner waits add some plain task => ?value, fun cl seq l owner waits plain store task => ?stored,
      fun free sent few late => ⟨_, exec_requestReissue found free sent few late, State.mem_reqs_resend found free, .resend s r⟩,
      fun free fenced => exec_peerUnresponsive_fenced found free fenced,
      fun free sent served thrice late => exec_peerUnresponsive_silent found free sent served thrice late,
      fun cl id j k owner cmd => State.cmd?_undelivered owner cmd⟩,
    fun src tag id s => ⟨⟨_, rfl, fun r => ?memory⟩, _, rfl, fun o => ?reuse⟩⟩
  case value =>
    have named : r.tag = tag := by simpa using List.find?_some found
    obtain ⟨reqs, vals⟩ := State.fixValue_spec (s := s.dropReq r) (cl := cl) (ofBytes (v.take l.size)) task plain
    have step : s.answered r .done v = (s.dropReq r).fixValue cl l (ofBytes (v.take l.size)) := by
      simp [State.answered, owner, waits, State.accResponse, add, some]
    refine ⟨_, exec_remoteResponse found .done v, ?_⟩
    rw [step]
    refine ⟨fun x hx => ?_, vals⟩
    rw [reqs] at hx
    simpa [named] using (List.mem_filter.mp hx).2
  case stored =>
    have step : s.answered r .done [] = (s.dropReq r).dropAcc cl l.seq := by
      simp [State.answered, owner, waits, State.accResponse, plain, store]
    refine ⟨_, exec_remoteResponse found .done [], ?_⟩
    rw [step]
    exact State.accs_dropAcc task
  case memory =>
    simp only [List.mem_filter, Bool.not_eq_true', ← Bool.not_eq_true, Bool.and_eq_true, beq_iff_eq, decide_eq_true_eq, and_assoc]
  case reuse =>
    simp only [List.mem_filter, Bool.not_eq_true', ← Bool.not_eq_true, Bool.and_eq_true, beq_iff_eq, decide_eq_true_eq]

/-- Settles O53, of the requests of other chips and of the responses to this chip's. -/
theorem peerRequestsAndResponses : Obligations.PeerRequestsAndResponses := ⟨peerRequests, responses⟩

end Sys2Proof.Machine
end

section
/-! PROOFS. Refused accesses, flits that fail their check, and messages at a mailbox ring and back at their senders (R61, R63, R78-R81, R311,
R436, R478). -/

namespace Sys2Proof.Machine
open Sys2Proof

/-! ### An access that leaves the core (R51, R397) -/

/-- `t` has every cluster of `s`, with no other accesses outstanding than those of `s`. -/
structure State.ShedsStores (s t : State) : Prop where
  cluster : ∀ m, (t.cl m).besideStores = (s.cl m).besideStores
  stores : ∀ m, ∀ x ∈ (t.cl m).a.stores, ∃ y ∈ (s.cl m).a.stores, y.seq = x.seq

namespace State.ShedsStores

theorem of_cl {s t : State} (h : ∀ m, t.cl m = s.cl m) : s.ShedsStores t :=
  ⟨fun m => by rw [h m], fun m x hx => ⟨x, h m ▸ hx, rfl⟩⟩

theorem refl (s : State) : s.ShedsStores s := of_cl fun _ => rfl

theorem trans {s t u : State} (h : s.ShedsStores t) (k : t.ShedsStores u) : s.ShedsStores u where
  cluster m := (k.cluster m).trans (h.cluster m)
  stores m x hx := by
    obtain ⟨y, hy, yx⟩ := k.stores m x hx
    obtain ⟨z, hz, zy⟩ := h.stores m y hy
    exact ⟨z, hz, zy.trans yx⟩

theorem dropLate (s : State) (p : Nat → Nat → Bool) : s.ShedsStores (s.dropLate p) where
  cluster m := by rw [s.cl_dropLate p m]; rfl
  stores m x hx := by
    rw [s.cl_dropLate p m] at hx
    obtain ⟨y, hy, late⟩ := List.mem_filterMap.mp hx
    exact ⟨y, hy, (Acc.seq_of_dropLate late).1.symm⟩

theorem nodeStable : NodeStable State.ShedsStores where
  refl := refl
  trans := trans
  disp _ _ := of_cl fun _ => rfl
  flights _ _ := of_cl fun _ => rfl
  send s dst m src := of_cl fun n => s.cl_send dst m src n
  dropLate := dropLate

variable {s t : State} (h : s.ShedsStores t)
include h

theorem mode (m : Nat) : (t.cl m).a.mode = (s.cl m).a.mode := (congrArg (fun c : Cluster => c.a.mode) (h.cluster m) :)
theorem sstat (m : Nat) : (t.cl m).a.sstat = (s.cl m).a.sstat := (congrArg (fun c : Cluster => c.a.sstat) (h.cluster m) :)
theorem loads (m : Nat) : (t.cl m).a.loads = (s.cl m).a.loads := (congrArg (fun c : Cluster => c.a.loads) (h.cluster m) :)

theorem accs (m : Nat) : ∀ x ∈ (t.cl m).a.accs, ∃ y ∈ (s.cl m).a.accs, y.seq = x.seq := by
  intro x hx
  rw [ACore.accs, h.loads m] at hx
  obtain hx | hx := List.mem_append.mp hx
  · exact ⟨x, List.mem_append_left _ hx, rfl⟩
  · obtain ⟨y, hy, yx⟩ := h.stores m x hx
    exact ⟨y, List.mem_append_right _ hy, yx⟩

end State.ShedsStores

/-- The A-core without the accesses of a number. -/
def ACore.withoutAcc (a : ACore) (seq : Nat) : ACore :=
  { a with loads := a.loads.filter fun l => l.seq != seq, stores := a.stores.filter fun l => l.seq != seq }

theorem State.shedsStores_dropAcc (s : State) (cl seq : Nat) : (s.onA cl fun a => a.withoutAcc seq).ShedsStores (s.dropAcc cl seq) := by
  simp only [State.dropAcc]
  split
  · exact State.ShedsStores.nodeStable.completeNode _ _
  · exact .refl _

/-- An access dropped leaves the mode and the trap enable of its core, and is in neither of its queues. -/
theorem State.dropAcc_spec (s : State) (cl seq : Nat) :
    ((s.dropAcc cl seq).cl cl).a.mode = (s.cl cl).a.mode ∧ ((s.dropAcc cl seq).cl cl).a.sstat = (s.cl cl).a.sstat
      ∧ ∀ m ∈ ((s.dropAcc cl seq).cl cl).a.accs, m.seq ≠ seq := by
  have sheds := s.shedsStores_dropAcc cl seq
  have here := s.cl_onA_self cl fun a => a.withoutAcc seq
  refine ⟨by rw [sheds.mode, here]; rfl, by rw [sheds.sstat, here]; rfl, fun m hm => ?_⟩
  obtain ⟨y, hy, same⟩ := sheds.accs cl m hm
  rw [here] at hy
  have : y.seq ≠ seq := by
    simp only [ACore.accs, ACore.withoutAcc, List.mem_append, List.mem_filter] at hy
    obtain ⟨-, h⟩ | ⟨-, h⟩ := hy <;> simpa using h
  exact same ▸ this

/-! ### Refusals (R61, R63) -/

section
variable {s : State} {cl id : Nat} {l : Acc} (found : (s.cl cl).a.accs.find? (fun l => l.seq == id && l.pending && l.place == .hbm) = some l)
include found

theorem exec_accessRefusal_retry (flipping : s.pageSt (pageOf l.pa) = .flipping) :
    exec (.accessRefusal cl id false) s = .next (s.retranslate cl l) := by
  change execAccessRefusal cl id false s = _
  simp only [execAccessRefusal, found, flipping, Bool.false_eq_true, if_false]

theorem exec_accessRefusal_offline (offline : s.pageSt (pageOf l.pa) = .offline) :
    exec (.accessRefusal cl id true) s = .next (s.accFault cl l 7) := by
  change execAccessRefusal cl id true s = _
  simp only [execAccessRefusal, found, offline, if_true]

end

/-- An access with its new place, which keeps its number and its order. -/
def Acc.placed (seq xl pa : Nat) (p : Place) (m : Acc) : Acc := if m.seq == seq then { m with place := p, pa := pa, xl := xl, redo := false } else m

theorem Acc.placed_spec {seq xl pa : Nat} {p : Place} {m : Acc} (named : (m.placed seq xl pa p).seq = seq) :
    (m.placed seq xl pa p).place = p ∧ (m.placed seq xl pa p).pa = pa := by
  by_cases h : m.seq = seq
  · simp [Acc.placed, h]
  · rw [Acc.placed, if_neg (by simpa using h)] at named
    exact absurd named h

theorem State.retranslate_at {s t : State} {cl pa : Nat} {l : Acc} {p : Place}
    (walk : (s.dropVa l.cid l.va).resolve cl l.cid l.va .acore l.kindOf.perms = (.at_ p pa, t)) :
    s.retranslate cl l = t.onA cl fun a => { a with
      loads := a.loads.map (Acc.placed l.seq s.nextMsg pa p), stores := a.stores.map (Acc.placed l.seq s.nextMsg pa p) } := by
  simp only [State.retranslate, walk]
  rfl

/-- A trap taken in mode S with traps enabled enters its handler. -/
theorem State.takeTrap_of_enabled {s : State} {cl : Nat} (mode : (s.cl cl).a.mode = .s) (enabled : (s.cl cl).a.sstat.getLsbD 1 = true)
    (code detail : Nat) (tval : W64) (xc : Bool) (epc : W64) :
    s.takeTrap cl code detail tval xc epc = s.onA cl fun a => a.enter code detail tval xc epc := by
  have single : (s.cl cl).a.doubleFault = false := by simp [ACore.doubleFault, ACore.te, enabled]
  simp only [State.takeTrap, State.enterTrap, single, mode, Bool.false_eq_true, if_false, reduceCtorEq]

/-- The fault of an access of firmware traps once the access has gone. -/
theorem State.accFault_firmware {s : State} {cl kind : Nat} {l : Acc} (running : l.late = none) (own : l.cid = 0) (mode : (s.cl cl).a.mode = .s)
    (enabled : (s.cl cl).a.sstat.getLsbD 1 = true) :
    s.accFault cl l kind
      = ((s.dropVa l.cid l.va).dropAcc cl l.seq).onA cl fun a => a.enter 6 kind (BitVec.ofNat 64 l.va) false l.pc := by
  obtain ⟨modeD, sstatD, -⟩ := (s.dropVa l.cid l.va).dropAcc_spec cl l.seq
  have kept := s.cl_dropVa l.cid l.va cl
  simp only [State.accFault, running, own, if_true]
  rw [← own]
  refine State.takeTrap_of_enabled ?_ ?_ _ _ _ _ _
  · rw [modeD, kept]; exact mode
  · rw [sstatD, kept]; exact enabled

/-! ### A unit delivered poisoned to a command (R436, R478) -/

theorem State.history_onWord (s : State) (w : Nat × Nat) (f : Nat → Nat) : s.rel.history.length ≤ (s.onWord w f).rel.history.length := by
  have more (t : State) (r : ErrRec) : t.rel.history.length ≤ (t.deliver r).rel.history.length := by
    simp [State.deliver]
  simp only [State.onWord]
  split
  · exact more s _
  · generalize toBytes 8 _ = bs
    have written : s.rel.history.length ≤ (s.spWrite w.1 w.2 bs).rel.history.length := le_rfl
    simp only [State.softWrite]
    split
    · exact written.trans (more _ _)
    · exact written

theorem State.history_failCmd (s : State) (cl : Nat) (k : Cmd) (err : Nat) : s.rel.history.length ≤ (s.failCmd cl k err).rel.history.length := by
  have arrival : s.rel.history.length ≤ (s.arriveAt k.word (k.count - k.counted) err).rel.history.length := by
    cases k.word with
    | none => exact le_rfl
    | some w =>
      simp only [State.arriveAt]
      exact s.history_onWord w _
  simp only [State.failCmd]
  split <;> exact arrival

/-- A command that consumes poison has failed, and a record says so. -/
theorem State.cmdPoison_spec (s : State) (cl : Nat) (k : Cmd) (mem addr : Nat) :
    (s.cmdPoison cl k mem addr).cmd? cl k.id = none ∧ s.rel.history.length < (s.cmdPoison cl k mem addr).rel.history.length := by
  have more (r : ErrRec) : s.rel.history.length < (s.deliver r).rel.history.length := by simp [State.deliver]
  simp only [State.cmdPoison]
  split
  · exact ⟨State.cmd?_dropCmd _ _ _, (more _).trans_le (State.history_failCmd _ _ _ _)⟩
  · exact ⟨State.cmd?_dropCmd _ _ _, (more _).trans_le (State.history_failCmd _ _ _ _)⟩

theorem exec_networkFlitCrcFailure_cmd {s : State} {cl id j resends a : Nat} {k : Cmd} (found : s.cmd? cl id = some k) (last : 8 ≤ resends)
    (started : k.started = true) (plain : k.kind.plain = true) (reads : j < k.srcUnits) (src : k.src = .va a) (missing : k.got.contains j = false) :
    exec (.networkFlitCrcFailure cl (.cmd id) j resends) s = .next (s.cmdPoison cl k 1 (k.srcUnit j).a) := by
  have kind : (k.kind == .gather) = false ∧ k.kind.near = false := by
    cases h : k.kind <;> simp [h, CmdKind.plain] at plain <;> exact ⟨rfl, rfl⟩
  change execNetworkFlitCrcFailure cl (.cmd id) j resends s = _
  simp only [execNetworkFlitCrcFailure, Nat.not_lt.mpr last, if_false, found, State.netCmd, started, Bool.not_true, Bool.false_eq_true, kind.1,
    kind.2, Bool.false_and, reads, if_true, src, missing]

theorem refusalsAndBadFlits : Clause.RefusalsAndBadFlits := by
  unfold Clause.RefusalsAndBadFlits
  refine fun cl id s => ⟨fun l found => ⟨fun flipping p pa t walk => ⟨_, exec_accessRefusal_retry found flipping, ?retry⟩,
    fun offline running own mode enabled => ⟨_, exec_accessRefusal_offline found offline, ?offline⟩⟩,
    fun k j resends a found last started plain reads src missing =>
      ⟨_, exec_networkFlitCrcFailure_cmd found last started plain reads src missing, State.id_of_cmd? found ▸ State.cmdPoison_spec _ _ _ _ _⟩⟩
  all_goals
    have named : l.seq = id := by
      have := List.find?_some found
      simp only [Bool.and_eq_true, beq_iff_eq] at this
      exact this.1.1
    subst named
  case retry =>
    rw [State.retranslate_at walk, State.cl_onA_self]
    refine ⟨List.length_map _, fun m hm named => ?_⟩
    rw [← List.map_append] at hm
    obtain ⟨k, -, rfl⟩ := List.mem_map.mp hm
    exact Acc.placed_spec named
  case offline =>
    obtain ⟨-, -, gone⟩ := (s.dropVa l.cid l.va).dropAcc_spec cl l.seq
    rw [State.accFault_firmware running own mode enabled, State.cl_onA_self]
    exact ⟨rfl, rfl, rfl, gone⟩

/-! ### Bytes written to memory without poison (R434, R435) -/

theorem Memory.write_append (m : Memory) (a : Nat) (bs cs : List Byte) : m.write a (bs ++ cs) = (m.write a bs).write (a + bs.length) cs := by
  induction bs generalizing m a with
  | nil => rfl
  | cons b bs ih => rw [List.cons_append, Memory.write, ih, Memory.write, List.length_cons, Nat.add_assoc, Nat.add_comm 1]

/-- Where no unit is poisoned every chunk of a store arrives. -/
theorem foldl_writeChunk_unitChunks {u : Nat} (key : Nat → Nat) (hu : 0 < u) (k : Nat) (m : Memory) (a : Nat) {bs : List Byte} (le : bs.length ≤ k) :
    (unitChunks u k a bs).foldl (writeChunk u key) (m, []) = (m.write a bs, []) := by
  induction k generalizing m a bs with
  | zero => rw [List.eq_nil_of_length_eq_zero (Nat.le_zero.mp le)]; rfl
  | succ k ih =>
    cases bs with
    | nil => rfl
    | cons b bs =>
      have room : 1 ≤ u - a % u := by have := Nat.mod_lt a hu; omega
      have clean (c : Nat × List Byte) : writeChunk u key (m, []) c = (m.write c.1 c.2, []) := if_neg (by simp)
      have rest : ((b :: bs).drop (u - a % u)).length ≤ k := by simp only [List.length_drop, List.length_cons] at le ⊢; omega
      rw [unitChunks, List.foldl_cons, clean, ih _ _ rest]
      · by_cases fits : (b :: bs).length ≤ u - a % u
        · rw [List.take_of_length_le fits, List.drop_of_length_le fits]
          rfl
        · have len : ((b :: bs).take (u - a % u)).length = u - a % u := List.length_take_of_le (by omega)
          conv_rhs => rw [← List.take_append_drop (u - a % u) (b :: bs), Memory.write_append, len]
      · exact List.cons_ne_nil b bs

/-- Bytes written into a scratchpad without poison: they arrive, and it stays so. -/
theorem State.spWrite_clean {s : State} {cl : Nat} (clean : s.spBad cl = []) (a : Nat) (bs : List Byte) :
    (s.spWrite cl a bs).cl cl = { s.cl cl with sp := (s.cl cl).sp.write a bs } ∧ (s.spWrite cl a bs).spBad cl = [] := by
  have all := foldl_writeChunk_unitChunks (u := 32) id (by decide) bs.length (s.cl cl).sp a (le_refl bs.length)
  rw [← chunks] at all
  constructor
  · rw [State.cl_spWrite, clean, all, State.cl_onCl_self]
  · have none : (s.spWrite cl a bs).spPoison = s.spPoison.filter fun p => !(p.1 == s.phys cl) := by
      simp only [State.spWrite, State.overtake, all, clean, List.map_nil, List.append_nil]
    have place : (s.spWrite cl a bs).phys cl = s.phys cl := rfl
    rw [State.spBad, none, place]
    simp [List.filter_filter]

theorem State.spBad_eq_nil {s : State} {cl : Nat} (clean : ∀ u, s.spPoisoned cl u 1 = false) : s.spBad cl = [] := by
  refine List.eq_nil_iff_forall_not_mem.mpr fun g hg => ?_
  have here : s.spPoisoned cl (32 * g) 1 = true := List.any_eq_true.mpr ⟨g, hg, by simp; omega⟩
  rw [clean] at here
  cases here

theorem Memory.read_write_of_disjoint (m : Memory) {a b k : Nat} {bs : List Byte} (h : b + k ≤ a ∨ a + bs.length ≤ b) :
    (m.write a bs).read b k = m.read b k :=
  List.map_congr_left fun i hi => m.byte_write_of_outside a _ bs (by have := List.mem_range.mp hi; omega)

/-! ### A message at its ring (R78-R81) -/

/-- A message to a chip that has a path leaves, or waits at a port. -/
theorem State.posted_send (s : State) {dst : Nat} (m : Msg) (path : dst = s.dev.chip ∨ s.upPorts dst ≠ []) : posted (s.send dst m) dst m := by
  by_cases here : dst = s.dev.chip
  · rw [State.send, if_pos here]
    exact .inl (List.mem_append_right _ (List.mem_singleton_self _))
  · have ports := List.length_pos_iff.mpr (path.resolve_left here)
    have chosen : s.portFor dst ctlSource = some ((s.upPorts dst)[Config.pathHash dst ctlSource % Nat.max 1 (s.upPorts dst).length]'(by
        rw [show Nat.max 1 (s.upPorts dst).length = (s.upPorts dst).length from Nat.max_eq_right ports]
        exact Nat.mod_lt _ ports)) := List.getElem?_eq_getElem _
    generalize (s.upPorts dst)[Config.pathHash dst ctlSource % Nat.max 1 (s.upPorts dst).length]'_ = p at chosen
    simp only [State.send, if_neg here, chosen, State.sendOn]
    split
    · refine .inr ⟨p, ?_⟩
      rw [show (s.setPort p { s.port p with wait := (s.port p).wait ++ [(dst, m)] }).port p
        = { s.port p with wait := (s.port p).wait ++ [(dst, m)] } from NMap.get_set_self _ _ _]
      exact List.mem_append_right _ (List.mem_singleton_self _)
    · exact .inl (List.mem_append_right _ (List.mem_singleton_self _))

/-- The header, the payload and the zeros after it. -/
def mailBytes (m : MailMsg) : List Byte :=
  toBytes 8 (m.srcCl + m.srcChip * 2 ^ 8 + m.payload.length * 2 ^ 16 + m.tag % 2 ^ 32 * 2 ^ 32) ++ m.payload
    ++ List.replicate (56 - m.payload.length) 0

theorem length_mailBytes {m : MailMsg} (short : m.payload.length ≤ 56) : (mailBytes m).length = 64 := by
  simp only [mailBytes, List.length_append, length_toBytes, List.length_replicate]
  omega

section
variable {s : State} {m : MailMsg}

theorem State.enqueue_disabled (no : s.inService m.cl = false ∨ (s.cl m.cl).ctl.mbEn = false ∨ m.cid ≠ (s.cl m.cl).ctl.mbOwner) :
    s.enqueue m = some (.disabled, 0, s) := by
  have refused : (!s.inService m.cl || !(s.cl m.cl).ctl.mbEn || m.cid != (s.cl m.cl).ctl.mbOwner) = true := by
    rcases no with h | h | h <;> simp [h]
  simp only [State.enqueue, refused, if_true]

variable (serves : s.inService m.cl = true) (enabled : (s.cl m.cl).ctl.mbEn = true) (owned : m.cid = (s.cl m.cl).ctl.mbOwner)
include serves enabled owned

theorem State.enqueue_full (sound : s.mbHeadBad m.cl = false) (full : (s.cl m.cl).ctl.mbSize ≤ s.mbUsed m.cl) :
    s.enqueue m = some (.full, 0, s) := by
  simp only [State.enqueue, serves, enabled, owned, full, sound, Bool.not_true, Bool.false_or, bne_self_eq_false, Bool.false_eq_true, if_false,
    if_true]

/-- The ring with the message stored at TAIL and TAIL moved on. -/
def State.stored (s : State) (m : MailMsg) : State :=
  let c := (s.cl m.cl).ctl
  ((s.spWrite m.cl (c.mbSlot c.mbTail) (mailBytes m)).onCtl m.cl fun c => { c with mbTail := ((s.cl m.cl).ctl.mbTail + 1) % 2 ^ 32 }).spWriteN m.cl
    (c.mbBase + 8) 8 ((c.mbTail + 1) % 2 ^ 32)

theorem State.enqueue_delivered (room : s.mbUsed m.cl < (s.cl m.cl).ctl.mbSize)
    (free : m.srcChip ≠ s.dev.chip ∨ s.spBlocked m.srcCl none true m.cl ((s.cl m.cl).ctl.mbSlot (s.cl m.cl).ctl.mbTail) 64 = false)
    (buses : (s.cl m.cl).ctl.retrainEnd = none) (still : (s.cl m.cl).ctl.held = false) :
    s.enqueue m = some (.delivered, (s.cl m.cl).ctl.mbSize - (s.mbUsed m.cl + 1), s.stored m) := by
  have goes : (m.srcChip == s.dev.chip && s.spBlocked (if m.srcChip = s.dev.chip then m.srcCl else m.cl) none true m.cl
      ((s.cl m.cl).ctl.mbSlot (s.cl m.cl).ctl.mbTail) 64) = false := by
    rcases free with far | unblocked
    · simp [far]
    · by_cases h : m.srcChip = s.dev.chip <;> simp [h, unblocked]
  simp only [State.enqueue, serves, enabled, owned, Nat.not_le.mpr room, goes, buses, still, Bool.not_true, bne_self_eq_false,
    Bool.false_eq_true, if_false, Option.isSome_none, Bool.or_self]
  rfl

omit serves enabled owned in
/-- What the ring holds after a message has been stored in a scratchpad without poison. -/
theorem State.stored_spec (clean : s.spBad m.cl = []) (short : m.payload.length ≤ 56) :
    ((s.stored m).cl m.cl).ctl.mbTail = ((s.cl m.cl).ctl.mbTail + 1) % 2 ^ 32
      ∧ ((s.stored m).cl m.cl).sp.read ((s.cl m.cl).ctl.mbSlot (s.cl m.cl).ctl.mbTail) 64 = mailBytes m
      ∧ ((s.stored m).cl m.cl).sp.read ((s.cl m.cl).ctl.mbBase + 8) 8 = toBytes 8 (((s.cl m.cl).ctl.mbTail + 1) % 2 ^ 32) := by
  generalize hslot : (s.cl m.cl).ctl.mbSlot (s.cl m.cl).ctl.mbTail = slot
  have apart : (s.cl m.cl).ctl.mbBase + 8 + 8 ≤ slot := by rw [← hslot, Ctl.mbSlot]; omega
  have len := length_mailBytes short
  have lenTail := length_toBytes 8 (((s.cl m.cl).ctl.mbTail + 1) % 2 ^ 32)
  obtain ⟨first, still⟩ := State.spWrite_clean clean slot (mailBytes m)
  have cleanT : ((s.spWrite m.cl slot (mailBytes m)).onCtl m.cl fun c => { c with mbTail := ((s.cl m.cl).ctl.mbTail + 1) % 2 ^ 32 }).spBad m.cl = [] := still
  obtain ⟨second, -⟩ := State.spWrite_clean cleanT ((s.cl m.cl).ctl.mbBase + 8) (toBytes 8 (((s.cl m.cl).ctl.mbTail + 1) % 2 ^ 32))
  rw [State.stored, hslot, State.spWriteN, second, State.cl_onCtl_self, first]
  refine ⟨rfl, ?_, ?_⟩
  · rw [Memory.read_write_of_disjoint _ (.inr (by omega)), ← len, Memory.read_write_self]
  · conv_lhs => rw [← lenTail]
    exact Memory.read_write_self _ _ _

end

/-- Storing a message leaves the device's record, its ports, and the messages in flight. -/
theorem State.stored_frame (s : State) (m : MailMsg) :
    (s.stored m).dev = s.dev ∧ (s.stored m).ports = s.ports ∧ (s.stored m).mailFlight = s.mailFlight := by
  have keeps (t : State) (cl a : Nat) (bs : List Byte) :
      (t.spWrite cl a bs).dev = t.dev ∧ (t.spWrite cl a bs).ports = t.ports ∧ (t.spWrite cl a bs).mailFlight = t.mailFlight := ⟨rfl, rfl, rfl⟩
  simp only [State.stored, State.spWriteN, keeps, State.onCtl_dev, State.onCtl_ports, State.onCtl_mailFlight, and_self]

/-- The state after a message has reached this chip's ring, or has been refused there: one in flight within the chip is so no more. -/
def State.mailTaken (s : State) (m : MailMsg) (t : State) : State := if m.srcChip == s.dev.chip then { t with mailFlight := t.mailFlight.erase m } else t

theorem exec_mailboxEntryMsg {s : State} {m : MailMsg} (here : m.chip = s.dev.chip) (short : m.payload.length ≤ 56)
    (sender : m.srcChip = s.dev.chip ∧ s.mailFlight.contains m = true
      ∨ m.srcChip ≠ s.dev.chip ∧ s.fencedChip m.srcChip = false ∧ s.upPorts m.srcChip ≠ [])
    {st : MailStatus} {free : Nat} {t : State} (at_ : s.enqueue m = some (st, free, t)) :
    exec (.mailboxEntryMsg m) s = .next ((s.mailTaken m t).send m.srcChip (.mailAck m.srcCl m.id free st)) := by
  have counts : (m.chip != s.dev.chip || (m.srcChip == s.dev.chip && !s.mailFlight.contains m)
      || (!(m.srcChip == s.dev.chip) && s.fencedChip m.srcChip) || decide (56 < m.payload.length)) = false := by
    have := Nat.not_lt.mpr short
    obtain ⟨own, flying⟩ | ⟨far, served, -⟩ := sender
    · simp only [here, own, flying, this, bne_self_eq_false, beq_self_eq_true, Bool.not_true, Bool.and_false, Bool.false_and, Bool.or_self,
        decide_false]
    · simp only [here, beq_false_of_ne far, served, this, bne_self_eq_false, Bool.and_false, Bool.false_and, Bool.or_self, decide_false]
  change execMailboxEntryMsg m s = _
  simp only [execMailboxEntryMsg, counts, at_, Bool.false_eq_true, if_false]
  rfl

/-- The sender hears of it, if there is a path to it. -/
theorem State.posted_mailTaken {s t : State} {m : MailMsg} (dev : t.dev = s.dev) (ports : t.ports = s.ports)
    (path : m.srcChip = s.dev.chip ∨ s.upPorts m.srcChip ≠ []) (a : Msg) : posted ((s.mailTaken m t).send m.srcChip a) m.srcChip a := by
  have same : (s.mailTaken m t).dev = s.dev ∧ (s.mailTaken m t).ports = s.ports := by
    simp only [State.mailTaken]
    split <;> exact ⟨dev, ports⟩
  refine State.posted_send _ a ?_
  rw [State.upPorts, same.1]
  simp only [State.port, same.2]
  exact path

theorem SameBytes.mailTaken (s : State) (m : MailMsg) (a : Msg) : SameBytes s ((s.mailTaken m s).send m.srcChip a) := by
  refine .trans ?_ (State.Posts.send _ _ _ _).sameBytes
  simp only [State.mailTaken]
  split
  · exact .of_clusters rfl rfl fun _ => rfl
  · exact .refl _

/-! ### The answer to a message, and its retry (R80, R311) -/

theorem State.clusters_send_cl (s : State) (dst : Nat) (m : Msg) (src n : Nat) : (s.send dst m src).cl n = s.cl n := (State.Posts.send s dst m src).cl n

theorem State.cmd?_setCmd {s : State} {cl id : Nat} {k j : Cmd} (found : s.cmd? cl id = some k) (named : j.id = id) :
    (s.setCmd cl j).cmd? cl id = some j := by
  subst named
  rw [State.cmd?, State.setCmd, State.cl_onA_self]
  exact find?_map_replace Cmd.id found

section
variable {s : State} {cl id : Nat} {k : Cmd} (found : s.cmd? cl id = some k) (kind : k.kind = .msend)
include found kind

/-- The state without the answer, if it came within the chip. -/
def State.heard (s : State) (k : Cmd) (a : Msg) : State :=
  if bits k.aux 13 8 == s.dev.chip then { s with outbox := s.outbox.erase (s.dev.chip, a) } else s

theorem exec_mailboxAckMsg {free : Nat} {st : MailStatus} (started : k.started = true) (waits : k.stamp = none)
    (came : bits k.aux 13 8 = s.dev.chip → s.outbox.contains (s.dev.chip, Msg.mailAck cl id free st) = true) :
    exec (.mailboxAckMsg cl id free st) s = .next ((s.heard k (.mailAck cl id free st)).mailAnswer cl k free st) := by
  have heard : (bits k.aux 13 8 == s.dev.chip && !s.outbox.contains (s.dev.chip, Msg.mailAck cl id free st)) = false := by
    by_cases h : bits k.aux 13 8 = s.dev.chip
    · rw [came h]; simp
    · simp [h]
  change execMailboxAckMsg cl id free st s = _
  simp only [execMailboxAckMsg, found]
  rw [if_neg (by rw [heard]; simp [kind, started, waits])]
  rfl

theorem exec_mailboxRetry {since : Nat} (stamp : k.stamp = some since) (own : bits k.aux 13 8 = s.dev.chip)
    (served : s.fencedChip s.dev.chip = false) :
    exec (.mailboxRetry cl id) s = if s.clk < since + 256 then .next s
      else .next { s.setCmd cl { k with stamp := none } with mailFlight := s.mailFlight ++ [s.mailOf cl k] } := by
  have stays : (s.setCmd cl { k with stamp := none }).post k (s.mailOf cl k)
      = { s.setCmd cl { k with stamp := none } with mailFlight := s.mailFlight ++ [s.mailOf cl k] } := if_pos own
  rw [← stays]
  change execMailboxRetry cl id s = _
  simp only [execMailboxRetry, found, kind, stamp, own, served, Bool.false_eq_true, if_false]

end

/-- The send status of firmware's core changes. -/
theorem State.onSend_firmware (s : State) (cl : Nat) {k : Cmd} (mode : k.mode = .s) (f : SendStat → SendStat) :
    s.onSend cl k f = s.onA cl fun a => { a with send := f a.send } := if_pos mode

theorem State.cl_report (s : State) (src rung event cid code detail addr info tval n : Nat) :
    (s.report src rung event cid code detail addr info tval).cl n = s.cl n := rfl

/-- What an answer leaves of the sender's command and of its send status. -/
theorem State.mailAnswer_spec {s t : State} {cl id free : Nat} {k : Cmd} (st : MailStatus) (found : s.cmd? cl id = some k) (mode : k.mode = .s)
    (same : t.cl cl = s.cl cl) (clk : t.clk = s.clk) :
    (st = .delivered → (t.mailAnswer cl k free st).cmd? cl id = none ∧ ((t.mailAnswer cl k free st).cl cl).a.send
        = { (s.cl cl).a.send with free := free, clu := bits k.aux 7 0, chip := bits k.aux 13 8, valid := true })
      ∧ (st = .full → (t.mailAnswer cl k free st).cmd? cl id = some { k with stamp := some s.clk }
        ∧ ((t.mailAnswer cl k free st).cl cl).a.send = (s.cl cl).a.send)
      ∧ (st = .disabled → (t.mailAnswer cl k free st).cmd? cl id = none
        ∧ ((t.mailAnswer cl k free st).cl cl).a.send = { (s.cl cl).a.send with refused := true }) := by
  have named := State.id_of_cmd? found
  have foundT : t.cmd? cl id = some k := by rw [State.cmd?, same]; exact found
  refine ⟨?_, ?_, ?_⟩ <;> rintro rfl
  · rw [State.mailAnswer, named, State.onSend_firmware t cl mode]
    refine ⟨State.cmd?_dropCmd _ _ _, ?_⟩
    rw [State.dropCmd, State.cl_onA_self, State.cl_onA_self, same]
  · rw [State.mailAnswer, clk]
    refine ⟨State.cmd?_setCmd foundT named, ?_⟩
    rw [State.setCmd, State.cl_onA_self, same]
  · rw [State.mailAnswer, State.mailRefused, named, State.onSend_firmware t cl mode]
    refine ⟨State.cmd?_dropCmd _ _ _, ?_⟩
    rw [State.dropCmd, State.cl_onA_self, State.cl_report, State.cl_onA_self, same]

theorem mailboxes : Clause.Mailboxes := by
  unfold Clause.Mailboxes
  refine ⟨fun m s here short sender => ⟨fun no => ?disabled, fun serves enabled owned sound => ⟨fun full => ?full,
      fun room free buses still clean => ?delivered⟩⟩, fun cl id free s k found kind => ⟨fun st started waits came mode => ?ack,
      fun since stamp own served => ⟨fun early => ?early, fun late => ?retry⟩⟩⟩
  case ack =>
    have came : bits k.aux 13 8 = s.dev.chip → _ := came
    have same : (s.heard k (.mailAck cl id free st)).cl cl = s.cl cl ∧ (s.heard k (.mailAck cl id free st)).clk = s.clk := by
      simp only [State.heard]
      split <;> exact ⟨rfl, rfl⟩
    obtain ⟨delivered, full, disabled⟩ := State.mailAnswer_spec (free := free) st found mode same.1 same.2
    refine ⟨_, exec_mailboxAckMsg found kind started waits came, fun h => ?_, full, disabled⟩
    rw [← show bits k.aux 7 0 = k.aux % 256 from bits_low k.aux 7]
    exact delivered h
  case early =>
    have own : bits k.aux 13 8 = s.dev.chip := own
    exact (exec_mailboxRetry found kind stamp own served).trans (if_pos early)
  case retry =>
    have own : bits k.aux 13 8 = s.dev.chip := own
    have named := State.id_of_cmd? found
    refine ⟨_, s.mailOf cl k, (exec_mailboxRetry found kind stamp own served).trans (if_neg (by omega)), rfl, named, rfl,
      bits_low _ 7, rfl, ?_⟩
    exact (State.cmd?_setCmd (j := { k with stamp := none }) found named :)
  all_goals
    have path : m.srcChip = s.dev.chip ∨ s.upPorts m.srcChip ≠ [] := sender.imp And.left fun h => h.2.2
  case disabled =>
    exact ⟨_, exec_mailboxEntryMsg here short sender (State.enqueue_disabled no), State.posted_mailTaken rfl rfl path _, .mailTaken s m _⟩
  all_goals
    have good : s.mbHeadBad m.cl = false := by
      cases cons : (s.cl m.cl).ctl.mbCons
      · simp [State.mbHeadBad, sound cons]
      · simp [State.mbHeadBad, cons]
    have used : s.mbUsed m.cl = ((s.cl m.cl).ctl.mbTail + 2 ^ 32 - if (s.cl m.cl).ctl.mbCons then (s.cl m.cl).ctl.mbHead
        else ofBytes ((s.cl m.cl).sp.read (s.cl m.cl).ctl.mbBase 8) % 2 ^ 32) % 2 ^ 32 := by
      simp only [State.mbUsed, good, Bool.false_eq_true, if_false]
      rfl
  case full =>
    rw [← used] at full
    exact ⟨_, exec_mailboxEntryMsg here short sender (State.enqueue_full serves enabled owned good full), State.posted_mailTaken rfl rfl path _,
      .mailTaken s m _⟩
  case delivered =>
    rw [← used] at room ⊢
    have step := exec_mailboxEntryMsg here short sender (State.enqueue_delivered serves enabled owned room free buses still)
    obtain ⟨tail, slot, word⟩ := State.stored_spec (s := s) (State.spBad_eq_nil clean) short
    have ring (a : Msg) : ((s.mailTaken m (s.stored m)).send m.srcChip a).cl m.cl = (s.stored m).cl m.cl := by
      rw [State.cl_send]
      simp only [State.mailTaken]
      split <;> rfl
    obtain ⟨dev, ports, flight⟩ := s.stored_frame m
    refine ⟨_, step, State.posted_mailTaken dev ports path _, ?_⟩
    rw [ring]
    refine ⟨tail, slot, word, ?_⟩
    have flights (t : State) (a : Msg) : (t.send m.srcChip a).mailFlight = t.mailFlight := (congrArg State.mailFlight (State.Posts.send t _ a _).eq :)
    rw [flights, State.mailTaken]
    by_cases h : m.srcChip = s.dev.chip
    · rw [if_pos (beq_iff_eq.mpr h), if_pos h, flight]
    · rw [if_neg (by simpa using h), if_neg h, flight]

/-- Settles O37, of refused accesses and flits that fail, and of mailbox rings. -/
theorem refusalsAndMailboxes : Obligations.RefusalsAndMailboxes := ⟨refusalsAndBadFlits, mailboxes⟩

end Sys2Proof.Machine
end

section
/-! PROOFS. Where the forms that can wait complete, and what each of them leaves (R148-R150, R170, R295-R297, R374, R382, R387). -/

namespace Sys2Proof.Machine
open Sys2Proof

/-! ### Instructions that go on to the next one -/

theorem State.a_onA (s : State) (f : ACore → ACore) : (s.onA s.focus f).a = f s.a := congrArg Cluster.a (s.cl_onA_self s.focus f)

theorem State.a_advance (s : State) : s.advance.a = { s.a with pc := s.a.pc + 8, wait := none } := s.a_onA _

theorem State.g_advance (s : State) (r : BitVec 6) : s.advance.g r = s.g r := by
  rw [State.g, s.a_advance, State.g]
  rfl

/-- The instruction has completed in `t`: the core is at the next one and waits no more, and no byte of any memory has changed. -/
structure State.PassesTo (s t : State) : Prop where
  pc : t.a.pc = s.a.pc + 8
  wait : t.a.wait = none
  bytes : SameBytes s t

/-- An instruction that changes no byte and moves the pc past itself has completed. -/
theorem State.PassesTo.advance {s u : State} (pc : u.a.pc = s.a.pc) (same : SameBytes s u) : s.PassesTo u.advance := by
  refine ⟨?_, ?_, same.trans (.advance u)⟩
  · rw [u.a_advance, ← pc]
  · rw [u.a_advance]

theorem State.wait_result (s : State) (d : BitVec 6) (v : W64) : (s.result d v).a.wait = none := by rw [State.result, State.a_advance]

theorem State.PassesTo.result {s u : State} (pc : u.a.pc = s.a.pc) (same : SameBytes s u) (d : BitVec 6) (v : W64) :
    s.PassesTo (u.result d v) :=
  ⟨(u.result_spec d v).2.1.trans (by rw [pc]), u.wait_result d v, same.trans (.result u d v)⟩

/-- The form completes, and `p` holds of the state that it leaves. -/
theorem State.completes {s t : State} {i : Instr} {p : State → Prop} (step : exec i s = .next t) (passes : s.PassesTo t) (h : p t) :
    ∃ t, exec i s = .next t ∧ t.a.pc = s.a.pc + 8 ∧ t.a.wait = none ∧ SameBytes s t ∧ p t :=
  ⟨t, step, passes.pc, passes.wait, passes.bytes, h⟩

/-! ### Fences and windows (R148-R150, R295, R296) -/

section
variable {f : AF} {s : State}

/-- Without a pending access or a command every earlier access has performed. -/
theorem State.drained_of_idle {sc : Scope} {q m cl : Nat} (none : ∀ l ∈ (s.runA cl).accs, l.pending = false) (idle : s.runCmds cl = []) :
    (s.runA cl).drained (s.openCmds cl sc (s.runCmds cl)) cl q m sc = true := by
  have performed : (s.runA cl).accs.all (fun l => !(l.pending && decide (l.seq < q) && bit m l.cls && decide (l.rank cl ≤ scopeRank sc))) = true :=
    List.all_eq_true.mpr fun l hl => by simp [none l hl]
  rw [ACore.drained, performed, idle]
  rfl

theorem State.devDrained_of_idle (none : ∀ l ∈ (s.runA s.focus).accs, l.pending = false) (idle : s.runCmds s.focus = []) : s.devDrained = true :=
  State.drained_of_idle none idle

theorem exec_fence (none : ∀ l ∈ (s.runA s.focus).accs, l.pending = false) (idle : s.runCmds s.focus = []) :
    exec (.fence f) s = .next (s.acquired s.focus (scopeOf (bits f.imm.toNat 17 16))).advance :=
  show execFence f s = _ from if_pos (State.drained_of_idle none idle)

theorem scopeWide_scopeOf {n : Nat} (lt : n < 4) : scopeWide (scopeOf n) = decide (2 ≤ n) := by
  interval_cases n <;> rfl

theorem State.a_acquired (sc : Scope) : (s.acquired s.focus sc).a = { s.a with l1 := if scopeWide sc then [] else s.a.l1 } := by
  rw [State.acquired]
  cases scopeWide sc
  · rfl
  · exact s.a_onA fun a => { a with l1 := [] }

theorem SameBytes.acquired (cl : Nat) (sc : Scope) : SameBytes s (s.acquired cl sc) := by
  rw [State.acquired]
  split
  · exact .onA _ _ _
  · exact .refl s

theorem State.winsClear_of {m : Nat} (clear : ∀ i < 8, m.testBit i = true → s.winCount s.focus i = 0) : s.winsClear (bits m 7 0) = true := by
  refine List.all_eq_true.mpr fun i hi => ?_
  have lt := List.mem_range.mp hi
  rw [bits_low, bit, Nat.testBit_mod_two_pow, decide_eq_true (by omega : i < 7 + 1), Bool.true_and]
  cases h : m.testBit i
  · rfl
  · simp [clear i lt h]

theorem exec_fencew (clear : ∀ i < 8, f.imm.toNat.testBit i = true → s.winCount s.focus i = 0) :
    exec (.fencew f) s = .next (if scopeWide (scopeOf (bits f.imm.toNat 9 8)) then
      s.onA s.focus fun a => a.l1Windows (bits f.imm.toNat 7 0) else s).advance :=
  show execFencew f s = _ from if_pos (State.winsClear_of clear)

/-- The state with the windows of a mask among some emptied. -/
def State.clearWins (s : State) (mask : Nat) (l : List Nat) : State := l.foldl (fun s i => if bit mask i then s.setWin i none else s) s

theorem exec_wclr (clear : ∀ i < 8, f.imm.toNat.testBit i = true → s.winCount s.focus i = 0) :
    exec (.wclr f) s = .next (s.clearWins (bits f.imm.toNat 7 0) (List.range 8)).advance :=
  show execWclr f s = _ from if_pos (State.winsClear_of clear)

theorem State.a_setWin (i : Nat) (w : Option Window) : (s.setWin i w).a = { s.a with wins := NMap.set none s.a.wins i w } := s.a_onA _

theorem State.clearWins_spec (s : State) (mask : Nat) (l : List Nat) :
    SameBytes s (s.clearWins mask l) ∧ (s.clearWins mask l).a = { s.a with wins := (s.clearWins mask l).a.wins }
      ∧ ∀ j, NMap.get none (s.clearWins mask l).a.wins j = if j ∈ l ∧ bit mask j = true then none else NMap.get none s.a.wins j := by
  induction l generalizing s with
  | nil => exact ⟨.refl s, rfl, fun j => by simp [State.clearWins]⟩
  | cons i l ih =>
    rw [State.clearWins, List.foldl_cons, ← State.clearWins]
    cases set : bit mask i
    · obtain ⟨bytes, a, wins⟩ := ih s
      refine ⟨bytes, a, fun j => ?_⟩
      rw [if_neg Bool.false_ne_true, wins j]
      by_cases h : j = i
      · simp [h, set]
      · simp [h]
    · obtain ⟨bytes, a, wins⟩ := ih (s.setWin i none)
      rw [if_pos rfl]
      refine ⟨.trans (.onA _ _ _) bytes, a.trans (by rw [s.a_setWin]), fun j => ?_⟩
      rw [wins j, s.a_setWin, NMap.get_set]
      by_cases h : j = i
      · simp [h, set]
      · simp [h]

/-- WSET over a window that its locator and length give. -/
theorem exec_wset (ready : s.ready [f.sa, f.sb] = true) (free : s.winCount s.focus (bits f.imm.toNat 2 0) = 0)
    (form : locForm (s.g f.sa).toNat (spaceIn true true false) = none) (scope : s.locScope s.focus (s.g f.sa).toNat = none)
    (fits : (windowOf s.focus (s.g f.sa).toNat (s.g f.sb).toNat).fits = true) :
    exec (.wset f) s
      = .next (s.setWin (bits f.imm.toNat 2 0) (some (windowOf s.focus (s.g f.sa).toNat (s.g f.sb).toNat))).advance := by
  change execWset f s = _
  simp only [execWset, ready, form, scope, fits, orSpace, firstFlt, free, Bool.not_true, Bool.false_eq_true, if_false, if_true]

theorem locParse_va {v : Nat} (h : v < 2 ^ 52) : locParse v = some (.va v) := by
  have space : bits v 63 62 = 0 := by rw [bits]; omega
  have high : bits v 61 52 = 0 := by rw [bits]; omega
  have low : bits v 51 0 = v := by rw [bits_low]; omega
  rw [locParse, space, high, low]
  rfl

theorem locParse_sp {a : Nat} (h : a < 2 ^ 22) : locParse (2 ^ 62 + 255 * 2 ^ 22 + a) = some (.sp 255 a) := by
  have space : bits (2 ^ 62 + 255 * 2 ^ 22 + a) 63 62 = 1 := by rw [bits]; omega
  have high : bits (2 ^ 62 + 255 * 2 ^ 22 + a) 61 30 = 0 := by rw [bits]; omega
  have cluster : bits (2 ^ 62 + 255 * 2 ^ 22 + a) 29 22 = 255 := by rw [bits]; omega
  have low : bits (2 ^ 62 + 255 * 2 ^ 22 + a) 21 0 = a := by rw [bits_low]; omega
  rw [locParse, space, high, cluster, low]
  rfl

/-- WSET of a range of global memory. -/
theorem exec_wset_va {v len : Nat} (ready : s.ready [f.sa, f.sb] = true) (free : s.winCount s.focus (bits f.imm.toNat 2 0) = 0)
    (hv : (s.g f.sa).toNat = v) (hlen : (s.g f.sb).toNat = len) (some_ : 0 < len) (within : v + len ≤ 2 ^ 52) :
    exec (.wset f) s = .next (s.setWin (bits f.imm.toNat 2 0) (some { sp := false, cl := 0, base := v, len := len })).advance := by
  have parse := locParse_va (v := v) (by omega)
  have window : windowOf s.focus v len = { sp := false, cl := 0, base := v, len := len } := by simp only [windowOf, locEp, parse]
  subst hv hlen
  rw [← window]
  refine exec_wset ready free ?_ ?_ ?_
  · simp only [locForm, parse]; rfl
  · simp only [State.locScope, parse]
  · rw [window, Window.fits]
    simp only [Bool.false_eq_true, if_false, Bool.and_eq_true, bne_iff_ne, decide_eq_true_eq]
    omega

/-- WSET of a range of the issuer's own scratchpad. -/
theorem exec_wset_sp {a len : Nat} (ready : s.ready [f.sa, f.sb] = true) (free : s.winCount s.focus (bits f.imm.toNat 2 0) = 0)
    (hv : (s.g f.sa).toNat = 2 ^ 62 + 255 * 2 ^ 22 + a) (hlen : (s.g f.sb).toNat = len) (some_ : 0 < len) (within : a + len ≤ 0x300000) :
    exec (.wset f) s = .next (s.setWin (bits f.imm.toNat 2 0) (some { sp := true, cl := s.focus, base := a, len := len })).advance := by
  have parse := locParse_sp (a := a) (by omega)
  rw [← hv] at parse
  have window : windowOf s.focus (s.g f.sa).toNat len = { sp := true, cl := s.focus, base := a, len := len } := by
    simp only [windowOf, locEp, parse, if_true]
  subst hlen
  rw [← window]
  refine exec_wset ready free ?_ ?_ ?_
  · simp only [locForm, parse]; rfl
  · simp only [State.locScope, parse]; rfl
  · rw [window, Window.fits]
    simp only [if_true, Bool.and_eq_true, bne_iff_ne, decide_eq_true_eq]
    omega

theorem exec_wsetHandle (valid : s.handleCheck (s.runCid s.focus) (bits f.imm.toNat 31 16) = none)
    (readable : s.entryBad (s.htab (s.runCid s.focus) + 64 * bits f.imm.toNat 31 16) = false)
    (free : s.winCount s.focus (bits f.imm.toNat 2 0) = 0) :
    exec (.wsetHandle f) s = .next (s.setWin (bits f.imm.toNat 2 0)
      (some (s.handleWindow (s.runCid s.focus) (bits f.imm.toNat 31 16)))).advance := by
  change execWsetHandle f s = _
  simp only [execWsetHandle, State.handleUse, State.entryUse, readable, valid, free, Bool.and_false, Bool.false_eq_true, if_false, if_true]

end

/-! ### Instruction caches (R170, R297) -/

theorem State.logical_phys (s : State) (n : Nat) : s.logical (s.phys n) = some n := by
  by_cases below : n / 16 < s.skip (n % 16)
  · rw [State.phys, if_pos below, State.logical, if_pos below]
  · have row : (n + 16) / 16 = n / 16 + 1 := by omega
    have col : (n + 16) % 16 = n % 16 := by omega
    rw [State.phys, if_neg below, State.logical, row, col, if_neg (by omega), if_neg (by omega), Nat.add_sub_cancel]

theorem State.cl_icDropAll (s : State) (sel : Nat → Bool) (cid va len n : Nat) :
    (s.icDropAll sel cid va len).cl n = if sel n then (s.cl n).icDrop cid va len else s.cl n := by
  have mapped := s.cl_mapClusters (fun p c => if (s.logical p).any sel then c.icDrop cid va len else c) (fun p => by split <;> rfl) n
  rw [s.logical_phys, Option.any_some] at mapped
  exact mapped

theorem SameBytes.icDropAll (s : State) (sel : Nat → Bool) (cid va len : Nat) : SameBytes s (s.icDropAll sel cid va len) := by
  refine ⟨fun _ => rfl, fun _ => rfl, fun n b => ?_⟩
  rw [s.cl_icDropAll]
  split <;> exact ⟨rfl, rfl⟩

/-- The clusters in which ICINV drops lines by its scope. -/
def State.icScope (s : State) (sc : Scope) (n : Nat) : Bool :=
  match sc with
  | .cl => n == s.focus
  | .qd => quadOf n == quadOf s.focus
  | _ => true

theorem State.icScope_focus (s : State) (sc : Scope) : s.icScope sc s.focus = true := by
  cases sc <;> simp [State.icScope]

/-- The A-core without the lines of a range in its instruction cache. -/
theorem State.a_icDropAll (s : State) (sc : Scope) (cid va len : Nat) :
    (s.icDropAll (s.icScope sc) cid va len).a = ((s.cl s.focus).icDrop cid va len).a := by
  rw [State.a, State.cur]
  exact congrArg Cluster.a ((s.cl_icDropAll _ _ _ _ s.focus).trans (if_pos (s.icScope_focus sc)))

section
variable {f : AF} {s : State}

theorem exec_icinv (ready : s.ready [f.sa, f.sb] = true) (low : (s.g f.sa).toNat < 2 ^ 52) (within : (s.g f.sa).toNat + (s.g f.sb).toNat ≤ 2 ^ 52) :
    ((s.g f.sb).toNat = 0 → exec (.icinv f) s = .next s.advance)
      ∧ (0 < (s.g f.sb).toNat → scopeOf (bits f.imm.toNat 1 0) ≠ .sy → exec (.icinv f) s
          = .next (s.icDropAll (s.icScope (scopeOf (bits f.imm.toNat 1 0))) (s.runCid s.focus) (s.g f.sa).toNat (s.g f.sb).toNat).advance)
      ∧ ∀ i, 0 < (s.g f.sb).toNat → scopeOf (bits f.imm.toNat 1 0) = .sy → s.peers ≠ [] → s.a.wait.isSome = true →
          s.icinvs.find? (fun i => i.cl == some s.focus) = some i → s.icinvDone i = true →
          exec (.icinv f) s = .next ({ s with icinvs := s.icinvs.erase i } : State).advance := by
  have inRange : orSpace (decide ((s.g f.sa).toNat < 2 ^ 52) && decide ((s.g f.sa).toNat + (s.g f.sb).toNat ≤ 2 ^ 52)) kNonCanonical (s.g f.sa).toNat
      = none := if_pos (by rw [decide_eq_true low, decide_eq_true within]; rfl)
  have step : exec (.icinv f) s = execIcinv f s := rfl
  simp only [step, execIcinv, ready, inRange, Bool.not_true, Bool.false_eq_true, if_false]
  refine ⟨fun empty => if_pos empty, fun some_ near => ?_, fun i some_ far others waits mine done => ?_⟩
  · rw [if_neg (by omega), if_neg (by simp [near])]
    rfl
  · rw [if_neg (by omega), if_pos (by simp [far, others])]
    simp only [waits, if_true, mine, done]

theorem exec_icsync : exec (.icsync f) s
    = .next ((s.dropFetches (ReqBy.fetchOf s.focus false)).onA s.focus fun a => { a with icache := [] }).advance := rfl

/-! ### Control registers (R374, R382) -/

theorem State.csr_scratch (s : State) (cl : Nat) {n : Nat} (lo : 8 ≤ n) (hi : n ≤ 11) : s.csr cl n = (NMap.get 0 (s.cl cl).a.scr (n - 8)).toNat := by
  interval_cases n <;> rfl

theorem State.writeCsr_scratch (s : State) (cl v : Nat) {n : Nat} (lo : 8 ≤ n) (hi : n ≤ 11) :
    s.writeCsr cl n v = s.onA cl fun a => { a with scr := NMap.set 0 a.scr (n - 8) (BitVec.ofNat 64 v) } := by
  interval_cases n <;> rfl

theorem exec_csrrd (ready : s.ready [f.d] = true) :
    exec (.csrrd f) s = .next (s.result f.d (BitVec.ofNat 64 (s.csr s.focus (bits f.imm.toNat 11 0)))) :=
  show execCsrrd f s = _ from if_pos ready

theorem exec_csrwr (ready : s.ready [f.d, f.sa] = true) :
    exec (.csrwr f) s = .next ((s.writeCsr s.focus (bits f.imm.toNat 11 0) (s.g f.sa).toNat).result f.d
      (BitVec.ofNat 64 (s.csr s.focus (bits f.imm.toNat 11 0)))) :=
  show execCsrwr f s = _ from if_pos ready

/-- A register result leaves the scratch registers of the core. -/
theorem State.scr_result (s : State) (d : BitVec 6) (v : W64) : (s.result d v).a.scr = s.a.scr := by
  have set : (s.setG d v).a.scr = s.a.scr := by
    rw [State.setG, State.a, State.cur, State.onCl_focus, State.cl_onCl_self, Cluster.setG]
    split <;> rfl
  rw [State.result, State.a_advance, set]

/-! ### Translations (R387) -/

/-- A property of every entry of a table after its values have been mapped. -/
theorem NMap.forall_mapVals {α : Type} [DecidableEq α] {d : α} {g : Nat → α → α} {p : α → Prop} {m : NMap α}
    (h : ∀ e ∈ m, p (g e.1 e.2)) : ∀ e ∈ NMap.mapVals d g m, p e.2 := by
  have cons (k : Nat) (v : α) (l : NMap α) : ∀ e ∈ NMap.cons d k v l, e = (k, v) ∨ e ∈ l := by
    intro e he
    cases l with
    | nil =>
      rw [NMap.cons] at he
      split at he
      · cases he
      · exact .inl (by simpa using he)
    | cons x l =>
      obtain ⟨k', v'⟩ := x
      rw [NMap.cons] at he
      split at he
      · exact .inr he
      · exact List.mem_cons.mp he
  induction m with
  | nil => intro e he; cases he
  | cons x m ih =>
    obtain ⟨k, v⟩ := x
    intro e he
    rcases cons _ _ _ e he with rfl | he
    · exact h (k, v) List.mem_cons_self
    · exact ih (fun e he => h e (List.mem_cons_of_mem _ he)) e he

/-- Without accesses and requests nothing is on its way under a translation. -/
theorem State.quiet_of_idle (sc : ShootScope) (reqs : s.reqs = []) (host : s.host.reqs = [])
    (cores : ∀ e ∈ s.clusters, e.2.a.loads = [] ∧ e.2.a.stores = []) (num : Nat) : (s.dropTranslations sc).quiet sc num = true := by
  have still : ∀ e ∈ (s.dropTranslations sc).clusters, e.2.a.loads = [] ∧ e.2.a.stores = [] := by
    refine NMap.forall_mapVals (p := fun c : Cluster => c.a.loads = [] ∧ c.a.stores = []) fun e he => ?_
    exact cores e he
  have reqsD : (s.dropTranslations sc).reqs = [] := reqs
  have hostD : (s.dropTranslations sc).host.reqs = [] := host
  simp only [State.quiet, reqsD, hostD, List.all_nil, Bool.and_true]
  refine List.all_eq_true.mpr fun e he => ?_
  obtain ⟨loads, stores⟩ := still e he
  simp only [loads, stores, List.all_nil, Bool.and_self]

theorem State.a_dropTranslations (sc : ShootScope) :
    (s.dropTranslations sc).a = { s.a with tlb := (s.dropTranslations sc).a.tlb } := by
  obtain ⟨keep, kept⟩ := s.cl_dropTranslations sc
  have here : (s.dropTranslations sc).a = ((s.cl s.focus).keepTlbs keep).a := congrArg Cluster.a (kept s.focus)
  rw [here]
  rfl

end

/-! ### The forms (R148-R150, R170, R295-R297, R374, R382, R387) -/

/-- A window set on the way past the instruction: the registers stay, and the window is the one that was set. -/
theorem State.setWin_advance_spec (s : State) (i : Nat) (w : Option Window) :
    s.PassesTo (s.setWin i w).advance ∧ (∀ r, (s.setWin i w).advance.g r = s.g r) ∧ NMap.get none (s.setWin i w).advance.a.wins i = w := by
  refine ⟨.advance (by rw [s.a_setWin]) (.onA _ _ _), fun r => ?_, ?_⟩
  · rw [State.g_advance, State.g, s.a_setWin]
    rfl
  · rw [State.a_advance, s.a_setWin]
    exact NMap.get_set_self _ _ _

/-- A state with the registers and the pc of another. -/
theorem State.g_of_a {s u : State} (h : u.a.g = s.a.g) (r : BitVec 6) : u.advance.g r = s.g r := by
  rw [State.g_advance, State.g, State.g, ACore.reg, ACore.reg, h]

theorem formsComplete : Clause.FormsComplete := by
  unfold Clause.FormsComplete
  intro f s
  dsimp only
  simp only [show f.imm.toNat % 8 = bits f.imm.toNat 2 0 from (bits_low _ 2).symm,
    show f.imm.toNat % 4 = bits f.imm.toNat 1 0 from (bits_low _ 1).symm,
    show f.imm.toNat % 4096 = bits f.imm.toNat 11 0 from (bits_low _ 11).symm]
  refine ⟨fun none idle => ?fence, fun clear => ?fencew, fun clear => ?wclr, fun ready free some_ => ⟨fun within => ?wsetVa, fun a hv within => ?wsetSp⟩,
    fun valid readable free => ?wsetHandle, fun ready low within => ⟨fun empty => ?icinvEmpty, fun some_ near => ?icinv,
      fun i some_ far others waits mine done => ?icinvDone⟩, ?icsync, fun ready => ?csrrd, fun ready lo hi => ?csrwr,
    fun ready good none idle => ⟨fun empty => ?tlbinvEmpty, fun reqs host cores full => ?tlbinv, fun fresh empty => ?shootEmpty⟩,
    fun x ready good waits mine done => ?shoot⟩
  case fence =>
    have a := s.a_acquired (scopeOf (bits f.imm.toNat 17 16))
    refine State.completes (exec_fence none idle) (.advance (by rw [a]) (.acquired _ _)) ⟨State.g_of_a (by rw [a]), ?_⟩
    rw [State.a_advance, a]
    refine if_congr ?_ rfl rfl
    rw [scopeWide_scopeOf (n := bits f.imm.toNat 17 16) (Nat.mod_lt _ (by decide)), decide_eq_true_eq]
    rfl
  case fencew =>
    refine State.completes (exec_fencew clear) (.advance ?_ ?_) ⟨State.g_of_a ?_, ?_⟩
    · split
      · rw [State.a_onA]; rfl
      · rfl
    · split
      · exact .onA _ _ _
      · exact .refl s
    · split
      · rw [State.a_onA]; rfl
      · rfl
    · rw [State.a_advance]
      split
      · rw [State.a_onA]; rfl
      · rfl
  case wclr =>
    obtain ⟨bytes, a, wins⟩ := s.clearWins_spec (bits f.imm.toNat 7 0) (List.range 8)
    refine State.completes (exec_wclr clear) (.advance (by rw [a]) bytes) ⟨State.g_of_a (by rw [a]), fun i hi => ?_⟩
    rw [State.a_advance]
    refine (wins i).trans ?_
    rw [bits_low, bit, Nat.testBit_mod_two_pow, decide_eq_true (by omega : i < 7 + 1), Bool.true_and]
    simp only [List.mem_range, hi, true_and]
  case wsetVa =>
    obtain ⟨passes, regs, set⟩ := s.setWin_advance_spec (bits f.imm.toNat 2 0)
      (some { sp := false, cl := 0, base := (s.g f.sa).toNat, len := (s.g f.sb).toNat })
    exact State.completes (exec_wset_va ready free rfl rfl some_ within) passes ⟨regs, set⟩
  case wsetSp =>
    obtain ⟨passes, regs, set⟩ := s.setWin_advance_spec (bits f.imm.toNat 2 0) (some { sp := true, cl := s.focus, base := a, len := (s.g f.sb).toNat })
    exact State.completes (exec_wset_sp ready free hv rfl some_ within) passes ⟨regs, set⟩
  case wsetHandle =>
    obtain ⟨passes, regs, set⟩ := s.setWin_advance_spec (bits f.imm.toNat 2 0)
      (some (s.handleWindow (s.runCid s.focus) (bits f.imm.toNat 31 16)))
    exact State.completes (exec_wsetHandle valid readable free) passes ⟨regs, set⟩
  case icinvEmpty =>
    exact State.completes ((exec_icinv ready low within).1 empty) (.advance rfl (.refl s)) ⟨s.g_advance, by rw [s.a_advance]⟩
  case icinv =>
    have a := s.a_icDropAll (scopeOf (bits f.imm.toNat 1 0)) (s.runCid s.focus) (s.g f.sa).toNat (s.g f.sb).toNat
    have notSy : scopeOf (bits f.imm.toNat 1 0) ≠ .sy := by interval_cases bits f.imm.toNat 1 0 <;> decide
    refine State.completes ((exec_icinv ready low within).2.1 some_ notSy) (.advance (by rw [a]; rfl) (.icDropAll _ _ _ _ _))
      ⟨State.g_of_a (by rw [a]; rfl), fun l => ?_⟩
    rw [State.a_advance, a]
    simp only [Cluster.icDrop, List.mem_filter, ← Bool.not_eq_true, Bool.not_eq_true', Bool.and_eq_true, beq_iff_eq, decide_eq_true_eq, and_assoc]
    rfl
  case icinvDone =>
    have sy : scopeOf (bits f.imm.toNat 1 0) = .sy := by rw [far]; rfl
    exact State.completes ((exec_icinv ready low within).2.2 i some_ sy others waits mine done)
      (.advance rfl (.of_clusters rfl rfl fun _ => rfl)) ⟨State.g_of_a rfl, rfl⟩
  case icsync =>
    have a : ((s.dropFetches (ReqBy.fetchOf s.focus false)).onA s.focus fun a => { a with icache := [] }).a = { s.a with icache := [] } :=
      (s.dropFetches (ReqBy.fetchOf s.focus false)).a_onA _
    refine State.completes exec_icsync (.advance (by rw [a]) (.trans (.of_clusters rfl rfl fun _ => rfl) (.onA _ _ _)))
      ⟨State.g_of_a (by rw [a]), by rw [State.a_advance, a], fun r hr => ?_⟩
    simpa using (List.mem_filter.mp hr).2
  case csrrd =>
    obtain ⟨regs, pc, -⟩ := s.result_spec f.d (BitVec.ofNat 64 (s.csr s.focus (bits f.imm.toNat 11 0)))
    exact ⟨_, exec_csrrd ready, pc, regs⟩
  case csrwr =>
    have step := exec_csrwr ready
    have a := s.a_onA fun a => { a with scr := NMap.set 0 a.scr (bits f.imm.toNat 11 0 - 8) (BitVec.ofNat 64 (s.g f.sa).toNat) }
    rw [s.writeCsr_scratch s.focus (s.g f.sa).toNat lo hi] at step
    refine ⟨_, step, (State.result_spec _ _ _).2.1.trans (by rw [a]), ?_, fun r => ((State.result_spec _ _ _).1 r).trans ?_⟩
    · rw [State.csr_scratch _ _ lo hi]
      show BitVec.toNat (NMap.get 0 (State.result _ _ _).a.scr _) = _
      rw [State.scr_result, a, NMap.get_set_self, BitVec.ofNat_toNat, BitVec.setWidth_eq]
    · rw [State.g, a]
      rfl
  case tlbinvEmpty =>
    have two : s.ready [f.sa, f.sb] = true := State.ready_of_subset ready (by simp)
    have step := exec_tlbinv two good
    rw [if_pos (State.devDrained_of_idle none idle), if_pos empty] at step
    exact State.completes step (.advance rfl (.refl s)) s.g_advance
  case tlbinv =>
    have two : s.ready [f.sa, f.sb] = true := State.ready_of_subset ready (by simp)
    have step := exec_tlbinv two good
    rw [if_pos (State.devDrained_of_idle none idle), if_neg (by simp [full]), if_pos (State.quiet_of_idle _ reqs host cores _)] at step
    have a := s.a_dropTranslations (s.invScope f)
    exact State.completes step (.advance (by rw [a]) (.dropTranslations _ _)) ⟨State.g_of_a (by rw [a]), rfl, by rw [State.a_advance]⟩
  case shootEmpty =>
    have step := exec_shoot_first ready good fresh (State.devDrained_of_idle none idle)
    rw [if_pos empty] at step
    exact State.completes step (.result (s := s) (u := s.shootFree) rfl (.of_clusters rfl rfl fun _ => rfl) _ _) (s.shootFree.result_spec f.d 0).1
  case shoot =>
    obtain ⟨regs, pc, -⟩ := (s.endShoot x.id).result_spec f.d x.fencedMask
    exact ⟨_, exec_shoot_done ready good waits mine done, pc, regs⟩

end Sys2Proof.Machine
end

section
/-! PROOFS. What the rows that write a control register leave, and where waits end: SEMP, BGIVE and TXBEGIN (R44, R73, R130, R285, R309, R310,
R374, R378, R390, R442-R444). -/

namespace Sys2Proof.Machine
open Sys2Proof

/-! ### Rows that write a control register (R374, R378, R390, R442-R444) -/

/-- TAIL moves forward within the records of the ring. -/
theorem Dev.erTail_writeErtail {d : Dev} {v : Nat} (lo : d.erTail ≤ v % 2 ^ 32) (hi : v % 2 ^ 32 ≤ d.erHead) (lt : d.erHead < d.erSize) :
    (d.writeErtail v).erTail = v % 2 ^ 32 := by
  have number : bits v 31 0 % d.erSize = v % 2 ^ 32 := by rw [bits_low, Nat.mod_eq_of_lt (hi.trans_lt lt)]
  have behind (a : Nat) (low : d.erTail ≤ a) (la : a < d.erSize) : (a + d.erSize - d.erTail) % d.erSize = a - d.erTail := by
    rw [show a + d.erSize - d.erTail = a - d.erTail + d.erSize by omega, Nat.add_mod_right, Nat.mod_eq_of_lt (by omega)]
  simp only [Dev.writeErtail, Dev.erCount, number, behind _ lo (hi.trans_lt lt), behind _ (lo.trans hi) lt]
  rw [if_pos (by omega)]

theorem registerRowsComplete : Clause.RegisterRowsComplete := by
  unfold Clause.RegisterRowsComplete
  refine fun cl v s => ⟨⟨_, rfl, ?pend⟩, ⟨_, rfl, ?erbase⟩, ⟨_, rfl, ?erhead⟩, fun lo hi lt => ⟨_, rfl, Dev.erTail_writeErtail lo hi lt⟩,
    fun idle => ⟨_, rfl, ?ls⟩, ⟨_, rfl, ?mbox⟩, ⟨_, rfl, ?alm⟩, _, rfl, ?tvec⟩
  case pend =>
    show ((s.onA cl fun a => a.writePend v.toNat).cl cl).a.pend = _
    rw [State.cl_onA_self]
    show (s.cl cl).a.pend &&& ~~~keep 7 v.toNat = _
    rw [keep_toNat]
    rfl
  case erbase =>
    show (s.dev.writeErbase v.toNat).erbase = _
    have word : (s.dev.writeErbase v.toNat).erbase = BitVec.ofNat 64 v.toNat &&& erbaseMask := by
      simp only [Dev.writeErbase]
      split <;> rfl
    rw [word, BitVec.ofNat_toNat, BitVec.setWidth_eq]
    rfl
  case erhead =>
    show (s.dev.writeErhead v.toNat).erOvf = _ ∧ (s.dev.writeErhead v.toNat).erHead = _
    have one : bit v.toNat 63 = v.getLsbD 63 := rfl
    rw [Dev.writeErhead, one]
    cases v.getLsbD 63 <;> simp
  case ls =>
    show ((s.onX cl fun x => x.writeFlags 0x039 v.toNat).cl cl).x.ls = _
    rw [State.cl_onX_self]
    simp only [XCore.writeFlags, idle, bits_low]
    rfl
  case mbox =>
    show ((s.onCtl cl fun c => c.writeMbox v.toNat).cl cl).ctl.mbox = _
    rw [State.cl_onCtl_self]
    exact keep_toNat _ v
  case alm => exact keep_toNat _ v
  case tvec =>
    rw [State.cl_onCl_self]
    show clear3 (BitVec.ofNat 64 v.toNat) = _
    rw [BitVec.ofNat_toNat, BitVec.setWidth_eq]
    rfl

/-! ### Waits that end (R73, R130, R285, R309, R310) -/

/-- With nothing issued past the instruction that waited its end is all there is. -/
theorem State.caughtUp_of_none {s : State} (h : (s.a.wait.bind fun w => w.ahead) = none) (t : State) : s.caughtUp t = t := by
  simp only [State.caughtUp, h]

theorem State.ctx_caughtUp (s t : State) (cid : Nat) : (s.caughtUp t).ctx cid = t.ctx cid := by
  simp only [State.caughtUp]
  split
  · split <;> rfl
  · rfl

/-- The state seen from a cluster. -/
def State.at_ (s : State) (cl : Nat) : State := { s with focus := cl }

theorem State.a_at (s : State) (cl : Nat) : (s.at_ cl).a = (s.cl cl).a := rfl

theorem State.sameBytes_at (s : State) (cl : Nat) : SameBytes s (s.at_ cl) := .of_clusters rfl rfl fun _ => rfl

theorem State.a_putSem (s : State) (k v : Nat) : (s.putSem k v).a = { s.a with sems := NMap.set 0 s.a.sems k v } := s.a_onA _

theorem State.passesTo_putSem (s : State) (k v : Nat) : s.PassesTo (s.putSem k v).advance := .advance (by rw [s.a_putSem]) (.onA _ _ _)

theorem exec_waiterSatisfied_semp {s : State} {cl : Nat} {w : Wait} (waits : (s.cl cl).a.wait = some w) (kind : w.kind = .semp) :
    exec (.waiterSatisfied cl) s = (s.at_ cl).waited (execSemp w.f (s.at_ cl)) := by
  change execWaiterSatisfied cl s = _
  simp only [execWaiterSatisfied, waits, kind]
  rfl

theorem exec_bgiveReleaseDone_none {s : State} {cl : Nat} {w : Wait} (waits : (s.cl cl).a.wait = some w) (kind : w.kind = .bgive)
    (none : bits w.f.imm.toNat 10 8 = 4) : exec (.bgiveReleaseDone cl) s = execBgiveNone w.f (s.at_ cl) := by
  change execBgiveReleaseDone cl s = _
  simp only [execBgiveReleaseDone, waits, kind, none, if_true]
  rfl

theorem exec_txbeginOpen {s : State} {cl cid slot : Nat} {f : AF} (waits : s.txWaiter cid slot = some (cl, f)) :
    exec (.txbeginOpen cid slot) s = (s.at_ cl).waited (execTxbegin f (s.at_ cl)) := by
  change execTxbeginOpen cid slot s = _
  simp only [execTxbeginOpen, waits]
  rfl

/-- SEMP over a count that suffices, when no X-core has waited longer. -/
theorem execSemp_enough {s : State} {f : AF} (enough : bits f.imm.toNat 31 16 ≤ s.semOf (bits f.imm.toNat 3 0)) (acquired : s.a.acqPending = false)
    (alone : s.x.freeze ≠ some (.sem (bits f.imm.toNat 3 0))) :
    execSemp f s = .next (s.putSem (bits f.imm.toNat 3 0) (s.semOf (bits f.imm.toNat 3 0) - bits f.imm.toNat 31 16)).advance := by
  have free (n : Nat) : s.xsempFirst (bits f.imm.toNat 3 0) n = false := by
    simp only [State.xsempFirst, beq_false_of_ne alone, Bool.false_and]
  exact if_pos (by simp [enough, acquired, free])

/-- BGIVE to none of a buffer that the cluster holds, once nothing of the core meets it. -/
theorem execBgiveNone_drained {s : State} {f : AF} (holds : s.holdsBuf (s.buf (quadOf s.focus) (bufNo f)) = true)
    (drained : s.a.rangeDrained (s.a.cmds ++ s.runCmds s.focus) (s.homeCl (s.buf (quadOf s.focus) (bufNo f)))
      ((s.buf (quadOf s.focus) (bufNo f)).base * 16384) ((s.buf (quadOf s.focus) (bufNo f)).len * 16384) = true)
    (records : s.recordsClear (s.buf (quadOf s.focus) (bufNo f)) = true) (seen : (s.runA s.focus).seenPending s.focus s.a.seq .qd = false) :
    execBgiveNone f s = .next (s.setBuf (quadOf s.focus) (bufNo f) Buf.free).advance := by
  rw [execBgiveNone, if_neg (by simp [holds]), State.give]
  exact if_pos (by simp [drained, records, seen])

/-- A slot that opens without votes that came before it, on a chip of its own mask. -/
theorem State.tx_openTx {s : State} {cid slot txid : Nat} {mask : BitVec 64} (wins : List (Nat × Nat)) (ps : List Nat) (word : Option (Nat × Nat))
    (begun : Nat) (free : (s.ctx cid).tx slot = Tx.free) (member : mask.getLsbD s.dev.chip = true) :
    ((s.openTx cid slot txid mask wins ps word begun).ctx cid).tx slot
      = { Tx.free with st := .open, txid := txid, mask := mask, windows := wins, word := word, cl := s.focus, begun := begun } := by
  have staged (u : State) (g : State → Nat → Nat) :
      (ps.foldl (fun s p => s.setTag p (g s p)) u).ctxs = u.ctxs ∧ (ps.foldl (fun s p => s.setTag p (g s p)) u).dev = u.dev :=
    List.foldlRecOn ps _ (motive := fun t : State => t.ctxs = u.ctxs ∧ t.dev = u.dev) ⟨rfl, rfl⟩ fun t ht p _ => ht
  have early : ((s.ctx cid).tx slot).early = [] := by rw [free]; rfl
  simp only [State.openTx, early, List.foldl_nil, ite_self]
  rw [if_neg (by rw [(staged _ _).2]; simp [member])]
  rw [State.ctx, (staged _ _).1, ← State.ctx, State.ctx_onCtx]
  exact NMap.get_set_self _ _ _

/-- TXBEGIN over windows whose pages all pass, at a free slot. -/
theorem execTxbegin_opens {s t : State} {f : AF} {ws : List (Nat × Nat)} {p : Nat} {ps : List Nat} (ready : s.ready [f.d, f.sa, f.sb] = true)
    (word : s.txbeginErr f = none) (free : (s.ctx (s.runCid s.focus)).tx (bits f.imm.toNat 1 0) = Tx.free)
    (windows : s.a.txWindows (bits f.imm.toNat 9 2) = some ws) (pages : s.allPages (s.runCid s.focus) ws [] false = (.ok p, ps, false, t)) :
    ∃ begun, execTxbegin f s = .next ((t.openTx (s.runCid s.focus) (bits f.imm.toNat 1 0) (bits f.imm.toNat 31 16) (t.g f.sb) ws ps
      (wordOf t.focus (s.g f.sa).toNat) begun).result f.d 0) := by
  have st : (((s.ctx (s.runCid s.focus)).tx (bits f.imm.toNat 1 0)).st != TxSt.free) = false := by rw [free]; rfl
  simp only [execTxbegin, ready, word, st, windows, pages, Bool.not_true, Bool.false_eq_true, if_false]
  exact ⟨_, rfl⟩

theorem waitersComplete : Clause.WaitersComplete := by
  unfold Clause.WaitersComplete
  intro cl s w waits
  dsimp only
  simp only [show w.f.imm.toNat % 16 = bits w.f.imm.toNat 3 0 from (bits_low _ 3).symm,
    show w.f.imm.toNat % 4 = bits w.f.imm.toNat 1 0 from (bits_low _ 1).symm,
    show w.f.imm.toNat % 64 = bits w.f.imm.toNat 5 0 from (bits_low _ 5).symm]
  refine ⟨fun kind none enough acquired alone => ?semp, fun kind none st who drained records seen => ?bgive,
    fun kind cid slot ws p ps t hslot hcid waiter ready word free windows pages freeT member => ?txbegin⟩
  case semp =>
    have step := exec_waiterSatisfied_semp waits kind
    have last : ((s.at_ cl).a.wait.bind fun w => w.ahead) = .none := by rw [State.a_at, waits]; exact none
    rw [execSemp_enough (s := s.at_ cl) enough acquired alone, State.waited, State.caughtUp_of_none last] at step
    have passes := (s.at_ cl).passesTo_putSem (bits w.f.imm.toNat 3 0) ((s.at_ cl).semOf (bits w.f.imm.toNat 3 0) - bits w.f.imm.toNat 31 16)
    refine ⟨_, step, passes.pc, passes.wait, .trans (s.sameBytes_at cl) passes.bytes, fun j => ?_⟩
    refine (congrArg (fun a : ACore => NMap.get 0 a.sems j) (State.a_advance _)).trans ?_
    rw [State.a_putSem]
    exact NMap.get_set _ _ _ _
  case bgive =>
    have step := exec_bgiveReleaseDone_none waits kind none
    have holds : (s.at_ cl).holdsBuf ((s.at_ cl).buf (quadOf cl) (bufNo w.f)) = true := by
      have st : ((s.at_ cl).buf (quadOf cl) (bufNo w.f)).st = 1 := st
      have who : ((s.at_ cl).buf (quadOf cl) (bufNo w.f)).who = quadPos cl := who
      rw [State.holdsBuf, st, who]
      show (1 == 1 && quadPos cl == quadPos cl) = true
      simp
    rw [execBgiveNone_drained (s := s.at_ cl) holds drained records seen] at step
    have passes : (s.at_ cl).PassesTo _ := .advance (u := (s.at_ cl).setBuf (quadOf cl) (bufNo w.f) Buf.free) rfl (.of_clusters rfl rfl fun _ => rfl)
    exact ⟨_, step, passes.pc, passes.wait, .trans (s.sameBytes_at cl) passes.bytes, NMap.get_set_self _ _ _⟩
  case txbegin =>
    subst hslot hcid
    obtain ⟨begun, opens⟩ := execTxbegin_opens (s := s.at_ cl) ready word free windows pages
    have x := State.tx_openTx (txid := bits w.f.imm.toNat 31 16) ws ps (wordOf t.focus ((s.at_ cl).g w.f.sa).toNat) begun freeT member
    refine ⟨_, (exec_txbeginOpen waiter).trans (congrArg _ opens), ?_⟩
    rw [State.ctx_caughtUp]
    exact ⟨congrArg Tx.st x, congrArg Tx.txid x⟩

/-- Settles O60, of the forms that can wait, of the rows that write a control register, and of the waits that end. -/
theorem waitingFormsComplete : Obligations.WaitingFormsComplete := ⟨formsComplete, registerRowsComplete, waitersComplete⟩

end Sys2Proof.Machine
end

section
/-! PROOFS. Upkeep: tower banks that sleep, are refreshed and move to a spare, the temperature, the grants of an interval, and retraining (R88-R94,
R473-R477). -/

namespace Sys2Proof.Machine
open Sys2Proof

/-! ### Sleep and refresh (R90-R93) -/

theorem Ctl.bankRefreshing_bank (c : Ctl) (cell : Nat) {bank : Nat} (hb : bank < 16) :
    c.bankRefreshing (16 * cell + bank) = NMap.get false c.refreshing bank := by
  rw [Ctl.bankRefreshing, show (16 * cell + bank) % 16 = bank by omega]

theorem exec_retentionSleepEntry {s : State} {cl cell bank : Nat} (hc : cell < 64) (hb : bank < 16)
    (quiet : NMap.get false (s.cl cl).ctl.refreshing bank = false) (idle : NMap.get 0 (s.cl cl).ctl.lastAcc (16 * cell + bank) + 2048 ≤ s.clk) :
    exec (.retentionSleepEntry cl cell bank) s
      = .next (s.onCtl cl fun c => { c with asleep := NMap.set false c.asleep (16 * cell + bank) true }) := by
  change execRetentionSleepEntry cl cell bank s = _
  simp [execRetentionSleepEntry, Ctl.bankRefreshing_bank _ cell hb, quiet, show ¬ 64 ≤ cell by omega, show ¬ 16 ≤ bank by omega,
    show ¬ s.clk < NMap.get 0 (s.cl cl).ctl.lastAcc (16 * cell + bank) + 2048 by omega]

/-- A refresh whose time has come starts where the access of the next vcyc leaves its bank alone. -/
theorem exec_almanacRefreshDue_starts {s : State} {cl bank : Nat} (hb : bank < 16)
    (quiet : NMap.get false (s.cl cl).ctl.refreshing bank = false) (due : s.refreshAt cl bank ≤ s.gtc)
    (free : ∀ k ∈ (s.cl cl).x.banksAt ((s.cl cl).x.vcyc + 1), k % 16 ≠ bank) :
    exec (.almanacRefreshDue cl bank) s = .next (s.onCtl cl fun c => { c with refreshing := NMap.set false c.refreshing bank true }) := by
  have none : (((s.cl cl).x.banksAt ((s.cl cl).x.vcyc + 1)).any fun k =>
      k % 16 == bank && ((s.cl cl).ctl.bankAsleep k || (s.cl cl).x.freeze.isNone)) = false :=
    List.any_eq_false.mpr fun k hk => by rw [beq_false_of_ne (free k hk), Bool.false_and]; exact Bool.false_ne_true
  change execAlmanacRefreshDue cl bank s = _
  simp [execAlmanacRefreshDue, quiet, none, show ¬ 16 ≤ bank by omega, show ¬ s.gtc < s.refreshAt cl bank by omega]

/-- An access that waits for a sleeping bank goes before the refresh of that bank. -/
theorem exec_almanacRefreshDue_waits {s : State} {cl bank : Nat} (waits : (s.cl cl).x.freeze = some .tower)
    (asleep : ∃ k ∈ (s.cl cl).x.banksAt ((s.cl cl).x.vcyc + 1), k % 16 = bank ∧ (s.cl cl).ctl.bankAsleep k = true) :
    exec (.almanacRefreshDue cl bank) s = .next s := by
  obtain ⟨k, hk, here, sleeps⟩ := asleep
  have some_ : (((s.cl cl).x.banksAt ((s.cl cl).x.vcyc + 1)).any fun k =>
      k % 16 == bank && ((s.cl cl).ctl.bankAsleep k || (s.cl cl).x.freeze.isNone)) = true :=
    List.any_eq_true.mpr ⟨k, hk, by rw [here, sleeps, beq_self_eq_true]; rfl⟩
  have tower : (s.cl cl).x.tower = true := by rw [XCore.tower, waits]; rfl
  change execAlmanacRefreshDue cl bank s = _
  simp only [execAlmanacRefreshDue, some_, tower, Bool.and_self, Bool.or_true, if_true]

theorem exec_almanacRefreshEnd {s : State} {cl bank : Nat} (hb : bank < 16) (runs : NMap.get false (s.cl cl).ctl.refreshing bank = true) :
    ∃ t, exec (.almanacRefreshEnd cl bank) s = .next t ∧ NMap.get false (t.cl cl).ctl.refreshing bank = false
      ∧ (t.cl cl).ctl.dueOf bank = s.gtc + s.dev.ivl * 10 ^ 8 ∧ SameBytes s t := by
  change ∃ t, execAlmanacRefreshEnd cl bank s = .next t ∧ _
  simp only [execAlmanacRefreshEnd, runs, Bool.not_true, Bool.or_false, decide_eq_true_eq, if_neg (show ¬ 16 ≤ bank by omega)]
  refine ⟨_, rfl, ?_, ?_, .onCtl s cl _⟩
  · rw [State.cl_onCtl_self]
    exact NMap.get_set_self _ _ _
  · rw [State.cl_onCtl_self]
    exact NMap.get_set_self _ _ _

/-! ### The tables of a bank that moves (R88, R89) -/

/-- An entry that a filter keeps, whatever its value, reads as before in a table in canonical form. -/
theorem NMap.get_filter_of_in {α : Type} [DecidableEq α] {d : α} {lo i : Nat} {m : NMap α} (wf : NMap.wfFrom d lo m = true)
    {p : Nat × α → Bool} (keep : ∀ v, p (i, v) = true) : NMap.get d (m.filter p) i = NMap.get d m i := by
  induction m generalizing lo with
  | nil => rfl
  | cons e m ih =>
    have wf' := wf
    simp only [NMap.wfFrom, Bool.and_eq_true, decide_eq_true_eq] at wf'
    rw [List.filter_cons]
    split
    · simp only [NMap.get, ih wf'.2]
    · next out =>
      have ne : i ≠ e.1 := fun h => out (by rw [show e = (i, e.2) from Prod.ext h.symm rfl]; exact keep _)
      rw [ih wf'.2]
      rcases Nat.lt_or_gt_of_ne ne with lt | gt
      · rw [NMap.get_below wf'.2 (by omega)]
        simp [NMap.get, lt]
      · simp [NMap.get, ne, show ¬ i < e.1 by omega]

/-- The entries of a table in canonical form written with their keys moved from `src` on to `dst` on. -/
theorem NMap.get_foldl_set_moved {α : Type} [DecidableEq α] {d : α} {src dst lo : Nat} {l : NMap α} (wf : NMap.wfFrom d lo l = true)
    (above : src ≤ lo) (m : NMap α) (i : Nat) (empty : NMap.get d m (dst + i) = d) :
    NMap.get d (l.foldl (fun m e => NMap.set d m (e.1 - src + dst) e.2) m) (dst + i) = NMap.get d l (src + i) := by
  suffices key : ∀ m, NMap.get d (l.foldl (fun m e => NMap.set d m (e.1 - src + dst) e.2) m) (dst + i)
      = if NMap.get d l (src + i) = d then NMap.get d m (dst + i) else NMap.get d l (src + i) by
    rw [key, empty]
    split
    · next h => exact h.symm
    · rfl
  clear empty m
  induction l generalizing lo with
  | nil => intro m; simp [NMap.get]
  | cons e l ih =>
    intro m
    simp only [NMap.wfFrom, Bool.and_eq_true, decide_eq_true_eq, Bool.not_eq_true', decide_eq_false_iff_not] at wf
    obtain ⟨⟨low, nonzero⟩, rest⟩ := wf
    rw [List.foldl_cons, ih rest (by omega)]
    rcases Nat.lt_trichotomy (src + i) e.1 with lt | eq | gt
    · rw [NMap.get_below rest (by omega), NMap.get_set_ne _ _ (by omega)]
      simp [NMap.get, lt]
    · rw [NMap.get_below rest (by omega), if_pos rfl, show dst + i = e.1 - src + dst by omega, NMap.get_set_self]
      simp [NMap.get, eq, nonzero]
    · rw [NMap.get_set_ne _ _ (by omega)]
      simp [NMap.get, show ¬ src + i < e.1 by omega, show src + i ≠ e.1 by omega]

theorem wfFrom_slice {m : Memory} (wf : m.wf = true) (lo hi : Nat) : NMap.wfFrom (0 : Byte) lo (NMap.slice m lo hi) = true := by
  suffices key : ∀ (k : Nat) (m : Memory), NMap.wfFrom (0 : Byte) k m = true → NMap.wfFrom (0 : Byte) (max k lo) (NMap.slice m lo hi) = true from
    NMap.wfFrom_mono (key 0 m wf) (by omega)
  intro k m wf
  induction m generalizing k with
  | nil => rfl
  | cons e m ih =>
    simp only [NMap.wfFrom, Bool.and_eq_true, decide_eq_true_eq] at wf
    have tail := ih _ wf.2
    rw [NMap.slice, List.filter_cons]
    split
    · next keep =>
      simp only [Bool.and_eq_true, decide_eq_true_eq] at keep
      simp only [NMap.wfFrom, Bool.and_eq_true, decide_eq_true_eq]
      exact ⟨⟨by omega, wf.1.2⟩, NMap.wfFrom_mono tail (by omega)⟩
    · exact NMap.wfFrom_mono tail (by omega)

/-- The spare's bytes after the copy of a bank are the bank's. -/
theorem State.byte_copyBank {s : State} {cl cell bank sel i : Nat} (bad : List Nat) (wf : (s.cl cl).tw.wf = true) (hi : i < 16384) :
    ((s.copyBank cl cell bank sel bad).cl cl).tw.byte (bankAddr cell (15 + sel) + i)
      = (s.cl cl).tw.byte ((s.cl cl).twAddr cell (bank * 16384) + i) := by
  have place : (s.copyBank cl cell bank sel bad).cl cl = ((s.onCl cl fun c => { c with tw := _ }).cl cl) := rfl
  rw [place, State.cl_onCl_self]
  simp only [List.foldl_map]
  refine (NMap.get_foldl_set_moved (wfFrom_slice wf _ _) le_rfl _ i (NMap.get_filter_of_out _ fun v => ?_)).trans
    (NMap.get_filter_of_in wf fun v => ?_)
  · simp only [Nat.le_add_right, decide_true, Bool.true_and, Bool.not_eq_false', decide_eq_true_eq]; omega
  · simp only [Nat.le_add_right, decide_true, Bool.true_and, decide_eq_true_eq]; omega

/-- A field reads as it was set. -/
theorem bits_setBits {v hi lo x : Nat} (hx : x < 2 ^ (hi + 1 - lo)) : bits (setBits v hi lo x) hi lo = x := by
  rw [setBits, bits, bits, Nat.mod_eq_of_lt hx, Nat.add_mul_div_right _ _ (by positivity), Nat.mul_comm, Nat.sub_mul_div]
  have whole : v / 2 ^ lo - v / 2 ^ lo % 2 ^ (hi + 1 - lo) = 2 ^ (hi + 1 - lo) * (v / 2 ^ lo / 2 ^ (hi + 1 - lo)) := by
    have := Nat.mod_add_div (v / 2 ^ lo) (2 ^ (hi + 1 - lo))
    omega
  rw [whole, Nat.mul_add_mod, Nat.mod_eq_of_lt hx]

/-- A field below bit `n` reads in the low `n` bits. -/
theorem bits_mod {v hi lo n : Nat} (h : hi < n) : bits (v % 2 ^ n) hi lo = bits v hi lo := by
  refine Nat.eq_of_testBit_eq fun i => ?_
  simp only [bits, Nat.testBit_mod_two_pow, Nat.testBit_div_two_pow]
  by_cases hi : i < hi + 1 - lo
  · simp [hi, show i + lo < n by omega]
  · simp [hi]

/-- EXH is set once bit 50 of the remap word is. -/
theorem getLsbD_setBits (v : Nat) : (BitVec.ofNat 64 (setBits v 50 50 1)).getLsbD 50 = true := by
  have one : setBits v 50 50 1 / 2 ^ 50 % 2 = 1 := bits_setBits (hi := 50) (lo := 50) (by decide)
  rw [BitVec.getLsbD_ofNat, Nat.testBit_eq_decide_div_mod_eq, one]
  decide

/-! ### A bank that moves to a spare (R88, R89) -/

/-- Operations that change of the clusters at most whether one is held. -/
theorem State.cl_reportUnit (s : State) (u : MemUnit) (rung event n : Nat) : (s.reportUnit u rung event).cl n = s.cl n := rfl

theorem State.cl_foldl_reportUnit (s : State) (us : List Nat) (f : Nat → MemUnit) (rung event n : Nat) :
    (us.foldl (fun s u => s.reportUnit (f u) rung event) s).cl n = s.cl n := by
  induction us generalizing s with
  | nil => rfl
  | cons u us ih => exact ih _

/-- The end of a hold changes of its cluster nothing but that it is held. -/
theorem State.cl_endHold (s : State) (cl : Nat) :
    ((s.endHold cl).cl cl).tw = (s.cl cl).tw ∧ ((s.endHold cl).cl cl).ctl.remap = (s.cl cl).ctl.remap := by
  simp only [State.endHold]
  split
  · exact ⟨rfl, rfl⟩
  · rw [State.cl_onCtl_self]; exact ⟨rfl, rfl⟩

theorem State.cl_askPreempt (s : State) (k why n : Nat) : (s.askPreempt k why).cl n = s.cl n := by
  simp only [State.askPreempt]
  split <;> rfl

theorem State.mem_remapWaits (s : State) (cl cell bank : Nat) : (cl, cell, bank) ∈ (s.remapWaits cl cell bank).rel.remaps := by
  simp only [State.remapWaits]
  split
  · next h => exact List.contains_iff_mem.mp h
  · exact List.mem_append_right _ (List.mem_singleton_self _)

/-- The remap word of a cell with SEL of one of its banks set. -/
def Ctl.withSel (c : Ctl) (cell bank sel v : Nat) : Ctl :=
  { c with remap := NMap.set 0 c.remap cell (BitVec.ofNat 64 (setBits v (2 * bank + 1) (2 * bank) sel)) }

theorem Ctl.twSelOf_withSel (c : Ctl) {cell bank sel : Nat} (v : Nat) (hb : bank < 16) (hs : sel < 4) :
    (c.withSel cell bank sel v).twSelOf cell bank = sel := by
  rw [Ctl.twSelOf, Ctl.withSel, NMap.get_set_self, BitVec.toNat_ofNat, bits_mod (by omega), bits_setBits]
  rw [show 2 * bank + 1 + 1 - 2 * bank = 2 by omega]
  exact hs

/-- The remap word of a cell without a healthy spare. -/
def Ctl.withExh (c : Ctl) (cell v : Nat) : Ctl := { c with remap := NMap.set 0 c.remap cell (BitVec.ofNat 64 (setBits v 50 50 1)) }

/-- The state with a bank of a cluster moved to a spare. -/
def State.movedBank (s : State) (cl cell bank sel v : Nat) (bad : List Nat) : State :=
  (((s.copyBank cl cell bank sel bad).onCtl cl fun c => c.withSel cell bank sel v).remapDone cl cell bank).report
    srcSamovar 1 0x09 0 0 0 (cl + cell * 2 ^ 8 + bank * 2 ^ 14 + sel * 2 ^ 18) 0 0

section
variable {s : State} {cl cell bank : Nat} (hc : cell < 64) (hb : bank < 16) (serves : s.inService cl = true) (sel : Nat) (bad : List Nat)
include hc hb serves

theorem exec_towerRemap_waits (busy : (s.cl cl).drained = false) :
    exec (.towerRemap cl cell bank sel bad) s
      = .next (((s.onCtl cl fun c => { c with held := true }).askPreempt cl 1).remapWaits cl cell bank) := by
  change execTowerRemap cl cell bank sel bad s = _
  simp [execTowerRemap, serves, busy, show ¬ 64 ≤ cell by omega, show ¬ 16 ≤ bank by omega]

/-- Without a healthy spare the remap word gets its EXH bit. -/
theorem exec_towerRemap_exhausted (idle : (s.cl cl).drained = true) (noA : spareFree (NMap.get 0 (s.cl cl).ctl.remap cell).toNat 1 = false)
    (noB : spareFree (NMap.get 0 (s.cl cl).ctl.remap cell).toNat 2 = false) :
    ∃ v, exec (.towerRemap cl cell bank sel bad) s = .next (((s.onCtl cl fun c => c.withExh cell v).remapDone cl cell bank).endHold cl) := by
  change ∃ v, execTowerRemap cl cell bank sel bad s = _
  simp only [execTowerRemap, serves, idle, noA, noB, Bool.not_true, Bool.not_false, Bool.and_self, Bool.false_or, Bool.or_eq_true,
    decide_eq_true_eq, if_neg (show ¬ (64 ≤ cell ∨ 16 ≤ bank) by omega), Bool.false_eq_true, if_false, if_true]
  exact ⟨_, rfl⟩

/-- A bank that moves: its bytes are copied, its SEL names the spare, and what else changes is recorded. -/
theorem exec_towerRemap_moves (idle : (s.cl cl).drained = true) (spare : sel = 1 ∨ sel = 2)
    (free : spareFree (NMap.get 0 (s.cl cl).ctl.remap cell).toNat sel = true) (quiet : NMap.get false (s.cl cl).ctl.refreshing bank = false) :
    ∃ (u : State) (v : Nat), (∀ n, u.cl n = s.cl n) ∧ exec (.towerRemap cl cell bank sel bad) s =
      .next ((u.movedBank cl cell bank sel v bad).endHold cl) := by
  have some_ : (!spareFree (NMap.get 0 (s.cl cl).ctl.remap cell).toNat 1 && !spareFree (NMap.get 0 (s.cl cl).ctl.remap cell).toNat 2) = false := by
    rcases spare with rfl | rfl <;> rw [free] <;> simp only [Bool.not_true, Bool.false_and, Bool.and_false]
  have named : ((sel != 1 && sel != 2) || !spareFree (NMap.get 0 (s.cl cl).ctl.remap cell).toNat sel
      || NMap.get false (s.cl cl).ctl.refreshing bank) = false := by
    rw [free, quiet]
    rcases spare with rfl | rfl <;> rfl
  refine ⟨_, markFailed (NMap.get 0 (s.cl cl).ctl.remap cell).toNat bank,
    fun n => State.cl_foldl_reportUnit s (s.newlyBad cl cell bank bad).eraseDups (fun u => .tw cl cell (256 * bank + u)) 2 2 n, ?_⟩
  change execTowerRemap cl cell bank sel bad s = _
  simp only [execTowerRemap, serves, idle, some_, named, Bool.not_true, Bool.false_or, Bool.false_eq_true, if_false, Bool.or_eq_true,
    decide_eq_true_eq, if_neg (show ¬ (64 ≤ cell ∨ 16 ≤ bank) by omega)]
  rfl

end

theorem State.cl_movedBank (s : State) (cl cell bank sel v : Nat) (bad : List Nat) :
    ((s.movedBank cl cell bank sel v bad).cl cl).tw = ((s.copyBank cl cell bank sel bad).cl cl).tw
      ∧ ((s.movedBank cl cell bank sel v bad).cl cl).ctl.remap = ((s.cl cl).ctl.withSel cell bank sel v).remap := by
  have copied : ((s.copyBank cl cell bank sel bad).cl cl) = (s.onCl cl fun c => { c with tw := _ }).cl cl := rfl
  have ctl := congrArg (fun c : Cluster => (c.ctl.withSel cell bank sel v).remap) (copied.trans (State.cl_onCl_self s cl _))
  have here : (s.movedBank cl cell bank sel v bad).cl cl = ((s.copyBank cl cell bank sel bad).onCtl cl fun c => c.withSel cell bank sel v).cl cl := rfl
  rw [here, State.cl_onCtl_self]
  exact ⟨rfl, ctl⟩

theorem Ctl.twSelOf_of_remap {c d : Ctl} (h : c.remap = d.remap) (k b : Nat) : c.twSelOf k b = d.twSelOf k b := by
  rw [Ctl.twSelOf, h, Ctl.twSelOf]

/-- The logical bank is on the spare, with its bytes. -/
theorem State.movedBank_endHold_spec {s : State} {cl cell bank sel : Nat} (v : Nat) (bad : List Nat) (hb : bank < 16) (spare : sel = 1 ∨ sel = 2)
    (wf : (s.cl cl).tw.wf = true) {t : State} (ht : t = (s.movedBank cl cell bank sel v bad).endHold cl) :
    (t.cl cl).ctl.twSelOf cell bank = sel ∧ ∀ i < 16384,
      (t.cl cl).tw.byte ((t.cl cl).twAddr cell (bank * 16384 + i)) = (s.cl cl).tw.byte ((s.cl cl).twAddr cell (bank * 16384 + i)) := by
  obtain ⟨tw, remap⟩ := s.cl_movedBank cl cell bank sel v bad
  obtain ⟨tw', remap'⟩ := (s.movedBank cl cell bank sel v bad).cl_endHold cl
  rw [tw] at tw'
  rw [remap] at remap'
  rw [← ht] at tw' remap'
  have sel_ : (t.cl cl).ctl.twSelOf cell bank = sel :=
    (Ctl.twSelOf_of_remap remap' cell bank).trans ((s.cl cl).ctl.twSelOf_withSel v hb (by omega))
  refine ⟨sel_, fun i hi => ?_⟩
  have at_ (c : Cluster) : c.twAddr cell (bank * 16384 + i) = bankAddr cell (twBankOf bank (c.ctl.twSelOf cell bank)) + i := by
    rw [Cluster.twAddr, show (bank * 16384 + i) / 16384 = bank by omega, show (bank * 16384 + i) % 16384 = i by omega]
  have base : (s.cl cl).twAddr cell (bank * 16384) = bankAddr cell (twBankOf bank ((s.cl cl).ctl.twSelOf cell bank)) := by
    rw [Cluster.twAddr, Nat.mul_div_cancel _ (by decide), Nat.mul_mod_left, Nat.add_zero]
  rw [at_, at_, sel_, tw', ← base, ← s.byte_copyBank bad wf hi, twBankOf, if_neg (by omega)]

/-! ### The grants of an interval (R473-R475) -/

theorem State.phys_lt (s : State) {n : Nat} (h : n < 192) : s.phys n < 208 := by
  simp only [State.phys]
  split <;> omega

/-- Every entry of some keys changed, each key once. -/
theorem NMap.get_foldl_update {α : Type} [DecidableEq α] {d : α} (f : Nat → α → α) {l : List Nat} (distinct : l.Nodup) (m : NMap α) (i : Nat) :
    NMap.get d (l.foldl (fun m p => NMap.set d m p (f p (NMap.get d m p))) m) i = if i ∈ l then f i (NMap.get d m i) else NMap.get d m i := by
  induction l generalizing m with
  | nil => simp
  | cons p l ih =>
    obtain ⟨new, rest⟩ := List.nodup_cons.mp distinct
    rw [List.foldl_cons, ih rest, NMap.get_set]
    by_cases h : i = p
    · simp [h, new]
    · simp [h]

/-- The state with every place changed. -/
def State.changeAll (s : State) (f : Nat → Cluster → Cluster) : State :=
  { s with clusters := (List.range 208).foldl (fun m p => NMap.set Cluster.reset m p (f p (NMap.get Cluster.reset m p))) s.clusters }

theorem State.changeAll_keeps (s : State) (f : Nat → Cluster → Cluster) :
    (s.changeAll f).hbm = s.hbm ∧ (s.changeAll f).hostMem = s.hostMem ∧ (s.changeAll f).dev = s.dev := by
  rw [State.changeAll]
  exact ⟨rfl, rfl, rfl⟩

theorem State.cl_changeAll (s : State) (f : Nat → Cluster → Cluster) (n : Nat) :
    (s.changeAll f).cl n = if s.phys n < 208 then f (s.phys n) (s.cl n) else s.cl n := by
  have distinct : (List.range 208).Nodup := List.nodup_range
  have here : s.phys n ∈ List.range 208 ↔ s.phys n < 208 := List.mem_range
  rw [State.changeAll]
  generalize List.range 208 = l at here distinct
  rw [if_congr here.symm rfl rfl]
  exact NMap.get_foldl_update f distinct s.clusters (s.phys n)

theorem SameBytes.changeAll (s : State) {f : Nat → Cluster → Cluster} (sp : ∀ p c, (f p c).sp = c.sp) (tw : ∀ p c, (f p c).tw = c.tw) :
    SameBytes s (s.changeAll f) := by
  obtain ⟨hbm, hostMem, -⟩ := s.changeAll_keeps f
  refine ⟨fun _ => by rw [hbm], fun _ => by rw [hostMem], fun n a => ?_⟩
  rw [State.cl_changeAll]
  split
  · rw [sp, tw]; exact ⟨rfl, rfl⟩
  · exact ⟨rfl, rfl⟩

/-- The state after an interval has been counted. -/
def State.counted (s : State) : State :=
  let spent := s.packageEnergy (fun n => (s.cl n).ctl.usedNow) s.dev.intervals
  { s with dev := { s.dev with intervals := s.dev.intervals + 1, spent := (spent :: s.dev.spent).take 999999 } }

/-- The grant of a place: what the arbiter asks for the cluster in service there, or the least where that exceeds the bounds. -/
def State.grantAt (s : State) (grants : List Nat) (p : Nat) : Nat :=
  match (List.range 192).find? fun n => s.inService n && s.phys n == p with
  | some n => if s.counted.powerOk (grantOf grants) then grantOf grants n else 64
  | none => 1250

/-- The state after an interval in which every place has its grant. -/
def State.granted (s : State) (grants : List Nat) : State :=
  s.counted.changeAll fun p c => { c with ctl := c.ctl.interval (s.grantAt grants p) }

theorem exec_powerInterval {s : State} (grants : List Nat) (ready : s.dev.ready = true)
    (due : s.dev.bootedAt + 1000 * (s.dev.intervals + 1) ≤ s.gtc) : exec (.powerInterval grants) s = .next (s.granted grants) := by
  have late : (!s.dev.ready || decide (s.gtc < s.dev.bootedAt + 1000 * (s.dev.intervals + 1))) = false := by
    rw [ready, decide_eq_false (by omega)]; rfl
  change execPowerInterval grants s = _
  simp only [execPowerInterval, late, Bool.false_eq_true, if_false]
  rfl

theorem State.cl_granted (s : State) (grants : List Nat) {n : Nat} (h : n < 192) :
    (s.granted grants).cl n = { s.cl n with ctl := (s.cl n).ctl.interval (s.grantAt grants (s.phys n)) } :=
  (s.counted.cl_changeAll _ n).trans (if_pos (s.phys_lt h))

/-- A cluster in service gets its own grant. -/
theorem State.grantAt_phys (s : State) (grants : List Nat) {n : Nat} (h : n < 192) (serves : s.inService n = true) :
    s.grantAt grants (s.phys n) = if s.counted.powerOk (grantOf grants) then grantOf grants n else 64 := by
  have found : ((List.range 192).find? fun m => s.inService m && s.phys m == s.phys n) = some n := by
    generalize hf : ((List.range 192).find? fun m => s.inService m && s.phys m == s.phys n) = o
    cases o with
    | none => exact absurd (List.find?_eq_none.mp hf n (List.mem_range.mpr h)) (by rw [serves, beq_self_eq_true]; decide)
    | some m =>
      have same := List.find?_some hf
      rw [Bool.and_eq_true, beq_iff_eq] at same
      exact congrArg some (s.phys_inj same.2)
  rw [State.grantAt, found]

theorem State.dev_granted (s : State) (grants : List Nat) : (s.granted grants).dev = s.counted.dev := (s.counted.changeAll_keeps _).2.2

theorem SameBytes.granted (s : State) (grants : List Nat) : SameBytes s (s.granted grants) :=
  (SameBytes.of_clusters rfl rfl fun _ => rfl : SameBytes s s.counted).trans (.changeAll _ (fun _ _ => rfl) fun _ _ => rfl)

/-- The counts of PWGRANT lie above its other fields (R475). -/
theorem Ctl.pwgrant_count (c : Ctl) (n : Nat) : c.pwgrant n / 2 ^ 32 = n % 2 ^ 32 := by
  have capped : flag c.capped 22 ≤ 2 ^ 22 := by rw [flag_eq]; cases c.capped <;> decide
  rw [Ctl.pwgrant]
  omega

/-! ### Retraining (R476, R477) -/

theorem exec_retrainingDue {s : State} {cl : Nat} (due : s.retrainAt cl ≤ s.gtc) (none : (s.cl cl).ctl.retrainEnd = none)
    (free : s.awaited cl = false) : exec (.retrainingDue cl) s = .next (s.retrain cl) := by
  change execRetrainingDue cl s = _
  rw [execRetrainingDue, none, free, decide_eq_false (by omega)]
  rfl

theorem exec_retrainingForced {s : State} {cl : Nat} (due : s.retrainAt cl + 200000 ≤ s.gtc) (none : (s.cl cl).ctl.retrainEnd = none) :
    exec (.retrainingForced cl) s = .next (s.retrain cl) := by
  change execRetrainingForced cl s = _
  rw [execRetrainingForced, none, decide_eq_false (by omega)]
  rfl

theorem exec_retrainingEnd {s : State} {cl e : Nat} (runs : (s.cl cl).ctl.retrainEnd = some e) (past : e ≤ s.gtc) :
    exec (.retrainingEnd cl) s = .next (s.onCtl cl fun c => { c with retrainEnd := none, retrainDue := s.gtc + 10 ^ 9 }) := by
  change execRetrainingEnd cl s = _
  simp only [execRetrainingEnd, runs, if_neg (show ¬ s.gtc < e by omega)]

theorem State.retrainEnd_retrain (s : State) (cl : Nat) : ((s.retrain cl).cl cl).ctl.retrainEnd = some (s.gtc + 1600) := by
  rw [State.retrain, State.cl_onCtl_self]

/-! ### The obligation -/

/-- Settles O43, clause by clause: sleep, refresh, temperature, tower remaps, grants and retraining. -/
theorem upkeep : Obligations.Upkeep := by
  unfold Obligations.Upkeep
  intro cl cell bank s hc hb
  refine ⟨fun quiet idle => ⟨_, exec_retentionSleepEntry hc hb quiet idle, ?sleep, .onCtl s cl _⟩,
    fun quiet due free => ⟨_, exec_almanacRefreshDue_starts hb quiet due free, ?refresh, .onCtl s cl _⟩,
    exec_almanacRefreshDue_waits, exec_almanacRefreshEnd hb,
    fun hot => ⟨_, rfl, rfl, rfl, .of_clusters rfl rfl fun _ => rfl⟩,
    fun sel bad serves => ⟨fun busy => ⟨_, exec_towerRemap_waits hc hb serves sel bad busy, ?held, State.mem_remapWaits _ _ _ _⟩,
      fun idle noA noB => ?exhausted, fun idle spare free quiet wf => ?moves⟩,
    fun grants ready due => ⟨_, exec_powerInterval grants ready due,
      congrArg Dev.intervals (s.dev_granted grants), congrArg Dev.spent (s.dev_granted grants), .granted s grants, ?grants⟩,
    fun none => ⟨fun due free => ⟨_, exec_retrainingDue due none free, s.retrainEnd_retrain cl, .onCtl s cl _⟩,
      fun due => ⟨_, exec_retrainingForced due none, s.retrainEnd_retrain cl, .onCtl s cl _⟩⟩,
    fun e runs past => ⟨_, exec_retrainingEnd runs past, ?ended⟩⟩
  case sleep =>
    rw [State.cl_onCtl_self]
    exact NMap.get_set_self _ _ _
  case refresh =>
    rw [State.cl_onCtl_self]
    exact NMap.get_set_self _ _ _
  case held =>
    have same := (s.onCtl cl fun c => { c with held := true }).cl_askPreempt cl 1 cl
    rw [State.cl_onCtl_self] at same
    exact congrArg (fun c : Cluster => c.ctl.held) same
  case exhausted =>
    obtain ⟨v, step⟩ := exec_towerRemap_exhausted hc hb serves sel bad idle noA noB
    refine ⟨_, step, ?_⟩
    rw [(State.cl_endHold _ cl).2]
    have here : ((s.onCtl cl fun c => c.withExh cell v).remapDone cl cell bank).cl cl = (s.onCtl cl fun c => c.withExh cell v).cl cl := rfl
    rw [here, State.cl_onCtl_self, Ctl.withExh, NMap.get_set_self, getLsbD_setBits]
  case moves =>
    obtain ⟨u, v, same, step⟩ := exec_towerRemap_moves hc hb serves sel bad idle spare free quiet
    have moved := State.movedBank_endHold_spec (cell := cell) v bad hb spare (by rwa [same]) rfl
    rw [same cl] at moved
    exact ⟨_, step, moved⟩
  case grants =>
    have grant (n : Nat) (hn : n < 192) (serves : s.inService n = true) :
        ((s.granted grants).cl n).ctl.grant = if s.counted.powerOk (grantOf grants) then grantOf grants n else 64 := by
      rw [s.cl_granted grants hn, ← s.grantAt_phys grants hn serves]
      rfl
    refine ⟨?_, fun ok n hn serves => (grant n hn serves).trans (if_pos ok), fun n hn _ => ?_⟩
    · by_cases ok : s.counted.powerOk (grantOf grants) = true
      · exact .inl fun n hn serves => (grant n hn serves).trans (if_pos ok)
      · exact .inr fun n hn serves => (grant n hn serves).trans (if_neg ok)
    · rw [Ctl.pwgrant_count, s.dev_granted, s.cl_granted grants hn]
      refine ⟨rfl, rfl, ?_⟩
      rfl
  case ended =>
    rw [State.cl_onCtl_self]
    exact ⟨rfl, rfl, .onCtl s cl _⟩

end Sys2Proof.Machine
end

section
/-! PROOFS. Waiting instructions that look again, walks that restart, and stores that have waited for a frame (R44, R73, R127, R130, R161, R285,
R309, R310). -/

namespace Sys2Proof.Machine
open Sys2Proof

/-! ### Instructions that can wait always answer a state -/

/-- The step has a next state. -/
def hasNext (o : Out) : Prop := ∃ u, o = .next u

theorem hasNext_ite {c : Prop} [Decidable c] {o p : Out} (ho : c → hasNext o) (hp : ¬ c → hasNext p) : hasNext (if c then o else p) := by
  split
  · next h => exact ho h
  · next h => exact hp h

theorem hasNext_next (s : State) : hasNext (.next s) := ⟨s, rfl⟩

theorem hasNext_execWaitgen (f : AF) (s : State) : hasNext (execWaitgen f s) := by
  simp only [execWaitgen]
  refine hasNext_ite (fun _ => hasNext_next _) fun _ => ?_
  split
  · exact hasNext_next _
  · exact hasNext_ite (fun _ => hasNext_next _) fun _ => hasNext_ite (fun _ => hasNext_next _) fun _ =>
      hasNext_ite (fun _ => hasNext_next _) fun _ => hasNext_next _

theorem hasNext_execSemv (f : AF) (s : State) : hasNext (execSemv f s) := hasNext_ite (fun _ => hasNext_next _) fun _ => hasNext_next _

theorem hasNext_execSemp (f : AF) (s : State) : hasNext (execSemp f s) := hasNext_ite (fun _ => hasNext_next _) fun _ => hasNext_next _

theorem hasNext_execBtake (f : AF) (s : State) : hasNext (execBtake f s) := by
  simp only [execBtake]
  refine hasNext_ite (fun _ => hasNext_next _) fun _ => hasNext_ite (fun _ => ?defines) fun _ => hasNext_ite (fun _ => ?takes) fun _ => ?other
  all_goals exact hasNext_ite (fun _ => hasNext_next _) fun _ => hasNext_next _

theorem hasNext_give (s : State) (f : AF) (b : Buf) : hasNext (s.give f b) := hasNext_ite (fun _ => hasNext_next _) fun _ => hasNext_next _

theorem hasNext_execBgive (f : AF) (s : State) : hasNext (execBgive f s) := hasNext_ite (fun _ => hasNext_next _) fun _ => hasNext_give _ _ _

theorem hasNext_execBgiveNone (f : AF) (s : State) : hasNext (execBgiveNone f s) := hasNext_ite (fun _ => hasNext_next _) fun _ => hasNext_give _ _ _

theorem hasNext_execTxbegin (f : AF) (s : State) : hasNext (execTxbegin f s) := by
  simp only [execTxbegin]
  refine hasNext_ite (fun _ => hasNext_next _) fun _ => ?_
  split
  · exact hasNext_next _
  · refine hasNext_ite (fun _ => hasNext_next _) fun _ => ?_
    split
    · exact hasNext_next _
    · split
      · exact hasNext_ite (fun _ => hasNext_next _) fun _ => hasNext_next _
      all_goals exact hasNext_next _

/-- The instructions that WAITER_SATISFIED lets look again, by what they wait for. -/
def waiterRows : List (WaitKind × (AF → State → Out)) :=
  [(.waitgen, execWaitgen), (.semv, execSemv), (.semp, execSemp), (.btake, execBtake)]

theorem hasNext_of_waiterRows {k : WaitKind} {run : AF → State → Out} (row : (k, run) ∈ waiterRows) (f : AF) (s : State) : hasNext (run f s) := by
  simp only [waiterRows, List.mem_cons, List.not_mem_nil, or_false, Prod.mk.injEq] at row
  rcases row with ⟨-, rfl⟩ | ⟨-, rfl⟩ | ⟨-, rfl⟩ | ⟨-, rfl⟩
  · exact hasNext_execWaitgen f s
  · exact hasNext_execSemv f s
  · exact hasNext_execSemp f s
  · exact hasNext_execBtake f s

/-! ### Looking again (R73, R130, R161, R285, R309, R310) -/

/-- An instruction that looks again and what it answers when it issues. -/
theorem State.waited_next {s : State} {o : Out} (h : hasNext o) : ∃ u, o = .next u ∧ s.waited o = .next (s.caughtUp u) := by
  obtain ⟨u, rfl⟩ := h
  exact ⟨u, rfl, rfl⟩

section
variable {s : State} {cl : Nat} {w : Wait} (waits : (s.cl cl).a.wait = some w)
include waits

/-- WAITER_SATISFIED runs the instruction that waits once more. -/
theorem exec_waiterSatisfied {run : AF → State → Out} (row : (w.kind, run) ∈ waiterRows) :
    exec (.waiterSatisfied cl) s = (s.at_ cl).waited (run w.f (s.at_ cl)) := by
  change execWaiterSatisfied cl s = _
  simp only [waiterRows, List.mem_cons, List.not_mem_nil, or_false, Prod.mk.injEq] at row
  rcases row with ⟨kind, rfl⟩ | ⟨kind, rfl⟩ | ⟨kind, rfl⟩ | ⟨kind, rfl⟩ <;> simp only [execWaiterSatisfied, waits, kind] <;> rfl

/-- What it does is what the instruction does when it issues, before those past it take effect. -/
theorem waiterSatisfied_looksAgain {run : AF → State → Out} (row : (w.kind, run) ∈ waiterRows) :
    ∃ u, run w.f (s.at_ cl) = .next u ∧ exec (.waiterSatisfied cl) s = .next ((s.at_ cl).caughtUp u) := by
  obtain ⟨u, issues, again⟩ := (s.at_ cl).waited_next (hasNext_of_waiterRows row w.f (s.at_ cl))
  exact ⟨u, issues, (exec_waiterSatisfied waits row).trans again⟩

theorem exec_bgiveReleaseDone_position (kind : w.kind = .bgive) (some_ : bits w.f.imm.toNat 10 8 ≠ 4) :
    exec (.bgiveReleaseDone cl) s = execBgive w.f (s.at_ cl) := by
  change execBgiveReleaseDone cl s = _
  simp only [execBgiveReleaseDone, waits, kind, some_, if_false]
  rfl

/-- A walk that waited begins again at the root: of the nodes of its context none is cached (R44). -/
theorem exec_walkRestart (kind : w.kind = .walk) :
    exec (.walkRestart cl w.id) s = .next (({ s.at_ cl with walkCache := s.walkCache.filter fun e => e.1 != s.runCid cl }).resolve cl
      (s.runCid cl) ((s.at_ cl).ea w.f) .acore []).2 := by
  have here : ((s.cl cl).a.wait.filter fun v => v.kind == .walk && v.id == w.id) = some w := by rw [waits, Option.filter, kind]; simp
  change execWalkRestart cl w.id s = _
  simp only [execWalkRestart, here]
  rfl

end

/-! ### A store that has waited for a frame (R127) -/

theorem nodeStable_hbm : NodeStable fun s t => t.hbm = s.hbm where
  refl _ := rfl
  trans h k := k.trans h
  disp _ _ := rfl
  flights _ _ := rfl
  send s dst m src := by
    simp only [State.send, State.sendOn]
    split
    · rfl
    · split
      · rfl
      · split <;> rfl
  dropLate _ _ := rfl

theorem State.hbm_dropAcc (s : State) (cl seq : Nat) : (s.dropAcc cl seq).hbm = s.hbm := by
  simp only [State.dropAcc]
  split
  · exact nodeStable_hbm.completeNode _ _
  · rfl

theorem State.hbm_storeLines (s : State) (cl : Nat) (l : Acc) : (s.storeLines cl l).hbm = s.hbm := by
  simp only [State.storeLines]
  split <;> rfl

theorem exec_frameWaitEnd_store {s u : State} {cl seq : Nat} {l : Acc}
    (found : ((s.cl cl).a.stores.find? fun l => l.seq == seq && l.pending && l.place == .hbm) = some l) (store : l.op = none)
    (fresh : l.redo = false) (left : l.left = true) (free : s.storeHeld cl l = false)
    (wrote : s.hbmWrite l.pa (toBytes l.size l.data) = .ok u) :
    exec (.frameWaitEnd cl seq) s = .next ((if s.closed (pageOf l.pa) then u else u.storeLines cl l).dropAcc cl seq) := by
  have this := List.find?_some found
  simp only [Bool.and_eq_true, beq_iff_eq] at this
  obtain ⟨⟨named, -⟩, place⟩ := this
  change execFrameWaitEnd cl seq s = _
  simp only [execFrameWaitEnd, found, free, fresh, left, Bool.not_true, Bool.or_self, Bool.false_eq_true, if_false, State.storePlace, place,
    store, State.storeHbm, wrote, named]

/-! ### The obligation -/

/-- Settles O32: each waiting form, TXBEGIN, walks, and a store that has waited for a frame. -/
theorem waitsReconsidered : Obligations.WaitsReconsidered := by
  unfold Obligations.WaitsReconsidered
  intro cl s
  refine ⟨fun w waits => ⟨fun kind => waiterSatisfied_looksAgain (run := execWaitgen) waits (by simp [waiterRows, kind]),
    fun kind => waiterSatisfied_looksAgain (run := execSemv) waits (by simp [waiterRows, kind]),
    fun kind => waiterSatisfied_looksAgain (run := execSemp) waits (by simp [waiterRows, kind]),
    fun kind => waiterSatisfied_looksAgain (run := execBtake) waits (by simp [waiterRows, kind]), fun kind => ?bgive,
    exec_walkRestart waits⟩, fun cid slot n f waiter => ?txbegin, fun seq l found store fresh left free _ u wrote => ?frame⟩
  case bgive =>
    by_cases none : w.f.imm.toNat / 256 % 8 = 4
    · obtain ⟨u, issues⟩ := hasNext_execBgiveNone w.f (s.at_ cl)
      rw [if_pos none]
      exact ⟨u, issues, (exec_bgiveReleaseDone_none waits kind none).trans issues⟩
    · obtain ⟨u, issues⟩ := hasNext_execBgive w.f (s.at_ cl)
      rw [if_neg none]
      exact ⟨u, issues, (exec_bgiveReleaseDone_position waits kind none).trans issues⟩
  case txbegin =>
    obtain ⟨u, issues, again⟩ := (s.at_ n).waited_next (hasNext_execTxbegin f (s.at_ n))
    exact ⟨u, issues, (exec_txbeginOpen waiter).trans again⟩
  case frame =>
    refine ⟨_, exec_frameWaitEnd_store found store fresh left free wrote, fun b => ?_, fun m hm => ?_⟩
    · rw [State.hbm_dropAcc]
      split
      · rfl
      · rw [State.hbm_storeLines]
    · exact (State.dropAcc_spec _ cl seq).2.2 m (List.mem_append_right _ hm)

end Sys2Proof.Machine
end

section
/-! PROOFS. Tiles to and from the X-core, the queue status, and messages sent (R82, R83, R86, R298-R300, R311). -/

namespace Sys2Proof.Machine
open Sys2Proof

/-! ### The X-core under updates of the focused cluster -/

theorem State.a_onX (s : State) (f : XCore → XCore) : (s.onX s.focus f).a = s.a := (congrArg Cluster.a (s.cl_onX_self s.focus f) :)
theorem State.x_onX (s : State) (f : XCore → XCore) : (s.onX s.focus f).x = f s.x := (congrArg Cluster.x (s.cl_onX_self s.focus f) :)
theorem State.x_onA (s : State) (f : ACore → ACore) : (s.onA s.focus f).x = s.x := (congrArg Cluster.x (s.cl_onA_self s.focus f) :)
theorem State.x_advance (s : State) : s.advance.x = s.x := s.x_onA _

/-! ### Acceptance and waiting (R284-R286) -/

/-- A command without its lock, by which alone the acceptance of another changes it. -/
def Cmd.unlocked (k : Cmd) : Cmd := { k with lock := 0 }

/-- What a command's locks make of another command's. -/
def Cmd.relocked (k j : Cmd) : Cmd :=
  if j.id = k.id then { j with lock := 2 } else if j.lock == 2 && (j.banks j.piece).clash (k.banks k.piece) then { j with lock := 1 } else j

theorem Cmd.unlocked_relocked (k j : Cmd) : (k.relocked j).unlocked = j.unlocked := by
  simp only [Cmd.relocked]
  split
  · rfl
  · split <;> rfl

theorem Cmd.relocked_self (k : Cmd) : k.relocked k = { k with lock := 2 } := if_pos rfl

theorem State.cmds_lockBanks (s : State) (k : Cmd) : (s.lockBanks s.focus k).a.cmds = s.a.cmds.map k.relocked :=
  (congrArg ACore.cmds (s.a_onA _) :)

/-- The commands of a core after one has been accepted: those before it, with other locks at most, and itself, with its place, its lock and the
windows that it counts in. -/
theorem State.cmds_takeCmd (s : State) (k : Cmd) (es : List Ext) : ∃ js lock ask wins, (s.takeCmd k es).a.cmds
    = js ++ [{ k with lock := lock, ask := ask, wins := wins }] ∧ js.map Cmd.unlocked = s.a.cmds.map Cmd.unlocked := by
  have joined : (s.joinCmd (s.taken k es)).a.cmds = s.a.cmds ++ [s.taken k es] := by rw [State.joinCmd, State.a_onA]
  simp only [State.takeCmd]
  split
  · refine ⟨s.a.cmds.map (s.taken k es).relocked, 2, (s.taken k es).ask, (s.taken k es).wins, ?_, ?_⟩
    · have locked := (s.joinCmd (s.taken k es)).cmds_lockBanks (s.taken k es)
      rw [joined, List.map_append, List.map_singleton, Cmd.relocked_self] at locked
      exact locked
    · rw [List.map_map]
      exact List.map_congr_left fun j _ => (s.taken k es).unlocked_relocked j
  · exact ⟨_, _, _, _, joined, rfl⟩

/-- A command of a kind that takes no banks leaves the locks of the others. -/
theorem State.cmds_takeCmd_of_pieces {s : State} {k : Cmd} (es : List Ext) (none : k.pieces ≠ 1) :
    ∃ ask wins, (s.takeCmd k es).a.cmds = s.a.cmds ++ [{ k with lock := 0, ask := ask, wins := wins }] := by
  have lock : (s.taken k es).lock = 0 := by rw [State.taken, decide_eq_false none]; rfl
  have joined : (s.joinCmd (s.taken k es)).a.cmds = s.a.cmds ++ [s.taken k es] := by rw [State.joinCmd, State.a_onA]
  rw [State.takeCmd, lock, if_neg (by simp), joined]
  exact ⟨(s.taken k es).ask, (s.taken k es).wins, by rw [← lock]; rfl⟩

/-- A waiting instruction leaves what the core has accepted. -/
theorem State.waitsHere_waitAt (s : State) (k : WaitKind) (f : AF) (d : BitVec 6) : waitsHere s (.next (s.waitAt k f d)) := by
  have noted : ∃ w, (s.waitAt k f d).a = { s.a with wait := some w } := ⟨_, s.a_onA _⟩
  obtain ⟨w, a⟩ := noted
  refine ⟨_, rfl, ?_⟩
  simp only [State.g, a, Option.isSome_some, true_and]
  exact ⟨fun _ => rfl, .onA s _ _⟩

/-! ### TLDQ and SQD (R82, R83, R298, R299) -/

section
variable {f : AF} {s : State} (ready : s.ready [f.sa] = true)
include ready

theorem exec_tldq_trap {e : Flt} (err : s.tileErr f = some e) : exec (.tldq f) s = .next (s.trapFlt e) := by
  change execTldq f s = _
  simp only [execTldq, ready, err, Bool.not_true, Bool.false_eq_true, if_false]

theorem exec_sqd_trap {e : Flt} (err : s.tileErr f = some e) : exec (.sqd f) s = .next (s.trapFlt e) := by
  change execSqd f s = _
  simp only [execSqd, ready, err, Bool.not_true, Bool.false_eq_true, if_false]

theorem exec_tldq_full (sound : s.tileErr f = none) (full : 8 ≤ (NMap.get [] s.x.lq f.d.toNat).length) :
    exec (.tldq f) s = .next (s.waitAt .tldq f) := by
  change execTldq f s = _
  simp only [execTldq, ready, sound, full, Bool.not_true, Bool.false_eq_true, if_false, if_true]

/-- The command of a TLDQ. -/
def State.tldqCmd (s : State) (f : AF) : Cmd := { s.newCmd f .tldq f.ocl.toNat 0 none (s.tileEp f) .none 4096 with aux := f.d.toNat }

theorem exec_tldq_takes (sound : s.tileErr f = none) (free : (NMap.get [] s.x.lq f.d.toNat).length < 8) (room : s.a.cmds.length < 32) :
    exec (.tldq f) s = .next ((s.takeCmd (s.tldqCmd f) [Ext.of (s.tileEp f) 4096]).onX s.focus fun x =>
      { x with lq := NMap.set [] x.lq f.d.toNat
                 (NMap.get [] x.lq f.d.toNat ++ [{ cmd := (s.tldqCmd f).id, ready := false, tile := [], poison := false }]) }).advance := by
  change execTldq f s = _
  simp only [execTldq, ready, sound, State.cmdFull, Bool.not_true, Bool.false_eq_true, if_false, if_neg (show ¬ 8 ≤ (NMap.get [] s.x.lq f.d.toNat).length by omega),
    decide_eq_true_eq, if_neg (show ¬ 32 ≤ s.a.cmds.length by omega)]
  rfl

theorem exec_sqd_empty (sound : s.tileErr f = none) (empty : NMap.get [] s.x.sq f.d.toNat = []) :
    exec (.sqd f) s = .next (s.waitAt .sqd f) := by
  change execSqd f s = _
  simp only [execSqd, ready, sound, empty, Bool.not_true, Bool.false_eq_true, if_false]

/-- The command of an SQD of a tile. -/
def State.sqdCmd (s : State) (f : AF) (tile : Tile) : Cmd :=
  { s.newCmd f .sqd f.ocl.toNat 0 none .none (s.tileEp f) 4096 with aux := f.d.toNat, buf := Memory.write [] 0 (tileBytes tile) }

omit ready in
theorem State.buf_sqdCmd (s : State) (f : AF) (tile : Tile) : (s.sqdCmd f tile).buf = Memory.write [] 0 (tileBytes tile) := by
  simp only [State.sqdCmd]

theorem exec_sqd_takes (sound : s.tileErr f = none) {tile : Tile} {ts : List Tile} (head : NMap.get [] s.x.sq f.d.toNat = tile :: ts)
    (room : s.a.cmds.length < 32) :
    exec (.sqd f) s = .next ((s.takeCmd (s.sqdCmd f tile) [Ext.of (s.tileEp f) 4096]).onX s.focus fun x =>
      { x with sq := NMap.set [] x.sq f.d.toNat ts }).advance := by
  change execSqd f s = _
  simp only [execSqd, ready, sound, head, State.cmdFull, Bool.not_true, Bool.false_eq_true, if_false,
    decide_eq_true_eq, if_neg (show ¬ 32 ≤ s.a.cmds.length by omega)]
  rfl

end

/-- What is left of an accepted command's state once the X-core has been updated and the core has gone on. -/
theorem State.takeCmd_onX_advance_spec (s : State) (k : Cmd) (es : List Ext) (f : XCore → XCore) {t : State}
    (ht : t = ((s.takeCmd k es).onX s.focus f).advance) :
    (∃ lock ask wins, tookCmd s t { k with lock := lock, ask := ask, wins := wins }) ∧ t.x = f s.x ∧ t.a.pc = s.a.pc + 8
      ∧ (∀ r, t.g r = s.g r) ∧ SameBytes s t := by
  obtain ⟨same, focus, -, -, -, pc, g, x, -⟩ := s.takeCmd_spec k es
  obtain ⟨js, lock, ask, wins, cmds, others⟩ := s.cmds_takeCmd k es
  generalize s.takeCmd k es = u at *
  rw [← focus] at ht
  subst ht
  have a : (u.onX u.focus f).advance.a = { u.a with pc := u.a.pc + 8, wait := none } := by rw [State.a_advance, State.a_onX]
  refine ⟨⟨lock, ask, wins, js, ?_, others⟩, ?_, ?_, fun r => ?_, same.trans (.trans (.onX u _ _) (.advance _))⟩
  · rw [a, cmds]
  · rw [State.x_advance, State.x_onX, x]
  · rw [a, pc]
  · rw [State.g_advance, State.g, State.a_onX, ACore.reg, g]
    rfl

theorem length_tileBytes (t : Tile) : (tileBytes t).length = 4096 := by
  rw [tileBytes, List.length_flatMap]
  simp only [length_toBytes, List.map_const', List.sum_replicate, List.length_range]
  rfl

/-- A command's buffer that has been given a tile image holds it. -/
theorem read_tileBytes (t : Tile) : (Memory.write [] 0 (tileBytes t)).read 0 4096 = tileBytes t := by
  have same := Memory.read_write_self [] 0 (tileBytes t)
  rwa [length_tileBytes] at same

/-! ### The queue status (R86, R300) -/

theorem foldl_add_eq_sum {α : Type} (g : α → Nat) (l : List α) (n : Nat) : l.foldl (fun acc a => acc + g a) n = n + (l.map g).sum := by
  induction l generalizing n with
  | nil => rfl
  | cons a l ih => rw [List.foldl_cons, ih, List.map_cons, List.sum_cons, Nat.add_assoc]

/-- The status word as a sum of its fields. -/
theorem XCore.qstat_eq (x : XCore) (occ : Nat → Nat) : x.qstat occ =
    ((List.range 8).map fun q => (NMap.get [] x.lq q).length * 2 ^ (4 * q)
        + (if (NMap.get [] x.lq q).head?.any (·.ready) then 2 ^ (48 + q) else 0)).sum
      + ((List.range 4).map fun q => occ q * 2 ^ (32 + 4 * q)).sum := by
  simp only [XCore.qstat, Nat.add_assoc, foldl_add_eq_sum, Nat.zero_add]
  congr 2
  refine List.map_congr_left fun q _ => ?_
  cases NMap.get [] x.lq q <;> rfl

theorem exec_qstat {f : AF} {s : State} (ready : s.ready [f.d] = true) :
    exec (.qstat f) s = .next (s.result f.d (BitVec.ofNat 64 (s.x.qstat (s.sqOcc s.focus)))) := by
  change execQstat f s = _
  rw [execQstat, whenReady, ready, if_pos rfl]

theorem tileTransfers : Clause.TileTransfers := by
  unfold Clause.TileTransfers
  intro f s
  refine ⟨fun ready sound => ⟨fun free room => ?tldq, fun full => ?full, fun empty => ?empty, fun tile ts head room => ?sqd⟩,
    fun e err ready => ⟨exec_tldq_trap ready err, exec_sqd_trap ready err⟩, fun ready => ?qstat⟩
  case tldq =>
    obtain ⟨⟨lock, ask, wins, took⟩, x, pc, g, same⟩ := s.takeCmd_onX_advance_spec (s.tldqCmd f) _ _ rfl
    refine ⟨_, _, exec_tldq_takes ready sound free room, took, rfl, rfl, rfl, ?_, fun p hp => ?_, pc, g, same⟩
    · exact (congrArg (fun x : XCore => NMap.get [] x.lq f.d.toNat) x).trans (NMap.get_set_self _ _ _)
    · exact (congrArg (fun x : XCore => NMap.get [] x.lq p) x).trans (NMap.get_set_ne _ _ hp)
  case full => exact exec_tldq_full ready sound full ▸ s.waitsHere_waitAt .tldq f 0
  case empty => exact exec_sqd_empty ready sound empty ▸ s.waitsHere_waitAt .sqd f 0
  case sqd =>
    obtain ⟨⟨lock, ask, wins, took⟩, x, pc, g, same⟩ := s.takeCmd_onX_advance_spec (s.sqdCmd f tile) _ _ rfl
    refine ⟨_, _, exec_sqd_takes ready sound head room, took, rfl, rfl, rfl, rfl, ?_, ?_, fun p hp => ?_, pc, g, same⟩
    · dsimp only
      rw [s.buf_sqdCmd f tile, read_tileBytes tile]
    · exact (congrArg (fun x : XCore => NMap.get [] x.sq f.d.toNat) x).trans (NMap.get_set_self _ _ _)
    · exact (congrArg (fun x : XCore => NMap.get [] x.sq p) x).trans (NMap.get_set_ne _ _ hp)
  case qstat => rw [exec_qstat ready, XCore.qstat_eq]

/-! ### MSEND (R311) -/

/-- A result leaves of the A-core all but a register, the pc and what it waits for. -/
theorem State.besideG_result (s : State) (d : BitVec 6) (v : W64) :
    (s.result d v).a.besideG = { s.a.besideG with pc := s.a.pc + 8, wait := none } := by
  have a : (s.setG d v).a = (s.cur.setG d v).a := (congrArg Cluster.a (s.cl_onCl_self s.focus _) :)
  rw [State.result, State.a_advance, a, Cluster.setG]
  split <;> rfl

section
variable {f : AF} {s : State} (ready : s.ready [f.d, f.sa, f.sb] = true)
include ready

theorem exec_msend_trap {e : Flt} (err : s.msendErr f = some e) : exec (.msend f) s = .next (s.trapFlt e) := by
  change execMsend f s = _
  simp only [execMsend, ready, err, Bool.not_true, Bool.false_eq_true, if_false]

theorem exec_msend_full (sound : s.msendErr f = none) (full : 32 ≤ s.a.cmds.length) : exec (.msend f) s = .next (s.waitAt .room f f.d) := by
  change execMsend f s = _
  simp only [execMsend, ready, sound, State.cmdFull, full, Bool.not_true, Bool.false_eq_true, if_false, decide_true, if_true]

/-- The command of an MSEND. -/
def State.msendCmd (s : State) (f : AF) : Cmd :=
  { s.newCmd f .msend f.ocl.toNat (if bits (s.g f.sa).toNat 13 8 = s.dev.chip then 2 else 3) none (locEp s.focus (s.g f.sb).toNat) .none
      (bits f.imm.toNat 5 0) with aux := (s.g f.sa).toNat }

/-- The payload of an MSEND. -/
def State.msendExt (s : State) (f : AF) : Ext := Ext.of (locEp s.focus (s.g f.sb).toNat) (bits f.imm.toNat 5 0)

theorem exec_msend_takes (sound : s.msendErr f = none) (room : s.a.cmds.length < 32) :
    exec (.msend f) s = .next (((s.takeCmd (s.msendCmd f) [s.msendExt f]).onA s.focus fun a =>
      { a with send := { s.a.send with refused := false } }).result f.d (BitVec.ofNat 64 s.a.send.word)) := by
  change execMsend f s = _
  simp only [execMsend, ready, sound, State.cmdFull, decide_eq_true_eq, if_neg (show ¬ 32 ≤ s.a.cmds.length by omega), Bool.not_true,
    Bool.false_eq_true, if_false]
  rfl

end

theorem SendStat.word_eq (v : SendStat) : v.word = v.free % 65536 + v.clu % 256 * 2 ^ 16 + v.chip % 64 * 2 ^ 24
    + (if v.valid then 2 ^ 30 else 0) + (if v.refused then 2 ^ 31 else 0) := rfl

theorem space_of_locParse_sp {v c a : Nat} (h : locParse v = some (.sp c a)) : bits v 63 62 = 1 := by
  simp only [locParse] at h
  split at h
  · split at h <;> cases h
  · assumption
  · split at h
    · cases h
    · split at h
      · split at h <;> cases h
      · cases h
  · cases h

/-- The malformed-locator check of a scratchpad operand passes for SPACE 01 alone. -/
theorem locForm_sp_of_space {v : Nat} (other : bits v 63 62 ≠ 1) :
    locForm v (spaceIn false true false) = some { code := 3, detail := 4, tval := v } := by
  simp only [locForm]
  split
  · next e parsed =>
    cases e with
    | sp c a => exact absurd (space_of_locParse_sp parsed) other
    | va | tw | none => rfl
  · rfl

theorem locForm_sp {v : Nat} (h : v / 2 ^ 30 = 2 ^ 32) : locForm v (spaceIn false true false) = none := by
  have space : bits v 63 62 = 1 := by rw [bits]; omega
  have high : bits v 61 30 = 0 := by rw [bits]; omega
  rw [locForm, locParse, space, high]
  rfl

/-- A payload that is not in scratchpad space is a malformed locator. -/
theorem State.msendErr_malformed {s : State} {f : AF} (other : (s.g f.sb).toNat / 2 ^ 62 ≠ 1) :
    s.msendErr f = some { code := 3, detail := 4, tval := (s.g f.sb).toNat } := by
  have space : bits (s.g f.sb).toNat 63 62 ≠ 1 := by
    have := (s.g f.sb).isLt
    rw [bits]
    omega
  rw [State.msendErr, locForm_sp_of_space space]
  rfl

/-- A target above the last cluster is out of scope. -/
theorem State.msendErr_scope {s : State} {f : AF} (high : 191 < (s.g f.sa).toNat % 256) (local_ : (s.g f.sb).toNat / 2 ^ 30 = 2 ^ 32) :
    s.msendErr f = some { code := 3, detail := 5, tval := (s.g f.sa).toNat } := by
  have beyond : ¬ bits (s.g f.sa).toNat 7 0 < 192 := by rw [bits_low]; omega
  rw [State.msendErr, locForm_sp local_, decide_eq_false beyond]
  rfl

theorem messageSend : Clause.MessageSend := by
  unfold Clause.MessageSend
  intro f s ready
  refine ⟨fun sound room => ?takes, fun sound full => exec_msend_full ready sound full ▸ s.waitsHere_waitAt .room f f.d,
    fun high local_ => ?scope, fun other => ?malformed⟩
  case takes =>
    obtain ⟨same, focus, -, -, -, pc, g, -, -⟩ := s.takeCmd_spec (s.msendCmd f) [s.msendExt f]
    obtain ⟨ask, wins, cmds⟩ := State.cmds_takeCmd_of_pieces (s := s) (k := s.msendCmd f) [s.msendExt f] Nat.zero_ne_one
    have step := exec_msend_takes ready sound room
    generalize s.takeCmd (s.msendCmd f) [s.msendExt f] = u at *
    rw [← focus] at step
    have a := u.a_onA fun a => { a with send := { s.a.send with refused := false } }
    generalize hv : (u.onA u.focus fun a => { a with send := { s.a.send with refused := false } }) = v at a step
    obtain ⟨reg, pc', -, -⟩ := v.result_spec f.d (BitVec.ofNat 64 s.a.send.word)
    have others := v.besideG_result f.d (BitVec.ofNat 64 s.a.send.word)
    have vg (r : BitVec 6) : v.g r = s.g r := by rw [State.g, a, State.g, ACore.reg, ACore.reg, g]
    refine ⟨_, { s.msendCmd f with lock := 0, ask := ask, wins := wins }, step, (congrArg ACore.cmds others).trans ?_, rfl, rfl, rfl, ?_,
      (congrArg ACore.send others).trans ?_, ?_, fun some_ => ?_, fun r hr => ?_, same.trans (.trans (hv ▸ .onA u _ _) (.result v _ _))⟩
    · exact (congrArg ACore.cmds a).trans cmds
    · exact bits_low f.imm.toNat 5
    · rw [a]
      rfl
    · rw [pc', a, pc]
    · rw [reg, if_pos ⟨rfl, some_⟩, SendStat.word_eq]
    · rw [reg, if_neg fun h => hr h.1, vg]
  case scope => rw [exec_msend_trap ready (State.msendErr_scope high local_), State.trapFlt, BitVec.ofNat_toNat, BitVec.setWidth_eq]
  case malformed => rw [exec_msend_trap ready (State.msendErr_malformed other), State.trapFlt, BitVec.ofNat_toNat, BitVec.setWidth_eq]

/-- Settles O17, of tiles to and from the X-core, and of messages sent. -/
theorem tileTransfersAndMessages : Obligations.TileTransfersAndMessages := ⟨tileTransfers, messageSend⟩

end Sys2Proof.Machine
end

section
/-! PROOFS. The buffer instructions (R72, R73, R75, R146, R310). -/

namespace Sys2Proof.Machine
open Sys2Proof

/-- The buffer that an instruction names. -/
def State.named (s : State) (f : AF) : Buf := s.buf (quadOf s.focus) (bufNo f)

theorem State.holdsBuf_iff (s : State) (b : Buf) : s.holdsBuf b = true ↔ b.st = 1 ∧ b.who = quadPos s.focus := by
  simp [State.holdsBuf]

theorem State.recordsClear_iff (s : State) (b : Buf) : s.recordsClear b = true
    ↔ (s.homeCl b = s.focus → ∀ r ∈ s.cur.arr.recs, r.meets (s.cur.arr.factorFor r) (b.base * 16384) (b.len * 16384) = false) := by
  simp only [State.recordsClear, Bool.or_eq_true, bne_iff_ne, List.all_eq_true, Bool.not_eq_true', imp_iff_not_or, ne_eq]

/-- Nothing of the core meets the buffer that it gives: its accesses, stores of the quad that it has read, and its records (R73, R146, R354). -/
def State.givesClear (s : State) (b : Buf) : Prop :=
  s.a.rangeDrained (s.a.cmds ++ s.runCmds s.focus) (s.homeCl b) (b.base * 16384) (b.len * 16384) = true
    ∧ (s.runA s.focus).seenPending s.focus s.a.seq .qd = false
    ∧ (s.homeCl b = s.focus → ∀ r ∈ s.cur.arr.recs, r.meets (s.cur.arr.factorFor r) (b.base * 16384) (b.len * 16384) = false)

section
variable {s : State} {f : AF}

theorem State.give_of_clear (clear : s.givesClear (s.named f)) (to_ : Buf) :
    s.give f to_ = .next (s.setBuf (quadOf s.focus) (bufNo f) to_).advance := by
  obtain ⟨drained, seen, records⟩ := clear
  rw [← s.recordsClear_iff] at records
  exact if_pos (by simp only [State.named] at drained records; simp [drained, seen, records])

theorem State.give_of_not_clear (busy : ¬ s.givesClear (s.named f)) (to_ : Buf) : s.give f to_ = .next (s.waitAt .bgive f) := by
  refine if_neg fun h => busy ?_
  simp only [Bool.and_eq_true, Bool.not_eq_true'] at h
  obtain ⟨⟨drained, records⟩, seen⟩ := h
  exact ⟨drained, seen, (s.recordsClear_iff _).mp records⟩

theorem exec_bgive_faults (bad : s.holdsBuf (s.named f) = false ∨ bits f.imm.toNat 10 8 = quadPos s.focus
      ∨ s.inService (quadCluster (quadOf s.focus) (bits f.imm.toNat 10 8)) = false) :
    exec (.bgive f) s = .next (s.bufferFault (bufNo f)) := by
  refine if_pos ?_
  simp only [Bool.or_eq_true, Bool.not_eq_true', beq_iff_eq, or_assoc]
  exact bad

theorem exec_bgive_gives (held : s.holdsBuf (s.named f) = true) (other : bits f.imm.toNat 10 8 ≠ quadPos s.focus)
    (serves : s.inService (quadCluster (quadOf s.focus) (bits f.imm.toNat 10 8)) = true) :
    exec (.bgive f) s = s.give f { s.named f with st := 2, who := bits f.imm.toNat 10 8 } := by
  refine if_neg ?_
  simp only [Bool.or_eq_true, Bool.not_eq_true', beq_iff_eq, serves, Bool.true_eq_false, or_false, not_or, Bool.not_eq_false]
  exact ⟨held, other⟩

theorem exec_bgiveNone_faults (other : s.holdsBuf (s.named f) = false) : exec (.bgiveNone f) s = .next (s.bufferFault (bufNo f)) :=
  if_pos (by rw [← State.named, other]; rfl)

theorem exec_bgiveNone_gives (held : s.holdsBuf (s.named f) = true) : exec (.bgiveNone f) s = s.give f Buf.free :=
  if_neg (by rw [← State.named, held]; decide)

/-! ### BTAKE (R72, R310) -/

variable (ready : s.ready [f.d] = true)
include ready

/-- The buffer that BTAKE defines at a FREE entry. -/
def State.taking (s : State) (f : AF) : Buf :=
  { st := 1, base := bits f.imm.toNat 15 8, len := bits f.imm.toNat 23 16, home := quadPos s.focus, who := quadPos s.focus }

theorem exec_btake_defines (free : (s.named f).st = 0) (some_ : bits f.imm.toNat 23 16 ≠ 0)
    (within : bits f.imm.toNat 15 8 + bits f.imm.toNat 23 16 ≤ 192)
    (apart : ∀ i < 64, (s.buf (quadOf s.focus) i).meets (quadPos s.focus) (bits f.imm.toNat 15 8 * 16384) (bits f.imm.toNat 23 16 * 16384) = false) :
    exec (.btake f) s
      = .next ((s.setBuf (quadOf s.focus) (bufNo f) (s.taking f)).result f.d (s.taking f).descriptor) := by
  have none : (List.range 64).any (fun i => (s.buf (quadOf s.focus) i).meets (quadPos s.focus) (bits f.imm.toNat 15 8 * 16384)
      (bits f.imm.toNat 23 16 * 16384)) = false :=
    List.any_eq_false.mpr fun i hi => by rw [apart i (List.mem_range.mp hi)]; exact Bool.false_ne_true
  rw [State.named] at free
  change execBtake f s = _
  simp only [execBtake, ready, free, none, some_, decide_eq_false (show ¬ 192 < bits f.imm.toNat 15 8 + bits f.imm.toNat 23 16 by omega), decide_false,
    Bool.not_true, Bool.false_eq_true, if_false, if_true, Bool.or_self]
  rfl

theorem exec_btake_outside (free : (s.named f).st = 0)
    (bad : bits f.imm.toNat 23 16 = 0 ∨ 192 < bits f.imm.toNat 15 8 + bits f.imm.toNat 23 16) :
    exec (.btake f) s = .next (s.bufferFault (bufNo f)) := by
  rw [State.named] at free
  change execBtake f s = _
  simp only [execBtake, ready, free, Bool.not_true, Bool.false_eq_true, if_false, if_true, Bool.or_eq_true, decide_eq_true_eq, if_pos (Or.inl bad)]

theorem exec_btake_takes (offered : (s.named f).st = 2) (mine : (s.named f).who = quadPos s.focus) (acquired : s.a.acqPending = false) :
    exec (.btake f) s = .next ((s.setBuf (quadOf s.focus) (bufNo f) { s.named f with st := 1 }).result f.d
      (Buf.descriptor { s.named f with st := 1 })) := by
  rw [State.named] at offered mine
  change execBtake f s = _
  simp only [execBtake, ready, offered, mine, acquired, Bool.not_true, Bool.false_eq_true, if_false, decide_true, beq_self_eq_true, Bool.and_self,
    if_true, OfNat.ofNat_ne_zero]
  simp only [State.named, mine]

theorem exec_btake_held (held : s.holdsBuf (s.named f) = true) : exec (.btake f) s = .next (s.result f.d (s.named f).descriptor) := by
  obtain ⟨st, -⟩ := (s.holdsBuf_iff _).mp held
  rw [State.named] at held st
  change execBtake f s = _
  simp only [execBtake, ready, st, held, Bool.not_true, Bool.false_eq_true, if_false, if_true, Nat.one_ne_zero, decide_eq_false (show ¬ 1 = 2 by decide),
    Bool.false_and]
  rfl

theorem exec_btake_waits (defined : (s.named f).st ≠ 0) (other : (s.named f).who ≠ quadPos s.focus) :
    exec (.btake f) s = .next (s.waitAt .btake f f.d) := by
  have held : s.holdsBuf (s.named f) = false := Bool.eq_false_iff.mpr fun h => other ((s.holdsBuf_iff _).mp h).2
  rw [State.named] at defined other held
  change execBtake f s = _
  simp only [execBtake, ready, defined, held, beq_false_of_ne other, Bool.not_true, Bool.false_eq_true, if_false, Bool.and_false]

theorem exec_bquery : exec (.bquery f) s = .next (s.result f.d (s.named f).descriptor) := by
  change execBquery f s = _
  rw [execBquery, whenReady, ready, if_pos rfl]
  rfl

end

/-- One entry has been written. -/
theorem State.bufs_setBuf (s : State) (q n : Nat) (v : Buf) (k : Nat) :
    NMap.get Buf.free (s.setBuf q n v).bufs k = if k = 64 * q + n then v else NMap.get Buf.free s.bufs k := NMap.get_set _ _ _ _

theorem SameBytes.setBuf (s : State) (q n : Nat) (v : Buf) : SameBytes s (s.setBuf q n v) := .of_clusters rfl rfl fun _ => rfl

/-- The instruction has written an entry of the quad's table, and has gone on. -/
theorem State.setBuf_advance_spec (s : State) (n : Nat) (v : Buf) {t : State} (ht : t = (s.setBuf (quadOf s.focus) n v).advance) :
    t.a.pc = s.a.pc + 8 ∧ (∀ k, NMap.get Buf.free t.bufs k = if k = 64 * quadOf s.focus + n then v else NMap.get Buf.free s.bufs k)
      ∧ (∀ r, t.g r = s.g r) ∧ SameBytes s t := by
  subst ht
  exact ⟨by rw [State.a_advance]; rfl, s.bufs_setBuf _ n v, fun r => State.g_advance _ r, (SameBytes.setBuf s _ n v).trans (.advance _)⟩

/-- The instruction has written an entry of the quad's table and a register, and has gone on. -/
theorem State.setBuf_result_spec (s : State) (n : Nat) (v : Buf) (d : BitVec 6) (w : W64) {t : State}
    (ht : t = (s.setBuf (quadOf s.focus) n v).result d w) :
    t.a.pc = s.a.pc + 8 ∧ (∀ k, NMap.get Buf.free t.bufs k = if k = 64 * quadOf s.focus + n then v else NMap.get Buf.free s.bufs k)
      ∧ (∀ r, t.g r = if r = d ∧ d ≠ 0 then w else s.g r) ∧ SameBytes s t := by
  obtain ⟨reg, pc, -, -⟩ := (s.setBuf (quadOf s.focus) n v).result_spec d w
  subst ht
  exact ⟨pc, s.bufs_setBuf _ n v, reg, (SameBytes.setBuf s _ n v).trans (.result _ d w)⟩

theorem Buf.descriptor_eq (b : Buf) : b.descriptor
    = if b.st = 0 then 0 else BitVec.ofNat 64 (b.base + b.len * 2 ^ 8 + b.home * 2 ^ 16 + b.who * 2 ^ 18 + b.st * 2 ^ 20) := by
  simp only [Buf.descriptor, beq_iff_eq]

/-! ### The obligation -/

/-- Settles O19, instruction by instruction. -/
theorem bufferInstructions : Obligations.BufferInstructions := by
  unfold Obligations.BufferInstructions
  intro f s
  have no : f.imm.toNat % 64 = bufNo f := (bits_low f.imm.toNat 5).symm
  have held : ((s.named f).st = 1 ∧ (s.named f).who = quadPos s.focus) ↔ s.holdsBuf (s.named f) = true := (s.holdsBuf_iff _).symm
  dsimp only
  simp only [no, ← Buf.descriptor_eq]
  change (_ → _ → _ → s.givesClear (s.named f) → _) ∧ _
  refine ⟨fun mine other serves clear => ⟨_, (exec_bgive_gives (held.mp mine) other serves).trans (State.give_of_clear clear _), s.setBuf_advance_spec _ _ rfl⟩,
    fun bad => exec_bgive_faults (bad.imp_left fun h => Bool.eq_false_iff.mpr fun g => h (held.mpr g)),
    fun mine clear => ⟨_, (exec_bgiveNone_gives (held.mp mine)).trans (State.give_of_clear clear _), s.setBuf_advance_spec _ _ rfl⟩,
    fun other => exec_bgiveNone_faults (Bool.eq_false_iff.mpr fun g => other (held.mpr g)),
    fun mine busy => (exec_bgiveNone_gives (held.mp mine)).trans (State.give_of_not_clear busy _) ▸ s.waitsHere_waitAt .bgive f 0,
    fun ready => ⟨fun free some_ within apart => ⟨_, exec_btake_defines ready free some_ within apart, s.setBuf_result_spec _ _ _ _ rfl⟩,
      exec_btake_outside ready, fun offered mine acquired => ⟨_, exec_btake_takes ready offered mine acquired, s.setBuf_result_spec _ _ _ _ rfl⟩,
      fun mine => exec_btake_held ready (held.mp mine), fun defined other => exec_btake_waits ready defined other ▸ s.waitsHere_waitAt .btake f f.d,
      exec_bquery ready⟩⟩

end Sys2Proof.Machine
end

section
/-! PROOFS. Resets, and bring-up step by step (R91, R112, R452, R471, R480-R484). -/

namespace Sys2Proof.Machine
open Sys2Proof

/-! ### The steps of a bring-up and their times (R483) -/

theorem bootEnds_mono (c : BootChecks) : Monotone (bootEnds c) := by
  refine monotone_nat_of_le_succ fun k => ?_
  rw [bootEnds, bootEnds, List.range_succ, List.map_append, List.sum_append]
  exact Nat.le_add_right _ _

/-- The seven steps are over within 1,600 ms. -/
theorem bootEnds_le (c : BootChecks) : bootEnds c 7 ≤ 1600 * 1250000 := by
  have total : bootEnds c 7 ≤ ((List.range 7).map fun i => bootLimits.getD i 0 * 1250000).sum :=
    List.sum_le_sum fun i _ => Nat.min_le_right _ _
  exact total.trans (by decide)

/-- A reset whose steps take no time has done all of them at once. -/
theorem bootEnds_eq_zero {c : BootChecks} (instant : ∀ n ∈ c.times, n = 0) (k : Nat) : bootEnds c k = 0 := by
  refine List.sum_eq_zero fun n hn => ?_
  obtain ⟨i, -, rfl⟩ := List.mem_map.mp hn
  have none : c.times.getD i 0 = 0 := by
    rw [List.getD_eq_getElem?_getD]
    cases found : c.times[i]? with
    | none => rfl
    | some n => exact instant n (List.mem_of_getElem? found)
  rw [none]
  exact Nat.zero_min _

/-- As many steps are over as have an end that has come. -/
theorem le_bootSteps {c : BootChecks} {e k : Nat} (hk : k ≤ 7) (past : bootEnds c k ≤ e) : k ≤ bootSteps c e := by
  have done_ : (List.range k).filter (fun i => decide (bootEnds c (i + 1) ≤ e)) = List.range k :=
    List.filter_eq_self.mpr fun i hi => decide_eq_true ((bootEnds_mono c (List.mem_range.mp hi)).trans past)
  obtain ⟨m, hm⟩ := Nat.exists_eq_add_of_le hk
  rw [bootSteps, hm, List.range_add, List.filter_append, done_, List.length_append, List.length_range]
  exact Nat.le_add_right _ _

theorem bootSteps_eq {c : BootChecks} {e k : Nat} (hk : k ≤ 7) (past : bootEnds c k ≤ e) (next : e < bootEnds c (k + 1)) : bootSteps c e = k := by
  have done_ : (List.range k).filter (fun i => decide (bootEnds c (i + 1) ≤ e)) = List.range k :=
    List.filter_eq_self.mpr fun i hi => decide_eq_true ((bootEnds_mono c (List.mem_range.mp hi)).trans past)
  obtain ⟨m, hm⟩ := Nat.exists_eq_add_of_le hk
  have later : ((List.range m).map (k + ·)).filter (fun i => decide (bootEnds c (i + 1) ≤ e)) = [] := by
    refine List.filter_eq_nil_iff.mpr fun i hi => ?_
    obtain ⟨j, -, rfl⟩ := List.mem_map.mp hi
    have mono : bootEnds c (k + 1) ≤ bootEnds c (k + j + 1) := bootEnds_mono c (by omega)
    rw [decide_eq_true_eq]
    omega
  rw [bootSteps, hm, List.range_add, List.filter_append, done_, later, List.append_nil, List.length_range]

theorem bootSteps_le (c : BootChecks) (e : Nat) : bootSteps c e ≤ 7 := (List.length_filter_le _ _).trans (by decide)

/-- A bring-up ends at stage 7 without a code, or before it with one. -/
theorem bootResult_cases (c : BootChecks) (i : Image) :
    bootResult c i = (7, 0) ∨ ((bootResult c i).1 < 7 ∧ (bootResult c i).2 ≠ 0) := by
  simp only [bootResult]
  iterate 7
    split
    · exact .inr ⟨by decide, by decide⟩
  exact .inl rfl

/-! ### Tables given by a function -/

/-- The entry of a table given by a function. -/
theorem NMap.get_ofFn {α : Type} [DecidableEq α] (d : α) (n : Nat) (f : Nat → α) (i : Nat) :
    NMap.get d (NMap.ofFn d n f) i = if i < n then f i else d := by
  suffices key : ∀ l : List Nat, l.Pairwise (· < ·) →
      NMap.get d (l.filterMap fun i => if f i = d then none else some (i, f i)) i = if i ∈ l then f i else d by
    rw [NMap.ofFn, key _ List.pairwise_lt_range]
    simp only [List.mem_range]
  intro l sorted
  induction l with
  | nil => rfl
  | cons k l ih =>
    obtain ⟨above, rest⟩ := List.pairwise_cons.mp sorted
    rw [List.filterMap_cons]
    by_cases zero : f k = d
    · rw [if_pos zero]
      dsimp only
      rw [ih rest]
      by_cases h : i = k
      · subst h; simp [zero]
      · simp [h]
    · rw [if_neg zero]
      dsimp only
      rw [NMap.get, ih rest]
      by_cases h : i = k
      · simp [h]
      · by_cases lt : i < k
        · have : i ∉ l := fun hi => by have := above i hi; omega
          simp [h, lt, this]
        · simp [h, lt]

/-! ### What a reset leaves (R483) -/

/-- The contents of a reset depend on no device register but the chips that are fenced. -/
theorem resetContents_of {i : Image} {t : State} (flash : t.flash = i) (ctxs : t.ctxs = []) (queues : t.queues = []) (disp : t.disp = Disp.reset)
    (reqs : t.reqs = []) (tags : t.tags = []) (fenced : t.dev.fenced = 0) (hbm : t.hbm = []) (poison : t.hbmPoison = [])
    (clusters : ∀ n, t.cl n = Cluster.reset ∨ ∃ p g d, t.cl n = imageCluster i p g d) : resetContents i t := by
  refine ⟨flash, ctxs, queues, disp, reqs, tags, fenced, fun b => by rw [hbm]; rfl, poison, fun n => ?_⟩
  rcases clusters n with c | ⟨p, g, d, c⟩
  · rw [c]; exact ⟨rfl, rfl, rfl, rfl, rfl, rfl, rfl, rfl⟩
  · rw [c]; exact ⟨rfl, rfl, rfl, rfl, rfl, rfl, rfl, rfl⟩

theorem resetContents_cleared (s : State) (i : Image) (d : Dev) (fenced : d.fenced = 0) : resetContents i { s.cleared i with dev := d } :=
  resetContents_of rfl rfl rfl rfl rfl rfl fenced rfl rfl fun _ => .inl rfl

/-! ### What bring-up leaves when it is over (R483, R484) -/

/-- The ports that come up: those with a neighbour that the image does not take out of service. -/
def portsUp (c : BootChecks) (i : Image) : List Nat := (List.range 16).filter fun p => c.ports.contains p && !i.portsOut.contains p

/-- The state of a bring-up that passes every check, with the GTC `g` and after the random draw `f`. -/
def State.upAt (s : State) (i : Image) (c : BootChecks) (g f : Nat) : State :=
  let d := imageDev i s.dev (bootFailed c i) g
  { s with
    fresh := f, dev := d, gtc := g, clusters := NMap.ofFn Cluster.reset 208 fun p => imageCluster i p g d.firstDue,
    pages := i.retired.foldl (fun m p => NMap.set .inService m p .offline) [],
    ports := (portsUp c i).foldl (fun m p => NMap.set Port.reset m p { Port.reset with up := true, lastAck := g, alignAt := g }) [],
    rel := { s.rel with failedRows := ((List.range 16).filter fun j => i.skip.getD j 12 != 12).map fun j => (j, i.skip.getD j 12) } }

/-- The state of a bring-up that a check with code `r.2` ends after step `r.1`. -/
def State.bootFails (s : State) (i : Image) (r : Nat × Nat) : State :=
  { s with dev := { s.dev with stage := r.1, bootFail := r.2, boot := none, image := i, secret := if r.2 = 1 then 0 else Config.deviceSecret } }

theorem State.bringUp_fails {s : State} {i : Image} {c : BootChecks} (fails : (bootResult c i).2 ≠ 0) :
    s.bringUp i c = s.bootFails i (bootResult c i) := if_pos fails

theorem State.bootGtc_spec (s : State) (i : Image) (ports : List Nat) : ∃ g f, s.bootGtc i ports = (g, { s with fresh := f }) := by
  by_cases master : (ports.isEmpty || i.routes.all (fun r => decide (i.chip ≤ r.1))) = true
  · exact ⟨0, s.fresh, if_pos master⟩
  · exact ⟨s.draw.1.toNat, s.fresh + 1, if_neg master⟩

theorem State.bringUp_up (s : State) {i : Image} {c : BootChecks} (passes : bootResult c i = (7, 0)) : ∃ g f, s.bringUp i c = s.upAt i c g f := by
  have none : ¬ (bootResult c i).2 ≠ 0 := by rw [passes]; decide
  obtain ⟨g, f, gtc⟩ := s.bootGtc_spec i (portsUp c i)
  refine ⟨g, f, (if_neg none).trans ?_⟩
  rw [portsUp] at gtc
  rw [gtc]
  rfl

/-- A port that has come up at `g`. -/
def Port.upSince (g : Nat) : Port := { Port.reset with up := true, lastAck := g, alignAt := g }

theorem imageDev_failed (i : Image) (d : Dev) (failed : List Nat) (g : Nat) : (imageDev i d failed g).failed = failed := rfl

theorem State.port_upAt (s : State) (i : Image) (c : BootChecks) (g f : Nat) {p : Nat} (hp : p < 16) :
    ((s.upAt i c g f).port p).up = (c.ports.contains p && !i.portsOut.contains p) := by
  have got : (s.upAt i c g f).port p = if p ∈ portsUp c i then Port.upSince g else Port.reset :=
    NMap.get_foldl_set (fun _ => Port.upSince g) (portsUp c i) [] p
  have mem : p ∈ portsUp c i ↔ (c.ports.contains p && !i.portsOut.contains p) = true :=
    List.mem_filter.trans (and_iff_right (List.mem_range.mpr hp))
  rw [got]
  cases h : c.ports.contains p && !i.portsOut.contains p
  · rw [if_neg fun m => Bool.false_ne_true (h.symm.trans (mem.mp m))]
    rfl
  · rw [if_pos (mem.mpr h)]
    rfl

theorem State.pageSt_upAt (s : State) (i : Image) (c : BootChecks) (g f : Nat) {p : Nat} (hp : p ∈ i.retired) :
    (s.upAt i c g f).pageSt p = .offline :=
  (NMap.get_foldl_set (fun _ => PageSt.offline) i.retired [] p).trans (if_pos hp)

theorem State.cl_upAt (s : State) (i : Image) (c : BootChecks) (g f n : Nat) :
    (s.upAt i c g f).cl n = if (s.upAt i c g f).phys n < 208 then
      imageCluster i ((s.upAt i c g f).phys n) g (imageDev i s.dev (bootFailed c i) g).firstDue else Cluster.reset := NMap.get_ofFn _ _ _ _

theorem Dev.get_firstDue (d : Dev) {b : Nat} (hb : b < 16) : NMap.get 0 d.firstDue b = d.bootedAt + d.ivl * (tenthNs / 16) * (16 + b) :=
  (NMap.get_ofFn 0 16 _ b).trans (if_pos hb)

/-- The first due times of the banks are written before the first refresh (R91). -/
theorem State.dueOf_upAt (s : State) (i : Image) (c : BootChecks) (g f : Nat) {cl b : Nat} (hc : cl < 192) (hb : b < 16) :
    ((s.upAt i c g f).cl cl).ctl.dueOf b
      = (s.upAt i c g f).dev.bootedAt + (s.upAt i c g f).dev.ivl * (10 ^ 8 / 16) * (16 + b) := by
  rw [s.cl_upAt, if_pos (State.phys_lt _ hc)]
  exact Dev.get_firstDue (imageDev i s.dev (bootFailed c i) g) hb

theorem resetContents_upAt (s : State) (i : Image) (c : BootChecks) (g f : Nat) : resetContents i ((s.cleared i).upAt i c g f) := by
  refine resetContents_of (t := (s.cleared i).upAt i c g f) rfl rfl rfl rfl rfl rfl rfl rfl rfl fun n => ?_
  rw [State.cl_upAt]
  split
  · exact .inr ⟨_, _, _, rfl⟩
  · exact .inl rfl

/-- A bring-up that runs to its end from a reset state ends as the checks and the image say. -/
theorem bringUpEnded_cleared (s : State) (i : Image) (c : BootChecks) : bringUpEnded c i ((s.cleared i).bringUp i c) := by
  rcases bootResult_cases c i with passes | ⟨-, fails⟩
  · obtain ⟨g, f, up⟩ := (s.cleared i).bringUp_up passes
    have no : (bootResult c i).2 = 0 := by rw [passes]
    rw [up]
    have top : topWith (bootFailed c i).length = 0x6000000000 - (bootFailed c i).length * 0x30000000 := by unfold topWith; rfl
    refine ⟨resetContents_upAt s i c g f, rfl, passes.symm, fun h => absurd no h, fun _ =>
      ⟨rfl, rfl, rfl, rfl, imageDev_failed _ _ _ _, top, ?_, ?_, fun p hp => State.port_upAt _ i c g f hp, fun p hp => State.pageSt_upAt _ i c g f hp,
        fun cl b hc hb => State.dueOf_upAt _ i c g f hc hb⟩⟩
    · exact (BitVec.toNat_ofNat _ _).trans (Nat.mod_eq_of_lt ((Nat.mod_lt _ (by decide)).trans (by decide)))
    · exact (BitVec.toNat_ofNat _ _).trans (Nat.mod_eq_of_lt ((Nat.mod_lt _ (by decide)).trans (by decide)))
  · rw [State.bringUp_fails fails]
    exact ⟨resetContents_cleared s i _ rfl, rfl, rfl, fun _ => rfl, fun h => absurd h fails⟩

/-! ### The steps of a bring-up under way (R483) -/

/-- A bring-up shows that `k` of its steps are done. -/
def State.atStage (s : State) (k : Nat) : State := { s with dev := { s.dev with stage := k, secret := if k < 2 then 0 else Config.deviceSecret } }

/-- A bring-up is over where a step that fails is done, or all seven are; until then it comes to a step. -/
theorem State.bootTurn_eq {s : State} {b : Boot} (under : s.dev.boot = some b) :
    s.bootTurn = if (bootResult b.checks b.image).1 < bootSteps b.checks (s.clk - b.since) ∨ bootSteps b.checks (s.clk - b.since) = 7
      then (s.cleared b.image).bringUp b.image b.checks else s.atStage (bootSteps b.checks (s.clk - b.since)) := by
  have turn : s.bootTurn = if (bootResult b.checks b.image).1 < bootSteps b.checks (s.clk - b.since)
      then (s.cleared b.image).bringUp b.image b.checks
      else if (decide ((bootResult b.checks b.image).2 = 0) && decide (bootSteps b.checks (s.clk - b.since) = 7)) = true
      then (s.cleared b.image).bringUp b.image b.checks else s.atStage (bootSteps b.checks (s.clk - b.since)) := by
    unfold State.bootTurn
    split
    · next h => exact absurd (under.symm.trans h) (Option.some_ne_none b)
    · next d h =>
      obtain rfl := Option.some.inj (under.symm.trans h)
      rfl
  rw [turn]
  by_cases fails : (bootResult b.checks b.image).1 < bootSteps b.checks (s.clk - b.since)
  · rw [if_pos fails, if_pos (.inl fails)]
  rw [if_neg fails]
  by_cases last : bootSteps b.checks (s.clk - b.since) = 7
  · have passes : bootResult b.checks b.image = (7, 0) :=
      (bootResult_cases _ _).resolve_right fun ⟨before, _⟩ => fails (by omega)
    rw [if_pos (by rw [passes, last]; rfl), if_pos (.inr last)]
  · rw [if_neg (by rw [decide_eq_false last, Bool.and_false]; exact Bool.false_ne_true), if_neg (by rintro (h | h); exacts [fails h, last h])]

theorem State.bootTurn_ends {s : State} {b : Boot} (under : s.dev.boot = some b)
    (last : (bootResult b.checks b.image).1 < bootSteps b.checks (s.clk - b.since) ∨ bootSteps b.checks (s.clk - b.since) = 7) :
    bringUpEnded b.checks b.image s.bootTurn := by
  rw [State.bootTurn_eq under, if_pos last]
  exact bringUpEnded_cleared s b.image b.checks

theorem State.bootTurn_steps {s : State} {b : Boot} (under : s.dev.boot = some b) {k : Nat} (steps : bootSteps b.checks (s.clk - b.since) = k)
    (more : k < 7) (sound : k ≤ (bootResult b.checks b.image).1) : s.bootTurn = s.atStage k := by
  rw [State.bootTurn_eq under, steps, if_neg (by omega)]

/-! ### A reset begins bring-up (R483) -/

/-- The state in which a reset leaves the device before the first step of its bring-up. -/
def State.booting (s : State) (i : Image) (c : BootChecks) : State :=
  { s.cleared i with dev := { (s.cleared i).dev with image := i, boot := some { image := i, checks := c, since := s.clk } } }

theorem State.restart_eq (s : State) (i : Image) (c : BootChecks) : s.restart i c = (s.booting i c).bootTurn := rfl

theorem State.booting_elapsed (s : State) (i : Image) (c : BootChecks) : (s.booting i c).clk - s.clk = 0 := Nat.sub_self s.clk

theorem resetContents_restart (s : State) (i : Image) (c : BootChecks) : resetContents i (s.restart i c) := by
  rw [State.restart_eq, State.bootTurn_eq (b := { image := i, checks := c, since := s.clk }) rfl]
  split
  · exact (bringUpEnded_cleared (s.booting i c) i c).1
  · exact resetContents_cleared s i _ rfl

theorem bringUpEnded_restart (s : State) (i : Image) {c : BootChecks} (instant : ∀ n ∈ c.times, n = 0) : bringUpEnded c i (s.restart i c) := by
  have all := le_bootSteps (e := (s.booting i c).clk - s.clk) (Nat.le_refl 7) (by rw [bootEnds_eq_zero instant]; exact Nat.zero_le _)
  exact State.bootTurn_ends (s := s.booting i c) (b := { image := i, checks := c, since := s.clk }) rfl (.inr (Nat.le_antisymm (bootSteps_le _ _) all))

/-- While the first step lasts, no step is done. -/
theorem restart_stage_zero (s : State) (i : Image) {c : BootChecks} (lasts : 0 < c.times.getD 0 0) : s.restart i c = (s.booting i c).atStage 0 := by
  refine State.bootTurn_steps (s := s.booting i c) (b := { image := i, checks := c, since := s.clk }) rfl (bootSteps_eq (by decide) (Nat.zero_le _) ?_) (by decide) (Nat.zero_le _)
  rw [State.booting_elapsed]
  have limit : 0 < bootLimits.getD 0 0 * 1250000 := by decide
  exact Nat.lt_of_lt_of_eq (Nat.lt_min.mpr ⟨lasts, limit⟩) (Nat.add_zero _).symm

/-- Settles O52, from the steps that are over at a clk and the state that a bring-up leaves when it ends. -/
theorem bringUp : Obligations.BringUp := by
  unfold Obligations.BringUp
  refine ⟨fun c i s => ⟨rfl, rfl, ⟨_, rfl, resetContents_restart s s.flash c⟩, ⟨_, rfl, resetContents_restart s i c⟩,
    fun instant => ⟨_, rfl, bringUpEnded_restart s i instant⟩, fun lasts => ⟨_, rfl, ?_⟩⟩, fun s b under => ⟨?_, ?_, ?_, ?_⟩⟩
  · rw [restart_stage_zero s i lasts]
    exact ⟨rfl, rfl, rfl, rfl⟩
  · intro k hk past next sound
    rw [State.bootTurn_steps under (bootSteps_eq hk.le past next) hk sound]
    exact ⟨rfl, rfl, rfl, under⟩
  · intro k hk past fails
    exact State.bootTurn_ends under (.inl (fails.trans_le (le_bootSteps hk past)))
  · intro past
    exact State.bootTurn_ends under (.inr (Nat.le_antisymm (bootSteps_le _ _) (le_bootSteps (Nat.le_refl 7) past)))
  · intro late
    exact State.bootTurn_ends under (.inr (Nat.le_antisymm (bootSteps_le _ _) (le_bootSteps (Nat.le_refl 7) ((bootEnds_le _).trans late))))

end Sys2Proof.Machine
end

section
/-! PROOFS. Queue operands of X-core syllables (R82, R190-R193, R341, R436). -/

namespace Sys2Proof.Machine
open Sys2Proof

/-! ### What a pop takes (R82, R191) -/

theorem State.cl_spWriteN (s : State) (cl a n v : Nat) :
    ∃ sp, (s.spWriteN cl a n v).cl cl = { s.cl cl with sp := sp } := ⟨_, (WritesSp.spWrite s a (toBytes n v)).here⟩

/-- A pop of the mailbox takes a dword, and with the eighth the entry. -/
def mailPopped (p : Nat × Nat) : Nat × Nat := if p.1 < 7 then (p.1 + 1, p.2) else (0, (p.2 + 1) % 2 ^ 32)

theorem ite_mailPopped (b : Bool) (p : Nat × Nat) :
    (if b then mailPopped p else p) = if !b then (p.1, p.2) else if p.1 < 7 then (p.1 + 1, p.2) else (0, (p.2 + 1) % 2 ^ 32) := by
  cases b <;> rfl

/-- The place in the mailbox that a core has come to. -/
def Ctl.mailAt (c : Ctl) : Nat × Nat := (c.mbPos, c.mbHead)

/-- A load queue loses its first slot. -/
def XCore.popLoad (q : Nat) (x : XCore) : XCore := { x with lq := NMap.set [] x.lq q (NMap.get [] x.lq q).tail }
def XCore.popDrain (x : XCore) : XCore := { x with dq := x.dq.tail }
def XCore.popHold (x : XCore) : XCore := { x with hq := x.hq.tail }

theorem State.qPop_load (s : State) (cl : Nat) {q : Nat} (h : q < 8) : s.qPop cl q = s.onX cl (XCore.popLoad q) := if_pos h
theorem State.qPop_drain (s : State) (cl : Nat) : s.qPop cl 12 = s.onX cl XCore.popDrain := rfl
theorem State.qPop_hold (s : State) (cl : Nat) : s.qPop cl 13 = s.onX cl XCore.popHold := rfl

/-- A pop of the mailbox touches no part of the X-core. -/
theorem State.qPop_mail (s : State) (cl : Nat) :
    ((s.qPop cl 14).cl cl).x = (s.cl cl).x ∧ ((s.qPop cl 14).cl cl).ctl.mailAt = mailPopped (s.cl cl).ctl.mailAt := by
  by_cases more : (s.cl cl).ctl.mbPos < 7
  · have popped : s.qPop cl 14 = s.onCtl cl fun c => { c with mbPos := c.mbPos + 1 } := if_pos more
    rw [popped, State.cl_onCtl_self, mailPopped, if_pos (show (s.cl cl).ctl.mailAt.1 < 7 from more)]
    exact ⟨rfl, rfl⟩
  · have popped : s.qPop cl 14 = (s.onCtl cl fun c => { c with mbPos := 0, mbHead := ((s.cl cl).ctl.mbHead + 1) % 2 ^ 32 }).spWriteN cl
        (s.cl cl).ctl.mbBase 8 (((s.cl cl).ctl.mbHead + 1) % 2 ^ 32) := if_neg more
    obtain ⟨sp, here⟩ := (s.onCtl cl fun c => { c with mbPos := 0, mbHead := ((s.cl cl).ctl.mbHead + 1) % 2 ^ 32 }).cl_spWriteN cl
      (s.cl cl).ctl.mbBase 8 (((s.cl cl).ctl.mbHead + 1) % 2 ^ 32)
    rw [popped, here, State.cl_onCtl_self, mailPopped, if_neg (show ¬ (s.cl cl).ctl.mailAt.1 < 7 from more)]
    exact ⟨rfl, rfl⟩

/-- The queues that a pop may change. -/
theorem State.qPop_cases (s : State) (cl q : Nat) : q < 8 ∨ q = 12 ∨ q = 13 ∨ q = 14 ∨ s.qPop cl q = s := by
  by_cases q < 8
  · exact .inl ‹_›
  by_cases q = 12
  · exact .inr (.inl ‹_›)
  by_cases q = 13
  · exact .inr (.inr (.inl ‹_›))
  by_cases q = 14
  · exact .inr (.inr (.inr (.inl ‹_›)))
  simp only [State.qPop, if_neg ‹¬ q < 8›, if_neg ‹¬ q = 12›, if_neg ‹¬ q = 13›, if_neg ‹¬ q = 14›, or_true]

/-- A part of the X-core that a pop of a queue leaves, if the pops of the tile queues leave it. -/
theorem State.qPop_keeps {γ : Type} (view : XCore → γ) (s : State) (cl q : Nat) (load : q < 8 → ∀ x, view (x.popLoad q) = view x)
    (drain : q = 12 → ∀ x : XCore, view x.popDrain = view x) (hold : q = 13 → ∀ x : XCore, view x.popHold = view x) :
    view ((s.qPop cl q).cl cl).x = view (s.cl cl).x := by
  rcases s.qPop_cases cl q with h | h | h | h | h
  · rw [s.qPop_load cl h, State.cl_onX_self]
    exact load h _
  · subst h
    rw [s.qPop_drain, State.cl_onX_self]
    exact drain rfl _
  · subst h
    rw [s.qPop_hold, State.cl_onX_self]
    exact hold rfl _
  · subst h
    rw [(s.qPop_mail cl).1]
  · rw [h]

theorem State.qPop_ctl (s : State) (cl : Nat) {q : Nat} (other : q ≠ 14) : ((s.qPop cl q).cl cl).ctl = (s.cl cl).ctl := by
  rcases s.qPop_cases cl q with h | h | h | h | h
  · rw [s.qPop_load cl h, State.cl_onX_self]
  · rw [h, s.qPop_drain, State.cl_onX_self]
  · rw [h, s.qPop_hold, State.cl_onX_self]
  · exact absurd h other
  · rw [h]

theorem State.focus_qPop_mail (s : State) (cl : Nat) : (s.qPop cl 14).focus = s.focus := by
  simp only [State.qPop, Nat.reduceLT, Nat.reduceEqDiff, if_false, if_true]
  split <;> rfl

theorem State.focus_qPop (s : State) (cl q : Nat) : (s.qPop cl q).focus = s.focus := by
  rcases s.qPop_cases cl q with h | h | h | h | h
  · rw [s.qPop_load cl h]; rfl
  · rw [h]; rfl
  · rw [h]; rfl
  · subst h
    exact s.focus_qPop_mail cl
  · rw [h]

/-! ### The pops of a syllable (R193) -/

/-- The queues that operands pop, popped. -/
def State.popAll (s : State) (cl : Nat) (qs : List (Nat × Bool × Bool)) : State :=
  qs.foldl (fun s o => if o.2.1 then s.qPop cl o.1 else s) s

theorem State.popAll_cons (s : State) (cl q : Nat) (pop stall : Bool) (qs : List (Nat × Bool × Bool)) :
    s.popAll cl ((q, pop, stall) :: qs) = (if pop then s.qPop cl q else s).popAll cl qs := rfl

/-- What no pop changes. -/
theorem State.popAll_keeps {γ : Type} (view : State → γ) {cl : Nat} (each : ∀ (s : State) (q : Nat), view (s.qPop cl q) = view s) (s : State)
    (qs : List (Nat × Bool × Bool)) : view (s.popAll cl qs) = view s := by
  induction qs generalizing s with
  | nil => rfl
  | cons o qs ih =>
    obtain ⟨q, pop, stall⟩ := o
    rw [State.popAll_cons, ih]
    cases pop
    · rfl
    · exact each s q

/-- What the pops of one queue alone change, among operands of different queues. -/
theorem State.popAll_view {γ : Type} (view : State → γ) (popped : γ → γ) {cl q : Nat} (hit : ∀ s : State, view (s.qPop cl q) = popped (view s))
    (miss : ∀ (s : State) (p : Nat), p ≠ q → view (s.qPop cl p) = view s) (s : State) {qs : List (Nat × Bool × Bool)}
    (distinct : (qs.map Prod.fst).Nodup) :
    view (s.popAll cl qs) = if (qs.any fun o => o.1 == q && o.2.1) then popped (view s) else view s := by
  induction qs generalizing s with
  | nil => rfl
  | cons o qs ih =>
    obtain ⟨p, pop, stall⟩ := o
    obtain ⟨fresh, rest⟩ := List.nodup_cons.mp distinct
    rw [State.popAll_cons, ih _ rest, List.any_cons]
    by_cases same : p = q
    · subst same
      have none : (qs.any fun o => o.1 == p && o.2.1) = false := List.any_eq_false.mpr fun o ho h =>
        fresh (List.mem_map.mpr ⟨o, ho, beq_iff_eq.mp (Bool.and_eq_true_iff.mp h).1⟩)
      rw [none, beq_self_eq_true]
      cases pop
      · rfl
      · exact hit s
    · have kept : view (if pop then s.qPop cl p else s) = view s := by
        cases pop
        · rfl
        · exact miss s p same
      rw [kept, beq_false_of_ne same, Bool.false_and, Bool.false_or]

theorem State.focus_popAll (s : State) (cl : Nat) (qs : List (Nat × Bool × Bool)) : (s.popAll cl qs).focus = s.focus :=
  State.popAll_keeps (cl := cl) State.focus (fun s q => s.focus_qPop cl q) s qs

theorem State.freeze_popAll (s : State) (cl : Nat) (qs : List (Nat × Bool × Bool)) : ((s.popAll cl qs).cl cl).x.freeze = (s.cl cl).x.freeze :=
  State.popAll_keeps (fun s => (s.cl cl).x.freeze)
    (fun s q => s.qPop_keeps XCore.freeze cl q (fun _ _ => rfl) (fun _ _ => rfl) fun _ _ => rfl) s qs

/-- A syllable pops the queues of its own cluster. -/
theorem State.popAll_focus (s : State) (qs : List (Nat × Bool × Bool)) :
    qs.foldl (fun s (q, pop, _) => if pop then s.qPop s.focus q else s) s = s.popAll s.focus qs := by
  suffices key : ∀ (qs : List (Nat × Bool × Bool)) (t : State), t.focus = s.focus →
      qs.foldl (fun s (q, pop, _) => if pop then s.qPop s.focus q else s) t = t.popAll s.focus qs from key qs s rfl
  intro qs
  induction qs with
  | nil => exact fun _ _ => rfl
  | cons o qs ih =>
    intro t here
    obtain ⟨q, pop, stall⟩ := o
    rw [List.foldl_cons, State.popAll_cons]
    cases pop
    · exact ih t here
    · simp only [if_true, here]
      exact ih _ ((t.focus_qPop _ q).trans here)

/-- The queues of a cluster after pops: each that is popped has lost its head. -/
structure State.Popped (s t : State) (cl : Nat) (qs : List (Nat × Bool × Bool)) : Prop where
  focus : t.focus = s.focus
  freeze : (t.cl cl).x.freeze = (s.cl cl).x.freeze
  load : ∀ q < 8, NMap.get [] (t.cl cl).x.lq q
    = if (qs.any fun o => o.1 == q && o.2.1) then (NMap.get [] (s.cl cl).x.lq q).tail else NMap.get [] (s.cl cl).x.lq q
  drain : (t.cl cl).x.dq = if (qs.any fun o => o.1 == 12 && o.2.1) then (s.cl cl).x.dq.tail else (s.cl cl).x.dq
  hold : (t.cl cl).x.hq = if (qs.any fun o => o.1 == 13 && o.2.1) then (s.cl cl).x.hq.tail else (s.cl cl).x.hq
  mail : (t.cl cl).ctl.mailAt = if (qs.any fun o => o.1 == 14 && o.2.1) then mailPopped (s.cl cl).ctl.mailAt else (s.cl cl).ctl.mailAt

theorem State.popped_popAll (s : State) (cl : Nat) {qs : List (Nat × Bool × Bool)} (distinct : (qs.map Prod.fst).Nodup) :
    s.Popped (s.popAll cl qs) cl qs where
  focus := s.focus_popAll cl qs
  freeze := s.freeze_popAll cl qs
  load q hq := State.popAll_view (fun s => NMap.get [] (s.cl cl).x.lq q) List.tail
    (fun s => by rw [s.qPop_load cl hq, State.cl_onX_self]; exact NMap.get_set_self _ _ _)
    (fun s p ne => s.qPop_keeps (fun x => NMap.get [] x.lq q) cl p (fun _ _ => NMap.get_set_ne _ _ (Ne.symm ne)) (fun _ _ => rfl) fun _ _ => rfl)
    s distinct
  drain := State.popAll_view (fun s => (s.cl cl).x.dq) List.tail (fun s => by rw [s.qPop_drain, State.cl_onX_self]; rfl)
    (fun s p ne => s.qPop_keeps XCore.dq cl p (fun _ _ => rfl) (fun h => absurd h ne) fun _ _ => rfl) s distinct
  hold := State.popAll_view (fun s => (s.cl cl).x.hq) List.tail (fun s => by rw [s.qPop_hold, State.cl_onX_self]; rfl)
    (fun s p ne => s.qPop_keeps XCore.hq cl p (fun _ _ => rfl) (fun _ _ => rfl) fun h => absurd h ne) s distinct
  mail := State.popAll_view (fun s => (s.cl cl).ctl.mailAt) mailPopped (fun s => (s.qPop_mail cl).2)
    (fun s p ne => congrArg Ctl.mailAt (s.qPop_ctl cl ne)) s distinct

/-! ### Results in flight touch no queue -/

/-- A state whose focused X-core differs in results in flight alone. -/
structure State.SameQueues (s t : State) : Prop where
  focus : t.focus = s.focus
  freeze : t.x.freeze = s.x.freeze
  lq : t.x.lq = s.x.lq
  dq : t.x.dq = s.x.dq
  hq : t.x.hq = s.x.hq
  ctl : t.cur.ctl = s.cur.ctl

theorem State.SameQueues.refl (s : State) : s.SameQueues s := ⟨rfl, rfl, rfl, rfl, rfl, rfl⟩

theorem State.SameQueues.trans {s t u : State} (h : s.SameQueues t) (k : t.SameQueues u) : s.SameQueues u :=
  ⟨k.focus.trans h.focus, k.freeze.trans h.freeze, k.lq.trans h.lq, k.dq.trans h.dq, k.hq.trans h.hq, k.ctl.trans h.ctl⟩

theorem State.x_xland (s : State) (pcl lat : Nat) (e : Eff) : (s.xland pcl lat e).x = { s.x with land := s.x.land
    ++ [{ due := s.x.vcyc + lat, issued := s.x.vcyc, slot := s.slot, pcl := pcl, eff := e, vig := none }] } := s.x_onX _

theorem State.sameQueues_xland (s : State) (pcl lat : Nat) (e : Eff) : s.SameQueues (s.xland pcl lat e) := by
  have x := s.x_xland pcl lat e
  exact ⟨rfl, by rw [x], by rw [x], by rw [x], by rw [x], (congrArg Cluster.ctl (s.cl_onX_self s.focus _) :)⟩

theorem State.Popped.after {s t u : State} {qs : List (Nat × Bool × Bool)} (p : s.Popped t s.focus qs) (k : t.SameQueues u) :
    s.Popped u s.focus qs := by
  obtain ⟨focus, freeze, lq, dq, hq, ctl⟩ := k
  have here : t.focus = s.focus := p.focus
  simp only [State.x, State.cur, focus, here] at freeze lq dq hq ctl
  exact ⟨focus.trans here, freeze.trans p.freeze, fun q h => by rw [lq]; exact p.load q h, dq.trans p.drain, hq.trans p.hold, by rw [ctl]; exact p.mail⟩

theorem State.Popped.before {s t u : State} {qs : List (Nat × Bool × Bool)} (k : s.SameQueues t) (p : t.Popped u t.focus qs) :
    s.Popped u s.focus qs := by
  obtain ⟨focus, freeze, lq, dq, hq, ctl⟩ := k
  obtain ⟨pfocus, pfreeze, load, drain, hold, mail⟩ := p
  simp only [State.x, State.cur, focus] at freeze lq dq hq ctl pfocus pfreeze load drain hold mail
  exact ⟨pfocus.trans rfl, pfreeze.trans freeze, fun q h => by rw [load q h, lq], by rw [drain, dq], by rw [hold, hq], by rw [mail, ctl]⟩

/-! ### The ways of a syllable with queue operands (R190-R193, R436) -/

/-- An operand of a mode finds its queue empty. -/
def State.findsEmpty (s : State) (f : XF) (stall : Bool) : Prop := ∃ o ∈ qOpnds f, o.2.2 = stall ∧ (s.qHead s.focus o.1).isEmpty = true

theorem State.qCancels_iff (s : State) (f : XF) : s.qCancels s.focus f = true ↔ s.findsEmpty f false := by
  simp only [State.qCancels, State.findsEmpty, List.any_eq_true, Bool.and_eq_true, Bool.not_eq_true']

theorem State.qStalls_iff (s : State) (f : XF) : s.qStalls s.focus f = true ↔ ¬ s.findsEmpty f false ∧ s.findsEmpty f true := by
  rw [State.qStalls, Bool.and_eq_true, Bool.not_eq_true', ← s.qCancels_iff f, Bool.not_eq_true]
  simp only [State.findsEmpty, List.any_eq_true, Bool.and_eq_true]

theorem State.xissue_stalls {s : State} {f : XF} (es : List (Nat × Eff)) (stalls : s.qStalls s.focus f = true) :
    s.xissue f es = .next (s.xfreeze .queue) := if_pos stalls

theorem State.xissue_cancelled {s : State} {f : XF} (es : List (Nat × Eff)) (empty : s.findsEmpty f false) :
    s.xissue f es = .next (s.xland 0 1 (.k7 false)) := by
  have still : ¬ s.qStalls s.focus f = true := fun h => ((s.qStalls_iff f).mp h).1 empty
  obtain ⟨o, ho, -, none⟩ := empty
  simp only [State.xissue, if_neg still]
  exact if_pos (List.any_eq_true.mpr ⟨o, ho, none⟩)

section
variable {s : State} {f : XF}

theorem State.not_qStalls (full : ∀ o ∈ qOpnds f, (s.qHead s.focus o.1).isEmpty = false) : ¬ s.qStalls s.focus f = true := fun h => by
  obtain ⟨o, ho, -, none⟩ := ((s.qStalls_iff f).mp h).2
  exact Bool.false_ne_true ((full o ho).symm.trans none)

theorem State.not_qCancels (full : ∀ o ∈ qOpnds f, (s.qHead s.focus o.1).isEmpty = false) : ¬ s.qCancels s.focus f = true := fun h => by
  obtain ⟨o, ho, -, none⟩ := (s.qCancels_iff f).mp h
  exact Bool.false_ne_true ((full o ho).symm.trans none)

theorem State.qPoisoned_eq_none (there : headsThere s f) : s.qPoisoned s.focus f = none := by
  rw [State.qPoisoned, Option.map_eq_none_iff]
  exact List.find?_eq_none.mpr fun o ho h => Bool.false_ne_true ((there o ho).2.symm.trans h)

theorem State.qPoisoned_eq_some {o : Nat × Bool × Bool} {ps : List (Nat × Bool × Bool)}
    (first : (qOpnds f).filter (fun o => (s.qHead s.focus o.1).poisoned) = o :: ps) : s.qPoisoned s.focus f = some o.1 := by
  have found : (qOpnds f).find? (fun o => (s.qHead s.focus o.1).poisoned) = some o := by rw [← List.head?_filter, first]; rfl
  exact congrArg (Option.map Prod.fst) found

theorem State.xissue_poisoned (es : List (Nat × Eff)) (full : ∀ o ∈ qOpnds f, (s.qHead s.focus o.1).isEmpty = false) {q : Nat}
    (poison : s.qPoisoned s.focus f = some q) : s.xissue f es = .next (s.queuePoison s.focus q) := by
  have some_ : ¬ ((qOpnds f).any fun o => (s.qHead s.focus o.1).isEmpty) = true := fun h => by
    obtain ⟨o, ho, none⟩ := List.any_eq_true.mp h
    exact Bool.false_ne_true ((full o ho).symm.trans none)
  simp only [State.xissue, if_neg (State.not_qStalls full)]
  refine (if_neg some_).trans ?_
  rw [poison]

/-- A syllable whose operands all find a sound head pops what it names. -/
theorem State.xissue_pops (es : List (Nat × Eff)) (there : headsThere s f) (distinct : ((qOpnds f).map Prod.fst).Nodup) :
    ∃ t, s.xissue f es = .next t ∧ s.Popped t s.focus (qOpnds f) := by
  have full : ∀ o ∈ qOpnds f, (s.qHead s.focus o.1).isEmpty = false := fun o ho => (there o ho).1
  have some_ : ¬ ((qOpnds f).any fun o => (s.qHead s.focus o.1).isEmpty) = true := fun h => by
    obtain ⟨o, ho, none⟩ := List.any_eq_true.mp h
    exact Bool.false_ne_true ((full o ho).symm.trans none)
  have landed (t : State) : t.SameQueues (es.foldl (fun s e => s.xland f.pcl.toNat e.1 e.2) t) :=
    List.foldlRecOn es _ (.refl t) fun u hu e _ => hu.trans (u.sameQueues_xland _ _ _)
  simp only [State.xissue, if_neg (State.not_qStalls full)]
  rw [if_neg some_, State.qPoisoned_eq_none there, State.popAll_focus]
  refine ⟨_, rfl, (s.popped_popAll s.focus distinct).after ?_⟩
  split
  · exact (landed _).trans (State.sameQueues_xland _ _ _ _)
  · exact landed _

/-! ### A shift across clusters (R341) -/

theorem exec_cshiftXc_cancelled (empty : s.findsEmpty f false ∨ s.latchCancels f = true) :
    exec (.cshiftXc f) s = .next (s.xland 0 1 (.k7 false)) := by
  have cancels : (s.qCancels s.focus f || s.latchCancels f) = true := by rw [Bool.or_eq_true, s.qCancels_iff]; exact empty
  change execCshiftXc f s = _
  simp only [execCshiftXc, cancels, if_true]

theorem exec_cshiftXc_stalls (stalls : s.qStalls s.focus f = true) (latches : s.latchCancels f = false) :
    exec (.cshiftXc f) s = .next (s.xfreeze .queue) := by
  have none : ¬ s.qCancels s.focus f = true := by rw [s.qCancels_iff]; exact ((s.qStalls_iff f).mp stalls).1
  change execCshiftXc f s = _
  simp only [execCshiftXc, latches, Bool.or_false, if_neg none, if_pos stalls]

theorem exec_cshiftXc_poisoned (full : ∀ o ∈ qOpnds f, (s.qHead s.focus o.1).isEmpty = false) (latches : s.latchCancels f = false) {q : Nat}
    (poison : s.qPoisoned s.focus f = some q) : exec (.cshiftXc f) s = .next (s.queuePoison s.focus q) := by
  change execCshiftXc f s = _
  simp only [execCshiftXc, latches, Bool.or_false, if_neg (State.not_qCancels full), if_neg (State.not_qStalls full), poison]

/-- A state with the rows on their way that a shift sends to a neighbour. -/
def State.rowsSent (s : State) (f : XF) : State :=
  let south := f.fn.toNat % 4 == 2
  match s.neighbour s.focus (!south) with
  | some t => { s with flights := s.flights ++ [{ cl := t, north := south, rows := s.sentRows f south, sent := false }] }
  | none => s

/-- The rows and the results of a shift across clusters on their way, but for the tile that it moves. -/
def State.shiftSent (s : State) (f : XF) : State :=
  let south := f.fn.toNat % 4 == 2
  let t := ((s.rowsSent f).xland 0 1 (.k7 true)).xland 0 1 (.latch south)
  match s.neighbour s.focus (!south) with
  | some k => t.xland f.pcl.toNat 6 (.send k south)
  | none => t

theorem State.sameQueues_rowsSent (s : State) (f : XF) : s.SameQueues (s.rowsSent f) := by
  simp only [State.rowsSent]
  split
  · constructor <;> rfl
  · exact .refl s

theorem State.sameQueues_shiftSent (s : State) (f : XF) : s.SameQueues (s.shiftSent f) := by
  have taken (e : Eff) : s.SameQueues (((s.rowsSent f).xland 0 1 (.k7 true)).xland 0 1 e) :=
    ((s.sameQueues_rowsSent f).trans (State.sameQueues_xland _ _ _ _)).trans (State.sameQueues_xland _ _ _ _)
  simp only [State.shiftSent]
  split
  · exact (taken _).trans (State.sameQueues_xland _ _ _ _)
  · exact taken _

/-- What a shift across clusters leaves when it issues. -/
theorem exec_cshiftXc_issues (full : ∀ o ∈ qOpnds f, (s.qHead s.focus o.1).isEmpty = false) (latches : s.latchCancels f = false)
    (clean : s.qPoisoned s.focus f = none) :
    ∃ e, exec (.cshiftXc f) s = .next (((s.shiftSent f).popAll (s.shiftSent f).focus (qOpnds f)).xland f.pcl.toNat 6 e) := by
  have issues : ∃ e, exec (.cshiftXc f) s = if (s.qCancels s.focus f || s.latchCancels f) = true then .next (s.xland 0 1 (.k7 false))
      else if s.qStalls s.focus f = true then .next (s.xfreeze .queue)
      else match s.qPoisoned s.focus f with
      | some q => .next (s.queuePoison s.focus q)
      | none => .next (((qOpnds f).foldl (fun s (q, pop, _) => if pop then s.qPop s.focus q else s) (s.shiftSent f)).xland f.pcl.toNat 6 e) := ⟨_, rfl⟩
  obtain ⟨e, issues⟩ := issues
  refine ⟨e, issues.trans ?_⟩
  rw [latches, Bool.or_false, if_neg (State.not_qCancels full), if_neg (State.not_qStalls full), clean, State.popAll_focus]

theorem exec_cshiftXc_pops (there : headsThere s f) (distinct : ((qOpnds f).map Prod.fst).Nodup) (latches : s.latchCancels f = false) :
    ∃ t, exec (.cshiftXc f) s = .next t ∧ s.Popped t s.focus (qOpnds f) := by
  have full : ∀ o ∈ qOpnds f, (s.qHead s.focus o.1).isEmpty = false := fun o ho => (there o ho).1
  have sent := s.sameQueues_shiftSent f
  obtain ⟨e, moved⟩ := exec_cshiftXc_issues full latches (State.qPoisoned_eq_none there)
  exact ⟨_, moved, .before sent (.after (State.popped_popAll _ _ distinct) (State.sameQueues_xland _ _ _ _))⟩

end

/-! ### Poison stops the task that consumes it (R436, R441) -/

/-- Both cores of a cluster are idle, it holds no task, and nothing is in flight. -/
def Cluster.Stopped (c : Cluster) : Prop := c.ctl.occ = .free ∧ c.a.run = .idle ∧ c.x.run = .idle ∧ c.x.land = []

theorem Cluster.stopped_stop (c : Cluster) (node task : Nat) : (c.stop.shed node task).Stopped := ⟨rfl, rfl, rfl, rfl⟩

theorem Cluster.Stopped.shed {c : Cluster} (h : c.Stopped) (node task : Nat) : (c.shed node task).Stopped := h

theorem State.stopped_endTask (s : State) {cl : Nat} (f : Fate) (busy : (s.cl cl).ctl.occ ≠ .free) : ((s.endTask cl f).cl cl).Stopped := by
  rw [State.cl_endTask f busy, if_pos rfl]
  exact Cluster.stopped_stop _ _ _

/-- The end of a task leaves a stopped cluster stopped, and one with a task of a context either such or stopped. -/
theorem State.endTask_keeps {P : Cluster → Prop} {s : State} {n m : Nat} (f : Fate) (other : n ≠ m ∨ (s.cl n).ctl.occ = .free)
    (shed : ∀ c node task, P c → P (c.shed node task)) (h : P (s.cl m)) : P ((s.endTask n f).cl m) := by
  by_cases free : (s.cl n).ctl.occ = .free
  · rwa [State.endTask_of_free f free]
  · rw [State.cl_endTask f free, if_neg (other.resolve_right free).symm]
    exact shed _ _ _ h

theorem State.dropTasks_cons (s : State) (cid n : Nat) (l : List Nat) :
    s.dropTasks cid (n :: l) = (if (s.cl n).ctl.occ != .free && (s.cl n).ctl.cid == cid then s.endTask n .drop else s).dropTasks cid l := rfl

theorem State.stopped_dropTasks_of_stopped {s : State} {m : Nat} (cid : Nat) (l : List Nat) (h : (s.cl m).Stopped) :
    ((s.dropTasks cid l).cl m).Stopped := by
  induction l generalizing s with
  | nil => exact h
  | cons n l ih =>
    rw [State.dropTasks_cons]
    refine ih ?_
    split
    · refine State.endTask_keeps .drop ?_ (fun _ _ _ k => k.shed _ _) h
      by_cases e : n = m
      · exact .inr (e ▸ h.1)
      · exact .inl e
    · exact h

/-- A cluster that runs a task of the context is stopped. -/
theorem State.stopped_dropTasks {s : State} {m cid : Nat} {l : List Nat} (listed : m ∈ l)
    (busy : (s.cl m).ctl.occ ≠ .free) (its : (s.cl m).ctl.cid = cid) : ((s.dropTasks cid l).cl m).Stopped := by
  induction l generalizing s with
  | nil => cases listed
  | cons n l ih =>
    rw [State.dropTasks_cons]
    by_cases here : n = m
    · subst here
      rw [if_pos (by simp [busy, its])]
      exact State.stopped_dropTasks_of_stopped cid l (s.stopped_endTask .drop busy)
    · have later := (List.mem_cons.mp listed).resolve_left (Ne.symm here)
      split
      · obtain ⟨b, i⟩ := State.endTask_keeps (P := fun c => c.ctl.occ ≠ .free ∧ c.ctl.cid = cid) .drop (.inl here) (fun _ _ _ => id) ⟨busy, its⟩
        exact ih later b i
      · exact ih later busy its

theorem State.cl_dropRecords (s : State) (rs : List Susp) (m : Nat) : (s.dropRecords rs).cl m = s.cl m :=
  List.foldlRecOn (motive := fun t => State.cl t m = s.cl m) rs _ rfl fun _ ht _ _ => ht

/-- What is dropped of the suspended tasks of a context leaves a stopped cluster stopped. -/
theorem State.stopped_dropSuspended {s : State} {m : Nat} (cid : Nat) (h : (s.cl m).Stopped) : ((s.dropSuspended cid).cl m).Stopped := by
  refine List.foldlRecOn (motive := fun t => (State.cl t m).Stopped) _ _ ?_ fun t ht e _ => ?_
  · rw [s.cl_dropLate]
    exact h
  · split
    · split
      · rw [State.cl_dropRecords]; exact ht
      · exact ht
    · exact ht

theorem State.stopped_abortContext {s : State} {cl : Nat} (cid code detail tval : Nat) {m : Nat} (hm : m < 192)
    (busy : (s.cl m).ctl.occ ≠ .free) (its : (s.cl m).ctl.cid = cid) : ((s.abortContext cl cid code detail tval).cl m).Stopped := by
  have listed := List.mem_range.mpr hm
  rw [State.abortContext_eq]
  generalize List.range 192 = l at listed ⊢
  exact State.stopped_dropSuspended cid (State.stopped_dropTasks listed busy its)

theorem State.busy_of_runsOn {s : State} {node task cl : Nat} (here : s.runsOn node task = some cl) : (s.cl cl).ctl.occ ≠ .free := by
  have placed := List.find?_some here
  simp only [Bool.and_eq_true, bne_iff_ne] at placed
  exact placed.1.1

/-- The cluster of a task is stopped by a rung-4 event of it that has been counted: the task is requeued, or its context aborted. -/
theorem State.stopped_requeueRung4 {s t : State} {cl : Nat} (cls : ∀ m, t.cl m = s.cl m) (code detail tval : Nat)
    (here : s.runsOn (s.cl cl).ctl.node (s.cl cl).ctl.task = some cl) :
    ((t.requeueRung4 cl (s.cl cl).ctl.node (s.cl cl).ctl.task (s.cl cl).ctl.cid code detail tval).cl cl).Stopped := by
  have busy : (t.cl cl).ctl.occ ≠ .free := by rw [cls]; exact State.busy_of_runsOn here
  simp only [State.requeueRung4, (State.runsOn_congr cls _ _).trans here]
  split
  · exact State.stopped_abortContext _ _ _ _ (State.lt_of_runsOn here) busy (by rw [cls])
  · exact State.stopped_endTask _ .requeue busy

theorem State.corePoison_eq (s : State) (cl : Nat) (u : MemUnit) (addr src : Nat) : ∃ (seen : Bool) (g : Node → Node),
    s.corePoison cl u addr src = if (seen && (s.cl cl).ctl.occ != .free) = true
      then (s.report (srcCl cl src) 6 0x04 (s.cl cl).ctl.cid 0x04 0 addr (memKind u) 0).abortContext cl (s.cl cl).ctl.cid 0x04 0 addr
      else (s.onNode (s.cl cl).ctl.node g).rung4 cl src 0x04 0x04 0 addr 0 (memKind u) := ⟨_, _, rfl⟩

/-- The cluster of a task that consumes poison is stopped. -/
theorem State.stopped_corePoison {s : State} {cl : Nat} (u : MemUnit) (addr src : Nat)
    (here : s.runsOn (s.cl cl).ctl.node (s.cl cl).ctl.task = some cl) : ((s.corePoison cl u addr src).cl cl).Stopped := by
  have busy := State.busy_of_runsOn here
  obtain ⟨seen, g, poison⟩ := s.corePoison_eq cl u addr src
  rw [poison]
  split
  · exact State.stopped_abortContext _ _ _ _ (State.lt_of_runsOn here) busy rfl
  · have same : (s.onNode (s.cl cl).ctl.node g).cl cl = s.cl cl := s.cl_onNode _ g cl
    simp only [State.rung4, State.taskRung4, State.countRung4, same, if_neg busy]
    exact State.stopped_requeueRung4 (fun m => by rw [State.cl_onNode, State.cl_report, State.cl_onNode]) _ _ _ here

theorem State.stopped_queuePoison {s : State} {cl : Nat} (q : Nat) (here : s.runsOn (s.cl cl).ctl.node (s.cl cl).ctl.task = some cl) :
    ((s.queuePoison cl q).cl cl).Stopped := by
  simp only [State.queuePoison]
  split
  · exact State.stopped_corePoison _ _ _ here
  · exact State.stopped_corePoison _ _ _ here

/-! ### Every row with queue operands (R190-R193) -/

/-- The rows whose operands may be queues, but for the shift across clusters: those before it, and those after it. -/
def laneRows (f : XF) : List Instr :=
  [.vadd f, .vsub f, .vmul f, .vmulh f, .vmin f, .vmax f, .vand f, .vor f, .vxor f, .vshl f, .vshr f, .vsar f, .vabs f, .vsadd f, .vssub f, .vmadd f,
    .vcmp f, .vsel f, .vpopc f, .vclz f, .vmix f, .fadd f, .fsub f, .fmul f, .ffma f, .fmin f, .fmax f, .fminn f, .fmaxn f, .fabs f, .fneg f, .fcmp f,
    .frcp f, .frsq f, .fexp2 f, .flog2 f, .ftanh f, .cvt f, .cvtsr f, .planes f, .unplane f, .rotrow f, .rotcol f, .bcrow f, .bccol f, .redrow f,
    .redcol f, .scanrow f, .cshift f]
def moveRows (f : XF) : List Instr := [.trans16 f, .twld f, .twst f, .twldx f, .qpop f, .qpeek f, .qpush f]
def queueRows (f : XF) : List Instr := laneRows f ++ moveRows f

/-- Each of them issues with its operands and the results that its row gives. -/
theorem exec_queueRow {f : XF} {i : Instr} (s : State) (row : i ∈ queueRows f) : ∃ es, exec i s = s.xissue f es := by
  simp only [queueRows, laneRows, moveRows, List.cons_append, List.nil_append, List.mem_cons, List.not_mem_nil, or_false] at row
  repeat' rcases row with rfl | row
  all_goals exact ⟨_, rfl⟩

section
variable {f : XF} {i : Instr} {s : State} (row : i ∈ queueRows f ∨ i = .cshiftXc f)
include row

theorem exec_queueRow_stalls (stalls : s.qStalls s.focus f = true) (latches : i = .cshiftXc f → s.latchCancels f = false) :
    exec i s = .next (s.xfreeze .queue) := by
  rcases row with row | rfl
  · obtain ⟨es, issue⟩ := exec_queueRow s row
    rw [issue, State.xissue_stalls es stalls]
  · exact exec_cshiftXc_stalls stalls (latches rfl)

theorem exec_queueRow_cancelled (empty : s.findsEmpty f false ∨ (i = .cshiftXc f ∧ s.latchCancels f = true)) :
    exec i s = .next (s.xland 0 1 (.k7 false)) := by
  by_cases shift : i = .cshiftXc f
  · subst shift
    exact exec_cshiftXc_cancelled (empty.imp_right And.right)
  · obtain ⟨es, issue⟩ := exec_queueRow s (row.resolve_right shift)
    rw [issue, State.xissue_cancelled es (empty.resolve_right fun h => shift h.1)]

theorem exec_queueRow_pops (there : headsThere s f) (distinct : ((qOpnds f).map Prod.fst).Nodup)
    (latches : i = .cshiftXc f → s.latchCancels f = false) : ∃ t, exec i s = .next t ∧ s.Popped t s.focus (qOpnds f) := by
  rcases row with row | rfl
  · obtain ⟨es, issue⟩ := exec_queueRow s row
    rw [issue]
    exact State.xissue_pops es there distinct
  · exact exec_cshiftXc_pops there distinct (latches rfl)

theorem exec_queueRow_poisoned (full : ∀ o ∈ qOpnds f, (s.qHead s.focus o.1).isEmpty = false) {q : Nat}
    (poison : s.qPoisoned s.focus f = some q) (latches : i = .cshiftXc f → s.latchCancels f = false) :
    exec i s = .next (s.queuePoison s.focus q) := by
  rcases row with row | rfl
  · obtain ⟨es, issue⟩ := exec_queueRow s row
    rw [issue, State.xissue_poisoned es full poison]
  · exact exec_cshiftXc_poisoned full (latches rfl) poison

end

/-- Settles O23, from what a syllable with queue operands does where it stalls, is cancelled, pops, or finds poison. -/
theorem queueOperands : Obligations.QueueOperands := by
  unfold Obligations.QueueOperands
  intro f s i listed
  have split : i ∈ laneRows f ++ .cshiftXc f :: moveRows f := listed
  have row : i ∈ queueRows f ∨ i = .cshiftXc f := (List.mem_cons.mp (List.perm_middle.mem_iff.mp split)).symm
  refine ⟨fun stall sound latches => ?_, fun empty => ?_, fun there distinct latches => ?_, fun o ps first full latches => ?_⟩
  · refine ⟨_, exec_queueRow_stalls row ((s.qStalls_iff f).mpr ⟨sound, stall⟩) latches, ?_, ?_, .onX s s.focus _⟩
    · rw [State.xfreeze, State.x_onX]
    · rw [State.xfreeze, State.x_onX]
  · have x := s.x_xland 0 1 (.k7 false)
    exact ⟨_, exec_queueRow_cancelled row empty, by rw [x], by rw [x], by rw [x], by rw [x], rfl, .onX s s.focus _⟩
  · obtain ⟨t, next, p⟩ := exec_queueRow_pops row there distinct latches
    obtain ⟨focus, freeze, load, drain, hold, mail⟩ := p
    have here : t.cur = t.cl s.focus := by rw [State.cur, focus]
    refine ⟨t, next, ?_, ?_, ?_, ?_, ?_⟩
    · rw [State.x, here]; exact freeze
    · rw [State.x, here]; exact load
    · rw [State.x, here]; exact drain
    · rw [State.x, here]; exact hold
    · rw [here]
      exact mail.trans (ite_mailPopped _ s.cur.ctl.mailAt)
  · intro at_ t
    have same : s.queuePoison s.focus o.1 = t := by simp only [State.queuePoison, queueWord]; rfl
    rw [← same]
    exact ⟨exec_queueRow_poisoned row full (State.qPoisoned_eq_some first) latches, fun here => State.stopped_queuePoison o.1 here⟩

end Sys2Proof.Machine
end

section
/-! PROOFS. Single issues of records that give results out of the array: DRAIN, ROWSTAT and VNEST (R69-R71, R251, R354, R363-R365). -/

namespace Sys2Proof.Machine
open Sys2Proof

/-! ### Lanes of a tile, and elements packed in one (R214, R323) -/

theorem Tile.lane_ofFn (f : Nat → W32) {l : Nat} (h : l < 1024) : Tile.lane (Tile.ofFn f) l = f l :=
  (NMap.get_ofFn 0 1024 f l).trans (if_pos h)

/-- Digits below a base, as a number. -/
def digitSum (b : Nat) (d : Nat → Nat) (n : Nat) : Nat := (List.range n).foldl (fun acc i => acc + d i % b * b ^ i) 0

theorem digitSum_succ (b : Nat) (d : Nat → Nat) (n : Nat) : digitSum b d (n + 1) = digitSum b d n + d n % b * b ^ n := by
  rw [digitSum, List.range_succ, List.foldl_append]
  rfl

theorem digitSum_lt {b : Nat} (hb : 0 < b) (d : Nat → Nat) (n : Nat) : digitSum b d n < b ^ n := by
  induction n with
  | zero => exact Nat.one_pos
  | succ n ih =>
    have digit : d n % b + 1 ≤ b := Nat.mod_lt _ hb
    calc digitSum b d (n + 1) = digitSum b d n + d n % b * b ^ n := digitSum_succ b d n
      _ < (d n % b + 1) * b ^ n := by rw [Nat.add_mul, Nat.one_mul]; omega
      _ ≤ b * b ^ n := Nat.mul_le_mul_right _ digit
      _ = b ^ (n + 1) := (Nat.pow_succ').symm

/-- Each digit of such a number. -/
theorem digit_digitSum {b : Nat} (hb : 0 < b) (d : Nat → Nat) {n j : Nat} (h : j < n) : digitSum b d n / b ^ j % b = d j % b := by
  induction n with
  | zero => omega
  | succ n ih =>
    have pos : 0 < b ^ j := Nat.pow_pos hb
    rw [digitSum_succ]
    rcases Nat.lt_succ_iff_lt_or_eq.mp h with lt | rfl
    · obtain ⟨k, rfl⟩ := Nat.exists_eq_add_of_lt lt
      rw [show d (j + k + 1) % b * b ^ (j + k + 1) = b ^ j * (b * (d (j + k + 1) % b * b ^ k)) by ring, Nat.add_mul_div_left _ _ pos,
        Nat.add_mul_mod_self_left, ih lt]
    · rw [Nat.add_mul_div_right _ _ pos, Nat.div_eq_of_lt (digitSum_lt hb d j), Nat.zero_add, Nat.mod_mod]

theorem toNat_packE (w : Nat) (e : Nat → Nat) : (packE w e).toNat = digitSum (2 ^ w) e (32 / w) := by
  have fits : digitSum (2 ^ w) e (32 / w) < 2 ^ 32 :=
    (digitSum_lt (by positivity) e _).trans_le (by rw [← Nat.pow_mul]; exact Nat.pow_le_pow_right (by decide) (Nat.mul_div_le 32 w))
  have digits : packE w e = BitVec.ofNat 32 (digitSum (2 ^ w) e (32 / w)) := by simp only [packE, digitSum, ← Nat.pow_mul]
  rw [digits, BitVec.toNat_ofNat, Nat.mod_eq_of_lt fits]

/-- Each element of a lane that they are packed in. -/
theorem elem_packE (w : Nat) (e : Nat → Nat) {j : Nat} (h : j < 32 / w) : (packE w e).toNat / 2 ^ (w * j) % 2 ^ w = e j % 2 ^ w := by
  rw [toNat_packE, Nat.pow_mul, digit_digitSum (by positivity) e h]

/-! ### A single issue of a record that has run (R355) -/

theorem Arr.engine_setRec (a : Arr) (r : Rec) : (a.setRec r).engine (engineOf r.ropc)
    = (a.engine (engineOf r.ropc)).filterMap fun q => if q.id = r.id then (if a.complete r then none else some r) else some q := by
  simp only [Arr.setRec]
  cases engineOf r.ropc <;> rfl

/-- A record replaced in its engine leaves the rest of the array. -/
theorem Arr.setRec_keeps (a : Arr) (r : Rec) : (a.setRec r).acc = a.acc ∧ (a.setRec r).drain = a.drain := by
  simp only [Arr.setRec]
  cases engineOf r.ropc <;> exact ⟨rfl, rfl⟩

/-- The record after a single issue. -/
def Rec.ran (r : Rec) : Rec := { r with j := r.j + 1, counted := r.counted + r.perIssue, scales := [] }

theorem State.writesSp_onWord (s : State) (cl a : Nat) (f : Nat → Nat) : s.WritesSp cl (s.onWord (cl, a) f) := by
  simp only [State.onWord]
  split
  · exact .report _ _ _ _ _ _ _ _ _ _
  · exact .softWrite s _ _

theorem State.writesSp_arriveAt (s : State) (cl : Nat) (r : Rec) (n err : Nat) : s.WritesSp cl (s.arriveAt (r.word cl) n err) := by
  simp only [Rec.word, State.arriveAt]
  cases r.cw with
  | none => exact .refl s
  | some a => exact s.writesSp_onWord cl a _

/-- What a single issue that has run leaves of its cluster: but for the scratchpad, where its arrival is made, and the record in its engine all
of it. -/
theorem State.cl_issued (s : State) (cl : Nat) (r : Rec) : ∃ sp, (s.issued cl r).cl cl = { s.cl cl with sp := sp, arr := (s.cl cl).arr.setRec r.ran } := by
  have arrival := (s.writesSp_arriveAt cl r r.perIssue 0).here
  have counted : s.issued cl r = (s.arriveAt (r.word cl) r.perIssue 0).onArr cl fun a => a.setRec r.ran := rfl
  rw [counted, State.cl_onArr_self]
  exact ⟨_, by rw [arrival]⟩

theorem State.issued_wordless (s : State) (cl : Nat) {r : Rec} (none : r.cw = none) : s.issued cl r = s.onArr cl fun a => a.setRec r.ran := by
  have word : r.word cl = .none := by rw [Rec.word, none]; rfl
  have counted : s.issued cl r = (s.arriveAt (r.word cl) r.perIssue 0).onArr cl fun a => a.setRec r.ran := rfl
  rw [counted, word]
  rfl

theorem Arr.complete_ran (a : Arr) (r : Rec) :
    a.complete r.ran = true ↔ ¬ (r.j + 1 < r.total ∨ r.failed = true ∨ (a.passes.any fun p => p.id == r.id) = true) := by
  have more : (a.passes.all fun p => p.id != r.id) = !(a.passes.any fun p => p.id == r.id) := List.not_any_eq_all_not.symm
  have total : r.ran.total = r.total := rfl
  change (decide (r.ran.total ≤ r.j + 1) && !r.failed && a.passes.all fun p => p.id != r.id) = true ↔ _
  rw [more, total, Bool.and_eq_true, Bool.and_eq_true, decide_eq_true_eq, Bool.not_eq_true', Bool.not_eq_true', not_or, not_or, Nat.not_lt,
    Bool.not_eq_true, Bool.not_eq_true, and_assoc]

/-- A single issue has run after steps that leave the engines and the sums still to be added. -/
theorem ranIssue_issued {s u : State} {cl : Nat} {r : Rec} (engine : (u.cl cl).arr.engine (engineOf r.ropc) = (s.cl cl).arr.engine (engineOf r.ropc))
    (passes : (u.cl cl).arr.passes = (s.cl cl).arr.passes) : ranIssue s (u.issued cl r) cl r := by
  obtain ⟨sp, here⟩ := u.cl_issued cl r
  have ran : (((u.issued cl r).cl cl).arr.engine (engineOf r.ropc)) = ((u.cl cl).arr.setRec r.ran).engine (engineOf r.ran.ropc) := by rw [here]; rfl
  refine ran.trans ((Arr.engine_setRec _ _).trans ?_)
  rw [show r.ran.ropc = r.ropc from rfl, engine]
  refine congrArg (List.filterMap · _) (funext fun q => ?_)
  have complete := (u.cl cl).arr.complete_ran r
  rw [passes] at complete
  by_cases same : q.id = r.id
  · rw [if_pos same, if_pos (show q.id = r.ran.id from same)]
    by_cases more : r.j + 1 < r.total ∨ r.failed = true ∨ ((s.cl cl).arr.passes.any fun p => p.id == r.id) = true
    · rw [if_pos more, if_neg fun h => complete.mp h more]
      rfl
    · rw [if_neg more, if_pos (complete.mpr more)]
  · rw [if_neg same, if_neg (show ¬ q.id = r.ran.id from same)]

/-- Copies that agree hold nothing back (R367). -/
theorem State.compared_agree (s : State) (cl : Nat) (r : Rec) (go : State → State) : s.compared cl r .agree go = go s := by
  have agrees : cmpFails r.pcl .agree = false := by
    rw [cmpFails]
    simp
  have same : (r.pcl == 2 && Cmp.agree == Cmp.dissent) = false := Bool.and_false _
  simp only [State.compared, agrees, same]
  rfl

/-! ### Accumulator elements written (R362) -/

/-- Zeros written to some accumulator elements. -/
def Arr.zeroed (es : List Nat) (a : Arr) : Arr := (es.map fun e => (e, (0 : W32))).foldl (fun a w => a.setAcc w.1 w.2) a

theorem Arr.zeroed_eq (es : List Nat) (a : Arr) : a.zeroed es = { a with acc := es.foldl (fun m e => NMap.set 0 m e 0) a.acc } := by
  induction es generalizing a with
  | nil => rfl
  | cons e es ih => exact ih _

/-- Elements of the accumulator memory cleared if a record says so. -/
def State.accCleared (s : State) (cl : Nat) (b : Bool) (es : List Nat) : State := if b then s.writeAcc cl (es.map fun a => (a, 0)) else s

/-- But for the elements cleared the cluster is as before. -/
theorem State.cl_accCleared (s : State) (cl : Nat) (b : Bool) (es : List Nat) :
    ∃ acc, (s.accCleared cl b es).cl cl = { s.cl cl with arr := { (s.cl cl).arr with acc := acc } }
      ∧ ∀ a, NMap.get 0 acc a = if b = true ∧ a ∈ es then 0 else NMap.get 0 (s.cl cl).arr.acc a := by
  cases b with
  | false => exact ⟨(s.cl cl).arr.acc, rfl, fun a => by rw [if_neg (by simp)]⟩
  | true =>
    refine ⟨es.foldl (fun m e => NMap.set 0 m e 0) (s.cl cl).arr.acc, ?_, fun a => ?_⟩
    · have written : (s.accCleared cl true es).cl cl = (s.onArr cl (Arr.zeroed es)).cl cl := rfl
      rw [written, State.cl_onArr_self, Arr.zeroed_eq]
    · rw [NMap.get_foldl_set (fun _ => (0 : W32)) es]
      simp only [true_and]

theorem SameBytes.accCleared (s : State) (cl : Nat) (b : Bool) (es : List Nat) : SameBytes s (s.accCleared cl b es) := by
  cases b with
  | false => exact .refl s
  | true => exact (SameBytes.onArr s cl (Arr.zeroed es)).trans (.of_clusters rfl rfl fun _ => rfl)

theorem Arr.adding_eq_false {a : Arr} {es : List Nat} (none : ∀ e ∈ es, a.adding [e] = false) : a.adding es = false := by
  refine List.any_eq_false.mpr fun p hp h => ?_
  obtain ⟨v, hv, named⟩ := List.any_eq_true.mp h
  have mem : v.1 ∈ es := List.contains_iff_mem.mp named
  have found : a.adding [v.1] = true := List.any_eq_true.mpr ⟨p, hp, List.any_eq_true.mpr ⟨v, hv, by simp⟩⟩
  rw [none v.1 mem] at found
  cases found

/-! ### DRAIN (R363) -/

/-- What the tile of a DRAIN holds in each slot of each lane. -/
theorem drainTile_spec (a : Arr) (ty : Nat) (sat : Bool) (a0 : Nat) {i c j : Nat} (hi : i < 16) (hc : c < 64) (hj : j < 32 / typeWidth ty) :
    (Tile.lane (drainTile a ty sat a0) (64 * i + c)).toNat / 2 ^ (typeWidth ty * j) % 2 ^ typeWidth ty
      = (convert 9 ty sat (fpVal .f32 (NMap.get 0 a.acc (a0 + 512 * i + 32 / typeWidth ty * c + j)).toNat)).1 % 2 ^ typeWidth ty := by
  rw [drainTile, Tile.lane_ofFn _ (by omega), elem_packE _ _ hj, show (64 * i + c) / 64 = i by omega, show (64 * i + c) % 64 = c by omega]
  rfl

section
variable {s : State} {cl : Nat} {r : Rec}

/-- A block that is neither poisoned nor still added to is converted, and cleared if the record says so. -/
theorem State.drainConvert_agree (sound : ∀ a ∈ drainBlock (r.addr 1 0).toNat (32 / typeWidth r.ty), s.accBad cl a = false ∧ (s.cl cl).arr.adding [a] = false)
    (go : Tile → State → State) : s.drainConvert cl r .agree go
      = go (drainTile (s.cl cl).arr r.ty (r.mods.testBit 4) (r.addr 1 0).toNat)
          (s.accCleared cl (r.mods.testBit 6) (drainBlock (r.addr 1 0).toNat (32 / typeWidth r.ty))) := by
  have quiet : (s.cl cl).arr.adding (drainBlock (r.addr 1 0).toNat (32 / typeWidth r.ty)) = false := Arr.adding_eq_false fun a ha => (sound a ha).2
  have clean : (drainBlock (r.addr 1 0).toNat (32 / typeWidth r.ty)).find? (fun a => s.accBad cl a) = none :=
    List.find?_eq_none.mpr fun a ha h => Bool.false_ne_true ((sound a ha).1.symm.trans h)
  simp only [State.drainConvert, quiet, clean, State.compared_agree]
  rfl

/-- The tile of the cluster's dq0 that a DRAIN adds. -/
def XCore.drained (t : Tile) (x : XCore) : XCore := { x with dq := x.dq ++ [t] }

theorem exec_drainSingleIssue_of_idle (idle : ((s.cl cl).arr.drain.bind fun d => d.data) = none) (runs : s.running cl 5 = some r) (work : GranuleCmp) :
    exec (.drainSingleIssue cl work) s = if r.mods.testBit 5 then .next (s.drainTake cl r work.cmp)
      else if (decide (8 ≤ (s.cl cl).x.dq.length) || s.filePaused cl || s.wordHeld cl r) = true then .next s
      else .next (s.drainConvert cl r work.cmp fun t s => (s.onX cl (XCore.drained t)).issued cl r) := by
  have none : ((s.cl cl).arr.drain.bind fun d => d.data.map fun bs => (d, bs)) = .none := by
    cases h : (s.cl cl).arr.drain with
    | none => rfl
    | some d =>
      rw [h] at idle
      change d.data = .none at idle
      rw [Option.bind_some, idle]
      rfl
  change execDrainSingleIssue cl work s = _
  simp only [execDrainSingleIssue, none, runs]
  rfl

/-- A DRAIN to dq0 converts its block when the queue and its word let it. -/
theorem exec_drainSingleIssue_dq {work : GranuleCmp} (idle : ((s.cl cl).arr.drain.bind fun d => d.data) = none) (runs : s.running cl 5 = some r)
    (agree : work.cmp = .agree)
    (sound : ∀ a ∈ drainBlock (r.addr 1 0).toNat (32 / typeWidth r.ty), s.accBad cl a = false ∧ (s.cl cl).arr.adding [a] = false)
    (queue : r.mods.testBit 5 = false) (room : (s.cl cl).x.dq.length < 8) (file : s.filePaused cl = false) (word : s.wordHeld cl r = false) :
    exec (.drainSingleIssue cl work) s = .next (((s.accCleared cl (r.mods.testBit 6) (drainBlock (r.addr 1 0).toNat (32 / typeWidth r.ty))).onX cl
      (XCore.drained (drainTile (s.cl cl).arr r.ty (r.mods.testBit 4) (r.addr 1 0).toNat))).issued cl r) := by
  rw [exec_drainSingleIssue_of_idle idle runs, queue, file, word, decide_eq_false (Nat.not_le.mpr room), agree, State.drainConvert_agree sound]
  rfl

/-- The tile image that a DRAIN to scratchpad has asked the banks for. -/
def State.drainAsked (s : State) (cl : Nat) (r : Rec) : TileWrite :=
  (s.cl cl).arr.drain.getD { id := r.id, at_ := (r.addr 32 1).toNat, ask := (s.cl cl).a.nextId, data := none, gran := [] }

/-- Asking for banks writes down the tile image, and nothing else but the order of requests. -/
theorem State.cl_drainAsk (s : State) (cl : Nat) (r : Rec) : ∃ n, (s.drainAsk cl r).cl cl
    = { s.cl cl with arr := { (s.cl cl).arr with drain := some (s.drainAsked cl r) }, a := { (s.cl cl).a with nextId := n } } := by
  cases h : (s.cl cl).arr.drain with
  | some d =>
    have asked : s.drainAsked cl r = d := by rw [State.drainAsked, h]; rfl
    have same : s.drainAsk cl r = s := if_pos (by rw [h]; rfl)
    rw [same, asked, ← h]
    exact ⟨(s.cl cl).a.nextId, rfl⟩
  | none =>
    have asked : s.drainAsked cl r = { id := r.id, at_ := (r.addr 32 1).toNat, ask := (s.cl cl).a.nextId, data := none, gran := [] } := by
      rw [State.drainAsked, h]; rfl
    have asks : s.drainAsk cl r = s.onCl cl _ := if_neg (by rw [h]; exact Bool.false_ne_true)
    rw [asks, State.cl_onCl_self, asked]
    exact ⟨(s.cl cl).a.nextId + 1, rfl⟩

theorem State.accBad_drainAsk (s : State) (cl : Nat) (r : Rec) (a : Nat) : (s.drainAsk cl r).accBad cl a = s.accBad cl a := by
  simp only [State.drainAsk]
  split <;> rfl

theorem SameBytes.drainAsk (s : State) (cl : Nat) (r : Rec) : SameBytes s (s.drainAsk cl r) := by
  simp only [State.drainAsk]
  split
  · exact .refl s
  · exact .onCl s cl _ rfl rfl

/-- A DRAIN to scratchpad waits for the banks of its tile image. -/
theorem exec_drainSingleIssue_waits {work : GranuleCmp} (idle : ((s.cl cl).arr.drain.bind fun d => d.data) = none) (runs : s.running cl 5 = some r)
    (scratchpad : r.mods.testBit 5 = true) (taken : (s.drainAsk cl r).drainFree cl (s.drainAsked cl r) = false) :
    exec (.drainSingleIssue cl work) s = .next (s.drainAsk cl r) := by
  obtain ⟨n, asking⟩ := s.cl_drainAsk cl r
  have drain : ((s.drainAsk cl r).cl cl).arr.drain = some (s.drainAsked cl r) := by rw [asking]
  rw [exec_drainSingleIssue_of_idle idle runs, if_pos scratchpad]
  simp only [State.drainTake, drain, taken, Bool.not_false, Bool.or_true, if_true]

/-- A tile image that has its tile. -/
def Arr.imaged (d : TileWrite) (t : Tile) (a : Arr) : Arr := { a with drain := some { d with data := some (tileBytes t) } }

/-- It takes its tile when it has them all. -/
theorem exec_drainSingleIssue_takes {work : GranuleCmp} (idle : ((s.cl cl).arr.drain.bind fun d => d.data) = none) (runs : s.running cl 5 = some r)
    (agree : work.cmp = .agree)
    (sound : ∀ a ∈ drainBlock (r.addr 1 0).toNat (32 / typeWidth r.ty), s.accBad cl a = false ∧ (s.cl cl).arr.adding [a] = false)
    (scratchpad : r.mods.testBit 5 = true) (free : (s.drainAsk cl r).drainFree cl (s.drainAsked cl r) = true) (file : s.filePaused cl = false) :
    exec (.drainSingleIssue cl work) s = .next (((s.drainAsk cl r).accCleared cl (r.mods.testBit 6)
      (drainBlock (r.addr 1 0).toNat (32 / typeWidth r.ty))).onArr cl
        (Arr.imaged (s.drainAsked cl r) (drainTile (s.cl cl).arr r.ty (r.mods.testBit 4) (r.addr 1 0).toNat))) := by
  obtain ⟨n, asking⟩ := s.cl_drainAsk cl r
  have drain : ((s.drainAsk cl r).cl cl).arr.drain = some (s.drainAsked cl r) := by rw [asking]
  have paused : (s.drainAsk cl r).filePaused cl = false := by rw [State.filePaused, asking]; exact file
  have sums : ((s.drainAsk cl r).cl cl).arr.adding = (s.cl cl).arr.adding := by rw [asking]; rfl
  have tile : drainTile ((s.drainAsk cl r).cl cl).arr = drainTile (s.cl cl).arr := by rw [asking]; rfl
  have sound' : ∀ a ∈ drainBlock (r.addr 1 0).toNat (32 / typeWidth r.ty),
      (s.drainAsk cl r).accBad cl a = false ∧ ((s.drainAsk cl r).cl cl).arr.adding [a] = false := fun a ha => by
    rw [State.accBad_drainAsk, sums]; exact sound a ha
  rw [exec_drainSingleIssue_of_idle idle runs, if_pos scratchpad, agree]
  simp only [State.drainTake, drain, paused, free, Bool.not_true, Bool.or_self, Bool.false_eq_true, if_false, State.drainConvert_agree sound', tile]
  rfl

/-- What a DRAIN to dq0 leaves. -/
theorem issued_drained_spec (b : Bool) (es : List Nat) (t : Tile) (engine : engineOf r.ropc = .array) :
    let u := ((s.accCleared cl b es).onX cl (XCore.drained t)).issued cl r
    ranIssue s u cl r ∧ (u.cl cl).x.dq = (s.cl cl).x.dq ++ [t]
      ∧ ∀ a, NMap.get 0 (u.cl cl).arr.acc a = if b = true ∧ a ∈ es then 0 else NMap.get 0 (s.cl cl).arr.acc a := by
  obtain ⟨acc, cleared, values⟩ := s.cl_accCleared cl b es
  have drained : ((s.accCleared cl b es).onX cl (XCore.drained t)).cl cl
      = { s.cl cl with arr := { (s.cl cl).arr with acc := acc }, x := (s.cl cl).x.drained t } := by rw [State.cl_onX_self, cleared]
  obtain ⟨sp, here⟩ := ((s.accCleared cl b es).onX cl (XCore.drained t)).cl_issued cl r
  refine ⟨ranIssue_issued ?_ ?_, ?_, fun a => ?_⟩
  · rw [drained, engine]
    rfl
  · rw [drained]
  · rw [here, drained]
    rfl
  · rw [here, drained, ← values a]
    exact congrArg (NMap.get 0 · a) (Arr.setRec_keeps _ _).1

/-- What a tile image that gets its tile leaves. -/
theorem imaged_spec (b : Bool) (es : List Nat) (d : TileWrite) (t : Tile) :
    let u := ((s.drainAsk cl r).accCleared cl b es).onArr cl (Arr.imaged d t)
    (u.cl cl).arr.drain = some { d with data := some (tileBytes t) } ∧ (u.cl cl).arr.arrayE = (s.cl cl).arr.arrayE ∧ SameBytes s u
      ∧ ∀ a, NMap.get 0 (u.cl cl).arr.acc a = if b = true ∧ a ∈ es then 0 else NMap.get 0 (s.cl cl).arr.acc a := by
  obtain ⟨n, asking⟩ := s.cl_drainAsk cl r
  obtain ⟨acc, cleared, values⟩ := (s.drainAsk cl r).cl_accCleared cl b es
  rw [asking] at cleared values
  intro u
  have here : u.cl cl = _ := State.cl_onArr_self _ cl (Arr.imaged d t)
  rw [cleared] at here
  refine ⟨by rw [here]; rfl, by rw [here]; rfl, ?_, fun a => ?_⟩
  · exact ((SameBytes.drainAsk s cl r).trans (.accCleared _ cl b es)).trans (.onArr _ cl _)
  · rw [here]
    exact values a

/-! ### The granules of a tile image (R69-R71) -/

/-- A store into a scratchpad without poison arrives. -/
theorem State.cl_softWrite (clean : ∀ u, s.spPoisoned cl u 1 = false) (a : Nat) (bs : List Byte) :
    (s.softWrite cl a bs).cl cl = { s.cl cl with sp := (s.cl cl).sp.write a bs } := by
  have written := (State.spWrite_clean (State.spBad_eq_nil clean) a bs).1
  simp only [State.softWrite]
  split
  · exact written
  · exact written

/-- The granules of a tile image still to be written after granule `g`. -/
def TileWrite.left (d : TileWrite) (g : Nat) : List Nat := (List.range 128).filter fun i => i != g && !d.gran.contains i

theorem TileWrite.left_isEmpty (d : TileWrite) (g : Nat) : (d.left g).isEmpty = true ↔ ∀ i < 128, i ≠ g → i ∈ d.gran := by
  rw [List.isEmpty_iff, TileWrite.left]
  generalize (128 : Nat) = n
  rw [List.filter_eq_nil_iff]
  refine forall_congr' fun i => ?_
  rw [List.mem_range]
  refine forall_congr' fun _ => ?_
  rw [Bool.and_eq_true, bne_iff_ne, Bool.not_eq_true', List.contains_eq_mem, decide_eq_false_iff_not]
  tauto

/-- A tile image is no longer under way; or one more of its granules is. -/
def Arr.drainOver (a : Arr) : Arr := { a with drain := none }
def Arr.drainMore (d : TileWrite) (g : Nat) (a : Arr) : Arr := { a with drain := some { d with gran := d.gran ++ [g] } }

/-- A granule of a tile image that has its tile is written. -/
theorem exec_drainSingleIssue_granule {d : TileWrite} {bs : List Byte} {work : GranuleCmp} (image : (s.cl cl).arr.drain = some d) (data : d.data = some bs)
    (named : (s.cl cl).arr.arrayE.find? (fun q => q.id == d.id) = some r) (small : work.g < 128) (fresh : work.g ∉ d.gran) (file : s.filePaused cl = false)
    (wordless : r.cw = none) :
    exec (.drainSingleIssue cl work) s = .next (if (d.left work.g).isEmpty
      then ((s.softWrite cl (d.at_ + 32 * work.g) ((bs.drop (32 * work.g)).take 32)).onArr cl Arr.drainOver).issued cl r
      else (s.softWrite cl (d.at_ + 32 * work.g) ((bs.drop (32 * work.g)).take 32)).onArr cl (Arr.drainMore d work.g)) := by
  have under : ((s.cl cl).arr.drain.bind fun d => d.data.map fun bs => (d, bs)) = some (d, bs) := by rw [image, Option.bind_some, data]; rfl
  have new : d.gran.contains work.g = false := by rw [List.contains_eq_mem, decide_eq_false_iff_not]; exact fresh
  change execDrainSingleIssue cl work s = _
  simp only [execDrainSingleIssue, under, State.drainGranule, named, file, new, wordless, decide_eq_false (Nat.not_le.mpr small), Option.any_none,
    Bool.and_false, Bool.or_self, Bool.false_eq_true, if_false]
  rfl

/-- The cluster after the last granule of a tile image, and after another one. -/
theorem State.cl_granule_last (clean : ∀ u, s.spPoisoned cl u 1 = false) (wordless : r.cw = none) (a : Nat) (bs : List Byte) :
    (((s.softWrite cl a bs).onArr cl Arr.drainOver).issued cl r).cl cl
      = { s.cl cl with sp := (s.cl cl).sp.write a bs, arr := (s.cl cl).arr.drainOver.setRec r.ran } := by
  rw [State.issued_wordless _ cl wordless, State.cl_onArr_self, State.cl_onArr_self, State.cl_softWrite clean]

theorem State.cl_granule_more (clean : ∀ u, s.spPoisoned cl u 1 = false) (d : TileWrite) (g a : Nat) (bs : List Byte) :
    ((s.softWrite cl a bs).onArr cl (Arr.drainMore d g)).cl cl
      = { s.cl cl with sp := (s.cl cl).sp.write a bs, arr := (s.cl cl).arr.drainMore d g } := by
  rw [State.cl_onArr_self, State.cl_softWrite clean]

end

/-! ### ROWSTAT (R364) -/

/-- The elements that a ROWSTAT reads. -/
def rowstatBlock (r : Rec) : List Nat :=
  (List.range 16).flatMap fun i => (List.range r.cols.2).map fun c => (r.addr 1 0).toNat + 512 * i + r.cols.1 + c

theorem rowstatTile_spec (a : Arr) (a0 lo n : Nat) {i c : Nat} (hi : i < 16) (hc : c < 64) :
    Tile.lane (rowstatTile a a0 lo n) (64 * i + c) =
      let st := rowStats (fun c => (NMap.get 0 a.acc (a0 + 512 * i + c)).toNat) lo n
      if c = 0 then BitVec.ofNat 32 st.1 else if c = 1 then BitVec.ofNat 32 st.2.1 else if c = 2 then BitVec.ofNat 32 st.2.2 else 0 := by
  have row (f : Nat → Nat × Nat × Nat) : ((List.range 16).map f).getD i (0, 0, 0) = f i := by
    simp [List.getD_eq_getElem?_getD, hi]
  rw [rowstatTile, Tile.lane_ofFn _ (by omega), show (64 * i + c) / 64 = i by omega, show (64 * i + c) % 64 = c by omega]
  simp only [row]
  match c with
  | 0 => rfl
  | 1 => rfl
  | 2 => rfl
  | c + 3 => rfl

/-- The tile of the cluster's hq0 that a ROWSTAT adds. -/
def XCore.held (t : Tile) (x : XCore) : XCore := { x with hq := x.hq ++ [t] }

section
variable {s : State} {cl : Nat} {r : Rec}

theorem exec_rowstatSingleIssue (runs : s.running cl 6 = some r) (room : (s.cl cl).x.hq.length < 8) (file : s.filePaused cl = false)
    (word : s.wordHeld cl r = false) (sound : ∀ a ∈ rowstatBlock r, s.accBad cl a = false ∧ (s.cl cl).arr.adding [a] = false) :
    exec (.rowstatSingleIssue cl .agree) s
      = .next ((s.onX cl (XCore.held (rowstatTile (s.cl cl).arr (r.addr 1 0).toNat r.cols.1 r.cols.2))).issued cl r) := by
  have quiet : (s.cl cl).arr.adding (rowstatBlock r) = false := Arr.adding_eq_false fun a ha => (sound a ha).2
  have clean : (rowstatBlock r).find? (fun a => s.accBad cl a) = none :=
    List.find?_eq_none.mpr fun a ha h => Bool.false_ne_true ((sound a ha).1.symm.trans h)
  rw [rowstatBlock] at quiet clean
  change execRowstatSingleIssue cl .agree s = _
  simp only [execRowstatSingleIssue, runs, quiet, clean, file, word, decide_eq_false (Nat.not_le.mpr room), Bool.or_self, Bool.false_eq_true, if_false,
    State.compared_agree]
  rfl

/-! ### VNEST (R365) -/

theorem length_vnestGranule {ty : Nat} (type : ty = 3 ∨ ty = 9 ∨ ty = 11) (op mods : Nat) (gs : Nat → List Byte) :
    (vnestGranule ty op mods gs).length = 32 := by
  simp only [vnestGranule, List.length_flatMap, length_toBytes]
  rcases type with rfl | rfl | rfl <;> rfl

theorem State.spPoisoned_of_clean (clean : ∀ u, s.spPoisoned cl u 1 = false) (a n : Nat) : s.spPoisoned cl a n = false := by
  rw [State.spPoisoned, State.spBad_eq_nil clean]
  rfl

theorem exec_vnestSingleIssue (runs : s.running cl 7 = some r) (result : s.recWaits cl true (r.addr 32 0).toNat 32 = false)
    (sources : ∀ m ∈ (opsUsed 7 r.mods).filter (· != 0), s.recWaits cl false (r.addr 32 m).toNat 32 = false) (clean : ∀ u, s.spPoisoned cl u 1 = false)
    (wordless : r.cw = none) :
    exec (.vnestSingleIssue cl .agree) s = .next ((s.softWrite cl (r.addr 32 0).toNat
      (vnestGranule r.ty (r.mods / 16 % 8) r.mods fun m => (s.cl cl).sp.read (r.addr 32 m).toNat 32)).issued cl r) := by
  have free : ((opsUsed 7 r.mods).filter (· != 0)).any (fun m => s.recWaits cl false (r.addr 32 m).toNat 32) = false :=
    List.any_eq_false.mpr fun m hm h => Bool.false_ne_true ((sources m hm).symm.trans h)
  have sound : ((opsUsed 7 r.mods).filter (· != 0)).find? (fun m => s.spPoisoned cl (r.addr 32 m).toNat 32) = none :=
    List.find?_eq_none.mpr fun m _ h => Bool.false_ne_true ((State.spPoisoned_of_clean clean _ _).symm.trans h)
  have word : s.wordHeld cl r = false := by rw [State.wordHeld, wordless]; rfl
  change execVnestSingleIssue cl .agree s = _
  simp only [execVnestSingleIssue, runs, result, word, free, sound, Bool.or_self, Bool.false_eq_true, if_false, State.compared_agree]
  rfl

end

/-! ### The single issues of the three rows -/

/-- A running record is one of its row. -/
theorem State.ropc_of_running {s : State} {cl n : Nat} {r : Rec} (runs : s.running cl n = some r) : r.ropc = n := by
  simp only [State.running] at runs
  split at runs
  · cases runs
  · split at runs
    · split at runs
      · next h => exact Option.some.inj runs ▸ h
      · cases runs
    · cases runs

/-- The bytes of a granule of a tile image. -/
theorem byte_write_granule (m : Memory) (a g : Nat) {bs : List Byte} (whole : bs.length = 4096) (small : g < 128) :
    (∀ i < 32, (m.write a ((bs.drop (32 * g)).take 32)).byte (a + i) = bs.getD (32 * g + i) 0)
      ∧ ∀ b, b < a ∨ a + 32 ≤ b → (m.write a ((bs.drop (32 * g)).take 32)).byte b = m.byte b := by
  have len : ((bs.drop (32 * g)).take 32).length = 32 := List.length_take_of_le (by rw [List.length_drop]; omega)
  refine ⟨fun i hi => ?_, fun b hb => m.byte_write_of_outside a b _ (by omega)⟩
  rw [m.byte_write_of_inside a i _ (by omega), List.getElem_take, List.getElem_drop, List.getD_eq_getElem _ _ (by omega)]

/-- Settles O31, from what a single issue of each row leaves when nothing holds it back. -/
theorem outputSingleIssues : Obligations.OutputSingleIssues := by
  unfold Obligations.OutputSingleIssues
  intro s cl r arr dq
  refine ⟨fun runs => ?_, fun d bs work image data whole named row small fresh file wordless clean => ?_, fun runs => ?_, fun runs => ?_⟩
  · intro a0 a1 w n block tile cleared asked asking sound work agree empty
    have array : engineOf r.ropc = .array := by rw [State.ropc_of_running runs]; rfl
    have idle : ((s.cl cl).arr.drain.bind fun d => d.data) = none := by
      cases h : (s.cl cl).arr.drain with
      | none => rfl
      | some d =>
        have is : asked = d := by rw [show asked = s.drainAsked cl r from rfl, State.drainAsked, h]; rfl
        rw [Option.bind_some, ← is, empty]
    have holds : tile (drainTile (s.cl cl).arr r.ty (r.mods.testBit 4) a0) := fun i hi c hc j hj => drainTile_spec _ _ _ _ hi hc hj
    refine ⟨fun queue room file word => ?_, fun queue full => ?_, fun scratchpad => ⟨?_, .drainAsk s cl r, fun taken => ?_, fun free file => ?_⟩⟩
    · obtain ⟨ran, added, zero⟩ := issued_drained_spec (s := s) (cl := cl) (r.mods.testBit 6) block (drainTile (s.cl cl).arr r.ty (r.mods.testBit 4) a0) array
      exact ⟨_, _, exec_drainSingleIssue_dq idle runs agree sound queue room file word, ran, added, holds, zero⟩
    · rw [exec_drainSingleIssue_of_idle idle runs, queue, decide_eq_true full]
      rfl
    · obtain ⟨n, here⟩ := s.cl_drainAsk cl r
      exact congrArg (fun c : Cluster => c.arr.drain) here
    · exact exec_drainSingleIssue_waits idle runs scratchpad taken
    · obtain ⟨image, engine, same, zero⟩ := imaged_spec (s := s) (cl := cl) (r := r) (r.mods.testBit 6) block asked
        (drainTile (s.cl cl).arr r.ty (r.mods.testBit 4) a0)
      exact ⟨_, _, exec_drainSingleIssue_takes idle runs agree sound scratchpad free file, image, holds, zero, engine, same⟩
  · intro last at_
    have array : engineOf r.ropc = .array := by rw [row]; rfl
    obtain ⟨inside, outside⟩ := byte_write_granule (s.cl cl).sp at_ work.g whole small
    have step := exec_drainSingleIssue_granule image data named small fresh file wordless
    by_cases done : last
    · rw [if_pos ((d.left_isEmpty work.g).mpr done)] at step
      have here := State.cl_granule_last clean wordless at_ ((bs.drop (32 * work.g)).take 32)
      refine ⟨_, step, ?_, ?_, (congrArg (fun c : Cluster => c.x.dq) here :), fun _ => ⟨?_, ranIssue_issued ?_ ?_⟩, fun more => absurd done more⟩
      · rw [here]; exact inside
      · rw [here]; exact outside
      · exact ((congrArg (fun c : Cluster => c.arr.drain) here :)).trans (Arr.setRec_keeps _ _).2
      · rw [State.cl_onArr_self, State.cl_softWrite clean, array]
        rfl
      · rw [State.cl_onArr_self, State.cl_softWrite clean]
        rfl
    · rw [if_neg fun h => done ((d.left_isEmpty work.g).mp h)] at step
      have here := State.cl_granule_more clean d work.g at_ ((bs.drop (32 * work.g)).take 32)
      refine ⟨_, step, ?_, ?_, (congrArg (fun c : Cluster => c.x.dq) here :), fun l => absurd l done,
        fun _ => ⟨(congrArg (fun c : Cluster => c.arr.drain) here :), (congrArg (fun c : Cluster => c.arr.arrayE) here :)⟩⟩
      · rw [here]; exact inside
      · rw [here]; exact outside
  · intro a0 room file word fits sound
    have array : engineOf r.ropc = .array := by rw [State.ropc_of_running runs]; rfl
    have block : ∀ a ∈ rowstatBlock r, s.accBad cl a = false ∧ (s.cl cl).arr.adding [a] = false := fun a ha => by
      obtain ⟨i, hi, row⟩ := List.mem_flatMap.mp ha
      obtain ⟨c, hc, rfl⟩ := List.mem_map.mp row
      rw [Nat.add_assoc]
      exact sound i (List.mem_range.mp hi) _ (Nat.le_add_right _ _) (Nat.add_lt_add_left (List.mem_range.mp hc) _)
    have here := s.cl_onX_self cl (XCore.held (rowstatTile (s.cl cl).arr a0 r.cols.1 r.cols.2))
    obtain ⟨sp, issued⟩ := (s.onX cl (XCore.held (rowstatTile (s.cl cl).arr a0 r.cols.1 r.cols.2))).cl_issued cl r
    refine ⟨_, _, exec_rowstatSingleIssue runs room file word block, ranIssue_issued ?_ ?_, ?_, fun i hi c hc => rowstatTile_spec _ _ _ _ hi hc, fun wordless => ?_⟩
    · rw [here]
    · rw [here]
    · rw [issued, here]
      rfl
    · rw [State.issued_wordless _ cl wordless]
      exact (SameBytes.onX s cl _).trans (.onArr _ cl _)
  · intro at_ srcs result sources clean wordless type
    have written := State.cl_softWrite clean (at_ 0) (vnestGranule r.ty (r.mods / 16 % 8) r.mods fun m => (s.cl cl).sp.read (at_ m) 32)
    have len := length_vnestGranule type (r.mods / 16 % 8) r.mods fun m => (s.cl cl).sp.read (at_ m) 32
    have step := exec_vnestSingleIssue runs result sources clean wordless
    have issued := State.issued_wordless (s.softWrite cl (at_ 0) (vnestGranule r.ty (r.mods / 16 % 8) r.mods fun m => (s.cl cl).sp.read (at_ m) 32)) cl wordless
    have here := State.cl_onArr_self (s.softWrite cl (at_ 0) (vnestGranule r.ty (r.mods / 16 % 8) r.mods fun m => (s.cl cl).sp.read (at_ m) 32)) cl
      fun a => a.setRec r.ran
    rw [← issued, written] at here
    generalize vnestGranule r.ty (r.mods / 16 % 8) r.mods (fun m => (s.cl cl).sp.read (at_ m) 32) = granule at *
    refine ⟨_, step, ranIssue_issued (by rw [written]) (by rw [written]), ?_, fun b hb => ?_⟩
    · rw [here, ← len]
      exact Memory.read_write_self _ _ _
    · rw [here]
      exact Memory.byte_write_of_outside _ _ _ _ (by rw [len]; exact hb)


end Sys2Proof.Machine
end

section
/-! PROOFS. The progress of an accepted command: its start, its locks, its granules, its slot and its arrivals (R69-R71, R82, R143, R159, R160, R286,
R432). -/

namespace Sys2Proof.Machine
open Sys2Proof

/-! ### Commands in their core's list -/

section
variable {s : State} {cl id : Nat} {k : Cmd}

theorem State.cmd?_congr {t : State} (same : (t.cl cl).a.cmds = (s.cl cl).a.cmds) : t.cmd? cl id = s.cmd? cl id := by rw [State.cmd?, same]; rfl

/-- A command that asks for the locks of its next piece keeps everything else. -/
theorem State.cmd?_askLock {k₀ : Cmd} (found : s.cmd? cl id = some k₀) (named : k.id = id) : ∃ ask, (s.askLock cl k).cmd? cl id
    = some { k with lock := if k.lock ≠ 0 then k.lock else if k.piece < k.pieces then 1 else 0, ask := ask } := by
  simp only [State.askLock]
  by_cases asked : k.lock = 0
  · rw [if_neg (by simp [asked]), if_neg (not_not.mpr asked)]
    split
    · exact ⟨_, (State.cmd?_congr (by rw [State.cl_onA_self])).trans (State.cmd?_setCmd found named)⟩
    · exact ⟨_, State.cmd?_setCmd found named⟩
  · rw [if_pos (by simp [asked]), if_pos asked]
    exact ⟨_, State.cmd?_setCmd found named⟩

theorem SameBytes.askLock (s : State) (cl : Nat) (k : Cmd) : SameBytes s (s.askLock cl k) := by
  simp only [State.askLock]
  split
  · exact .onA s cl _
  · split
    · exact (SameBytes.onA s cl _).trans (.onA _ cl _)
    · exact .onA s cl _

/-! ### The start of a command (R143, R286, R432) -/

section
variable (found : s.cmd? cl id = some k)
include found

theorem exec_engineCommandStart_blocked (vigil : Bool) (cmps : List Cmp) (blocked : s.startBlocked cl k = true) :
    exec (.engineCommandStart cl id vigil cmps) s = .next s := by
  change execEngineCommandStart cl id vigil cmps s = _
  simp only [execEngineCommandStart, found, blocked, Bool.or_true, if_true]

variable (new : k.started = false) (turn : s.startBlocked cl k = false)
include new turn

theorem exec_engineCommandStart_diverges {vigil : Bool} (cmps : List Cmp) (differs : vigil = false ∨ k.vig = false) :
    exec (.engineCommandStart cl id vigil cmps) s = .next (s.cmdDivergence cl k) := by
  have unmatched : (vigil && k.vig) = false := by rcases differs with h | h <;> rw [h] <;> simp
  change execEngineCommandStart cl id vigil cmps s = _
  simp only [execEngineCommandStart, found, new, turn, unmatched, Bool.or_self, Bool.false_eq_true, if_false, Bool.not_false, if_true]

theorem exec_engineCommandStart_begins (cmps : List Cmp) (matched : k.vig = true) (sound : k.gatherErr = none) (kind : k.kind ≠ .msend) :
    exec (.engineCommandStart cl id true cmps) s = .next (s.askLock cl { k with started := true }) := by
  change execEngineCommandStart cl id true cmps s = _
  simp only [execEngineCommandStart, found, new, turn, matched, sound, if_neg kind, Bool.or_self, Bool.and_self, Bool.not_true, Bool.false_eq_true, if_false]

theorem exec_engineCommandStart_fails (cmps : List Cmp) (matched : k.vig = true) {c : Nat} (err : k.gatherErr = some c) :
    exec (.engineCommandStart cl id true cmps) s = .next (s.gatherFail cl k c) := by
  change execEngineCommandStart cl id true cmps s = _
  simp only [execEngineCommandStart, found, new, turn, matched, err, Bool.or_self, Bool.and_self, Bool.not_true, Bool.false_eq_true, if_false]

end

/-- A command that fails is complete. -/
theorem State.cmd?_failCmd (s : State) (cl : Nat) (k : Cmd) (err : Nat) : (s.failCmd cl k err).cmd? cl k.id = none := by
  simp only [State.failCmd]
  exact State.cmd?_dropCmd _ _ _

theorem State.cmd?_gatherFail (s : State) (cl : Nat) (k : Cmd) (code : Nat) : (s.gatherFail cl k code).cmd? cl k.id = none := by
  simp only [State.gatherFail]
  exact State.cmd?_failCmd _ _ _ _

/-! ### The locks of a tile transfer (R70) -/

theorem exec_tileTransferLock (found : s.cmd? cl id = some k) (asks : k.lock = 1) :
    exec (.tileTransferLock cl id) s = .next (if s.banksFree cl k then s.lockBanks cl k else s) := by
  change execTileTransferLock cl id s = _
  simp only [execTileTransferLock, found, asks]
  cases s.banksFree cl k <;> rfl

/-- No other command that counts holds or has asked for a bank. -/
theorem State.banksFree_of_unlocked (others : ∀ j ∈ (s.cl cl).a.cmds, j.id ≠ k.id → j.lock = 0) (image : (s.cl cl).arr.drain = none) :
    s.banksFree cl k = true := by
  have none : ((s.cl cl).a.cmds.any fun j => j.id != k.id && !j.givesWay (some k.seq)
      && ((j.lock == 2 && (j.banks j.piece).clash (k.banks k.piece)) || (j.lock == 1 && decide (j.ask < k.ask) && (j.banks j.piece).share (k.banks k.piece)))) = false := by
    refine List.any_eq_false.mpr fun j hj h => ?_
    simp only [Bool.and_eq_true, bne_iff_ne] at h
    simp [others j hj h.1.1] at h
  simp only [State.banksFree, none, image]
  rfl

/-- Another command that has issued before or has begun holds a bank. -/
theorem State.banksFree_of_locked {j : Cmd} (member : j ∈ (s.cl cl).a.cmds) (other : j.id ≠ k.id) (holds : j.lock = 2)
    (first : j.started = true ∨ j.seq ≤ k.seq) (clash : (j.banks j.piece).clash (k.banks k.piece) = true) : s.banksFree cl k = false := by
  have stays : j.givesWay (some k.seq) = false := by
    rcases first with h | h
    · rw [Cmd.givesWay, h]; rfl
    · rw [Cmd.givesWay, Option.any_some, decide_eq_false (Nat.not_lt.mpr h), Bool.and_false]
  have some_ : ((s.cl cl).a.cmds.any fun j => j.id != k.id && !j.givesWay (some k.seq)
      && ((j.lock == 2 && (j.banks j.piece).clash (k.banks k.piece)) || (j.lock == 1 && decide (j.ask < k.ask) && (j.banks j.piece).share (k.banks k.piece)))) = true :=
    List.any_eq_true.mpr ⟨j, member, by rw [bne_iff_ne.mpr other, stays, holds, clash]; rfl⟩
  simp only [State.banksFree, some_]
  rfl

/-- A tile image of a DRAIN holds a bank. -/
theorem State.banksFree_of_image {d : TileWrite} (image : (s.cl cl).arr.drain = some d) (data : d.data.isSome = true)
    (clash : (d.banks cl).clash (k.banks k.piece) = true) : s.banksFree cl k = false := by
  simp only [State.banksFree, image, Option.any_some, data, clash, if_true, Bool.not_true, Bool.and_false]

theorem Cmd.id_relocked (k j : Cmd) : (k.relocked j).id = j.id := by
  simp only [Cmd.relocked]
  split
  · rfl
  · split <;> rfl

/-- A transfer has the locks of its banks. -/
theorem State.cmd?_lockBanks (found : s.cmd? cl id = some k) : (s.lockBanks cl k).cmd? cl id = some { k with lock := 2 } := by
  have cmds : ((s.lockBanks cl k).cl cl).a.cmds = (s.cl cl).a.cmds.map k.relocked := (congrArg (fun c : Cluster => c.a.cmds) (s.cl_onA_self cl _) :)
  have ids : (fun j : Cmd => j.id == id) ∘ k.relocked = fun j => j.id == id := funext fun j => by rw [Function.comp_apply, Cmd.id_relocked]
  rw [State.cmd?, cmds, List.find?_map, ids, show List.find? (fun j => j.id == id) (s.cl cl).a.cmds = some k from found, Option.map_some,
    Cmd.relocked_self]

end

/-! ### The bytes of a granule (R71, R156) -/

theorem byteRuns_replicate_none (a q : Nat) : byteRuns a (List.replicate q none) = [] := by
  induction q generalizing a with
  | zero => rfl
  | succ q ih => exact ih _

theorem byteRuns_skip (a p : Nat) (os : List (Option Byte)) : byteRuns a (List.replicate p none ++ os) = byteRuns (a + p) os := by
  induction p generalizing a with
  | zero => rfl
  | succ p ih =>
    refine (ih (a + 1)).trans ?_
    rw [Nat.add_assoc, Nat.add_comm 1]

/-- Bytes next to each other are one run. -/
theorem byteRuns_run (a q : Nat) (b : Byte) (bs : List Byte) :
    byteRuns a ((b :: bs).map some ++ List.replicate q none) = [(a, b :: bs)] := by
  induction bs generalizing a b with
  | nil =>
    rw [List.map_singleton, List.singleton_append, byteRuns, byteRuns_replicate_none]
  | cons c bs ih =>
    have rest := ih (a + 1) c
    rw [List.map_cons, List.cons_append, byteRuns, rest]
    exact if_pos rfl

/-- Bytes from `lo` on within a window of `w` bytes at `a`: one run. -/
theorem byteRuns_window {a w lo n : Nat} (f : Nat → Byte) (pos : 0 < n) (low : a ≤ lo) (high : lo + n ≤ a + w) :
    byteRuns a ((List.range w).map fun o => if lo ≤ a + o ∧ a + o < lo + n then some (f (a + o - lo)) else none) = [(lo, (List.range n).map f)] := by
  obtain ⟨p, rfl⟩ := Nat.exists_eq_add_of_le low
  obtain ⟨q, hq⟩ : ∃ q, w = p + (n + q) := ⟨w - (p + n), by omega⟩
  subst hq
  have before : (List.range p).map (fun o => if a + p ≤ a + o ∧ a + o < a + p + n then some (f (a + o - (a + p))) else none) = List.replicate p none :=
    List.eq_replicate_iff.mpr ⟨by simp, fun b hb => by
      obtain ⟨o, ho, rfl⟩ := List.mem_map.mp hb
      exact if_neg (by have := List.mem_range.mp ho; omega)⟩
  have inside : (List.range n).map (fun o => if a + p ≤ a + (p + o) ∧ a + (p + o) < a + p + n then some (f (a + (p + o) - (a + p))) else none)
      = ((List.range n).map f).map some := by
    rw [List.map_map]
    refine List.map_congr_left fun o ho => ?_
    have := List.mem_range.mp ho
    rw [if_pos (by omega), show a + (p + o) - (a + p) = o by omega]
    rfl
  have after : (List.range q).map (fun o => if a + p ≤ a + (p + (n + o)) ∧ a + (p + (n + o)) < a + p + n then some (f (a + (p + (n + o)) - (a + p))) else none)
      = List.replicate q none :=
    List.eq_replicate_iff.mpr ⟨by simp, fun b hb => by
      obtain ⟨o, ho, rfl⟩ := List.mem_map.mp hb
      exact if_neg (by omega)⟩
  rw [List.range_add, List.range_add, List.map_append, List.map_append, List.map_append, List.map_map, List.map_map, List.map_map]
  simp only [Function.comp_def]
  rw [before, inside, after, byteRuns_skip]
  have some_ : 0 < ((List.range n).map f).length := by simpa using pos
  cases h : (List.range n).map f with
  | nil => rw [h] at some_; exact absurd some_ (Nat.lt_irrefl 0)
  | cons b bs => exact byteRuns_run _ _ _ _

/-- The byte at a place of a command's source. -/
def State.srcByte (s : State) (k : Cmd) (i : Nat) : Byte := (s.srcBytes k i 1).headD 0

theorem State.srcBytes_eq (s : State) {k : Cmd} (flat : k.copyTpl = none) (i n : Nat) :
    s.srcBytes k i n = (List.range n).map fun j => s.srcByte k (i + j) := by
  have at_ (c a i : Nat) : s.spRead c (k.spAddr a i) n = (List.range n).map fun j => (s.spRead c (k.spAddr a (i + j)) 1).headD 0 := by
    simp only [Cmd.spAddr, flat, ← Nat.add_assoc]
    rfl
  have buf : k.buf.read i n = (List.range n).map fun j => (k.buf.read (i + j) 1).headD 0 := rfl
  simp only [State.srcByte, State.srcBytes]
  split
  · exact at_ _ _ _
  · exact buf

section
variable {s : State} {cl id c a g : Nat} {k : Cmd} (dst : k.dst = .sp c a) (kind : k.kind ≠ .gather) (flat : k.copyTpl = none)
include dst flat

/-- A transfer into a scratchpad reads its source where it lies. -/
theorem Cmd.spElem_of_sp : k.spElem = none := by
  simp only [Cmd.spElem, dst, flat]
  cases k.src <;> rfl

include kind

theorem Cmd.pieceSpans_of_sp (p : Nat) : k.pieceSpans p = [{ i := 4096 * p, n := min 4096 (k.count - 4096 * p), a := a + 4096 * p }] := by
  simp only [Cmd.pieceSpans, flat, if_neg kind, dst, epAddr]

/-- The run of bytes that a granule of a piece holds. -/
def Cmd.granuleRun (k : Cmd) (a g : Nat) : Span :=
  let lo := max (a + 4096 * k.piece) (32 * g)
  { i := lo - a, n := min (a + 4096 * k.piece + min 4096 (k.count - 4096 * k.piece)) (32 * g + 32) - lo, a := lo }

/-- A granule of a piece is one run, of at least one byte, within the granule. -/
theorem Cmd.granuleSpans_of_sp (member : g ∈ k.granules k.piece) : k.granuleSpans k.piece g = [k.granuleRun a g] ∧ 0 < (k.granuleRun a g).n
    ∧ 32 * g ≤ (k.granuleRun a g).a ∧ (k.granuleRun a g).a + (k.granuleRun a g).n ≤ 32 * g + 32 := by
  have spans := k.pieceSpans_of_sp dst kind flat k.piece
  rw [Cmd.granules, spans, List.mem_eraseDups, List.flatMap_singleton, granulesOf] at member
  have meets : 0 < min 4096 (k.count - 4096 * k.piece) ∧ (a + 4096 * k.piece) / 32 ≤ g
      ∧ g ≤ (a + 4096 * k.piece + min 4096 (k.count - 4096 * k.piece) - 1) / 32 := by
    dsimp only at member
    split at member
    · cases member
    · next some_ =>
      obtain ⟨i, hi, rfl⟩ := List.mem_map.mp member
      have := List.mem_range.mp hi
      omega
  obtain ⟨size, low, high⟩ := meets
  have run : (({ i := 4096 * k.piece, n := min 4096 (k.count - 4096 * k.piece), a := a + 4096 * k.piece } : Span).cut g) = k.granuleRun a g := by
    have index : 4096 * k.piece + (max (a + 4096 * k.piece) (32 * g) - (a + 4096 * k.piece)) = max (a + 4096 * k.piece) (32 * g) - a := by omega
    exact congrArg (Span.mk · _ _) index
  have pos : 0 < (k.granuleRun a g).n := by
    simp only [Cmd.granuleRun]
    omega
  refine ⟨?_, pos, ?_, ?_⟩
  · rw [Cmd.granuleSpans, spans, List.map_singleton, run]
    exact List.filter_cons_of_pos (bne_iff_ne.mpr pos.ne')
  · exact Nat.le_max_right _ _
  · simp only [Cmd.granuleRun]
    omega

end

section
variable {s : State} {g : Nat} {k : Cmd} (kind : k.kind ≠ .gather) (flat : k.copyTpl = none) (plain : k.bcast = false)
include kind flat plain

/-- What is written of a granule: the source bytes of its run. -/
theorem State.granuleBytes_of_sp (x : Span) (pos : 0 < x.n) (low : 32 * g ≤ x.a) (high : x.a + x.n ≤ 32 * g + 32) :
    s.granuleBytes k g [x] = [(x.a, s.srcBytes k x.i x.n)] := by
  have last (i a : Nat) : k.isLast i a = true := by simp only [Cmd.isLast, flat]
  have here (o : Nat) : ((k.byteFor [x] (32 * g + o)).map fun i => (s.spanBytes k { i := i, n := 1, a := 32 * g + o }).headD 0)
      = if x.a ≤ 32 * g + o ∧ 32 * g + o < x.a + x.n then some (s.srcByte k (x.i + (32 * g + o - x.a))) else none := by
    simp only [Cmd.byteFor, List.findSome?_singleton, last, Bool.and_true, Bool.and_eq_true, decide_eq_true_eq]
    split
    · rw [Option.map_some, State.spanBytes, if_neg kind, Cmd.srcIndex, plain]
      rfl
    · rfl
  simp only [State.granuleBytes, here]
  rw [byteRuns_window (fun j => s.srcByte k (x.i + j)) pos low high, ← s.srcBytes_eq flat]

end

/-! ### A granule written (R69-R71) -/

/-- A store into unpoisoned granules of a scratchpad arrives. -/
theorem foldl_writeChunk_sound {u : Nat} (key : Nat → Nat) (hu : 0 < u) (bad : List Nat) (k : Nat) (m : Memory) (a : Nat) {bs : List Byte} (le : bs.length ≤ k)
    (sound : ∀ b, a ≤ b → b < a + bs.length → key (b / u) ∉ bad) : (unitChunks u k a bs).foldl (writeChunk u key) (m, bad) = (m.write a bs, bad) := by
  induction k generalizing m a bs with
  | zero => rw [List.eq_nil_of_length_eq_zero (Nat.le_zero.mp le)]; rfl
  | succ k ih =>
    cases bs with
    | nil => rfl
    | cons b bs =>
      have room : 1 ≤ u - a % u := by have := Nat.mod_lt a hu; omega
      have first : key (a / u) ∉ bad := sound a (le_refl a) (by rw [List.length_cons]; omega)
      have clean (c : List Byte) : writeChunk u key (m, bad) (a, c) = (m.write a c, bad) := if_neg (by simpa using first)
      have rest : ((b :: bs).drop (u - a % u)).length ≤ k := by simp only [List.length_drop, List.length_cons] at le ⊢; omega
      rw [unitChunks, List.foldl_cons, clean, ih _ _ rest]
      · by_cases fits : (b :: bs).length ≤ u - a % u
        · rw [List.take_of_length_le fits, List.drop_of_length_le fits]
          rfl
        · have len : ((b :: bs).take (u - a % u)).length = u - a % u := List.length_take_of_le (by omega)
          conv_rhs => rw [← List.take_append_drop (u - a % u) (b :: bs), Memory.write_append, len]
      · intro c low high
        rw [List.length_drop] at high
        exact sound c (by omega) (by omega)
      · exact List.cons_ne_nil b bs

theorem not_mem_of_not_poisoned {u : Nat} (hu : 0 < u) {bad : List Nat} {a n : Nat} (sound : poisoned u bad a n = false) {b : Nat} (low : a ≤ b) (high : b < a + n) :
    b / u ∉ bad := fun member => by
  have meets : poisoned u bad a n = true := List.any_eq_true.mpr ⟨b / u, member, by
    have below : b / u * u ≤ b := Nat.div_mul_le_self b u
    have above : b < (b / u + 1) * u := by rw [Nat.add_mul, Nat.one_mul]; have := Nat.mod_lt b hu; have := Nat.div_add_mod' b u; omega
    simp only [Bool.and_eq_true, decide_eq_true_eq]
    omega⟩
  rw [sound] at meets
  cases meets

/-- A store into a scratchpad that meets no poison arrives. -/
theorem State.cl_softWrite_sound {s : State} {cl a : Nat} {bs : List Byte} (sound : s.spPoisoned cl a bs.length = false) :
    (s.softWrite cl a bs).cl cl = { s.cl cl with sp := (s.cl cl).sp.write a bs } := by
  have written : (s.spWrite cl a bs).cl cl = { s.cl cl with sp := (s.cl cl).sp.write a bs } := by
    have all := foldl_writeChunk_sound id (by decide) (s.spBad cl) bs.length (s.cl cl).sp a (le_refl bs.length)
      fun b low high => not_mem_of_not_poisoned (u := 32) (by decide) sound low high
    rw [State.cl_spWrite, State.cl_onCl_self, chunks, all]
  simp only [State.softWrite]
  split
  · exact written
  · exact written

/-- A state in which every scratchpad is the same. -/
def State.SameSp (s t : State) : Prop := ∀ m, (t.cl m).sp = (s.cl m).sp

namespace State.SameSp

theorem refl (s : State) : s.SameSp s := fun _ => rfl
theorem trans {s t u : State} (h : s.SameSp t) (k : t.SameSp u) : s.SameSp u := fun m => (k m).trans (h m)

theorem onCl (s : State) (n : Nat) (f : Cluster → Cluster) (same : (f (s.cl n)).sp = (s.cl n).sp) : s.SameSp (s.onCl n f) := fun m => by
  rw [State.cl_onCl]
  split
  · next h => rw [h, same]
  · rfl

theorem onA (s : State) (n : Nat) (f : ACore → ACore) : s.SameSp (s.onA n f) := onCl s n _ rfl
theorem onX (s : State) (n : Nat) (f : XCore → XCore) : s.SameSp (s.onX n f) := onCl s n _ rfl
theorem setCmd (s : State) (cl : Nat) (k : Cmd) : s.SameSp (s.setCmd cl k) := onA s cl _

theorem askLock (s : State) (cl : Nat) (k : Cmd) : s.SameSp (s.askLock cl k) := by
  simp only [State.askLock]
  split
  · exact setCmd s cl k
  · split
    · exact (setCmd s cl _).trans (onA _ cl _)
    · exact setCmd s cl _

theorem settle (s : State) (cl id : Nat) : s.SameSp (s.settle cl id) := by
  simp only [State.settle]
  split
  · split
    · exact onA s cl _
    · exact refl s
  · exact refl s

theorem onSlot (s : State) (cl : Nat) (k : Cmd) (f : LSlot → LSlot) : s.SameSp (s.onSlot cl k f) := onX s cl _

theorem pieceDone (s : State) (cl : Nat) (k : Cmd) : s.SameSp (s.pieceDone cl k) := by
  simp only [State.pieceDone]
  split
  · exact ((onSlot s cl k _).trans (askLock _ cl _)).trans (settle _ cl _)
  · exact (askLock s cl _).trans (settle _ cl _)

end State.SameSp

/-- A command that is settled is as it was, or complete. -/
theorem State.cmd?_settle {s : State} {cl id : Nat} {k : Cmd} (there : (s.settle cl id).cmd? cl id = some k) : s.cmd? cl id = some k := by
  simp only [State.settle] at there
  split at there
  · split at there
    · rw [State.cmd?_dropCmd] at there
      cases there
    · exact there
  · exact there

/-- A command whose piece is complete goes on to its next piece. -/
theorem State.cmd?_pieceDone {s : State} {cl id : Nat} {k k₀ k' : Cmd} (found : s.cmd? cl id = some k₀) (named : k.id = id)
    (there : (s.pieceDone cl k).cmd? cl id = some k') : k'.gran = [] ∧ k'.piece = k.piece + 1 ∧ k'.performed = k.pieceEnd k.piece := by
  subst named
  have asked (t : State) (same : t.cmd? cl k.id = some k₀)
      (there : ((t.askLock cl { k with performed := k.pieceEnd k.piece, piece := k.piece + 1, gran := [], lock := 0 }).settle cl k.id).cmd? cl k.id = some k') :
      k'.gran = [] ∧ k'.piece = k.piece + 1 ∧ k'.performed = k.pieceEnd k.piece := by
    obtain ⟨ask, is⟩ := State.cmd?_askLock (k := { k with performed := k.pieceEnd k.piece, piece := k.piece + 1, gran := [], lock := 0 }) same rfl
    have := is.symm.trans (State.cmd?_settle there)
    cases this
    exact ⟨rfl, rfl, rfl⟩
  simp only [State.pieceDone] at there
  split at there
  · exact asked _ ((State.cmd?_congr (by rw [State.onSlot, State.cl_onX_self])).trans found) there
  · exact asked s found there

section
variable {s : State} {cl id c a g : Nat} {k : Cmd} (dst : k.dst = .sp c a) (kind : k.kind ≠ .gather) (flat : k.copyTpl = none) (plain : k.bcast = false)
include dst kind flat plain

/-- The command after a granule of it has been written. -/
def Cmd.granuleDone (k : Cmd) (a g : Nat) : Cmd := { k with performed := k.performed + (k.granuleRun a g).n, gran := k.gran ++ [g] }

/-- A granule that is written holds the source bytes of its run; with the last one its piece is complete. -/
theorem State.writeGranule_of_sp (member : g ∈ k.granules k.piece) : s.writeGranule cl k g =
    let t := s.softWrite c (k.granuleRun a g).a (s.srcBytes k (k.granuleRun a g).i (k.granuleRun a g).n)
    if ((k.granules k.piece).all (k.gran ++ [g]).contains) = true then t.pieceDone cl (k.granuleDone a g) else t.setCmd cl (k.granuleDone a g) := by
  obtain ⟨spans, pos, low, high⟩ := k.granuleSpans_of_sp dst kind flat member
  have direct : k.spElem = none := k.spElem_of_sp dst flat
  have taken (is : List Nat) : s.takeElems k is = k := by
    simp only [State.takeElems, State.readElems, direct]
    cases k.src <;> rfl
  have bytes := State.granuleBytes_of_sp (s := s) (k := { k with performed := k.performed + (k.granuleRun a g).n, gran := k.gran ++ [g] })
    kind flat plain _ pos low high
  simp only [State.writeGranule, spans, taken, List.map_singleton, List.sum_singleton]
  split
  · next there =>
    cases dst.symm.trans there
    rw [bytes]
    rfl
  · next there => exact absurd dst (there c a)

end

/-- A granule whose time has come is written. -/
theorem exec_tileTransferDone {s : State} {cl id g : Nat} {k : Cmd} (found : s.cmd? cl id = some k) (due : s.granuleDue cl k g = true) (bare : k.pcl = 0) (clean : ∀ d u, s.spPoisoned d u 1 = false)
    (cmp : Cmp) : exec (.tileTransferDone cl id ⟨g, cmp⟩) s = .next (s.writeGranule cl k g) := by
  have sound (i n : Nat) : s.srcBad k i n = none := by
    simp only [State.srcBad]
    split
    · rw [State.spPoisoned_of_clean (clean _), if_neg Bool.false_ne_true]
    · rfl
  have none : (k.spReads (k.granuleSpans k.piece g)).findSome? (fun x => s.srcBad k x.1 x.2) = none :=
    List.findSome?_eq_none_iff.mpr fun x _ => sound x.1 x.2
  change execTileTransferDone cl id ⟨g, cmp⟩ s = _
  simp only [execTileTransferDone, found, due, none, State.withCmp, cmpFails, bare]
  rfl

/-- Bytes of a scratchpad written leave every A-core. -/
theorem State.WritesSp.core {s t : State} {cl : Nat} (w : s.WritesSp cl t) (m : Nat) : (t.cl m).a = (s.cl m).a := by
  by_cases h : m = cl
  · rw [h, w.here]
  · rw [w.others m h]

section
variable {s : State} {cl id c a g : Nat} {k : Cmd} (found : s.cmd? cl id = some k) (dst : k.dst = .sp c a) (kind : k.kind ≠ .gather)
  (flat : k.copyTpl = none) (plain : k.bcast = false)
include found dst kind flat plain

/-- What a granule that has been written leaves of the scratchpads and of its command. -/
theorem writeGranule_spec (member : g ∈ k.granules k.piece) (clean : ∀ d u, s.spPoisoned d u 1 = false) :
    let x := k.granuleRun a g
    let t := s.writeGranule cl k g
    (t.cl c).sp = (s.cl c).sp.write x.a (s.srcBytes k x.i x.n) ∧ (∀ m, m ≠ c → (t.cl m).sp = (s.cl m).sp)
      ∧ ∀ k', t.cmd? cl id = some k' → (k'.gran = k.gran ++ [g] ∧ k'.performed = k.performed + x.n ∧ k'.piece = k.piece)
        ∨ ((∀ h ∈ k.granules k.piece, h ∈ k.gran ++ [g]) ∧ k'.gran = [] ∧ k'.piece = k.piece + 1 ∧ k'.performed = k.pieceEnd k.piece) := by
  intro x t
  have eq : t = _ := State.writeGranule_of_sp (s := s) (cl := cl) dst kind flat plain member
  have writes : s.WritesSp c (s.softWrite c x.a (s.srcBytes k x.i x.n)) := .softWrite s _ _
  have there : (s.softWrite c x.a (s.srcBytes k x.i x.n)).cmd? cl id = some k := (State.cmd?_congr (by rw [writes.core])).trans found
  have written : ((s.softWrite c x.a (s.srcBytes k x.i x.n)).cl c).sp = (s.cl c).sp.write x.a (s.srcBytes k x.i x.n) := by
    rw [State.cl_softWrite (clean c)]
  have named : k.id = id := State.id_of_cmd? found
  have same : (s.softWrite c x.a (s.srcBytes k x.i x.n)).SameSp t := by
    rw [eq]
    dsimp only
    split
    · exact .pieceDone _ cl _
    · exact .setCmd _ cl _
  refine ⟨(same c).trans written, fun m other => (same m).trans (by rw [writes.others m other]), fun k' is => ?_⟩
  rw [eq] at is
  dsimp only at is
  split at is
  · next all =>
    obtain ⟨gran, piece, performed⟩ := State.cmd?_pieceDone (k := k.granuleDone a g) there named is
    exact .inr ⟨fun h mem => by simpa using List.all_eq_true.mp all h mem, gran, piece, performed⟩
  · have := (State.cmd?_setCmd (j := k.granuleDone a g) there named).symm.trans is
    cases this
    exact .inl ⟨rfl, rfl, rfl⟩

end

/-! ### Arrivals, and the slot of a TLDQ (R82, R159, R160) -/

/-- A word that meets no poison is read and written. -/
theorem State.sp_onWord {s : State} {w : Nat × Nat} (sound : s.spPoisoned w.1 w.2 8 = false) (f : Nat → Nat) :
    ((s.onWord w f).cl w.1).sp = (s.cl w.1).sp.write w.2 (toBytes 8 (f (ofBytes ((s.cl w.1).sp.read w.2 8)))) := by
  have word : s.onWord w f = s.softWrite w.1 w.2 (toBytes 8 (f (s.spReadN w.1 w.2 8))) := if_neg (by rw [sound]; exact Bool.false_ne_true)
  rw [word, State.cl_softWrite_sound (by rw [length_toBytes]; exact sound)]
  rfl

section
variable {s : State} {cl id : Nat} {k : Cmd} (found : s.cmd? cl id = some k)
include found

/-- Bytes that have performed are counted in the command's word. -/
theorem exec_completionArrival_spec {w : Nat × Nat} (word : k.word = some w) {n : Nat} (performed : k.counted + n ≤ min k.count k.performed)
    (order : s.arrivalHeld cl k = false) (free : s.spBlocked cl (some k.seq) true w.1 w.2 8 = false) (sound : s.spPoisoned w.1 w.2 8 = false) :
    ∃ t, exec (.completionArrival cl id n) s = .next t
      ∧ (t.cl w.1).sp.read w.2 8 = toBytes 8 (arrive (ofBytes ((s.cl w.1).sp.read w.2 8)) n 0)
      ∧ ∀ k', t.cmd? cl id = some k' → k'.counted = k.counted + n := by
  have writes : s.WritesSp w.1 (s.onWord w fun v => arrive v n 0) := s.writesSp_onWord w.1 w.2 _
  have there : (s.onWord w fun v => arrive v n 0).cmd? cl id = some k := (State.cmd?_congr (by rw [writes.core])).trans found
  have same := (State.SameSp.setCmd (s.onWord w fun v => arrive v n 0) cl { k with counted := k.counted + n }).trans (.settle _ cl id)
  refine ⟨(((s.onWord w fun v => arrive v n 0).setCmd cl { k with counted := k.counted + n }).settle cl id), ?_, ?_, fun k' is => ?_⟩
  · change execCompletionArrival cl id n s = _
    simp only [execCompletionArrival, found, word, order, free, decide_eq_false (Nat.not_lt.mpr performed), Bool.or_self, Bool.false_eq_true, if_false]
    rfl
  · rw [same, State.sp_onWord sound]
    have arrived := Memory.read_write_self (s.cl w.1).sp w.2 (toBytes 8 (arrive (ofBytes ((s.cl w.1).sp.read w.2 8)) n 0))
    rwa [length_toBytes] at arrived
  · have named : k.id = id := State.id_of_cmd? found
    have := (State.cmd?_setCmd (j := { k with counted := k.counted + n }) there named).symm.trans (State.cmd?_settle is)
    cases this
    rfl

/-- The slot of a TLDQ whose tile has arrived. -/
theorem exec_loadQueueSlotReady_spec (buses : (s.cl cl).ctl.retrainEnd = none)
    (first : ((s.cl cl).a.cmds.find? fun j => j.kind == .tldq && j.aux == k.aux && j.hasPerformed) = some k) :
    ∃ t, exec (.loadQueueSlotReady cl k.aux) s = .next t ∧ t.cmd? cl id = none
      ∧ ∀ l ∈ NMap.get [] (t.cl cl).x.lq k.aux, l.cmd = k.id → l.ready = true := by
  have named := State.id_of_cmd? found
  refine ⟨(s.onSlot cl k fun l => { l with ready := true }).dropCmd cl k.id, ?_, named ▸ State.cmd?_dropCmd _ _ _, fun l member mine => ?_⟩
  · change execLoadQueueSlotReady cl k.aux s = _
    simp only [execLoadQueueSlotReady, first, buses, Option.isSome_none, Bool.false_eq_true, if_false]
  · rw [State.dropCmd, State.cl_onA_self, State.onSlot, State.cl_onX_self] at member
    simp only [NMap.get_set_self] at member
    obtain ⟨l₀, -, rfl⟩ := List.mem_map.mp member
    split
    · rfl
    · next kept =>
      rw [if_neg kept] at mine
      simpa [mine] using kept

end

/-- Settles O35, from what each step of an accepted command leaves. -/
theorem commandProgress : Obligations.CommandProgress := by
  unfold Obligations.CommandProgress
  intro cl id s k found cmd
  have named := State.id_of_cmd? found
  refine ⟨fun new turn matched sound kind cmps => ?_, fun vigil cmps new turn differs => exec_engineCommandStart_diverges found new turn cmps differs,
    fun new blocked => exec_engineCommandStart_blocked found true [] blocked,
    fun c new turn matched err => ⟨_, exec_engineCommandStart_fails found new turn [] matched err, ?_⟩,
    fun asks others image => ?_, fun asks ⟨j, member, other, holds, first, clash⟩ => ?_, fun d asks image data clash => ?_,
    fun c a g dst kind flat plain due bare clean => ?_, fun w word more order free sound => ?_,
    fun kind performed buses first => exec_loadQueueSlotReady_spec found buses first⟩
  · obtain ⟨ask, is⟩ := State.cmd?_askLock (k := { k with started := true }) found named
    exact ⟨_, _, exec_engineCommandStart_begins found new turn cmps matched sound kind, is, rfl, rfl, rfl, .askLock s cl _⟩
  · have gone := State.cmd?_gatherFail s cl k c
    rwa [named] at gone
  · rw [exec_tileTransferLock found asks, State.banksFree_of_unlocked (named ▸ others) image, if_pos rfl]
    exact ⟨_, _, rfl, State.cmd?_lockBanks found, rfl, .onA s cl _⟩
  · rw [exec_tileTransferLock found asks, State.banksFree_of_locked member (named ▸ other) holds first clash, if_neg Bool.false_ne_true]
  · rw [exec_tileTransferLock found asks, State.banksFree_of_image image data clash, if_neg Bool.false_ne_true]
  · intro lo n cmp
    have member : g ∈ k.granules k.piece := by
      simp only [State.granuleDue, Bool.and_eq_true] at due
      exact List.contains_iff_mem.mp due.1.1.1.1.2
    obtain ⟨here, others, after⟩ := writeGranule_spec found dst kind flat plain member clean
    have len : (s.srcBytes k (lo - a) n).length = n := by rw [s.srcBytes_eq flat, List.length_map, List.length_range]
    refine ⟨_, exec_tileTransferDone found due bare clean cmp, ?_, fun b outside => ?_, others, after⟩
    · rw [here]
      have wrote := Memory.read_write_self (s.cl c).sp lo (s.srcBytes k (lo - a) n)
      rwa [len] at wrote
    · rw [here]
      exact Memory.byte_write_of_outside _ _ _ _ (by rw [show (k.granuleRun a g).n = n from rfl, show (k.granuleRun a g).a = lo from rfl,
        show (k.granuleRun a g).i = lo - a from rfl, len]; exact outside)
  · intro n
    exact exec_completionArrival_spec found word (show k.counted + (min k.count k.performed - k.counted) ≤ _ by
      have : k.counted < min k.count k.performed := more
      omega) order free sound

end Sys2Proof.Machine
end

section
/-! PROOFS. The units of an engine command: global memory, towers, gathered columns and bank-side requests (R94-R97, R100-R106, R109, R155, R156, R162,
R288, R303, R306). -/

namespace Sys2Proof.Machine
open Sys2Proof

/-! ### Granules compared before a write (R288) -/

/-- The granules of a run of bytes make it up. -/
theorem sum_granulesIn (a : Nat) {n : Nat} (some_ : n ≠ 0) : ((granulesIn a n).map Prod.snd).sum = n := by
  have upTo (m : Nat) : ((List.range m).map fun i => min (a + n) (32 * (a / 32 + i) + 32) - max a (32 * (a / 32 + i))).sum
      = min (a + n) (32 * (a / 32 + m)) - a := by
    induction m with
    | zero => simp only [List.range_zero, List.map_nil, List.sum_nil]; omega
    | succ m ih =>
      rw [List.range_succ, List.map_append, List.sum_append, ih, List.map_singleton, List.sum_singleton]
      omega
  have parts : (granulesIn a n).map Prod.snd
      = (List.range ((a + n - 1) / 32 - a / 32 + 1)).map fun i => min (a + n) (32 * (a / 32 + i) + 32) - max a (32 * (a / 32 + i)) := by
    rw [granulesIn, granulesOf, if_neg some_, List.map_map, List.map_map]
    rfl
  rw [parts, upTo]
  omega

/-- The first granule begins where the run does. -/
theorem granulesIn_eq_cons (a : Nat) {n : Nat} (some_ : n ≠ 0) : ∃ m gs, granulesIn a n = (a, m) :: gs := by
  rw [granulesIn, granulesOf, if_neg some_, List.range_succ_eq_map, List.map_cons, List.map_cons]
  refine ⟨_, _, congrArg₂ List.cons (congrArg₂ Prod.mk ?_ rfl) rfl⟩
  change max a (32 * (a / 32 + 0)) = a
  omega

/-- Without a mismatch all bytes pass. -/
theorem passBytes_nil (pcl : Nat) (gs : List (Nat × Nat)) : passBytes pcl gs [] = ((gs.map Prod.snd).sum, [], none) := by
  induction gs with
  | nil => rfl
  | cons g gs ih =>
    have agree : cmpFails pcl .agree = false := by simp [cmpFails]
    have same : (pcl == 2 && Cmp.agree == Cmp.dissent) = false := Bool.and_false _
    simp only [passBytes, List.headD_nil, agree, List.tail_nil, ih, same, Bool.false_eq_true, if_false, List.map_cons, List.sum_cons]

theorem State.withCmps_nil (s : State) (cl : Nat) (k : Cmd) (a : Nat) {n : Nat} (some_ : n ≠ 0) (whole : Bool) (go : Nat → State → State) :
    s.withCmps cl k [] a n whole go = go n s := by
  simp only [State.withCmps, passBytes_nil, sum_granulesIn a some_, Option.isSome_none, Bool.and_false, Bool.or_false, decide_eq_true_eq, if_neg some_,
    List.foldl_nil]

/-- A mismatch in the first granule keeps the unit from being written. -/
theorem State.withCmps_differ (s : State) (cl : Nat) {k : Cmd} (compared : k.pcl ≠ 0) (cmps : List Cmp) (a : Nat) {n : Nat} (some_ : n ≠ 0) (whole : Bool)
    (go : Nat → State → State) : s.withCmps cl k (.differ :: cmps) a n whole go = s.cmdMismatch cl k a := by
  obtain ⟨m, gs, cons⟩ := granulesIn_eq_cons a some_
  have fails : cmpFails k.pcl .differ = true := by simp [cmpFails, compared]
  have none : passBytes k.pcl (granulesIn a n) (.differ :: cmps) = (0, [], some a) := by
    rw [cons, passBytes]
    exact if_pos fails
  simp only [State.withCmps, none]
  rfl

/-! ### What a unit leaves of its command -/

/-- Source elements that are taken change what a command has read, and nothing else. -/
theorem State.takeElems_eq (s : State) (k : Cmd) (is : List Nat) : ∃ got buf, s.takeElems k is = { k with got := got, buf := buf } := by
  simp only [State.takeElems, State.readElems]
  split
  · refine List.foldlRecOn (motive := fun h : Cmd => ∃ got buf, h = { k with got := got, buf := buf }) _ _ ⟨k.got, k.buf, rfl⟩ ?_
    rintro h ⟨got, buf, rfl⟩ e _
    exact ⟨_, _, rfl⟩
  · exact ⟨k.got, k.buf, rfl⟩

section
variable {s t : State} {cl id j : Nat} {k h : Cmd}

/-- A unit has performed for a command that may have taken elements for it. -/
theorem State.cmd?_didUnit {k' : Cmd} (found : t.cmd? cl id = some k) (elems : ∃ got buf, h = { k with got := got, buf := buf }) (n : Nat)
    (there : ((t.didUnit cl h j n).settle cl id).cmd? cl id = some k') : k'.done = k.done ++ [j] ∧ k'.performed = k.performed + n := by
  obtain ⟨got, buf, rfl⟩ := elems
  have named : k.id = id := State.id_of_cmd? found
  have done := State.cmd?_setCmd (j := { k with got := got, buf := buf, done := k.done ++ [j], performed := k.performed + n }) found named
  have := done.symm.trans (State.cmd?_settle there)
  cases this
  exact ⟨rfl, rfl⟩

/-- A command with work left is not settled. -/
theorem State.settle_of_more (found : s.cmd? cl id = some k) (more : k.performed < k.work) : s.settle cl id = s := by
  have left : k.hasPerformed = false := by rw [Cmd.hasPerformed, decide_eq_false (Nat.not_le.mpr more), Bool.and_false]
  simp only [State.settle, found, left]
  rfl

/-- A unit has been read: the command has its bytes, and is not settled. -/
theorem State.cmd?_gotUnit (found : t.cmd? cl id = some k) (i : Nat) (bs : List Byte) :
    (t.gotUnit cl k j i bs).cmd? cl id = some { k with got := k.got ++ [j], buf := k.buf.write i bs } :=
  State.cmd?_setCmd found (show k.id = id from State.id_of_cmd? found)

theorem State.hbm_settle (s : State) (cl id : Nat) : (s.settle cl id).hbm = s.hbm := by
  simp only [State.settle]
  split
  · split <;> rfl
  · rfl

/-! ### Units of global memory (R97, R155, R156) -/

section
variable (found : s.cmd? cl id = some k) (plain : k.kind.plain = true)
include found plain

theorem exec_hbmUnitAccess (cmps : List Cmp) : exec (.hbmUnitAccess cl id j cmps) s
    = .next (s.unitCmp cl k j cmps false fun n s => (s.globalUnit cl k j n).settle cl id) := by
  change execHbmUnitAccess cl id j cmps s = _
  simp only [execHbmUnitAccess, found, plain, if_true]

/-- A unit that is compared is not written where its copies differ in its first granule. -/
theorem exec_hbmUnitAccess_differ (due : s.unitDue cl k j = true) (compared : k.pcl ≠ 0) (cmps : List Cmp) :
    exec (.hbmUnitAccess cl id j (.differ :: cmps)) s = .next (s.cmdMismatch cl k (k.unitRun j).1) := by
  have some_ : (k.unitRun j).2 ≠ 0 := by
    simp only [State.unitDue, Bool.and_eq_true] at due
    rw [Cmd.unitRun]
    split
    · next inside =>
      rw [if_pos inside] at due
      simp only [Bool.and_eq_true, bne_iff_ne] at due
      exact due.2.1.1.1.1
    · exact (by decide : (8 : Nat) ≠ 0)
  rw [exec_hbmUnitAccess found plain, State.unitCmp, if_pos due, State.withCmps_differ s cl compared cmps _ some_]

variable (started : k.started = true)
include started

/-- A source unit is read. -/
theorem exec_hbmUnitAccess_read {a pa : Nat} {bs : List Byte} (cmps : List Cmp) (src : k.src = .va a) (unit : j < k.srcUnits) (new : k.got.contains j = false)
    (size : (k.srcUnit j).n ≠ 0) (unsent : s.unitSent cl k.id j = false) (free : s.unitHeld cl k (k.srcUnit j).a = false)
    (reach : s.reach cl k (k.srcUnit j).a [pER] = (.at_ .hbm pa, t)) (read : t.hbmRead pa (k.srcUnit j).n = .ok bs) :
    exec (.hbmUnitAccess cl id j cmps) s = .next ((t.gotUnit cl k j (k.srcUnit j).i bs).settle cl id) := by
  have early : s.unitDue cl k j = false := by
    rw [State.unitDue, decide_eq_false (Nat.not_le.mpr unit)]
    simp
  have reads : s.globalUnit cl k j (k.unitRun j).2 = t.gotUnit cl k j (k.srcUnit j).i bs := by
    have first : ¬ k.dstUnits < j - k.srcUnits := by omega
    have zero : ((k.srcUnit j).n == 0) = false := beq_false_of_ne size
    simp only [State.globalUnit, started, Bool.not_true, Bool.false_eq_true, if_false, if_neg first, if_pos unit, src, zero, new, free, Bool.or_self,
      State.readUnit, unsent, reach, read]
  rw [exec_hbmUnitAccess found plain, State.unitCmp, early]
  exact congrArg (fun u : State => Host.Outcome.next (u.settle cl id)) reads

/-- A destination unit is written. -/
theorem exec_hbmUnitAccess_write {a pa : Nat} {u : State} {x : Span} (span : k.dstUnit (j - k.srcUnits) = x) (dst : k.dst = .va a) (late : k.srcUnits ≤ j)
    (unit : j - k.srcUnits < k.dstUnits) (size : x.n ≠ 0) (new : k.done.contains j = false) (ready : s.srcReady cl k x = true)
    (lower : s.lowerDone cl k (j - k.srcUnits) = true) (sound : s.runBad k x = none) (unsent : s.unitSent cl k.id j = false)
    (free : s.unitHeld cl k x.a = false) (reach : s.reach cl (s.runBytes k x x.n).1 x.a [pEW] = (.at_ .hbm pa, t))
    (write : t.hbmWrite pa (s.runBytes k x x.n).2 = .ok u) :
    exec (.hbmUnitAccess cl id j []) s = .next (((u.engineDrop cl pa x.n).didUnit cl (s.runBytes k x x.n).1 j x.n).settle cl id) := by
  have run : k.unitRun j = (x.a, x.n) := by rw [Cmd.unitRun, if_pos unit, span]
  have zero : (x.n == 0) = false := beq_false_of_ne size
  have due : s.unitDue cl k j = true := by
    simp only [State.unitDue, started, decide_eq_true late, new, unsent, if_pos unit, span, bne, zero, ready, lower, sound, Option.isNone_none, free,
      Bool.not_false, Bool.and_self]
  have same : (s.runBytes k x x.n).1.id = k.id := by
    obtain ⟨got, buf, taken⟩ := s.takeElems_eq k ((List.range x.n).map (x.i + ·))
    exact (congrArg Cmd.id taken :)
  have writes : s.globalUnit cl k j x.n = (u.engineDrop cl pa x.n).didUnit cl (s.runBytes k x x.n).1 j x.n := by
    simp only [State.globalUnit, started, Bool.not_true, Bool.false_eq_true, if_false, if_neg (Nat.not_lt.mpr unit.le), if_neg (Nat.not_lt.mpr late), dst,
      if_pos unit, span, zero, new, ready, lower, free, sound, Bool.or_self, State.writeUnit, same, unsent, reach, write]
  rw [exec_hbmUnitAccess found plain, State.unitCmp, if_pos due, run, State.withCmps_nil s cl k _ size]
  exact congrArg (fun u : State => Host.Outcome.next (u.settle cl id)) writes

end

/-! ### Units of towers (R87, R90, R94) -/

/-- A store into a tower that meets no poison arrives. -/
theorem State.cl_twWrite {cell a : Nat} {bs : List Byte} (sound : s.twPoisoned cl cell a bs.length = false) :
    (s.twWrite cl cell a bs).cl cl = { s.cl cl with tw := (s.cl cl).tw.write ((s.cl cl).twAddr cell a) bs } := by
  have all := foldl_writeChunk_sound id (by decide) (s.twBad cl) bs.length (s.cl cl).tw ((s.cl cl).twAddr cell a) (le_refl bs.length)
    fun b low high => not_mem_of_not_poisoned (u := 64) (by decide) sound low high
  have written : (s.twWrite cl cell a bs).cl cl
      = (s.onCl cl fun c => { c with tw := ((chunks 64 ((s.cl cl).twAddr cell a) bs).foldl (writeChunk 64 id) ((s.cl cl).tw, s.twBad cl)).1 }).cl cl := rfl
  rw [written, State.cl_onCl_self, chunks, all]

/-- A bank of a tower that has been accessed is awake. -/
theorem Ctl.bankAsleep_touch (c : Ctl) (now key : Nat) : (c.touch now [key]).bankAsleep key = false := NMap.get_set_self _ _ _

/-- What is left when a unit of a tower has been accessed. -/
def State.towerDone (s : State) (now cl id key : Nat) : State := (s.onCtl cl fun h => h.touch now [key]).settle cl id

theorem State.cl_settle (s : State) (cl id : Nat) : ∃ cmds, (s.settle cl id).cl cl = { s.cl cl with a := { (s.cl cl).a with cmds := cmds } } := by
  have same : s.cl cl = { s.cl cl with a := { (s.cl cl).a with cmds := (s.cl cl).a.cmds } } := rfl
  simp only [State.settle]
  split
  · split
    · exact ⟨_, s.cl_onA_self cl _⟩
    · exact ⟨_, same⟩
  · exact ⟨_, same⟩

theorem State.towerDone_spec (s : State) (now cl id key : Nat) :
    ((s.towerDone now cl id key).cl cl).tw = (s.cl cl).tw ∧ ((s.towerDone now cl id key).cl cl).ctl.bankAsleep key = false := by
  obtain ⟨cmds, here⟩ := (s.onCtl cl fun h => h.touch now [key]).cl_settle cl id
  rw [State.towerDone, here, State.cl_onCtl_self]
  exact ⟨rfl, Ctl.bankAsleep_touch _ _ _⟩

theorem State.cmd?_onCtl (s : State) (cl id : Nat) (f : Ctl → Ctl) : (s.onCtl cl f).cmd? cl id = s.cmd? cl id :=
  State.cmd?_congr (by rw [State.cl_onCtl_self])

section
variable (found : s.cmd? cl id = some k) (plain : k.kind.plain = true) (started : k.started = true)
include found plain started

/-- A source unit of a tower is read. -/
theorem exec_refillDrainTowerAccess_read {c : Option Nat} {a : Nat} (cmps : List Cmp) (src : k.src = .tw c a) (unit : j < k.srcUnits)
    (new : k.got.contains j = false) (awake : (s.cl cl).ctl.bankRefreshing (bankKey (k.unitCell k.src j) (k.srcUnit j).a) = false)
    (sound : s.twPoisoned cl (k.unitCell k.src j) (k.srcUnit j).a (k.srcUnit j).n = false) :
    exec (.refillDrainTowerAccess cl id j cmps) s = .next ((s.gotUnit cl k j (k.srcUnit j).i
      (s.twRead cl (k.unitCell k.src j) (k.srcUnit j).a (k.srcUnit j).n)).towerDone s.clk cl id (bankKey (k.unitCell k.src j) (k.srcUnit j).a)) := by
  have early : s.unitDue cl k j = false := by
    rw [State.unitDue, decide_eq_false (Nat.not_le.mpr unit)]
    simp
  have reads : s.towerUnit cl k j = s.gotUnit cl k j (k.srcUnit j).i (s.twRead cl (k.unitCell k.src j) (k.srcUnit j).a (k.srcUnit j).n) := by
    rw [src] at sound ⊢
    simp only [State.towerUnit, started, Bool.not_true, Bool.false_eq_true, if_false, if_pos unit, src, new, sound]
  change execRefillDrainTowerAccess cl id j cmps s = _
  simp only [execRefillDrainTowerAccess, found, if_pos unit, plain, awake, Bool.not_true, Bool.or_self, Bool.false_eq_true, if_false, State.unitCmp, early, reads]
  rfl

/-- A destination unit of a tower is written, compared or not. -/
theorem exec_refillDrainTowerAccess_write {c : Option Nat} {a : Nat} {x : Span} (span : k.dstUnit (j - k.srcUnits) = x) (dst : k.dst = .tw c a)
    (late : k.srcUnits ≤ j) (unit : j - k.srcUnits < k.dstUnits) (new : k.done.contains j = false) (ready : s.srcReady cl k x = true)
    (sound : s.runBad k x = none) (awake : (s.cl cl).ctl.bankRefreshing (bankKey (k.unitCell k.dst (j - k.srcUnits)) x.a) = false) :
    exec (.refillDrainTowerAccess cl id j []) s = .next (((s.twWrite cl (k.unitCell k.dst (j - k.srcUnits)) x.a (s.runBytes k x x.n).2).didUnit cl
      (s.runBytes k x x.n).1 j x.n).towerDone s.clk cl id (bankKey (k.unitCell k.dst (j - k.srcUnits)) x.a)) := by
  have writes : s.towerUnit cl k j
      = (s.twWrite cl (k.unitCell k.dst (j - k.srcUnits)) x.a (s.runBytes k x x.n).2).didUnit cl (s.runBytes k x x.n).1 j x.n := by
    rw [dst]
    simp only [State.towerUnit, started, Bool.not_true, Bool.false_eq_true, if_false, if_neg (Nat.not_lt.mpr late), dst, span,
      decide_eq_false (Nat.not_le.mpr unit), new, ready, sound, Bool.or_self]
  have alike (go : State → State) : s.unitCmp cl k j [] true (fun _ => go) = go s := by
    rw [State.unitCmp]
    split
    · next due =>
      have size : (k.unitRun j).2 ≠ 0 := by
        simp only [State.unitDue, if_pos unit, Bool.and_eq_true, bne_iff_ne] at due
        rw [Cmd.unitRun, if_pos unit]
        exact due.2.1.1.1.1
      exact State.withCmps_nil s cl k _ size true _
    · rfl
  change execRefillDrainTowerAccess cl id j [] s = _
  simp only [execRefillDrainTowerAccess, found, if_neg (Nat.not_lt.mpr late), plain, span, awake, Bool.not_true, Bool.or_self, Bool.false_eq_true, if_false,
    alike, writes]
  rfl

end

/-! ### Gathered columns (R109-R111) -/

theorem exec_gatherColumn (found : s.cmd? cl id = some k) (kind : k.kind = .gather) (started : k.started = true) (column : j < patCols k.pat)
    (new : k.got.contains j = false)
    (free : ∀ i < patRows k.pat, s.unitHeld cl k (k.elemAddr (k.aux % 2 ^ 32 + j * patStep k.pat) (k.aux / 2 ^ 32 % 2 ^ 32 + i)).1 = false) {vs : List Nat}
    (read : s.readColumn cl k (k.aux % 2 ^ 32 + j * patStep k.pat) (patRows k.pat) (k.aux / 2 ^ 32 % 2 ^ 32) [] = .ok t vs) :
    exec (.gatherColumn cl id j) s = .next (t.gotUnit cl k j (j * patPitch k.pat) (k.column vs)) := by
  have low : bits k.aux 31 0 = k.aux % 2 ^ 32 := bits_low _ _
  have high : bits k.aux 63 32 = k.aux / 2 ^ 32 % 2 ^ 32 := rfl
  have held : ((List.range (patRows k.pat)).any fun i =>
      s.unitHeld cl k (k.elemAddr (k.aux % 2 ^ 32 + j * patStep k.pat) (k.aux / 2 ^ 32 % 2 ^ 32 + i)).1) = false :=
    List.any_eq_false.mpr fun i hi h => Bool.false_ne_true ((free i (List.mem_range.mp hi)).symm.trans h)
  change execGatherColumn cl id j s = _
  simp only [execGatherColumn, found, low, high, held, kind, bne_self_eq_false, started, decide_eq_false (Nat.not_le.mpr column), new, Bool.not_true,
    Bool.or_self, Bool.false_eq_true, if_false, read]

end

/-! ### Poison in scratchpads under translations and writes to memory (R434, R435) -/

/-- `t` has the device's record of `s`, and no poisoned granule of a scratchpad that `s` has not. -/
structure State.NoNewPoison (s t : State) : Prop where
  dev : t.dev = s.dev
  poison : ∀ p ∈ t.spPoison, p ∈ s.spPoison

namespace State.NoNewPoison

theorem of_eq {s t : State} (dev : t.dev = s.dev) (poison : t.spPoison = s.spPoison) : s.NoNewPoison t := ⟨dev, fun _ h => poison ▸ h⟩
theorem refl (s : State) : s.NoNewPoison s := of_eq rfl rfl
theorem onCtx (s : State) (cid : Nat) (f : Ctx → Ctx) : s.NoNewPoison (s.onCtx cid f) := of_eq rfl rfl
theorem setTag (s : State) (p t : Nat) : s.NoNewPoison (s.setTag p t) := of_eq rfl rfl
theorem trans {s t u : State} (h : s.NoNewPoison t) (k : t.NoNewPoison u) : s.NoNewPoison u := ⟨k.dev.trans h.dev, fun p hp => h.poison p (k.poison p hp)⟩

theorem foldl {α : Type} {f : State → α → State} (h : ∀ (s : State) (a : α), s.NoNewPoison (f s a)) (s : State) (l : List α) :
    s.NoNewPoison (l.foldl f s) :=
  List.foldlRecOn l f (refl s) fun t ht a _ => ht.trans (h t a)

/-- Scratchpads without poison stay so. -/
theorem clean {s t : State} (h : s.NoNewPoison t) (clean : ∀ c u, s.spPoisoned c u 1 = false) (c u : Nat) : t.spPoisoned c u 1 = false := by
  have place : t.phys c = s.phys c := by rw [State.phys, State.skip, h.dev]; rfl
  have none : t.spBad c = [] := by
    refine List.eq_nil_iff_forall_not_mem.mpr fun g hg => ?_
    obtain ⟨p, hp, rfl⟩ := List.mem_map.mp hg
    obtain ⟨listed, mine⟩ := List.mem_filter.mp hp
    have member : p.2 ∈ s.spBad c := List.mem_map.mpr ⟨p, List.mem_filter.mpr ⟨h.poison p listed, by rw [← place]; exact mine⟩, rfl⟩
    rw [State.spBad_eq_nil (clean c)] at member
    cases member
  rw [State.spPoisoned, none]
  rfl

/-- A chunk that is written poisons no unit. -/
theorem mem_foldl_writeChunk {u : Nat} {key : Nat → Nat} (cs : List (Nat × List Byte)) (m : Memory × List Nat) {g : Nat}
    (member : g ∈ (cs.foldl (writeChunk u key) m).2) : g ∈ m.2 := by
  induction cs generalizing m with
  | nil => exact member
  | cons c cs ih =>
    have rest := ih _ member
    simp only [writeChunk] at rest
    split at rest
    · split at rest
      · exact List.mem_of_mem_erase rest
      · exact rest
    · exact rest

theorem spWrite (s : State) (cl a : Nat) (bs : List Byte) : s.NoNewPoison (s.spWrite cl a bs) := by
  refine ⟨rfl, fun p hp => ?_⟩
  rcases List.mem_append.mp hp with old | new
  · exact (List.mem_filter.mp old).1
  · obtain ⟨g, left, rfl⟩ := List.mem_map.mp new
    have member : g ∈ s.spBad cl := mem_foldl_writeChunk _ _ left
    obtain ⟨q, listed, rfl⟩ := List.mem_map.mp member
    obtain ⟨listed, mine⟩ := List.mem_filter.mp listed
    rw [← beq_iff_eq.mp mine]
    exact listed

theorem softWrite (s : State) (cl a : Nat) (bs : List Byte) : s.NoNewPoison (s.softWrite cl a bs) := by
  simp only [State.softWrite]
  split
  · exact (spWrite s cl a bs).trans (of_eq rfl rfl)
  · exact spWrite s cl a bs

theorem closeWord (s : State) (w : Option (Nat × Nat)) (code : Nat) : s.NoNewPoison (s.closeWord w code) := by
  cases w with
  | none => exact refl s
  | some w =>
    simp only [State.closeWord, State.onWord]
    split
    · exact of_eq rfl rfl
    · exact softWrite s _ _ _

theorem endSnap (s : State) (cid i : Nat) (st : SnapSt) (code : Nat) : s.NoNewPoison (s.endSnap cid i st code) :=
  (onCtx s cid _).trans (closeWord _ _ _)

theorem reachAll (s : State) (cid : Nat) : s.NoNewPoison (s.reachAll cid) := by
  refine (onCtx s cid _).trans (foldl (fun t i => ?_) _ _)
  dsimp only
  split
  · exact endSnap t cid i _ _
  · exact refl t

theorem allocFrame {t : State} {cid f : Nat} (n : Nat) (s : State) (got : s.allocFrame cid n = .got t f) : s.NoNewPoison t := by
  induction n generalizing s with
  | zero => cases got
  | succ n ih =>
    simp only [State.allocFrame] at got
    split at got
    · rw [(FrameRes.got.inj got).1]
      exact refl t
    · split at got
      · exact (endSnap s cid _ _ _).trans (ih _ got)
      · split at got <;> cases got

theorem storeChunk (s : State) (a : Nat) (bs : List Byte) : s.NoNewPoison (s.storeChunk a bs) := by
  simp only [State.storeChunk]
  split <;> exact of_eq rfl rfl

theorem copyPage (s : State) (src dst : Nat) : s.NoNewPoison (s.copyPage src dst) := by
  simp only [State.copyPage]
  split
  · exact of_eq rfl rfl
  · refine foldl (fun t u => ?_) s _
    simp only [State.copyUnit]
    split
    · exact of_eq rfl rfl
    · exact storeChunk t _ _

theorem cover {s t : State} {p at_ : Nat} (done : s.cover p at_ = .ok t) : s.NoNewPoison t := by
  simp only [State.cover] at done
  split at done
  · rw [← HbmRes.ok.inj done]
    exact refl s
  · have reached := reachAll s (tagOwner (s.tag p))
    split at done
    · rw [← HbmRes.ok.inj done]
      exact reached.trans (setTag _ _ _)
    · split at done
      · next u f got =>
        have found := reached.trans (allocFrame 5 _ got)
        split at done
        · rw [← HbmRes.ok.inj done]
          exact found.trans (setTag _ _ _)
        · rw [← HbmRes.ok.inj done]
          exact ((found.trans (copyPage u _ _)).trans (onCtx _ _ _)).trans (setTag _ _ _)
      · cases done
      · cases done

theorem dirtySector (s : State) (pa : Nat) : s.NoNewPoison (s.dirtySector pa) := by
  simp only [State.dirtySector]
  split
  · split
    · exact refl s
    · exact of_eq rfl rfl
  · exact refl s

theorem hbmWrite {s t : State} {pa : Nat} {bs : List Byte} (done : s.hbmWrite pa bs = .ok t) : s.NoNewPoison t := by
  simp only [State.hbmWrite] at done
  split at done
  · cases done
  · cases done
  · split at done
    · rw [← HbmRes.ok.inj done]
      exact onCtx s _ _
    · split at done
      · cases done
      · split at done
        · split at done
          · rw [← HbmRes.ok.inj done]
            exact storeChunk s _ _
          · split at done
            · next u f got =>
              have found := (reachAll s _).trans (allocFrame 5 _ got)
              rw [← HbmRes.ok.inj done]
              exact (((found.trans (copyPage u _ _)).trans (onCtx _ _ _)).trans (setTag _ _ _)).trans (storeChunk _ _ _)
            · cases done
            · cases done
        · split at done
          · next covered =>
            rw [← HbmRes.ok.inj done]
            exact ((cover covered).trans (storeChunk _ _ _)).trans (dirtySector _ _)
          · next other => exact absurd done (other t)

theorem tlbPut (s : State) (cl : Nat) (v : Via) (e : TlbEnt) : s.NoNewPoison (s.tlbPut cl v e) := by
  cases v <;> exact of_eq rfl rfl

theorem walk (s : State) (cid va : Nat) (need : List Nat) : s.NoNewPoison (s.walk cid va need).2 := by
  simp only [State.walk]
  split
  all_goals
    split
    · exact refl s
    · dsimp only
      split <;> exact of_eq rfl rfl

theorem translate (s : State) (cl cid va : Nat) (v : Via) (need : List Nat) : s.NoNewPoison (s.translate cl cid va v need).2 := by
  simp only [State.translate]
  split
  · exact refl s
  · split
    · exact tlbPut s cl v _
    · have walked := walk s cid va need
      split
      · split
        · exact (walked.trans (tlbPut _ cl v _)).trans (of_eq rfl rfl)
        · exact walked.trans (tlbPut _ cl v _)
      · exact walked

theorem resolve (s : State) (cl cid va : Nat) (v : Via) (need : List Nat) : s.NoNewPoison (s.resolve cl cid va v need).2 := by
  have translated := translate s cl cid va v need
  simp only [State.resolve]
  split
  · exact translated.trans (of_eq rfl rfl)
  · exact translated

theorem reach (s : State) (cl : Nat) (k : Cmd) (va : Nat) (need before : List Nat) : s.NoNewPoison (s.reach cl k va need before).2 := by
  have resolved := resolve s cl k.cid va k.via need
  simp only [State.reach]
  split
  · next p pa t found =>
    rw [found] at resolved
    split
    · exact resolved
    · split
      · exact resolved
      · next n ns _ =>
        dsimp only
        split
        · next crossed =>
          have ahead := resolve t cl k.cid n k.via ns
          rw [crossed] at ahead
          exact resolved.trans ahead
        · exact resolved
  · exact resolved

end State.NoNewPoison

/-! ### The arithmetic of bank-side requests (R100-R102) -/

/-- Elements that follow a function of their place, each with its place. -/
theorem flatMap_zipIdx_map_range {α : Type} (n : Nat) (f : Nat → Nat) (g : Nat × Nat → List α) :
    (((List.range n).map f).zipIdx).flatMap g = (List.range n).flatMap fun e => g (f e, e) := by
  have places : ((List.range n).map f).zipIdx = (List.range n).map fun e => (f e, e) :=
    List.ext_getElem (by simp) fun i _ _ => by simp
  rw [places, List.flatMap_map]

theorem numWidth_numTyOf : ∀ t < 16, 0 < t → numWidth (numTyOf t) / 8 = typeBytes t := by decide
theorem numWidth_of_integer : ∀ t < 16, 0 < t → fmtOfType t = none → numWidth (numTyOf t) = 8 * typeBytes t := by decide

/-- An element of a reduction: added in the floating format, or modulo the width of the integers. -/
theorem redElem_numTyOf {t : Nat} (lo : 0 < t) (hi : t < 16) (y x : Nat) : redElem (numTyOf t) y x
    = match fmtOfType t with
      | some f => (fadd f y x).1
      | none => (y + x) % 2 ^ (8 * typeBytes t) := by
  cases float : fmtOfType t with
  | some f =>
    have type : numTyOf t = .fp f := by rw [numTyOf, float]
    rw [type, redElem]
  | none =>
    have sum : redElem (numTyOf t) y x = (y + x) % 2 ^ numWidth (numTyOf t) := by
      rw [numTyOf, float]
      dsimp only
      split
      · rfl
      · split <;> rfl
    rw [sum, numWidth_of_integer t hi lo float]

/-- Only the code 0xB names bf16. -/
theorem numTyOf_eq_bf16 {t : Nat} (type : numTyOf t = .fp .bf16) : t = 0xB := by
  rw [numTyOf] at type
  split at type
  · next f float =>
    cases type
    unfold fmtOfType at float
    split at float <;> cases float
    rfl
  · split at type
    · cases type
    · split at type <;> cases type

/-- An element of a scale-accumulate: the product of the widened element and the scale, added and rounded once. -/
theorem saxElem_numTyOf (t s y x : Nat) : saxElem (numTyOf t) s y x = (ffma .f32 s (if t = 0xB then x * 65536 else x) y).1 := by
  by_cases bf16 : t = 0xB
  · rw [if_pos bf16, bf16]
    rfl
  · rw [if_neg bf16, saxElem]
    exact fun type => bf16 (numTyOf_eq_bf16 type)

/-! ### Bank-side requests (R97, R100-R106, R306) -/

section
variable {s t u : State} {cl id j c p pa : Nat} {k : Cmd} {bs : List Byte}

/-- A request that executes on sound bytes of a sound channel. -/
theorem State.bankSide_done {r : BankReq} (source : t.channelFailed (t.homeOf (pageOf pa) + pa % 65536) = false)
    (target : u.channelFailed (u.homeOf (pageOf pa) + pa % 65536) = false) (read : t.hbmRead pa (bankSize r) = .ok bs)
    (write : t.hbmWrite pa (bankApply r bs) = .ok u) : t.bankSide pa r = .done u bs := by
  simp only [State.bankSide, source, read, write, target, Bool.false_eq_true, if_false]

/-- A request of local memory is executed once. -/
theorem exec_bankSideRequest {cmp : Cmp} (found : s.cmd? cl id = some k) (near : k.kind.near = true) (started : k.started = true) (unit : j < k.nmUnits)
    (new : k.done.contains j = false) (unsent : s.unitSent cl id j = false) (bare : k.pcl = 0) (turn : s.nmTurn cl k j = true)
    (open_ : s.nmBlocked cl k j = false) (free : s.unitHeld cl k (k.nmSpan j).a = false) (clean : ∀ c a, s.spPoisoned c a 1 = false)
    (reach : s.reach cl k (k.nmSpan j).a [pER, pEW] = (.at_ .hbm pa, t)) (done : t.bankSide pa { t.nmReq k j with addr := pa } = .done u bs) :
    exec (.bankSideRequest cl id j cmp) s = .next ((u.engineDrop cl pa (k.nmSpan j).n).nmDone cl k j (ofBytes bs)) := by
  have sound : s.nmPayloadBad k j = none := by
    simp only [State.nmPayloadBad]
    split
    · next d q _ =>
      rw [Option.map_eq_none_iff, List.find?_eq_none]
      intro x _
      rw [State.spPoisoned_of_clean (clean d)]
      exact Bool.false_ne_true
    · rfl
  have sends : s.nmSend cl k j = (u.engineDrop cl pa (k.nmSpan j).n).nmDone cl k j (ofBytes bs) := by
    simp only [State.nmSend, reach, done]
  have fails : cmpFails k.pcl cmp = false := by simp [cmpFails, bare]
  have alone : (k.pcl == 2) = false := by rw [bare]; rfl
  change execBankSideRequest cl id j cmp s = _
  simp only [execBankSideRequest, found, near, started, decide_eq_false (Nat.not_le.mpr unit), new, unsent, turn, open_, free, Bool.not_true, Bool.or_self,
    Bool.false_eq_true, if_false, sound, State.withCmp, fails, alone, Bool.false_and, sends]

theorem State.SameSp.engineDrop (s : State) (cl pa n : Nat) : s.SameSp (s.engineDrop cl pa n) := .onA s cl _

theorem State.cmd?_engineDrop (s : State) (cl pa n id : Nat) : (s.engineDrop cl pa n).cmd? cl id = s.cmd? cl id :=
  State.cmd?_congr (by rw [State.engineDrop, State.cl_onA_self]; rfl)

theorem State.SameSp.didUnit (s : State) (cl : Nat) (k : Cmd) (j n id : Nat) : s.SameSp ((s.didUnit cl k j n).settle cl id) :=
  (State.SameSp.setCmd s cl _).trans (.settle _ cl id)

theorem State.hbm_didUnit (s : State) (cl : Nat) (k : Cmd) (j n id : Nat) : ((s.didUnit cl k j n).settle cl id).hbm = s.hbm := State.hbm_settle _ cl id

/-- A bank-side request that is not of an NMCAS changes no scratchpad when it has performed. -/
theorem State.nmDone_of_ne (s : State) (cl j old : Nat) (kind : k.kind ≠ .nmcas) :
    s.nmDone cl k j old = (s.didUnit cl k j (k.nmSpan j).n).settle cl k.id := by
  simp only [State.nmDone]
  split
  · next cas _ => exact absurd cas kind
  · rfl

/-- NMCAS returns the old word to the payload. -/
theorem State.nmDone_nmcas (s : State) (cl j old : Nat) (kind : k.kind = .nmcas) (src : k.src = .sp c p) :
    s.nmDone cl k j old = ((s.softWrite c (p + 16 * j) (toBytes 8 old)).didUnit cl k j (k.nmSpan j).n).settle cl k.id := by
  simp only [State.nmDone, kind, src]

theorem State.hbm_softWrite (s : State) (cl a : Nat) (bs : List Byte) : (s.softWrite cl a bs).hbm = s.hbm := by
  simp only [State.softWrite]
  split <;> rfl

/-- What a bank-side request that is not of an NMCAS leaves. -/
theorem State.nmDone_spec (there : u.cmd? cl id = some k) (kind : k.kind ≠ .nmcas) (old : Nat) :
    let v := (u.engineDrop cl pa (k.nmSpan j).n).nmDone cl k j old
    v.hbm = u.hbm ∧ u.SameSp v ∧ ∀ k', v.cmd? cl id = some k' → k'.done = k.done ++ [j] ∧ k'.performed = k.performed + (k.nmSpan j).n := by
  intro v
  have eq : v = _ := State.nmDone_of_ne _ cl j old kind
  rw [State.id_of_cmd? there] at eq
  rw [eq]
  exact ⟨State.hbm_didUnit _ cl k j _ id, (State.SameSp.engineDrop u cl pa _).trans (.didUnit _ cl k j _ id),
    fun k' is => State.cmd?_didUnit ((State.cmd?_engineDrop u cl pa _ id).trans there) ⟨k.got, k.buf, rfl⟩ _ is⟩

/-- What a request of an NMCAS leaves, with the old word in its payload. -/
theorem State.nmDone_nmcas_spec (there : u.cmd? cl id = some k) (kind : k.kind = .nmcas) (src : k.src = .sp c p)
    (clean : ∀ c a, u.spPoisoned c a 1 = false) (eight : bs.length = 8) :
    let v := (u.engineDrop cl pa (k.nmSpan j).n).nmDone cl k j (ofBytes bs)
    v.hbm = u.hbm ∧ (v.cl c).sp = (u.cl c).sp.write (p + 16 * j) bs
      ∧ ∀ k', v.cmd? cl id = some k' → k'.done = k.done ++ [j] ∧ k'.performed = k.performed + (k.nmSpan j).n := by
  intro v
  have word : toBytes 8 (ofBytes bs) = bs := eight ▸ toBytes_ofBytes bs
  have eq : v = _ := State.nmDone_nmcas _ cl j (ofBytes bs) kind src
  rw [State.id_of_cmd? there, word] at eq
  rw [eq]
  have dropped := State.SameSp.engineDrop u cl pa (k.nmSpan j).n
  have sound : ∀ a, (u.engineDrop cl pa (k.nmSpan j).n).spPoisoned c a 1 = false :=
    fun a => (State.NoNewPoison.of_eq rfl rfl : u.NoNewPoison (u.engineDrop cl pa (k.nmSpan j).n)).clean clean c a
  have writes := State.WritesSp.softWrite (cl := c) (u.engineDrop cl pa (k.nmSpan j).n) (p + 16 * j) bs
  refine ⟨(State.hbm_didUnit _ cl k j _ id).trans (State.hbm_softWrite _ _ _ _), ?_, fun k' is => ?_⟩
  · rw [State.SameSp.didUnit _ cl k j _ id c, State.cl_softWrite sound, dropped c]
  · have kept : ((u.engineDrop cl pa (k.nmSpan j).n).softWrite c (p + 16 * j) bs).cmd? cl id = some k :=
      ((State.cmd?_congr (by rw [writes.core])).trans (State.cmd?_engineDrop u cl pa _ id)).trans there
    exact State.cmd?_didUnit kept ⟨k.got, k.buf, rfl⟩ _ is

theorem State.nmReq_nmred (src : k.src = .sp c p) (kind : k.kind = .nmred) : t.nmReq k j
    = { op := .red, fmt := numTyOf k.layout, xfmt := numTyOf k.layout, addr := (k.nmSpan j).a, s := 0, c := 0, v := 0
        xs := (List.range ((k.nmSpan j).n / k.nmSize)).map fun e =>
          (t.cl c).sp.readN (p + ((k.nmSpan j).i / k.nmSize + e) * typeBytes k.layout) (typeBytes k.layout) } := by
  simp only [State.nmReq, src, kind]
  rfl

theorem State.nmReq_nmsax (src : k.src = .sp c p) (kind : k.kind = .nmsax) : t.nmReq k j
    = { op := .sax, fmt := .fp .f32, xfmt := numTyOf k.layout, addr := (k.nmSpan j).a, s := (t.cl c).sp.readN p 4, c := 0, v := 0
        xs := (List.range ((k.nmSpan j).n / k.nmSize)).map fun e =>
          (t.cl c).sp.readN (p + 32 + ((k.nmSpan j).i / k.nmSize + e) * typeBytes k.layout) (typeBytes k.layout) } := by
  simp only [State.nmReq, src, kind]
  rfl

theorem State.nmReq_nmcas (src : k.src = .sp c p) (kind : k.kind = .nmcas) : t.nmReq k j
    = { op := .cas, fmt := .raw 64, xfmt := .raw 64, addr := (k.nmSpan j).a, xs := [], s := 0, c := (t.cl c).sp.readN (p + 16 * j) 8
        v := (t.cl c).sp.readN (p + 16 * j + 8) 8 } := by
  simp only [State.nmReq, src, kind]
  rfl

/-- The request of a reduction: its size, and the bytes that it writes. -/
theorem bankApply_nmred (src : k.src = .sp c p) (kind : k.kind = .nmred) (lo : 0 < k.layout) (hi : k.layout < 16) (bs : List Byte) :
    let r := { t.nmReq k j with addr := pa }
    let z := k.nmSize
    bankSize r = (k.nmSpan j).n / z * z ∧ bankApply r bs = (List.range ((k.nmSpan j).n / z)).flatMap fun e =>
      toBytes z (match fmtOfType k.layout with
        | some f => (fadd f (ofBytes ((bs.drop (z * e)).take z)) ((t.cl c).sp.readN (p + ((k.nmSpan j).i / z + e) * z) z)).1
        | none => (ofBytes ((bs.drop (z * e)).take z) + (t.cl c).sp.readN (p + ((k.nmSpan j).i / z + e) * z) z) % 2 ^ (8 * z)) := by
  intro r z
  have size : z = typeBytes k.layout := by simp only [z, Cmd.nmSize, kind]
  have width := numWidth_numTyOf k.layout hi lo
  simp only [r, State.nmReq_nmred src kind]
  constructor
  · simp only [bankSize, List.length_map, List.length_range, width]
    rw [← size]
  · simp only [bankApply, width]
    rw [flatMap_zipIdx_map_range, ← size]
    refine congrArg (List.flatMap · _) (funext fun e => ?_)
    rw [redElem_numTyOf lo hi, ← size]

/-- The request of a scale-accumulate: its size, and the bytes that it writes. -/
theorem bankApply_nmsax (src : k.src = .sp c p) (kind : k.kind = .nmsax) (bs : List Byte) :
    let r := { t.nmReq k j with addr := pa }
    let z := typeBytes k.layout
    let e0 := (k.nmSpan j).i / k.nmSize
    bankSize r = 4 * ((k.nmSpan j).n / k.nmSize) ∧ bankApply r bs = (List.range ((k.nmSpan j).n / k.nmSize)).flatMap fun e =>
      toBytes 4 (ffma .f32 ((t.cl c).sp.readN p 4)
        (if k.layout = 0xB then (t.cl c).sp.readN (p + 32 + (e0 + e) * z) z * 65536 else (t.cl c).sp.readN (p + 32 + (e0 + e) * z) z)
        (ofBytes ((bs.drop (k.nmSize * e)).take k.nmSize))).1 := by
  intro r z e0
  have size : k.nmSize = 4 := by simp only [Cmd.nmSize, kind]
  simp only [r, State.nmReq_nmsax src kind]
  constructor
  · simp only [bankSize, List.length_map, List.length_range]
  · simp only [bankApply]
    rw [flatMap_zipIdx_map_range]
    refine congrArg (List.flatMap · _) (funext fun e => ?_)
    simp only [saxElem_numTyOf, e0, z, size]

/-- The request of a compare-and-swap: its size, and the bytes that it writes. -/
theorem bankApply_nmcas (src : k.src = .sp c p) (kind : k.kind = .nmcas) (bs : List Byte) :
    let r := { t.nmReq k j with addr := pa }
    bankSize r = 8 ∧ bankApply r bs
      = if ofBytes bs = (t.cl c).sp.readN (p + 16 * j) 8 then toBytes 8 ((t.cl c).sp.readN (p + 16 * j + 8) 8) else bs := by
  intro r
  simp only [r, State.nmReq_nmcas src kind]
  exact ⟨rfl, rfl⟩

end

/-! ### What the units leave -/

section
variable {s t u : State} {cl id j : Nat} {k : Cmd}

/-- A unit that was read, of a command with work left. -/
theorem State.cmd?_gotUnit_settle (found : t.cmd? cl id = some k) (more : k.performed < k.work) (i : Nat) (bs : List Byte) :
    ((t.gotUnit cl k j i bs).settle cl id).cmd? cl id = some { k with got := k.got ++ [j], buf := k.buf.write i bs } := by
  have got := State.cmd?_gotUnit (j := j) found i bs
  rw [State.settle_of_more got more, got]

/-- A unit of local memory that was written, and its command. -/
theorem State.didUnit_engineDrop_spec (there : u.cmd? cl id = some k) (x : Span) (pa : Nat) :
    let v := ((u.engineDrop cl pa x.n).didUnit cl (s.runBytes k x x.n).1 j x.n).settle cl id
    v.hbm = u.hbm ∧ ∀ k', v.cmd? cl id = some k' → k'.done = k.done ++ [j] ∧ k'.performed = k.performed + x.n :=
  ⟨State.hbm_didUnit _ cl _ j _ id,
    fun _ is => State.cmd?_didUnit ((State.cmd?_engineDrop u cl pa _ id).trans there) (s.takeElems_eq k _) _ is⟩

/-- A unit of a tower that was read, its command, and its bank. -/
theorem State.gotUnit_towerDone_spec (found : s.cmd? cl id = some k) (more : k.performed < k.work) (i : Nat) (bs : List Byte) (now key : Nat) :
    let t := (s.gotUnit cl k j i bs).towerDone now cl id key
    t.cmd? cl id = some { k with got := k.got ++ [j], buf := k.buf.write i bs } ∧ (t.cl cl).ctl.bankAsleep key = false := by
  intro t
  have got : ((s.gotUnit cl k j i bs).onCtl cl fun h => h.touch now [key]).cmd? cl id
      = some { k with got := k.got ++ [j], buf := k.buf.write i bs } := (State.cmd?_onCtl _ cl id _).trans (State.cmd?_gotUnit found i bs)
  refine ⟨?_, (State.towerDone_spec _ now cl id key).2⟩
  change (State.settle _ cl id).cmd? cl id = _
  rw [State.settle_of_more got more, got]

/-- A unit of a tower that was written: its bytes, its command, and its bank. -/
theorem State.didUnit_towerDone_spec (found : s.cmd? cl id = some k) {cell : Nat} {x : Span} {bytes : List Byte}
    (sound : s.twPoisoned cl cell x.a x.n = false) (size : bytes.length = x.n) (now key : Nat) :
    let t := ((s.twWrite cl cell x.a bytes).didUnit cl (s.runBytes k x x.n).1 j x.n).towerDone now cl id key
    (∀ k', t.cmd? cl id = some k' → k'.done = k.done ++ [j] ∧ k'.performed = k.performed + x.n)
      ∧ (t.cl cl).tw = (s.cl cl).tw.write ((s.cl cl).twAddr cell x.a) bytes ∧ (t.cl cl).ctl.bankAsleep key = false := by
  intro t
  rw [← size] at sound
  have written := State.cl_twWrite sound
  have there : (s.twWrite cl cell x.a bytes).cmd? cl id = some k := (State.cmd?_congr (by rw [written])).trans found
  obtain ⟨tower, awake⟩ := State.towerDone_spec ((s.twWrite cl cell x.a bytes).didUnit cl (s.runBytes k x x.n).1 j x.n) now cl id key
  refine ⟨fun k' is => ?_, ?_, awake⟩
  · obtain ⟨got, buf, taken⟩ := s.takeElems_eq k ((List.range x.n).map (x.i + ·))
    have named : k.id = id := State.id_of_cmd? found
    have done := State.cmd?_setCmd (j := { k with got := got, buf := buf, done := k.done ++ [j], performed := k.performed + x.n }) there named
    have touched := (State.cmd?_onCtl _ cl id fun h => h.touch now [key]).trans done
    have final : t = (((s.twWrite cl cell x.a bytes).setCmd cl
        { k with got := got, buf := buf, done := k.done ++ [j], performed := k.performed + x.n }).onCtl cl fun h => h.touch now [key]).settle cl id := by
      change State.towerDone (State.didUnit _ cl (s.takeElems k _) j x.n) now cl id key = _
      rw [taken]
      rfl
    rw [final] at is
    cases touched.symm.trans (State.cmd?_settle is)
    exact ⟨rfl, rfl⟩
  · rw [tower, State.didUnit, State.setCmd, State.cl_onA_self, written]

end

/-- Settles O36, unit by unit: each kind of unit has the state it goes on in, and what that state leaves of the command and of the bytes. -/
theorem commandUnits : Obligations.CommandUnits := by
  unfold Obligations.CommandUnits
  intro cl id j s k found started cmd more d x h bytes did
  refine ⟨fun plain unit new size unsent _ free a pa t bs cmps src reach read there => ?hbmRead,
    fun plain _ late unit size new ready lower sound unsent free a pa t u dst reach write there => ?hbmWrite,
    fun plain due compared cmps => exec_hbmUnitAccess_differ found plain due compared cmps,
    fun plain unit new left c a src awake sound cmps => ?towerRead,
    fun plain late unit new ready sound size c a dst awake clean => ?towerWrite,
    fun kind column new free t vs read there => ?gather,
    fun near unit fresh unsent bare turn open_ free clean c p pa t u bs cmp src reach there kept source target => ?bank⟩
  case hbmRead =>
    exact ⟨_, _, exec_hbmUnitAccess_read found plain started cmps src unit new size unsent free reach read,
      State.cmd?_gotUnit_settle there ‹_› _ _, rfl, rfl, rfl⟩
  case hbmWrite =>
    obtain ⟨memory, command⟩ := State.didUnit_engineDrop_spec (s := s) (j := j) there x pa
    exact ⟨_, exec_hbmUnitAccess_write found plain started rfl dst late unit size new ready lower sound unsent free reach write,
      fun b => by rw [memory], command⟩
  case towerRead =>
    obtain ⟨command, bank⟩ := State.gotUnit_towerDone_spec (j := j) found left (k.srcUnit j).i
      (s.twRead cl (k.unitCell k.src j) (k.srcUnit j).a (k.srcUnit j).n) s.clk (bankKey (k.unitCell k.src j) (k.srcUnit j).a)
    exact ⟨_, _, exec_refillDrainTowerAccess_read found plain started cmps src unit new awake sound, command, rfl, rfl, bank⟩
  case towerWrite =>
    obtain ⟨command, tower, bank⟩ := State.didUnit_towerDone_spec (j := j) (x := x) found clean size s.clk (bankKey (k.unitCell k.dst d) x.a)
    refine ⟨_, exec_refillDrainTowerAccess_write found plain started rfl dst late unit new ready sound awake, command, ?_, fun b outside => ?_, bank⟩
    · rw [tower, ← size]
      exact Memory.read_write_self _ _ bytes
    · rw [tower]
      exact Memory.byte_write_of_outside _ _ b _ (size ▸ outside)
  case gather =>
    exact ⟨_, _, exec_gatherColumn found kind started column new free read, State.cmd?_gotUnit there _ _, rfl, rfl⟩
  case bank =>
    intro old z n e0 y done
    have goes {m : Nat} {new : List Byte} (size : bankSize { t.nmReq k j with addr := pa } = m) (read : t.hbmRead pa m = .ok bs)
        (applied : bankApply { t.nmReq k j with addr := pa } bs = new) (write : t.hbmWrite pa new = .ok u) :
        exec (.bankSideRequest cl id j cmp) s = .next ((u.engineDrop cl pa (k.nmSpan j).n).nmDone cl k j (ofBytes bs)) :=
      exec_bankSideRequest found near started unit fresh unsent bare turn open_ free clean reach
        (State.bankSide_done source target (size ▸ read) (applied ▸ write))
    have adds {m : Nat} {new : List Byte} (kind : k.kind ≠ .nmcas) (size : bankSize { t.nmReq k j with addr := pa } = m)
        (read : t.hbmRead pa m = .ok bs) (applied : bankApply { t.nmReq k j with addr := pa } bs = new) : done new [] := fun write => by
      obtain ⟨memory, pads, command⟩ := State.nmDone_spec (pa := pa) (j := j) kept kind (ofBytes bs)
      exact ⟨_, goes size read applied write, fun b => by rw [memory], command, fun i lt => absurd lt (Nat.not_lt_zero i), fun b _ => by rw [pads c]⟩
    refine ⟨fun kind lo hi read => ?reduction, fun kind read => ?scale, fun kind read eight write => ?swap⟩
    case reduction =>
      obtain ⟨size, applied⟩ := bankApply_nmred (t := t) (j := j) (pa := pa) src kind lo hi bs
      exact adds (by rw [kind]; decide) size read applied
    case scale =>
      obtain ⟨size, applied⟩ := bankApply_nmsax (t := t) (j := j) (pa := pa) src kind bs
      exact adds (by rw [kind]; decide) size read applied
    case swap =>
      obtain ⟨size, applied⟩ := bankApply_nmcas (t := t) (j := j) (pa := pa) src kind bs
      have moved : s.NoNewPoison t := by
        have reached := State.NoNewPoison.reach s cl k (k.nmSpan j).a [pER, pEW] []
        rwa [reach] at reached
      have sound := (moved.trans (.hbmWrite write)).clean clean
      obtain ⟨memory, word, command⟩ := State.nmDone_nmcas_spec (pa := pa) (j := j) kept kind src sound eight
      refine ⟨_, goes size read applied write, fun b => by rw [memory], command, fun i inside => ?_, fun b outside => ?_⟩
      · rw [word, Memory.byte_write_of_inside _ _ i _ inside, List.getD_eq_getElem _ _ inside]
      · rw [word]
        exact Memory.byte_write_of_outside _ _ b _ outside

end Sys2Proof.Machine
end

section
/-! PROOFS. The repair of memory and of clusters: what scrubbers read and write back, channels that fail, and the retirement of clusters (R115,
R434-R441, R449-R451). -/

namespace Sys2Proof.Machine
open Sys2Proof

/-! ### What is logged (R441, R445) -/

/-- `t` is `s` with more error records, other marks of the reliability engine, and free values drawn. -/
structure State.Logs (s t : State) : Prop where
  frame : t = { s with rel := t.rel, fresh := t.fresh }
  history : ∀ r ∈ s.rel.history, r ∈ t.rel.history

namespace State.Logs

variable {s t u : State}

theorem refl (s : State) : s.Logs s := ⟨rfl, fun _ => id⟩

theorem trans (h : s.Logs t) (k : t.Logs u) : s.Logs u where
  frame := k.frame.trans (by rw [h.frame])
  history r hr := k.history r (h.history r hr)

theorem sameBytes (h : s.Logs t) : SameBytes s t := by
  rw [h.frame]
  exact .of_clusters rfl rfl fun _ => rfl

theorem hbmPoison (h : s.Logs t) : t.hbmPoison = s.hbmPoison := by rw [h.frame]
theorem spPoison (h : s.Logs t) : t.spPoison = s.spPoison := by rw [h.frame]

theorem deliver (s : State) (r : ErrRec) : s.Logs (s.deliver r) := ⟨rfl, fun _ => List.mem_append_left _⟩

theorem reportUnit (s : State) (u : MemUnit) (rung event : Nat) : s.Logs (s.reportUnit u rung event) := ⟨rfl, fun _ => List.mem_append_left _⟩

theorem overtake (s : State) (hit : MemUnit → Bool) : s.Logs (s.overtake hit) := ⟨rfl, fun _ => id⟩

theorem checkPage (s : State) (page : Nat) : s.Logs (s.checkPage page) := by
  obtain same | ⟨q, same⟩ := s.checkPage_cases page <;> rw [same]
  · exact refl s
  · exact deliver s q

end State.Logs

/-- The history of `t` has a record of an event in a unit, at the GTC of `s`. -/
def State.Records (s t : State) (u : MemUnit) (rung event : Nat) : Prop :=
  ∃ r ∈ t.rel.history, r.rung = rung ∧ r.event = event ∧ r.gtc = s.gtc ∧ r.src = s.unitSrc u ∧ r.addr = unitAddr u

theorem State.records_reportUnit (s : State) (u : MemUnit) (rung event : Nat) : s.Records (s.reportUnit u rung event) u rung event :=
  ⟨_, List.mem_append_right _ (List.mem_singleton_self _), rfl, rfl, rfl, rfl, rfl⟩

theorem State.Records.mono {s t v : State} {u : MemUnit} {rung event : Nat} (h : s.Records t u rung event)
    (keeps : ∀ r ∈ t.rel.history, r ∈ v.rel.history) : s.Records v u rung event := by
  obtain ⟨r, hr, which⟩ := h
  exact ⟨r, keeps r hr, which⟩

/-! ### A scrubber's read (R434, R435, R438) -/

/-- The read of a unit whose scrubber writes back is noted. -/
def State.noteScrub (s : State) (u : MemUnit) : State :=
  if scrubbed u then
    { s with rel := { s.rel with scrubs := (s.rel.scrubs.filter fun p => p.unit != u) ++ [{ unit := u, data := s.unitData u, overtaken := false }] } }
  else s

/-- The thresholds of the page of an HBM unit are checked. -/
def State.checkUnit (s : State) : MemUnit → State
  | .hbm n => s.checkPage (n / 1024)
  | _ => s

theorem State.Logs.noteScrub (s : State) (u : MemUnit) : s.Logs (s.noteScrub u) := by
  simp only [State.noteScrub]
  split
  · exact ⟨rfl, fun _ => id⟩
  · exact refl s

theorem State.Logs.checkUnit (s : State) (u : MemUnit) : s.Logs (s.checkUnit u) := by
  cases u with
  | hbm n => exact checkPage s _
  | _ => exact refl s

theorem State.unitSrc_noteScrub (s : State) (u v : MemUnit) : (s.noteScrub u).unitSrc v = s.unitSrc v := by
  rw [(State.Logs.noteScrub s u).frame]
  rfl

section
variable {u : MemUnit} {s : State} (ok : s.unitOk u = true)
include ok

theorem exec_scrubRead_clean : exec (.scrubRead u .clean) s = .next (s.noteScrub u) := by
  change execScrubRead u .clean s = _
  simp only [execScrubRead, ok, Bool.not_true, Bool.false_eq_true, if_false, State.noteScrub]

theorem exec_scrubRead_corrected (pe : ∀ c e, u ≠ .pe c e) (l1 : ∀ c a, u ≠ .l1 c a) :
    exec (.scrubRead u .corrected) s = .next (((s.noteScrub u).reportUnit u 1 1).checkUnit u) := by
  change execScrubRead u .corrected s = _
  simp only [execScrubRead, ok, Bool.not_true, Bool.false_eq_true, if_false]
  cases u with
  | pe c e => exact absurd rfl (pe c e)
  | l1 c a => exact absurd rfl (l1 c a)
  | _ => rfl

theorem exec_scrubRead_uncorrectable (l1 : ∀ c a, u ≠ .l1 c a) :
    exec (.scrubRead u .uncorrectable) s = .next ((((s.reportUnit u 2 2).overtake (· == u)).poisonUnit u).checkUnit u) := by
  change execScrubRead u .uncorrectable s = _
  simp only [execScrubRead, ok, Bool.not_true, Bool.false_eq_true, if_false]
  cases u with
  | l1 c a => exact absurd rfl (l1 c a)
  | _ => rfl

end

/-- A PE register corrects nothing. -/
theorem exec_scrubRead_pe_corrected {s : State} (c e : Nat) : exec (.scrubRead (.pe c e) .corrected) s = .next s := by
  change execScrubRead (.pe c e) .corrected s = _
  simp only [execScrubRead, ite_self]

/-- An L1 line with an error is dropped, however many of its bits are wrong (log 94). -/
theorem exec_scrubRead_l1 {s : State} {c a : Nat} (ok : s.unitOk (.l1 c a) = true) {found : Scrubbed} (bad : found ≠ .clean) :
    exec (.scrubRead (.l1 c a) found) s = .next ((s.dropLine c a).reportUnit (.l1 c a) 1 1) := by
  change execScrubRead (.l1 c a) found s = _
  cases found with
  | clean => exact absurd rfl bad
  | _ => simp only [execScrubRead, ok, Bool.not_true, Bool.false_eq_true, if_false]

theorem State.scrubRead_corrected_spec {u : MemUnit} {s : State} (ok : s.unitOk u = true) (pe : ∀ c e, u ≠ .pe c e) :
    ∃ t, exec (.scrubRead u .corrected) s = .next t ∧ SameBytes s t ∧ t.hbmPoison = s.hbmPoison ∧ t.spPoison = s.spPoison ∧ s.Records t u 1 1 := by
  by_cases l1 : ∃ c a, u = .l1 c a
  · obtain ⟨c, a, rfl⟩ := l1
    have logs : (s.dropLine c a).Logs _ := .reportUnit (s.dropLine c a) (.l1 c a) 1 1
    exact ⟨_, exec_scrubRead_l1 ok (by decide), (SameBytes.onA s c _).trans logs.sameBytes, rfl, rfl,
      (s.dropLine c a).records_reportUnit (.l1 c a) 1 1⟩
  · have noted := State.Logs.noteScrub s u
    have reported := noted.trans (.reportUnit _ u 1 1)
    have checked := State.Logs.checkUnit ((s.noteScrub u).reportUnit u 1 1) u
    have all := reported.trans checked
    refine ⟨_, exec_scrubRead_corrected ok pe fun c a h => l1 ⟨c, a, h⟩, all.sameBytes, all.hbmPoison, all.spPoison,
      State.Records.mono ?_ checked.history⟩
    obtain ⟨r, hr, rung, event, gtc, src, addr⟩ := (s.noteScrub u).records_reportUnit u 1 1
    exact ⟨r, hr, rung, event, gtc.trans (by rw [noted.frame]), src.trans (s.unitSrc_noteScrub u u), addr⟩

/-! ### Units that cannot be corrected (R435) -/

theorem mem_insert_once {α : Type} [BEq α] [LawfulBEq α] (k : α) (l : List α) : k ∈ if l.contains k then l else l ++ [k] := by
  split
  · next h => exact List.contains_iff_mem.mp h
  · exact List.mem_append_right _ (List.mem_singleton_self k)

/-- A unit outside the file die that is poisoned changes no byte and no record. -/
theorem State.poisonUnit_frame (s : State) {u : MemUnit} (file : ∀ c w, u ≠ .file c w) :
    SameBytes s (s.poisonUnit u) ∧ (s.poisonUnit u).rel = s.rel := by
  cases u with
  | file c w => exact absurd rfl (file c w)
  | _ => exact ⟨.of_clusters rfl rfl fun _ => rfl, rfl⟩

theorem State.scrubRead_uncorrectable_spec {u : MemUnit} {s : State} (ok : s.unitOk u = true) (file : ∀ c w, u ≠ .file c w)
    (l1 : ∀ c a, u ≠ .l1 c a) :
    ∃ t, exec (.scrubRead u .uncorrectable) s = .next t ∧ SameBytes s t ∧ s.Records t u 2 2
      ∧ (∀ n, u = .hbm n → n ∈ t.hbmPoison) ∧ (∀ c g, u = .sp c g → (s.phys c, g) ∈ t.spPoison)
      ∧ (∀ c k n, u = .tw c k n → (s.phys c, (s.cl c).twAddr k (64 * n) / 64) ∈ t.twPoison)
      ∧ (∀ c e, u = .acc c e → (s.phys c, e) ∈ t.accPoison) ∧ ∀ c e, u = .pe c e → (s.phys c, e) ∈ t.pePoison := by
  have reported := State.Logs.reportUnit s u 2 2
  have overtaken := reported.trans (.overtake _ (· == u))
  obtain ⟨bytes, rel⟩ := ((s.reportUnit u 2 2).overtake (· == u)).poisonUnit_frame file
  have checked := State.Logs.checkUnit (((s.reportUnit u 2 2).overtake (· == u)).poisonUnit u) u
  refine ⟨_, exec_scrubRead_uncorrectable ok l1, (overtaken.sameBytes.trans bytes).trans checked.sameBytes, ?record, ?hbm, ?sp, ?tw, ?acc, ?pe⟩
  case record => exact (s.records_reportUnit u 2 2).mono fun r hr => checked.history r (by rw [rel]; exact hr)
  case hbm =>
    rintro n rfl
    rw [checked.hbmPoison]
    exact mem_insert_once n _
  case sp => rintro c g rfl; exact mem_insert_once _ _
  case tw => rintro c k n rfl; exact mem_insert_once _ _
  case acc => rintro c e rfl; exact mem_insert_once _ _
  case pe => rintro c e rfl; exact mem_insert_once _ _

/-! ### A scrubber's write-back, and channels that fail (R115, R438-R440) -/

/-- The state without the scrub of a unit. -/
def State.scrubDone (s : State) (u : MemUnit) : State :=
  { s with rel := { s.rel with scrubs := s.rel.scrubs.filter fun p => p.unit != u } }

theorem State.Logs.scrubDone (s : State) (u : MemUnit) : s.Logs (s.scrubDone u) := ⟨rfl, fun _ => id⟩

theorem State.unit_ne_of_mem_scrubDone {s : State} {u : MemUnit} : ∀ q ∈ (s.scrubDone u).rel.scrubs, q.unit ≠ u := fun _ hq =>
  bne_iff_ne.mp (List.mem_filter.mp hq).2

section
variable {s : State} {u : MemUnit} {p : Scrub} {n : Nat}

theorem exec_scrubWriteback_overtaken (found : s.rel.scrubs.find? (fun p => p.unit == u) = some p) (late : p.overtaken = true) :
    exec (.scrubWriteback u) s = .next (s.scrubDone u) := by
  change execScrubWriteback u s = _
  simp only [execScrubWriteback, found, late, if_true]
  rfl

theorem exec_scrubWriteback_hbm (found : s.rel.scrubs.find? (fun p => p.unit == .hbm n) = some p) (first : p.overtaken = false) :
    exec (.scrubWriteback (.hbm n)) s
      = .next (if s.channelFailed (64 * n) then (s.scrubDone (.hbm n)).report (s.srcChannel (64 * n)) 2 2 0 0 0 (64 * n) 1 0
        else (s.scrubDone (.hbm n)).scrubWrite (.hbm n) p.data) := by
  change execScrubWriteback (.hbm n) s = _
  simp only [execScrubWriteback, found, first, Bool.false_eq_true, if_false]
  rfl

end

theorem exec_channelFail {s : State} {ch : Nat} (lt : ch < 512) (serves : ch ∉ s.dev.failed) (works : ch ∉ s.chanFailed) :
    exec (.channelFail ch) s = .next (({ s with chanFailed := s.chanFailed ++ [ch] } : State).report srcSamovar 7 0x0C 0 0 0 0 1 0) := by
  change execChannelFail ch s = _
  simp [execChannelFail, serves, works, show ¬ 512 ≤ ch by omega]

/-! ### The service bits and SKIP of a column (R381) -/

theorem bit_setBits_self (v i : Nat) (b : Bool) : bit (setBits v i i (b2n b)) i = b := by
  have one : bits (setBits v i i (b2n b)) i i = b2n b := bits_setBits (by rw [Nat.add_sub_cancel_left]; cases b <;> decide)
  rw [bits, Nat.add_sub_cancel_left, pow_one] at one
  rw [bit, Nat.testBit_eq_decide_div_mod_eq, one]
  cases b <;> rfl

/-- A field written leaves the bits below it. -/
theorem bit_setBits_below {v hi lo i : Nat} (x : Nat) (h : i < lo) : bit (setBits v hi lo x) i = bit v i := by
  have fits : 2 ^ lo * bits v hi lo ≤ v := (Nat.mul_le_mul_left _ (Nat.mod_le _ _)).trans (Nat.mul_div_le v _)
  have low : setBits v hi lo x % 2 ^ lo = v % 2 ^ lo := by
    rw [setBits, Nat.add_mul_mod_self_right, Nat.mul_comm, Nat.sub_mul_mod fits]
  have whole (w : Nat) : bit w i = (w % 2 ^ lo).testBit i := by rw [bit, Nat.testBit_mod_two_pow, decide_eq_true h, Bool.true_and]
  rw [whole, low, ← whole]

/-- The service bit of a cluster under new service bits of its column. -/
theorem Dev.bit_clsvc_setColumn (d : Dev) (j skip rows : Nat) {l : Nat} (hl : l < 12) : bit (d.setColumn j skip rows).clsvc (16 * l + j) = bit rows l := by
  suffices key : ∀ n, l < n → bit ((List.range n).foldl (fun v l => setBits v (16 * l + j) (16 * l + j) (b2n (bit rows l))) d.clsvc) (16 * l + j)
      = bit rows l from key 12 hl
  intro n hn
  induction n with
  | zero => omega
  | succ n ih =>
    rw [List.range_succ, List.foldl_append, List.foldl_cons, List.foldl_nil]
    rcases Nat.lt_or_eq_of_le (Nat.le_of_lt_succ hn) with lt | rfl
    · rw [bit_setBits_below _ (by omega), ih lt]
    · exact bit_setBits_self _ _ _

/-- SKIP of a column reads as it is rewritten. -/
theorem Dev.skip_setColumn (d : Dev) {j skip : Nat} (rows : Nat) (hj : j < 16) (hs : skip < 16) :
    bits (d.setColumn j skip rows).clmap.toNat (4 * j + 3) (4 * j) = skip := by
  rw [Dev.setColumn, BitVec.toNat_ofNat, bits_mod (by omega), bits_setBits]
  rw [show 4 * j + 3 + 1 - 4 * j = 4 by omega]
  exact hs

/-! ### Holds and retirements (R449, R450) -/

/-- A cluster is held, and asked to halt if it has a task. -/
def State.holdCluster (s : State) (n : Nat) : State :=
  let t := s.onCtl n fun c => { c with held := true }
  if (t.cl n).ctl.occ = .free then t else t.askPreempt n 1

theorem State.held_holdCluster (s : State) (n m : Nat) : ((s.holdCluster n).cl m).ctl.held = (decide (m = n) || (s.cl m).ctl.held) := by
  have same : (s.holdCluster n).cl m = (s.onCtl n fun c => { c with held := true }).cl m := by
    simp only [State.holdCluster]
    split
    · rfl
    · exact State.cl_askPreempt _ n 1 m
  rw [same, State.onCtl, State.cl_onCl]
  by_cases h : m = n <;> simp [h]

/-- The clusters of a list are held, and those that were held before stay so. -/
theorem State.held_holdAll (s : State) {ns : List Nat} {m : Nat} (h : m ∈ ns ∨ (s.cl m).ctl.held = true) :
    ((s.holdAll ns).cl m).ctl.held = true := by
  induction ns generalizing s with
  | nil => exact h.resolve_left List.not_mem_nil
  | cons n ns ih =>
    have step : s.holdAll (n :: ns) = (s.holdCluster n).holdAll ns := rfl
    rw [step]
    refine ih _ ?_
    rw [State.held_holdCluster, Bool.or_eq_true, decide_eq_true_eq]
    rcases h with listed | held
    · exact (List.mem_cons.mp listed).elim (fun e => .inr (.inl e)) .inl
    · exact .inr (.inr held)

theorem State.retire?_setRetiring (s : State) {j : Nat} {r : Option Retire} (h : ∀ t ∈ r, t.col = j) : (s.setRetiring j r).retire? j = r := by
  have others : (s.rel.retiring.filter fun t => t.col != j).find? (fun t => t.col == j) = none := by
    refine List.find?_eq_none.mpr fun t ht => ?_
    simpa using (List.mem_filter.mp ht).2
  change ((s.rel.retiring.filter fun t => t.col != j) ++ r.toList).find? (fun t => t.col == j) = r
  rw [List.find?_append, others, Option.none_or]
  cases r with
  | none => rfl
  | some t => simp [h t rfl]

theorem State.col_of_retire? {s : State} {j : Nat} {r : Retire} (h : s.retire? j = some r) : r.col = j := by
  simpa using List.find?_some h

/-- The end of holds changes nothing but clusters. -/
theorem State.releaseAll_frame (s : State) (ns : List Nat) : s.releaseAll ns = { s with clusters := (s.releaseAll ns).clusters } := by
  induction ns generalizing s with
  | nil => rfl
  | cons n ns ih =>
    have step : s.releaseAll (n :: ns) = (s.onCtl n fun c => { c with held := false }).releaseAll ns := rfl
    rw [step]
    exact ih _

/-- A cluster removed from service (R450). -/
theorem State.inService_removeCluster (s : State) {n : Nat} (hn : n < 192) : (s.removeCluster n).inService n = false := by
  have rows : clRow n < 12 := by rw [clRow]; omega
  have cleared : bit (s.removeCluster n).dev.clsvc (16 * clRow n + clCol n) = false :=
    ((s.endTask n .requeue).dev.bit_clsvc_setColumn (clCol n) (s.skip (clCol n)) _ rows).trans (bit_setBits_self _ _ false)
  rw [show 16 * clRow n + clCol n = n from Nat.div_add_mod n 16] at cleared
  rw [State.inService, cleared, Bool.and_false]

/-- A retirement whose moves are made leaves its row unused (R449, steps 4 and 5). -/
theorem State.endRetire_spec (s : State) {r : Retire} (hc : r.col < 16) (hr : r.row < 16) :
    (s.endRetire r).skip r.col = r.row ∧ (s.endRetire r).retire? r.col = none := by
  have dev : (s.endRetire r).dev = s.dev.setColumn r.col r.row ((s.setRetiring r.col none).rowBits r.col) := by
    simp only [State.endRetire, State.reportRetired, State.report_dev, State.forgetCluster]
    rw [State.releaseAll_frame]
    rfl
  have retiring : (s.endRetire r).rel.retiring = (s.setRetiring r.col none).rel.retiring := by
    simp only [State.endRetire, State.reportRetired, State.report, State.deliver, State.forgetCluster]
    rw [State.releaseAll_frame]
    rfl
  refine ⟨?_, ?_⟩
  · rw [State.skip, dev, Dev.skip_setColumn _ _ hc hr]
  · rw [State.retire?, retiring]
    exact s.retire?_setRetiring (r := none) (by simp)

section
variable {s : State} {cl : Nat} (lt : cl < 192)
include lt

/-- A cluster that reaches a threshold is held, or removed where its column has no healthy spare. -/
theorem exec_clusterRetirement_due (first : s.retire? (clCol cl) = none) (serves : s.inService cl = true) (due : s.retireDue cl = true) :
    exec (.clusterRetirement cl) s = .next (if s.noSpare (clCol cl) then s.removeCluster cl else s.beginRetire cl) := by
  change execClusterRetirement cl s = _
  simp only [execClusterRetirement, if_neg (show ¬ 192 ≤ cl by omega), first, serves, due, Bool.not_true, Bool.or_self, Bool.false_eq_true, if_false]

theorem exec_clusterRetirement_moved {r : Retire} (under : s.retire? (clCol cl) = some r) (done : r.next = r.row) :
    exec (.clusterRetirement cl) s = .next (s.endRetire r) := by
  change execClusterRetirement cl s = _
  simp only [execClusterRetirement, if_neg (show ¬ 192 ≤ cl by omega), under, if_pos done]

/-- A task that has not halted in 625 clk is aborted and requeued. -/
theorem exec_clusterRetirement_late {r : Retire} (under : s.retire? (clCol cl) = some r) (moves : r.next ≠ r.row)
    (busy : (s.cl r.cl).ctl.occ ≠ .free) (running : (s.cl r.cl).ctl.occ ≠ .saving) (late : r.since + 625 ≤ s.clk) :
    exec (.clusterRetirement cl) s = .next (s.endTask r.cl .requeue) := by
  change execClusterRetirement cl s = _
  simp only [execClusterRetirement, if_neg (show ¬ 192 ≤ cl by omega), under, if_neg moves, bne_iff_ne.mpr busy, bne_iff_ne.mpr running,
    decide_eq_true late, Bool.and_self, if_true]

end

theorem State.beginRetire_spec (s : State) (cl : Nat) :
    ∃ r, (s.beginRetire cl).retire? (clCol cl) = some r ∧ r.cl = cl ∧ r.row = s.physRow cl ∧ r.next = s.skip (clCol cl)
      ∧ ∀ n ∈ s.heldRange (clCol cl) (s.physRow cl), ((s.beginRetire cl).cl n).ctl.held = true :=
  ⟨_, State.retire?_setRetiring _ (by simp), rfl, rfl, rfl, fun _ hn => s.held_holdAll (.inl hn)⟩

/-- The failure of the unused row of a column is noted. -/
theorem exec_clusterRetirement_unused {s : State} {j : Nat} (hj : j < 16) (healthy : s.noSpare j = false) (none : s.retire? j = none) :
    exec (.clusterRetirement (192 + j)) s
      = .next (({ s with rel := { s.rel with failedRows := s.rel.failedRows ++ [(j, s.skip j)] } } : State).reportRetired 1 j (s.skip j)) := by
  change execClusterRetirement (192 + j) s = _
  simp [execClusterRetirement, healthy, none, show ¬ 16 ≤ j by omega]

/-! ### Towers copied bank by logical bank (R88, R449) -/

/-- Keys written one after another, where all that is written at key `j` is one value. -/
theorem NMap.get_foldl_set_key {α β : Type} [DecidableEq α] {d : α} (key : β → Nat) (val : β → α) {l : List β} {j : Nat} {v : α}
    (same : ∀ e ∈ l, key e = j → val e = v) (m : NMap α) :
    NMap.get d (l.foldl (fun m e => NMap.set d m (key e) (val e)) m) j = if ∃ e ∈ l, key e = j then v else NMap.get d m j := by
  induction l generalizing m with
  | nil => simp
  | cons e l ih =>
    rw [List.foldl_cons, ih fun x hx => same x (List.mem_cons_of_mem _ hx), NMap.get_set]
    by_cases h : key e = j
    · simp [h, same e List.mem_cons_self h]
    · simp [h, Ne.symm h]

theorem NMap.le_of_mem {α : Type} [DecidableEq α] {d : α} {lo i : Nat} {v : α} {m : NMap α} (wf : NMap.wfFrom d lo m = true) (h : (i, v) ∈ m) :
    lo ≤ i := by
  induction m generalizing lo with
  | nil => cases h
  | cons e m ih =>
    simp only [NMap.wfFrom, Bool.and_eq_true, decide_eq_true_eq] at wf
    obtain rfl | h := List.mem_cons.mp h
    · exact wf.1.1
    · have := ih wf.2 h
      omega

/-- The entries of a table in canonical form are what it reads as. -/
theorem NMap.get_of_mem {α : Type} [DecidableEq α] {d : α} {lo i : Nat} {v : α} {m : NMap α} (wf : NMap.wfFrom d lo m = true) (h : (i, v) ∈ m) :
    NMap.get d m i = v := by
  induction m generalizing lo with
  | nil => cases h
  | cons e m ih =>
    simp only [NMap.wfFrom, Bool.and_eq_true, decide_eq_true_eq] at wf
    obtain rfl | h := List.mem_cons.mp h
    · simp [NMap.get]
    · have above := NMap.le_of_mem wf.2 h
      rw [NMap.get, if_neg (by omega), if_neg (by omega), ih wf.2 h]

/-- What is not the default has an entry. -/
theorem NMap.mem_of_get_ne {α : Type} {d : α} {i : Nat} {m : NMap α} (h : NMap.get d m i ≠ d) : (i, NMap.get d m i) ∈ m := by
  induction m with
  | nil => exact absurd rfl h
  | cons e m ih =>
    simp only [NMap.get] at h ⊢
    split at h
    · exact absurd rfl h
    · next notBelow =>
      rw [if_neg notBelow]
      split at h
      · next here => rw [if_pos here, here]; exact List.mem_cons_self
      · next notHere => rw [if_neg notHere]; exact List.mem_cons_of_mem _ (ih h)

/-- The banks of a cluster's towers that are in use lie in the towers, no two in one place. -/
def Cluster.Placed (c : Cluster) : Prop :=
  ∀ k < 64, ∀ b < 16, twBankOf b (c.ctl.twSelOf k b) < 18
    ∧ ∀ b' < 16, twBankOf b (c.ctl.twSelOf k b) = twBankOf b' (c.ctl.twSelOf k b') → b = b'

/-- Two bytes of the towers never share a place. -/
theorem Cluster.Placed.twAddr_inj {c : Cluster} (placed : c.Placed) {k k' a a' : Nat} (hk : k < 64) (hk' : k' < 64) (ha : a < 262144)
    (ha' : a' < 262144) (h : c.twAddr k a = c.twAddr k' a') : k = k' ∧ a = a' := by
  obtain ⟨in_, apart⟩ := placed k hk (a / 16384) (by omega)
  have in' := (placed k' hk' (a' / 16384) (by omega)).1
  simp only [Cluster.twAddr, bankAddr] at h
  have cell : k = k' := by omega
  subst cell
  have bank := apart (a' / 16384) (by omega) (by omega)
  exact ⟨rfl, by omega⟩

/-- The place of a byte of a bank, banks numbered through all cells. -/
theorem Cluster.twAddr_bank (c : Cluster) (i : Nat) {o : Nat} (ho : o < 16384) :
    c.twAddr ((i * 16384 + o) / 262144) ((i * 16384 + o) % 262144)
      = bankAddr (i / 16) (twBankOf (i % 16) (c.ctl.twSelOf (i / 16) (i % 16))) + o := by
  rw [Cluster.twAddr, show (i * 16384 + o) / 262144 = i / 16 by omega, show (i * 16384 + o) % 262144 / 16384 = i % 16 by omega,
    show (i * 16384 + o) % 262144 % 16384 = o by omega]

/-- The entries of a tower image are those of the banks in use. -/
theorem Cluster.mem_towerImage {c : Cluster} {p : Nat} {v : Byte} :
    (p, v) ∈ c.towerImage ↔ p < 1024 * 16384 ∧ (c.twAddr (p / 262144) (p % 262144), v) ∈ c.tw := by
  simp only [Cluster.towerImage, List.mem_flatMap, List.mem_range, List.mem_map, NMap.slice, List.mem_filter, Bool.and_eq_true, decide_eq_true_eq]
  constructor
  · rintro ⟨i, hi, ⟨x, w⟩, ⟨entry, low, high⟩, same⟩
    obtain ⟨rfl, rfl⟩ := Prod.mk.inj same
    rw [c.twAddr_bank i (by omega), Nat.add_sub_cancel' low]
    exact ⟨by omega, entry⟩
  · rintro ⟨lt, entry⟩
    have at_ := c.twAddr_bank (p / 16384) (Nat.mod_lt p (by decide : 0 < 16384))
    rw [Nat.div_add_mod' p 16384] at at_
    rw [at_] at entry
    refine ⟨p / 16384, by omega, _, ⟨entry, Nat.le_add_right _ _, Nat.add_lt_add_left (Nat.mod_lt p (by decide)) _⟩, ?_⟩
    rw [Nat.add_sub_cancel_left, Nat.div_add_mod' p 16384]

theorem Cluster.tw_setTowerImage (d : Cluster) (img : Memory) :
    (d.setTowerImage img).tw = img.foldl (fun m e => NMap.set 0 m (d.twAddr (e.1 / 262144) (e.1 % 262144)) e.2) d.unusedBanks := rfl

theorem Cluster.twAddr_setTowerImage (d : Cluster) (img : Memory) (k a : Nat) : (d.setTowerImage img).twAddr k a = d.twAddr k a := rfl

/-- Towers that take another cluster's image hold its bytes, wherever each cluster has its banks. -/
theorem Cluster.byte_setTowerImage {c d : Cluster} (wf : c.tw.wf = true) (placed : d.Placed) {k a : Nat} (hk : k < 64) (ha : a < 262144) :
    (d.setTowerImage c.towerImage).tw.byte (d.twAddr k a) = c.tw.byte (c.twAddr k a) := by
  have mine {e : Nat × Byte} (he : e ∈ c.towerImage) (here : d.twAddr (e.1 / 262144) (e.1 % 262144) = d.twAddr k a) :
      e.2 = c.tw.byte (c.twAddr k a) := by
    obtain ⟨lt, entry⟩ := Cluster.mem_towerImage.mp he
    obtain ⟨cell, byte⟩ := placed.twAddr_inj (by omega) hk (Nat.mod_lt _ (by decide)) ha here
    rw [cell, byte] at entry
    exact (NMap.get_of_mem wf entry).symm
  have used : d.ctl.twSelOf k (a / 2 ^ 14) ≠ 3 := by
    intro h
    have in_ := (placed k hk (a / 2 ^ 14) (by omega)).1
    rw [h, twBankOf, if_neg (by decide)] at in_
    omega
  rw [Cluster.tw_setTowerImage, Memory.byte,
    NMap.get_foldl_set_key (fun e : Nat × Byte => d.twAddr (e.1 / 262144) (e.1 % 262144)) Prod.snd fun e => mine]
  split
  · rfl
  · next missing =>
    refine (Cluster.byte_unusedBanks used ha).trans (Eq.symm (of_not_not fun some_ => missing ?_))
    have cell : (k * 262144 + a) / 262144 = k := by omega
    have byte : (k * 262144 + a) % 262144 = a := by omega
    refine ⟨(k * 262144 + a, c.tw.byte (c.twAddr k a)), Cluster.mem_towerImage.mpr ⟨by omega, ?_⟩, ?_⟩
    · rw [cell, byte]
      exact NMap.mem_of_get_ne some_
    · rw [cell, byte]

/-! ### The moves of a retirement (R449, R451) -/

/-- A cluster with the tower remap tables and the towers of the place that it moves to. -/
def Cluster.inPlaceOf (c old : Cluster) : Cluster := { c with ctl := { c.ctl with remap := old.ctl.remap }, tw := old.tw }

/-- What the place holds once the cluster has moved there. -/
def Cluster.movedTo (c old : Cluster) : Cluster := (c.inPlaceOf old).setTowerImage c.towerImage

theorem State.clusters_movePhys (s : State) (p q : Nat) :
    NMap.get Cluster.reset (s.movePhys p q []).clusters q = (NMap.get Cluster.reset s.clusters p).movedTo (NMap.get Cluster.reset s.clusters q) :=
  NMap.get_set_self s.clusters q _

/-- The towers that have moved read as before, through the remap tables of their new place. -/
theorem Cluster.byte_movedTo {c old : Cluster} (wf : c.tw.wf = true) (placed : old.Placed) {k a : Nat} (hk : k < 64) (ha : a < 262144) :
    (c.movedTo old).tw.byte ((c.movedTo old).twAddr k a) = c.tw.byte (c.twAddr k a) := by
  have placed' : (c.inPlaceOf old).Placed := placed
  rw [Cluster.movedTo, Cluster.twAddr_setTowerImage, Cluster.byte_setTowerImage wf placed' hk ha]

section
variable {s : State} {cl : Nat} {r : Retire} (under : s.retire? (clCol cl) = some r)
include under

/-- A move waits for the tower remaps of the held clusters (R451). -/
theorem exec_clusterMove_waits (waits : s.remapWaiting (s.heldRange r.col r.row) = true) : exec (.clusterMove cl []) s = .next s := by
  change execClusterMove cl [] s = _
  simp only [execClusterMove, under, waits, Bool.or_true, Bool.true_or, if_true]

/-- The cluster next to the free row moves there. -/
theorem exec_clusterMove_moves (moves : r.next ≠ r.row) (near : s.physRow cl = if r.row < r.next then r.next - 1 else r.next + 1)
    (free : s.remapWaiting (s.heldRange r.col r.row) = false) (halted : ∀ n ∈ s.heldRange r.col r.row, (s.cl n).drained = true) :
    exec (.clusterMove cl []) s
      = .next ((s.movePhys (16 * s.physRow cl + r.col) (16 * r.next + r.col) []).setRetiring r.col (some { r with next := s.physRow cl })) := by
  have idle : ((s.heldRange r.col r.row).all fun n => (s.cl n).drained) = true := List.all_eq_true.mpr halted
  change execClusterMove cl [] s = _
  simp only [execClusterMove, under, free, idle, ← near, bne_self_eq_false, Bool.not_true, Bool.or_false, decide_eq_true_eq, if_neg moves,
    List.filter_nil, List.foldl_nil]

end

theorem State.remapWaiting_eq_true {s : State} {ns : List Nat} :
    s.remapWaiting ns = true ↔ ∃ e ∈ s.rel.remaps, s.inService e.1 = true ∧ e.1 ∈ ns := by
  simp [State.remapWaiting]

/-! ### The statement -/

/-- Settles O44: the operations of the scrubbers log and poison but write nothing, SKIP and the service bits of a column read as a retirement
rewrites them, and a tower image put into other banks reads as in its own. -/
theorem repairOfMemoryAndClusters : Obligations.RepairOfMemoryAndClusters := by
  unfold Obligations.RepairOfMemoryAndClusters
  refine ⟨fun u s ok => ⟨?clean, ?pe, State.scrubRead_corrected_spec ok, ?line, State.scrubRead_uncorrectable_spec ok⟩,
    fun u s p found => ⟨fun late => ?overtaken, ?failed, ?stored⟩,
    fun ch s lt serves works => ⟨_, exec_channelFail lt serves works, rfl, .of_clusters rfl rfl fun _ => rfl, ?logged⟩,
    fun cl s lt => ⟨fun first serves due => ⟨fun spare => ?begins, fun spare => ?removed⟩,
      fun r under hr => ⟨fun done => ?ended, fun moves busy running late => exec_clusterRetirement_late lt under moves busy running late, ?moves⟩⟩,
    fun j s hj healthy none => ⟨_, exec_clusterRetirement_unused hj healthy none, rfl⟩⟩
  case clean =>
    have noted := State.Logs.noteScrub s u
    exact ⟨_, exec_scrubRead_clean ok, noted.sameBytes, noted.hbmPoison, noted.spPoison⟩
  case pe =>
    rintro c e rfl
    exact exec_scrubRead_pe_corrected c e
  case line =>
    rintro c a rfl
    have logs : (s.dropLine c a).Logs _ := .reportUnit (s.dropLine c a) (.l1 c a) 1 1
    refine ⟨_, exec_scrubRead_l1 ok (by decide), (SameBytes.onA s c _).trans logs.sameBytes, ?_, (s.dropLine c a).records_reportUnit (.l1 c a) 1 1⟩
    rw [State.cl_reportUnit, State.dropLine, State.cl_onA_self]
  case overtaken => exact ⟨_, exec_scrubWriteback_overtaken found late, (State.Logs.scrubDone s u).sameBytes, State.unit_ne_of_mem_scrubDone⟩
  case failed =>
    rintro n rfl first gone
    refine ⟨_, (exec_scrubWriteback_hbm found first).trans (congrArg _ (if_pos gone)), ?_, _, List.mem_append_right _ (List.mem_singleton_self _),
      rfl, rfl, rfl⟩
    exact (State.Logs.scrubDone s _).sameBytes.trans (.report _ _ _ _ _ _ _ _ _ _)
  case stored =>
    rintro n rfl first works len
    refine ⟨_, (exec_scrubWriteback_hbm found first).trans (congrArg _ (if_neg (by rw [works]; decide))), ?_, rfl, rfl, fun b outside => ?_⟩
    · have read := Memory.read_write_self s.hbm (64 * n) p.data
      rwa [len] at read
    · exact Memory.byte_write_of_outside s.hbm _ b p.data (len ▸ outside)
  case logged => exact ⟨_, List.mem_append_right _ (List.mem_singleton_self _), rfl, rfl, rfl⟩
  case begins =>
    obtain ⟨r, under, which⟩ := s.beginRetire_spec cl
    exact ⟨_, r, (exec_clusterRetirement_due lt first serves due).trans (congrArg _ (if_neg (by rw [spare]; decide))), under, which⟩
  case removed =>
    exact ⟨_, (exec_clusterRetirement_due lt first serves due).trans (congrArg _ (if_pos spare)), s.inService_removeCluster lt⟩
  case ended =>
    have spec := s.endRetire_spec (r := r) (by rw [State.col_of_retire? under]; exact Nat.mod_lt _ (by decide)) hr
    rw [State.col_of_retire? under] at spec
    exact ⟨_, exec_clusterRetirement_moved lt under done, spec⟩
  case moves =>
    intro row moves near halted
    refine ⟨fun waits => exec_clusterMove_waits under (State.remapWaiting_eq_true.mpr waits), fun free => ?_⟩
    have still : s.remapWaiting (s.heldRange r.col r.row) = false :=
      Bool.eq_false_iff.mpr fun waits => by
        obtain ⟨e, he, serves, held⟩ := State.remapWaiting_eq_true.mp waits
        exact free e he serves held
    have step := exec_clusterMove_moves under moves near still halted
    rw [near] at step
    have here := s.clusters_movePhys (16 * row + r.col) (16 * r.next + r.col)
    refine ⟨_, step, ?_, ?_⟩
    · rw [← State.col_of_retire? under]
      exact State.retire?_setRetiring _ (by simp)
    · dsimp only [State.setRetiring]
      rw [here]
      exact ⟨rfl, rfl, rfl, rfl, fun wf _ placed k hk a ha => Cluster.byte_movedTo wf placed hk ha⟩

end Sys2Proof.Machine
end

section
/-! PROOFS. Snapshot and transaction slots of a context: what messages, completion words and the ends of slots leave (R117, R119, R129,
R134, R467). -/

namespace Sys2Proof.Machine
open Sys2Proof

/-! ### Slots of a context -/

@[simp] theorem Ctx.snap_setSnap_self (c : Ctx) (i : Nat) (v : Snap) : (c.setSnap i v).snap i = v := NMap.get_set_self _ _ _
theorem Ctx.snap_setSnap (c : Ctx) (i j : Nat) (v : Snap) : (c.setSnap i v).snap j = if j = i then v else c.snap j := NMap.get_set _ _ _ _
@[simp] theorem Ctx.tx_setTx_self (c : Ctx) (i : Nat) (v : Tx) : (c.setTx i v).tx i = v := NMap.get_set_self _ _ _
@[simp] theorem Ctx.tx_setFrame (c : Ctx) (i j : Nat) (v : Option Frame) : (c.setFrame i v).tx j = c.tx j := rfl

theorem State.snap_onCtx_setSnap (s : State) (cid i : Nat) (v : Ctx → Snap) :
    ((s.onCtx cid fun c => c.setSnap i (v c)).ctx cid).snap i = v (s.ctx cid) := by rw [State.ctx_onCtx, Ctx.snap_setSnap_self]

theorem State.tx_onCtx_setTx (s : State) (cid i : Nat) (v : Ctx → Tx) :
    ((s.onCtx cid fun c => c.setTx i (v c)).ctx cid).tx i = v (s.ctx cid) := by rw [State.ctx_onCtx, Ctx.tx_setTx_self]

/-! ### Messages and requests -/

theorem State.Posts.ctx {s t : State} (h : s.Posts t) (cid : Nat) : t.ctx cid = s.ctx cid := (congrArg (State.ctx · cid) h.eq :)
theorem State.Posts.gtc {s t : State} (h : s.Posts t) : t.gtc = s.gtc := (congrArg State.gtc h.eq :)

/-- `t` is `s` but for its ports, the messages that have left, its requests, and the number that the next message gets. -/
structure State.Asks (s t : State) : Prop where
  eq : t = { s with ports := t.ports, outbox := t.outbox, reqs := t.reqs, nextMsg := t.nextMsg }

namespace State.Asks

theorem refl (s : State) : s.Asks s := ⟨rfl⟩

theorem trans {s t u : State} (h : s.Asks t) (k : t.Asks u) : s.Asks u := ⟨by rw [k.eq, h.eq]⟩

theorem foldl {α : Type} {f : State → α → State} (h : ∀ (s : State) (a : α), s.Asks (f s a)) (s : State) (l : List α) : s.Asks (l.foldl f s) :=
  List.foldlRecOn l f (refl s) fun t ht a _ => ht.trans (h t a)

theorem of_posts {s t : State} (h : s.Posts t) : s.Asks t := ⟨by rw [h.eq]⟩

theorem request (s : State) (peer : Nat) (owner : ReqBy) (m : ReqId → Msg) : s.Asks (s.request peer owner m) := by
  simp only [State.request]
  split
  · exact refl s
  · exact .trans ⟨rfl⟩ (of_posts (.send _ _ _ _))

theorem sendTx (s : State) (cid slot k : Nat) (m : ReqId → Msg) : s.Asks (s.sendTx cid slot k m) := request s _ _ _

variable {s t : State} (h : s.Asks t)
include h

theorem ctx (cid : Nat) : t.ctx cid = s.ctx cid := (congrArg (State.ctx · cid) h.eq :)
theorem cl (n : Nat) : t.cl n = s.cl n := (congrArg (State.cl · n) h.eq :)
theorem gtc : t.gtc = s.gtc := (congrArg State.gtc h.eq :)
theorem dev : t.dev = s.dev := (congrArg State.dev h.eq :)
theorem focus : t.focus = s.focus := (congrArg State.focus h.eq :)
theorem hbm : t.hbm = s.hbm := (congrArg State.hbm h.eq :)
theorem hostMem : t.hostMem = s.hostMem := (congrArg State.hostMem h.eq :)
theorem sameBytes : SameBytes s t := .of_clusters h.hbm h.hostMem h.cl

end State.Asks

/-! ### Completion words (R129, R160) -/

/-- The completion word of a slot lies in one cluster's scratchpad. -/
theorem State.writesSp_closeWord (s : State) (w : Option (Nat × Nat)) (code : Nat) : ∃ cl, s.WritesSp cl (s.closeWord w code) := by
  cases w with
  | none => exact ⟨0, .refl s⟩
  | some w =>
    simp only [State.closeWord]
    exact ⟨w.1, s.writesSp_onWord w.1 w.2 _⟩

theorem State.ctx_closeWord (s : State) (w : Option (Nat × Nat)) (code cid : Nat) : (s.closeWord w code).ctx cid = s.ctx cid := by
  obtain ⟨cl, writes⟩ := s.writesSp_closeWord w code
  rw [State.ctx, writes.ctxs, State.ctx]

/-! ### The end of a snapshot (R119, R129) -/

theorem Ctx.snap_releaseFrames (c : Ctx) (i j : Nat) : (c.releaseFrames i).snap j = c.snap j := rfl

theorem State.snap_endSnap (s : State) (cid i j : Nat) (st : SnapSt) (code : Nat) :
    ((s.endSnap cid i st code).ctx cid).snap j = if j = i then { (s.ctx cid).snap i with st := st, code := code } else (s.ctx cid).snap j := by
  rw [State.endSnap, State.ctx_closeWord, State.ctx_onCtx]
  exact Ctx.snap_setSnap _ _ _ _

theorem State.snap_endSnap_self (s : State) (cid i : Nat) (st : SnapSt) (code : Nat) :
    ((s.endSnap cid i st code).ctx cid).snap i = { (s.ctx cid).snap i with st := st, code := code } :=
  (s.snap_endSnap cid i i st code).trans (if_pos rfl)

/-- A slot that ends has the state and the code that it ends with. -/
theorem State.endSnap_ends (s : State) (cid i : Nat) (st : SnapSt) (code : Nat) :
    (((s.endSnap cid i st code).ctx cid).snap i).st = st ∧ (((s.endSnap cid i st code).ctx cid).snap i).code = code := by
  rw [State.snap_endSnap_self]
  exact ⟨rfl, rfl⟩

end Sys2Proof.Machine
end

section
/-! PROOFS. SNAP (R119, R120, R124, R312): what an accepted SNAP arms, and a SNAP that writes a completion word. -/

namespace Sys2Proof.Machine
open Sys2Proof

/-- SNAP whose checks pass and that no refusal code meets arms its slot. -/
theorem exec_snap_accepts {s : State} {f : AF} (ready : s.ready [f.d, f.sa, f.sb] = true) (word : s.snapErr f = none)
    (fine : s.snapCode (s.runCid s.focus) (bits f.imm.toNat 1 0) (s.g f.sa).toNat (bits f.imm.toNat 4 3) = 0) :
    exec (.snap f) s
      = .next ((s.armSnap (s.runCid s.focus) (bits f.imm.toNat 1 0) (s.g f.sa).toNat (s.g f.sb ||| chipBit s.dev.chip) (bit f.imm.toNat 2)
          (bits f.imm.toNat 4 3) s.focus f.ocl.toNat (some (s.focus, bits f.imm.toNat 23 5 * 8))).result f.d 0) := by
  change execSnap f s = _
  simp only [execSnap, ready, word, fine, Bool.not_true, Bool.false_eq_true, if_false, if_true]
  rfl

/-- A device whose context has failed slot 0 in a group with chip 1 that is still undecided, while slot 1, whose word lies in cluster 0, is
PENDING in a group of chip 1, and chip 1 has since been fenced. -/
def orphanGroup : State :=
  { State.reset with dev := { Dev.reset with fenced := 2 } }.onCtx 0 fun c =>
    (({ c with scb := 2 ^ 12 + 2 ^ 256 } : Ctx).setSnap 0 { Snap.free with st := .failed, t := 1, mask := 2 }).setSnap 1
      { Snap.free with st := .pending, origin := 1, word := some (0, 0) }

/-- SNAP of slot 0 at the next instant, of class 0 and target 0. -/
def snapSlot0 : AF := { pcl := 0, ocl := 0, d := 0, sa := 0, sb := 0, imm := 0 }

/-- Refutes O20: a SNAP closes an undecided group of its slot first (log 73), and cancelling it lets the instants of the context's other slots
count (R117); one of these that waits for a fenced chip fails there and then, and its completion word is written into a scratchpad. -/
theorem not_snapshotInstructions : ¬ Obligations.SnapshotInstructions := by
  intro h
  obtain ⟨-, -, -, accepts⟩ := (h snapSlot0 orphanGroup).1 (by decide) (by decide)
  obtain ⟨u, step, -, -, same, -⟩ := accepts (by decide) (by decide) (by decide)
  obtain rfl := Host.Outcome.next.inj ((exec_snap_accepts (by decide) (by decide) (by decide)).symm.trans step)
  exact absurd (same.2.2 0 6).1 (by decide +kernel)

end Sys2Proof.Machine
end

section
/-! PROOFS. Groups of snapshots from arming to their instant (R117, R119, R120, R124). -/

namespace Sys2Proof.Machine
open Sys2Proof

/-! ### Armed slots reach their instants (R117) -/

/-- Slot `i` is armed, and its instant is fixed and has come by `now`. -/
def Ctx.due (c : Ctx) (now i : Nat) : Bool := (c.snap i).st == .armed && (c.snap i).t != 0 && decide ((c.snap i).t ≤ now)

/-- A slot once its instant is reached, its generation apart. -/
def Snap.reached (n : Snap) (gen : Nat) : Snap := { n with st := if n.confirmed then .live else .pending, gen := gen }

theorem Snap.reached_st_ne_armed (n : Snap) (gen : Nat) : (n.reached gen).st ≠ .armed := by
  simp only [Snap.reached]
  split <;> decide

theorem Ctx.snap_reach (c : Ctx) (i j : Nat) : (c.reach i).snap j = if j = i then (c.snap i).reached (c.genBefore i) else c.snap j :=
  Ctx.snap_setSnap _ _ _ _

theorem Ctx.due_reach (c : Ctx) (now i j : Nat) : (c.reach i).due now j = (c.due now j && j != i) := by
  rw [Ctx.due, Ctx.snap_reach]
  by_cases h : j = i
  · simp [h, Snap.reached_st_ne_armed]
  · simp [h, Ctx.due]

/-- Either no slot is due, or the first thing that happens is that one of those due reaches its instant. -/
theorem Ctx.reachAll_succ (c : Ctx) (now k : Nat) :
    (c.reachAll now (k + 1) = c ∧ ∀ i < 4, c.due now i = false)
      ∨ ∃ i, c.due now i = true ∧ i < 4 ∧ c.reachAll now (k + 1) = (c.reach i).reachAll now k := by
  have listed : (List.range 4).filter (fun i => (c.snap i).st == .armed && (c.snap i).t != 0 && decide ((c.snap i).t ≤ now))
      = (List.range 4).filter (c.due now) := rfl
  rw [Ctx.reachAll, listed]
  cases hl : (List.range 4).filter (c.due now) with
  | nil => exact .inl ⟨rfl, fun i hi => by simpa using List.filter_eq_nil_iff.mp hl i (List.mem_range.mpr hi)⟩
  | cons i is =>
    have first : is.foldl (fun best j => if (c.snap j).t < (c.snap best).t then j else best) i ∈ i :: is := by
      refine List.foldlRecOn is _ (motive := (· ∈ i :: is)) List.mem_cons_self fun best hbest j hj => ?_
      split
      · exact List.mem_cons_of_mem _ hj
      · exact hbest
    rw [← hl] at first
    obtain ⟨lt, due⟩ := List.mem_filter.mp first
    exact .inr ⟨_, due, List.mem_range.mp lt, rfl⟩

theorem Ctx.snap_reachAll_of_not_due {c : Ctx} {now i : Nat} (not : c.due now i = false) (k : Nat) : (c.reachAll now k).snap i = c.snap i := by
  induction k generalizing c with
  | zero => rfl
  | succ k ih =>
    obtain ⟨eq, -⟩ | ⟨j, due, -, eq⟩ := c.reachAll_succ now k
    · rw [eq]
    · have other : i ≠ j := by rintro rfl; rw [due] at not; cases not
      rw [eq, ih (by rw [c.due_reach, not]; rfl), Ctx.snap_reach, if_neg other]

/-- A slot that is due reaches its instant, however many are due before it. -/
theorem Ctx.snap_reachAll_of_due {c : Ctx} {now i k : Nat} (lt : i < 4) (due : c.due now i = true)
    (enough : ((List.range 4).filter (c.due now)).length ≤ k) : ∃ g, (c.reachAll now k).snap i = (c.snap i).reached g := by
  have listed : i ∈ (List.range 4).filter (c.due now) := List.mem_filter.mpr ⟨List.mem_range.mpr lt, due⟩
  induction k generalizing c with
  | zero => rw [List.length_eq_zero_iff.mp (Nat.le_zero.mp enough)] at listed; cases listed
  | succ k ih =>
    obtain ⟨-, none⟩ | ⟨j, dueJ, ltJ, eq⟩ := c.reachAll_succ now k
    · rw [none i lt] at due; cases due
    · rw [eq]
      by_cases this : i = j
      · subst this
        refine ⟨c.genBefore i, ?_⟩
        rw [Ctx.snap_reachAll_of_not_due (by simp [Ctx.due_reach]), Ctx.snap_reach, if_pos rfl]
      · have kept : (c.reach j).snap i = c.snap i := (c.snap_reach j i).trans (if_neg this)
        have stillDue : (c.reach j).due now i = true := by simp [Ctx.due_reach, due, this]
        have fewer : ((List.range 4).filter ((c.reach j).due now)).length < ((List.range 4).filter (c.due now)).length := by
          have left : (List.range 4).filter ((c.reach j).due now) = ((List.range 4).filter (c.due now)).filter (· != j) := by
            rw [List.filter_filter]
            exact List.filter_congr fun x _ => by rw [c.due_reach, Bool.and_comm]
          rw [left]
          exact List.length_filter_lt_length_iff_exists.mpr ⟨j, List.mem_filter.mpr ⟨List.mem_range.mpr ltJ, dueJ⟩, by simp⟩
        rw [← kept]
        exact ih stillDue (by omega) (List.mem_filter.mpr ⟨List.mem_range.mpr lt, stillDue⟩)

/-! ### Slots of fenced chips (R119, R127) -/

/-- A PENDING slot whose issuing chip is another one that is fenced. -/
def State.strands (s : State) (n : Snap) : Bool := n.st == .pending && n.origin != s.dev.chip && s.fencedChip n.origin

/-- What becomes of a slot that may be so stranded. -/
def State.fate (s : State) (n : Snap) : Snap := if s.strands n then { n with st := .failed, code := 0x32 } else n

theorem State.fate_fate (s : State) (n : Snap) : s.fate (s.fate n) = s.fate n := by
  rw [State.fate, if_neg]
  rw [State.fate]
  split
  · simp [State.strands]
  · assumption

theorem State.fate_of_dev {s t : State} (dev : t.dev = s.dev) (n : Snap) : t.fate n = s.fate n := by
  rw [State.fate, State.strands, State.fencedChip, dev]
  rfl

theorem State.fate_of_st {s : State} {n : Snap} (st : n.st ≠ .pending) : s.fate n = n := if_neg (by simp [State.strands, st])

theorem State.fate_of_own {s : State} {n : Snap} (own : n.origin = s.dev.chip) : s.fate n = n := if_neg (by simp [State.strands, own])

/-- Slot `i` fails if it is stranded. -/
def State.failStranded (cid : Nat) (s : State) (i : Nat) : State :=
  if s.strands ((s.ctx cid).snap i) then s.endSnap cid i .failed 0x32 else s

theorem State.reachAll_eq (s : State) (cid : Nat) :
    s.reachAll cid = (List.range 4).foldl (State.failStranded cid) (s.onCtx cid fun c => c.reachAll s.gtc 4) := rfl

theorem State.dev_failStranded (cid : Nat) (s : State) (i : Nat) : (s.failStranded cid i).dev = s.dev :=
  State.dev_ite (s.dev_endSnap cid i _ _) rfl

theorem State.snap_failStranded (s : State) (cid i j : Nat) :
    ((s.failStranded cid i).ctx cid).snap j = if j = i then s.fate ((s.ctx cid).snap i) else (s.ctx cid).snap j := by
  rw [State.failStranded, State.fate]
  split
  · exact s.snap_endSnap cid i j _ _
  · split
    · next h => rw [h]
    · rfl

theorem State.snap_foldl_failStranded (cid j : Nat) (l : List Nat) (s : State) :
    ((l.foldl (State.failStranded cid) s).ctx cid).snap j = if j ∈ l then s.fate ((s.ctx cid).snap j) else (s.ctx cid).snap j := by
  induction l generalizing s with
  | nil => simp
  | cons i l ih =>
    rw [List.foldl_cons, ih, State.fate_of_dev (s.dev_failStranded cid i), State.snap_failStranded]
    by_cases here : j = i
    · simp [here, State.fate_fate]
    · simp [here]

theorem State.snap_reachAll (s : State) (cid : Nat) {j : Nat} (lt : j < 4) :
    ((s.reachAll cid).ctx cid).snap j = s.fate (((s.ctx cid).reachAll s.gtc 4).snap j) := by
  rw [State.reachAll_eq, State.snap_foldl_failStranded, if_pos (List.mem_range.mpr lt), State.ctx_onCtx]
  rfl

section
variable {s : State} {cid slot : Nat} (lt : slot < 4)
include lt

/-- The slot that reaches its instant, unless it is stranded. -/
theorem State.snap_reachAll_of_due (due : (s.ctx cid).due s.gtc slot = true) :
    ∃ g, ((s.reachAll cid).ctx cid).snap slot = s.fate (((s.ctx cid).snap slot).reached g) := by
  have few : ((List.range 4).filter ((s.ctx cid).due s.gtc)).length ≤ 4 := List.length_filter_le _ _
  obtain ⟨g, eq⟩ := Ctx.snap_reachAll_of_due lt due few
  exact ⟨g, by rw [s.snap_reachAll cid lt, eq]⟩

theorem State.snap_reachAll_of_not_due (not : (s.ctx cid).due s.gtc slot = false) :
    ((s.reachAll cid).ctx cid).snap slot = s.fate ((s.ctx cid).snap slot) := by
  rw [s.snap_reachAll cid lt, Ctx.snap_reachAll_of_not_due not]

/-- A slot that is neither armed nor PENDING stays as it is. -/
theorem State.snap_reachAll_of_closed (armed : ((s.ctx cid).snap slot).st ≠ .armed) (pending : ((s.ctx cid).snap slot).st ≠ .pending) :
    ((s.reachAll cid).ctx cid).snap slot = (s.ctx cid).snap slot := by
  rw [State.snap_reachAll_of_not_due lt (by simp [Ctx.due, armed]), State.fate_of_st pending]

/-- A slot whose group is not confirmed comes no further than PENDING, or fails there if its issuing chip is fenced. -/
theorem State.snap_reachAll_of_open (open_ : ((s.ctx cid).snap slot).st = .armed ∨ ((s.ctx cid).snap slot).st = .pending)
    (unconfirmed : ((s.ctx cid).snap slot).confirmed = false) :
    (((s.reachAll cid).ctx cid).snap slot).confirmed = false
      ∧ ((((s.reachAll cid).ctx cid).snap slot).st = .armed ∨ (((s.reachAll cid).ctx cid).snap slot).st = .pending
        ∨ ((s.ctx cid).snap slot).origin ≠ s.dev.chip ∧ (((s.reachAll cid).ctx cid).snap slot).st = .failed
          ∧ (((s.reachAll cid).ctx cid).snap slot).code = 0x32) := by
  have fate (m : Snap) (conf : m.confirmed = false) (origin : m.origin = ((s.ctx cid).snap slot).origin) (st : m.st = .armed ∨ m.st = .pending) :
      (s.fate m).confirmed = false ∧ ((s.fate m).st = .armed ∨ (s.fate m).st = .pending
        ∨ ((s.ctx cid).snap slot).origin ≠ s.dev.chip ∧ (s.fate m).st = .failed ∧ (s.fate m).code = 0x32) := by
    by_cases strands : s.strands m = true
    · have other : m.origin ≠ s.dev.chip := by
        simp only [State.strands, Bool.and_eq_true, bne_iff_ne] at strands
        exact strands.1.2
      rw [State.fate, if_pos strands]
      exact ⟨conf, .inr (.inr ⟨origin ▸ other, rfl, rfl⟩)⟩
    · rw [State.fate, if_neg strands]
      exact ⟨conf, st.imp_right .inl⟩
  cases due : (s.ctx cid).due s.gtc slot with
  | true =>
    obtain ⟨g, eq⟩ := State.snap_reachAll_of_due lt due
    rw [eq]
    exact fate _ unconfirmed rfl (.inr (by simp [Snap.reached, unconfirmed]))
  | false =>
    rw [State.snap_reachAll_of_not_due lt due]
    exact fate _ unconfirmed rfl open_

end

/-! ### CONFIRM and CANCEL (R119, R124) -/

theorem State.snap_confirmSnap (s : State) (cid slot : Nat) :
    ((s.confirmSnap cid slot).ctx cid).snap slot
      = if ((s.ctx cid).snap slot).st = .pending then { (s.ctx cid).snap slot with confirmed := true, st := .live, lastProg := s.gtc }
        else { (s.ctx cid).snap slot with confirmed := true } := by
  rw [State.confirmSnap, State.ctx_onCtx]
  by_cases h : ((s.ctx cid).snap slot).st = .pending <;> simp [h]

section
variable {s : State} {cid slot : Nat} (lt : slot < 4) (unconfirmed : ((s.ctx cid).snap slot).confirmed = false)
include lt unconfirmed

/-- CANCEL of a slot that is armed or PENDING, or whose chip is found fenced by then. -/
theorem State.cancelSnap_open (open_ : ((s.ctx cid).snap slot).st = .armed ∨ ((s.ctx cid).snap slot).st = .pending) :
    (((s.cancelSnap cid slot).ctx cid).snap slot).st = .failed ∧ (((s.cancelSnap cid slot).ctx cid).snap slot).code = 0x32
      ∧ (((s.cancelSnap cid slot).ctx cid).snap slot).cancelled = true := by
  obtain ⟨conf, st⟩ := State.snap_reachAll_of_open lt open_ unconfirmed
  simp only [State.cancelSnap, conf, Bool.false_eq_true, if_false]
  rcases st with st | st | ⟨-, st, code⟩
  · simp [st, State.snap_endSnap_self, State.snap_onCtx_setSnap]
  · simp [st, State.snap_endSnap_self, State.snap_onCtx_setSnap]
  · simp [st, code, State.snap_onCtx_setSnap]

/-- CANCEL of any other slot is noted. -/
theorem State.cancelSnap_closed (armed : ((s.ctx cid).snap slot).st ≠ .armed) (pending : ((s.ctx cid).snap slot).st ≠ .pending) :
    ((s.cancelSnap cid slot).ctx cid).snap slot = { (s.ctx cid).snap slot with cancelled := true } := by
  have same := State.snap_reachAll_of_closed lt armed pending
  simp [State.cancelSnap, same, unconfirmed, armed, pending, State.snap_onCtx_setSnap]

end

/-! ### The issuing chip closes a group (R124) -/

theorem State.undecided_iff (s : State) (n : Snap) :
    s.undecided n = true ↔ n.st ≠ .free ∧ n.origin = s.dev.chip ∧ n.t ≠ 0 ∧ s.others n.mask ≠ [] ∧ n.confirmed = false ∧ n.cancelled = false := by
  simp [State.undecided, and_assoc]

theorem State.posts_sends (s : State) (ks : List Nat) (m : Msg) : s.Posts (ks.foldl (fun s k => s.send k m) s) := .foldl (fun s k => .send s k m _) s ks

section
variable {s : State} {cid slot : Nat}

theorem State.closeGroup_of_decided (decided : s.undecided ((s.ctx cid).snap slot) = false) : s.closeGroup cid slot = s := if_pos (by simp [decided])

variable (undecided : s.undecided ((s.ctx cid).snap slot) = true)
include undecided

theorem State.closeGroup_confirms (all : ∀ k ∈ s.others ((s.ctx cid).snap slot).mask, ((s.ctx cid).snap slot).answers.getLsbD k = true
    ∧ ((s.ctx cid).snap slot).refused.getLsbD k = false) : ∃ t, s.Posts t ∧ s.closeGroup cid slot = t.confirmSnap cid slot := by
  have every : ((s.others ((s.ctx cid).snap slot).mask).all fun k => ((s.ctx cid).snap slot).answers.getLsbD k
      && !((s.ctx cid).snap slot).refused.getLsbD k) = true := List.all_eq_true.mpr fun k hk => by simp [all k hk]
  refine ⟨_, s.posts_sends (s.others ((s.ctx cid).snap slot).mask) (.confirm cid slot), ?_⟩
  simp only [State.closeGroup, undecided, every, Bool.not_true, Bool.false_eq_true, if_false, if_true]

theorem State.closeGroup_cancels (missing : ∃ k ∈ s.others ((s.ctx cid).snap slot).mask, ((s.ctx cid).snap slot).answers.getLsbD k = false
    ∨ ((s.ctx cid).snap slot).refused.getLsbD k = true) : ∃ t, s.Posts t ∧ s.closeGroup cid slot = t.cancelSnap cid slot := by
  obtain ⟨k, hk, miss⟩ := missing
  have some : ((s.others ((s.ctx cid).snap slot).mask).all fun k => ((s.ctx cid).snap slot).answers.getLsbD k
      && !((s.ctx cid).snap slot).refused.getLsbD k) = false :=
    List.all_eq_false.mpr ⟨k, hk, by rcases miss with h | h <;> simp [h]⟩
  refine ⟨_, s.posts_sends ((s.others ((s.ctx cid).snap slot).mask).filter fun k => !((s.ctx cid).snap slot).refused.getLsbD k)
    (.cancel cid slot), ?_⟩
  simp only [State.closeGroup, undecided, some, Bool.not_true, Bool.false_eq_true, if_false]

end

/-- A group is left as it is, or it is undecided and closed one way or the other. -/
theorem State.closeGroup_cases (s : State) (cid slot : Nat) :
    s.closeGroup cid slot = s
      ∨ s.undecided ((s.ctx cid).snap slot) = true
        ∧ ∃ t, s.Posts t ∧ (s.closeGroup cid slot = t.confirmSnap cid slot ∨ s.closeGroup cid slot = t.cancelSnap cid slot) := by
  cases undecided : s.undecided ((s.ctx cid).snap slot) with
  | false => exact .inl (State.closeGroup_of_decided undecided)
  | true =>
    refine .inr ⟨rfl, ?_⟩
    by_cases all : ∀ k ∈ s.others ((s.ctx cid).snap slot).mask, ((s.ctx cid).snap slot).answers.getLsbD k = true
      ∧ ((s.ctx cid).snap slot).refused.getLsbD k = false
    · obtain ⟨t, posts, eq⟩ := State.closeGroup_confirms undecided all
      exact ⟨t, posts, .inl eq⟩
    · push Not at all
      obtain ⟨k, hk, miss⟩ := all
      obtain ⟨t, posts, eq⟩ := State.closeGroup_cancels undecided
        ⟨k, hk, (Bool.eq_false_or_eq_true _).symm.imp_right fun yes => Bool.eq_true_of_not_eq_false (miss yes)⟩
      exact ⟨t, posts, .inr eq⟩

/-- Closing its group changes no more of a slot that is not live than what the group has come to, and a confirmed group stays so. -/
theorem State.snap_closeGroup_of_not_live {s : State} {cid slot : Nat} (lt : slot < 4) (dead : ((s.ctx cid).snap slot).st.isLive = false) :
    ∃ b c, ((s.closeGroup cid slot).ctx cid).snap slot = { (s.ctx cid).snap slot with confirmed := b, cancelled := c }
      ∧ (((s.ctx cid).snap slot).confirmed = true → b = true) := by
  have armed : ((s.ctx cid).snap slot).st ≠ .armed := by intro h; rw [h] at dead; cases dead
  have pending : ((s.ctx cid).snap slot).st ≠ .pending := by intro h; rw [h] at dead; cases dead
  obtain eq | ⟨undecided, t, posts, eq | eq⟩ := s.closeGroup_cases cid slot
  · exact ⟨((s.ctx cid).snap slot).confirmed, ((s.ctx cid).snap slot).cancelled, by rw [eq], id⟩
  · refine ⟨true, ((s.ctx cid).snap slot).cancelled, ?_, fun _ => rfl⟩
    rw [eq, State.snap_confirmSnap, posts.ctx, if_neg pending]
  · obtain ⟨-, -, -, -, unconfirmed, -⟩ := (s.undecided_iff _).mp undecided
    refine ⟨((s.ctx cid).snap slot).confirmed, true, ?_, id⟩
    rw [← posts.ctx] at unconfirmed armed pending
    rw [eq, State.cancelSnap_closed lt unconfirmed armed pending, posts.ctx]

theorem State.dev_confirmSnap (s : State) (cid slot : Nat) : (s.confirmSnap cid slot).dev = s.dev := rfl

theorem State.dev_reachAll (s : State) (cid : Nat) : (s.reachAll cid).dev = s.dev := (State.NoNewPoison.reachAll s cid).dev

theorem State.dev_cancelSnap (s : State) (cid slot : Nat) : (s.cancelSnap cid slot).dev = s.dev := by
  have reached := s.dev_reachAll cid
  simp only [State.cancelSnap]
  split
  · exact reached
  · split
    · rw [State.dev_endSnap, State.onCtx_dev, reached]
    · rw [State.onCtx_dev, reached]

theorem State.dev_closeGroup (s : State) (cid slot : Nat) : (s.closeGroup cid slot).dev = s.dev := by
  obtain eq | ⟨-, t, posts, eq | eq⟩ := s.closeGroup_cases cid slot
  · rw [eq]
  · rw [eq, State.dev_confirmSnap, posts.dev]
  · rw [eq, State.dev_cancelSnap, posts.dev]

/-! ### The messages and timers of a group -/

/-- An acceptance of ARM closes the slot's last group and arms the slot for the group of the chip that asks. -/
theorem snap_execArmMsg {src cid slot : Nat} {s : State} (T : Nat) (named : cid ≠ 0) (valid : s.ctxValid cid = true)
    (dead : ((s.ctx cid).snap slot).st.isLive = false) :
    ∃ t, exec (.armMsg src cid slot T) s = .next t ∧ ((t.ctx cid).snap slot).st = .armed ∧ ((t.ctx cid).snap slot).t = T
      ∧ ((t.ctx cid).snap slot).origin = src ∧ ((t.ctx cid).snap slot).confirmed = false
      ∧ ((t.ctx cid).snap slot).past = (s.closeGroup cid slot).pastGroups (((s.closeGroup cid slot).ctx cid).snap slot) := by
  refine ⟨_, show execArmMsg src cid slot T s = _ from if_neg (by simp [named, valid, dead]), ?_⟩
  rw [(State.Posts.send _ _ _ _).ctx, State.snap_onCtx_setSnap]
  exact ⟨rfl, rfl, rfl, rfl, rfl⟩

/-- What a slot keeps of its earlier groups, and of one that this chip confirmed, when ARM comes to it. -/
theorem State.pastGroups_closeGroup {s : State} {cid slot : Nat} (lt : slot < 4) (dead : ((s.ctx cid).snap slot).st.isLive = false) :
    (∃ l, (s.closeGroup cid slot).pastGroups (((s.closeGroup cid slot).ctx cid).snap slot) = ((s.ctx cid).snap slot).past ++ l)
      ∧ (((s.ctx cid).snap slot).origin = s.dev.chip → s.others ((s.ctx cid).snap slot).mask ≠ [] → ((s.ctx cid).snap slot).confirmed = true →
        (((s.ctx cid).snap slot).t, true) ∈ (s.closeGroup cid slot).pastGroups (((s.closeGroup cid slot).ctx cid).snap slot)) := by
  obtain ⟨b, c, eq, conf⟩ := State.snap_closeGroup_of_not_live lt dead
  rw [eq]
  refine ⟨⟨_, rfl⟩, fun own some confirmed => ?_⟩
  have others : (s.closeGroup cid slot).others ((s.ctx cid).snap slot).mask ≠ [] := by rwa [State.others, s.dev_closeGroup]
  refine List.mem_append_right _ ?_
  simp [s.dev_closeGroup, own, others, conf confirmed]

section
variable {s : State} {cid slot src : Nat}

theorem exec_armDeadline (decides : ((s.ctx cid).snap slot).t ≤ s.gtc + 1000) : exec (.armDeadline cid slot) s = .next (s.closeGroup cid slot) :=
  congrArg Host.Outcome.next (if_pos decides)

/-- CONFIRM and CANCEL of the chip that issued the slot's snapshot. -/
theorem exec_confirmMsg (used : ((s.ctx cid).snap slot).st ≠ .free) (own : ((s.ctx cid).snap slot).origin = src) :
    exec (.confirmMsg cid ⟨src, slot⟩) s = .next (s.confirmSnap cid slot)
      ∧ exec (.cancelMsg cid ⟨src, slot⟩) s = .next (s.cancelSnap cid slot) :=
  ⟨congrArg Host.Outcome.next (if_pos (by simp [used, own])), congrArg Host.Outcome.next (if_pos (by simp [used, own]))⟩

/-- CONFIRM and CANCEL of another chip. -/
theorem exec_confirmMsg_other (other : ((s.ctx cid).snap slot).origin ≠ src) :
    exec (.confirmMsg cid ⟨src, slot⟩) s = .next s ∧ exec (.cancelMsg cid ⟨src, slot⟩) s = .next s :=
  ⟨congrArg Host.Outcome.next (if_neg (by simp [other])), congrArg Host.Outcome.next (if_neg (by simp [other]))⟩

end

/-- Settles O45, in the order of a group: the instant, ARM and its answers, the decision, CONFIRM and CANCEL, and the questions. -/
theorem snapshotGroups : Obligations.SnapshotGroups := by
  unfold Obligations.SnapshotGroups
  intro src cid slot s lt
  dsimp only
  generalize hn : (s.ctx cid).snap slot = n
  refine ⟨fun armed fixed come => ⟨fun sound => ?instant, fun unconfirmed far fenced => ?stranded⟩, fun T refused => ?refused,
    fun T named valid dead => ?arm, fun chip undecided member => ⟨fun early => ?accepts, fun late => ?late, ?refuses⟩,
    fun undecided decides => ⟨fun all => ?confirms, fun missing => ⟨fun open_ => ?cancels, fun closed => ?notes⟩⟩,
    fun other => exec_confirmMsg_other (hn ▸ other),
    fun own armed => ?confirmArmed, fun own pending => ?confirmPending, fun own open_ unconfirmed => ?cancel, fun pending far late => ?asks,
    fun own used => ⟨fun confirmed => ?saysConfirmed, fun unconfirmed cancelled => ?saysCancelled⟩, fun T p new past => ?saysPast⟩
  case instant =>
    obtain ⟨g, eq⟩ := State.snap_reachAll_of_due (s := s) (cid := cid) lt (by simp [Ctx.due, hn, armed, fixed, come])
    refine ⟨_, show execSnapshotInstant cid slot s = _ from if_pos (by simp [hn, armed, fixed, come]), ?_⟩
    have fate : s.fate (n.reached g) = n.reached g := by
      rcases sound with confirmed | own | free
      · exact State.fate_of_st (by simp [Snap.reached, confirmed])
      · exact State.fate_of_own own
      · exact if_neg (by simp [State.strands, Snap.reached, free])
    rw [eq, hn, fate]
    rfl
  case stranded =>
    obtain ⟨g, eq⟩ := State.snap_reachAll_of_due (s := s) (cid := cid) lt (by simp [Ctx.due, hn, armed, fixed, come])
    refine ⟨_, show execSnapshotInstant cid slot s = _ from if_pos (by simp [hn, armed, fixed, come]), ?_⟩
    rw [eq, hn, State.fate, if_pos (by simp [State.strands, Snap.reached, unconfirmed, far, fenced])]
    exact ⟨rfl, rfl⟩
  case refused => exact show execArmMsg src cid slot T s = _ from if_pos (by simpa [hn, or_assoc] using refused)
  case arm =>
    subst hn
    obtain ⟨t, step, st, at_, origin, unconfirmed, past⟩ := snap_execArmMsg (src := src) T named valid dead
    obtain ⟨kept, closed⟩ := State.pastGroups_closeGroup lt dead
    exact ⟨t, step, st, at_, origin, unconfirmed, past ▸ kept, past ▸ closed⟩
  case accepts =>
    refine ⟨_, show execArmAnswerMsg chip cid slot true s = _ from if_pos (by simp [hn, undecided, member]), ?_⟩
    rw [State.snap_onCtx_setSnap, hn, if_pos rfl, if_pos early]
  case late =>
    refine ⟨_, show execArmAnswerMsg chip cid slot true s = _ from if_pos (by simp [hn, undecided, member]), ?_⟩
    rw [State.snap_onCtx_setSnap, hn, if_pos rfl, if_neg (by omega)]
  case refuses =>
    refine ⟨_, show execArmAnswerMsg chip cid slot false s = _ from if_pos (by simp [hn, undecided, member]), ?_⟩
    rw [State.snap_onCtx_setSnap, hn, if_neg Bool.false_ne_true]
  case confirms =>
    subst hn
    obtain ⟨t, posts, eq⟩ := State.closeGroup_confirms undecided all
    refine ⟨_, (exec_armDeadline decides).trans (congrArg _ eq), ?_⟩
    rw [State.snap_confirmSnap, posts.ctx]
    split <;> exact ⟨rfl, rfl⟩
  case cancels =>
    subst hn
    obtain ⟨-, -, -, -, unconfirmed, -⟩ := (s.undecided_iff _).mp undecided
    obtain ⟨t, posts, eq⟩ := State.closeGroup_cancels undecided missing
    rw [← posts.ctx] at unconfirmed open_
    exact ⟨_, (exec_armDeadline decides).trans (congrArg _ eq), State.cancelSnap_open lt unconfirmed open_⟩
  case notes =>
    subst hn
    obtain ⟨-, -, -, -, unconfirmed, -⟩ := (s.undecided_iff _).mp undecided
    obtain ⟨t, posts, eq⟩ := State.closeGroup_cancels undecided missing
    obtain ⟨armed, pending⟩ := not_or.mp closed
    rw [← posts.ctx] at unconfirmed armed pending
    refine ⟨_, (exec_armDeadline decides).trans (congrArg _ eq), ?_⟩
    rw [State.cancelSnap_closed lt unconfirmed armed pending, posts.ctx]
  case confirmArmed =>
    subst hn
    refine ⟨_, (exec_confirmMsg (by simp [armed]) own).1, ?_⟩
    rw [State.snap_confirmSnap, if_neg (by simp [armed])]
  case confirmPending =>
    subst hn
    refine ⟨_, (exec_confirmMsg (by simp [pending]) own).1, ?_⟩
    rw [State.snap_confirmSnap, if_pos pending]
    exact ⟨rfl, rfl, rfl⟩
  case cancel =>
    subst hn
    have used : ((s.ctx cid).snap slot).st ≠ .free := by rcases open_ with h | h <;> simp [h]
    obtain ⟨st, code, -⟩ := State.cancelSnap_open lt unconfirmed open_
    exact ⟨_, (exec_confirmMsg used own).2, st, code⟩
  case asks =>
    refine ⟨_, show execSnapshotQueryTimer cid slot s = _ from if_pos (by simpa [hn, pending, far] using late), ?_⟩
    rw [(State.Posts.send _ _ _ _).ctx, State.snap_onCtx_setSnap, hn]
  case saysConfirmed =>
    exact show execSnapshotQueryMsg src cid ⟨slot, n.t⟩ s = _ from by simp [execSnapshotQueryMsg, hn, own, used, confirmed]
  case saysCancelled =>
    exact show execSnapshotQueryMsg src cid ⟨slot, n.t⟩ s = _ from by simp [execSnapshotQueryMsg, hn, own, used, unconfirmed, cancelled]
  case saysPast => exact show execSnapshotQueryMsg src cid ⟨slot, T⟩ s = _ from by simp [execSnapshotQueryMsg, hn, new, past]

end Sys2Proof.Machine
end

section
/-! PROOFS. The decant engine (R125, R126, R128). -/

namespace Sys2Proof.Machine
open Sys2Proof

section
variable {s : State} {cid slot : Nat}

/-- Bytes that the target has taken move the slot on in its stream; the host's memory holds them if it is the target (R126). -/
theorem State.decantTo_spec {u : State} {bs : List Byte} (sent : s.decantTo cid slot bs = some u) :
    (u.ctx cid).snap slot
        = { (s.ctx cid).snap slot with pos := ((s.ctx cid).snap slot).pos + bs.length, lastProg := s.gtc }
      ∧ (tgtKind ((s.ctx cid).tgt ((s.ctx cid).snap slot).target) = 1 →
        u.hostMem = s.hostMem.write (tgtAddr ((s.ctx cid).tgt ((s.ctx cid).snap slot).target) + ((s.ctx cid).snap slot).pos) bs) := by
  simp only [State.decantTo] at sent
  split at sent
  · obtain rfl := Option.some.inj sent
    refine ⟨?_, fun _ => rfl⟩
    rw [State.snap_onCtx_setSnap]
    rfl
  · next two =>
    refine ⟨?_, fun one => absurd (two.symm.trans one) (by decide)⟩
    split at sent
    · cases sent
    · obtain rfl := Option.some.inj sent
      have asks (l : List (Nat × List Byte)) (peer t : Nat) :
          s.Asks (l.foldl (fun s c => s.request peer (.decant cid slot t) fun tag => .decant tag c.1 c.2) s) :=
        .foldl (fun s c => .request s _ _ _) s l
      rw [State.snap_onCtx_setSnap, (asks _ _ _).ctx, (asks _ _ _).gtc]
  · next other _ =>
    refine ⟨?_, fun one => absurd one other⟩
    split at sent
    · cases sent
    · obtain rfl := Option.some.inj sent
      rw [State.snap_onCtx_setSnap, State.ctx_onCtx]
      rfl

variable (serves : (s.ctx cid).decanting = some slot)
include serves

/-- Before the stream has begun a page that is accepted begins it. -/
theorem exec_decantPage_begins {u : State} (new : ((s.ctx cid).snap slot).header = false) (begun : s.decantBegin cid slot = some (some u)) :
    exec (.decantPage cid slot true) s = .next u := by
  change execDecantPage cid slot true s = _
  simp [execDecantPage, serves, new, begun]

/-- A page that is staged and sealed is not read. -/
theorem exec_decantPage_sealed {p a : Nat} (begun : ((s.ctx cid).snap slot).header = true) (next : s.nextDecant cid slot = some (p, a, false))
    (sealed_ : s.sealed p = true) : exec (.decantPage cid slot true) s = .next s := by
  change execDecantPage cid slot true s = _
  simp [execDecantPage, serves, begun, next, sealed_]

section
variable {p a : Nat} {frm : Bool} (begun : ((s.ctx cid).snap slot).header = true) (next : s.nextDecant cid slot = some (p, a, frm))
  (readable : frm = true ∨ s.sealed p = false)
include begun next readable

theorem exec_decantPage_refused : exec (.decantPage cid slot false) s = .next (s.endSnap cid slot .failed 0x34) := by
  have read : (!frm && s.sealed p) = false := by rcases readable with h | h <;> simp [h]
  change execDecantPage cid slot false s = _
  simp [execDecantPage, serves, begun, next, read]

/-- A page that the target takes counts as decanted. -/
theorem exec_decantPage_accepted {u : State} (sent : s.decantTo cid slot (s.decantRecord p a frm) = some u) :
    ∃ t, exec (.decantPage cid slot true) s = .next t ∧ t.hostMem = u.hostMem
      ∧ (t.ctx cid).snap slot = { (u.ctx cid).snap slot with
          decpg := ((u.ctx cid).snap slot).decpg + 1, decanted := ((u.ctx cid).snap slot).decanted ++ [p],
          crc := crcRun ((u.ctx cid).snap slot).crc ((s.decantRecord p a frm).take 64) } := by
  have read : (!frm && s.sealed p) = false := by rcases readable with h | h <;> simp [h]
  rw [show exec (.decantPage cid slot true) s = execDecantPage cid slot true s from rfl]
  simp only [execDecantPage, serves, begun, next, read, sent, bne_self_eq_false, Bool.not_true, Bool.false_eq_true, if_false]
  refine ⟨_, rfl, rfl, ?_⟩
  rw [State.ctx_onCtx]
  exact Ctx.snap_setSnap_self _ _ _

end

section
variable (begun : ((s.ctx cid).snap slot).header = true) (last : s.nextDecant cid slot = none)
include begun last

/-- After the last page the trailer goes out, and ends the snapshot unless its arrival at another chip is still to come. -/
theorem exec_decantDone_trailer {u : State} (more : ((s.ctx cid).snap slot).pos < ((s.ctx cid).snap slot).streamLen)
    (sent : s.decantTo cid slot ((s.ctx cid).snap slot).trailer = some u) :
    exec (.decantDone cid slot true) s
      = .next (if tgtKind ((s.ctx cid).tgt ((s.ctx cid).snap slot).target) = 2 then u else u.endSnap cid slot .done 0) := by
  change execDecantDone cid slot true s = _
  simp [execDecantDone, serves, begun, last, more, sent]

theorem exec_decantDone_visible (whole : ((s.ctx cid).snap slot).streamLen ≤ ((s.ctx cid).snap slot).pos)
    (answered : ∀ r ∈ s.reqs, r.owner ≠ .decant cid slot ((s.ctx cid).snap slot).t) :
    exec (.decantDone cid slot true) s = .next (s.endSnap cid slot .done 0) := by
  have none : (s.reqs.any fun r => r.owner == .decant cid slot ((s.ctx cid).snap slot).t) = false :=
    List.any_eq_false.mpr fun r hr => by simp [answered r hr]
  change execDecantDone cid slot true s = _
  simp [execDecantDone, serves, begun, last, Nat.not_lt.mpr whole, none]

end

theorem exec_decantTimeout (late : Nat.max (Nat.max ((s.ctx cid).snap slot).t ((s.ctx cid).snap slot).lastProg) (s.ctx cid).decFree + s.dectmo ≤ s.gtc) :
    exec (.decantTimeout cid slot) s = .next (s.endSnap cid slot .failed 0x34) := if_pos (by rw [serves]; simpa using late)

end

/-- Settles O46, step by step: the header, a page, the trailer and the time limit. -/
theorem decant : Obligations.Decant := by
  unfold Obligations.Decant
  intro cid slot s serves
  dsimp only
  refine ⟨fun u new begun => exec_decantPage_begins serves new begun, fun p a begun next shut => exec_decantPage_sealed serves begun next shut,
    fun p a frm u begun next readable sent => ⟨?page, ?refused⟩,
    fun begun last => ⟨fun u more sent => ⟨fun here => ?trailer, fun far => ?trailerSent⟩, fun whole answered => ?visible⟩, fun late => ?timeout⟩
  case page =>
    obtain ⟨t, step, host, snap⟩ := exec_decantPage_accepted serves begun next readable sent
    obtain ⟨moved, written⟩ := State.decantTo_spec sent
    refine ⟨t, step, ?_⟩
    rw [snap, moved, host]
    exact ⟨rfl, rfl, rfl, rfl, rfl, written⟩
  case refused => exact ⟨_, exec_decantPage_refused serves begun next readable, s.endSnap_ends cid slot _ _⟩
  case trailer => exact ⟨_, (exec_decantDone_trailer serves begun last more sent).trans (by rw [if_neg here]), u.endSnap_ends cid slot _ _⟩
  case trailerSent => exact (exec_decantDone_trailer serves begun last more sent).trans (by rw [if_pos far])
  case visible => exact ⟨_, exec_decantDone_visible serves begun last whole answered, s.endSnap_ends cid slot _ _⟩
  case timeout => exact ⟨_, exec_decantTimeout serves late, s.endSnap_ends cid slot _ _⟩

end Sys2Proof.Machine
end

section
/-! PROOFS. Transaction slots: the tags of their pages, their outcomes, aborts and votes, and what these leave of the cores (R116, R129-R135). -/

namespace Sys2Proof.Machine
open Sys2Proof

/-! ### Fields beside the one that is set -/

theorem bits_setBits_below {v hi lo hi' : Nat} (x lo' : Nat) (h : hi' < lo) : bits (setBits v hi lo x) hi' lo' = bits v hi' lo' := by
  refine Nat.eq_of_testBit_eq fun i => ?_
  simp only [bits, Nat.testBit_mod_two_pow, Nat.testBit_div_two_pow]
  by_cases field : i < hi' + 1 - lo'
  · exact congrArg _ (bit_setBits_below x (by omega))
  · simp [field]

theorem bits_setBits_above {v hi lo lo' : Nat} (x hi' : Nat) (h : hi < lo') (le : lo ≤ hi) : bits (setBits v hi lo x) hi' lo' = bits v hi' lo' := by
  have width : 2 ^ lo' = 2 ^ lo * (2 ^ (hi + 1 - lo) * 2 ^ (lo' - (hi + 1))) := by
    rw [← pow_add, ← pow_add, show lo + (hi + 1 - lo + (lo' - (hi + 1))) = lo' by omega]
  have whole := Nat.mod_add_div (v / 2 ^ lo) (2 ^ (hi + 1 - lo))
  have upper : (v / 2 ^ lo - v / 2 ^ lo % 2 ^ (hi + 1 - lo) + x % 2 ^ (hi + 1 - lo)) / 2 ^ (hi + 1 - lo) = v / 2 ^ lo / 2 ^ (hi + 1 - lo) := by
    rw [show v / 2 ^ lo - v / 2 ^ lo % 2 ^ (hi + 1 - lo) = 2 ^ (hi + 1 - lo) * (v / 2 ^ lo / 2 ^ (hi + 1 - lo)) by omega,
      Nat.mul_add_div (by positivity), Nat.div_eq_of_lt (Nat.mod_lt _ (by positivity)), Nat.add_zero]
  rw [bits, bits, setBits, bits, width, ← Nat.div_div_eq_div_mul, ← Nat.div_div_eq_div_mul, Nat.add_mul_div_right _ _ (by positivity),
    Nat.mul_comm _ (2 ^ lo), Nat.sub_mul_div, upper, Nat.div_div_eq_div_mul (v / 2 ^ lo), Nat.div_div_eq_div_mul v]

theorem State.tag_setTag (s : State) (p q t : Nat) : (s.setTag p t).tag q = if q = p then t else s.tag q := NMap.get_set _ _ _ _

/-! ### Tags rewritten page by page -/

/-- The state with the tags of some pages rewritten. -/
def State.retag (g : Nat → Nat) (s : State) (ps : List Nat) : State := ps.foldl (fun s p => s.setTag p (g (s.tag p))) s

theorem State.retag_eq (g : Nat → Nat) (s : State) (ps : List Nat) : s.retag g ps = { s with tags := (s.retag g ps).tags } := by
  induction ps generalizing s with
  | nil => rfl
  | cons p ps ih => exact ih (s.setTag p (g (s.tag p)))

theorem State.ctx_retag (g : Nat → Nat) (s : State) (ps : List Nat) (cid : Nat) : (s.retag g ps).ctx cid = s.ctx cid := by rw [s.retag_eq]; rfl

theorem SameBytes.retag (g : Nat → Nat) (s : State) (ps : List Nat) : SameBytes s (s.retag g ps) := by
  rw [s.retag_eq]
  exact .of_clusters rfl rfl fun _ => rfl

/-- What every rewritten tag has, the tags of the pages have afterwards. -/
theorem State.tag_retag {g : Nat → Nat} {P : Nat → Prop} (all : ∀ v, P (g v)) (s : State) (ps : List Nat) {q : Nat} (member : q ∈ ps) :
    P ((s.retag g ps).tag q) := by
  induction ps using List.reverseRecOn with
  | nil => cases member
  | append_singleton ps p ih =>
    have last : s.retag g (ps ++ [p]) = (s.retag g ps).setTag p (g ((s.retag g ps).tag p)) := by
      rw [State.retag, List.foldl_append]
      rfl
    rw [last, State.tag_setTag]
    split
    · exact all _
    · next other => exact ih ((List.mem_append.mp member).resolve_right fun h => other (List.mem_singleton.mp h))

/-! ### Operations that leave every core as it was -/

/-- `t` has the focus of `s` and its A-cores. -/
structure State.KeepsCores (s t : State) : Prop where
  focus : t.focus = s.focus
  core : ∀ n, (t.cl n).a = (s.cl n).a

namespace State.KeepsCores

theorem refl (s : State) : s.KeepsCores s := ⟨rfl, fun _ => rfl⟩

theorem trans {s t u : State} (h : s.KeepsCores t) (k : t.KeepsCores u) : s.KeepsCores u :=
  ⟨k.focus.trans h.focus, fun n => (k.core n).trans (h.core n)⟩

theorem foldl {α : Type} {f : State → α → State} (h : ∀ (s : State) (a : α), s.KeepsCores (f s a)) (s : State) (l : List α) :
    s.KeepsCores (l.foldl f s) :=
  List.foldlRecOn l f (refl s) fun t ht a _ => ht.trans (h t a)

theorem onCtx (s : State) (cid : Nat) (f : Ctx → Ctx) : s.KeepsCores (s.onCtx cid f) := ⟨rfl, fun _ => rfl⟩

theorem of_asks {s t : State} (h : s.Asks t) : s.KeepsCores t := ⟨h.focus, fun n => congrArg Cluster.a (h.cl n)⟩

theorem closeWord (s : State) (w : Option (Nat × Nat)) (code : Nat) : s.KeepsCores (s.closeWord w code) := by
  obtain ⟨cl, writes⟩ := s.writesSp_closeWord w code
  refine ⟨?_, writes.core⟩
  cases w with
  | none => rfl
  | some w =>
    simp only [State.closeWord, State.onWord, State.softWrite]
    split
    · rfl
    · split <;> rfl

theorem closePage (s : State) (p : Nat) : s.KeepsCores (s.closePage p) := by
  simp only [State.closePage]
  split <;> exact ⟨rfl, fun _ => rfl⟩

theorem retag (s : State) (g : Nat → Nat) (ps : List Nat) : s.KeepsCores (s.retag g ps) := by
  rw [s.retag_eq]
  exact ⟨rfl, fun _ => rfl⟩

variable {s t : State} (h : s.KeepsCores t)
include h

theorem a : t.a = s.a := by rw [State.a, State.cur, h.core, h.focus]; rfl
theorem g (r : BitVec 6) : t.g r = s.g r := by rw [State.g, h.a]; rfl

/-- A result written after such operations. -/
theorem result (d : BitVec 6) (v : W64) :
    (t.result d v).a.pc = s.a.pc + 8 ∧ ∀ r, (t.result d v).g r = if r = d ∧ d ≠ 0 then v else s.g r := by
  obtain ⟨regs, pc, -⟩ := t.result_spec d v
  exact ⟨by rw [pc, h.a], fun r => by rw [regs, h.g]⟩

end State.KeepsCores

theorem State.ctx_result (s : State) (d : BitVec 6) (v : W64) (cid : Nat) : (s.result d v).ctx cid = s.ctx cid := rfl

/-! ### Outcomes and aborts (R132-R135) -/

/-- The slot of a transaction whose outcome has been applied, and the cores. -/
theorem State.txOutcome_abort (s : State) (cid slot tc : Nat) {code : Nat} (abort : code ≠ 0) :
    s.KeepsCores (s.txOutcome cid slot tc code).1
      ∧ ((((s.txOutcome cid slot tc code).1.ctx cid).tx slot).st = .aborted ∧ (((s.txOutcome cid slot tc code).1.ctx cid).tx slot).code = code)
      ∧ (s.txOutcome cid slot tc code).2 = true := by
  simp only [State.txOutcome, if_neg abort]
  refine ⟨.trans (.trans (.foldl .closePage s _) (.onCtx _ _ _)) (.closeWord _ _ _), ?_, trivial⟩
  rw [State.ctx_closeWord, State.tx_onCtx_setTx]
  exact ⟨rfl, rfl⟩

/-- A commit that has been applied to every page. -/
theorem State.txOutcome_commit {s u : State} {cid slot tc : Nat} (done : s.txOutcome cid slot tc 0 = (u, true)) :
    ((u.ctx cid).tx slot).st = .committed ∧ ((u.ctx cid).tx slot).code = 0 ∧ ((u.ctx cid).tx slot).tc = tc := by
  simp only [State.txOutcome, if_true] at done
  split at done
  · obtain ⟨rfl, -⟩ := Prod.mk.inj done
    rw [State.ctx_closeWord, State.tx_onCtx_setTx]
    exact ⟨rfl, rfl, rfl⟩
  · next waits => exact absurd (congrArg Prod.snd done) waits

theorem State.asks_sendsTx (s : State) (cid slot : Nat) (ks : List Nat) (m : ReqId → Msg) :
    s.Asks (ks.foldl (fun s k => s.sendTx cid slot k m) s) := .foldl (fun s k => .sendTx s cid slot k m) s ks

/-- An abort that arises here is an outcome, and messages. -/
theorem State.asks_txAbort (s : State) (cid slot code : Nat) : (s.txOutcome cid slot 0 code).1.Asks (s.txAbort cid slot code) := by
  simp only [State.txAbort]
  split
  · exact State.asks_sendsTx _ _ _ _ _
  · exact .sendTx _ _ _ _ _

theorem State.txAbort_spec (s : State) (cid slot : Nat) {code : Nat} (abort : code ≠ 0) :
    s.KeepsCores (s.txAbort cid slot code)
      ∧ (((s.txAbort cid slot code).ctx cid).tx slot).st = .aborted ∧ (((s.txAbort cid slot code).ctx cid).tx slot).code = code := by
  obtain ⟨cores, ends, -⟩ := s.txOutcome_abort cid slot 0 abort
  have asks := s.asks_txAbort cid slot code
  rw [asks.ctx]
  exact ⟨cores.trans (.of_asks asks), ends⟩

/-! ### Votes (R133) -/

section
variable {s : State} {cid slot : Nat} {x : Tx} (slotOf : (s.ctx cid).tx slot = x) (waits : x.st = .open ∨ x.st = .voted)
  {chip txid : Nat} {mask : BitVec 64} {yes : Bool}
include slotOf waits

/-- The vote of a chip that the mask leaves out. -/
theorem State.vote_outside (outside : x.mask.getLsbD chip = false) :
    s.vote chip cid slot txid mask yes = (s.txAbort cid slot 0x3D).sendTx cid slot chip fun q => .outcome q cid slot 0 0x3D := by
  have open_ : (x.st == .open || x.st == .voted) = true := by rcases waits with h | h <;> simp [h]
  simp [State.vote, slotOf, open_, outside]

variable (member : x.mask.getLsbD chip = true)
include member

theorem State.vote_late (late : x.begun + s.votetmo ≤ s.gtc) : s.vote chip cid slot txid mask yes = s.txAbort cid slot 0x39 := by
  have open_ : (x.st == .open || x.st == .voted) = true := by rcases waits with h | h <;> simp [h]
  simp [State.vote, slotOf, open_, member, late]

variable (early : s.gtc < x.begun + s.votetmo)
include early

theorem State.vote_mismatch (differs : txid ≠ x.txid ∨ mask ≠ x.mask) : s.vote chip cid slot txid mask yes = s.txAbort cid slot 0x3D := by
  have open_ : (x.st == .open || x.st == .voted) = true := by rcases waits with h | h <;> simp [h]
  simp [State.vote, slotOf, open_, member, Nat.not_le.mpr early, differs]

theorem State.vote_no : s.vote chip cid slot x.txid x.mask false = s.txAbort cid slot 0x38 := by
  have open_ : (x.st == .open || x.st == .voted) = true := by rcases waits with h | h <;> simp [h]
  simp [State.vote, slotOf, open_, member, Nat.not_le.mpr early]

/-- The last vote that a slot which has itself voted waits for decides; any other is noted. -/
theorem State.vote_yes :
    (x.votes ||| chipBit chip = x.mask ∧ x.st = .voted →
        (s.onCtx cid fun c => c.setTx slot { x with
          votes := x.votes ||| chipBit chip, st := .decided, tc := s.gtc + s.txlead, acks := chipBit s.dev.chip }).Asks
            (s.vote chip cid slot x.txid x.mask true))
      ∧ (¬ (x.votes ||| chipBit chip = x.mask ∧ x.st = .voted) →
        s.vote chip cid slot x.txid x.mask true = s.onCtx cid fun c => c.setTx slot { x with votes := x.votes ||| chipBit chip }) := by
  have open_ : (x.st == .open || x.st == .voted) = true := by rcases waits with h | h <;> simp [h]
  simp only [State.vote, slotOf, open_, member, Nat.not_le.mpr early, bne_self_eq_false, Bool.not_true, Bool.or_self, Bool.false_eq_true,
    if_false, Bool.and_eq_true, decide_eq_true_eq, beq_iff_eq]
  refine ⟨fun last => ?_, fun more => ?_⟩
  · rw [if_pos last]
    exact State.asks_sendsTx _ _ _ _ _
  · rw [if_neg more]

end

end Sys2Proof.Machine
end

section
/-! PROOFS. TXBEGIN, TXCOMMIT, TXABORT and TXSTATE (R129, R130, R132, R135, R136, R313, R314). -/

namespace Sys2Proof.Machine
open Sys2Proof

/-! ### TXBEGIN (R130, R313) -/

/-- The tag of a page staged by a transaction slot. -/
def stagedTag (slot v : Nat) : Nat := setBits (setBits v 51 50 slot) 49 48 1

theorem stagedTag_spec {slot : Nat} (lt : slot < 4) (v : Nat) : tagMode (stagedTag slot v) = 1 ∧ tagTxs (stagedTag slot v) = slot := by
  refine ⟨bits_setBits (by decide), ?_⟩
  rw [tagTxs, stagedTag, bits_setBits_above _ _ (by decide) (by decide)]
  exact bits_setBits lt

/-- A free slot that opens on a chip of its mask: the slot is written and its pages are staged. -/
theorem State.openTx_free {s : State} {cid slot : Nat} {mask : BitVec 64} (free : (s.ctx cid).tx slot = Tx.free)
    (member : mask.getLsbD s.dev.chip = true) (txid : Nat) (wins : List (Nat × Nat)) (ps : List Nat) (word : Option (Nat × Nat)) (begun : Nat) :
    s.openTx cid slot txid mask wins ps word begun
      = (s.onCtx cid fun c => c.setTx slot { Tx.free with
          st := .open, txid := txid, mask := mask, windows := wins, word := word, cl := s.focus, begun := begun }).retag (stagedTag slot) ps := by
  have early : ((s.ctx cid).tx slot).early = [] := by rw [free]; rfl
  have dev (u : State) : (u.retag (stagedTag slot) ps).dev = u.dev := by rw [u.retag_eq]
  simp only [State.openTx, early, List.foldl_nil, ite_self]
  refine if_neg ?_
  change ¬ (!mask.getLsbD (State.retag (stagedTag slot) _ ps).dev.chip) = true
  rw [dev]
  simp [member]

section
variable {s : State} {f : AF} (ready : s.ready [f.d, f.sa, f.sb] = true) (word : s.txbeginErr f = none)
include ready word

theorem exec_txbegin_used (used : ((s.ctx (s.runCid s.focus)).tx (bits f.imm.toNat 1 0)).st ≠ .free) :
    exec (.txbegin f) s = .next (s.result f.d 0x3E) := by
  change execTxbegin f s = _
  simp only [execTxbegin, ready, word, bne_iff_ne, ne_eq, used, not_false_eq_true, Bool.not_true, Bool.false_eq_true, if_false, if_true]

variable (free : ((s.ctx (s.runCid s.focus)).tx (bits f.imm.toNat 1 0)).st = .free)
include free

theorem exec_txbegin_windowless (none : s.a.txWindows (bits f.imm.toNat 9 2) = none) : exec (.txbegin f) s = .next (s.result f.d 0x3C) := by
  change execTxbegin f s = _
  simp only [execTxbegin, ready, word, free, none, bne_self_eq_false, Bool.not_true, Bool.false_eq_true, if_false]

/-- TXBEGIN over windows whose pages all pass. -/
theorem exec_txbegin_passes {t : State} {ws : List (Nat × Nat)} {p : Nat} {ps : List Nat} (windows : s.a.txWindows (bits f.imm.toNat 9 2) = some ws)
    (pages : s.allPages (s.runCid s.focus) ws [] false = (.ok p, ps, false, t)) :
    ∃ begun, exec (.txbegin f) s = .next ((t.openTx (s.runCid s.focus) (bits f.imm.toNat 1 0) (bits f.imm.toNat 31 16) (t.g f.sb) ws ps
      (wordOf t.focus (s.g f.sa).toNat) begun).result f.d 0) := by
  rw [show exec (.txbegin f) s = execTxbegin f s from rfl]
  simp only [execTxbegin, ready, word, free, windows, pages, bne_self_eq_false, Bool.not_true, Bool.false_eq_true, if_false]
  exact ⟨_, rfl⟩

end

/-! ### TXCOMMIT (R132, R314) -/

theorem State.keepsCores_coordLost (s : State) (cid slot : Nat) :
    s.KeepsCores (s.coordLost cid slot) ∧ SameBytes s (s.coordLost cid slot) ∧ (s.coordLost cid slot).ctx cid = s.ctx cid := by
  simp only [State.coordLost]
  split
  · exact ⟨⟨rfl, fun _ => rfl⟩, .report _ _ _ _ _ _ _ _ _ _, rfl⟩
  · exact ⟨.refl s, .refl s, rfl⟩

section
variable {s : State} {f : AF} {x : Tx} (ready : s.ready [f.d] = true) (slotOf : (s.ctx (s.runCid s.focus)).tx (bits f.imm.toNat 1 0) = x)
include ready slotOf

theorem exec_txcommit_of_not_open (other : x.st ≠ .open) : exec (.txcommit f) s = .next (s.result f.d (BitVec.ofNat 64 x.st.code)) := by
  change execTxcommit f s = _
  simp [execTxcommit, ready, slotOf, other]

variable (open_ : x.st = .open)
include open_

theorem exec_txcommit_waits (pending : s.voteDrained x.windows = false) : exec (.txcommit f) s = .next (s.waitAt .txcommit f f.d) := by
  change execTxcommit f s = _
  simp [execTxcommit, ready, slotOf, open_, pending]

variable (drained : s.voteDrained x.windows = true)
include drained

/-- A participant votes by a message to the coordinator. -/
theorem exec_txcommit_votes (far : coordOf x.mask ≠ s.dev.chip) :
    ∃ t, exec (.txcommit f) s = .next (t.result f.d 9) ∧ s.KeepsCores t ∧ SameBytes s t
      ∧ ((t.ctx (s.runCid s.focus)).tx (bits f.imm.toNat 1 0)).st = .voted := by
  rw [show exec (.txcommit f) s = execTxcommit f s from rfl]
  simp only [execTxcommit, ready, slotOf, open_, drained, far, bne_self_eq_false, Bool.not_true, Bool.false_eq_true, if_false]
  have asks := State.Asks.sendTx (s.onCtx (s.runCid s.focus) fun c => c.setTx (bits f.imm.toNat 1 0) { x with st := .voted, lastAsk := s.gtc })
    (s.runCid s.focus) (bits f.imm.toNat 1 0) (coordOf x.mask) fun q => .vote q (s.runCid s.focus) (bits f.imm.toNat 1 0) x.txid x.mask true
  obtain ⟨cores, bytes, ctx⟩ := State.keepsCores_coordLost (State.sendTx (s.onCtx (s.runCid s.focus) fun c =>
    c.setTx (bits f.imm.toNat 1 0) { x with st := .voted, lastAsk := s.gtc })
    (s.runCid s.focus) (bits f.imm.toNat 1 0) (coordOf x.mask) fun q => .vote q (s.runCid s.focus) (bits f.imm.toNat 1 0) x.txid x.mask true)
    (s.runCid s.focus) (bits f.imm.toNat 1 0)
  refine ⟨_, rfl, .trans (.trans (.onCtx _ _ _) (.of_asks asks)) cores, .trans (.trans (.onCtx _ _ _) asks.sameBytes) bytes, ?_⟩
  rw [ctx, asks.ctx, State.tx_onCtx_setTx]

/-- The coordinator notes its own vote. -/
theorem exec_txcommit_coordinates (here : coordOf x.mask = s.dev.chip) :
    exec (.txcommit f) s = .next (((s.onCtx (s.runCid s.focus) fun c => c.setTx (bits f.imm.toNat 1 0) { x with st := .voted, lastAsk := s.gtc }).vote
      s.dev.chip (s.runCid s.focus) (bits f.imm.toNat 1 0) x.txid x.mask true).result f.d 9) := by
  change execTxcommit f s = _
  simp [execTxcommit, ready, slotOf, open_, drained, here]

end

/-! ### TXABORT and TXSTATE (R134-R136, R314) -/

/-- What frees a slot: the tags of its closed pages, and the slot. -/
theorem State.freeTx_spec (s : State) (cid slot : Nat) :
    s.KeepsCores (s.freeTx cid slot) ∧ SameBytes s (s.freeTx cid slot) ∧ (((s.freeTx cid slot).ctx cid).tx slot).st = .free := by
  obtain ⟨ps, eq⟩ : ∃ ps, s.freeTx cid slot = (s.retag (fun v => setBits (setBits v 49 48 0) 51 50 0) ps).onCtx cid fun c =>
      c.setTx slot { Tx.free with early := (c.tx slot).early } := by
    refine ⟨(s.tags.filter fun e => tagOwner e.2 == cid && tagMode e.2 == 3 && tagTxs e.2 == slot).map Prod.fst, ?_⟩
    rw [State.retag, List.foldl_map]
    rfl
  rw [eq]
  refine ⟨.trans (.retag s _ ps) (.onCtx _ _ _), .trans (.retag _ s ps) (.onCtx _ _ _), ?_⟩
  rw [State.tx_onCtx_setTx]
  rfl

section
variable {s : State} {f : AF} {x : Tx} (ready : s.ready [f.d] = true) (slotOf : (s.ctx (s.runCid s.focus)).tx (bits f.imm.toNat 1 0) = x)
include ready slotOf

theorem exec_txabort_open (open_ : x.st = .open) :
    exec (.txabort f) s = .next ((s.txAbort (s.runCid s.focus) (bits f.imm.toNat 1 0) 0x38).result f.d 9) := by
  change execTxabort f s = _
  simp only [execTxabort, ready, slotOf, open_]
  rfl

theorem exec_txabort_ended (ended : x.st = .committed ∨ x.st = .aborted) :
    exec (.txabort f) s
      = .next ((s.freeTx (s.runCid s.focus) (bits f.imm.toNat 1 0)).result f.d (BitVec.ofNat 64 (x.st.code + 8))) := by
  change execTxabort f s = _
  rcases ended with h | h <;> simp only [execTxabort, ready, slotOf, h] <;> rfl

theorem exec_txabort_other (ended : ¬ (x.st = .committed ∨ x.st = .aborted)) (open_ : x.st ≠ .open) :
    exec (.txabort f) s = .next (s.result f.d (BitVec.ofNat 64 x.st.code)) := by
  change execTxabort f s = _
  obtain ⟨committed, aborted⟩ := not_or.mp ended
  simp [execTxabort, ready, slotOf, open_, committed, aborted, flag]

theorem exec_txstate :
    exec (.txstate f) s = .next (s.result f.d (BitVec.ofNat 64
      (x.st.code + (if x.st ≠ .free ∧ coordOf x.mask = s.dev.chip then 8 else 0) + x.code % 64 * 2 ^ 4 + x.txid % 2 ^ 16 * 2 ^ 16
        + Nat.min 65535 x.drops * 2 ^ 32))) := by
  refine (if_pos ready : execTxstate f s = _).trans ?_
  simp [State.txWord, slotOf, flag]

end

/-! ### The obligation -/

/-- Settles O21, instruction by instruction. -/
theorem transactionInstructions : Obligations.TransactionInstructions := by
  unfold Obligations.TransactionInstructions
  intro f s
  dsimp only
  simp only [show f.imm.toNat % 4 = bits f.imm.toNat 1 0 from (bits_low _ 1).symm, show f.imm.toNat / 4 % 256 = bits f.imm.toNat 9 2 from rfl,
    show f.imm.toNat / 2 ^ 16 % 2 ^ 16 = bits f.imm.toNat 31 16 from rfl]
  generalize hx : (s.ctx (s.runCid s.focus)).tx (bits f.imm.toNat 1 0) = x
  refine ⟨fun ready word => ⟨fun used => exec_txbegin_used ready word (hx ▸ used), fun free none => exec_txbegin_windowless ready word (hx ▸ free) none,
      fun ws p ps t free windows pages freeT member => ?opens⟩,
    fun ready => ⟨exec_txcommit_of_not_open ready hx, fun open_ pending => ?waits, fun open_ drained far => ?votes,
      fun open_ drained here member early last => ?decides, fun open_ => ?aborts, fun ended => ?frees, exec_txabort_other ready hx,
      exec_txstate ready hx⟩⟩
  case opens =>
    obtain ⟨begun, step⟩ := exec_txbegin_passes ready word (hx ▸ free) windows pages
    rw [State.openTx_free freeT member] at step
    have cores (u : State) (cid : Nat) (h : Ctx → Ctx) (g : Nat → Nat) : u.KeepsCores ((u.onCtx cid h).retag g ps) := .trans (.onCtx _ _ _) (.retag _ _ _)
    have bytes (u : State) (cid : Nat) (h : Ctx → Ctx) (g : Nat → Nat) : SameBytes u ((u.onCtx cid h).retag g ps) := .trans (.onCtx _ _ _) (.retag _ _ _)
    obtain ⟨pc, regs⟩ := (cores t _ _ _).result f.d 0
    refine ⟨_, step, fun some => (regs f.d).trans (if_pos ⟨rfl, some⟩), pc, .trans (bytes _ _ _ _) (.result _ _ _), ?_, fun q member => ?_⟩
    · rw [State.ctx_result, State.ctx_retag, State.tx_onCtx_setTx]
      exact ⟨rfl, rfl, rfl, rfl, rfl, rfl⟩
    · have lt : bits f.imm.toNat 1 0 < 4 := Nat.mod_lt _ (by decide)
      exact State.tag_retag (P := fun v => tagMode v = 1 ∧ tagTxs v = bits f.imm.toNat 1 0) (stagedTag_spec lt) _ ps member
  case waits => exact exec_txcommit_waits ready hx open_ pending ▸ s.waitsHere_waitAt .txcommit f f.d
  case votes =>
    obtain ⟨t, step, cores, bytes, voted⟩ := exec_txcommit_votes ready hx open_ drained far
    obtain ⟨pc, regs⟩ := cores.result f.d 9
    exact ⟨_, step, voted, pc, regs, .trans bytes (.result t f.d 9)⟩
  case decides =>
    have asks := (State.vote_yes (State.tx_onCtx_setTx s (s.runCid s.focus) (bits f.imm.toNat 1 0) fun _ => { x with st := .voted, lastAsk := s.gtc })
      (.inr rfl) member early).1 ⟨last, rfl⟩
    obtain ⟨pc, regs⟩ := (State.KeepsCores.trans (.trans (.onCtx s _ _) (.onCtx _ _ _)) (.of_asks asks)).result f.d 9
    refine ⟨_, exec_txcommit_coordinates ready hx open_ drained here, ?_, ?_, pc, regs⟩
    · rw [State.ctx_result, asks.ctx, State.tx_onCtx_setTx]
    · rw [State.ctx_result, asks.ctx, State.tx_onCtx_setTx]
      rfl
  case aborts =>
    obtain ⟨cores, st, code⟩ := s.txAbort_spec (s.runCid s.focus) (bits f.imm.toNat 1 0) (code := 0x38) (by decide)
    obtain ⟨pc, regs⟩ := cores.result f.d 9
    exact ⟨_, exec_txabort_open ready hx open_, st, code, pc, regs⟩
  case frees =>
    obtain ⟨cores, bytes, free⟩ := s.freeTx_spec (s.runCid s.focus) (bits f.imm.toNat 1 0)
    obtain ⟨pc, regs⟩ := cores.result f.d (BitVec.ofNat 64 (x.st.code + 8))
    exact ⟨_, exec_txabort_ended ready hx ended, free, pc, regs, .trans bytes (.result _ _ _)⟩

end Sys2Proof.Machine
end

section
/-! PROOFS. Messages and timers of transactions: votes, decisions, outcomes, questions, and the fold of a committed page (R129, R132-R135,
R138, R467). -/

namespace Sys2Proof.Machine
open Sys2Proof

/-! ### Messages of a transaction slot (R133, R467) -/

theorem State.ctx_respond (s : State) (src : TagSource) (tag : Nat) (st : RespStatus) (data : List Byte) (cid : Nat) :
    (s.respond src tag st data).ctx cid = s.ctx cid := by
  rw [State.respond, (State.Posts.send _ _ _ _).ctx]
  split <;> rfl

/-- The messages by which transactions come to this chip, with slot and tag. -/
def txRows (src cid slot tag : Nat) (i : Instr) : Prop :=
  (∃ txid mask yes, i = .voteMsg src cid ⟨slot, tag⟩ txid mask yes) ∨ (∃ tc, i = .decideMsg cid ⟨src, slot, tag⟩ tc)
    ∨ i = .txAckMsg src cid ⟨slot, tag⟩ ∨ ∃ tc code, i = .outcomeMsg cid ⟨src, slot, tag⟩ tc code

/-- Each of them is a request of Samovar at its sender. -/
theorem exec_txRow {src cid slot tag : Nat} {i : Instr} (row : txRows src cid slot tag i) (s : State) :
    ∃ run, exec i s = s.peerRequest ⟨src, .samovar⟩ tag run := by
  obtain ⟨txid, mask, yes, rfl⟩ | ⟨tc, rfl⟩ | rfl | ⟨tc, code, rfl⟩ := row
  · rw [show exec (.voteMsg src cid ⟨slot, tag⟩ txid mask yes) s = execVoteMsg src cid ⟨slot, tag⟩ txid mask yes s from rfl, execVoteMsg, State.txArrival]
    exact ⟨_, rfl⟩
  · rw [show exec (.decideMsg cid ⟨src, slot, tag⟩ tc) s = execDecideMsg cid ⟨src, slot, tag⟩ tc s from rfl, execDecideMsg, State.txArrival]
    exact ⟨_, rfl⟩
  · rw [show exec (.txAckMsg src cid ⟨slot, tag⟩) s = execTxAckMsg src cid ⟨slot, tag⟩ s from rfl, execTxAckMsg, State.txArrival]
    exact ⟨_, rfl⟩
  · rw [show exec (.outcomeMsg cid ⟨src, slot, tag⟩ tc code) s = execOutcomeMsg cid ⟨src, slot, tag⟩ tc code s from rfl]
    exact ⟨_, rfl⟩

section
variable {s : State} {src cid slot tag : Nat} (free : s.fencedChip src = false) (other : src ≠ s.dev.chip) (lt : src < 64)
include free other lt

/-- A message that has come before is answered as it was then. -/
theorem exec_txRow_again {i : Instr} {r : Remembered} (row : txRows src cid slot tag i)
    (old : s.remembered.find? (fun r => r.src == (⟨src, .samovar⟩ : TagSource) && r.tag == tag) = some r) :
    exec i s = .next (s.send src (.response ⟨.samovar, tag⟩ r.st r.data)) := by
  obtain ⟨run, step⟩ := exec_txRow row s
  exact step.trans ((State.peerRequest_served (src := ⟨src, .samovar⟩) free other lt).1 r old)

variable (new : s.remembered.find? (fun r => r.src == (⟨src, .samovar⟩ : TagSource) && r.tag == tag) = none)
include new

/-- A message that has not come before runs, and its sender hears that it has come. -/
theorem State.txArrival_new (run : State → State) :
    s.txArrival src tag run = .next ((run s).respond ⟨src, .samovar⟩ tag .done []) :=
  ((State.peerRequest_served (src := ⟨src, .samovar⟩) free other lt).2 new).1 (run s) [] rfl

variable {x : Tx} (slotOf : (s.ctx cid).tx slot = x)
include slotOf

/-- A vote that comes to a slot whose transaction has yet to begin is kept for it. -/
theorem exec_voteMsg_early {txid : Nat} {mask : BitVec 64} {yes : Bool}
    (early : x.st = .free ∨ ((x.st = .committed ∨ x.st = .aborted) ∧ txid ≠ x.txid)) :
    exec (.voteMsg src cid ⟨slot, tag⟩ txid mask yes) s
      = .next ((s.onCtx cid fun c => c.setTx slot { x with early := x.early ++ [(src, txid, mask, yes)] }).respond ⟨src, .samovar⟩ tag .done []) := by
  have shut : (x.st == .open || x.st == .voted) = false := by rcases early with st | ⟨st | st, -⟩ <;> simp [st]
  have kept : (x.st == .free || ((x.st == .committed || x.st == .aborted) && txid != x.txid)) = true := by
    rcases early with st | ⟨st | st, ne⟩
    · simp [st]
    · simp [st, ne]
    · simp [st, ne]
  rw [show exec (.voteMsg src cid ⟨slot, tag⟩ txid mask yes) s = execVoteMsg src cid ⟨slot, tag⟩ txid mask yes s from rfl, execVoteMsg,
    State.txArrival_new free other lt new]
  simp only [slotOf, shut, kept, Bool.false_eq_true, if_false, if_true]

theorem exec_voteMsg {txid : Nat} {mask : BitVec 64} {yes : Bool} (waits : x.st = .open ∨ x.st = .voted) :
    exec (.voteMsg src cid ⟨slot, tag⟩ txid mask yes) s
      = .next ((s.vote src cid slot txid mask yes).respond ⟨src, .samovar⟩ tag .done []) := by
  have open_ : (x.st == .open || x.st == .voted) = true := by rcases waits with st | st <;> simp [st]
  rw [show exec (.voteMsg src cid ⟨slot, tag⟩ txid mask yes) s = execVoteMsg src cid ⟨slot, tag⟩ txid mask yes s from rfl, execVoteMsg,
    State.txArrival_new free other lt new]
  simp only [slotOf, open_, if_true]

theorem exec_decideMsg (voted : x.st = .voted) (tc : Nat) :
    ∃ t, exec (.decideMsg cid ⟨src, slot, tag⟩ tc) s = .next t ∧ (t.ctx cid).tx slot = { x with st := .decided, tc := tc } := by
  rw [show exec (.decideMsg cid ⟨src, slot, tag⟩ tc) s = execDecideMsg cid ⟨src, slot, tag⟩ tc s from rfl, execDecideMsg,
    State.txArrival_new free other lt new]
  refine ⟨_, rfl, ?_⟩
  simp only [State.ctx_respond, slotOf, voted, bne_self_eq_false, Bool.false_eq_true, if_false]
  split
  · rw [(State.Asks.sendTx _ _ _ _ _).ctx, State.tx_onCtx_setTx]
  · rw [State.tx_onCtx_setTx]

theorem exec_txAckMsg (decided : x.st = .decided) (here : coordOf x.mask = s.dev.chip) (early : s.gtc < x.tc) :
    ∃ t, exec (.txAckMsg src cid ⟨slot, tag⟩) s = .next t ∧ (t.ctx cid).tx slot = { x with acks := x.acks ||| chipBit src } := by
  rw [show exec (.txAckMsg src cid ⟨slot, tag⟩) s = execTxAckMsg src cid ⟨slot, tag⟩ s from rfl, execTxAckMsg,
    State.txArrival_new free other lt new]
  refine ⟨_, rfl, ?_⟩
  simp only [State.ctx_respond, slotOf, decided, here, early, beq_self_eq_true, decide_true, Bool.and_self, if_true]
  rw [State.tx_onCtx_setTx]

/-- The outcome is answered once it has been applied. -/
theorem exec_outcomeMsg {u : State} {tc code : Nat} (waits : x.st = .open ∨ x.st = .voted ∨ x.st = .decided)
    (done : s.txOutcome cid slot tc code = (u, true)) :
    exec (.outcomeMsg cid ⟨src, slot, tag⟩ tc code) s = .next (u.respond ⟨src, .samovar⟩ tag .done []) := by
  have open_ : (x.st == .open || x.st == .voted || x.st == .decided) = true := by
    rcases waits with h | h | h <;> simp [h]
  rw [show exec (.outcomeMsg cid ⟨src, slot, tag⟩ tc code) s = execOutcomeMsg cid ⟨src, slot, tag⟩ tc code s from rfl, execOutcomeMsg]
  refine ((State.peerRequest_served (src := ⟨src, .samovar⟩) free other lt).2 new).1 u [] ?_
  simp only [slotOf, open_, done, if_true]

end

/-! ### Timers and decisions of a coordinator and a participant (R133, R134) -/

section
variable {s : State} {cid slot : Nat} {x : Tx} (slotOf : (s.ctx cid).tx slot = x)
include slotOf

theorem exec_voteTimeout {lost : Bool} (waits : x.st = .open ∨ x.st = .voted) (here : coordOf x.mask = s.dev.chip) (more : x.votes ≠ x.mask)
    (ends : lost = true ∨ x.begun + s.votetmo ≤ s.gtc) :
    exec (.voteTimeout cid ⟨slot, lost⟩) s = .next (s.txAbort cid slot (if lost then 0x3A else 0x39)) := by
  have open_ : (x.st == .open || x.st == .voted) = true := by rcases waits with h | h <;> simp [h]
  rw [show exec (.voteTimeout cid ⟨slot, lost⟩) s = execVoteTimeout cid ⟨slot, lost⟩ s from rfl]
  simp [execVoteTimeout, slotOf, open_, here, more, ends]

section
variable (decided : x.st = .decided) (here : coordOf x.mask = s.dev.chip) (come : x.tc ≤ s.gtc)
include decided here come

/-- At Tc with every ACK the coordinator commits, and tells the others. -/
theorem exec_txDecision_commits {u : State} (all : x.acks &&& x.mask = x.mask) (done : s.txOutcome cid slot x.tc 0 = (u, true)) :
    ∃ t, exec (.txDecision cid slot) s = .next t ∧ u.Asks t := by
  rw [show exec (.txDecision cid slot) s = execTxDecision cid slot s from rfl]
  simp only [execTxDecision, slotOf, decided, here, come, all, done, beq_self_eq_true, decide_true, Bool.and_self, if_true]
  exact ⟨_, rfl, State.asks_sendsTx _ _ _ _ _⟩

/-- At Tc without some ACK it aborts, and tells the others. -/
theorem exec_txDecision_aborts (some : x.acks &&& x.mask ≠ x.mask) :
    ∃ t, exec (.txDecision cid slot) s = .next t ∧ (s.txOutcome cid slot x.tc 0x3A).1.Asks t := by
  have done := (s.txOutcome_abort cid slot x.tc (code := 0x3A) (by decide)).2.2
  obtain ⟨u, eq⟩ : ∃ u, s.txOutcome cid slot x.tc 0x3A = (u, true) := ⟨_, Prod.ext rfl done⟩
  rw [show exec (.txDecision cid slot) s = execTxDecision cid slot s from rfl, eq]
  simp only [execTxDecision, slotOf, decided, here, come, some, eq, beq_self_eq_true, decide_true, Bool.and_self, if_true, if_false]
  exact ⟨_, rfl, State.asks_sendsTx _ _ _ _ _⟩

end

theorem exec_outcomeQueryTimer (sealed_ : x.st = .voted ∨ x.st = .decided) (far : coordOf x.mask ≠ s.dev.chip) (late : x.lastAsk + 100000 ≤ s.gtc) :
    ∃ t, exec (.outcomeQueryTimer cid slot) s = .next t ∧ (t.ctx cid).tx slot = { x with lastAsk := s.gtc } := by
  have open_ : (x.st == .voted || x.st == .decided) = true := by rcases sealed_ with h | h <;> simp [h]
  rw [show exec (.outcomeQueryTimer cid slot) s = execOutcomeQueryTimer cid slot s from rfl]
  simp only [execOutcomeQueryTimer, slotOf, open_, bne_iff_ne.mpr far, late, decide_true, Bool.and_self, if_true]
  refine ⟨_, rfl, ?_⟩
  rw [(State.Posts.send _ _ _ _).ctx, State.tx_onCtx_setTx]

theorem exec_outcomeQueryMsg (src : Nat) (ended : x.st = .committed ∨ x.st = .aborted) :
    exec (.outcomeQueryMsg src cid slot) s = .next (s.sendTx cid slot src fun q =>
      if x.mask.getLsbD src then .outcome q cid slot x.tc x.code else .outcome q cid slot 0 0x3D) := by
  have ended_ : (x.st == .committed || x.st == .aborted) = true := by rcases ended with h | h <;> simp [h]
  rw [show exec (.outcomeQueryMsg src cid slot) s = execOutcomeQueryMsg src cid slot s from rfl]
  simp only [execOutcomeQueryMsg, slotOf, ended_, if_true]

end

/-! ### A frame folded into its page (R135) -/

/-- A page moved to another place holds there what it held, and every byte outside that place is as it was. -/
theorem State.byte_movePage {s : State} (wf : s.hbm.wf = true) (src dst : Nat) :
    (∀ b < 65536, (s.movePage src dst).hbm.byte (dst + b) = s.hbm.byte (src + b))
      ∧ ∀ b, b < dst ∨ dst + 65536 ≤ b → (s.movePage src dst).hbm.byte b = s.hbm.byte b := by
  have place : (s.movePage src dst).hbm
      = (NMap.slice s.hbm src (src + 65536)).foldl (fun m e => NMap.set 0 m (e.1 - src + dst) e.2) (NMap.clear s.hbm dst (dst + 65536)) :=
    List.foldl_map
  rw [place]
  refine ⟨fun b low => ?_, fun b outside => ?_⟩
  · refine (NMap.get_foldl_set_moved (wfFrom_slice wf _ _) le_rfl _ b (NMap.get_filter_of_out _ fun v => ?_)).trans
      (NMap.get_filter_of_in wf fun v => ?_)
    · simp only [Nat.le_add_right, decide_true, Bool.true_and, Bool.not_eq_false', decide_eq_true_eq]; omega
    · simp only [Nat.le_add_right, decide_true, Bool.true_and, decide_eq_true_eq]; omega
  · have missed : ∀ e ∈ NMap.slice s.hbm src (src + 65536), e.1 - src + dst ≠ b := by
      intro e member
      have inside := (List.mem_filter.mp member).2
      simp only [Bool.and_eq_true, decide_eq_true_eq] at inside
      omega
    refine (NMap.get_foldl_set_key (v := 0) (fun e : Nat × Byte => e.1 - src + dst) Prod.snd (fun e member at_ => absurd at_ (missed e member)) _).trans ?_
    rw [if_neg fun ⟨e, member, at_⟩ => missed e member at_]
    refine NMap.get_filter_of_in wf fun v => ?_
    simp only [Bool.not_eq_true', Bool.and_eq_false_iff, decide_eq_false_iff_not]
    omega

theorem State.ctx_setTag (s : State) (page tag cid : Nat) : (s.setTag page tag).ctx cid = s.ctx cid := rfl

/-- The tag of a page that a fold has made plain keeps its owner. -/
theorem tag_folded (g : Nat) :
    tagMode (setBits (setBits (setBits g 87 64 0) 51 50 0) 49 48 0) = 0
      ∧ tagOwner (setBits (setBits (setBits g 87 64 0) 51 50 0) 49 48 0) = tagOwner g := by
  refine ⟨bits_setBits (by decide), ?_⟩
  rw [tagOwner, bits_setBits_below _ _ (by decide), bits_setBits_below _ _ (by decide), bits_setBits_below _ _ (by decide)]
  rfl

theorem exec_txFold {s : State} {page : Nat} (redirected : tagMode (s.tag page) = 2) (serves : s.pageSt page = .inService)
    (works : s.chanFailed = []) :
    exec (.txFold page) s = .next (((s.movePage (s.homeOf page) (page * 65536)).onCtx (tagOwner (s.tag page)) fun c =>
      c.setFrame (tagFrm (s.tag page)) none).setTag page (setBits (setBits (setBits (s.tag page) 87 64 0) 51 50 0) 49 48 0)) := by
  rw [show exec (.txFold page) s = execTxFold page s from rfl]
  simp only [execTxFold, redirected, serves, State.copyPage, works, List.isEmpty_nil, bne_self_eq_false, Bool.or_self, Bool.false_eq_true,
    if_false, if_true]

/-- Settles O47, along the messages and timers of a transaction: each arrival through `State.txArrival_new` or `exec_txRow_again`, the ends
of a slot through what an outcome and an abort leave of it, and the fold through the move of its page. -/
theorem transactionMessages : Obligations.TransactionMessages := by
  unfold Obligations.TransactionMessages
  refine ⟨fun src cid slot s => ?_, fun page s redirected serves wf works => ?_⟩
  · intro x gives from_ seen peer
    have slotOf : (s.ctx cid).tx slot = x := rfl
    refine ⟨?votes, ?again, ?abort, ?timeout, ?decide, ?decided, ?outcome, ?asks, ?answers⟩
    case votes =>
      rintro tag txid mask yes ⟨free, other, lt⟩ new m heard
      have runs := exec_voteMsg free other lt new slotOf (txid := txid) (mask := mask) (yes := yes)
      refine ⟨fun early => ⟨_, exec_voteMsg_early free other lt new slotOf early, ?_⟩, fun waits outside => ?_, fun waits member late => ?_,
        fun waits member early => ⟨fun differs => ?_, ?_, ?_⟩⟩
      · rw [State.ctx_respond, State.tx_onCtx_setTx]
      · rw [← State.vote_outside slotOf waits outside]
        exact runs waits
      · rw [← State.vote_late slotOf waits member late]
        exact runs waits
      · rw [← State.vote_mismatch slotOf waits member early differs]
        exact runs waits
      · rintro rfl rfl rfl
        rw [← State.vote_no slotOf waits member early]
        exact runs waits
      · rintro rfl rfl rfl
        obtain ⟨last, more⟩ := State.vote_yes slotOf waits member early
        refine ⟨_, runs waits, ?_⟩
        rw [State.ctx_respond]
        by_cases full : x.votes ||| chipBit src = x.mask ∧ x.st = .voted
        · rw [(last full).ctx, State.tx_onCtx_setTx]
          refine ⟨rfl, fun _ _ => ⟨rfl, rfl⟩, fun h => ?_⟩
          rcases h with h | h
          · exact absurd full.1 h
          · exact absurd (full.2.symm.trans h) (by decide)
        · rw [more full, State.tx_onCtx_setTx]
          exact ⟨rfl, fun all voted => absurd ⟨all, voted⟩ full, fun _ => rfl⟩
    case again =>
      rintro tag r ⟨free, other, lt⟩ old txid mask yes tc i member
      refine exec_txRow_again (cid := cid) (slot := slot) free other lt ?_ old
      simp only [List.mem_cons, List.not_mem_nil, or_false] at member
      rcases member with h | h | h | h
      · exact .inl ⟨_, _, _, h⟩
      · exact .inr (.inl ⟨_, h⟩)
      · exact .inr (.inr (.inl h))
      · exact .inr (.inr (.inr ⟨_, _, h⟩))
    case abort => exact fun code ne => ⟨_, rfl, (s.txAbort_spec cid slot ne).2⟩
    case timeout =>
      exact fun waits here more =>
        ⟨fun late => ⟨_, exec_voteTimeout slotOf waits here more (.inr late), (s.txAbort_spec cid slot (code := 0x39) (by decide)).2⟩,
          _, exec_voteTimeout slotOf waits here more (.inl rfl), (s.txAbort_spec cid slot (code := 0x3A) (by decide)).2⟩
    case decide => exact fun tc tag ⟨free, other, lt⟩ new voted => exec_decideMsg free other lt new slotOf voted tc
    case decided =>
      refine fun decided here => ⟨fun tag ⟨free, other, lt⟩ new early => exec_txAckMsg free other lt new slotOf decided here early,
        fun u come all done => ?_, fun come some => ?_⟩
      · obtain ⟨t, step, asks⟩ := exec_txDecision_commits slotOf decided here come all done
        refine ⟨t, step, ?_⟩
        rw [asks.ctx]
        exact State.txOutcome_commit done
      · obtain ⟨t, step, asks⟩ := exec_txDecision_aborts slotOf decided here come some
        refine ⟨t, step, ?_⟩
        rw [asks.ctx]
        exact (s.txOutcome_abort cid slot x.tc (by decide)).2.1
    case outcome =>
      refine fun tc code tag ⟨free, other, lt⟩ new waits => ⟨fun ne => ?_, fun u done => ?_⟩
      · obtain ⟨-, aborted, done⟩ := s.txOutcome_abort cid slot tc ne
        refine ⟨_, exec_outcomeMsg free other lt new slotOf waits (Prod.ext rfl done), ?_⟩
        rw [State.ctx_respond]
        exact aborted
      · obtain ⟨committed, -, at_⟩ := State.txOutcome_commit done
        refine ⟨_, exec_outcomeMsg free other lt new slotOf waits done, ?_⟩
        rw [State.ctx_respond]
        exact ⟨committed, at_⟩
    case asks => exact fun sealed_ far late => exec_outcomeQueryTimer slotOf sealed_ far late
    case answers => exact exec_outcomeQueryMsg slotOf src
  · obtain ⟨plain, owner⟩ := tag_folded (s.tag page)
    obtain ⟨inside, outside⟩ := State.byte_movePage wf (s.homeOf page) (page * 65536)
    refine ⟨_, exec_txFold redirected serves works, ?_, ?_, ?_, inside, outside⟩
    · rw [State.tag_setTag, if_pos rfl]
      exact plain
    · rw [State.tag_setTag, if_pos rfl]
      exact owner
    · rw [State.ctx_setTag, State.ctx_onCtx]
      exact NMap.get_set_self _ _ _

end Sys2Proof.Machine
end

section
/-! PROOFS. The arithmetic of completion words, BWSET, BWARRIVE and WAITGEN, and the semaphores (R160, R161, R307-R309). -/

namespace Sys2Proof.Machine
open Sys2Proof

/-! ### The fields of a completion word (R158, R160) -/

/-- A word read back field by field: GEN, ERR, TARGET and ARRIVED. -/
theorem wordFields {g e t a : Nat} (hg : g < 2 ^ 16) (he : e < 2 ^ 6) (ht : t < 2 ^ 21) (ha : a < 2 ^ 21) :
    let w := g * 2 ^ 48 + e * 2 ^ 42 + t * 2 ^ 21 + a
    bits w 63 48 = g ∧ bits w 47 42 = e ∧ bits w 41 21 = t ∧ bits w 20 0 = a := by
  intro w
  simp only [w, bits]
  refine ⟨?_, ?_, ?_, ?_⟩ <;> omega

/-- The error code of a word after an arrival: the first one stays. -/
def firstErr (w err : Nat) : Nat := if bits w 47 42 = 0 then err % 64 else bits w 47 42

theorem firstErr_lt (w err : Nat) : firstErr w err < 2 ^ 6 := by
  rw [firstErr]
  split
  · exact Nat.mod_lt _ (by decide)
  · exact Nat.mod_lt _ (by decide)

/-- An arrival at a word with a TARGET carries into GEN. -/
theorem arrive_of_target {w : Nat} (counts : bits w 41 21 ≠ 0) (n err : Nat) :
    arrive w n err = (bits w 63 48 + (bits w 20 0 + n) / bits w 41 21) % 2 ^ 16 * 2 ^ 48 + firstErr w err * 2 ^ 42 + bits w 41 21 * 2 ^ 21
      + (bits w 20 0 + n) % bits w 41 21 :=
  if_neg counts

/-- An arrival at a word without one is added up, at most to the largest count. -/
theorem arrive_of_no_target {w : Nat} (none : bits w 41 21 = 0) (n err : Nat) :
    arrive w n err = bits w 63 48 * 2 ^ 48 + firstErr w err * 2 ^ 42 + 0 * 2 ^ 21 + Nat.min (bits w 20 0 + n) (2 ^ 21 - 1) := by
  rw [Nat.zero_mul, Nat.add_zero]
  exact if_pos none

theorem wordSet_of_lt (w : Nat) {t : Nat} (lt : t < 2 ^ 21) : wordSet w t = bits w 63 48 * 2 ^ 48 + 0 * 2 ^ 42 + t * 2 ^ 21 + 0 := by
  rw [wordSet, Nat.mod_eq_of_lt lt, Nat.zero_mul, Nat.add_zero, Nat.add_zero]

/-- A generation modulo 2^16 and a count below the target are the total modulo 2^16 targets. -/
theorem carry_mod (g sum t : Nat) : ((g + sum / t) % 2 ^ 16 * t + sum % t) % (2 ^ 16 * t) = (g * t + sum) % (2 ^ 16 * t) := by
  calc ((g + sum / t) % 2 ^ 16 * t + sum % t) % (2 ^ 16 * t)
      = ((g + sum / t) * t + sum % t) % (2 ^ 16 * t) := by rw [← Nat.mul_mod_mul_right, Nat.mod_add_mod]
    _ = (g * t + sum) % (2 ^ 16 * t) := by rw [Nat.add_mul, Nat.add_assoc, Nat.div_add_mod']

theorem completionWordArithmetic : Clause.CompletionWordArithmetic := by
  unfold Clause.CompletionWordArithmetic
  intro w n err _
  dsimp only
  simp only [show ∀ v, v / 2 ^ 48 % 2 ^ 16 = bits v 63 48 from fun _ => rfl, show ∀ v, v / 2 ^ 42 % 2 ^ 6 = bits v 47 42 from fun _ => rfl,
    show ∀ v, v / 2 ^ 21 % 2 ^ 21 = bits v 41 21 from fun _ => rfl, show ∀ v, v % 2 ^ 21 = bits v 20 0 from fun v => (bits_low v 20).symm]
  have gen : bits w 63 48 < 2 ^ 16 := Nat.mod_lt _ (by decide)
  have target : bits w 41 21 < 2 ^ 21 := Nat.mod_lt _ (by decide)
  have set (t : Nat) (lt : t < 2 ^ 21) :
      bits (wordSet w t) 41 21 = t ∧ bits (wordSet w t) 20 0 = 0 ∧ bits (wordSet w t) 47 42 = 0 ∧ bits (wordSet w t) 63 48 = bits w 63 48 := by
    obtain ⟨g, e, t, a⟩ := wordFields (e := 0) gen (by decide) lt (a := 0) (by decide)
    rw [wordSet_of_lt w lt]
    exact ⟨t, a, e, g⟩
  by_cases counts : bits w 41 21 = 0
  · have low : Nat.min (bits w 20 0 + n) (2 ^ 21 - 1) < 2 ^ 21 := (Nat.min_le_right _ _).trans_lt (by decide)
    obtain ⟨g, e, t, a⟩ := wordFields gen (firstErr_lt w err) (t := 0) (by decide) low
    rw [← arrive_of_no_target counts] at g e t a
    exact ⟨fun some_ => absurd counts some_, fun _ => ⟨g, a⟩, t.trans counts.symm, e, set⟩
  · have low : (bits w 20 0 + n) % bits w 41 21 < bits w 41 21 := Nat.mod_lt _ (Nat.pos_of_ne_zero counts)
    obtain ⟨g, e, t, a⟩ := wordFields (Nat.mod_lt (bits w 63 48 + (bits w 20 0 + n) / bits w 41 21) (by decide)) (firstErr_lt w err) target
      (low.trans target)
    rw [← arrive_of_target counts] at g e t a
    refine ⟨fun _ => ⟨?_, a ▸ low⟩, fun none => absurd none counts, t, e, set⟩
    rw [g, a, carry_mod, ← Nat.add_assoc]

/-! ### BWSET, BWARRIVE and WAITGEN (R161, R307, R308) -/

section
variable {f : AF} {s : State}

/-- The state after a store has been accepted: it is the last of its queue, and the core goes on. -/
theorem State.takeAcc_store_spec {k : ScalarKind} (queued : k.queued = true) (x : Acc) :
    (s.takeAcc k x).a.stores = s.a.stores ++ [x] ∧ (s.takeAcc k x).a.pc = s.a.pc + 8 ∧ (∀ r, (s.takeAcc k x).g r = s.g r)
      ∧ SameBytes s (s.takeAcc k x) := by
  have a : (s.onA s.focus fun a => if k.queued then { a with stores := a.stores ++ [x], seq := a.seq + 1 }
      else { a with loads := a.loads ++ [x], seq := a.seq + 1 }).a = { s.a with stores := s.a.stores ++ [x], seq := s.a.seq + 1 } := by
    rw [State.a_onA, if_pos queued]
  refine ⟨?_, ?_, State.g_of_a (by rw [a]), .trans (.onA _ _ _) (.advance _)⟩
  · rw [State.takeAcc, State.a_advance, a]
  · rw [State.takeAcc, State.a_advance, a]

section
variable (ready : s.ready [f.sa] = true) (rl : Bool) (sc : Scope) (what : Bool × Nat × Nat)
include ready

theorem State.wordStore_trap {e : Flt} (err : s.wordErr (s.g f.sa).toNat = some e) : s.wordStore f rl sc what = .next (s.trapFlt e) := by
  simp only [State.wordStore, ready, err, Bool.not_true, Bool.false_eq_true, if_false]

variable (sound : s.wordErr (s.g f.sa).toNat = none)
include sound

/-- A write of a completion word is accepted as a store of its eight bytes. -/
theorem State.wordStore_takes (room : (s.a.stores.filter (·.late.isNone)).length < 16) :
    ∃ t x, s.wordStore f rl sc what = .next t ∧ t.a.stores = s.a.stores ++ [x] ∧ x.word = some what ∧ x.place = .sp
      ∧ x.pa = (s.wordAt (s.g f.sa).toNat).1 * 2 ^ 22 + (s.wordAt (s.g f.sa).toNat).2 ∧ x.size = 8 ∧ x.cls = f.ocl.toNat ∧ x.val = none
      ∧ t.a.pc = s.a.pc + 8 ∧ (∀ r, t.g r = s.g r) ∧ SameBytes s t := by
  have free : s.scalarFull { store := true } = false := decide_eq_false (Nat.not_le.mpr room)
  simp only [State.wordStore, ready, sound, free, Bool.not_true, Bool.false_eq_true, if_false]
  obtain ⟨stores, pc, regs, bytes⟩ := State.takeAcc_store_spec (s := s) (k := { store := true, rl := rl }) rfl _
  exact ⟨_, _, rfl, stores, rfl, rfl, rfl, rfl, rfl, rfl, pc, regs, bytes⟩

theorem State.wordStore_full (full : 16 ≤ (s.a.stores.filter (·.late.isNone)).length) : s.wordStore f rl sc what = .next (s.waitAt .room f) := by
  have none : s.scalarFull { store := true } = true := decide_eq_true full
  simp only [State.wordStore, ready, sound, none, Bool.not_true, Bool.false_eq_true, if_false, if_true]

end

section
variable (ready : s.ready [f.d, f.sa] = true)
include ready

theorem exec_waitgen_trap {e : Flt} (err : s.wordErr (s.g f.sa).toNat = some e) : exec (.waitgen f) s = .next (s.trapFlt e) := by
  change execWaitgen f s = _
  simp only [execWaitgen, ready, err, Bool.not_true, Bool.false_eq_true, if_false]

variable (sound : s.wordErr (s.g f.sa).toNat = none)
include sound

/-- WAITGEN waits while a bank lock or a pause holds its read. -/
theorem exec_waitgen_blocked
    (blocked : s.spBlocked s.focus (some s.a.seq) false (s.wordAt (s.g f.sa).toNat).1 (s.wordAt (s.g f.sa).toNat).2 8 = true) :
    exec (.waitgen f) s = .next (s.waitAt .waitgen f f.d) := by
  change execWaitgen f s = _
  simp only [execWaitgen, ready, sound, blocked, Bool.not_true, Bool.or_true, Bool.false_eq_true, if_false, if_true]

/-- WAITGEN reads its word and looks at the generation. -/
theorem exec_waitgen_reads (acquired : s.a.acqPending = false)
    (stored : s.a.storePending (s.wordAt (s.g f.sa).toNat).1 (s.wordAt (s.g f.sa).toNat).2 8 = false)
    (clean : s.spPoisoned (s.wordAt (s.g f.sa).toNat).1 (s.wordAt (s.g f.sa).toNat).2 8 = false)
    (free : s.spBlocked s.focus (some s.a.seq) false (s.wordAt (s.g f.sa).toNat).1 (s.wordAt (s.g f.sa).toNat).2 8 = false) :
    exec (.waitgen f) s =
      if genReached (s.spReadN (s.wordAt (s.g f.sa).toNat).1 (s.wordAt (s.g f.sa).toNat).2 8) (bits f.imm.toNat 15 0) then
        .next ((s.acquired s.focus (scopeOf (bits f.imm.toNat 23 22))).result f.d
          (BitVec.ofNat 64 (s.spReadN (s.wordAt (s.g f.sa).toNat).1 (s.wordAt (s.g f.sa).toNat).2 8)))
      else .next (s.waitAt .waitgen f f.d) := by
  change execWaitgen f s = _
  simp only [execWaitgen, ready, sound, acquired, stored, clean, free, Bool.not_true, Bool.or_self, Bool.false_eq_true, if_false]

end

end

/-- Whether a generation is reached depends on it modulo 2^16 alone. -/
theorem genReached_iff (w : Nat) {g : Nat} (lt : g < 2 ^ 16) : genReached w g = true ↔ (w / 2 ^ 48 + 2 ^ 16 - g) % 2 ^ 16 < 2 ^ 15 := by
  rw [genReached, decide_eq_true_eq, bits]
  omega

theorem completionWordInstructions : Clause.CompletionWordInstructions := by
  unfold Clause.CompletionWordInstructions
  intro f s
  dsimp only
  simp only [show f.imm.toNat % 2 ^ 21 = bits f.imm.toNat 20 0 from (bits_low _ 20).symm,
    show f.imm.toNat % 2 ^ 16 = bits f.imm.toNat 15 0 from (bits_low _ 15).symm]
  refine ⟨fun ready sound => ⟨fun room => ⟨State.wordStore_takes ready _ _ _ sound room, State.wordStore_takes ready _ _ _ sound room⟩,
    fun full => ⟨?set, ?arrive⟩⟩, fun ready sound acquired stored clean => ⟨fun blocked => ?blocked, fun free reached => ?reached,
    fun free early => ?early⟩, fun e err ready i member => ?trap⟩
  case set =>
    have waits : exec (.bwset f) s = .next (s.waitAt .room f) := State.wordStore_full ready _ _ _ sound full
    exact waits ▸ s.waitsHere_waitAt .room f 0
  case arrive =>
    have waits : exec (.bwarrive f) s = .next (s.waitAt .room f) := State.wordStore_full ready _ _ _ sound full
    exact waits ▸ s.waitsHere_waitAt .room f 0
  case blocked => exact exec_waitgen_blocked ready sound blocked ▸ s.waitsHere_waitAt .waitgen f f.d
  case reached =>
    have a := s.a_acquired (scopeOf (bits f.imm.toNat 23 22))
    obtain ⟨regs, pc, -⟩ := (s.acquired s.focus (scopeOf (bits f.imm.toNat 23 22))).result_spec f.d
      (BitVec.ofNat 64 (s.spReadN (s.wordAt (s.g f.sa).toNat).1 (s.wordAt (s.g f.sa).toNat).2 8))
    refine ⟨_, (exec_waitgen_reads ready sound acquired stored clean free).trans (if_pos ?_), ?_, fun r => ?_, fun wide => ?_,
      .trans (.acquired _ _) (.result _ _ _)⟩
    · exact (genReached_iff _ (Nat.mod_lt _ (by decide))).mpr reached
    · rw [pc, a]
    · have same : (s.acquired s.focus (scopeOf (bits f.imm.toNat 23 22))).g r = s.g r := by rw [State.g, a]; rfl
      rw [regs, same]
      rfl
    · refine (congrArg ACore.l1 (State.besideG_result _ _ _)).trans ((congrArg ACore.l1 a).trans (if_pos ?_))
      rw [scopeWide_scopeOf (n := bits f.imm.toNat 23 22) (Nat.mod_lt _ (by decide))]
      exact decide_eq_true wide
  case early =>
    have waits := (exec_waitgen_reads ready sound acquired stored clean free).trans (if_neg ?_)
    · exact waits ▸ s.waitsHere_waitAt .waitgen f f.d
    · exact fun reached => absurd ((genReached_iff _ (Nat.mod_lt _ (by decide))).mp reached) (Nat.not_lt.mpr early)
  case trap =>
    have one : s.ready [f.sa] = true := State.ready_of_subset ready (by simp)
    simp only [List.mem_cons, List.not_mem_nil, or_false] at member
    rcases member with rfl | rfl | rfl
    · exact State.wordStore_trap one _ _ _ err
    · exact State.wordStore_trap one _ _ _ err
    · exact exec_waitgen_trap ready err

/-! ### Semaphores (R309) -/

/-- A semaphore set on the way to the next instruction. -/
theorem State.putSem_advance_spec (s : State) (k v : Nat) :
    (∀ j, NMap.get 0 (s.putSem k v).advance.a.sems j = if j = k then v else NMap.get 0 s.a.sems j) ∧ (s.putSem k v).advance.a.pc = s.a.pc + 8
      ∧ (∀ r, (s.putSem k v).advance.g r = s.g r) ∧ SameBytes s (s.putSem k v).advance := by
  have passes := s.passesTo_putSem k v
  refine ⟨fun j => ?_, passes.pc, State.g_of_a (by rw [s.a_putSem]), passes.bytes⟩
  rw [State.a_advance, s.a_putSem]
  exact NMap.get_set _ _ _ _

theorem semaphores : Clause.Semaphores := by
  unfold Clause.Semaphores
  intro f s
  dsimp only
  simp only [show f.imm.toNat % 16 = bits f.imm.toNat 3 0 from (bits_low _ 3).symm]
  refine ⟨fun drained fits => ⟨_, ?semv, s.putSem_advance_spec _ _⟩, fun busy => ?semvWaits, fun acquired alone enough =>
    ⟨_, execSemp_enough enough acquired alone, s.putSem_advance_spec _ _⟩, fun few => ?sempWaits, fun ready acquired => ?semtry⟩
  case semv => exact if_pos (by rw [drained, Bool.true_and]; exact decide_eq_true fits)
  case semvWaits =>
    have waits : exec (.semv f) s = .next (s.waitAt .semv f) := by
      refine if_neg ?_
      rw [Bool.and_eq_true, decide_eq_true_eq]
      rintro ⟨drained, fits⟩
      rcases busy with more | pending
      · exact absurd fits (Nat.not_le.mpr more)
      · rw [pending] at drained
        cases drained
    exact waits ▸ s.waitsHere_waitAt .semv f 0
  case sempWaits =>
    have waits : exec (.semp f) s = .next (s.waitAt .semp f) := by
      have short : ¬ bits f.imm.toNat 31 16 ≤ s.semOf (bits f.imm.toNat 3 0) := Nat.not_le.mpr few
      exact if_neg (by simp [short])
    exact waits ▸ s.waitsHere_waitAt .semp f 0
  case semtry =>
    have step : exec (.semtry f) s = if bits f.imm.toNat 31 16 ≤ s.semOf (bits f.imm.toNat 3 0) then
        .next ((s.putSem (bits f.imm.toNat 3 0) (s.semOf (bits f.imm.toNat 3 0) - bits f.imm.toNat 31 16)).result f.d 1)
        else .next (s.result f.d 0) := if_neg (by simp [ready, acquired])
    by_cases enough : bits f.imm.toNat 31 16 ≤ s.semOf (bits f.imm.toNat 3 0)
    · obtain ⟨regs, pc, -⟩ := (s.putSem (bits f.imm.toNat 3 0) (s.semOf (bits f.imm.toNat 3 0) - bits f.imm.toNat 31 16)).result_spec f.d 1
      refine ⟨_, step.trans (if_pos enough), fun j => ?_, by rw [pc, s.a_putSem], fun r => ?_, .trans (.onA _ _ _) (.result _ _ _)⟩
      · refine (congrArg (fun a : ACore => NMap.get 0 a.sems j) (State.besideG_result _ _ _)).trans ?_
        rw [s.a_putSem]
        refine (NMap.get_set _ _ _ _).trans ?_
        exact if_congr Iff.rfl (if_pos enough).symm rfl
      · rw [regs, State.g, s.a_putSem]
        exact if_congr Iff.rfl (if_pos enough).symm rfl
    · obtain ⟨regs, pc, -⟩ := s.result_spec f.d 0
      refine ⟨_, step.trans (if_neg enough), fun j => ?_, pc, fun r => ?_, .result _ _ _⟩
      · refine (congrArg (fun a : ACore => NMap.get 0 a.sems j) (State.besideG_result _ _ _)).trans ?_
        split
        · next here => rw [here]; exact (if_neg enough).symm
        · rfl
      · rw [regs]
        exact if_congr Iff.rfl (if_neg enough).symm rfl

/-- Settles O18: the arithmetic of the words, their instructions, and the semaphores. -/
theorem completionWordsAndSemaphores : Obligations.CompletionWordsAndSemaphores := ⟨completionWordArithmetic, completionWordInstructions, semaphores⟩

end Sys2Proof.Machine
end

section
/-! PROOFS. Fences, fence windows, and the maintenance of instruction caches (R147-R150, R170, R294-R297). -/

namespace Sys2Proof.Machine
open Sys2Proof

/-! ### Instructions that go on, and that wait (R148-R150, R285) -/

/-- The instruction has completed: what the core has accepted and its registers are as they were, and so is every byte. -/
def State.goesOn (s : State) (o : Out) (frame : State → Prop) : Prop :=
  ∃ t, o = .next t ∧ t.a.pc = s.a.pc + 8 ∧ frame t ∧ (∀ r, t.g r = s.g r) ∧ t.a.loads = s.a.loads ∧ t.a.stores = s.a.stores
    ∧ t.a.cmds = s.a.cmds ∧ SameBytes s t

/-- The core waits at its pc, and every byte is as it was. -/
def State.staysAt (s : State) (o : Out) : Prop := ∃ t, o = .next t ∧ t.a.pc = s.a.pc ∧ t.a.wait.isSome = true ∧ SameBytes s t

/-- An instruction that changes the L1 and the windows of its core alone has completed. -/
theorem State.goesOn_advance {s u : State} {l1 : List CLine} {wins : NMap (Option Window)} (a : u.a = { s.a with l1 := l1, wins := wins })
    (same : SameBytes s u) {frame : State → Prop} (h : frame u.advance) : s.goesOn (.next u.advance) frame := by
  refine ⟨u.advance, rfl, ?_, h, State.g_of_a (by rw [a]), ?_, ?_, ?_, same.trans (.advance u)⟩
  all_goals rw [u.a_advance, a]

theorem State.staysAt_waitAt (s : State) (k : WaitKind) (f : AF) : s.staysAt (.next (s.waitAt k f)) := by
  obtain ⟨pc, waits, -, -, -, -, bytes, -⟩ := s.waitAt_spec k f
  exact ⟨_, rfl, pc, waits, bytes⟩

/-! ### Windows (R149, R150, R295, R296) -/

theorem bit_low_byte (m i : Nat) : bit (bits m 7 0) i = true ↔ m.testBit i = true ∧ i < 8 := by
  rw [bits_low, bit, Nat.testBit_mod_two_pow, Bool.and_eq_true, decide_eq_true_eq]
  exact and_comm

/-- The lines that leave the L1 are those that meet a named window of global memory. -/
theorem ACore.mem_l1Windows (a : ACore) (m : Nat) (l : CLine) :
    l ∈ (a.l1Windows (bits m 7 0)).l1 ↔ l ∈ a.l1 ∧ ¬ ∃ i w, (i, some w) ∈ a.wins ∧ m.testBit i = true ∧ i < 8 ∧ w.sp = false
      ∧ l.va < w.base + w.len ∧ w.base < l.va + 64 := by
  have meets (w : Window) : w.meets false 0 l.va (l.va + 63) = true ↔ w.sp = false ∧ l.va < w.base + w.len ∧ w.base < l.va + 64 := by
    simp only [Window.meets, Bool.not_false, Bool.true_or, Bool.and_true, Bool.and_eq_true, beq_iff_eq, decide_eq_true_eq, and_assoc]
    refine and_congr_right fun _ => ?_
    omega
  rw [ACore.l1Windows, List.mem_filter, Bool.not_eq_true', ← Bool.not_eq_true, List.any_eq_true]
  refine and_congr_right fun _ => not_congr ⟨?_, ?_⟩
  · rintro ⟨⟨i, w⟩, member, hit⟩
    obtain ⟨named, hit⟩ := Bool.and_eq_true_iff.mp hit
    obtain ⟨set, lt⟩ := (bit_low_byte m i).mp named
    cases w with
    | none => exact absurd hit Bool.false_ne_true
    | some w => exact ⟨i, w, member, set, lt, (meets w).mp hit⟩
  · rintro ⟨i, w, member, set, lt, hit⟩
    exact ⟨(i, some w), member, Bool.and_eq_true_iff.mpr ⟨(bit_low_byte m i).mpr ⟨set, lt⟩, (meets w).mpr hit⟩⟩

section
variable {f : AF} {s : State} {n : Nat} {i : Instr} {k : WaitKind}

/-- An instruction that sets a window whose COUNT is 0, and otherwise waits. -/
theorem State.setsWindow {w : Window}
    (step : exec i s = if s.winCount s.focus n = 0 then .next (s.setWin n (some w)).advance else .next (s.waitAt k f)) :
    (s.winCount s.focus n = 0 → s.goesOn (exec i s) fun t => ∀ j, NMap.get none t.a.wins j = if j = n then some w else NMap.get none s.a.wins j)
      ∧ (s.winCount s.focus n ≠ 0 → s.staysAt (exec i s)) := by
  refine ⟨fun free => ?_, fun busy => ?_⟩
  · rw [step, if_pos free]
    refine State.goesOn_advance (s.a_setWin n (some w)) (.onA _ _ _) fun j => ?_
    rw [State.a_advance, s.a_setWin]
    exact NMap.get_set _ _ _ _
  · rw [step, if_neg busy]
    exact s.staysAt_waitAt k f

/-- WSET by a locator whose checks pass. -/
theorem exec_wset_checked (ready : s.ready [f.sa, f.sb] = true) (form : locForm (s.g f.sa).toNat (spaceIn true true false) = none)
    (scope : s.locScope s.focus (s.g f.sa).toNat = none) (fits : (windowOf s.focus (s.g f.sa).toNat (s.g f.sb).toNat).fits = true) :
    exec (.wset f) s = if s.winCount s.focus (bits f.imm.toNat 2 0) = 0 then
      .next (s.setWin (bits f.imm.toNat 2 0) (some (windowOf s.focus (s.g f.sa).toNat (s.g f.sb).toNat))).advance
      else .next (s.waitAt .wset f) := by
  change execWset f s = _
  simp only [execWset, ready, form, scope, fits, orSpace, firstFlt, Bool.not_true, Bool.false_eq_true, if_false, if_true]

theorem exec_wsetHandle_checked (valid : s.handleCheck (s.runCid s.focus) (bits f.imm.toNat 31 16) = none)
    (readable : s.entryBad (s.htab (s.runCid s.focus) + 64 * bits f.imm.toNat 31 16) = false) :
    exec (.wsetHandle f) s = if s.winCount s.focus (bits f.imm.toNat 2 0) = 0 then
      .next (s.setWin (bits f.imm.toNat 2 0) (some (s.handleWindow (s.runCid s.focus) (bits f.imm.toNat 31 16)))).advance
      else .next (s.waitAt .wset f) := by
  change execWsetHandle f s = _
  simp only [execWsetHandle, State.handleUse, State.entryUse, readable, valid, Bool.and_false, Bool.false_eq_true, if_false]

end

theorem Window.fits_of {w : Window} (some_ : w.len ≠ 0) (within : w.base + w.len ≤ if w.sp then 0x300000 else 2 ^ 52) : w.fits = true := by
  rw [Window.fits, Bool.and_eq_true, bne_iff_ne, decide_eq_true_eq]
  exact ⟨some_, within⟩

theorem fencesAndWindows : Clause.FencesAndWindows := by
  unfold Clause.FencesAndWindows
  intro f s
  dsimp only
  simp only [show f.imm.toNat % 256 = bits f.imm.toNat 7 0 from (bits_low _ 7).symm,
    show f.imm.toNat % 8 = bits f.imm.toNat 2 0 from (bits_low _ 2).symm,
    show f.imm.toNat % 2 ^ 16 = bits f.imm.toNat 15 0 from (bits_low _ 15).symm]
  refine ⟨fun drained => ?fence, fun pending => ?fenceWaits, fun clear => ?fencew, fun clear => ?wclr, fun busy => ⟨?fencewWaits, ?wclrWaits⟩,
    fun ready scope some_ => ⟨fun c a parse within => ?wsetSp, fun a parse within => ?wsetVa⟩,
    fun valid readable => State.setsWindow (exec_wsetHandle_checked valid readable)⟩
  case fence =>
    have step : exec (.fence f) s = .next (s.acquired s.focus (scopeOf (f.imm.toNat / 2 ^ 16 % 4))).advance := if_pos drained
    have a := s.a_acquired (scopeOf (f.imm.toNat / 2 ^ 16 % 4))
    rw [step]
    refine State.goesOn_advance a (.acquired _ _) ?_
    rw [State.a_advance, a]
    exact if_congr (by simp [scopeWide]) rfl rfl
  case fenceWaits =>
    have step : exec (.fence f) s = .next (s.waitAt .fence f) := if_neg (by rw [Bool.not_eq_true]; exact pending)
    exact step ▸ s.staysAt_waitAt .fence f
  case fencew =>
    have step : exec (.fencew f) s = .next (if scopeWide (scopeOf (bits f.imm.toNat 9 8)) then
      s.onA s.focus fun a => a.l1Windows (bits f.imm.toNat 7 0) else s).advance := if_pos clear
    have wide : scopeWide (scopeOf (bits f.imm.toNat 9 8)) = decide (2 ≤ f.imm.toNat / 2 ^ 8 % 4) := scopeWide_scopeOf (Nat.mod_lt _ (by decide))
    rw [step, wide]
    by_cases far : 2 ≤ f.imm.toNat / 2 ^ 8 % 4
    · have a := s.a_onA fun a => a.l1Windows (bits f.imm.toNat 7 0)
      rw [if_pos (decide_eq_true far)]
      refine State.goesOn_advance a (.onA _ _ _) fun l => ?_
      rw [State.a_advance, a]
      simpa only [far, true_and] using s.a.mem_l1Windows f.imm.toNat l
    · rw [if_neg (by simpa using far)]
      refine State.goesOn_advance (u := s) rfl (.refl s) fun l => ?_
      rw [State.a_advance]
      exact ⟨fun h => ⟨h, fun k => far k.1⟩, And.left⟩
  case wclr =>
    have step : exec (.wclr f) s = .next (s.clearWins (bits f.imm.toNat 7 0) (List.range 8)).advance := if_pos clear
    obtain ⟨bytes, a, wins⟩ := s.clearWins_spec (bits f.imm.toNat 7 0) (List.range 8)
    rw [step]
    refine State.goesOn_advance a bytes fun i lt => ?_
    rw [State.a_advance]
    refine (wins i).trans (if_congr ?_ rfl rfl)
    rw [bit_low_byte, List.mem_range]
    tauto
  case fencewWaits =>
    have step : exec (.fencew f) s = .next (s.waitAt .fencew f) := if_neg (by rw [busy]; exact Bool.false_ne_true)
    exact step ▸ s.staysAt_waitAt .fencew f
  case wclrWaits =>
    have step : exec (.wclr f) s = .next (s.waitAt .wclr f) := if_neg (by rw [busy]; exact Bool.false_ne_true)
    exact step ▸ s.staysAt_waitAt .wclr f
  case wsetSp =>
    have window : windowOf s.focus (s.g f.sa).toNat (s.g f.sb).toNat
        = { sp := true, cl := if c = 255 then s.focus else c, base := a, len := (s.g f.sb).toNat } := by simp only [windowOf, locEp, parse]
    rw [← window]
    refine State.setsWindow (exec_wset_checked ready ?_ scope ?_)
    · simp only [locForm, parse]
      rfl
    · rw [window]
      exact Window.fits_of some_ within
  case wsetVa =>
    have window : windowOf s.focus (s.g f.sa).toNat (s.g f.sb).toNat = { sp := false, cl := 0, base := a, len := (s.g f.sb).toNat } := by
      simp only [windowOf, locEp, parse]
    rw [← window]
    refine State.setsWindow (exec_wset_checked ready ?_ scope ?_)
    · simp only [locForm, parse]
      rfl
    · rw [window]
      exact Window.fits_of some_ within

/-! ### Instruction caches of other clusters (R170) -/

/-- `t` has the instruction caches of `s`. -/
def State.SameCaches (s t : State) : Prop := ∀ n, (t.cl n).a.icache = (s.cl n).a.icache ∧ (t.cl n).x.icache = (s.cl n).x.icache

theorem State.SameCaches.of_cl {s t : State} (h : ∀ n, t.cl n = s.cl n) : s.SameCaches t := fun n => by rw [h n]; exact ⟨rfl, rfl⟩

theorem State.SameCaches.trans {s t u : State} (h : s.SameCaches t) (k : t.SameCaches u) : s.SameCaches u := fun n =>
  ⟨(k n).1.trans (h n).1, (k n).2.trans (h n).2⟩

theorem State.SameCaches.onA (s : State) (m : Nat) (f : ACore → ACore) (same : (f (s.cl m).a).icache = (s.cl m).a.icache) :
    s.SameCaches (s.onA m f) := by
  intro n
  by_cases h : n = m
  · subst h
    rw [State.cl_onA_self]
    exact ⟨same, rfl⟩
  · rw [State.cl_onA_ne s f h]
    exact ⟨rfl, rfl⟩

theorem State.SameCaches.advance (s : State) : s.SameCaches s.advance := .onA s s.focus (fun a => { a with pc := a.pc + 8, wait := none }) rfl

theorem State.SameCaches.waitAt (s : State) (k : WaitKind) (f : AF) : s.SameCaches (s.waitAt k f) :=
  .onA s s.focus _ rfl

/-- `t` has the device's record of `s` and its ports in service, and no requests of other owners. -/
structure State.KeepsLinks (s t : State) : Prop where
  dev : t.dev = s.dev
  up : ∀ p, (t.port p).up = (s.port p).up
  owner : ∀ r ∈ t.reqs, ∃ q ∈ s.reqs, q.owner = r.owner

namespace State.KeepsLinks

theorem refl (s : State) : s.KeepsLinks s := ⟨rfl, fun _ => rfl, fun r hr => ⟨r, hr, rfl⟩⟩

theorem trans {s t u : State} (h : s.KeepsLinks t) (k : t.KeepsLinks u) : s.KeepsLinks u where
  dev := k.dev.trans h.dev
  up p := (k.up p).trans (h.up p)
  owner r hr := by
    obtain ⟨q, hq, qr⟩ := k.owner r hr
    obtain ⟨x, hx, xq⟩ := h.owner q hq
    exact ⟨x, hx, xq.trans qr⟩

theorem foldl {α : Type} {f : State → α → State} (h : ∀ (s : State) (a : α), s.KeepsLinks (f s a)) (s : State) (l : List α) :
    s.KeepsLinks (l.foldl f s) :=
  List.foldlRecOn l f (refl s) fun t ht a _ => ht.trans (h t a)

theorem up_setPort {s : State} {p : Nat} {v : Port} (same : v.up = (s.port p).up) (q : Nat) : ((s.setPort p v).port q).up = (s.port q).up := by
  rw [show (s.setPort p v).port q = if q = p then v else s.port q from NMap.get_set _ _ _ _]
  split
  · next h => rw [h, same]
  · rfl

theorem send (s : State) (dst : Nat) (m : Msg) : s.KeepsLinks (s.send dst m) where
  dev := (State.Posts.send s dst m ctlSource).dev
  up p := by
    simp only [State.send]
    split
    · rfl
    · split
      · rfl
      · simp only [State.sendOn]
        split
        · exact up_setPort (s := s) (v := { s.port _ with wait := (s.port _).wait ++ _ }) rfl p
        · exact up_setPort (s := s) (v := Port.push _ _ _ _) rfl p
  owner r hr := by
    obtain ⟨at_, sent⟩ := s.reqs_send dst m ctlSource
    rw [sent] at hr
    obtain ⟨q, hq, rfl⟩ := List.mem_map.mp hr
    exact ⟨q, hq, rfl⟩

theorem icDropAll (s : State) (sel : Nat → Bool) (cid va len : Nat) : s.KeepsLinks (s.icDropAll sel cid va len) where
  dev := rfl
  up p := by
    simp only [State.icDropAll, State.dropFetches, State.dropReqsOf, State.port]
    split
    · rfl
    · rw [NMap.get_mapVals _ _ fun _ => rfl]
  owner r hr := ⟨r, (List.mem_filter.mp hr).1, rfl⟩

theorem upPorts {s t : State} (h : s.KeepsLinks t) (dst : Nat) : t.upPorts dst = s.upPorts dst := by
  simp only [State.upPorts, h.dev, h.up]

end State.KeepsLinks

/-! ### Lines of a range dropped (R170, R297) -/

/-- A cluster whose caches are those of one that has dropped the lines of a range. -/
theorem dropsFrom_of_icDrop {s t : State} {n cid va len : Nat} (a : (t.cl n).a.icache = ((s.cl n).icDrop cid va len).a.icache)
    (x : (t.cl n).x.icache = ((s.cl n).icDrop cid va len).x.icache) : dropsFrom s t n cid va len := by
  have stays (ls : List CLine) (l : CLine) :
      l ∈ ls.filter (fun l => !(l.cid == cid && decide (l.addr < va + len) && decide (va < l.addr + 64)))
        ↔ l ∈ ls ∧ ¬ (l.cid = cid ∧ l.addr < va + len ∧ va < l.addr + 64) := by
    simp only [List.mem_filter, Bool.not_eq_true', ← Bool.not_eq_true, Bool.and_eq_true, beq_iff_eq, decide_eq_true_eq, and_assoc]
  refine ⟨fun l => ?_, fun l => ?_⟩
  · rw [a]
    exact stays _ l
  · rw [x]
    exact stays _ l

section
variable {s t : State} {sel : Nat → Bool} {cid va len : Nat}

theorem dropsFrom_icDropAll (same : (s.icDropAll sel cid va len).SameCaches t) {n : Nat} (chosen : sel n = true) : dropsFrom s t n cid va len := by
  obtain ⟨a, x⟩ := same n
  rw [s.cl_icDropAll, if_pos chosen] at a x
  exact dropsFrom_of_icDrop a x

/-- What is left after the lines of a range have been dropped in a set of clusters. -/
theorem dropsLines_icDropAll (same : (s.icDropAll sel cid va len).SameCaches t) (links : (s.icDropAll sel cid va len).KeepsLinks t)
    {within : Nat → Prop} (chosen : ∀ n, sel n = true ↔ within n) : dropsLines s t within cid va len := by
  refine ⟨fun n _ => ⟨fun h => dropsFrom_icDropAll same ((chosen n).mpr h), fun h => ?_⟩, fun r hr c x a owner inside meets => ?_⟩
  · obtain ⟨a, x⟩ := same n
    rw [s.cl_icDropAll, if_neg fun k => h ((chosen n).mp k)] at a x
    exact ⟨a, x⟩
  · obtain ⟨q, hq, is⟩ := links.owner r hr
    have kept := (List.mem_filter.mp hq).2
    rw [is, owner] at kept
    simp [(chosen c).mpr inside, meets] at kept

end

/-! ### ICINV, ICSYNC and their messages (R170, R297) -/

/-- The check of R297 on the range of an ICINV. -/
theorem icinvRange_ok {va len : Nat} (low : va < 2 ^ 52) (within : va + len ≤ 2 ^ 52) :
    orSpace (decide (va < 2 ^ 52) && decide (va + len ≤ 2 ^ 52)) kNonCanonical va = none :=
  if_pos (by rw [decide_eq_true low, decide_eq_true within]; rfl)

/-- The clusters of the scope of an ICINV. -/
theorem State.icScope_iff (s : State) (sc : Scope) (n : Nat) : s.icScope sc n = true
    ↔ (sc = .cl → n = s.focus) ∧ (sc = .qd → n / 32 = s.focus / 32 ∧ n % 16 / 2 = s.focus % 16 / 2) := by
  cases sc with
  | cl => simp [State.icScope]
  | qd =>
    simp only [State.icScope, beq_iff_eq, quadOf, reduceCtorEq, false_implies, true_implies, true_and]
    omega
  | dv => simp [State.icScope]
  | sy => simp [State.icScope]

section
variable {f : AF} {s : State} (ready : s.ready [f.sa, f.sb] = true) (low : (s.g f.sa).toNat < 2 ^ 52)
  (within : (s.g f.sa).toNat + (s.g f.sb).toNat ≤ 2 ^ 52) (some_ : 0 < (s.g f.sb).toNat)
include ready low within some_

/-- ICINV whose scope asks no other chip. -/
theorem exec_icinv_here (near : scopeOf (bits f.imm.toNat 1 0) ≠ .sy ∨ s.peers = []) : exec (.icinv f) s
    = .next (s.icDropAll (s.icScope (scopeOf (bits f.imm.toNat 1 0))) (s.runCid s.focus) (s.g f.sa).toNat (s.g f.sb).toNat).advance := by
  change execIcinv f s = _
  simp only [execIcinv, ready, icinvRange_ok low within, Bool.not_true, Bool.false_eq_true, if_false]
  rw [if_neg (Nat.ne_of_gt some_), if_neg (by rcases near with h | h <;> simp [h])]
  rfl

/-- The state in which an ICINV of the core begins: it has none under way. -/
def State.icinvFree (s : State) : State := { s with icinvs := s.icinvs.filter fun i => i.cl != some s.focus }

/-- ICINV at its first issue, where other chips are asked. -/
theorem exec_icinv_asks (far : scopeOf (bits f.imm.toNat 1 0) = .sy) (others : s.peers ≠ []) (fresh : s.a.wait = none) : exec (.icinv f) s
    = .next (((s.icinvFree.icDropAll (s.icScope .sy) (s.runCid s.focus) (s.g f.sa).toNat (s.g f.sb).toNat).icinvSend (some s.focus) none
        (s.runCid s.focus) (s.g f.sa).toNat (s.g f.sb).toNat).waitAt .icinv f) := by
  change execIcinv f s = _
  simp only [execIcinv, ready, icinvRange_ok low within, Bool.not_true, Bool.false_eq_true, if_false]
  rw [if_neg (Nat.ne_of_gt some_), if_pos (by simp [far, others])]
  simp only [fresh, Option.isSome_none, Bool.false_eq_true, if_false, far]
  rfl

end

/-- An ICINV noted, with its message on its way: only ports, messages and timers differ otherwise. -/
theorem State.icinvSend_spec (s : State) (cl node : Option Nat) (cid va len : Nat) :
    (∀ n, (s.icinvSend cl node cid va len).cl n = s.cl n) ∧ s.KeepsLinks (s.icinvSend cl node cid va len)
      ∧ (s.icinvSend cl node cid va len).a = s.a ∧ ∃ i ∈ (s.icinvSend cl node cid va len).icinvs, i.cl = cl := by
  let m : Icinv := { id := s.treeId, cl := cl, node := node, cid := cid, va := va, len := len, expect := maskOf s.peers, got := 0 }
  let noted : State := { s with icinvs := s.icinvs ++ [m], nextMsg := s.nextMsg + 1 }
  have posts : noted.Posts (s.icinvSend cl node cid va len) := .foldl (fun t k => .send t k _ _) _ _
  have links : noted.KeepsLinks (s.icinvSend cl node cid va len) := .foldl (fun t k => .send t k _) _ _
  refine ⟨fun n => posts.cl n, ⟨links.dev, links.up, links.owner⟩, posts.a, m, ?_, rfl⟩
  have same : (s.icinvSend cl node cid va len).icinvs = noted.icinvs := (congrArg State.icinvs posts.eq :)
  rw [same]
  exact List.mem_append_right _ (List.mem_singleton_self m)

theorem instructionCaches : Clause.InstructionCaches := by
  unfold Clause.InstructionCaches
  refine ⟨fun f s ready => ?icinv, fun f s => ⟨_, exec_icsync, ?icsync⟩, fun s src id cid va len served => ?message,
    fun s id chip i lt own member named => ?acknowledged⟩
  case icinv =>
    dsimp only
    simp only [show f.imm.toNat % 4 = bits f.imm.toNat 1 0 from (bits_low _ 1).symm]
    intro low within some_
    refine ⟨fun near => ?here, fun far others fresh => ?asks, fun far others i waits mine done => ?done⟩
    case here =>
      have quiet : scopeOf (bits f.imm.toNat 1 0) ≠ .sy ∨ s.peers = [] := by
        rcases near with h | h | h | h
        · exact .inl (by rw [h]; decide)
        · exact .inl (by rw [h]; decide)
        · exact .inl (by rw [h]; decide)
        · exact .inr h
      have a := s.a_icDropAll (scopeOf (bits f.imm.toNat 1 0)) (s.runCid s.focus) (s.g f.sa).toNat (s.g f.sb).toNat
      refine ⟨_, exec_icinv_here ready low within some_ quiet, ?_, State.g_of_a (by rw [a]; rfl),
        dropsLines_icDropAll (.advance _) ⟨rfl, fun _ => rfl, fun r hr => ⟨r, hr, rfl⟩⟩ (s.icScope_iff _)⟩
      rw [State.a_advance, a]
      rfl
    case asks =>
      have step := exec_icinv_asks ready low within some_ far others fresh
      have a := s.icinvFree.a_icDropAll .sy (s.runCid s.focus) (s.g f.sa).toNat (s.g f.sb).toNat
      obtain ⟨cl, links, same, i, member, owner⟩ := (s.icinvFree.icDropAll (s.icScope .sy) (s.runCid s.focus) (s.g f.sa).toNat
        (s.g f.sb).toNat).icinvSend_spec (some s.focus) none (s.runCid s.focus) (s.g f.sa).toNat (s.g f.sb).toNat
      obtain ⟨pc, waits, -, -, -, regs, -, -⟩ := ((s.icinvFree.icDropAll (s.icScope .sy) (s.runCid s.focus) (s.g f.sa).toNat
        (s.g f.sb).toNat).icinvSend (some s.focus) none (s.runCid s.focus) (s.g f.sa).toNat (s.g f.sb).toNat).waitAt_spec .icinv f
      refine ⟨_, step, ?_, waits, fun r => ?_, ?_, i, member, owner⟩
      · exact pc.trans (congrArg ACore.pc (same.trans a) :)
      · exact (regs r).trans (congrArg (fun a : ACore => a.reg r) (same.trans a) :)
      · exact dropsLines_icDropAll (s := s.icinvFree) ((State.SameCaches.of_cl cl).trans (.waitAt _ _ _))
          (links.trans ⟨rfl, fun _ => rfl, fun r hr => ⟨r, hr, rfl⟩⟩) (far ▸ s.icScope_iff .sy)
    case done =>
      refine ⟨_, (exec_icinv ready low within).2.2 i some_ far others waits mine done, ?_, State.g_of_a rfl⟩
      rw [State.a_advance]
      rfl
  case icsync =>
    have bytes : SameBytes s (s.dropFetches (ReqBy.fetchOf s.focus false)) := .of_clusters rfl rfl fun _ => rfl
    have a : ((s.dropFetches (ReqBy.fetchOf s.focus false)).onA s.focus fun a => { a with icache := [] }).a = { s.a with icache := [] } :=
      (s.dropFetches (ReqBy.fetchOf s.focus false)).a_onA _
    refine ⟨by rw [State.a_advance, a], by rw [State.a_advance, a], State.g_of_a (by rw [a]),
      (bytes.trans (.onA _ _ _)).trans (.advance _), fun r hr => ?_⟩
    simpa using (List.mem_filter.mp hr).2
  case message =>
    have step : exec (.icinvMsg src id cid va len) s = .next (((if src = s.parent (id % 64) then s.children (id % 64) else []).foldl
        (fun t k => t.send k (.icinv id cid va len)) (s.icDropAll (fun _ => true) cid va len)).send src (.icinvAck id s.dev.chip)) :=
      show execIcinvMsg src id cid va len s = _ from if_neg (by simp [served])
    generalize (if src = s.parent (id % 64) then s.children (id % 64) else []) = ks at step
    have posts : (s.icDropAll (fun _ => true) cid va len).Posts
        (ks.foldl (fun t k => t.send k (.icinv id cid va len)) (s.icDropAll (fun _ => true) cid va len)) := .foldl (fun t k => .send t k _ _) _ _
    have links : s.KeepsLinks (ks.foldl (fun t k => t.send k (.icinv id cid va len)) (s.icDropAll (fun _ => true) cid va len)) :=
      .trans (.icDropAll s _ _ _ _) (.foldl (fun t k => .send t k _) _ _)
    refine ⟨_, step, fun n _ => dropsFrom_icDropAll (sel := fun _ => true) (.of_cl fun n => ?_) rfl, fun path => State.posted_send _ _ ?_⟩
    · rw [State.cl_send, posts.cl]
    · rw [links.dev, links.upPorts]
      exact path
  case acknowledged =>
    refine ⟨_, show execIcinvAckMsg id chip s = _ from if_pos own, _, List.mem_map_of_mem member, ?_⟩
    rw [if_pos (beq_iff_eq.mpr named)]
    refine ⟨named, ?_⟩
    show (i.got ||| chipBit chip).getLsbD chip = true
    rw [BitVec.getLsbD_or, chipBit, BitVec.getLsbD_ofNat, decide_eq_true lt, Nat.testBit_two_pow_self]
    exact Bool.or_true _

/-- Settles O15: fences and windows, and the instruction caches. -/
theorem fencesWindowsAndCaches : Obligations.FencesWindowsAndCaches := ⟨fencesAndWindows, instructionCaches⟩

end Sys2Proof.Machine
end

section
/-! PROOFS. Scalar loads, stores and atomics at their visibility points (R140, R141, R147, R160, R286, R289, R291, R293, R307). -/

namespace Sys2Proof.Machine
open Sys2Proof

/-! ### An access that returns its value, or is outstanding no more (R289, R291) -/

theorem Acc.seq_of_find? {as : List Acc} {p : Acc → Bool} {seq : Nat} {l : Acc} (found : (as.find? fun l => l.seq == seq && p l) = some l) :
    l.seq = seq := by
  have both := List.find?_some found
  exact beq_iff_eq.mp (Bool.and_eq_true_iff.mp both).1

/-- A store that is not of an aborted task leaves no node behind. -/
theorem State.dropAcc_of_task {s : State} {cl seq : Nat} (task : ∀ m ∈ (s.cl cl).a.stores, m.seq = seq → m.orphan = false) :
    s.dropAcc cl seq = s.onA cl fun a => a.withoutAcc seq := by
  have none : (s.cl cl).a.stores.find? (fun l => l.seq == seq && l.orphan) = none := by
    rw [List.find?_eq_none]
    intro m hm both
    obtain ⟨named, orphan⟩ := Bool.and_eq_true_iff.mp both
    rw [task m hm (beq_iff_eq.mp named)] at orphan
    cases orphan
  simp only [State.dropAcc, none]
  rfl

/-- `t` differs from `s` in the L1 of cluster `cl` alone. -/
structure State.TouchesL1 (cl : Nat) (s t : State) : Prop where
  here : ∃ l1, (t.cl cl).a = { (s.cl cl).a with l1 := l1 }
  others : ∀ n, n ≠ cl → t.cl n = s.cl n
  bytes : SameBytes s t

namespace State.TouchesL1

variable {cl : Nat} {s t u : State}

theorem refl (s : State) : TouchesL1 cl s s := ⟨⟨_, rfl⟩, fun _ _ => rfl, .refl s⟩

theorem trans (h : TouchesL1 cl s t) (k : TouchesL1 cl t u) : TouchesL1 cl s u where
  here := by
    obtain ⟨l, hl⟩ := h.here
    obtain ⟨m, hm⟩ := k.here
    exact ⟨m, by rw [hm, hl]⟩
  others n hn := (k.others n hn).trans (h.others n hn)
  bytes := h.bytes.trans k.bytes

theorem onA (s : State) (f : List CLine → List CLine) : TouchesL1 cl s (s.onA cl fun a => { a with l1 := f a.l1 }) where
  here := ⟨f (s.cl cl).a.l1, by rw [State.cl_onA_self]⟩
  others _ hn := s.cl_onA_ne _ hn
  bytes := .onA s cl _

theorem l1Fill (s : State) (pa va : Nat) (bs : List Byte) : TouchesL1 cl s (s.onA cl fun a => a.l1Fill pa va bs) where
  here := ⟨((s.cl cl).a.l1Fill pa va bs).l1, by rw [State.cl_onA_self]; simp only [ACore.l1Fill]⟩
  others _ hn := s.cl_onA_ne _ hn
  bytes := .onA s cl _

theorem acquired (s : State) (sc : Scope) : TouchesL1 cl s (s.acquired cl sc) := by
  rw [State.acquired]
  split
  · exact onA s fun _ => []
  · exact refl s

end State.TouchesL1

/-- Value `v` of access `l` has returned: its register holds it, extended as the access says, and the access is outstanding no more. -/
def State.returned (s : State) (cl : Nat) (l : Acc) (v : Nat) (t : State) : Prop :=
  (l.dst ≠ 0 → (t.cl cl).a.reg (BitVec.ofNat 6 l.dst) = loadValue l.sx l.size v)
    ∧ (∀ r : BitVec 6, r.toNat ≠ l.dst → (t.cl cl).a.reg r = (s.cl cl).a.reg r)
    ∧ (∀ m ∈ (t.cl cl).a.accs, m.seq ≠ l.seq) ∧ SameBytes s t ∧ ∀ n, n ≠ cl → t.cl n = s.cl n

section
variable {s u : State} {cl : Nat} {l : Acc} (lt : l.dst < 64) (task : ∀ m ∈ (s.cl cl).a.stores, m.seq = l.seq → m.orphan = false)
include lt task

theorem State.returned_returnValue (lines : s.TouchesL1 cl u) (v : Nat) : s.returned cl l v (u.returnValue cl l v) := by
  obtain ⟨l1, core⟩ := lines.here
  let i : BitVec 6 := BitVec.ofNat 6 l.dst
  have named : i.toNat = l.dst := Nat.mod_eq_of_lt lt
  have stores (c : Cluster) (w : W64) : (c.setG i w).a.stores = c.a.stores := by rw [Cluster.setG]; split <;> rfl
  have taskU : ∀ m ∈ ((u.onCl cl fun c => c.setG i (loadValue l.sx l.size v)).cl cl).a.stores, m.seq = l.seq → m.orphan = false := by
    rw [State.cl_onCl_self, stores, core]
    exact task
  have step : u.returnValue cl l v = (u.onCl cl fun c => c.setG i (loadValue l.sx l.size v)).onA cl fun a => a.withoutAcc l.seq :=
    State.dropAcc_of_task taskU
  have regs (r : BitVec 6) : ((u.returnValue cl l v).cl cl).a.reg r = if r = i ∧ i ≠ 0 then loadValue l.sx l.size v else (s.cl cl).a.reg r := by
    rw [step, State.cl_onA_self, State.cl_onCl_self]
    refine (ACore.reg_setG (u.cl cl) i r _).trans (if_congr Iff.rfl rfl ?_)
    rw [core]
    rfl
  refine ⟨fun real => ?_, fun r other => ?_, State.accs_dropAcc taskU, ?_, fun n hn => ?_⟩
  · refine (regs i).trans (if_pos ⟨rfl, fun zero => real ?_⟩)
    rw [← named, zero]
    rfl
  · exact (regs r).trans (if_neg fun ⟨same, _⟩ => other (by rw [same, named]))
  · rw [step]
    exact (lines.bytes.trans (.onCl _ _ _ (by rw [Cluster.setG]; split <;> rfl) (by rw [Cluster.setG]; split <;> rfl))).trans (.onA _ _ _)
  · rw [step, State.cl_onA_ne _ _ hn, State.cl_onCl_ne _ _ hn, lines.others n hn]

theorem State.returned_loaded (lines : s.TouchesL1 cl u) (v : Nat) : s.returned cl l v (u.loaded cl l v) := by
  rw [State.loaded]
  split
  · exact State.returned_returnValue lt task (lines.trans (.acquired u l.scope)) v
  · exact State.returned_returnValue lt task lines v

end

/-! ### Bytes of a 64-byte line (R61, R131, R147) -/

theorem Memory.read_of_line (m : Memory) {a k n : Nat} (fits : k + n ≤ 64) : ((m.read a 64).drop k).take n = m.read (a + k) n := by
  apply List.ext_getElem
  · simp [Memory.read]
    omega
  · intro i h1 h2
    simp [Memory.read, Nat.add_assoc]

/-- A page's contents begin at a multiple of the page size. -/
theorem State.homeOf_dvd (s : State) (p : Nat) : 65536 ∣ s.homeOf p := by
  have frame (c : Ctx) (i : Nat) : 65536 ∣ c.frameAddr i := ⟨bits c.scb 155 128 + i, by rw [Ctx.frameAddr]; ring⟩
  simp only [State.homeOf]
  split
  · exact frame _ _
  · split
    · exact frame _ _
    · exact Nat.dvd_mul_left _ _

theorem State.homeOf_plain {s : State} {p : Nat} (plain : tagMode (s.tag p) = 0) : s.homeOf p = p * 65536 := by
  simp [State.homeOf, plain]

section
variable {s : State} {pa n : Nat} (ok : okPage s (pa / 65536))
include ok

/-- A read of a page in service returns the bytes at the page's home. -/
theorem State.hbmRead_ok (sound : s.channelFailed (s.homeOf (pa / 65536) + pa % 65536) = false)
    (clean : poisoned 64 s.hbmPoison (s.homeOf (pa / 65536) + pa % 65536) n = false) :
    s.hbmRead pa n = .ok (s.hbm.read (s.homeOf (pa / 65536) + pa % 65536) n) := by
  obtain ⟨stays, online, unsealed⟩ := ok
  simp only [State.hbmRead, pageOf, unsealed, sound, clean, Bool.or_self, Bool.false_eq_true, if_false]

/-- A line of a page in service. -/
theorem State.hbmRead_line {home : Nat} (at_ : home = s.homeOf (pa / 65536) + pa % 65536) (sound : s.channelFailed (home / 64 * 64) = false)
    (clean : poisoned 64 s.hbmPoison (home / 64 * 64) 64 = false) : s.hbmRead (lineOf pa) 64 = .ok (s.hbm.read (home / 64 * 64) 64) := by
  obtain ⟨k, whole⟩ := s.homeOf_dvd (pa / 65536)
  have page : lineOf pa / 65536 = pa / 65536 := by rw [lineOf]; omega
  have line : s.homeOf (lineOf pa / 65536) + lineOf pa % 65536 = home / 64 * 64 := by rw [page, at_, whole, lineOf]; omega
  rw [← line] at sound clean ⊢
  exact State.hbmRead_ok (page.symm ▸ ok) sound clean

end

/-! ### Loads (R140, R141, R147, R289) -/

theorem exec_loadValueReturn {s : State} {cl seq : Nat} {l : Acc}
    (found : ((s.cl cl).a.accs.find? fun l => l.seq == seq && (!l.store || l.op.isSome)) = some l) (evict : Bool) :
    (∀ v, l.val = some v → exec (.loadValueReturn cl seq evict) s = .next (s.returnValue cl l v))
      ∧ (l.val = none → l.op = none → l.redo = false → exec (.loadValueReturn cl seq evict) s = .next (s.performLoad cl l evict)) := by
  change (∀ v, l.val = some v → execLoadValueReturn cl seq evict s = _) ∧ (_ → _ → _ → execLoadValueReturn cl seq evict s = _)
  refine ⟨fun v fixed => ?_, fun pending load fresh => ?_⟩
  · simp only [execLoadValueReturn, found, fixed]
  · simp only [execLoadValueReturn, found, pending, load, fresh, Option.isSome_none, Bool.false_eq_true, if_false]

section
variable {s u : State} {cl : Nat} {l : Acc} (lt : l.dst < 64) (task : ∀ m ∈ (s.cl cl).a.stores, m.seq = l.seq → m.orphan = false)
include lt task

/-- A load returns the bytes of its line in HBM; if the L1 has the line after all, the load asks for no bytes. -/
theorem State.returned_loadPlace_hbm (place : l.place = .hbm) {bs : List Byte} (lines : s.TouchesL1 cl u) (unsealed : u.sealed (l.pa / 65536) = false)
    (read : u.hbmRead (lineOf l.pa) 64 = .ok bs)
    (empty : ∀ c, l.aq = false → (u.cl cl).a.l1Line l.pa l.va = some c → l.size = 0) : s.returned cl l (l.ofLine bs) (u.loadPlace cl l) := by
  simp only [State.loadPlace, place, pageOf, unsealed, Bool.false_eq_true, if_false]
  split
  · next c hit =>
    have plain : l.aq = false := by
      cases aq : l.aq with
      | false => rfl
      | true => rw [aq, if_pos rfl] at hit; cases hit
    have none_ : l.ofLine bs = l.ofLine c.data := by
      rw [plain, if_neg Bool.false_ne_true] at hit
      rw [Acc.ofLine, Acc.ofLine, empty c plain hit, List.take_zero, List.take_zero]
    rw [none_]
    exact State.returned_loaded lt task lines _
  · simp only [read]
    refine State.returned_loaded lt task (lines.trans ?_) _
    split
    · exact .onA u _
    · exact .l1Fill u _ _ _

end

section
variable {s : State} {cl : Nat} {l : Acc} {evict : Bool}
  (held : (s.runA cl).heldBack (s.openCmds cl l.scope (s.runCmds cl)) cl l (!l.aq) = false)
  (alone : l.aq = true ∨ (s.runA cl).forwarder l = none)
include held alone

/-- A load that nothing holds back and no store forwards to reads at its place. -/
theorem State.performLoad_reads (free : (l.place == .sp && s.spBlocked cl (some l.seq) false l.home l.spAddr l.size) = false) :
    s.performLoad cl l evict = (if evict && l.place == .hbm then s.onA cl fun a => a.l1Drop l.pa l.size else s).loadPlace cl l := by
  have nothing : (if l.aq then none else (s.runA cl).forwarder l) = none := by
    rcases alone with h | h
    · exact if_pos h
    · rw [h, ite_self]
  simp only [State.performLoad, held, free, nothing, Bool.or_self, Bool.false_eq_true, if_false]

variable (lt : l.dst < 64) (task : ∀ m ∈ (s.cl cl).a.stores, m.seq = l.seq → m.orphan = false)
include lt task

theorem State.returned_performLoad_sp (place : l.place = .sp) (free : s.spBlocked cl (some l.seq) false l.home l.spAddr l.size = false)
    (sound : s.spPoisoned l.home l.spAddr l.size = false) :
    s.returned cl l (ofBytes ((s.cl l.home).sp.read l.spAddr l.size)) (s.performLoad cl l evict) := by
  have step : s.performLoad cl l evict = s.loaded cl l (ofBytes ((s.cl l.home).sp.read l.spAddr l.size)) := by
    rw [State.performLoad_reads held alone (by rw [free, Bool.and_false]), if_neg (by simp [place]), State.loadPlace]
    simp only [place, sound, Bool.false_eq_true, if_false]
    rfl
  rw [step]
  exact State.returned_loaded lt task (.refl s) _

variable (place : l.place = .hbm)
include place

/-- A load that hits a line which stays returns the line's bytes. -/
theorem State.returned_performLoad_hit (ok : okPage s (l.pa / 65536)) (plain : l.aq = false) {c : CLine}
    (hit : (s.cl cl).a.l1Line l.pa l.va = some c) : s.returned cl l (l.ofLine c.data) (s.performLoad cl l false) := by
  have step : s.performLoad cl l false = s.loaded cl l (l.ofLine c.data) := by
    rw [State.performLoad_reads held alone (by simp [place]), if_neg (by simp), State.loadPlace]
    simp only [place, pageOf, ok.2.2, plain, hit, Bool.false_eq_true, if_false]
  rw [step]
  exact State.returned_loaded lt task (.refl s) _

/-- A load that misses, or whose line leaves before, returns the bytes of HBM. -/
theorem State.returned_performLoad_miss (ok : okPage s (l.pa / 65536)) (fits : l.pa % 64 + l.size ≤ 64) {home : Nat}
    (at_ : home = s.homeOf (l.pa / 65536) + l.pa % 65536)
    (miss : ∀ c, ¬ (l.aq = false ∧ evict = false ∧ (s.cl cl).a.l1Line l.pa l.va = some c))
    (sound : s.channelFailed (home / 64 * 64) = false) (clean : poisoned 64 s.hbmPoison (home / 64 * 64) 64 = false) :
    s.returned cl l (ofBytes (s.hbm.read home l.size)) (s.performLoad cl l evict) := by
  obtain ⟨k, whole⟩ := s.homeOf_dvd (l.pa / 65536)
  have value : l.ofLine (s.hbm.read (home / 64 * 64) 64) = ofBytes (s.hbm.read home l.size) := by
    rw [Acc.ofLine, Memory.read_of_line _ fits, show home / 64 * 64 + l.pa % 64 = home by omega]
  rw [State.performLoad_reads held alone (by simp [place]), ← value]
  cases evict with
  | false =>
    exact State.returned_loadPlace_hbm lt task place (.refl s) ok.2.2 (State.hbmRead_line ok at_ sound clean)
      fun c plain hit => absurd ⟨plain, rfl, hit⟩ (miss c)
  | true =>
    rw [if_pos (by simp [place])]
    refine State.returned_loadPlace_hbm lt task place (.onA s _) ok.2.2 (State.hbmRead_line (s := s.onA cl _) ok at_ sound clean) fun c _ hit => ?_
    rw [State.cl_onA_self] at hit
    have line : c.addr = lineOf l.pa := by
      have both := List.find?_some hit
      exact beq_iff_eq.mp (Bool.and_eq_true_iff.mp both).1
    have stays := (List.mem_filter.mp (List.mem_of_find?_eq_some hit)).2
    rw [line, lineOf] at stays
    simp at stays
    omega

end

theorem loadReturn : Clause.LoadReturn := by
  unfold Clause.LoadReturn
  intro s cl seq evict l found lt fresh taskSeq
  obtain rfl := Acc.seq_of_find? found
  obtain ⟨fixed, performs⟩ := exec_loadValueReturn found evict
  refine ⟨fun v some_ => ⟨_, fixed v some_, State.returned_returnValue lt taskSeq (.refl s) v⟩,
    fun pending load place held free alone sound =>
      ⟨_, performs pending load fresh, State.returned_performLoad_sp held alone lt taskSeq place free sound⟩,
    fun pending load place held alone ok fits => ⟨fun c hit => ?_, fun miss sound clean =>
      ⟨_, performs pending load fresh, State.returned_performLoad_miss held alone lt taskSeq place ok fits rfl miss sound clean⟩⟩⟩
  obtain ⟨plain, rfl, hit⟩ := hit
  exact ⟨_, performs pending load fresh, State.returned_performLoad_hit held alone lt taskSeq place ok plain hit⟩

/-! ### An access whose value is fixed, and one that leaves its queue (R51, R140, R293) -/

theorem State.SameSp.dropAcc (s : State) (cl seq : Nat) : s.SameSp (s.dropAcc cl seq) := fun m =>
  (congrArg (fun c : Cluster => c.sp) ((s.shedsStores_dropAcc cl seq).cluster m) :).trans (State.SameSp.onA s cl _ m)

theorem State.tw_dropAcc (s : State) (cl seq n : Nat) : ((s.dropAcc cl seq).cl n).tw = (s.cl n).tw := by
  refine (congrArg (fun c : Cluster => c.tw) ((s.shedsStores_dropAcc cl seq).cluster n) :).trans ?_
  show ((s.onA cl fun a => a.withoutAcc seq).cl n).tw = _
  rw [State.onA, State.cl_onCl]
  split
  · next h => rw [h]
  · rfl

theorem State.l1_dropAcc (s : State) (cl seq : Nat) : ((s.dropAcc cl seq).cl cl).a.l1 = (s.cl cl).a.l1 := by
  refine (congrArg (fun c : Cluster => c.a.l1) ((s.shedsStores_dropAcc cl seq).cluster cl) :).trans ?_
  show ((s.onA cl fun a => a.withoutAcc seq).cl cl).a.l1 = _
  rw [State.cl_onA_self]
  rfl

theorem State.stores_dropAcc (s : State) (cl seq : Nat) : ∀ m ∈ ((s.dropAcc cl seq).cl cl).a.stores, m.seq ≠ seq := fun m hm =>
  (s.dropAcc_spec cl seq).2.2 m (List.mem_append_right _ hm)

/-- What fixing the value of an access leaves, and does. -/
theorem State.fixValue_frame (s : State) (cl : Nat) {l : Acc} (v : Nat) (task : l.orphan = false) :
    SameBytes s (s.fixValue cl l v) ∧ s.SameSp (s.fixValue cl l v) ∧ (s.fixValue cl l v).hbm = s.hbm
      ∧ (∀ c ∈ ((s.fixValue cl l v).cl cl).a.l1, c ∈ (s.cl cl).a.l1)
      ∧ ∀ m ∈ (s.cl cl).a.stores, m.seq = l.seq → ∃ x ∈ ((s.fixValue cl l v).cl cl).a.stores, x.seq = l.seq ∧ x.val = some v := by
  let f (m : Acc) : Acc := if m.seq == l.seq then { m with val := some v } else m
  let t := s.onA cl fun a => { a with loads := a.loads.map f, stores := a.stores.map f }
  have t1 : (t.cl cl).a.l1 = (s.cl cl).a.l1 := by rw [s.cl_onA_self cl _]
  have fixed (m : Acc) (hm : m ∈ (s.cl cl).a.stores) (named : m.seq = l.seq) : ∃ x ∈ (t.cl cl).a.stores, x.seq = l.seq ∧ x.val = some v := by
    refine ⟨f m, ?_, ?_⟩
    · rw [s.cl_onA_self cl _]
      exact List.mem_map_of_mem hm
    · rw [show f m = { m with val := some v } from if_pos (beq_iff_eq.mpr named)]
      exact ⟨named, rfl⟩
  have step : s.fixValue cl l v = if l.aq && scopeWide l.scope then t.onA cl fun a => { a with l1 := [] } else t := by
    rw [State.fixValue, if_neg (by rw [task]; exact Bool.false_ne_true)]
    simp only [State.acquired]
    cases l.aq <;> rfl
  rw [step]
  split
  · refine ⟨.trans (.onA s cl _) (.onA t cl _), .trans (.onA s cl _) (.onA t cl _), rfl, fun c hc => ?_, fun m hm named => ?_⟩
    · rw [State.cl_onA_self] at hc
      cases hc
    · rw [State.cl_onA_self]
      exact fixed m hm named
  · exact ⟨.onA s cl _, .onA s cl _, rfl, fun c hc => t1 ▸ hc, fixed⟩

/-- The state from which a store or an atomic performs: it has left its queue. -/
def State.leaves (s : State) (cl : Nat) (l : Acc) : State := if l.left then s else s.leaveQueue cl l.seq

section
variable (s : State) (cl : Nat) (l : Acc)

theorem State.SameSp.leaves : s.SameSp (s.leaves cl l) := by
  rw [State.leaves]
  split
  · exact .refl s
  · exact .onA s cl _

theorem SameBytes.leaves : SameBytes s (s.leaves cl l) := by
  rw [State.leaves]
  split
  · exact .refl s
  · exact .onA s cl _

theorem State.hbm_leaves : (s.leaves cl l).hbm = s.hbm := by rw [State.leaves]; split <;> rfl

theorem State.spPoisoned_leaves : (s.leaves cl l).spPoisoned = s.spPoisoned := by rw [State.leaves]; split <;> rfl

theorem State.l1_leaves : ((s.leaves cl l).cl cl).a.l1 = (s.cl cl).a.l1 := by
  rw [State.leaves]
  split
  · rfl
  · rw [State.leaveQueue, State.cl_onA_self]

theorem State.stores_leaves {m : Acc} (hm : m ∈ (s.cl cl).a.stores) : ∃ x ∈ ((s.leaves cl l).cl cl).a.stores, x.seq = m.seq := by
  rw [State.leaves]
  split
  · exact ⟨m, hm, rfl⟩
  · rw [State.leaveQueue, State.cl_onA_self]
    refine ⟨_, List.mem_map_of_mem hm, ?_⟩
    split <;> rfl

end

section
variable {s : State} {cl seq : Nat} {l : Acc} (found : ((s.cl cl).a.stores.find? fun l => l.seq == seq && l.pending) = some l)
  (sent : s.fetchSent (.acc cl seq) = false) (held : s.storeHeld cl l = false)
  (free : (l.place == .sp && s.spBlocked cl (some l.seq) true l.home l.spAddr l.size) = false) (fresh : l.redo = false)
include found sent held free fresh

/-- A store or an atomic that the Vigil core matches and nothing holds back performs. -/
theorem exec_scalarStorePerform_performs (vig : l.vig = true) :
    exec (.scalarStorePerform cl seq true .agree) s = .next ((s.leaves cl l).storePlace cl { l with left := true }) := by
  have named := Acc.seq_of_find? found
  change execScalarStorePerform cl seq true .agree s = _
  simp only [execScalarStorePerform, found, sent, held, free, fresh, vig, Bool.or_self, Bool.false_eq_true, if_false, Bool.and_self, Bool.not_true]
  cases left : l.left with
  | true =>
    rw [if_pos rfl, State.leaves, if_pos left]
    cases l
    cases left
    rfl
  | false =>
    rw [if_neg Bool.false_ne_true, if_neg (by simp [cmpFails]), if_neg (by simp), State.leaves, left, if_neg Bool.false_ne_true, named]

/-- One that the Vigil core does not match is a divergence of the task on its cluster. -/
theorem exec_scalarStorePerform_diverges (queued : l.left = false) (own : l.late = none) (cmp : Cmp) :
    exec (.scalarStorePerform cl seq false cmp) s = .next (s.divergence cl .access l.pc.toNat) := by
  change execScalarStorePerform cl seq false cmp s = _
  simp only [execScalarStorePerform, found, sent, held, free, fresh, queued, own, Bool.or_self, Bool.false_eq_true, if_false, Bool.false_and,
    Bool.not_false, if_true, State.storeDiverges]

end

/-! ### Stores and atomics in a scratchpad (R160, R286, R293, R307) -/

/-- The `n` bytes of `v` have been stored at `a` of the scratchpad of cluster `c`, and no other byte of a scratchpad or of HBM differs. -/
def State.wroteSp (s : State) (c a n v : Nat) (t : State) : Prop :=
  (t.cl c).sp.read a n = toBytes n v ∧ (∀ b, b < a ∨ a + n ≤ b → (t.cl c).sp.byte b = (s.cl c).sp.byte b)
    ∧ (∀ m, m ≠ c → (t.cl m).sp = (s.cl m).sp) ∧ ∀ b, t.hbm.byte b = s.hbm.byte b

namespace State.wroteSp

variable {s t u : State} {c a n v : Nat}

theorem softWrite (same : s.SameSp u) (hbm : u.hbm = s.hbm) (sound : u.spPoisoned c a n = false) :
    s.wroteSp c a n v (u.softWrite c a (toBytes n v)) := by
  have len := length_toBytes n v
  have there : ((u.softWrite c a (toBytes n v)).cl c).sp = (s.cl c).sp.write a (toBytes n v) := by
    rw [State.cl_softWrite_sound (by rw [len]; exact sound), ← same c]
  refine ⟨?_, fun b outside => ?_, fun m hm => ?_, fun b => ?_⟩
  · have arrived := Memory.read_write_self (s.cl c).sp a (toBytes n v)
    rwa [len, ← there] at arrived
  · rw [there]
    exact Memory.byte_write_of_outside _ _ _ _ (by rwa [len])
  · rw [(State.WritesSp.softWrite u a _).others m hm, same m]
  · rw [State.hbm_softWrite, hbm]

theorem trans (h : s.wroteSp c a n v t) (same : t.SameSp u) (hbm : u.hbm = t.hbm) : s.wroteSp c a n v u := by
  obtain ⟨there, outside, others, bytes⟩ := h
  exact ⟨by rw [same c, there], fun b hb => by rw [same c, outside b hb], fun m hm => by rw [same m, others m hm], fun b => by rw [hbm, bytes b]⟩

theorem dropAcc (h : s.wroteSp c a n v t) (cl seq : Nat) : s.wroteSp c a n v (t.dropAcc cl seq) :=
  h.trans (.dropAcc t cl seq) (State.hbm_dropAcc t cl seq)

end State.wroteSp

theorem State.onWord_sound {s : State} {w : Nat × Nat} (sound : s.spPoisoned w.1 w.2 8 = false) (f : Nat → Nat) :
    s.onWord w f = s.softWrite w.1 w.2 (toBytes 8 (f (s.spReadN w.1 w.2 8))) := if_neg (by rw [sound]; exact Bool.false_ne_true)

section
variable {s u : State} (same : s.SameSp u) (hbm : u.hbm = s.hbm) {cl : Nat} {l : Acc}
include same hbm

/-- A write of a completion word performs. -/
theorem State.wroteSp_onWord (size : l.size = 8) (sound : u.spPoisoned l.home l.spAddr l.size = false) (f : Nat → Nat) :
    s.wroteSp l.home l.spAddr 8 (f (ofBytes ((s.cl l.home).sp.read l.spAddr l.size))) ((u.onWord (l.home, l.spAddr) f).dropAcc cl l.seq) := by
  have read : u.spReadN l.home l.spAddr 8 = ofBytes ((s.cl l.home).sp.read l.spAddr l.size) := by rw [State.spReadN, Memory.readN, same l.home, size]
  rw [size] at sound
  rw [State.onWord_sound sound, read]
  exact (State.wroteSp.softWrite same hbm sound).dropAcc _ _

variable (sound : u.spPoisoned l.home l.spAddr l.size = false) (word : l.word = none)
include sound word

/-- A store performs, and is outstanding no more. -/
theorem State.wroteSp_storeSp_store (op : l.op = none) :
    s.wroteSp l.home l.spAddr l.size l.data (u.storeSp cl l) ∧ ∀ m ∈ ((u.storeSp cl l).cl cl).a.stores, m.seq ≠ l.seq := by
  simp only [State.storeSp, word, op]
  exact ⟨(State.wroteSp.softWrite same hbm sound).dropAcc _ _, State.stores_dropAcc _ cl l.seq⟩

/-- An atomic performs, and its old value is fixed. -/
theorem State.wroteSp_storeSp_atomic {op : AmoOp} (isOp : l.op = some op) (task : l.orphan = false) (bytes : SameBytes s u) {m : Acc}
    (listed : m ∈ (u.cl cl).a.stores) (named : m.seq = l.seq) :
    let old := ofBytes ((s.cl l.home).sp.read l.spAddr l.size)
    (match amoNew op l.size old l.data l.exp with
      | some v => s.wroteSp l.home l.spAddr l.size v (u.storeSp cl l)
      | none => SameBytes s (u.storeSp cl l))
      ∧ ∃ x ∈ ((u.storeSp cl l).cl cl).a.stores, x.seq = l.seq ∧ x.val = some old := by
  intro old
  have read : u.spReadN l.home l.spAddr l.size = old := by
    rw [State.spReadN, Memory.readN, same l.home]
  simp only [State.storeSp, word, isOp, sound, read, Bool.false_eq_true, if_false]
  cases amoNew op l.size old l.data l.exp with
  | none =>
    obtain ⟨keeps, -, -, -, fixes⟩ := u.fixValue_frame cl old task
    exact ⟨bytes.trans keeps, fixes m listed named⟩
  | some v =>
    have writes := State.WritesSp.softWrite (cl := l.home) u l.spAddr (toBytes l.size v)
    obtain ⟨-, keeps, keepsHbm, -, fixes⟩ := (u.softWrite l.home l.spAddr (toBytes l.size v)).fixValue_frame cl old task
    exact ⟨(State.wroteSp.softWrite same hbm sound).trans keeps keepsHbm, fixes m (by rw [writes.core]; exact listed) named⟩

end

theorem storePerform : Clause.StorePerform := by
  unfold Clause.StorePerform
  intro s cl seq l found place own fresh tasks sent held
  dsimp only
  intro free vig sound
  obtain rfl := Acc.seq_of_find? found
  have listed := List.mem_of_find?_eq_some found
  have unblocked : (l.place == .sp && s.spBlocked cl (some l.seq) true l.home l.spAddr l.size) = false := by
    rw [show s.spBlocked cl (some l.seq) true l.home l.spAddr l.size = false from free, Bool.and_false]
  have step : exec (.scalarStorePerform cl l.seq true .agree) s = .next ((s.leaves cl l).storeSp cl { l with left := true }) := by
    rw [exec_scalarStorePerform_performs found sent held unblocked fresh vig, State.storePlace]
    simp only [place]
  have soundLeft : (s.leaves cl l).spPoisoned l.home l.spAddr l.size = false := by rw [State.spPoisoned_leaves]; exact sound
  have same : s.SameSp (s.leaves cl l) := .leaves s cl l
  have hbm := s.hbm_leaves cl l
  refine ⟨fun word op => ⟨_, step, State.wroteSp_storeSp_store (l := { l with left := true }) same hbm soundLeft word op⟩,
    fun op word isOp => ⟨_, step, ?_⟩,
    fun target err word size => ⟨_, step, ?_⟩, fun n err word size => ⟨_, step, ?_⟩,
    fun cmp queued => exec_scalarStorePerform_diverges found sent held unblocked fresh queued own cmp⟩
  · obtain ⟨m, member, is⟩ := s.stores_leaves cl l listed
    exact State.wroteSp_storeSp_atomic (l := { l with left := true }) same hbm soundLeft word isOp (tasks l listed rfl) (.leaves s cl l) member is
  · simp only [State.storeSp, word]
    exact State.wroteSp_onWord (l := { l with left := true }) same hbm size soundLeft fun w => wordSet w target
  · simp only [State.storeSp, word]
    exact State.wroteSp_onWord (l := { l with left := true }) same hbm size soundLeft fun w => arrive w n err

/-! ### Stores and atomics in local HBM (R140, R147, R293) -/

theorem SnapSt.of_not_isLive {x : SnapSt} (not : x.isLive = false) : x ≠ .armed ∧ x ≠ .pending ∧ x ≠ .live := by
  refine ⟨?_, ?_, ?_⟩ <;> (rintro rfl; cases not)

/-- The instants of a context without live snapshots change nothing outside it. -/
theorem State.reachAll_of_settled {s : State} {cid : Nat} (settled : ∀ i < 4, ((s.ctx cid).snap i).st.isLive = false) :
    s.reachAll cid = s.onCtx cid fun c => c.reachAll s.gtc 4 := by
  rw [State.reachAll_eq]
  refine List.foldlRecOn (motive := (· = s.onCtx cid fun c => c.reachAll s.gtc 4)) _ _ rfl fun t ht i hi => ?_
  obtain ⟨armed, pending, -⟩ := SnapSt.of_not_isLive (settled i (List.mem_range.mp hi))
  rw [ht, State.failStranded, State.ctx_onCtx, Ctx.snap_reachAll_of_not_due (by simp [Ctx.due, armed]), if_neg (by simp [State.strands, pending])]

/-- No write of a page whose owner holds no live snapshot is covered (R122). -/
theorem State.cover_of_settled {s : State} {p : Nat}
    (settled : tagOwner (s.tag p) = 0 ∨ ∀ i < 4, ((s.ctx (tagOwner (s.tag p))).snap i).st.isLive = false) (at_ : Nat) :
    ∃ tags ctxs, s.cover p at_ = .ok { s with tags := tags, ctxs := ctxs } ∧ tagMode (NMap.get 0 tags p) = tagMode (s.tag p) := by
  by_cases none_ : tagOwner (s.tag p) = 0
  · exact ⟨s.tags, s.ctxs, if_pos none_, rfl⟩
  · have closed := settled.resolve_left none_
    let cid := tagOwner (s.tag p)
    let u := s.reachAll cid
    have uncovered : ((List.range 4).filter fun i => (((u.ctx cid).snap i).st == .live || ((u.ctx cid).snap i).st == .pending)
        && decide (((u.ctx cid).snap i).t ≤ at_) && decide (tagGen (u.tag p) ≤ ((u.ctx cid).snap i).gen)) = [] := by
      rw [List.filter_eq_nil_iff]
      intro i hi
      obtain ⟨armed, pending, live⟩ := SnapSt.of_not_isLive (closed i (List.mem_range.mp hi))
      rw [State.snap_reachAll_of_closed (List.mem_range.mp hi) armed pending]
      simp [live, pending]
    have step : s.cover p at_ = .ok (u.setTag p (setBits (u.tag p) 47 16 ((u.ctx cid).genAt at_))) := by
      rw [State.cover, if_neg none_]
      dsimp only
      rw [if_pos (by rw [List.isEmpty_iff]; exact uncovered)]
    rw [show u = _ from State.reachAll_of_settled closed] at step
    refine ⟨_, _, step, ?_⟩
    rw [NMap.get_set_self, tagMode, bits_setBits_above _ _ (by decide) (by decide)]
    rfl

/-- A write of a page that stores its writes in place stores its bytes, and no core sees another change. -/
theorem State.hbmWrite_plain {s : State} {pa : Nat} {bs : List Byte} (plain : plainPage s (pa / 65536)) (some_ : 0 < bs.length)
    (sound : s.channelFailed pa = false) (clean : poisoned 64 s.hbmPoison pa bs.length = false) :
    ∃ u, s.hbmWrite pa bs = .ok u ∧ u.hbm = s.hbm.write pa bs ∧ ∀ n, u.cl n = s.cl n := by
  obtain ⟨⟨stays, online, unsealed⟩, inPlace, settled⟩ := plain
  obtain ⟨tags, ctxs, covered, mode⟩ := State.cover_of_settled settled s.gtc
  let v : State := { s with tags := tags, ctxs := ctxs }
  have home : v.homeOf (pa / 65536) + pa % 65536 = pa := by
    rw [State.homeOf_plain (s := v) (mode.trans inPlace)]
    omega
  have missing : pa / 64 ∉ s.hbmPoison := not_mem_of_not_poisoned (u := 64) (by decide) clean (le_refl pa) (by omega)
  have stored : v.storeChunk pa bs = ({ v with hbm := s.hbm.write pa bs } : State).overtake fun u => u == .hbm (pa / 64) := by
    rw [State.storeChunk, if_neg (by rw [show v.channelFailed pa = false from sound]; exact Bool.false_ne_true)]
    rw [writeChunk, if_neg (by simpa using missing)]
  have step : s.hbmWrite pa bs = .ok ((v.storeChunk pa bs).dirtySector pa) := by
    simp only [State.hbmWrite, pageOf, unsealed, inPlace, covered, Bool.false_eq_true, if_false, OfNat.zero_ne_ofNat, Nat.zero_ne_one]
    show HbmRes.ok ((v.storeChunk (v.homeOf (pa / 65536) + pa % 65536) bs).dirtySector pa) = _
    rw [home]
  refine ⟨_, step, ?_, fun n => ?_⟩
  · rw [State.dirtySector_frame, stored]
    rfl
  · rw [State.dirtySector_frame, stored]
    rfl

/-- The `n` bytes of `v` have been stored at `pa` of HBM, and no other byte of HBM, of a scratchpad or of a tower differs. -/
def State.wroteHbm (s : State) (pa n v : Nat) (t : State) : Prop :=
  t.hbm.read pa n = toBytes n v ∧ (∀ b, b < pa ∨ pa + n ≤ b → t.hbm.byte b = s.hbm.byte b)
    ∧ ∀ n b, (t.cl n).sp.byte b = (s.cl n).sp.byte b ∧ (t.cl n).tw.byte b = (s.cl n).tw.byte b

theorem State.wroteHbm_of_write {s t : State} {pa n v : Nat} (hbm : t.hbm = s.hbm.write pa (toBytes n v))
    (others : ∀ m b, (t.cl m).sp.byte b = (s.cl m).sp.byte b ∧ (t.cl m).tw.byte b = (s.cl m).tw.byte b) : s.wroteHbm pa n v t := by
  have len := length_toBytes n v
  refine ⟨?_, fun b outside => ?_, others⟩
  · have arrived := Memory.read_write_self s.hbm pa (toBytes n v)
    rwa [len, ← hbm] at arrived
  · rw [hbm]
    exact Memory.byte_write_of_outside _ _ _ _ (by rwa [len])

/-- The bytes of a line that a store within it has written. -/
theorem patch_within {data bs : List Byte} {k : Nat} (full : data.length = 64) (fits : k + bs.length ≤ 64) :
    ((patch data k bs).drop k).take bs.length = bs := by
  have len : (data.take k).length = k := List.length_take_of_le (by omega)
  rw [patch, List.append_assoc, List.drop_left' len, List.take_left']
  rfl

section
variable {s u : State} {cl : Nat} {l : Acc} (plain : plainPage u (l.pa / 65536))
  (sound : u.channelFailed l.pa = false) (clean : poisoned 64 u.hbmPoison l.pa l.size = false) (some_ : 0 < l.size)
  (bytes : SameBytes s u) (hbm : u.hbm = s.hbm)
include plain sound clean some_ bytes hbm

/-- A store performs: it leaves the core, and the line of its cluster's L1 that holds it has its bytes. -/
theorem State.wroteHbm_storeHbm_store (op : l.op = none) (own : l.late = none) (fits : l.pa % 64 + l.size ≤ 64)
    (lines : ∀ c ∈ (u.cl cl).a.l1, c.data.length = 64) :
    s.wroteHbm l.pa l.size l.data (u.storeHbm cl l) ∧ (∀ m ∈ ((u.storeHbm cl l).cl cl).a.stores, m.seq ≠ l.seq)
      ∧ ∀ c ∈ ((u.storeHbm cl l).cl cl).a.l1, c.addr = l.pa / 64 * 64 → (c.data.drop (l.pa % 64)).take l.size = toBytes l.size l.data := by
  have len := length_toBytes l.size l.data
  obtain ⟨w, written, wHbm, wCl⟩ := State.hbmWrite_plain (bs := toBytes l.size l.data) plain (by omega) sound (by rw [len]; exact clean)
  have opened : u.closed (pageOf l.pa) = false := by rw [State.closed, pageOf, plain.2.1]; rfl
  have step : u.storeHbm cl l = (w.onA cl fun a => a.l1Update l.pa (toBytes l.size l.data)).dropAcc cl l.seq := by
    simp only [State.storeHbm, op, written, opened, Bool.false_eq_true, if_false, State.storeLines, own, Option.bind_none]
  rw [step]
  refine ⟨State.wroteHbm_of_write ?_ fun m b => ⟨?_, ?_⟩, State.stores_dropAcc _ cl l.seq, fun c hc at_ => ?_⟩
  · rw [State.hbm_dropAcc, ← hbm]
    exact wHbm
  · rw [State.SameSp.dropAcc _ cl l.seq m, State.SameSp.onA w cl _ m, wCl]
    exact (bytes.2.2 m b).1
  · rw [State.tw_dropAcc, ← (bytes.2.2 m b).2, ← wCl m]
    exact ((SameBytes.onA w cl _).2.2 m b).2
  · rw [State.l1_dropAcc, State.cl_onA_self, wCl] at hc
    obtain ⟨c, member, rfl⟩ := List.mem_map.mp hc
    have line : c.addr = lineOf l.pa := by
      split at at_
      · exact at_
      · exact at_
    rw [if_pos (beq_iff_eq.mpr line)]
    have patched := patch_within (bs := toBytes l.size l.data) (lines c member) (k := l.pa % 64) (by rw [len]; exact fits)
    rwa [len] at patched

/-- An atomic performs: its old value is fixed, and its line is not in its cluster's L1 any more. -/
theorem State.wroteHbm_storeHbm_atomic {op : AmoOp} (isOp : l.op = some op) (task : l.orphan = false) {m : Acc}
    (listed : m ∈ (u.cl cl).a.stores) (named : m.seq = l.seq) :
    let old := ofBytes (s.hbm.read l.pa l.size)
    (match amoNew op l.size old l.data l.exp with
      | some v => s.wroteHbm l.pa l.size v (u.storeHbm cl l)
      | none => SameBytes s (u.storeHbm cl l))
      ∧ (∃ x ∈ ((u.storeHbm cl l).cl cl).a.stores, x.seq = l.seq ∧ x.val = some old)
      ∧ ∀ c ∈ ((u.storeHbm cl l).cl cl).a.l1, c.addr ≠ l.pa / 64 * 64 := by
  intro old
  have home : u.homeOf (l.pa / 65536) + l.pa % 65536 = l.pa := by
    rw [State.homeOf_plain plain.2.1]
    omega
  have read : u.hbmRead l.pa l.size = .ok (s.hbm.read l.pa l.size) := by
    rw [State.hbmRead_ok plain.1 (by rw [home]; exact sound) (by rw [home]; exact clean), home, hbm]
  let t := u.onA cl fun a => a.l1Drop l.pa l.size
  have listedT : m ∈ (t.cl cl).a.stores := by rw [u.cl_onA_self cl _]; exact listed
  have gone : ∀ c ∈ (t.cl cl).a.l1, c.addr ≠ l.pa / 64 * 64 := by
    intro c hc at_
    rw [u.cl_onA_self cl _] at hc
    have stays := (List.mem_filter.mp hc).2
    simp [at_] at stays
    omega
  cases new : amoNew op l.size old l.data l.exp with
  | none =>
    have step : u.storeHbm cl l = t.fixValue cl l old := by simp only [State.storeHbm, isOp, read, new, old, t]
    obtain ⟨keeps, -, -, lines, fixes⟩ := t.fixValue_frame cl old task
    rw [step]
    exact ⟨(bytes.trans (.onA u cl _)).trans keeps, fixes m listedT named, fun c hc => gone c (lines c hc)⟩
  | some v =>
    have len := length_toBytes l.size v
    obtain ⟨w, written, wHbm, wCl⟩ := State.hbmWrite_plain (s := t) (bs := toBytes l.size v) plain (by omega) sound (by rw [len]; exact clean)
    have step : u.storeHbm cl l = w.fixValue cl l old := by
      simp only [State.storeHbm, isOp, read, new, old]
      rw [written]
    obtain ⟨keeps, -, keepsHbm, lines, fixes⟩ := w.fixValue_frame cl old task
    rw [step]
    refine ⟨State.wroteHbm_of_write ?_ fun m b => ⟨?_, ?_⟩, fixes m (by rw [wCl]; exact listedT) named,
      fun c hc => gone c (wCl cl ▸ lines c hc)⟩
    · rw [keepsHbm, wHbm, ← hbm]
      rfl
    · rw [(keeps.2.2 m b).1, wCl]
      exact ((bytes.trans (.onA u cl _)).2.2 m b).1
    · rw [(keeps.2.2 m b).2, wCl]
      exact ((bytes.trans (.onA u cl _)).2.2 m b).2

end

section
variable (s : State) (cl : Nat) (l : Acc)

theorem State.plainPage_leaves {p : Nat} (plain : plainPage s p) : plainPage (s.leaves cl l) p := by
  rw [State.leaves]
  split
  · exact plain
  · exact plain

theorem State.channelFailed_leaves : (s.leaves cl l).channelFailed = s.channelFailed := by rw [State.leaves]; split <;> rfl

theorem State.hbmPoison_leaves : (s.leaves cl l).hbmPoison = s.hbmPoison := by rw [State.leaves]; split <;> rfl

end

theorem hbmStorePerform : Clause.HbmStorePerform := by
  unfold Clause.HbmStorePerform
  intro s cl seq l found place own fresh tasks sent held vig plain fits sound clean some_ lines
  dsimp only
  obtain rfl := Acc.seq_of_find? found
  have listed := List.mem_of_find?_eq_some found
  have step : exec (.scalarStorePerform cl l.seq true .agree) s = .next ((s.leaves cl l).storeHbm cl { l with left := true }) := by
    rw [exec_scalarStorePerform_performs found sent held (by simp [place]) fresh vig, State.storePlace]
    simp only [place]
  have plainLeft := s.plainPage_leaves cl l plain
  have soundLeft : (s.leaves cl l).channelFailed l.pa = false := by rw [State.channelFailed_leaves]; exact sound
  have cleanLeft : poisoned 64 (s.leaves cl l).hbmPoison l.pa l.size = false := by rw [State.hbmPoison_leaves]; exact clean
  refine ⟨fun op => ⟨_, step, ?_⟩, fun op isOp => ⟨_, step, ?_⟩⟩
  · exact State.wroteHbm_storeHbm_store (l := { l with left := true }) plainLeft soundLeft cleanLeft some_ (.leaves s cl l)
      (s.hbm_leaves cl l) op own fits (by rw [State.l1_leaves]; exact lines)
  · obtain ⟨m, member, is⟩ := s.stores_leaves cl l listed
    exact State.wroteHbm_storeHbm_atomic (l := { l with left := true }) plainLeft soundLeft cleanLeft some_ (.leaves s cl l) (s.hbm_leaves cl l) isOp
      (tasks l listed rfl) member is

/-- Settles O14: loads, and stores and atomics of the scratchpad and of HBM. -/
theorem loadsReturnStoresPerform : Obligations.LoadsReturnStoresPerform := ⟨loadReturn, storePerform, hbmStorePerform⟩

end Sys2Proof.Machine
end

section
/-! PROOFS. Nodes across chips: the start barrier, replicas forwarded and reported, and the replacement of code (R203, R204, R395, R408, R409,
R411). -/

namespace Sys2Proof.Machine
open Sys2Proof

/-! ### Node table and host queues -/

theorem State.node?_onNode (s : State) (e : Nat) (f : Node → Node) (j : Nat) :
    (s.onNode e f).node? j = if j = e then (s.node? e).map f else s.node? j := by
  split
  · next same => rw [same, s.node?_onNode_self]
  · next other =>
    simp only [State.onNode]
    split
    · rfl
    · exact NMap.get_set_ne _ _ other

theorem State.disp_send (s : State) (dst : Nat) (msg : Msg) (src : Nat) : (s.send dst msg src).disp = s.disp := by
  simp only [State.send, State.sendOn]
  split
  · rfl
  · split
    · rfl
    · split <;> rfl

theorem State.disp_foldl_send {α : Type} (s : State) (dst src : α → Nat) (msg : α → Msg) (l : List α) :
    (l.foldl (fun s a => s.send (dst a) (msg a) (src a)) s).disp = s.disp :=
  List.foldlRecOn (motive := fun t : State => t.disp = s.disp) l _ rfl fun _ same _ _ => (State.disp_send _ _ _ _).trans same

theorem State.pool_onNode (s : State) (e : Nat) (f : Node → Node) : (s.onNode e f).disp.pool = s.disp.pool := by
  simp only [State.onNode]
  split <;> rfl

theorem State.queue_setQueue_self (s : State) (q : Nat) (v : Queue) : (s.setQueue q v).queue q = v := NMap.get_set_self _ _ _

/-- What a queue reads after a change of every queue that leaves a queue after reset as it is. -/
theorem State.queue_mapQueues (s : State) (f : Queue → Queue) (h : f Queue.reset = Queue.reset) (q : Nat) :
    ({ s with queues := NMap.mapVals Queue.reset (fun _ v => f v) s.queues } : State).queue q = f (s.queue q) :=
  NMap.get_mapVals s.queues (fun _ => f) (fun _ => h) q

/-! ### The ready pool (R398) -/

/-- A node with its number in the pool and its waiting time left out of account. -/
def Node.besidePool (n : Node) : Node := { n with poolSeq := 0, waitFrom := 0 }

/-- `t` has the pool of `s`, and its nodes but for their numbers in the pool and their waiting times. -/
structure State.KeepsNodes (s t : State) : Prop where
  pool : t.disp.pool = s.disp.pool
  nodes : ∀ e, (t.node? e).map Node.besidePool = (s.node? e).map Node.besidePool

theorem State.KeepsNodes.onNode (s : State) (e : Nat) (f : Node → Node) (same : ∀ n, (f n).besidePool = n.besidePool) :
    s.KeepsNodes (s.onNode e f) where
  pool := s.pool_onNode e f
  nodes j := by
    rw [s.node?_onNode]
    split
    · next here => simp [here, Option.map_map, Function.comp_def, same]
    · rfl

theorem State.KeepsNodes.trans {s t u : State} (h : s.KeepsNodes t) (k : t.KeepsNodes u) : s.KeepsNodes u :=
  ⟨k.pool.trans h.pool, fun e => (k.nodes e).trans (h.nodes e)⟩

theorem State.KeepsNodes.fillPool (s : State) : s.KeepsNodes s.fillPool := by
  refine List.foldlRecOn _ _ ⟨rfl, fun _ => rfl⟩ fun t same e _ => ?_
  have numbered : t.KeepsNodes (t.onNode e fun n => { n with poolSeq := t.disp.poolNext, waitFrom := t.gtc }) := .onNode t e _ fun _ => rfl
  dsimp only
  split
  · split
    · exact same.trans ⟨numbered.pool, numbered.nodes⟩
    · exact same
  · exact same

/-! ### The start barrier (R203, R204) -/

theorem State.gtc_onNode (s : State) (e : Nat) (f : Node → Node) : (s.onNode e f).gtc = s.gtc := by
  simp only [State.onNode]
  split <;> rfl

/-- A START that goes out leaves its generation and its instant in the entry of a node at the barrier. -/
theorem State.node?_launch {s : State} {e : Nat} {n : Node} (found : s.node? e = some n) (barrier : n.st = .barrier) (lead : Nat) :
    (s.launch e lead).node? e
      = some { n with gen := s.dev.chip * 2 ^ 26 + (s.disp.launches + 1) % 2 ^ 26, ts := s.gtc + lead, started := true } := by
  simp only [State.launch, found]
  rw [State.node?, State.disp_foldl_send]
  refine (State.node?_onNode_self _ e _).trans ?_
  have kept : ({ s with disp := { s.disp with launches := (s.disp.launches + 1) % 2 ^ 26 } } : State).node? e = some n := found
  rw [kept, Option.map_some, barrier]
  rfl

theorem State.node?_dropRecords (s : State) (rs : List Susp) (e : Nat) : (s.dropRecords rs).node? e = s.node? e :=
  List.foldlRecOn (motive := fun t : State => t.node? e = s.node? e) rs _ rfl fun _ same _ _ => same

theorem State.node?_leavePool_self (s : State) (e : Nat) : (s.leavePool e).node? e = (s.node? e).map fun n => { n with poolSeq := 0 } :=
  s.node?_onNode_self e _

/-- A node at the barrier that fails keeps its entry, with the status (R409). -/
theorem State.failing_fail1 {s : State} {e : Nat} {n : Node} (found : s.node? e = some n) (sound : n.failing = 0) (barrier : n.st = .barrier)
    (status : Nat) : ∃ k, (s.fail1 e status).node? e = some k ∧ k.failing = status := by
  simp only [State.fail1, found, sound, barrier, bne_self_eq_false, Bool.false_eq_true, if_false]
  rw [State.node?_leavePool_self, State.node?_onNode_self, State.node?_dropRecords, State.node?_dropLate, found]
  exact ⟨_, rfl, rfl⟩

section
variable {node chip e : Nat} {s : State} {n : Node} (found : s.node? e = some n)
include found

theorem readyMessage (entry : s.entryOf node = some e) :
    let m := n.readyMask ||| chipBit chip
    ∃ t k, exec (.readyMsg node chip) s = .next t ∧ t.node? e = some k ∧ k.readyMask = m
      ∧ (m &&& n.chipmask = n.chipmask → n.started = false → n.st = .barrier → k.started = true ∧ k.ts = s.gtc + 50000)
      ∧ (m &&& n.chipmask ≠ n.chipmask → k = { n with readyMask := m }) := by
  intro m
  have step : exec (.readyMsg node chip) s = .next (s.ready1 e chip) := by
    show execReadyMsg node chip s = _
    rw [execReadyMsg, entry]
  have noted : (s.onNode e fun n => { n with readyMask := m }).node? e = some { n with readyMask := m } := by
    rw [State.node?_onNode_self, found]
    rfl
  by_cases goes : m &&& n.chipmask = n.chipmask ∧ n.started = false ∧ n.st = .barrier
  · obtain ⟨all, fresh, barrier⟩ := goes
    have launches : s.ready1 e chip = (s.onNode e fun n => { n with readyMask := m }).launch e 50000 := by
      simp only [State.ready1, found]
      rw [if_pos (by simp [m, all, fresh, barrier])]
    rw [launches] at step
    refine ⟨_, _, step, State.node?_launch noted barrier 50000, rfl, fun _ _ _ => ⟨rfl, by rw [s.gtc_onNode]⟩, fun no => absurd all no⟩
  · have notes : s.ready1 e chip = s.onNode e fun n => { n with readyMask := m } := by
      simp only [State.ready1, found]
      rw [if_neg (by simpa [m, and_assoc] using goes)]
    rw [notes] at step
    exact ⟨_, _, step, noted, rfl, fun all fresh barrier => absurd ⟨all, fresh, barrier⟩ goes, fun _ => rfl⟩

theorem startMessage {g ts : Nat} (replica : s.replicaOf (g / 2 ^ 26 % 64) node = some e) (barrier : n.st = .barrier) :
    (ts < s.gtc + 1000 → exec (.startMsg node g ts) s = .next (s.send (g / 2 ^ 26 % 64) (.startRefused node)))
      ∧ (s.gtc + 1000 ≤ ts → ∃ t, exec (.startMsg node g ts) s = .next t ∧ t.node? e = some { n with gen := g, ts := ts, started := true }) := by
  have waits : ((s.node? e).all fun n => n.st != .barrier) = false := by simp [found, barrier]
  have step : exec (.startMsg node g ts) s
      = if ts < s.gtc + 1000 then .next (s.send (g / 2 ^ 26 % 64) (.startRefused node))
        else .next (s.onNode e fun n => { n with gen := g, ts := ts, started := true }) := by
    show execStartMsg node g ts s = _
    simp only [execStartMsg, replica, waits, Bool.false_eq_true, if_false]
  refine ⟨fun late => by rw [step, if_pos late], fun early => ⟨_, by rw [step, if_neg (Nat.not_lt.mpr early)], ?_⟩⟩
  rw [State.node?_onNode_self, found]
  rfl

theorem startRefusal (entry : s.entryOf node = some e) (named : n.chipmask.getLsbD chip = true) (barrier : n.st = .barrier) :
    (n.refusals = 0 → ∃ t k, exec (.startRefusalMsg node chip) s = .next t ∧ t.node? e = some k ∧ k.refusals = 1 ∧ k.ts = s.gtc + 100000)
      ∧ (n.refusals ≠ 0 → n.failing = 0 → exec (.startRefusalMsg node chip) s = .next (s.failNode e 0x52)
          ∧ ∃ k, (s.fail1 e 0x52).node? e = some k ∧ k.failing = 0x52) := by
  have step : exec (.startRefusalMsg node chip) s
      = if n.refusals = 0 then .next ((s.onNode e fun n => { n with refusals := 1 }).launch e 100000) else .next (s.failNode e 0x52) := by
    show execStartRefusalMsg node chip s = _
    simp only [execStartRefusalMsg, entry, found, named, Bool.not_true, Bool.false_eq_true, if_false]
  have noted : (s.onNode e fun n => { n with refusals := 1 }).node? e = some { n with refusals := 1 } := by
    rw [State.node?_onNode_self, found]
    rfl
  exact ⟨fun first => ⟨_, _, by rw [step, if_pos first], State.node?_launch noted barrier 100000, rfl, by rw [s.gtc_onNode]⟩,
    fun again sound => ⟨by rw [step, if_neg again], State.failing_fail1 found sound barrier 0x52⟩⟩

theorem startInstant (barrier : n.st = .barrier) (started : n.started = true) (sound : n.failing = 0) :
    (n.ts ≤ s.gtc → ∃ t k, exec (.startInstant e) s = .next t ∧ t.node? e = some k ∧ k.st = .ready ∧ t.disp.pool = s.disp.pool ++ [e])
      ∧ (s.gtc < n.ts → exec (.startInstant e) s = .next s) := by
  have step : exec (.startInstant e) s = if n.ts ≤ s.gtc then .next (s.makeReady e) else .next s := by
    show execStartInstant e s = _
    simp [execStartInstant, found, barrier, started, sound]
  refine ⟨fun now => ?_, fun early => by rw [step, if_neg (Nat.not_le.mpr early)]⟩
  have ready : (s.onNode e fun n => { n with st := .ready }).node? e = some { n with st := .ready } := by
    rw [State.node?_onNode_self, found]
    rfl
  let u := s.onNode e fun n => { n with st := .ready }
  have kept : ({ u with disp := { u.disp with pool := u.disp.pool ++ [e] } } : State).KeepsNodes (s.makeReady e) := .fillPool _
  have entry := kept.nodes e
  rw [show State.node? { u with disp := { u.disp with pool := u.disp.pool ++ [e] } } e = _ from ready] at entry
  obtain ⟨k, hk, same⟩ := Option.map_eq_some_iff.mp entry
  have state : k.st = .ready := congrArg Node.st same
  exact ⟨_, k, by rw [step, if_pos now], hk, state, kept.pool.trans (congrArg (· ++ [e]) (s.pool_onNode e _))⟩

theorem replicaReport (entry : s.entryOf node = some e) (own : n.origin = s.dev.chip) (named : n.chipmask.getLsbD chip = true)
    (fresh : n.reports.getLsbD chip = false) (tasks : Nat) :
    let u := s.onNode e fun n => { n with reports := n.reports ||| chipBit chip, reportTasks := n.reportTasks + tasks }
    exec (.replicaReportMsg node chip tasks .done) s = .next (u.completeNode e)
      ∧ exec (.replicaReportMsg node chip tasks .failed) s = .next (u.failNode e 0x55)
      ∧ u.node? e = some { n with reports := n.reports ||| chipBit chip, reportTasks := n.reportTasks + tasks } := by
  have taken : (n.origin != s.dev.chip || !n.chipmask.getLsbD chip || n.reports.getLsbD chip) = false := by simp [own, named, fresh]
  refine ⟨?_, ?_, by rw [State.node?_onNode_self, found]; rfl⟩
  · show execReplicaReportMsg node chip tasks .done s = _
    simp only [execReplicaReportMsg, entry, found, taken, Bool.false_eq_true, if_false, reduceCtorEq]
  · show execReplicaReportMsg node chip tasks .failed s = _
    simp only [execReplicaReportMsg, entry, found, taken, Bool.false_eq_true, if_false, if_true]

theorem replacementMessage {src tr a x : Nat} (replica : s.replicaOf src node = some e) :
    ∃ t, exec (.replacementInstantMsg ⟨src, node⟩ tr a x) s = .next t ∧ t.node? e = some { n with repls := n.repls ++ [(tr, a, x)] } := by
  refine ⟨s.setRepl e tr a x, ?_, by rw [State.setRepl, State.node?_onNode_self, found]; rfl⟩
  show execReplacementInstantMsg ⟨src, node⟩ tr a x s = _
  simp only [execReplacementInstantMsg, replica]

theorem replacementInstant {tr a x : Nat} (one : n.repls = [(tr, a, x)]) :
    ∃ t, exec (.replacementInstant e) s = .next t
      ∧ t.node? e = some (if tr ≤ s.gtc then { n with aentry := a, xentry := x, repls := [] } else n) := by
  refine ⟨_, rfl, ?_⟩
  rw [State.node?_onNode_self, found, Option.map_some, one]
  by_cases now : tr ≤ s.gtc
  · simp [Node.entries, one, now]
  · have later : [(tr, a, x)].filter (fun r => decide (s.gtc < r.1)) = n.repls := by simp [one, Nat.not_le.mp now]
    simp only [Node.entries, one, List.foldl_cons, List.foldl_nil, if_neg now, later]
    rw [← one]

end

/-! ### Nodes forwarded (R395, R411) -/

section
variable {src node q : Nat} {desc : List Nat} {s : State}

/-- A replacement that finds no replica reaches those that wait in the host queues. -/
theorem replacementForward (none : s.replicaOf src node = none) (tr a x : Nat) (q : Nat) :
    ∃ t, exec (.replacementInstantMsg ⟨src, node⟩ tr a x) s = .next t
      ∧ (t.queue q).fwds = (s.queue q).fwds.map fun f => if f.src = src ∧ f.id = node then { f with repls := f.repls ++ [(tr, a, x)] } else f := by
  have step : exec (.replacementInstantMsg ⟨src, node⟩ tr a x) s = .next { s with queues := NMap.mapVals Queue.reset (fun _ q =>
      { q with fwds := q.fwds.map fun f => if f.src == src && f.id == node then { f with repls := f.repls ++ [(tr, a, x)] } else f }) s.queues } := by
    show execReplacementInstantMsg ⟨src, node⟩ tr a x s = _
    simp only [execReplacementInstantMsg, none]
  refine ⟨_, step, ?_⟩
  rw [State.queue_mapQueues s _ rfl]
  simp only [Bool.and_eq_true, beq_iff_eq]

/-- A host queue that holds a replica of a node, and nothing else of other chips, as it arrives. -/
def Queue.holding (v : Queue) (src node : Nat) (desc : List Nat) : Queue :=
  { v with fwds := [{ mark := v.tail, src := src, id := node, desc := ofDwords desc, repls := [] }] }

theorem exec_nodeForwardMsg (none : s.replicaOf src node = none) (empty : (s.queue q).fwds = []) :
    exec (.nodeForwardMsg src node q desc) s = .next ((s.setQueue q ((s.queue q).holding src node desc)).takeForward q 1) := by
  show execNodeForwardMsg src node q desc s = _
  simp only [execNodeForwardMsg, none, empty, Option.isSome_none, List.any_nil, Bool.or_false, Bool.false_eq_true, if_false, List.nil_append,
    List.length_nil]
  rfl

/-- A host queue takes its first replica once its place has come and the table has room, and then the next (R395). -/
theorem State.takeForward_succ (s : State) (q n : Nat) : s.takeForward q (n + 1) =
    match (s.queue q).fwds with
    | [] => s
    | f :: fs =>
      if (s.queue q).en && f.mark != (s.queue q).head then s
      else match s.acceptNode f.desc q f.src f.id with
        | .none => s
        | some (_, t) =>
          match (t.setQueue q { t.queue q with fwds := fs }).replicaOf f.src f.id with
          | some e =>
            (((t.setQueue q { t.queue q with fwds := fs }).onNode e fun n => { n with repls := f.repls }).wakeNodes.failFenced e).takeForward q n
          | .none => (t.setQueue q { t.queue q with fwds := fs }).takeForward q n := by
  -- Unfolded by `rfl`, the search of the table would run through its 4,096 entries.
  delta State.takeForward State.takeForward._f
  generalize State.acceptNode = accept
  rfl

/-- The first replica of a host queue waits for its place (R395). -/
theorem State.takeForward_waits {f : Fwd} {fs : List Fwd} (held : (s.queue q).fwds = f :: fs) (on : (s.queue q).en = true)
    (waits : f.mark ≠ (s.queue q).head) (n : Nat) : s.takeForward q (n + 1) = s := by
  simp only [State.takeForward_succ, held, on, bne_iff_ne.mpr waits, Bool.and_self, if_true]

/-- The first replica of a host queue waits for room in the table (R395). -/
theorem State.takeForward_full {f : Fwd} {fs : List Fwd} (held : (s.queue q).fwds = f :: fs)
    (full : s.acceptNode f.desc q f.src f.id = .none) (n : Nat) : s.takeForward q (n + 1) = s := by
  simp only [State.takeForward_succ, held, full, ite_self]

/-- The first replica of a host queue enters the table once its place has come (R395). -/
theorem State.takeForward_takes {t : State} {f : Fwd} {fs : List Fwd} {id e : Nat} (held : (s.queue q).fwds = f :: fs)
    (comes : (s.queue q).en = false ∨ f.mark = (s.queue q).head) (taken : s.acceptNode f.desc q f.src f.id = some (id, t))
    (replica : (t.setQueue q { t.queue q with fwds := fs }).replicaOf f.src f.id = some e) (n : Nat) :
    s.takeForward q (n + 1)
      = (((t.setQueue q { t.queue q with fwds := fs }).onNode e fun n => { n with repls := f.repls }).wakeNodes.failFenced e).takeForward q n := by
  have now : ((s.queue q).en && f.mark != (s.queue q).head) = false := by rcases comes with h | h <;> simp [h]
  simp only [State.takeForward_succ, held, now, Bool.false_eq_true, if_false, taken, replica]

theorem nodeForward (none : s.replicaOf src node = none) (empty : (s.queue q).fwds = []) :
    let v := s.queue q
    let held := v.holding src node desc
    let accepted := (s.setQueue q held).acceptNode (ofDwords desc) q src node
    (v.en = false ∨ v.tail = v.head → ∀ id t e n, accepted = some (id, t) → (t.setQueue q { t.queue q with fwds := [] }).replicaOf src node = some e →
        t.node? e = some n → n.repls = [] →
        exec (.nodeForwardMsg src node q desc) s =
          .next ((((t.setQueue q { t.queue q with fwds := [] }).onNode e fun n => { n with repls := [] }).wakeNodes).failFenced e))
      ∧ (accepted = .none → exec (.nodeForwardMsg src node q desc) s = .next (s.setQueue q held))
      ∧ (v.en = true → v.tail ≠ v.head → exec (.nodeForwardMsg src node q desc) s = .next (s.setQueue q held)) := by
  intro v held accepted
  have same : (s.setQueue q held).queue q = held := s.queue_setQueue_self q held
  have one : ((s.setQueue q held).queue q).fwds = _ :: [] := congrArg Queue.fwds same
  rw [exec_nodeForwardMsg none empty]
  refine ⟨fun comes id t e n taken replica _ _ => ?_, fun full => ?_, fun on waits => ?_⟩
  · exact congrArg _ (State.takeForward_takes one (by rw [same]; exact comes) taken replica 0)
  · exact congrArg _ (State.takeForward_full one full 0)
  · exact congrArg _ (State.takeForward_waits one (by rw [same]; exact on) (by rw [same]; exact waits) 0)

end

/-- Settles O40, message by message. -/
theorem nodesAcrossChips : Obligations.NodesAcrossChips := by
  unfold Obligations.NodesAcrossChips
  refine ⟨fun node chip e s n entry found => readyMessage found entry,
    fun node g ts e s n replica found barrier => startMessage found replica barrier,
    fun node s n found barrier started sound => startInstant found barrier started sound,
    fun node chip e s n entry found named barrier => startRefusal found entry named barrier,
    fun src node q desc s none empty => ?forward,
    fun node chip tasks e s n entry found own named fresh => replicaReport found entry own named fresh tasks,
    fun node chip tasks e s replica => ?origin,
    fun src node tr a x e s n replica found => replacementMessage found replica,
    fun src node tr a x q s none => replacementForward none tr a x q,
    fun node tr a x s n found one => replacementInstant found one⟩
  case forward =>
    obtain ⟨comes, full, waits⟩ := nodeForward (desc := desc) none empty
    exact ⟨comes, fun h => ⟨_, full h, s.queue_setQueue_self q _, rfl⟩, fun on h => ⟨_, waits on h, s.queue_setQueue_self q _, rfl⟩⟩
  case origin =>
    show execReplicaReportMsg node chip tasks (.origin true) s = _
    simp only [execReplicaReportMsg, replica, if_true]

end Sys2Proof.Machine
end

section
/-! PROOFS. Instructions about the task and the device clock, and the indices of a task (R93, R174, R176, R315-R319, R409). -/

namespace Sys2Proof.Machine
open Sys2Proof

/-! ### The deferral of refreshes (R93) -/

theorem whenReady_of_ready {s : State} {rs : List (BitVec 6)} (ready : s.ready rs = true) (t : State) : whenReady s rs t = .next t := if_pos ready

theorem Ctl.due0Of_foldl_defer (now dur maxDef : Nat) (bs : List Nat) (c : Ctl) (b : Nat) :
    (bs.foldl (Ctl.defer now dur maxDef) c).due0Of b = c.due0Of b :=
  List.foldlRecOn (motive := fun d : Ctl => d.due0Of b = c.due0Of b) bs _ rfl fun _ same _ _ => same

/-- The due time to which R93 defers a bank's refresh. -/
def Ctl.deferred (now dur maxDef : Nat) (c : Ctl) (b : Nat) : Nat :=
  Nat.max (c.dueOf b) (Nat.min (Nat.max (c.dueOf b) (now + dur)) (c.due0Of b + maxDef))

/-- Banks deferred in turn: each named once goes to its new due time, and every other keeps its own. -/
theorem Ctl.dueOf_foldl_defer (now dur maxDef : Nat) {bs : List Nat} (distinct : bs.Nodup) (c : Ctl) (b : Nat) :
    (bs.foldl (Ctl.defer now dur maxDef) c).dueOf b = if b ∈ bs then c.deferred now dur maxDef b else c.dueOf b := by
  induction bs generalizing c with
  | nil => rfl
  | cons k bs ih =>
    obtain ⟨new, distinct⟩ := List.nodup_cons.mp distinct
    have one (j : Nat) : (Ctl.defer now dur maxDef c k).dueOf j = if j = k then c.deferred now dur maxDef k else c.dueOf j := NMap.get_set _ _ _ _
    rw [List.foldl_cons, ih distinct]
    by_cases here : b = k
    · subst here
      rw [if_neg new, if_pos List.mem_cons_self, one, if_pos rfl]
    · have same : (Ctl.defer now dur maxDef c k).deferred now dur maxDef b = c.deferred now dur maxDef b := by
        rw [Ctl.deferred, one, if_neg here]
        rfl
      simp only [List.mem_cons, here, false_or, same, one, if_false]

theorem State.a_onCtl (s : State) (f : Ctl → Ctl) : (s.onCtl s.focus f).a = s.a := (congrArg Cluster.a (s.cl_onCtl_self s.focus f) :)

theorem State.ctl_advance (s : State) : s.advance.cur.ctl = s.cur.ctl := (congrArg Cluster.ctl (s.cl_onA_self s.focus _) :)

theorem refdefer (f : AF) (s : State) (ready : s.ready [f.sa] = true) :
    let now := s.gtc
    let dur := f.imm.toNat % 2 ^ 16 * 10 ^ 6
    let ctl (t : State) : Ctl := t.cur.ctl
    ∃ t, exec (.refdefer f) s = .next t ∧ t.a.pc = s.a.pc + 8 ∧ (∀ r, t.g r = s.g r) ∧ SameBytes s t
      ∧ (∀ b, (ctl t).due0Of b = (ctl s).due0Of b)
      ∧ ∀ b, (ctl t).dueOf b =
          if b < 16 ∧ (s.g f.sa).toNat.testBit b ∧ NMap.get false (ctl s).refreshing b = false ∧ dur ≠ 0 then
            Nat.max ((ctl s).dueOf b) (Nat.min (Nat.max ((ctl s).dueOf b) (now + dur)) ((ctl s).due0Of b + s.dev.maxDef * 10 ^ 8))
          else (ctl s).dueOf b := by
  intro now dur ctl
  let named := (List.range 16).filter fun b => bit (s.g f.sa).toNat b && !NMap.get false s.cur.ctl.refreshing b
  let deferred := s.onCtl s.focus fun c => named.foldl (Ctl.defer s.gtc dur (s.dev.maxDef * tenthNs)) c
  have step : exec (.refdefer f) s = .next (if dur = 0 then s else deferred).advance := by
    show execRefdefer f s = _
    rw [execRefdefer, whenReady_of_ready ready]
    simp only [bits_low16]
    rfl
  by_cases zero : dur = 0
  · rw [if_pos zero] at step
    exact ⟨_, step, by rw [s.a_advance], s.g_advance, .advance s, fun b => congrArg (Ctl.due0Of · b) s.ctl_advance,
      fun b => by rw [if_neg fun h => h.2.2.2 zero]; exact congrArg (Ctl.dueOf · b) s.ctl_advance⟩
  · rw [if_neg zero] at step
    have here : ctl deferred.advance = named.foldl (Ctl.defer s.gtc dur (s.dev.maxDef * tenthNs)) (ctl s) :=
      deferred.ctl_advance.trans (congrArg Cluster.ctl (s.cl_onCtl_self s.focus _))
    have core : deferred.a = s.a := s.a_onCtl _
    refine ⟨_, step, by rw [deferred.a_advance, core], fun r => ?_, (SameBytes.onCtl s _ _).trans (.advance _), fun b => ?_, fun b => ?_⟩
    · rw [deferred.g_advance, State.g, core, State.g]
    · rw [here, Ctl.due0Of_foldl_defer]
    · rw [here, Ctl.dueOf_foldl_defer _ _ _ (List.nodup_range.filter _)]
      refine if_congr ?_ rfl rfl
      simp [bit, zero, ctl]

/-! ### GROW (R176, R316) -/

/-- A grow of a node that has failed answers all ones and leaves the node as it is (R409). -/
theorem Node.grow_failed {n : Node} (failed : n.failing ≠ 0) (t k add now : Nat) : n.grow t k add now = (2 ^ 64 - 1, n) := by
  simp only [Node.grow]
  split
  · rfl
  · rw [if_pos (by simp [failed])]

section
variable {cl : Nat} {s : State} {r : GrowReq} (asks : (s.cl cl).a.growReq = some r)
include asks

/-- The answer that the dispatcher has given reaches its register, and the core goes on. -/
theorem growAnswer_arrives {v : Nat} (applied : r.applied = some v) (low : r.dst < 64) :
    ∃ t, exec (.growAnswer cl) s = .next t ∧ (t.cl cl).a.growReq = none ∧ (t.cl cl).a.pc = (s.cl cl).a.pc + 8
      ∧ (r.dst ≠ 0 → (t.cl cl).a.reg (BitVec.ofNat 6 r.dst) = BitVec.ofNat 64 v) ∧ (t.cl cl).a.growCount = (s.cl cl).a.growCount + 1 := by
  let u : State := (s.at_ cl).onA cl fun a => { a with growReq := none, growCount := a.growCount + 1 }
  have step : exec (.growAnswer cl) s = .next (u.result (BitVec.ofNat 6 r.dst) (BitVec.ofNat 64 v)) := by
    have asks : ({ s with focus := cl } : State).a.growReq = some r := asks
    show execGrowAnswer cl s = _
    simp only [execGrowAnswer, asks, applied]
    rfl
  have core : u.a = { (s.cl cl).a with growReq := none, growCount := (s.cl cl).a.growCount + 1 } := (s.at_ cl).a_onA _
  have beside := (u.besideG_result (BitVec.ofNat 6 r.dst) (BitVec.ofNat 64 v)).trans (by rw [core])
  refine ⟨_, step, (congrArg ACore.growReq beside :), (congrArg ACore.pc beside :), fun some_ => ?_, (congrArg ACore.growCount beside :)⟩
  have named : (BitVec.ofNat 6 r.dst) ≠ 0 := fun h => some_ (by simpa [Nat.mod_eq_of_lt low] using congrArg BitVec.toNat h)
  exact ((u.result_spec _ _).1 _).trans (if_pos ⟨rfl, named⟩)

/-- The dispatcher answers a request that it has not answered yet, with all ones and no change of the node where that has failed. -/
theorem growAnswer_applies (fresh : r.applied = none) :
    ∃ t w, exec (.growAnswer cl) s = .next t ∧ (t.cl cl).a.growReq = some { r with applied := some w } ∧ (t.cl cl).a.pc = (s.cl cl).a.pc
      ∧ ∀ n, s.node? (s.cl cl).ctl.node = some n → n.failing ≠ 0 → w = 2 ^ 64 - 1 ∧ t.node? (s.cl cl).ctl.node = some n := by
  let wait (t : State) (w : Nat) : State := t.onA cl fun a => { a with growReq := some { r with applied := some w } }
  have waits {t : State} (same : (t.cl cl).a.pc = (s.cl cl).a.pc) (w : Nat) :
      ((wait t w).cl cl).a.growReq = some { r with applied := some w } ∧ ((wait t w).cl cl).a.pc = (s.cl cl).a.pc := by
    rw [State.cl_onA_self]
    exact ⟨rfl, same⟩
  have asks : ({ s with focus := cl } : State).a.growReq = some r := asks
  cases found : s.node? (s.cl cl).ctl.node with
  | none =>
    have step : exec (.growAnswer cl) s = .next (wait (s.at_ cl) (2 ^ 64 - 1)) := by
      have found : State.node? { s with focus := cl } (State.cur { s with focus := cl }).ctl.node = none := found
      show execGrowAnswer cl s = _
      simp only [execGrowAnswer, asks, fresh, found]
      rfl
    exact ⟨_, _, step, (waits rfl _).1, (waits rfl _).2, fun n h => nomatch h⟩
  | some n =>
    let answer := n.grow (s.cl cl).ctl.task (s.cl cl).a.growCount r.n s.gtc
    let free : Bool := (s.cl cl).ctl.occ = .free
    let t : State := if free then s.at_ cl else (s.at_ cl).onNode (s.cl cl).ctl.node fun _ => answer.2
    let w : Nat := if free then 2 ^ 64 - 1 else answer.1
    have step : exec (.growAnswer cl) s = .next (wait t w) := by
      have found : State.node? { s with focus := cl } (State.cur { s with focus := cl }).ctl.node = some n := found
      show execGrowAnswer cl s = _
      simp only [execGrowAnswer, asks, fresh, found]
      simp only [t, w, free, decide_eq_true_eq]
      rfl
    have same : (t.cl cl).a.pc = (s.cl cl).a.pc := by
      simp only [t]
      split
      · rfl
      · rw [State.cl_onNode]
        rfl
    refine ⟨_, _, step, (waits same _).1, (waits same _).2, fun m is failed => ?_⟩
    cases is
    have given : answer = (2 ^ 64 - 1, n) := Node.grow_failed failed _ _ _ _
    refine ⟨by simp only [w, given, ite_self], ?_⟩
    show t.node? _ = _
    simp only [t, given]
    split
    · exact found
    · rw [State.node?_onNode_self]
      exact congrArg (Option.map _) found

end

theorem taskInstructions : Clause.TaskInstructions := by
  unfold Clause.TaskInstructions
  intro f s
  refine ⟨fun task => ⟨_, if_neg (by rw [task]; decide), ?_, ?_, fun r => ?_, .onA s _ _⟩, fun firm => if_pos firm,
    fun fresh ready => ?grow, fun ready => whenReady_of_ready ready _, refdefer f s, fun cl v r asks low =>
      ⟨fun applied => growAnswer_arrives asks applied low, growAnswer_applies asks⟩⟩
  · rw [s.a_onA]
  · rw [s.a_onA]
  · rw [State.g, s.a_onA]
    rfl
  case grow =>
    obtain ⟨pc, _, _, _, _, regs, bytes, _⟩ := s.waitAt_spec .grow f
    let request : GrowReq := { dst := f.d.toNat, n := Nat.min (s.g f.sa).toNat (2 ^ 32 - 1), applied := none }
    have step : exec (.grow f) s = .next ((s.waitAt .grow f).onA s.focus fun a => { a with growReq := some request }) := by
      show execGrow f s = _
      simp only [execGrow, fresh, ready, Option.isSome_none, Bool.false_eq_true, Bool.not_true, if_false]
      rfl
    have core : ((s.waitAt .grow f).onA s.focus fun a => { a with growReq := some request }).a = { (s.waitAt .grow f).a with growReq := some request } :=
      (s.waitAt .grow f).a_onA _
    refine ⟨_, step, by rw [core], by rw [core]; exact pc, fun r => ?_, bytes.trans (.onA _ _ _)⟩
    rw [State.g, core]
    exact regs r

/-! ### The indices of a task (R174, R317) -/

/-- Level `i` of a loop table is spatial over clusters. -/
def spatial (ls : List (Nat × Nat)) (i : Nat) : Prop := (ls.getD i (0, 0)).2 = 2

/-- The number of index points that the levels below level `i` that are spatial over clusters have together (R174). -/
def innerPoints (ls : List (Nat × Nat)) (i : Nat) : Nat := ((ls.take i).map fun l => if l.2 = 2 then l.1 else 1).prod

theorem foldl_spatial (ls : List (Nat × Nat)) (p : Nat) :
    ls.foldl (fun p l => if l.2 = 2 then p * l.1 else p) p = p * (ls.map fun l => if l.2 = 2 then l.1 else 1).prod := by
  induction ls generalizing p with
  | nil => simp
  | cons l ls ih =>
    rw [List.foldl_cons, ih, List.map_cons, List.prod_cons, ← Nat.mul_assoc]
    split
    · rfl
    · rw [Nat.mul_one]

theorem indexAt_eq (ls : List (Nat × Nat)) (t i : Nat) :
    indexAt ls t i = if outerLevel ls = some i then t / innerPoints ls i else t / innerPoints ls i % (ls.getD i (0, 0)).1 := by
  simp only [indexAt, foldl_spatial, Nat.one_mul, innerPoints]

theorem innerPoints_succ {ls : List (Nat × Nat)} {i : Nat} (lt : i < ls.length) :
    innerPoints ls (i + 1) = innerPoints ls i * if (ls.getD i (0, 0)).2 = 2 then (ls.getD i (0, 0)).1 else 1 := by
  have at_ : ls.getD i (0, 0) = ls[i] := by simp [lt]
  rw [innerPoints, List.take_succ_eq_append_getElem lt, List.map_append, List.prod_append, List.map_singleton, List.prod_singleton, at_]
  rfl

/-- The outermost of the first `k` levels that are spatial over clusters: no other lies between it and level `k`. -/
theorem foldl_outer (ls : List (Nat × Nat)) (k : Nat) :
    match (List.range k).foldl (fun o i => if (ls.getD i (0, 0)).2 = 2 then some i else o) none with
    | some o => o < k ∧ spatial ls o ∧ ∀ j, o < j → j < k → ¬ spatial ls j
    | none => ∀ j < k, ¬ spatial ls j := by
  induction k with
  | zero => exact fun j h => absurd h (Nat.not_lt_zero j)
  | succ k ih =>
    rw [List.range_succ, List.foldl_append, List.foldl_cons, List.foldl_nil]
    by_cases here : (ls.getD k (0, 0)).2 = 2
    · rw [if_pos here]
      exact ⟨Nat.lt_succ_self k, here, fun j after before => absurd before (by omega)⟩
    · rw [if_neg here]
      split at ih
      · next o _ =>
        obtain ⟨lt, is, last⟩ := ih
        exact ⟨Nat.lt_succ_of_lt lt, is, fun j after before =>
          (Nat.lt_succ_iff_lt_or_eq.mp before).elim (last j after) fun same => same ▸ here⟩
      · exact fun j before => (Nat.lt_succ_iff_lt_or_eq.mp before).elim (ih j) fun same => same ▸ here

theorem outerLevel_of_spatial {ls : List (Nat × Nat)} (some_ : ∃ l ∈ ls, l.2 = 2) :
    ∃ o, outerLevel ls = some o ∧ o < ls.length ∧ spatial ls o ∧ ∀ j, o < j → j < ls.length → ¬ spatial ls j := by
  have outer := foldl_outer ls ls.length
  cases found : outerLevel ls with
  | some o =>
    rw [outerLevel] at found
    rw [found] at outer
    exact ⟨o, rfl, outer⟩
  | none =>
    rw [outerLevel] at found
    rw [found] at outer
    obtain ⟨l, member, is⟩ := some_
    obtain ⟨i, lt, rfl⟩ := List.getElem_of_mem member
    exact absurd (by simpa [spatial, lt] using is) (outer i lt)

/-- What level `i` contributes to the number of task `t`. -/
def digit (ls : List (Nat × Nat)) (t i : Nat) : Nat := if (ls.getD i (0, 0)).2 = 2 then indexAt ls t i * innerPoints ls i else 0

theorem digit_of_spatial {ls : List (Nat × Nat)} {i : Nat} (is : spatial ls i) (t : Nat) : digit ls t i = indexAt ls t i * innerPoints ls i := if_pos is

theorem digit_of_not_spatial {ls : List (Nat × Nat)} {i : Nat} (no : ¬ spatial ls i) (t : Nat) : digit ls t i = 0 := if_neg no

section
variable {ls : List (Nat × Nat)} {o : Nat} (outer : outerLevel ls = some o) (lt : o < ls.length) (t : Nat)
include outer lt

/-- Below the outermost level the indices make up the number of the task modulo the points of the levels so far (R174). -/
theorem sum_digit_inner {k : Nat} (below : k ≤ o) : ((List.range k).map (digit ls t)).sum = t % innerPoints ls k := by
  induction k with
  | zero => simp [innerPoints, Nat.mod_one]
  | succ k ih =>
    have other : outerLevel ls ≠ some k := by rw [outer]; simp; omega
    rw [List.range_succ, List.map_append, List.sum_append, ih (by omega), innerPoints_succ (by omega), List.map_singleton, List.sum_singleton, digit]
    split
    · rw [indexAt_eq, if_neg other, Nat.mod_mul, Nat.mul_comm]
    · rw [Nat.add_zero, Nat.mul_one]

/-- The indices up to the outermost level make up the number of the task (R174). -/
theorem sum_digit (is : spatial ls o) (last : ∀ j, o < j → j < ls.length → ¬ spatial ls j) {k : Nat} (above : o < k) (le : k ≤ ls.length) : ((List.range k).map (digit ls t)).sum = t := by
  induction k with
  | zero => exact absurd above (Nat.not_lt_zero o)
  | succ k ih =>
    rw [List.range_succ, List.map_append, List.sum_append, List.map_singleton, List.sum_singleton]
    rcases Nat.lt_succ_iff_lt_or_eq.mp above with below | rfl
    · rw [ih below (by omega), digit_of_not_spatial (last k below le), Nat.add_zero]
    · rw [sum_digit_inner outer lt t (Nat.le_refl _), digit_of_spatial is, indexAt_eq, if_pos outer, Nat.mul_comm]
      exact Nat.mod_add_div _ _

end

theorem exec_tidx {f : AF} {s : State} (ready : s.ready [f.d] = true) :
    let sel := f.imm.toNat % 16
    exec (.tidx f) s = .next (s.result f.d (BitVec.ofNat 64 (if sel = 8 then s.focus else if sel = 9 then s.cur.ctl.cid
      else if s.cur.ctl.occ = .free then 0 else ((s.node? s.cur.ctl.node).map fun n => s.tidx n sel).getD 0))) := by
  intro sel
  have four : bits f.imm.toNat 3 0 = sel := bits_low _ 3
  show execTidx f s = _
  simp only [execTidx, whenReady_of_ready ready, four]
  cases s.node? s.cur.ctl.node <;> rfl

theorem taskIndices : Clause.TaskIndices := by
  unfold Clause.TaskIndices
  refine ⟨fun f s ready => ?tidx, fun ls t positive some_ => ?number⟩
  case tidx =>
    intro sel returns
    have step (v : Nat) (is : v = if sel = 8 then s.focus else if sel = 9 then s.cur.ctl.cid else if s.cur.ctl.occ = .free then 0
        else ((s.node? s.cur.ctl.node).map fun n => s.tidx n sel).getD 0) : returns v := is ▸ exec_tidx ready
    refine ⟨fun h => step _ (by rw [if_pos h]), fun h => step _ (by simp [h]), fun h₁ h₂ free => step _ (by simp [h₁, h₂, free]),
      fun n busy found => ?_⟩
    intro ls
    have task (h₁ : sel ≠ 8) (h₂ : sel ≠ 9) : returns (s.tidx n sel) := step _ (by simp [h₁, h₂, busy, found])
    refine ⟨fun h => ?_, fun low kind => ?_, fun low kind => ?_, fun high => ?_⟩
    · have v : s.tidx n sel = s.cur.ctl.task := by simp [State.tidx, h]
      exact v ▸ task (by omega) (by omega)
    · have v : s.tidx n sel = (ls.getD sel (0, 0)).1 := by simp only [State.tidx, low, if_true, ← show ls = n.loopsOf s.cur.ctl.task from rfl, kind]
      exact v ▸ task (by omega) (by omega)
    · have v : s.tidx n sel = indexAt ls s.cur.ctl.task sel := by
        simp only [State.tidx, low, if_true, ← show ls = n.loopsOf s.cur.ctl.task from rfl, kind]
      exact v ▸ task (by omega) (by omega)
    · have v : s.tidx n sel = (ls.getD (sel - 10) (0, 0)).1 := by
        rw [State.tidx, if_neg (by omega), if_neg (by omega), if_neg (by omega)]
      exact v ▸ task (by omega) (by omega)
  case number =>
    obtain ⟨o, outer, lt, is, last⟩ := outerLevel_of_spatial some_
    refine ⟨sum_digit outer lt t is last lt (Nat.le_refl _), fun i within kind inner => ?_⟩
    have at_ : ls.getD i (0, 0) = ls[i] := by simp [within]
    rw [indexAt_eq, if_neg inner]
    exact Nat.mod_lt _ (by rw [at_]; exact positive _ (List.getElem_mem within))

/-- Settles O22, from the instructions about the task and the device clock, and the mixed-radix form of a task's number. -/
theorem taskInstructionsAndIndices : Obligations.TaskInstructionsAndIndices := ⟨taskInstructions, taskIndices⟩

end Sys2Proof.Machine
end

section
/-! PROOFS. Control syllables of the X-core: branches, loops, checkpoints, semaphores, ends, forks and joins (R185, R186, R195-R197, R220,
R329-R332). -/

namespace Sys2Proof.Machine
open Sys2Proof

/-! ### What the issue of a syllable leaves (R187, R191, R193) -/

/-- An X-core with its operand queues left out of account. -/
def XCore.besideQueues (x : XCore) : XCore := { x with lq := [], dq := [], hq := [] }

/-- `t` differs from `s` in the operand queues of the focused cluster alone. -/
structure State.TakesHeads (s t : State) : Prop where
  focus : t.focus = s.focus
  slot : t.slot = s.slot
  x : t.x.besideQueues = s.x.besideQueues
  a : t.a = s.a
  others : ∀ n, n ≠ s.focus → t.cl n = s.cl n

theorem State.TakesHeads.refl (s : State) : s.TakesHeads s := ⟨rfl, rfl, rfl, rfl, fun _ _ => rfl⟩

theorem State.TakesHeads.trans {s t u : State} (h : s.TakesHeads t) (k : t.TakesHeads u) : s.TakesHeads u :=
  ⟨k.focus.trans h.focus, k.slot.trans h.slot, k.x.trans h.x, k.a.trans h.a, fun n ne => (k.others n (h.focus ▸ ne)).trans (h.others n ne)⟩

theorem State.TakesHeads.onX (s : State) (f : XCore → XCore) (same : (f s.x).besideQueues = s.x.besideQueues) : s.TakesHeads (s.onX s.focus f) :=
  ⟨rfl, rfl, by rw [s.x_onX, same], s.a_onX f, fun _ ne => s.cl_onX_ne f ne⟩

theorem State.TakesHeads.onCtl (s : State) (f : Ctl → Ctl) : s.TakesHeads (s.onCtl s.focus f) :=
  ⟨rfl, rfl, (congrArg (fun c => c.x.besideQueues) (s.cl_onCtl_self s.focus f) :), (congrArg Cluster.a (s.cl_onCtl_self s.focus f) :),
    fun _ ne => s.cl_onCtl_ne f ne⟩

theorem State.TakesHeads.spWriteN (s : State) (a n v : Nat) : s.TakesHeads (s.spWriteN s.focus a n v) := by
  have w : WritesSp s.focus s (s.spWriteN s.focus a n v) := .spWrite s a (toBytes n v)
  exact ⟨rfl, rfl, (congrArg (fun c => c.x.besideQueues) w.here :), (congrArg Cluster.a w.here :), w.others⟩

theorem State.TakesHeads.qPop (s : State) (q : Nat) : s.TakesHeads (s.qPop s.focus q) := by
  rcases s.qPop_cases s.focus q with h | h | h | h | h
  · rw [s.qPop_load _ h]
    exact .onX s _ rfl
  · rw [h, s.qPop_drain]
    exact .onX s _ rfl
  · rw [h, s.qPop_hold]
    exact .onX s _ rfl
  · rw [h]
    simp only [State.qPop, Nat.reduceLT, Nat.reduceEqDiff, if_false, if_true]
    split
    · exact .onCtl s _
    · exact (State.TakesHeads.onCtl s _).trans (.spWriteN _ _ _ _)
  · rw [h]
    exact .refl s

theorem SameBytes.qPop (s : State) (cl : Nat) {q : Nat} (other : q ≠ 14) : SameBytes s (s.qPop cl q) := by
  rcases s.qPop_cases cl q with h | h | h | h | h
  · rw [s.qPop_load _ h]
    exact .onX s _ _
  · rw [h, s.qPop_drain]
    exact .onX s _ _
  · rw [h, s.qPop_hold]
    exact .onX s _ _
  · exact absurd h other
  · rw [h]
    exact .refl s

theorem State.TakesHeads.popAll (s : State) (qs : List (Nat × Bool × Bool)) : s.TakesHeads (s.popAll s.focus qs) := by
  refine List.foldlRecOn qs _ (.refl s) fun t taken o _ => ?_
  split
  · exact taken.trans (taken.focus ▸ .qPop t o.1)
  · exact taken

theorem SameBytes.popAll (s : State) (cl : Nat) {qs : List (Nat × Bool × Bool)} (noMail : ∀ q ∈ qs, q.1 ≠ 14) : SameBytes s (s.popAll cl qs) := by
  refine List.foldlRecOn qs _ (.refl s) fun t same o listed => ?_
  split
  · exact same.trans (.qPop t cl (noMail o listed))
  · exact same

/-- A result in flight of the syllable of the focused slot. -/
def State.flying (s : State) (pcl : Nat) (e : Nat × Eff) : Landing :=
  { due := s.x.vcyc + e.1, issued := s.x.vcyc, slot := s.slot, pcl := pcl, eff := e.2, vig := none }

/-- `t` is `s` with more results in flight on the focused X-core. -/
structure State.Sends (s t : State) (ls : List Landing) : Prop where
  focus : t.focus = s.focus
  slot : t.slot = s.slot
  x : t.x = { s.x with land := s.x.land ++ ls }
  a : t.a = s.a
  others : ∀ n, n ≠ s.focus → t.cl n = s.cl n
  bytes : SameBytes s t

theorem State.Sends.refl (s : State) : s.Sends s [] := ⟨rfl, rfl, by simp, rfl, fun _ _ => rfl, .refl s⟩

theorem State.Sends.xland {s t : State} {ls : List Landing} (h : s.Sends t ls) (pcl lat : Nat) (e : Eff) :
    s.Sends (t.xland pcl lat e) (ls ++ [s.flying pcl (lat, e)]) where
  focus := h.focus
  slot := h.slot
  x := by
    rw [t.x_xland, h.x, h.slot, State.flying, List.append_assoc]
  a := (t.a_onX _).trans h.a
  others n ne := (t.cl_onX_ne _ (h.focus ▸ ne)).trans (h.others n ne)
  bytes := h.bytes.trans (.onX t _ _)

theorem State.Sends.foldl_xland (s : State) (pcl : Nat) (es : List (Nat × Eff)) :
    s.Sends (es.foldl (fun s e => s.xland pcl e.1 e.2) s) (es.map (s.flying pcl)) := by
  suffices key : ∀ (es : List (Nat × Eff)) (t : State) (ls : List Landing), s.Sends t ls →
      s.Sends (es.foldl (fun s e => s.xland pcl e.1 e.2) t) (ls ++ es.map (s.flying pcl)) from key es s [] (.refl s)
  intro es
  induction es with
  | nil => exact fun t ls h => by rw [List.map_nil, List.append_nil]; exact h
  | cons e es ih =>
    intro t ls h
    rw [List.map_cons, List.append_cons]
    exact ih _ _ (h.xland pcl e.1 e.2)

/-- A syllable whose operands all find a sound head issues: its results are in flight, and k7 after a not-ready operand (R192). -/
theorem State.issuedX_xissue {s : State} {f : XF} (there : headsThere s f) (es : List (Nat × Eff)) : issuedX f s es (s.xissue f es) := by
  have full : ∀ o ∈ qOpnds f, (s.qHead s.focus o.1).isEmpty = false := fun o ho => (there o ho).1
  have some_ : ¬ ((qOpnds f).any fun o => (s.qHead s.focus o.1).isEmpty) = true := fun h => by
    obtain ⟨o, ho, none⟩ := List.any_eq_true.mp h
    exact Bool.false_ne_true ((full o ho).symm.trans none)
  let u := s.popAll s.focus (qOpnds f)
  have taken : s.TakesHeads u := .popAll s _
  have vcyc : u.x.vcyc = s.x.vcyc := (congrArg XCore.vcyc taken.x :)
  have land : u.x.land = s.x.land := (congrArg XCore.land taken.x :)
  have flying : u.flying f.pcl.toNat = s.flying f.pcl.toNat := funext fun e => by rw [State.flying, vcyc, taken.slot, State.flying]
  have leaves {t : State} (rest : List Landing) (h : u.Sends t (es.map (u.flying f.pcl.toNat) ++ rest))
      (k7 : ∀ l ∈ rest, l.eff = .k7 true ∧ l.due = s.x.vcyc + 1) : issuedX f s es (.next t) :=
    ⟨t, rest, rfl, by rw [h.x, land, flying, List.append_assoc]; rfl, k7, by rw [h.x]; exact (congrArg XCore.x taken.x :),
      by rw [h.x]; exact (congrArg XCore.t taken.x :), by rw [h.x]; exact (congrArg XCore.k taken.x :), by rw [h.x]; exact vcyc,
      by rw [h.x]; exact (congrArg XCore.run taken.x :), h.a.trans taken.a, fun n ne => (h.others n (taken.focus ▸ ne)).trans (taken.others n ne),
      fun noMail => (SameBytes.popAll s _ noMail).trans h.bytes⟩
  have sent : u.Sends (es.foldl (fun s e => s.xland f.pcl.toNat e.1 e.2) u) (es.map (u.flying f.pcl.toNat)) := .foldl_xland u _ es
  simp only [State.xissue, if_neg (State.not_qStalls full)]
  rw [if_neg some_, State.qPoisoned_eq_none there, State.popAll_focus]
  dsimp only
  split
  · refine leaves [u.flying 0 (1, .k7 true)] (sent.xland 0 1 (.k7 true)) fun l hl => ?_
    rw [List.mem_singleton.mp hl]
    exact ⟨rfl, congrArg (· + 1) vcyc⟩
  · exact leaves [] (by rw [List.append_nil]; exact sent) fun l hl => nomatch hl

/-! ### Branches and loops (R195, R220, R329, R330) -/

theorem sext_setWidth (v : BitVec 64) : sext 32 v.toNat = (v.setWidth 32).toInt := by rw [sext]; rfl

theorem wrap_eq (i : Int) : wrap 64 i = (i % 2 ^ 64).toNat := rfl

theorem State.xtarget_eq (s : State) (f : XF) :
    s.xtarget f = (((if s.x.indep then NMap.get 0 s.x.spc s.slot else s.x.pc + 16 * s.slot : Nat) + 16 * (f.imm.setWidth 32).toInt) % 2 ^ 64).toNat := by
  rw [State.xtarget, wrap_eq, sext_setWidth, State.xpc]
  cases s.x.indep <;> rfl

theorem State.x_xgoto (s : State) (a : Nat) : (s.xgoto a).x = { s.x with jump := some a } := s.x_onX _

section
variable (s : State)

/-- A jump moves the stream of slot 0 and changes nothing else. -/
theorem State.jumps_xgoto {i : Instr} {a b : Nat} (same : a = b) (step : exec i s = .next (s.xgoto a)) :
    ∃ t, exec i s = .next t ∧ t.x.jump = some b ∧ t.x.land = s.x.land ∧ t.x.x = s.x.x ∧ t.a = s.a ∧ SameBytes s t := by
  refine ⟨_, step, ?_, ?_, ?_, s.a_onX _, .onX s _ _⟩ <;> rw [s.x_xgoto]
  rw [same]

theorem State.xbranch_cases (f : XF) {i : Instr} {c : Bool} (step : exec i s = s.xbranch f c) :
    (c = true → exec i s = .next (s.xgoto (s.xtarget f))) ∧ (¬ c = true → exec i s = .next s) :=
  ⟨fun h => step.trans (by rw [State.xbranch, if_pos h]), fun h => step.trans (by rw [State.xbranch, if_neg h])⟩

theorem length_rotated (v : Pred) (x : XCore) : (rotated v x.stages).length = 8 := by simp [rotated, XCore.stages]

/-- A loop state in flight. -/
theorem State.loops_xland {i : Instr} {lc ec rb : Nat} {k8 : Pred} (ks : List Pred) (step : exec i s = .next (s.xland 0 1 (.loop lc ec rb ks)))
    (eight : ks.length = 8) (head : ks.head? = some k8) :
    ∃ t ks, exec i s = .next t ∧ t.x.jump = s.x.jump ∧ ks.length = 8 ∧ ks.head? = some k8
      ∧ t.x.land = s.x.land ++ [{ due := s.x.vcyc + 1, issued := s.x.vcyc, slot := s.slot, pcl := 0, eff := .loop lc ec rb ks, vig := none }] :=
  ⟨_, ks, step, by rw [s.x_xland], eight, head, by rw [s.x_xland]⟩

/-- A loop state in flight, with the jump back to the loop's start. -/
theorem State.loops_xgoto {i : Instr} {lc ec rb a b : Nat} {k8 : Pred} (same : a = b) (ks : List Pred)
    (step : exec i s = .next ((s.xland 0 1 (.loop lc ec rb ks)).xgoto a)) (eight : ks.length = 8) (head : ks.head? = some k8) :
    ∃ t ks, exec i s = .next t ∧ t.x.jump = some b ∧ ks.length = 8 ∧ ks.head? = some k8
      ∧ t.x.land = s.x.land ++ [{ due := s.x.vcyc + 1, issued := s.x.vcyc, slot := s.slot, pcl := 0, eff := .loop lc ec rb ks, vig := none }] :=
  ⟨_, ks, step, by rw [State.x_xgoto, same], eight, head, by rw [State.x_xgoto, s.x_xland]⟩

end

/-- A predicate is empty when none of its lanes is set (R329). -/
theorem pred_eq_zero_iff (k : Pred) : k = 0 ↔ ∀ l, k.getLsbD l = false := by
  constructor
  · rintro rfl l
    exact BitVec.getLsbD_zero
  · intro h
    exact BitVec.eq_of_getLsbD_eq fun l _ => (h l).trans BitVec.getLsbD_zero.symm

/-! ### Semaphores (R190, R309, R332) -/

/-- The tower stores and pushes in flight land no later than the count that follows them (R332). -/
theorem XCore.le_lastStore {x : XCore} {g : Landing} (listed : g ∈ x.land)
    (stores : (∃ p q v, g.eff = .twst p q v) ∨ ∃ q v, g.eff = .push q v) : g.due ≤ x.lastStore := by
  have grows (ls : List Landing) (m : Nat) : m ≤ ls.foldl (fun m l => Nat.max m l.due) m :=
    List.foldlRecOn (motive := fun k => m ≤ k) ls _ (Nat.le_refl m) fun k le l _ => Nat.le_trans le (Nat.le_max_left _ _)
  have among (ls : List Landing) (m : Nat) (h : g ∈ ls) : g.due ≤ ls.foldl (fun m l => Nat.max m l.due) m := by
    induction ls generalizing m with
    | nil => cases h
    | cons l ls ih =>
      rcases List.mem_cons.mp h with rfl | h
      · exact Nat.le_trans (Nat.le_max_right _ _) (grows ls _)
      · exact ih _ h
  refine among _ 0 (List.mem_filter.mpr ⟨listed, ?_⟩)
  rcases stores with ⟨p, q, v, is⟩ | ⟨q, v, is⟩ <;> rw [is]

section
variable (f : XF) (s : State)

theorem exec_xsemv : ∃ t l, exec (.xsemv f) s = .next t ∧ t.x.land = s.x.land ++ [l]
    ∧ l.eff = .sem (f.imm.toNat % 16) (f.imm.toNat / 2 ^ 16 % 2 ^ 16) ∧ s.x.vcyc + 1 ≤ l.due
    ∧ ∀ g ∈ s.x.land, (∃ p q v, g.eff = .twst p q v) ∨ (∃ q v, g.eff = .push q v) → g.due ≤ l.due := by
  have due : s.x.vcyc + (Nat.max (s.x.vcyc + 1) s.x.lastStore - s.x.vcyc) = Nat.max (s.x.vcyc + 1) s.x.lastStore :=
    Nat.add_sub_of_le (Nat.le_trans (Nat.le_succ _) (Nat.le_max_left _ _))
  refine ⟨_, _, rfl, by rw [s.x_xland], ?_, ?_, fun g listed stores => ?_⟩
  · rw [bits_low]
    rfl
  · exact Nat.le_trans (Nat.le_max_left _ _) (Nat.le_of_eq due.symm)
  · exact Nat.le_trans (XCore.le_lastStore listed stores) (Nat.le_trans (Nat.le_max_right _ _) (Nat.le_of_eq due.symm))

theorem exec_xsemp : exec (.xsemp f) s
    = if s.x.semGot = some (f.imm.toNat % 16) then .next (s.onX s.focus fun x => { x with semGot := none })
      else if s.xsempReady (f.imm.toNat % 16) then .next (s.setSem s.focus (f.imm.toNat % 16) (s.sem s.focus (f.imm.toNat % 16) - 1))
      else .next (s.xfreeze (.sem (f.imm.toNat % 16))) := by
  show execXsemp f s = _
  simp only [execXsemp, bits_low, beq_iff_eq]
  rfl

theorem exec_xsemp_takes {k : Nat} (is : f.imm.toNat % 16 = k) (some_ : s.sem s.focus k ≠ 0) (fresh : s.x.semGot ≠ some k)
    (free : s.a.sempWait k = none) : exec (.xsemp f) s = .next (s.setSem s.focus k (s.sem s.focus k - 1)) := by
  have ready : s.xsempReady k = true := by
    have first (since : Nat) : s.sempFirst s.focus k since = false := by
      rw [State.sempFirst, show (s.cl s.focus).a.sempWait k = none from free]
    simp [State.xsempReady, some_, first]
  rw [exec_xsemp, is, if_neg fresh, if_pos ready]

theorem exec_xsemp_freezes {k : Nat} (is : f.imm.toNat % 16 = k) (none : s.sem s.focus k = 0) (fresh : s.x.semGot ≠ some k) :
    exec (.xsemp f) s = .next (s.xfreeze (.sem k)) := by
  have waits : s.xsempReady k = false := by simp [State.xsempReady, none, fresh]
  rw [exec_xsemp, is, if_neg fresh, waits]
  rfl

end

/-! ### The syllables (R195-R197, R329-R332) -/

theorem exec_chkpt (f : XF) (s : State) {table : Nat} (is : s.ckptTable f = table) :
    exec (.chkpt f) s = if table < 2 ^ 52 then .next (s.onX s.focus fun x => { x with ckpt := some table, ckptNow := s.halting s.focus })
      else .next (s.xraise 3 1 table) := by
  subst is
  rfl

theorem exec_lsetupReg (f : XF) (s : State) {n : Nat} (is : (s.xr f.a).toNat = n) :
    exec (.lsetupReg f) s = if 1 ≤ n ∧ n ≤ 65536 then .next (s.loopSetup n (bits f.imm.toNat 20 17)) else .next (s.xraise 0x12 0 n) := by
  subst is
  show execLsetupReg f s = _
  simp only [execLsetupReg, Bool.and_eq_true, decide_eq_true_eq]

theorem XCore.raise_first {x : XCore} (fresh : x.trap = none) (t : XTrap) : x.raise t = { x with trap := some t, run := .draining } := by
  simp only [XCore.raise, fresh]

theorem XCore.run_raise (x : XCore) (t : XTrap) : (x.raise t).run = .draining := rfl

theorem State.x_xraise (s : State) (code detail tval : Nat) :
    (s.xraise code detail tval).x = s.x.raise { code := code, detail := detail, tval := tval, slot := s.slot } := s.x_onX _

theorem exec_xtrap (f : XF) (s : State) : ∃ t, exec (.xtrap f) s = .next t ∧ t.x.run = .draining
    ∧ (s.x.trap = none → t.x.trap = some { code := 0x14, detail := 0, tval := f.imm.toNat % 2 ^ 16, slot := s.slot }) := by
  have x : ((s.xraise 0x14 0 (bits f.imm.toNat 15 0)).onX s.focus fun x => { x with soft := true }).x
      = { s.x.raise { code := 0x14, detail := 0, tval := bits f.imm.toNat 15 0, slot := s.slot } with soft := true } :=
    ((s.xraise 0x14 0 (bits f.imm.toNat 15 0)).x_onX _).trans (by rw [s.x_xraise])
  refine ⟨_, rfl, by rw [x, XCore.run_raise], fun fresh => ?_⟩
  rw [x, XCore.raise_first fresh, bits_low16]

theorem exec_syncjFork (f : XF) (s : State) : ∃ t, exec (.syncjFork f) s = .next t
    ∧ NMap.get 0 t.x.spc s.slot = ((s.x.pc + 16 * (f.imm.setWidth 32).toInt) % 2 ^ 64).toNat
    ∧ (∀ j, j ≠ s.slot → NMap.get 0 t.x.spc j = NMap.get 0 s.x.spc j) ∧ (s.slot = 3 → t.x.indep = true ∧ t.x.joins = []) := by
  have target : wrap 64 (s.x.pc + 16 * sext 32 f.imm.toNat) = ((s.x.pc + 16 * (f.imm.setWidth 32).toInt) % 2 ^ 64).toNat := by
    rw [wrap_eq, sext_setWidth]
  refine ⟨_, rfl, ?_, fun j other => ?_, fun last => ?_⟩
  · rw [s.x_onX]
    exact (NMap.get_set_self _ _ _).trans target
  · rw [s.x_onX]
    exact NMap.get_set_ne _ _ other
  · rw [s.x_onX]
    exact ⟨beq_iff_eq.mpr last, if_pos (beq_iff_eq.mpr last)⟩

theorem controlSyllables : Clause.ControlSyllables := by
  unfold Clause.ControlSyllables
  intro f s at_ target jumps branch k m loops n table sem
  have goes {i : Instr} (step : exec i s = .next (s.xgoto (s.xtarget f))) : jumps i := s.jumps_xgoto (s.xtarget_eq f) step
  have branches {i : Instr} {c : Bool} {p : Prop} (is : c = true ↔ p) (step : exec i s = s.xbranch f c) : branch i p := by
    obtain ⟨taken, not⟩ := s.xbranch_cases f step
    exact ⟨fun h => goes (taken (is.mpr h)), fun h => not (h ∘ is.mp)⟩
  have none : k = 0 ↔ ∀ l, k.getLsbD l = false := pred_eq_zero_iff k
  have any : k ≠ 0 ↔ ∃ l, k.getLsbD l = true := by rw [ne_eq, none, not_forall]; simp only [Bool.not_eq_false]
  have named : s.ckptTable f = table := by rw [State.ckptTable, wrap_eq, sext_setWidth]
  refine ⟨fun there => State.issuedX_xissue there [], goes rfl, branches bne_iff_ne rfl, branches beq_iff_eq rfl, branches Iff.rfl rfl,
    branches (by rw [Bool.not_eq_true']) rfl, branches (bne_iff_ne.trans any) rfl, branches (beq_iff_eq.trans none) rfl, fun more => ?again,
    fun last stages => ?drains, fun last done => ?ends, ?setup, fun lo hi => ?setupReg, fun out => ?range, fun canonical => ?ckpt,
    fun high => (exec_chkpt f s named).trans (if_neg (Nat.not_lt.mpr high)), exec_xsemv f s, fun got => ?got, fun some_ fresh free => ?takes,
    fun zero fresh => ?freezes, exec_xtrap f s, ⟨_, rfl, by rw [s.x_onX], by rw [s.x_onX]⟩, exec_syncjFork f s⟩
  case again => exact s.loops_xgoto (s.xtarget_eq f) _ (if_pos more) (length_rotated _ s.x) rfl
  case drains =>
    have step : exec (.bcxLoop f) s = .next ((s.xland 0 1 (.loop s.x.lc (s.x.ec - 1) ((s.x.rb + 31) % 32) (rotated 0 s.x.stages))).xgoto (s.xtarget f)) :=
      (if_neg (by omega)).trans (if_pos stages)
    exact s.loops_xgoto (s.xtarget_eq f) _ (last ▸ step) (length_rotated 0 s.x) rfl
  case ends =>
    have step : exec (.bcxLoop f) s = .next (s.xland 0 1 (.loop s.x.lc 0 ((s.x.rb + 31) % 32) (rotated 0 s.x.stages))) :=
      (if_neg (by omega)).trans (if_neg (by omega))
    exact s.loops_xland _ (last ▸ step) (length_rotated 0 s.x) rfl
  case setup =>
    have step : exec (.lsetup f) s = .next (s.loopSetup (m % 2 ^ 17) (m / 2 ^ 17 % 16)) := by rw [← bits_low m 16]; rfl
    exact s.loops_xland _ step rfl rfl
  case setupReg => exact s.loops_xland _ ((exec_lsetupReg f s rfl).trans (if_pos ⟨lo, hi⟩)) rfl rfl
  case range => exact (exec_lsetupReg f s rfl).trans (if_neg (by omega))
  case ckpt => exact ⟨_, (exec_chkpt f s named).trans (if_pos canonical), by rw [s.x_onX], by rw [s.x_onX]⟩
  case got => exact ⟨_, (exec_xsemp f s).trans (if_pos got), by rw [s.x_onX], by rw [s.x_onX], s.a_onX _⟩
  case takes =>
    refine ⟨_, exec_xsemp_takes f s rfl some_ fresh free, fun j => ?_, s.x_onA _⟩
    rw [State.setSem, s.a_onA]
    exact NMap.get_set _ _ _ _
  case freezes => exact ⟨_, exec_xsemp_freezes f s rfl zero fresh, by rw [State.xfreeze, s.x_onX], s.a_onX _⟩

/-! ### Joins (R186) -/

/-- The core once the slot waits at its join. -/
def State.joined (s : State) (f : XF) : State := s.onX s.focus fun x =>
  { x with joins := NMap.set none x.joins s.slot (some (bits f.imm.toNat 39 32, wrap 64 (s.xpc + 16 * sext 32 f.imm.toNat))) }

section
variable {f : XF} {s : State}

theorem exec_syncjJoin_waits (open_ : (s.joined f).x.allJoined = none) : exec (.syncjJoin f) s = .next (s.joined f) := by
  show execSyncjJoin f s = _
  simp only [execSyncjJoin]
  rw [show State.x (s.onX s.focus fun x => { x with joins := NMap.set none x.joins s.slot (some (bits f.imm.toNat 39 32,
    wrap 64 (s.xpc + 16 * sext 32 f.imm.toNat))) }) = (s.joined f).x from rfl, open_]
  rfl

theorem exec_syncjJoin_all {js : List (Nat × Nat)} (all : (s.joined f).x.allJoined = some js) : exec (.syncjJoin f) s
    = if (js.map Prod.fst).all (· == (js.map Prod.fst).headD 0) then
        .next ((s.joined f).onX (s.joined f).focus fun x => { x with indep := false, pc := (js.headD (0, 0)).2, joins := [] })
      else .next ((s.joined f).xraise 0x11 0 ((js.map Prod.fst).foldr (fun t acc => t + 256 * acc) 0)) := by
  show execSyncjJoin f s = _
  simp only [execSyncjJoin]
  rw [show State.x (s.onX s.focus fun x => { x with joins := NMap.set none x.joins s.slot (some (bits f.imm.toNat 39 32,
    wrap 64 (s.xpc + 16 * sext 32 f.imm.toNat))) }) = (s.joined f).x from rfl, all]
  rfl

end

theorem XCore.allJoined_of_some {x : XCore} {a b c d : Nat × Nat} (h₀ : NMap.get none x.joins 0 = some a) (h₁ : NMap.get none x.joins 1 = some b)
    (h₂ : NMap.get none x.joins 2 = some c) (h₃ : NMap.get none x.joins 3 = some d) : x.allJoined = some [a, b, c, d] := by
  simp only [XCore.allJoined, h₀, h₁, h₂, h₃]

theorem XCore.allJoined_eq_none {x : XCore} {k : Nat} (lt : k < 4) (open_ : NMap.get none x.joins k = none) : x.allJoined = none := by
  cases h : x.allJoined with
  | none => rfl
  | some js =>
    simp only [XCore.allJoined] at h
    split at h
    · next h₀ h₁ h₂ h₃ => interval_cases k <;> simp_all
    · cases h

theorem joins : Clause.Joins := by
  unfold Clause.Joins
  intro f s lt tag line j
  have x : (s.joined f).x = { s.x with joins := (s.joined f).x.joins } := by rw [State.joined, s.x_onX]
  have gets (k : Nat) : NMap.get none (s.joined f).x.joins k = j k := by
    rw [State.joined, s.x_onX]
    refine (NMap.get_set _ _ _ _).trans ?_
    rw [wrap_eq, sext_setWidth]
    rfl
  refine ⟨fun ⟨k, lt, open_⟩ => ?_, fun a b c d h₀ h₁ h₂ h₃ => ?_⟩
  · exact ⟨_, exec_syncjJoin_waits (XCore.allJoined_eq_none lt ((gets k).trans open_)), by rw [x], by rw [x], fun k _ => gets k⟩
  · have step := exec_syncjJoin_all (XCore.allJoined_of_some ((gets 0).trans h₀) ((gets 1).trans h₁) ((gets 2).trans h₂) ((gets 3).trans h₃))
    have same : (([a, b, c, d].map Prod.fst).all (· == ([a, b, c, d].map Prod.fst).headD 0)) = true ↔ a.1 = b.1 ∧ b.1 = c.1 ∧ c.1 = d.1 := by
      simp only [List.map_cons, List.map_nil, List.headD_cons, List.all_cons, List.all_nil, Bool.and_true, Bool.and_eq_true, beq_iff_eq]
      constructor
      · rintro ⟨-, h₁, h₂, h₃⟩
        exact ⟨h₁.symm, h₁.trans h₂.symm, h₂.trans h₃.symm⟩
      · rintro ⟨h₁, h₂, h₃⟩
        exact ⟨trivial, h₁.symm, (h₁.trans h₂).symm, (h₁.trans (h₂.trans h₃)).symm⟩
    refine ⟨fun one => ?_, fun differ fresh => ?_⟩
    · rw [if_pos (same.mpr one)] at step
      exact ⟨_, step, by rw [State.x_onX], by rw [State.x_onX]; rfl, by rw [State.x_onX]⟩
    · rw [if_neg (differ ∘ same.mp)] at step
      have none : (s.joined f).x.trap = none := by rw [x]; exact fresh
      refine ⟨_, step, by rw [State.x_xraise, XCore.run_raise], _, by rw [State.x_xraise, XCore.raise_first none], rfl, ?_⟩
      simp only [List.map_cons, List.map_nil, List.foldr_cons, List.foldr_nil]
      omega

/-- Settles O25, syllable by syllable. -/
theorem controlSyllablesAndJoins : Obligations.ControlSyllablesAndJoins := ⟨controlSyllables, joins⟩

end Sys2Proof.Machine
end

section
/-! PROOFS. A push that lands in a state whose table of clusters is not in canonical form (R83). -/

namespace Sys2Proof.Machine
open Sys2Proof

/-- A push into store queue 0 that is due at vcyc 1. -/
def duePush : Landing := { due := 1, issued := 0, slot := 0, pcl := 0, eff := .push 0 [], vig := none }

/-- A cluster that runs task 0 of node 0 and whose X-core has ended with that push in flight. -/
def pushingCluster : Cluster :=
  { Cluster.reset with
    x := { Cluster.reset.x with run := .ended, land := [duePush] }
    ctl := { Cluster.reset.ctl with occ := .running, node := 0, task := 0 } }

/-- An SQD of that task that has still to read a tile out of store queue 0. -/
def openSqd : Cmd :=
  { id := 0, cid := 0, mode := .t, node := 0, task := 0, seq := 0, kind := .sqd, cls := 0, pcl := 0, scope := .cl, word := none,
    src := .sp 0 0, dst := .sp 0 0, count := 4096, aux := 0, bcast := false, layout := 0, tpl := none, pat := 0, stamp := none, started := false,
    lock := 0, ask := 0, piece := 0, got := [], done := [], buf := [], performed := 0, counted := 0, wins := 0, gran := [], vig := true, pc := 0 }

/-- The cluster on which the task left eight of them behind, so that no slot of the queue is free (R151). -/
def leavingCluster : Cluster := { Cluster.reset with a := { Cluster.reset.a with cmds := List.replicate 8 openSqd } }

/-- The table lists physical cluster 16 before physical cluster 0: it is not in canonical form, and a write to the first drops the second. -/
def unorderedClusters : State := { State.reset with clusters := [(16, pushingCluster), (0, leavingCluster)] }

theorem unorderedClusters_cl : unorderedClusters.cl 0 = pushingCluster := by decide +kernel

theorem unorderedClusters_full : 8 ≤ unorderedClusters.sqOcc 0 0 := by decide +kernel

/-- The vcyc drops the eight SQDs before the push lands, which then finds the queue empty. -/
theorem unorderedClusters_takes_push :
    (match exec (.vcyc 0 []) unorderedClusters with
      | .next t => NMap.get [] (t.cl 0).x.sq 0
      | _ => []) = [[]] := by decide +kernel

/-- Refutes O33: the statement is about every state, also one whose table of clusters is not in canonical form.
There the write of the counter drops the entry with the task's SQDs, so that a push into a store queue that was full lands and raises no trap. -/
theorem not_resultsLand : ¬ Obligations.ResultsLand := by
  intro h
  obtain ⟨-, -, -, -, -, full, -⟩ :=
    h 0 [] unorderedClusters duePush (by rw [unorderedClusters_cl]; rfl) (by rw [unorderedClusters_cl]; rfl) (by rw [unorderedClusters_cl]; rfl)
      (by rw [unorderedClusters_cl]; rfl) (by rw [unorderedClusters_cl]; rfl) rfl
  obtain ⟨t, step, -, -, empty, -⟩ := full 0 [] rfl unorderedClusters_full (by rw [unorderedClusters_cl]; rfl)
  have pushed := unorderedClusters_takes_push
  rw [step] at pushed
  have none : NMap.get [] (unorderedClusters.cl 0).x.sq 0 = [] := by rw [unorderedClusters_cl]; rfl
  exact absurd (pushed.symm.trans (empty.trans none)) (by decide)

end Sys2Proof.Machine
end

section
/-! PROOFS. The vcyc counter: its advance, its freezes and their ends, and the taking of an X trap (R189, R190, R418). -/

namespace Sys2Proof.Machine
open Sys2Proof

theorem State.x_refocused (s : State) (cl : Nat) : ({ s with focus := cl } : State).x = (s.cl cl).x := rfl
theorem State.cur_refocused (s : State) (cl : Nat) : ({ s with focus := cl } : State).cur = s.cl cl := rfl
theorem State.halting_refocused (s : State) (cl : Nat) : ({ s with focus := cl } : State).halting cl = s.halting cl := rfl

/-! ### The counter -/

section
variable {cl : Nat} {s : State} (free : (s.cl cl).x.freeze = none) (run : (s.cl cl).x.run = .run) (issued : (s.cl cl).x.issued = true)
  (on : (s.cl cl).x.ckptNow = false) (cmps : List Cmp)
include free run issued on

/-- The next syllables may issue: the counter takes their vcyc. -/
theorem exec_vcyc_go {u : State} {ys : List Syl} (next : ({ s with focus := cl } : State).xNext cmps = .go u ys) :
    exec (.vcyc cl cmps) s = .next (u.vcycStep cl cmps) := by
  show execVcyc cl cmps s = _
  simp only [execVcyc, State.x_refocused, free, run, issued, on, next, Option.isSome_none, Bool.not_true, Bool.and_false, Bool.or_self,
    Bool.false_eq_true, if_false]

/-- A cause holds them back: the counter freezes. -/
theorem exec_vcyc_freeze {u : State} {k : Freeze} (next : ({ s with focus := cl } : State).xNext cmps = .freeze u k) :
    exec (.vcyc cl cmps) s = .next (u.xfreeze k) := by
  show execVcyc cl cmps s = _
  simp only [execVcyc, State.x_refocused, free, run, issued, on, next, Option.isSome_none, Bool.not_true, Bool.and_false, Bool.or_self,
    Bool.false_eq_true, if_false]

end

/-! ### The ends of freezes -/

theorem State.x_thaw (s : State) (k : Option Freeze) : (s.thaw k).x = { s.x with freeze := k, frozenAt := s.clk } := s.x_onX _

theorem State.freeze_thaw (s : State) (cl : Nat) : (((({ s with focus := cl } : State).thaw none)).cl cl).x.freeze = none :=
  (congrArg XCore.freeze (State.x_thaw { s with focus := cl } none) :)

/-- A bank that is among those touched is awake. -/
theorem Ctl.bankAsleep_touch_of_mem (c : Ctl) (now : Nat) {ks : List Nat} {k : Nat} (mem : k ∈ ks) : (c.touch now ks).bankAsleep k = false :=
  (NMap.get_foldl_set (fun _ => false) ks c.asleep k).trans (if_pos mem)

theorem State.sem_onX (s : State) (n : Nat) (f : XCore → XCore) (k : Nat) : (s.onX n f).sem n k = s.sem n k :=
  (congrArg (fun c : Cluster => NMap.get 0 c.a.sems k) (s.cl_onX_self n f) :)

theorem State.sem_setSem (s : State) (n k v : Nat) : (s.setSem n k v).sem n k = v :=
  (congrArg (fun c : Cluster => NMap.get 0 c.a.sems k) (s.cl_onA_self n _)).trans (NMap.get_set_self _ _ _)

/-- The end of an XSEMP's freeze takes its count. -/
theorem State.takeSem_sem {s : State} {k : Nat} (counted : s.sem s.focus k ≠ 0) :
    (s.takeSem (.sem k)).x = { s.x with semGot := some k } ∧ (s.takeSem (.sem k)).sem s.focus k = s.sem s.focus k - 1 := by
  have taken : s.takeSem (.sem k) = (s.setSem s.focus k (s.sem s.focus k - 1)).onX s.focus fun x => { x with semGot := some k } := if_neg counted
  constructor
  · rw [taken]
    exact (State.x_onX _ _).trans (congrArg (fun x : XCore => { x with semGot := some k }) (s.x_onA _))
  · rw [taken, State.sem_onX, State.sem_setSem]

section
variable {cl : Nat} {s : State} (unhalted : s.halting cl = false)
include unhalted

theorem exec_xFreezeEnd_beats {n : Nat} (frozen : (s.cl cl).x.freeze = some (.beats n)) (past : (s.cl cl).x.frozenAt + n < s.clk) :
    exec (.xFreezeEnd cl) s = .next (({ s with focus := cl } : State).thaw none) := by
  show execXFreezeEnd cl s = _
  simp only [execXFreezeEnd, State.x_refocused, frozen, State.halting_refocused, unhalted, past,
    Bool.false_and, Bool.false_eq_true, if_false, if_true]

theorem exec_xFreezeEnd_retrain (frozen : (s.cl cl).x.freeze = some .retrain) (ended : (s.cl cl).ctl.retrainEnd = none) :
    exec (.xFreezeEnd cl) s = .next (({ s with focus := cl } : State).thaw none) := by
  show execXFreezeEnd cl s = _
  simp only [execXFreezeEnd, State.x_refocused, State.cur_refocused, frozen, State.halting_refocused, unhalted, ended, Option.isSome_none,
    Bool.false_and, Bool.false_eq_true, if_false]

theorem exec_xFreezeEnd_tower (frozen : (s.cl cl).x.freeze = some .tower)
    (fresh : ∀ k ∈ (s.cl cl).x.banksAt ((s.cl cl).x.vcyc + 1), (s.cl cl).ctl.bankRefreshing k = false) :
    exec (.xFreezeEnd cl) s = .next ((({ s with focus := cl } : State).thaw none).onCtl cl fun c =>
      c.touch s.clk ((s.cl cl).x.banksAt ((s.cl cl).x.vcyc + 1))) := by
  have none_refreshes : ((s.cl cl).x.banksAt ((s.cl cl).x.vcyc + 1)).any (s.cl cl).ctl.bankRefreshing = false :=
    List.any_eq_false.mpr fun k mem => by simp [fresh k mem]
  show execXFreezeEnd cl s = _
  simp only [execXFreezeEnd, State.x_refocused, State.cur_refocused, frozen, State.halting_refocused, unhalted,
    none_refreshes, Bool.false_and, Bool.false_eq_true, if_false]

/-- A freeze that a syllable causes ends when the next vcyc's syllables may issue. -/
theorem exec_xFreezeEnd_issue {k : Freeze} (frozen : (s.cl cl).x.freeze = some k) (cause : k = .queue ∨ ∃ n, k = .sem n)
    (run : (s.cl cl).x.run = .run) {u : State} {ys : List Syl} (next : ({ s with focus := cl } : State).xNext [] = .go u ys) :
    exec (.xFreezeEnd cl) s = .next ((u.thaw none).takeSem k) := by
  show execXFreezeEnd cl s = _
  rcases cause with rfl | ⟨n, rfl⟩
  all_goals simp only [execXFreezeEnd, State.x_refocused, frozen, State.halting_refocused, unhalted, run, next,
    bne_self_eq_false, Bool.false_and, Bool.false_eq_true, if_false]

end

/-! ### X traps -/

/-- The trap of a drained X-core, other than a protection mismatch, is taken by firmware that takes traps. -/
theorem exec_xTrapTaken {cl : Nat} {s : State} {e : XTrap} (pending : s.xTrapDue cl = some e) (other : e.code ≠ 7) (mode : (s.cl cl).a.mode = .s)
    (enabled : (s.cl cl).a.sstat.getLsbD 1 = true) :
    exec (.xTrapTaken cl) s = .next ((s.onX cl fun x => { x with trap := none }).onA cl fun a =>
      a.enter e.code e.detail (BitVec.ofNat 64 e.tval) true (s.cl cl).a.pc) := by
  have same : ((s.onX cl fun x => { x with trap := none }).cl cl).a = (s.cl cl).a := (congrArg Cluster.a (s.cl_onX_self cl _) :)
  have mode' : ((s.onX cl fun x => { x with trap := none }).cl cl).a.mode = .s := by rw [same, mode]
  have enabled' : ((s.onX cl fun x => { x with trap := none }).cl cl).a.sstat.getLsbD 1 = true := by rw [same, enabled]
  show execXTrapTaken cl s = _
  simp only [execXTrapTaken, pending, State.takeXTrap, if_neg other, same]
  rw [State.takeTrap_of_enabled mode' enabled']

theorem causeOf_x (code detail : Nat) : causeOf code detail true = BitVec.ofNat 64 (code % 256 + detail % 256 * 256 + 65536) := rfl

/-- Settles O34: the counter by what `xNext` answers, each freeze by its cause, and the trap by its entry. -/
theorem counterFreezesAndTraps : Obligations.CounterFreezesAndTraps := by
  intro cl cmps s t x
  refine ⟨fun run free issued on => ⟨fun u ys next => exec_vcyc_go free run issued on cmps next,
      fun u k next => exec_vcyc_freeze free run issued on cmps next⟩,
    fun unhalted => ⟨?beats, ?retrain, ?tower, ?queue, ?sem⟩, ?trap⟩
  case beats => exact fun n frozen past => ⟨_, exec_xFreezeEnd_beats unhalted frozen past, s.freeze_thaw cl⟩
  case retrain => exact fun frozen ended => ⟨_, exec_xFreezeEnd_retrain unhalted frozen ended, s.freeze_thaw cl⟩
  case tower =>
    intro frozen fresh
    refine ⟨_, exec_xFreezeEnd_tower unhalted frozen fresh, ?_, fun k mem => ?_⟩
    · exact (congrArg (fun c : Cluster => c.x.freeze) (State.cl_onCl_self _ cl _)).trans (s.freeze_thaw cl)
    · exact (congrArg (fun c : Cluster => c.ctl.bankAsleep k) (State.cl_onCl_self _ cl _)).trans (Ctl.bankAsleep_touch_of_mem _ _ mem)
  case queue =>
    intro frozen run u ys next
    exact ⟨_, exec_xFreezeEnd_issue unhalted frozen (.inl rfl) run next, congrArg XCore.freeze (u.x_thaw none)⟩
  case sem =>
    intro k frozen run u ys next counted here
    have left : (u.thaw none).sem cl k = u.sem cl k := by rw [← here]; exact u.sem_onX _ _ _
    have focused : (u.thaw none).focus = cl := here
    have counted' : (u.thaw none).sem (u.thaw none).focus k ≠ 0 := by rw [focused, left]; exact counted
    obtain ⟨x_eq, sem_eq⟩ := State.takeSem_sem counted'
    rw [focused] at sem_eq
    refine ⟨_, exec_xFreezeEnd_issue unhalted frozen (.inr ⟨k, rfl⟩) run next, ?_, ?_, sem_eq.trans (congrArg (· - 1) left)⟩
    · rw [x_eq, State.x_thaw]
    · rw [x_eq]
  case trap =>
    intro e pending other mode enabled
    refine ⟨_, exec_xTrapTaken pending other mode enabled, ?_⟩
    rw [State.cl_onA_self, State.cl_onX_self]
    exact ⟨rfl, rfl, causeOf_x _ _, rfl, rfl⟩

end Sys2Proof.Machine
end

section
/-! PROOFS. The turns of the agenda, and that the instructions of the integer and control chapter leave the focus where it is (R210, R265-R285, R432). -/

namespace Sys2Proof.Machine
open Sys2Proof

/-! ### What ends a task -/

theorem State.focus_foldl {α : Type} {f : State → α → State} (keeps : ∀ s a, (f s a).focus = s.focus) (l : List α) (s : State) :
    (l.foldl f s).focus = s.focus :=
  List.foldlRecOn l f (motive := fun t => t.focus = s.focus) rfl fun t ih a _ => (keeps t a).trans ih

theorem State.focus_onNode (s : State) (e : Nat) (f : Node → Node) : (s.onNode e f).focus = s.focus := by
  simp only [State.onNode]
  split <;> rfl

theorem State.focus_softWrite (s : State) (cl a : Nat) (bs : List Byte) : (s.softWrite cl a bs).focus = s.focus := by
  simp only [State.softWrite]
  split <;> rfl

theorem State.focus_endDrain (s : State) (cl : Nat) : (s.endDrain cl).focus = s.focus := by
  simp only [State.endDrain]
  split
  · split
    · exact State.focus_foldl (fun s _ => s.focus_softWrite _ _ _) _ s
    · rfl
  · rfl

theorem State.focus_endTask (s : State) (cl : Nat) (f : Fate) : (s.endTask cl f).focus = s.focus := by
  simp only [State.endTask]
  split
  · rfl
  · exact (State.focus_onNode _ _ _).trans (s.focus_endDrain cl)

theorem State.focus_dropTasks (s : State) (cid : Nat) (l : List Nat) : (s.dropTasks cid l).focus = s.focus := by
  refine State.focus_foldl (fun s n => ?_) l s
  split
  · exact s.focus_endTask n .drop
  · rfl

theorem State.focus_dropRecords (s : State) (rs : List Susp) : (s.dropRecords rs).focus = s.focus :=
  State.focus_foldl (f := fun (s : State) (r : Susp) => s.dropSends r.x.land) (fun _ _ => rfl) rs s

theorem State.focus_dropSuspended (s : State) (cid : Nat) : (s.dropSuspended cid).focus = s.focus := by
  refine (State.focus_foldl (fun s e => ?_) _ _).trans (rfl : (s.dropLate _).focus = s.focus)
  split
  · split
    · exact s.focus_dropRecords _
    · rfl
  · rfl

theorem State.focus_clearSusp (s : State) (cid : Nat) : (s.clearSusp cid).focus = s.focus := rfl

theorem State.focus_abortContext (s : State) (cl cid code detail tval : Nat) : (s.abortContext cl cid code detail tval).focus = s.focus := by
  rw [State.abortContext_eq, State.focus_clearSusp, State.focus_dropSuspended, State.focus_dropTasks, State.onCtx_focus, State.report_focus]

/-! ### Traps -/

theorem State.focus_enterTrap (s : State) (cl code detail : Nat) (tval : W64) (xc : Bool) (epc : W64) :
    (s.enterTrap cl code detail tval xc epc).focus = s.focus := by
  simp only [State.enterTrap, State.doubleFault]
  split
  · split
    · rfl
    · rw [State.onCl_focus, State.focus_abortContext, State.report_focus]
  · rfl

theorem State.focus_dispose (s : State) (cl code detail : Nat) (tval : W64) : (s.dispose cl code detail tval).focus = s.focus := by
  simp only [State.dispose]
  split
  · rfl
  · split
    · rfl
    · exact State.focus_abortContext _ _ _ _ _ _

theorem State.focus_trapHere (s : State) (code detail : Nat) (tval : W64) : (s.trapHere code detail tval).focus = s.focus := by
  simp only [State.trapHere, State.takeTrap]
  split
  · split
    · exact (State.focus_dispose _ _ _ _ _).trans (State.focus_enterTrap _ _ _ _ _ _ _)
    · exact State.focus_enterTrap _ _ _ _ _ _ _
  · rfl

/-! ### The integer and control chapter -/

/-- An outcome keeps the focus of `s`, if it is a state. -/
def State.KeepsFocus (s : State) (o : Out) : Prop := ∀ u, o = .next u → u.focus = s.focus

theorem State.keepsFocus_whenReady {s t : State} (rs : List (BitVec 6)) (kept : t.focus = s.focus) : s.KeepsFocus (whenReady s rs t) := by
  intro u done
  simp only [whenReady] at done
  split at done <;> cases done
  · exact kept
  · rfl

theorem State.keepsFocus_alu (s : State) (f : AF) (v : W64) : s.KeepsFocus (s.alu f v) := State.keepsFocus_whenReady _ rfl

theorem State.keepsFocus_branch (s : State) (f : AF) (c : Bool) : s.KeepsFocus (s.branch f c) :=
  State.keepsFocus_whenReady _ (by cases c <;> rfl)

theorem State.keepsFocus_jali (s : State) (f : AF) : s.KeepsFocus (execJali f s) := by
  refine State.keepsFocus_whenReady _ ?_
  split
  · rfl
  · exact s.focus_trapHere _ _ _

theorem State.keepsFocus_loop (s : State) (f : AF) : s.KeepsFocus (execLoop f s) := by
  refine State.keepsFocus_whenReady _ ?_
  split <;> split <;> rfl

/-- The rows of the integer and control chapter: those with opcodes up to 0x45 (R210). -/
def formedRows : List ARow := aRows.take 59

theorem mem_formedRows {r : ARow} (mem : r ∈ aRows) (low : r.opc ≤ 0x45) : r ∈ formedRows := by
  have above : ∀ r ∈ aRows.drop 59, 0x45 < r.opc := by decide
  rw [← List.take_append_drop 59 aRows, List.mem_append] at mem
  exact mem.resolve_right fun late => absurd (above r late) (Nat.not_lt.mpr low)

theorem keepsFocus_formedRows : ∀ r ∈ formedRows, ∀ (f : AF) (s : State), s.KeepsFocus (exec (r.instr f) s) := by
  iterate 30 refine List.forall_mem_cons.mpr ⟨fun f s => s.keepsFocus_alu f _, ?_⟩
  refine List.forall_mem_cons.mpr ⟨fun f s => State.keepsFocus_whenReady _ rfl, ?_⟩
  iterate 18 refine List.forall_mem_cons.mpr ⟨fun f s => s.keepsFocus_alu f _, ?_⟩
  refine List.forall_mem_cons.mpr ⟨fun f s u done => by cases done; rfl, ?_⟩
  refine List.forall_mem_cons.mpr ⟨fun f s => State.keepsFocus_whenReady _ rfl, ?_⟩
  refine List.forall_mem_cons.mpr ⟨fun f s => s.keepsFocus_jali f, ?_⟩
  refine List.forall_mem_cons.mpr ⟨fun f s => s.keepsFocus_loop f, ?_⟩
  iterate 6 refine List.forall_mem_cons.mpr ⟨fun f s => s.keepsFocus_branch f _, ?_⟩
  exact List.forall_mem_nil _

theorem selectA_some {opc : Nat} {f : AF} {rows : List ARow} {r : ARow} (found : selectA opc f rows = some r) : r ∈ rows ∧ r.opc = opc := by
  induction rows with
  | nil => cases found
  | cons q qs ih =>
    rw [selectA] at found
    split at found
    · next same =>
      cases found
      exact ⟨List.mem_cons_self, (beq_iff_eq.mp (Bool.and_eq_true_iff.mp same).1).symm⟩
    · exact ⟨List.mem_cons_of_mem q (ih found).1, (ih found).2⟩

theorem decodeA_keepsFocus {w : W64} {i : Instr} (decoded : decodeA w = .ok i) (formed : formedWord w = true) (s : State) : s.KeepsFocus (exec i s) := by
  rw [decodeA] at decoded
  split at decoded
  · cases decoded
  · next r found =>
    obtain ⟨mem, opc⟩ := selectA_some found
    split at decoded
    · cases decoded
      refine keepsFocus_formedRows r (mem_formedRows mem ?_) _ s
      simp only [formedWord, Bool.and_eq_true, decide_eq_true_eq] at formed
      rw [opc]
      exact formed.2
    · cases decoded

/-! ### A step is a turn of the agenda (log 1) -/

section
variable {s : State} {dt cl : Nat} {lag : Option (Nat × Nat)} {ts : List Turn}

theorem step_acore (agenda : s.agenda = { dt := dt, who := .acore cl, lag := lag } :: ts) (small : cl < 192) :
    step s = aTurn exec cl (turnState s dt cl lag ts) := by
  simp only [step, stepWith, agenda, if_pos small]
  rfl

theorem step_ahead (agenda : s.agenda = { dt := dt, who := .ahead cl, lag := lag } :: ts) (small : cl < 192) :
    step s = aheadTurn exec cl (turnState s dt cl lag ts) := by
  simp only [step, stepWith, agenda, if_pos small]
  rfl

theorem step_xcore (agenda : s.agenda = { dt := dt, who := .xcore cl, lag := lag } :: ts) (small : cl < 192) :
    step s = xTurn exec cl (turnState s dt cl lag ts) := by
  simp only [step, stepWith, agenda, if_pos small]
  rfl

end

/-! ### The turn of an A-core -/

theorem State.unasked {e : State} (free : e.a.mode = .t → e.cur.ctl.preempt = false) : (e.cur.ctl.preempt && e.a.mode == .t) = false := by
  by_cases mode : e.a.mode = .t
  · rw [free mode, Bool.false_and]
  · rw [beq_false_of_ne mode, Bool.and_false]

section
variable {e : State} {cl : Nat} (here : e.focus = cl)
include here

theorem aTurn_pending (pending : e.trapPending cl = true) : aTurn exec cl e = .next (e.takePending cl) := by
  subst here
  exact if_pos pending

section
variable (clear : e.trapPending cl = false) (run : e.a.run = .run) (precise : e.a.precise = true) (near : e.cur.vigil.behind = false)
include clear run precise near

theorem aTurn_halts (mode : e.a.mode = .t) (asked : e.cur.ctl.preempt = true) : aTurn exec cl e = e.haltTurn exec := by
  subst here
  simp only [aTurn, clear, run, precise, near, mode, asked, Bool.false_eq_true, if_false, bne_self_eq_false, Bool.not_true, Bool.or_self, beq_self_eq_true,
    Bool.and_self, if_true]

theorem aTurn_issues (free : e.a.mode = .t → e.cur.ctl.preempt = false) : aTurn exec cl e = e.instrTurn exec := by
  subst here
  simp only [aTurn, clear, run, precise, near, State.unasked free, Bool.false_eq_true, if_false, bne_self_eq_false, Bool.not_true, Bool.or_self]

end
end

theorem State.takePending_xTrap {e : State} {cl : Nat} {x : XTrap} (due : e.xTrapDue cl = some x) : e.takePending cl = e.takeXTrap cl x := by
  simp only [State.takePending, due]

theorem State.takePending_unclean {e : State} {cl : Nat} (unclean : (e.cl cl).a.clean = false) : e.takePending cl = e := by
  have none_due : e.xTrapDue cl = none := by
    simp only [State.xTrapDue, unclean, Bool.false_and, Bool.false_eq_true, if_false]
  simp only [State.takePending, none_due, unclean, Bool.not_false, Bool.true_or, if_true]

/-! ### The halt of a task's A-core -/

section
variable {e t u : State} (here : e.instrTurn exec = .next t) (done : e.allDone.instrTurn exec = .next u)
include here done

theorem State.haltTurn_eq : e.haltTurn exec = .next (if t.trapped e.focus then t else if u.trapped e.focus then e else e.freezeA e.focus) := by
  simp only [State.haltTurn, here, done]

theorem State.haltTurn_trap (mode : (t.cl e.focus).a.mode = .s) : e.haltTurn exec = .next t := by
  simp only [State.haltTurn_eq here done, State.trapped, mode, beq_self_eq_true, if_true]

theorem State.haltTurn_later (mode : (t.cl e.focus).a.mode = .t) (later : (u.cl e.focus).a.mode = .s) : e.haltTurn exec = .next e := by
  simp only [State.haltTurn_eq here done, State.trapped, mode, later, beq_self_eq_true, if_true, show (Mode.t == Mode.s) = false from rfl,
    Bool.false_eq_true, if_false]

theorem State.haltTurn_freezes (mode : (t.cl e.focus).a.mode = .t) (later : (u.cl e.focus).a.mode = .t) :
    e.haltTurn exec = .next (e.freezeA e.focus) := by
  simp only [State.haltTurn_eq here done, State.trapped, mode, later, show (Mode.t == Mode.s) = false from rfl, Bool.false_eq_true, if_false]

end

theorem State.freezeA_spec (e : State) (cl : Nat) :
    ((e.freezeA cl).cl cl).a = { (e.cl cl).a with run := .frozen, wait := none, growReq := none } ∧ SameBytes e (e.freezeA cl) :=
  ⟨(congrArg Cluster.a (e.cl_onA_self cl _) :), .onA e cl _⟩

/-! ### The instruction at the pc -/

theorem State.instrTurn_far {e : State} (far : 2 ^ 52 ≤ e.a.pc.toNat) : e.instrTurn exec = .next (e.spaceFault kNonCanonical e.a.pc) := by
  simp only [State.instrTurn, decide_eq_false (Nat.not_lt.mpr far), Bool.not_false, if_true]

section
variable {e t : State} {data : List Byte} (near : e.a.pc.toNat < 2 ^ 52) (got : e.fetchLine e.focus false e.a.pc.toNat = .got data t)
include near got

theorem State.instrTurn_near : e.instrTurn exec = e.waited (t.issueA exec (lineWord data e.a.pc.toNat)) := by
  simp only [State.instrTurn, decide_eq_true near, got, Bool.not_true, Bool.false_eq_true, if_false]
  rfl

end

theorem privileged_iff (w : W64) : privileged w = true ↔ 0xF0 ≤ (w.extractLsb' 56 8).toNat ∧ (w.extractLsb' 56 8).toNat ≤ 0xF9 := by
  simp only [privileged, Bool.and_eq_true, decide_eq_true_eq]

section
variable {t : State} {w : W64}

theorem State.issueA_privileged (mode : t.a.mode = .t) (reserved : privileged w = true) : t.issueA exec w = .next (t.trapHere 2 0 w) := by
  simp only [State.issueA, mode, reserved, beq_self_eq_true, Bool.and_self, if_true]

variable (may : ¬(t.a.mode = .t ∧ privileged w = true))
include may

theorem State.issueA_illegal {r : Reject} (bad : decodeA w = .error r) : t.issueA exec w = .next (t.trapHere 1 r.code w) := by
  simp only [State.issueA, Bool.and_eq_true, beq_iff_eq, if_neg may, bad]

variable {i : Instr} (good : decodeA w = .ok i)
include good

theorem State.issueA_next {u : State} (runs : exec i t = .next u) : t.issueA exec w = .next (t.vigilA exec i w u) := by
  simp only [State.issueA, Bool.and_eq_true, beq_iff_eq, if_neg may, good, runs]

theorem State.issueA_fault {f : Fault} (runs : exec i t = .fault f) : t.issueA exec w = .fault f := by
  simp only [State.issueA, Bool.and_eq_true, beq_iff_eq, if_neg may, good, runs]

end

/-! ### The Vigil core (R268, R432) -/

theorem State.vigilA_agrees {s : State} (agrees : s.cur.vigil.g = s.a.g) (i : Instr) (w : W64) (u : State) : s.vigilA exec i w u = u :=
  if_pos (beq_iff_eq.mpr agrees)

theorem State.vigilX_agrees {s : State} (x : s.cur.vigil.x = s.x.x) (lc : s.cur.vigil.lc = s.x.lc) (ec : s.cur.vigil.ec = s.x.ec)
    (rb : s.cur.vigil.rb = s.x.rb) (i : Instr) (u : State) : s.vigilX exec i u = u := by
  refine if_pos ?_
  simp only [Bool.and_eq_true, beq_iff_eq]
  exact ⟨⟨⟨x, lc⟩, ec⟩, rb⟩

/-! ### The turn ahead of a waiting instruction (R285) -/

/-- Where a turn ahead of the wait `w` goes on. -/
def State.aheadOf (e : State) (w : Wait) : Ahead := w.ahead.getD { pc := e.a.pc + 8, gs := [], vs := [] }

section
variable {e : State} {cl : Nat} (here : e.focus = cl)
include here

theorem aheadTurn_none (none : e.a.wait = none) : aheadTurn exec cl e = .next e := by
  subst here
  simp only [aheadTurn, none]

variable {w : Wait} (waits : e.a.wait = some w)
include waits

theorem aheadTurn_held (held : w.kind.passed = false) : aheadTurn exec cl e = .next e := by
  subst here
  simp only [aheadTurn, waits, held, Bool.not_false, Bool.true_or, if_true]

variable {l : CLine} {i : Instr} {n : Nat} {k : AForm} {f : AF}
  (passed : w.kind.passed = true) (clear : e.trapPending cl = false) (run : e.a.run = .run) (near : e.cur.vigil.behind = false)
  (free : e.a.mode = .t → e.cur.ctl.preempt = false) (low : (e.aheadOf w).pc.toNat < 2 ^ 52)
  (cached : e.a.icache.find? (fun l => l.cid == e.runCid cl && l.addr == (e.aheadOf w).pc.toNat / 64 * 64) = some l)
  (good : decodeA (lineWord l.data (e.aheadOf w).pc.toNat) = .ok i) (form : i.aForm = some (n, k, f))
include passed clear run near free low cached good form

theorem aheadTurn_unformed (unformed : formedWord (lineWord l.data (e.aheadOf w).pc.toNat) = false) : aheadTurn exec cl e = .next e := by
  subst here
  simp only [State.aheadOf] at low cached good unformed
  simp only [aheadTurn, waits, passed, clear, run, near, State.unasked free, decide_eq_true low, cached, good, form, unformed, Bool.not_true,
    bne_self_eq_false, Bool.or_self, Bool.false_eq_true, if_false, Bool.not_false, Bool.true_or, if_true]

theorem aheadTurn_named (names : w.dst ≠ 0) (named : w.dst ∈ namedRegs i f) : aheadTurn exec cl e = .next e := by
  subst here
  simp only [State.aheadOf] at low cached good
  simp only [aheadTurn, waits, passed, clear, run, near, State.unasked free, decide_eq_true low, cached, good, form, Bool.not_true,
    bne_self_eq_false, Bool.or_self, Bool.false_eq_true, if_false, bne_iff_ne.mpr names, List.contains_iff_mem.mpr named, Bool.and_self, Bool.or_true, if_true]

theorem aheadTurn_runs (formed : formedWord (lineWord l.data (e.aheadOf w).pc.toNat) = true) (apart : w.dst = 0 ∨ w.dst ∉ namedRegs i f) {u : State}
    (runs : exec i (e.onCl cl fun c => c.passing (e.aheadOf w)) = .next u) :
    aheadTurn exec cl e = .next (if (e.onCl cl fun c => c.passing (e.aheadOf w)).a.strayed u.a then e
      else e.passOn exec w (e.aheadOf w) i (lineWord l.data (e.aheadOf w).pc.toNat) f.d.toNat (e.onCl cl fun c => c.passing (e.aheadOf w)) u) := by
  subst here
  have unnamed : (w.dst != 0 && (namedRegs i f).contains w.dst) = false := by
    rcases apart with zero | other
    · rw [zero]; rfl
    · rw [Bool.and_eq_false_iff]; right; simpa using other
  simp only [State.aheadOf] at low cached good formed runs ⊢
  simp only [aheadTurn, waits, passed, clear, run, near, State.unasked free, decide_eq_true low, cached, good, form, formed, unnamed, runs, Bool.not_true,
    bne_self_eq_false, Bool.or_self, Bool.false_eq_true, if_false]
  rfl

end

theorem ACore.strayed_iff (a u : ACore) :
    a.strayed u = true ↔ u.run ≠ .run ∨ u.mode ≠ a.mode ∨ u.sstat ≠ a.sstat ∨ u.pc = a.pc ∨ u.wait.isSome = true := by
  simp only [ACore.strayed, Bool.or_eq_true, bne_iff_ne, beq_iff_eq, or_assoc]

section
variable {e p u : State} {w : Wait} {h : Ahead} {i : Instr} {word : W64} {d : Nat}

theorem State.passOn_agrees (agrees : p.cur.vigil.g = p.a.g) (run : u.a.run = .run) : e.passOn exec w h i word d p u = e.keepAhead w h d u := by
  simp only [State.passOn, State.vigilA_agrees agrees, run, bne_self_eq_false, Bool.false_eq_true, if_false]

/-- What is kept of an instruction that has issued ahead: the A-core stands where it stood, and the wait holds where it goes on and the register
that it names. -/
theorem State.keepAhead_spec (same : u.focus = e.focus) : ∃ h',
    ((e.keepAhead w h d u).cl e.focus).a.pc = e.a.pc ∧ ((e.keepAhead w h d u).cl e.focus).a.g = e.a.g
      ∧ ((e.keepAhead w h d u).cl e.focus).a.wait = some { w with ahead := some h' }
      ∧ h'.pc = u.a.pc ∧ (d ≠ 0 → (d, NMap.get 0 u.a.g d) ∈ h'.gs) := by
  have cur_eq : (u.cl e.focus).a = u.a := by rw [← same]; rfl
  have kept : (e.keepAhead w h d u).cl e.focus = _ := u.cl_onCl_self e.focus _
  rw [kept]
  refine ⟨_, rfl, rfl, rfl, congrArg ACore.pc cur_eq, fun named => ?_⟩
  simp only [if_neg named, cur_eq]
  exact List.mem_append_right _ (List.mem_singleton_self _)

end

/-! ### The turn of an X-core -/

theorem State.xFetch_of_xReady {e t : State} {ys : List Syl} (ready : e.xReady = .go t ys) : e.xFetch = .go t ys := by
  simp only [State.xReady] at ready
  split at ready
  · cases ready
  · cases ready
  · next fetched _ =>
    split at ready
    · cases ready
    · cases ready
      exact fetched
  · exact ready

theorem ok_of_firstIllegal {ys : List Syl} (none : firstIllegal ys = none) : ∀ y ∈ ys, ∃ i, y.ins = .ok i := by
  induction ys with
  | nil => exact fun y mem => absurd mem List.not_mem_nil
  | cons y ys ih =>
    simp only [firstIllegal] at none
    split at none
    · cases none
    · next i ok =>
      exact List.forall_mem_cons.mpr ⟨⟨i, ok⟩, ih none⟩

/-- The lines of records let syllables wait, stop or trap, and never issue by themselves. -/
theorem State.fetchRecords_ne_go (cl : Nat) (ys zs : List Syl) (s t : State) : s.fetchRecords cl ys ≠ .inl (.go t zs) := by
  induction ys generalizing s with
  | nil => intro h; cases h
  | cons y ys ih =>
    intro h
    simp only [State.fetchRecords] at h
    split at h
    · split at h
      · exact ih _ h
      · split at h
        · exact ih _ h
        · split at h
          · cases h
          · cases h
          · split at h
            · exact ih _ h
            · cases h
    · exact ih _ h

theorem State.decoded_of_xFetch {e t : State} {ys : List Syl} (fetched : e.xFetch = .go t ys) :
    ∀ y ∈ ys, ∃ i forks, y.ins = .ok i ∧ decodePlaced y.word y.slot y.addr e.x.indep forks = .ok i := by
  simp only [State.xFetch] at fetched
  split at fetched
  · cases fetched
  · cases fetched
  · cases fetched
  · next ws u _ =>
    split at fetched
    · cases fetched
    · next legal =>
      split at fetched
      · next found =>
        exact absurd (fetched ▸ found) (State.fetchRecords_ne_go _ _ _ _ _)
      · split at fetched
        · cases fetched
        · cases fetched
          intro y mem
          obtain ⟨i, ok⟩ := ok_of_firstIllegal legal y mem
          obtain ⟨⟨k, a, word⟩, -, rfl⟩ := List.mem_map.mp mem
          exact ⟨i, _, ok, ok⟩

section
variable {s v : State} {y : Syl}

theorem issueSyls_cons (ys : List Syl) (ran : ranSyl s y v) (busy : v.x.run ≠ .idle) : issueSyls exec (y :: ys) s = issueSyls exec ys v := by
  obtain ⟨i, u, ok, runs, rfl⟩ := ran
  simp only [issueSyls, ok, runs, beq_iff_eq, if_neg busy]

theorem issueSyls_singleton (ran : ranSyl s y v) : issueSyls exec [y] s = .next v := by
  obtain ⟨i, u, ok, runs, rfl⟩ := ran
  simp only [issueSyls, ok, runs, ite_self]

end

theorem xTurn_go {e t v : State} {cl : Nat} {ys : List Syl} (here : e.focus = cl) (run : e.x.run = .run) (unissued : e.x.issued = false)
    (free : e.x.freeze = none) (ready : e.xReady = .go t ys)
    (issue : issueSyls exec ys (t.onX cl fun x => { x with ckptNow := false }) = .next v) : xTurn exec cl e = .next (v.xIssued e.x ys) := by
  subst here
  simp only [xTurn, run, unissued, free, ready, issue, bne_self_eq_false, Option.isSome_none, Bool.or_self, Bool.false_eq_true, if_false]

/-! ### Rows that are not instructions, and an empty agenda -/

section
variable {s : State} {dt : Nat} {i : Instr} {lag : Option (Nat × Nat)} {ts : List Turn}
  (agenda : s.agenda = { dt := dt, who := .event i, lag := lag } :: ts)
include agenda

theorem step_fetched (fetched : i.fetched = true) : step s = .refused .notAnEvent := by
  simp only [step, stepWith, agenda, fetched, if_true]

theorem step_event (row : i.fetched = false) (other : ∀ cl x, i ≠ .vcyc cl x) :
    step s = exec i ((({ s with agenda := ts } : State).elapse dt).bootTurn.vigilLag lag) := by
  simp only [step, stepWith, agenda, row, Bool.false_eq_true, if_false]
  split
  · exact absurd rfl (other _ _)
  · rfl

end

theorem step_vcyc {s u : State} {dt cl : Nat} {x : List Cmp} {lag : Option (Nat × Nat)} {ts : List Turn}
    (agenda : s.agenda = { dt := dt, who := .event (.vcyc cl x), lag := lag } :: ts)
    (runs : exec (.vcyc cl x) ((({ s with agenda := ts } : State).elapse dt).bootTurn.vigilLag lag) = .next u) :
    step s = if (((({ s with agenda := ts } : State).elapse dt).bootTurn.vigilLag lag).cl cl).x.vcyc < (u.cl cl).x.vcyc then xTurn exec cl u
      else .next u := by
  have row : (Instr.vcyc cl x).fetched = false := rfl
  simp only [step, stepWith, agenda, row, runs, Bool.false_eq_true, if_false]

theorem step_idle {s : State} (empty : s.agenda = []) (up : s.dev.stage ≠ 0 ∨ s.dev.bootFail ≠ 0 ∨ s.dev.boot ≠ none) :
    step s = .next (s.elapse 1).bootTurn := by
  have not_off : (decide (s.dev.stage = 0) && decide (s.dev.bootFail = 0) && s.dev.boot.isNone) = false := by
    rw [Bool.eq_false_iff]
    simp only [ne_eq, Bool.and_eq_true, decide_eq_true_eq, Option.isNone_iff_eq_none, not_and]
    exact fun ⟨stage, fail⟩ boot => up.elim (· stage) fun up => up.elim (· fail) (· boot)
  simp only [step, stepWith, empty, not_off, Bool.false_eq_true, if_false]

theorem step_powerOn {s : State} (empty : s.agenda = []) (stage : s.dev.stage = 0) (fail : s.dev.bootFail = 0) (boot : s.dev.boot = none) :
    step s = exec (.powerOn { fwOk := true, imgOk := true, trainFail := [], ports := [], times := [] }) s := by
  simp only [step, stepWith, empty, stage, fail, boot, Option.isNone_none, decide_true, Bool.and_self, if_true]
  rfl

/-! ### The parts of the statement -/

/-- A turn of an A-core that halts for a pre-emption. -/
theorem haltTurn_outcomes {e t u : State} (here : e.instrTurn exec = .next t) (done : e.allDone.instrTurn exec = .next u) :
    ((t.cl e.focus).a.mode = .s → e.haltTurn exec = .next t)
      ∧ ((t.cl e.focus).a.mode = .t → (u.cl e.focus).a.mode = .s → e.haltTurn exec = .next e)
      ∧ ((t.cl e.focus).a.mode = .t → (u.cl e.focus).a.mode = .t →
        ∃ v, e.haltTurn exec = .next v ∧ (v.cl e.focus).a.run = .frozen ∧ (v.cl e.focus).a.wait = none ∧ (v.cl e.focus).a.pc = e.a.pc
          ∧ (v.cl e.focus).a.g = e.a.g ∧ SameBytes e v) := by
  refine ⟨State.haltTurn_trap here done, State.haltTurn_later here done, fun mode later => ⟨_, State.haltTurn_freezes here done mode later, ?_⟩⟩
  obtain ⟨a_eq, bytes⟩ := e.freezeA_spec e.focus
  rw [a_eq]
  exact ⟨rfl, rfl, rfl, rfl, bytes⟩

/-- The instruction at the pc: fetched, checked, decoded and run. -/
theorem instrTurn_outcomes (e : State) :
    (2 ^ 52 ≤ e.a.pc.toNat → e.instrTurn exec = .next (e.spaceFault kNonCanonical e.a.pc))
      ∧ ∀ data t, e.a.pc.toNat < 2 ^ 52 → e.fetchLine e.focus false e.a.pc.toNat = .got data t →
          let w : W64 := BitVec.ofNat 64 (ofBytes ((data.drop (e.a.pc.toNat % 64)).take 8))
          let opc := (w.extractLsb' 56 8).toNat
          (t.a.mode = .t → 0xF0 ≤ opc → opc ≤ 0xF9 → e.instrTurn exec = .next (e.caughtUp (t.trapHere 0x02 0 w)))
          ∧ (¬(t.a.mode = .t ∧ 0xF0 ≤ opc ∧ opc ≤ 0xF9) →
              (∀ i, decodeA w = .ok i →
                (∀ u, exec i t = .next u → e.instrTurn exec = .next (e.caughtUp (t.vigilA exec i w u)))
                ∧ ∀ f, exec i t = .fault f → e.instrTurn exec = .fault f)
              ∧ ∀ r, decodeA w = .error r → e.instrTurn exec = .next (e.caughtUp (t.trapHere 0x01 r.code w))) := by
  refine ⟨State.instrTurn_far, ?_⟩
  intro data t near got w opc
  have turn : e.instrTurn exec = e.waited (t.issueA exec w) := State.instrTurn_near near got
  refine ⟨fun mode low high => ?_, fun open_ => ?_⟩
  · rw [turn, State.issueA_privileged mode ((privileged_iff w).mpr ⟨low, high⟩)]
    rfl
  · have may : ¬(t.a.mode = .t ∧ privileged w = true) := by rwa [privileged_iff]
    refine ⟨fun i good => ⟨fun u runs => ?_, fun f runs => ?_⟩, fun r bad => ?_⟩
    · rw [turn, State.issueA_next may good runs]
      rfl
    · rw [turn, State.issueA_fault may good runs]
      rfl
    · rw [turn, State.issueA_illegal may bad]
      rfl

/-- Settles O55, turn by turn of the agenda. -/
theorem stepRunsDecoded : Obligations.StepRunsDecoded := by
  refine ⟨?acore, ?vigil, ?ahead, ?xcore, ?event, ?empty⟩
  case acore =>
    intro s dt cl lag ts agenda small e
    have turn : step s = aTurn exec cl e := step_acore agenda small
    refine ⟨fun pending => ⟨turn.trans (aTurn_pending rfl pending), fun x due => State.takePending_xTrap due, State.takePending_unclean⟩,
      fun clear run precise near => ⟨fun mode asked => ?_, fun free => ?_⟩⟩
    · have halts : step s = e.haltTurn exec := turn.trans (aTurn_halts rfl clear run precise near mode asked)
      refine ⟨halts, fun t u here done => ?_⟩
      rw [halts]
      exact haltTurn_outcomes here done
    · have issues : step s = e.instrTurn exec := turn.trans (aTurn_issues rfl clear run precise near free)
      rw [issues]
      exact instrTurn_outcomes e
  case vigil =>
    exact fun i w s u => ⟨fun agrees => State.vigilA_agrees agrees i w u, fun x lc ec rb => State.vigilX_agrees x lc ec rb i u⟩
  case ahead =>
    intro s dt cl lag ts agenda small e
    have turn : step s = aheadTurn exec cl e := step_ahead agenda small
    rw [turn]
    refine ⟨fun none => aheadTurn_none rfl none, ?_⟩
    intro w waits h
    refine ⟨fun held => aheadTurn_held rfl waits held, ?_⟩
    intro l i n k f passed clear run near free low cached word good form
    refine ⟨aheadTurn_unformed rfl waits passed clear run near free low cached good form,
      aheadTurn_named rfl waits passed clear run near free low cached good form, ?_⟩
    intro u formed apart p runs
    have result : aheadTurn exec cl e = .next (if p.a.strayed u.a then e else e.passOn exec w h i word f.d.toNat p u) :=
      aheadTurn_runs rfl waits passed clear run near free low cached good form formed apart runs
    refine ⟨fun strays => ?_, fun runs_on mode sstat pc wait => ?_⟩
    · exact result.trans (congrArg Host.Outcome.next (if_pos ((ACore.strayed_iff _ _).mpr strays)))
    · have stays : ¬ p.a.strayed u.a = true := by
        simp only [ACore.strayed_iff, not_or, not_not]
        exact ⟨runs_on, mode, sstat, pc, by simp [wait]⟩
      have passes := result.trans (congrArg Host.Outcome.next (if_neg stays))
      refine ⟨passes, fun agrees => ?_⟩
      obtain ⟨h', pc_eq, g_eq, wait_eq, next, named⟩ := State.keepAhead_spec (w := w) (h := h) (d := f.d.toNat)
        (show u.focus = e.focus from decodeA_keepsFocus good formed p u runs)
      refine ⟨_, h', passes.trans (congrArg Host.Outcome.next (State.passOn_agrees agrees runs_on)), pc_eq, g_eq, wait_eq, next, fun nonzero => ?_⟩
      exact named fun zero => nonzero (BitVec.eq_of_toNat_eq zero)
  case xcore =>
    intro s dt cl lag ts t ys agenda small e b run unissued free ready
    have turn : step s = xTurn exec cl e := step_xcore agenda small
    refine ⟨State.decoded_of_xFetch (State.xFetch_of_xReady ready), fun y v one ran => ?_, ?_⟩
    · subst one
      exact turn.trans (xTurn_go rfl run unissued free ready (issueSyls_singleton ran))
    · intro y₀ y₁ y₂ y₃ v₀ v₁ v₂ v₃ four ran₀ busy₀ ran₁ busy₁ ran₂ busy₂ ran₃
      subst four
      refine turn.trans (xTurn_go rfl run unissued free ready ?_)
      rw [issueSyls_cons _ ran₀ busy₀, issueSyls_cons _ ran₁ busy₁, issueSyls_cons _ ran₂ busy₂, issueSyls_singleton ran₃]
  case event =>
    intro s dt i lag ts agenda e
    refine ⟨step_event agenda, fun cl x u same runs => ?_, step_fetched agenda⟩
    subst same
    exact step_vcyc agenda runs
  case empty =>
    exact fun s empty => ⟨step_idle empty, step_powerOn empty⟩

end Sys2Proof.Machine
end

section
/-! PROOFS. Pre-emption: the request, the halt, the save and the resume (R196-R201, R422-R428). -/

namespace Sys2Proof.Machine
open Sys2Proof

/-! ### Tables in canonical form, put together -/

section
variable {α : Type} [DecidableEq α] {d : α}

theorem NMap.wfFrom_of_le {lo b : Nat} {m : NMap α} (wf : NMap.wfFrom d lo m = true) (low : ∀ e ∈ m, b ≤ e.1) : NMap.wfFrom d b m = true := by
  cases m with
  | nil => rfl
  | cons e m =>
    simp only [NMap.wfFrom, Bool.and_eq_true, decide_eq_true_eq] at wf ⊢
    exact ⟨⟨low e List.mem_cons_self, wf.1.2⟩, wf.2⟩

theorem NMap.wfFrom_append {lo mid : Nat} {m n : NMap α} (le : lo ≤ mid) (wfm : NMap.wfFrom d lo m = true) (high : ∀ e ∈ m, e.1 < mid)
    (wfn : NMap.wfFrom d mid n = true) : NMap.wfFrom d lo (m ++ n) = true := by
  induction m generalizing lo with
  | nil => exact NMap.wfFrom_mono wfn le
  | cons e m ih =>
    simp only [List.cons_append, NMap.wfFrom, Bool.and_eq_true, decide_eq_true_eq] at wfm ⊢
    exact ⟨wfm.1, ih (high e List.mem_cons_self) wfm.2 fun x hx => high x (List.mem_cons_of_mem _ hx)⟩

/-- Chunks of `w` keys, one after another. -/
theorem NMap.wfFrom_flatMap_range {f : Nat → NMap α} {w : Nat} (wf : ∀ i, NMap.wfFrom d (i * w) (f i) = true)
    (high : ∀ i, ∀ e ∈ f i, e.1 < (i + 1) * w) (n : Nat) : NMap.wfFrom d 0 ((List.range n).flatMap f) = true := by
  induction n with
  | zero => rfl
  | succ n ih =>
    rw [List.range_succ, List.flatMap_append, List.flatMap_singleton]
    refine NMap.wfFrom_append (Nat.zero_le _) ih (fun e mem => ?_) (wf n)
    obtain ⟨i, small, here⟩ := List.mem_flatMap.mp mem
    exact Nat.lt_of_lt_of_le (high i e here) (Nat.mul_le_mul_right w (List.mem_range.mp small))

/-- Keys moved from `src` on to `dst` on. -/
theorem NMap.wfFrom_shift {lo src : Nat} (dst : Nat) {m : NMap α} (above : src ≤ lo) (wf : NMap.wfFrom d lo m = true) :
    NMap.wfFrom d (dst + (lo - src)) (m.map fun e => (dst + (e.1 - src), e.2)) = true := by
  induction m generalizing lo with
  | nil => rfl
  | cons e m ih =>
    simp only [List.map_cons, NMap.wfFrom, Bool.and_eq_true, decide_eq_true_eq] at wf ⊢
    obtain ⟨⟨low, value⟩, rest⟩ := wf
    refine ⟨⟨by omega, value⟩, ?_⟩
    have next := ih (lo := e.1 + 1) (by omega) rest
    rwa [show dst + (e.1 - src) + 1 = dst + (e.1 + 1 - src) by omega]

theorem NMap.ne_of_mem {lo : Nat} {m : NMap α} (wf : NMap.wfFrom d lo m = true) {e : Nat × α} (mem : e ∈ m) : e.2 ≠ d := by
  induction m generalizing lo with
  | nil => cases mem
  | cons x m ih =>
    simp only [NMap.wfFrom, Bool.and_eq_true, Bool.not_eq_true', decide_eq_false_iff_not] at wf
    obtain rfl | later := List.mem_cons.mp mem
    · exact wf.1.2
    · exact ih wf.2 later

end

/-! ### A memory overlaid by an image within ranges -/

theorem inRanges_iff {rs : List (Nat × Nat)} {a : Nat} : inRanges rs a = true ↔ ∃ r ∈ rs, r.1 ≤ a ∧ a < r.1 + r.2 := by
  simp only [inRanges, List.any_eq_true, Bool.and_eq_true, decide_eq_true_eq]

theorem Memory.mem_of_byte_ne {m : Memory} {a : Nat} (some_ : m.byte a ≠ 0) : (a, m.byte a) ∈ m := NMap.mem_of_get_ne some_

theorem Memory.byte_of_mem {m : Memory} (wf : m.wf = true) {a : Nat} {v : Byte} (mem : (a, v) ∈ m) : m.byte a = v := NMap.get_of_mem wf mem

/-- What is left of a memory whose ranges are cleared. -/
def Memory.clearAll (m : Memory) (rs : List (Nat × Nat)) : Memory := rs.foldl (fun m r => m.clear r.1 (r.1 + r.2)) m

theorem Memory.wf_clearAll {m : Memory} (wf : m.wf = true) (rs : List (Nat × Nat)) : (m.clearAll rs).wf = true :=
  List.foldlRecOn rs _ (motive := fun m : Memory => m.wf = true) wf fun _ ih _ _ => NMap.wf_clear ih _ _

theorem Memory.byte_clear {m : Memory} (wf : m.wf = true) (lo hi a : Nat) : Memory.byte (m.clear lo hi) a = if lo ≤ a ∧ a < hi then 0 else m.byte a := by
  by_cases within : lo ≤ a ∧ a < hi
  · rw [if_pos within]
    exact NMap.get_filter_of_out m fun v => by simp [within]
  · rw [if_neg within]
    exact NMap.get_filter_of_in wf fun v => by
      simp only [Bool.not_eq_true', Bool.and_eq_false_iff, decide_eq_false_iff_not]
      omega

theorem Memory.byte_clearAll {m : Memory} (wf : m.wf = true) (rs : List (Nat × Nat)) (a : Nat) :
    (m.clearAll rs).byte a = if inRanges rs a then 0 else m.byte a := by
  induction rs generalizing m with
  | nil => rfl
  | cons r rs ih =>
    have rest : m.clearAll (r :: rs) = Memory.clearAll (m.clear r.1 (r.1 + r.2)) rs := rfl
    have first : inRanges (r :: rs) a = (decide (r.1 ≤ a) && decide (a < r.1 + r.2) || inRanges rs a) := rfl
    rw [rest, ih (NMap.wf_clear wf _ _), Memory.byte_clear wf, first]
    by_cases here : r.1 ≤ a ∧ a < r.1 + r.2
    · rw [if_pos here, ite_self, decide_eq_true here.1, decide_eq_true here.2]
      rfl
    · have out : (decide (r.1 ≤ a) && decide (a < r.1 + r.2)) = false := by
        rw [← Bool.decide_and]
        exact decide_eq_false here
      rw [if_neg here, out, Bool.false_or]

theorem Memory.overlay_eq (m : Memory) (rs : List (Nat × Nat)) (img : Memory) :
    m.overlay rs img = img.foldl (fun m e => NMap.set 0 m e.1 e.2) (m.clearAll rs) := rfl

theorem Memory.wf_overlay {m : Memory} (wf : m.wf = true) (rs : List (Nat × Nat)) (img : Memory) : (m.overlay rs img).wf = true :=
  NMap.wf_foldl_set (m.wf_clearAll wf rs) img Prod.fst Prod.snd

theorem Memory.byte_overlay {m img : Memory} {rs : List (Nat × Nat)} (wf : m.wf = true) (wfi : img.wf = true)
    (within : ∀ e ∈ img, inRanges rs e.1 = true) (a : Nat) : (m.overlay rs img).byte a = if inRanges rs a then img.byte a else m.byte a := by
  have mine (e : Nat × Byte) (mem : e ∈ img) (here : e.1 = a) : e.2 = img.byte a := by
    rw [← here]
    exact (NMap.get_of_mem wfi mem).symm
  have written : (m.overlay rs img).byte a = if ∃ e ∈ img, e.1 = a then img.byte a else (m.clearAll rs).byte a :=
    NMap.get_foldl_set_key Prod.fst Prod.snd mine (m.clearAll rs)
  rw [written, Memory.byte_clearAll wf]
  split
  · next listed =>
    obtain ⟨e, mem, rfl⟩ := listed
    rw [if_pos (within e mem)]
  · next missing =>
    have zero : img.byte a = 0 := of_not_not fun some_ => missing ⟨_, NMap.mem_of_get_ne some_, rfl⟩
    rw [zero]

/-! ### Towers that take an image (R426) -/

theorem Cluster.wf_towerImage {c : Cluster} (wf : c.tw.wf = true) : c.towerImage.wf = true := by
  rw [Memory.wf, NMap.wf, Cluster.towerImage]
  refine NMap.wfFrom_flatMap_range (w := 16384) (fun i => ?_) (fun i e mem => ?_) _
  · generalize bankAddr (i / 16) (twBankOf (i % 16) (c.ctl.twSelOf (i / 16) (i % 16))) = base
    have bank : NMap.wfFrom 0 base (c.tw.slice base (base + 16384)) = true :=
      NMap.wfFrom_of_le (NMap.wf_slice wf _ _) fun e mem => by
        simp only [NMap.slice, List.mem_filter, Bool.and_eq_true, decide_eq_true_eq] at mem
        exact mem.2.1
    have moved := NMap.wfFrom_shift (i * 16384) (Nat.le_refl base) bank
    rwa [Nat.sub_self, Nat.add_zero] at moved
  · obtain ⟨x, inside, rfl⟩ := List.mem_map.mp mem
    have high := (List.mem_filter.mp inside).2
    simp only [Bool.and_eq_true, decide_eq_true_eq] at high
    dsimp only
    omega

theorem Cluster.byte_towerImage {c : Cluster} (wf : c.tw.wf = true) {k a : Nat} (hk : k < 64) (ha : a < 262144) :
    c.towerImage.byte (k * 262144 + a) = c.tw.byte (c.twAddr k a) := by
  have cell : (k * 262144 + a) / 262144 = k := by omega
  have byte : (k * 262144 + a) % 262144 = a := by omega
  have member (v : Byte) : (k * 262144 + a, v) ∈ c.towerImage ↔ (c.twAddr k a, v) ∈ c.tw := by
    rw [Cluster.mem_towerImage, cell, byte]
    exact and_iff_right (by omega)
  by_cases zero : c.tw.byte (c.twAddr k a) = 0
  · rw [zero]
    exact of_not_not fun some_ => some_ ((Memory.byte_of_mem wf ((member _).mp (Memory.mem_of_byte_ne some_))).symm.trans zero)
  · exact Memory.byte_of_mem (Cluster.wf_towerImage wf) ((member _).mpr (Memory.mem_of_byte_ne zero))

/-- A bank in use is one of the eighteen, and no two banks in use of a cell are one. -/
theorem Cluster.placed_of_apart {c : Cluster} (apart : ∀ k < 64, ∀ b < 16, c.ctl.twSelOf k b ≠ 3
    ∧ ∀ b' < 16, b' ≠ b → twBankOf b' (c.ctl.twSelOf k b') ≠ twBankOf b (c.ctl.twSelOf k b)) : c.Placed := by
  intro k hk b hb
  obtain ⟨used, others⟩ := apart k hk b hb
  refine ⟨?_, fun b' hb' same => of_not_not fun ne => others b' hb' (Ne.symm ne) same.symm⟩
  have := c.ctl.twSelOf_lt k b
  simp only [twBankOf]
  split <;> omega

/-- The byte of a tower that takes an image is that of the image. -/
theorem Cluster.byte_setTowerImage_of {d : Cluster} {img : Memory} (wf : img.wf = true) (high : ∀ e ∈ img, e.1 < 64 * 262144) (placed : d.Placed)
    {k a : Nat} (hk : k < 64) (ha : a < 262144) : (d.setTowerImage img).tw.byte (d.twAddr k a) = img.byte (k * 262144 + a) := by
  have mine (e : Nat × Byte) (mem : e ∈ img) (here : d.twAddr (e.1 / 262144) (e.1 % 262144) = d.twAddr k a) :
      e.2 = img.byte (k * 262144 + a) := by
    have bound := high e mem
    obtain ⟨cell, byte⟩ := placed.twAddr_inj (by omega) hk (Nat.mod_lt _ (by decide)) ha here
    rw [show k * 262144 + a = e.1 by omega]
    exact (NMap.get_of_mem wf mem).symm
  have used : d.ctl.twSelOf k (a / 2 ^ 14) ≠ 3 := by
    intro h
    have in_ := (placed k hk (a / 2 ^ 14) (by omega)).1
    rw [h, twBankOf, if_neg (by decide)] at in_
    omega
  rw [Cluster.tw_setTowerImage, Memory.byte, NMap.get_foldl_set_key (fun e : Nat × Byte => d.twAddr (e.1 / 262144) (e.1 % 262144)) Prod.snd mine]
  split
  · rfl
  · next missing =>
    refine (Cluster.byte_unusedBanks used ha).trans (Eq.symm (of_not_not fun some_ => missing ⟨_, NMap.mem_of_get_ne some_, ?_⟩))
    have cell : (k * 262144 + a) / 262144 = k := by omega
    have byte : (k * 262144 + a) % 262144 = a := by omega
    rw [cell, byte]

theorem inRanges_imageRanges {v : Nat} (fits : ∀ x ∈ tabTw v, x.1 + x.2 ≤ 2 ^ 18) {k a : Nat} (hk : k < 64) (ha : a < 262144) :
    inRanges (imageRanges v) (k * 262144 + a) = inRanges (tabTw v) a := by
  rw [Bool.eq_iff_iff, inRanges_iff, inRanges_iff]
  simp only [imageRanges, List.mem_flatMap, List.mem_range, List.mem_map]
  constructor
  · rintro ⟨_, ⟨j, hj, r, mem, rfl⟩, low, high⟩
    have := fits r mem
    dsimp only at low high
    have cell : j = k := by omega
    subst cell
    exact ⟨r, mem, by omega, by omega⟩
  · rintro ⟨r, mem, low, high⟩
    exact ⟨_, ⟨k, hk, r, mem, rfl⟩, by dsimp only; omega, by dsimp only; omega⟩

theorem lt_of_inRanges_imageRanges {v p : Nat} (fits : ∀ x ∈ tabTw v, x.1 + x.2 ≤ 2 ^ 18) (within : inRanges (imageRanges v) p = true) :
    p < 64 * 262144 := by
  obtain ⟨_, mem, low, high⟩ := inRanges_iff.mp within
  simp only [imageRanges, List.mem_flatMap, List.mem_range, List.mem_map] at mem
  obtain ⟨j, hj, r, mem, rfl⟩ := mem
  have := fits r mem
  dsimp only at low high
  omega

/-- Towers of which a table's ranges are restored (R426). -/
theorem Cluster.byte_restored {d : Cluster} {tw : Memory} {v : Nat} (wf : d.tw.wf = true) (wft : tw.wf = true)
    (within : ∀ e ∈ tw, inRanges (imageRanges v) e.1 = true) (fits : ∀ x ∈ tabTw v, x.1 + x.2 ≤ 2 ^ 18) (placed : d.Placed) {k a : Nat}
    (hk : k < 64) (ha : a < 262144) :
    (d.setTowerImage (d.towerImage.overlay (imageRanges v) tw)).tw.byte (d.twAddr k a)
      = if inRanges (tabTw v) a then tw.byte (k * 262144 + a) else d.tw.byte (d.twAddr k a) := by
  have image := Cluster.wf_towerImage wf
  have overlaid := Memory.wf_overlay image (imageRanges v) tw
  have high (e : Nat × Byte) (mem : e ∈ d.towerImage.overlay (imageRanges v) tw) : e.1 < 64 * 262144 := by
    by_cases covered : inRanges (imageRanges v) e.1 = true
    · exact lt_of_inRanges_imageRanges fits covered
    · have value := Memory.byte_overlay image wft within e.1
      rw [if_neg covered] at value
      have some_ : d.towerImage.byte e.1 ≠ 0 := by
        rw [← value, Memory.byte_of_mem overlaid mem]
        exact NMap.ne_of_mem overlaid mem
      exact (Cluster.mem_towerImage.mp (Memory.mem_of_byte_ne some_)).1
  rw [Cluster.byte_setTowerImage_of overlaid high placed hk ha, Memory.byte_overlay image wft within, inRanges_imageRanges fits hk ha,
    Cluster.byte_towerImage wf hk ha]

/-! ### The request (R422, R423) -/

section
variable {s : State} {cl : Nat} (running : (s.cl cl).ctl.occ = .running) (clean : (s.cl cl).x.trap = none) (asked : ∃ p ∈ s.disp.pending, p.1 = cl)
include running clean asked

/-- The request as the cluster takes it, before its A-core does. -/
def State.requested (s : State) (cl : Nat) : State := (s.requestServed cl).onCtl cl fun c => { c with preempt := true, occ := .halting }

theorem exec_preemptRequest : exec (.preemptRequest cl) s = .next (if (s.cl cl).a.mode = .t then
      (if (s.cl cl).a.run = .run then s.requested cl else (s.requested cl).freezeA cl)
    else (s.requested cl).onA cl fun a => { a with pend := a.pend ||| 4 }) := by
  have pending : (s.disp.pending.all fun p => p.1 != cl) = false := by
    obtain ⟨p, mem, here⟩ := asked
    exact List.all_eq_false.mpr ⟨p, mem, by simp [here]⟩
  show execPreemptRequest cl s = _
  simp only [execPreemptRequest, pending, running, clean, Option.isSome_none, Bool.false_eq_true, if_false]
  rfl

end

theorem State.cl_requested (s : State) (cl : Nat) :
    (s.requested cl).cl cl = { s.cl cl with ctl := { (s.cl cl).ctl with preempt := true, occ := .halting } } :=
  (s.requestServed cl).cl_onCtl_self cl _

theorem State.pending_requested (s : State) (cl : Nat) : ∀ p ∈ (s.requested cl).disp.pending, p.1 ≠ cl := fun _ mem =>
  bne_iff_ne.mp (List.mem_filter.mp mem).2

theorem SameBytes.requested (s : State) (cl : Nat) : SameBytes s (s.requested cl) := (SameBytes.requestServed s cl).trans (.onCtl _ cl _)

/-! ### The halt (R200, R422) -/

/-- The cluster of which the X-core halts. -/
def Cluster.halted (c : Cluster) (fr fin : Bool) (v : Nat) : Cluster :=
  { c with a := c.a.giveBack c.x.semGot, x := { c.x with run := .halted fr fin v, freeze := none, semGot := none }, ctl := { c.ctl with occ := .saving } }

theorem exec_xHalt_saves {s u : State} {cl a v : Nat} {fr fin : Bool} (halts : s.halting cl = true) (stands : (s.cl cl).a.run = .frozen)
    (clean : (s.cl cl).x.trap = none) (point : (s.cl cl).x.haltPoint = some (fr, fin)) (same : (s.cl cl).vigilSame = true)
    (table : (s.cl cl).x.ckpt = some a) (read : s.tabRead cl a = .got v u) (usable : tabUsable v = true) :
    exec (.xHalt cl) s = .next (u.onCl cl fun c => c.halted fr fin v) := by
  show execXHalt cl s = _
  simp only [execXHalt, halts, stands, clean, point, same, table, read, usable]
  rfl

theorem ACore.sem_giveBack (a : ACore) (k : Nat) : NMap.get 0 (a.giveBack (some k)).sems k = NMap.get 0 a.sems k + 1 := NMap.get_set_self _ _ _

/-! ### The save (R425) -/

theorem State.node?_landRows (s : State) (cl e : Nat) : (s.landRows cl).node? e = s.node? e :=
  List.foldlRecOn _ _ (motive := fun t : State => t.node? e = s.node? e) rfl fun _ ih _ _ => ih

/-- The cluster that a save frees: the commands of its task but for its TLDQs run on, and so do the stores. -/
def Cluster.left (c : Cluster) : Cluster :=
  { c.stop with a := { c.stop.a with
      cmds := c.a.cmds.filter fun k => !(k.ofTask c && k.kind == .tldq),
      stores := c.a.stores.map fun l => if l.late.isNone then { l with late := some (c.ctl.node, c.ctl.task), wins := 0 } else l } }

/-- A node that has not failed takes a suspension record. -/
def Node.suspend (r : Susp) (now : Nat) (n : Node) : Node := if n.failing != 0 then n else { n.waits now with susp := n.susp ++ [r] }

theorem Node.susp_suspend {n : Node} (sound : n.failing = 0) (r : Susp) (now : Nat) : (n.suspend r now).susp = n.susp ++ [r] := by
  simp only [Node.suspend, sound, bne_self_eq_false, Bool.false_eq_true, if_false]

theorem exec_suspensionSave {s : State} {cl v : Nat} {fr fin : Bool} (halted : (s.cl cl).x.run = .halted fr fin v)
    (saving : (s.cl cl).ctl.occ = .saving) (clean : (s.cl cl).a.due = none) (ended : s.accsSaved cl = true) (added : (s.cl cl).arr.passes = [])
    (written : (s.cl cl).arr.drain = none) (arrived : ∀ k ∈ s.taskCmds cl, k.savedAfter cl = false) :
    exec (.suspensionSave cl true) s = .next (((s.landRows cl).setCl cl (s.cl cl).left).onNode (s.cl cl).ctl.node
      (Node.suspend ((s.landRows cl).suspension cl fr v) (s.landRows cl).gtc)) := by
  have none_left : ((s.taskCmds cl).any fun k => k.savedAfter cl) = false := List.any_eq_false.mpr fun k mem => by simp [arrived k mem]
  show execSuspensionSave cl true s = _
  simp only [execSuspensionSave, halted, saving, clean, ended, added, written, none_left]
  rfl

/-! ### The resume (R426-R428) -/

section
variable {c : Cluster} {cl t : Nat} {r : Susp} {fin : Bool} (sound : ∀ q ∈ r.arr.arrayE, q.failed = false)
include sound

theorem Susp.find_failed : r.arr.arrayE.find? Rec.failed = none := List.find?_eq_none.mpr fun q mem => by simp [sound q mem]

theorem Cluster.resume_x : (c.resume cl r fin t).x =
    { r.x with run := if fin then .ended else .run, freeze := none,
               lq := NMap.mapVals [] (fun _ q => renumber r.a.cmds (refillCmds r.cl cl c.a.nextId r.a.cmds) q) r.x.lq } := by
  simp only [Cluster.resume, Cluster.setTowerImage, Susp.find_failed sound]

theorem Cluster.resume_arr : (c.resume cl r fin t).arr = { r.arr with acc := if bit t 94 then r.arr.acc else c.arr.acc } := by
  have kept : (r.arr.arrayE.filter fun q => !q.failed) = r.arr.arrayE := List.filter_eq_self.mpr fun q mem => by simp [sound q mem]
  simp only [Cluster.resume, Cluster.setTowerImage, kept]

end

/-- The towers of the cluster that resumes: its own, with the record's image put over the table's ranges. -/
theorem Cluster.resume_tw (c : Cluster) (cl : Nat) (r : Susp) (fin : Bool) (t : Nat) : ∃ d : Cluster, d.tw = c.tw ∧ d.ctl.remap = c.ctl.remap
    ∧ (c.resume cl r fin t).tw = (d.setTowerImage (d.towerImage.overlay (imageRanges t) r.tw)).tw :=
  ⟨_, rfl, rfl, rfl⟩

theorem slots_renumber (old new : List Cmd) (q : List LSlot) :
    (renumber old new q).map (fun l => (l.ready, l.tile, l.poison)) = q.map fun l => (l.ready, l.tile, l.poison) := by
  rw [renumber, List.map_map]
  refine List.map_congr_left fun l _ => ?_
  simp only [Function.comp]
  split <;> rfl

theorem Cluster.byte_tw_resume {c : Cluster} {r : Susp} {v : Nat} (cl : Nat) (fin : Bool) (wf : c.tw.wf = true) (wfr : r.tw.wf = true)
    (within : ∀ e ∈ r.tw, inRanges (imageRanges v) e.1 = true) (fits : ∀ x ∈ tabTw v, x.1 + x.2 ≤ 2 ^ 18) (placed : c.Placed) {k a : Nat}
    (hk : k < 64) (ha : a < 262144) :
    (c.resume cl r fin v).tw.byte (c.twAddr k a) = if inRanges (tabTw v) a then r.tw.byte (k * 262144 + a) else c.tw.byte (c.twAddr k a) := by
  obtain ⟨d, tw_eq, remap_eq, towers⟩ := c.resume_tw cl r fin v
  have sel (k b : Nat) : d.ctl.twSelOf k b = c.ctl.twSelOf k b := by rw [Ctl.twSelOf, Ctl.twSelOf, remap_eq]
  have addr : d.twAddr k a = c.twAddr k a := by rw [Cluster.twAddr, Cluster.twAddr, sel]
  have placed' : d.Placed := fun k hk b hb => by simpa only [sel] using placed k hk b hb
  rw [towers, ← addr, Cluster.byte_restored (by rw [tw_eq]; exact wf) wfr within fits placed' hk ha, tw_eq]

/-! ### What a resume leaves beside the cluster -/

/-- `t` is `s` but for its poisoned units and the scrubs that are marked overtaken. -/
structure State.Poisons (s t : State) : Prop where
  eq : t = { s with spPoison := t.spPoison, twPoison := t.twPoison, accPoison := t.accPoison, pePoison := t.pePoison, rel := t.rel }

namespace State.Poisons

theorem refl (s : State) : s.Poisons s := ⟨rfl⟩

theorem trans {s t u : State} (h : s.Poisons t) (k : t.Poisons u) : s.Poisons u := ⟨by rw [k.eq, h.eq]⟩

theorem resumeBad (s : State) (cl t : Nat) (bad : List MemUnit) : s.Poisons (s.resumeBad cl t bad) := by
  unfold State.resumeBad
  refine List.foldlRecOn bad _ (motive := s.Poisons) ⟨rfl⟩ fun u ih m _ => ih.trans ?_
  cases m <;> exact ⟨rfl⟩

variable {s t : State} (h : s.Poisons t)
include h

theorem cl (n : Nat) : t.cl n = s.cl n := (congrArg (State.cl · n) h.eq :)
theorem bufs : t.bufs = s.bufs := (congrArg State.bufs h.eq :)
theorem ctx (cid : Nat) : t.ctx cid = s.ctx cid := (congrArg (State.ctx · cid) h.eq :)

end State.Poisons

/-- `t` is `s` but for its buffer entries, live and saved. -/
structure State.Rebinds (s t : State) : Prop where
  eq : t = { s with bufs := t.bufs, ctxs := t.ctxs }

namespace State.Rebinds

theorem refl (s : State) : s.Rebinds s := ⟨rfl⟩

theorem trans {s t u : State} (h : s.Rebinds t) (k : t.Rebinds u) : s.Rebinds u := ⟨by rw [k.eq, h.eq]⟩

/-- An entry that comes back where the live one is FREE. -/
theorem fill (s : State) (k : Nat) (b : Buf) :
    s.Rebinds (if (NMap.get Buf.free s.bufs k).st = 0 then { s with bufs := NMap.set Buf.free s.bufs k b } else s) := by
  split
  · exact ⟨rfl⟩
  · exact refl s

theorem restoreHeld (s : State) (bs : NMap Buf) : s.Rebinds (s.restoreHeld bs) :=
  List.foldlRecOn bs _ (motive := s.Rebinds) (refl s) fun t ih e _ => ih.trans (fill t e.1 e.2)

theorem restoreBufs (s : State) (cid q : Nat) : s.Rebinds (s.restoreBufs cid q) :=
  .trans (List.foldlRecOn _ _ (motive := s.Rebinds) (refl s) fun t ih e _ => ih.trans (fill t e.1 e.2)) ⟨rfl⟩

theorem swapBufs (s : State) (q h p : Nat) : s.Rebinds (s.swapBufs q h p) :=
  List.foldlRecOn _ _ (motive := s.Rebinds) (refl s) fun t ih e _ => ih.trans (by
    dsimp only
    split
    · exact refl t
    · split
      · exact ⟨rfl⟩
      · split <;> exact ⟨rfl⟩)

theorem cl {s t : State} (h : s.Rebinds t) (n : Nat) : t.cl n = s.cl n := (congrArg (State.cl · n) h.eq :)

end State.Rebinds

theorem State.bufs_restoreBufs {s : State} {cid : Nat} (none : (s.ctx cid).savedBufs = []) (q : Nat) : (s.restoreBufs cid q).bufs = s.bufs := by
  simp only [State.restoreBufs, none, List.filter_nil, List.foldl_nil, State.onCtx_bufs]

/-- A buffer entry whose position is `h` names `p`, and the other way round (R426). -/
def Buf.swapped (h p : Nat) (b : Buf) : Buf :=
  if b.st = 0 then b else if b.who = h then { b with who := p } else if b.who = p then { b with who := h } else b

/-- One entry of a quad with its positions swapped. -/
def State.swapBuf (q h p : Nat) (s : State) (i : Nat) : State :=
  let b := s.buf q i
  if b.st = 0 then s
  else if b.who = h then s.setBuf q i { b with who := p }
  else if b.who = p then s.setBuf q i { b with who := h }
  else s

theorem State.buf_setBuf (s : State) (q i j : Nat) (b : Buf) : (s.setBuf q i b).buf q j = if j = i then b else s.buf q j := by
  rw [State.buf, State.bufs_setBuf]
  simp only [bufKey, Nat.add_left_cancel_iff]
  rfl

theorem State.buf_swapBuf (s : State) (q h p i j : Nat) : (s.swapBuf q h p i).buf q j = if j = i then (s.buf q i).swapped h p else s.buf q j := by
  simp only [State.swapBuf, Buf.swapped]
  split
  · split
    · next same => rw [same]
    · rfl
  · split
    · exact s.buf_setBuf q i j _
    · split
      · exact s.buf_setBuf q i j _
      · split
        · next same => rw [same]
        · rfl

theorem State.buf_foldl_swapBuf (s : State) (q h p n j : Nat) :
    ((List.range n).foldl (State.swapBuf q h p) s).buf q j = if j < n then (s.buf q j).swapped h p else s.buf q j := by
  induction n with
  | zero => rfl
  | succ n ih =>
    rw [List.range_succ, List.foldl_append, List.foldl_cons, List.foldl_nil, State.buf_swapBuf]
    by_cases here : j = n
    · subst here
      rw [if_pos rfl, if_pos (Nat.lt_succ_self j), ih, if_neg (Nat.lt_irrefl j)]
    · rw [if_neg here, ih]
      exact if_congr (by omega) rfl rfl

theorem State.buf_swapBufs (s : State) (q h p : Nat) {j : Nat} (hj : j < 64) : (s.swapBufs q h p).buf q j = (s.buf q j).swapped h p :=
  (s.buf_foldl_swapBuf q h p 64 j).trans (if_pos hj)

/-! ### The state that a resume leaves -/

theorem State.onNode_of_some {s : State} {e : Nat} {n : Node} (found : s.node? e = some n) (f : Node → Node) :
    s.onNode e f = { s with disp := { s.disp with nodes := NMap.set none s.disp.nodes e (some (f n)) } } := by
  simp only [State.onNode, found]

/-- The record's cluster and poison are back; its buffer entries are not yet. -/
def State.broughtBack (s : State) (cl : Nat) (r : Susp) (fin : Bool) (v : Nat) : State :=
  ((((s.onNode (s.cl cl).ctl.node fun n => { n with susp := n.susp.erase r }).keepFlights cl r.x).dropFetches fun o =>
    o.fetchOf cl false || o.fetchOf cl true).setCl cl ((s.cl cl).resume cl r fin v)).resumeBad cl v r.bad

/-- The state that a resume leaves. -/
def State.resumed (s : State) (cl : Nat) (r : Susp) (fin : Bool) (v : Nat) : State :=
  let t := (s.broughtBack cl r fin v).restoreBufs (s.cl cl).ctl.cid (quadOf cl)
  if quadOf cl = quadOf r.cl then (t.restoreHeld r.bufs).swapBufs (quadOf cl) (quadPos r.cl) (quadPos cl) else t

section
variable {s : State} {cl v : Nat} {n : Node} {r : Susp} {fr fin : Bool} (found : s.node? (s.cl cl).ctl.node = some n)
include found

theorem exec_taskResume (restoring : (s.cl cl).ctl.occ = .restoring) (suspended : n.susp.find? (fun r => r.task == (s.cl cl).ctl.task) = some r)
    (halted : r.x.run = .halted fr fin v) : exec (.taskResume cl) s = .next (s.resumed cl r fin v) := by
  show execTaskResume cl s = _
  simp only [execTaskResume, restoring, found, Option.bind_some, suspended, halted]
  rfl

theorem State.broughtBack_spec : (s.broughtBack cl r fin v).cl cl = (s.cl cl).resume cl r fin v ∧ (s.broughtBack cl r fin v).bufs = s.bufs
    ∧ ∀ cid, (s.broughtBack cl r fin v).ctx cid = s.ctx cid := by
  rw [State.broughtBack, State.onNode_of_some found]
  refine ⟨(State.Poisons.resumeBad _ cl v r.bad).cl cl |>.trans (State.cl_setCl_self _ cl _), (State.Poisons.resumeBad _ cl v r.bad).bufs, fun cid => ?_⟩
  exact (State.Poisons.resumeBad _ cl v r.bad).ctx cid

theorem State.cl_resumed : (s.resumed cl r fin v).cl cl = (s.cl cl).resume cl r fin v := by
  refine Eq.trans ?_ (State.broughtBack_spec found).1
  simp only [State.resumed]
  split
  · exact (((State.Rebinds.restoreBufs _ _ _).trans (.restoreHeld _ _)).trans (.swapBufs _ _ _ _)).cl cl
  · exact (State.Rebinds.restoreBufs _ _ _).cl cl

variable (none_saved : (s.ctx (s.cl cl).ctl.cid).savedBufs = [])
include none_saved

theorem State.bufs_broughtBack_restoreBufs :
    ((s.broughtBack cl r fin v).restoreBufs (s.cl cl).ctl.cid (quadOf cl)).bufs = s.bufs := by
  obtain ⟨-, bufs, ctx⟩ := State.broughtBack_spec (r := r) (fin := fin) (v := v) found
  exact (State.bufs_restoreBufs (by rw [ctx]; exact none_saved) _).trans bufs

theorem State.bufs_resumed_apart (apart : quadOf cl ≠ quadOf r.cl) : (s.resumed cl r fin v).bufs = s.bufs := by
  simp only [State.resumed, if_neg apart]
  exact State.bufs_broughtBack_restoreBufs found none_saved

theorem State.buf_resumed (same : quadOf cl = quadOf r.cl) (none_held : r.bufs = []) {i : Nat} (hi : i < 64) :
    (s.resumed cl r fin v).buf (quadOf cl) i = (s.buf (quadOf cl) i).swapped (quadPos r.cl) (quadPos cl) := by
  simp only [State.resumed, if_pos same, none_held]
  refine (State.buf_swapBufs _ _ _ _ hi).trans (congrArg (Buf.swapped _ _) ?_)
  exact congrArg (NMap.get Buf.free · _) (State.bufs_broughtBack_restoreBufs found none_saved)

end

/-! ### The parts of the statement -/

/-- A request that a cluster takes (R422, R423). -/
theorem request_halts {s : State} {cl : Nat} (running : (s.cl cl).ctl.occ = .running) (clean : (s.cl cl).x.trap = none)
    (asked : ∃ p ∈ s.disp.pending, p.1 = cl) :
    ∃ t, exec (.preemptRequest cl) s = .next t ∧ (t.cl cl).ctl.occ = .halting ∧ (t.cl cl).ctl.preempt = true ∧ (∀ p ∈ t.disp.pending, p.1 ≠ cl)
      ∧ ((s.cl cl).a.mode = .t → (s.cl cl).a.run = .run → (t.cl cl).a = (s.cl cl).a)
      ∧ ((s.cl cl).a.mode = .t → (s.cl cl).a.run ≠ .run → (t.cl cl).a.run = .frozen ∧ (t.cl cl).a.pc = (s.cl cl).a.pc)
      ∧ ((s.cl cl).a.mode = .s → (t.cl cl).a.run = (s.cl cl).a.run ∧ (t.cl cl).a.pend = (s.cl cl).a.pend ||| 4) ∧ SameBytes s t := by
  have step := exec_preemptRequest running clean asked
  have pending := s.pending_requested cl
  cases mode : (s.cl cl).a.mode with
  | t =>
    rw [mode, if_pos rfl] at step
    by_cases runs : (s.cl cl).a.run = .run
    · rw [if_pos runs] at step
      refine ⟨_, step, ?_⟩
      rw [State.cl_requested]
      exact ⟨rfl, rfl, pending, fun _ _ => rfl, fun _ not => absurd runs not, fun m => (by cases m), SameBytes.requested s cl⟩
    · rw [if_neg runs] at step
      refine ⟨_, step, ?_⟩
      rw [State.freezeA, State.cl_onA_self, State.cl_requested]
      exact ⟨rfl, rfl, pending, fun _ yes => absurd yes runs, fun _ _ => ⟨rfl, rfl⟩, fun m => (by cases m), (SameBytes.requested s cl).trans (.onA _ cl _)⟩
  | s =>
    rw [mode, if_neg (by decide)] at step
    refine ⟨_, step, ?_⟩
    rw [State.cl_onA_self, State.cl_requested]
    exact ⟨rfl, rfl, pending, fun m => (by cases m), fun m => (by cases m), fun _ => ⟨rfl, rfl⟩, (SameBytes.requested s cl).trans (.onA _ cl _)⟩

/-- Settles O38, transition by transition. -/
theorem preemption : Obligations.Preemption := by
  intro cl s c
  refine ⟨request_halts, ?halt, ?save, ?resume⟩
  case halt =>
    intro fr fin a v u halts stands clean point same table read usable
    refine ⟨_, exec_xHalt_saves halts stands clean point same table read usable, ?_⟩
    have here := u.cl_onCl_self cl fun c => c.halted fr fin v
    rw [here]
    refine ⟨rfl, rfl, rfl, fun k got => ⟨rfl, ?_⟩, rfl, rfl, .onCl u cl _ rfl rfl⟩
    rw [State.sem, here, Cluster.halted, got]
    exact ACore.sem_giveBack _ k
  case save =>
    intro fr fin v n halted saving clean ended added written arrived found sound
    have step := exec_suspensionSave halted saving clean ended added written arrived
    have found' : ((s.landRows cl).setCl cl c.left).node? c.ctl.node = some n := (s.node?_landRows cl _).trans found
    refine ⟨_, _, step, ?_, Node.susp_suspend sound _ (s.landRows cl).gtc, ?_⟩
    · rw [State.onNode_of_some found']
      exact NMap.get_set_self _ _ _
    · rw [State.cl_onNode, State.cl_setCl_self]
      exact ⟨rfl, rfl, rfl⟩
  case resume =>
    intro n r fr fin v restoring found suspended halted sound
    refine ⟨_, exec_taskResume found restoring suspended halted, ?_⟩
    intro d q at_
    have d_eq : d = c.resume cl r fin v := State.cl_resumed found
    clear_value d
    subst d_eq
    rw [Cluster.resume_x sound, Cluster.resume_arr sound]
    refine ⟨rfl, rfl, rfl, rfl, rfl, rfl, rfl, rfl, rfl, rfl, rfl, rfl, rfl, rfl, rfl, rfl, rfl, rfl, rfl, rfl, rfl, rfl, rfl, rfl, rfl, rfl, rfl, rfl,
      fun k => ?lq, rfl, rfl, rfl, rfl, rfl, rfl, rfl, rfl, rfl, rfl, rfl, rfl, ?acc, rfl, rfl, rfl, rfl, ?sp, ?tw, ?bufs⟩
    case lq =>
      refine (congrArg (List.map _) (NMap.get_mapVals r.x.lq _ (fun _ => rfl) k)).trans ?_
      exact slots_renumber _ _ _
    case acc => rfl
    case sp => exact fun wf wfr within a => Memory.byte_overlay wf wfr within a
    case tw =>
      intro wf wfr within fits apart k hk a ha
      exact Cluster.byte_tw_resume cl fin wf wfr within fits (Cluster.placed_of_apart apart) hk ha
    case bufs =>
      intro none_saved none_held
      refine ⟨State.bufs_resumed_apart found none_saved, fun same i hi => ?_⟩
      have swapped := State.buf_resumed (fin := fin) (v := v) found none_saved same none_held hi
      exact swapped

end Sys2Proof.Machine
end
